-- ==== Sys2Proof/Word.lean ====
section
/-! DEFINITION. The words of the AK7340 and the one form in which the model holds sparse data. -/

namespace Sys2Proof

/-- A byte of memory (R10: every multi-byte value is little-endian). -/
abbrev Byte := BitVec 8

/-- A 32-bit word: a lane, a completion counter, an event counter, an epoch. -/
abbrev W32 := BitVec 32

/-- A 64-bit word: an instruction, a scalar or address register, a register slot. -/
abbrev W64 := BitVec 64

/-- Sparse data by key: a list of (key, value) pairs, kept with keys strictly rising and no value equal to
what an unlisted key reads as (`mwf`, in `Machine/Map.lean`). -/
abbrev Map (α : Type) := List (Nat × α)

end Sys2Proof
end

