-- ==== Sys2Proof/Syntax.lean ====
section
/-! DEFINITION. The commands of the block: one constructor per row of spec/opcode_table.json, with the operands that
come from outside the module (who, where, and what the outside world delivers with the event). -/

namespace Sys2Proof

/-- The kinds of remote operation (R49). -/
inductive RemKind where
  | put | putS | putF | get | aaddI32 | aaddF32 | aaddBf16 | faddI32 | faddI64
  deriving DecidableEq, Repr

/-- A remote operation as it crosses a link (R49): what it does, at which global address, with which bytes.
`len` is the byte length of the target range, `tctr` the target counter of a PUT.S. -/
structure NetOp where
  kind : RemKind
  addr : W64
  data : List Byte
  len  : Nat
  tctr : Nat
  srcModule : Nat
  srcStall  : Nat
  srcId     : Nat
  deriving DecidableEq, Repr

/-- An error in a line or byte of a code-protected memory (R226, R340, R361, R509). The scrub commands carry those that
have come about in their line or unit, by byte of it: of an SRAM byte one flipped bit (correctable) or two, of a DRAM line
or a loft unit an error in the symbol or byte named, whatever the kind. -/
inductive ErrKind where
  | correctable | uncorrectable | poisoned
  deriving DecidableEq, Repr

/-- The memory a groom pass visits (R350). -/
inductive GroomLine where
  /-- A DRAM line: stack and local line index. -/
  | dram (stack line : Nat)
  /-- A line of a stall's buffer: stall, buffer (0 trough, 1 bin, 2 manger, 3 routine store, 4 side store), line index. -/
  | sram (stall buffer line : Nat)
  /-- A bank's active set in the correction store: stall, and 2·physical crib + bank; errors arise by value of the set, the
  offset of column c of group g at 2,080·g + c, the gain of column c at 33,280 + c. -/
  | correction (stall bank : Nat)
  /-- A line of the gate-die SRAM. -/
  | gate (line : Nat)
  deriving DecidableEq, Repr

/-- A weak slice found by program-and-verify (R80): its row, its column (2,048 and above: a reference column) and the slice
value it reads as, in thousandths of a level. -/
structure WeakSlice where
  row : Nat
  col : Nat
  measured : Int
  deriving DecidableEq, Repr

/-- A weak-slice entry (R265). -/
structure WeakEntry where
  row : Nat
  col : Nat
  delta : Int
  deriving DecidableEq, Repr

/-- A correction set of a bank (R98): offsets by 2,080·group + column, gains by column; unlisted offsets are 0 and
unlisted gains 0x8000. -/
structure Corr where
  off : Map Int
  gain : Map Nat
  deriving DecidableEq, Repr

namespace Machine

/-! ### Data that a module's state and the messages between modules share -/

/-- A pin entry (R270, R282). -/
structure Pin where
  crib : Nat
  bank : Nat
  row : Nat
  line : Nat
  deriving DecidableEq, Repr

/-- Bank states of R85. -/
inductive BankState where
  | empty | loading | ready | live | stale
  deriving DecidableEq, Repr

/-- One entry of a page list (R299): page number, NONE (0xFFFF_FFFE) or EVICTED (0xFFFF_FFFF). -/
structure Entry where
  page : W32
  prev : W32
  changed : W32
  score : W32
  deriving DecidableEq, Repr

/-- One page list (R299). -/
structure PageList where
  gen : W32
  length : Nat
  entries : List Entry
  /-- Its LENGTH has changed and its pages are still to be allocated (R318). -/
  due : Bool
  deriving DecidableEq, Repr

/-- An open or closing sequence: its context record (R298) and page lists. -/
structure Seq where
  owner : Nat
  closing : Bool
  die : Nat
  layers : Nat
  hKv : Nat
  hQ : Nat
  dim : Nat
  kvFmt : Nat
  qFmt : Nat
  tpLog2 : Nat
  headroom : Nat
  maxLen : Nat
  budget : Nat
  window : Nat
  decay : W32
  adapter : Nat
  pubFlag : Bool
  lists : Nat
  stride : Nat
  reserve : Nat
  nameSpace : List Byte
  chain : Nat
  keyed : Nat
  /-- Chain values of the keyed blocks, block 0 first (R321). -/
  chains : List Nat
  /-- Token ids keyed since the last whole block (R458). -/
  toks : List Byte
  /-- Pages that a PREFIX_LOOKUP attached (R326). -/
  attached : Nat
  pl : List PageList
  deriving DecidableEq, Repr

/-- What a job still has to do once the standby has performed its mirrored writes up to number n (R310, R495): after its
append, whose reads may have failed, its LENGTH and its attention, with the residue verdict of its finish; after these, its
status tile. -/
inductive JobHold where
  | append (n : Nat) (bad residue : Bool)
  | status (n : Nat) (tile : List Byte)
  deriving DecidableEq, Repr

/-- An attention job (R306): its 64 descriptor bytes, its stall, its snapshot once started (R303), whether a read of
its context record or page list has failed (R316), and what it waits for once it is finishing. -/
structure Job where
  id : Nat
  die : Nat
  stall : Nat
  desc : List Byte
  epoch : W32
  started : Bool
  seq : Nat
  layer : Nat
  gen : W32
  len : Nat
  memErr : Bool
  hold : Option JobHold
  deriving DecidableEq, Repr

/-- A held edit batch (R301, R305): the entries it sets and, for a prefix attachment, the new LENGTH. -/
structure Edit where
  id : Nat
  seq : Nat
  layer : Nat
  sets : List (Nat × W32)
  newLen : Option Nat
  deriving DecidableEq, Repr

/-- A page removed by an edit, waiting for the generation before the edit to retire (R304). -/
structure Release where
  seq : Nat
  layer : Nat
  gen : W32
  die : Nat
  page : W32
  deriving DecidableEq, Repr

/-- A row of the prefix table (R323) with the pages its ROW names; `used` orders matches for R327. -/
structure Prefix where
  bucket : Nat
  slot : Nat
  key : Nat
  check : Nat
  refs : Nat
  die : Nat
  tpLog2 : Nat
  layers : Nat
  page : Nat
  /-- ROW: the space 0x5 offset of its page numbers, and the page numbers. -/
  row : Nat
  rows : List W32
  parent : Option Nat
  used : Nat
  deriving DecidableEq, Repr

/-- The attention engines and sequence memory. -/
structure Attn where
  seqs : Map (Option Seq)
  jobs : List Job
  edits : List Edit
  releases : List Release
  /-- Pages not in the pool, by die·2²⁴ + page number. -/
  taken : Map Bool
  prefixes : List Prefix
  /-- Lists (sequence, layer) whose allocation waits for pages (R318). -/
  poolWait : List (Nat × Nat)
  /-- The model's own count of prefix matches, which orders them for R327. -/
  clock : Nat
  /-- The stall whose job an engine started last (R328), by die; unlisted: the highest of the die. -/
  turn : Map Nat
  deriving DecidableEq, Repr

/-- States of a model record (R391). -/
inductive ModelState where
  | staging | staged | active | retiring | failed
  deriving DecidableEq, Repr

/-- A placement of a manifest (R374). -/
structure Placement where
  index : Nat
  shard : Nat
  srcFmt : Nat
  dstFmt : Nat
  transpose : Bool
  srcOffset : Nat
  srcStride : Nat
  rows : Nat
  cols : Nat
  module : Nat
  stall : Nat
  crib : Nat
  bank : Nat
  group : Nat
  scaleDest : W64
  srcScale : Nat
  pins : List (Nat × Nat)
  /-- Once its scale group has begun (R397): σ of each output as FP32 bits, and Δ of a W2 column as numerator and
  denominator (R381). -/
  scaled : Option (List (Nat × Nat × Nat))
  /-- It has reached step 2 of R384. -/
  claimed : Bool
  done : Bool
  deriving DecidableEq, Repr

/-- A model record. -/
structure Model where
  id : Nat
  state : ModelState
  modelId : Nat
  digest : Nat
  placements : List Placement
  /-- An activation or retirement that names it is in progress (R619). -/
  busy : Bool
  /-- Of a Failed record: the completion that carries the result, as its ring and its number there (R391). -/
  reply : Option (Nat × Nat)
  deriving DecidableEq, Repr

/-- A loaded adapter (R410): range in the adapter area and base model id. -/
structure Adapter where
  id : Nat
  base : Nat
  len : Nat
  model : Nat
  deriving DecidableEq, Repr

/-- An event record (R448), before PHASE and OVERFLOW. -/
structure Event where
  code : Nat
  function : Nat
  seqno : W32
  uptime : W64
  detail0 : W64
  detail1 : W32
  module : Nat
  deriving DecidableEq, Repr

/-- The settings an epoch carries for this module (R483). Live banks and defaults are keyed by crib index:
(16·stall + crib)·2 + bank, and 16·stall + crib. -/
structure Settings where
  power : Nat
  live : Map Bool
  dflt : Map (Option Bool)
  factory : Bool
  deriving DecidableEq, Repr

/-- States of a binding (R494). -/
inductive TwinState where
  | unbound | copying | inStep | lost | serving
  deriving DecidableEq, Repr

/-- A binding as the lead knows it (R492): protected index, standby entry, state, and the TWIN_BIND that waits for it. -/
structure Binding where
  index : Nat
  entry : Nat
  state : TwinState
  cmd : Option Nat
  deriving DecidableEq, Repr

/-- A bank as the protected module of a binding with MODELS sends it (R497): its key by crib index, format, tag, state, image, pin entries
by number, and column scales with their place. -/
structure TwinBank where
  key : Nat
  format : Nat
  tag : BitVec 256
  state : BankState
  image : Map Byte
  pins : List (Nat × Pin)
  scales : List (W64 × List Byte)
  deriving DecidableEq, Repr

/-- Derier's state that a binding mirrors (R492): model records, adapters, keys, the vet bundle version, the newest epoch with
the protected module's settings; the sequences in use, with SEQUENCES whole, with their lists and prefixes; with MODELS the
bank states and tags; and the bindings that a lead knows (log 40). -/
structure TwinData where
  models : List Model
  adapters : List Adapter
  keys : Map (Option (List Byte))
  vetVersion : Nat
  requested : W32
  set : Settings
  /-- The newest complete epoch, and what a lead knows of modules and links, for its standby (R503). -/
  complete : W32
  unreachable : List Nat
  away : List (Nat × W32)
  downs : List (Nat × Nat)
  attn : Attn
  /-- Index key, state and tag of a bank. -/
  states : List (Nat × BankState × BitVec 256)
  bindings : List Binding
  deriving DecidableEq, Repr

end Machine

/-- What an ADAPTER_LOAD's stage carries (R409, R410, R452): the adapter's id, where its bytes go on a module, and the entries
of its copy table. -/
structure AdapterLoad where
  id : Nat
  base : Nat
  copies : List (List Byte)
  deriving DecidableEq, Repr

/-- A stage that a module passes to the next one of the chain (R392, R399): the record id, the command's choices, the key
table at acceptance (R452) and the manifest. -/
structure StageOffer where
  model : Nat
  source : Nat
  store : Bool
  reuse : Bool
  keys : Map (Option (List Byte))
  manifest : List Byte
  /-- The end that sent it: shards come from there too. -/
  sender : Nat
  adapter : Option AdapterLoad
  deriving DecidableEq, Repr

/-- An epoch request as the lead sends it (R478, R483, R484, R501): the module whose power limit or calibration set changes
and their new values, the model records that it activates and retires, whether no bank is Live in it any more, the index and
the standby entry of a takeover, and the fits of a REFIT by bank key (R572). -/
structure EpochOffer where
  target : Nat
  power : Option Nat
  factory : Option Bool
  activate : Option Nat
  retire : Option Nat
  noBanks : Bool
  takeover : Option (Nat × Nat)
  refit : Bool
  fits : List (Nat × Corr)
  deriving DecidableEq, Repr

/-- What one module's Derier, feed or controller tells another's. The first four groups pass between lead and members; the
last passes over a twin link. Where a row of the operation table takes the message, the row's operands carry it. -/
inductive Message where
  -- commands and events (R437, R443, R445, R447, R449, R464, R503)
  /-- A forwarded command: the lead's id, its function, descriptor, data and epoch. -/
  | command (cid fn : Nat) (desc : List Byte) (data : Option (List (List Byte))) (epoch : W32)
  | answer (cid status result value0 value1 : Nat) (data : List Byte)
  | stop (cid reason : Nat)
  | resetFn (fn reason : Nat)
  /-- A fetched command of the lead, with its epoch, names stalls there (R457); and it does so no more. -/
  | hold (cid : Nat) (epoch : W32) (stalls : List Nat)
  | unhold (cid : Nat)
  | stopAll
  | event (cls : Nat) (e : Machine.Event)
  -- stages (R392, R394, R397, R399, R401, R403)
  | stage (o : StageOffer)
  | shard (model index : Nat) (bytes : List Byte)
  | shardRequest (model index : Nat)
  | shardAck (model index place : Nat)
  | stageChecked (model : Nat)
  | stageGo (model : Nat)
  | stageReport (model result : Nat)
  /-- The host has read the result of a failed stage. -/
  | recordFreed (model : Nat)
  | stageVerdict (model result : Nat)
  /-- An activation of the record has been accepted. -/
  | activating (model : Nat)
  -- epochs (R484 to R489)
  | epochRequest (num : W32) (o : EpochOffer)
  | epochReport (num : W32)
  | epochComplete (num : W32)
  | epochRetired (num : W32)
  -- links, routes and takeovers (R471, R474, R494, R499, R501, R503)
  | portDown (port : Nat)
  | portUp (port : Nat)
  | route (port : Nat)
  | taken (index chain entry : Nat)
  | leadGone
  | twinInStep
  | twinLost
  | twinOver
  -- over a twin link (R492, R495, R497)
  | twinCopy (mirror : W32) (dram loft : List (Nat × Byte)) (banks : List Machine.TwinBank)
  | twinState (x : Machine.TwinData)
  | twinWrite (n : Nat) (loft : Bool) (obs : List (Nat × Byte))
  | twinDone (n : Nat)
  | twinReady
  deriving DecidableEq, Repr

/-- What a link packet carries above its header (R468, R473, R445). -/
inductive PacketBody where
  /-- A piece, of at most 512 bytes of data, of a module's operation on its way to the module of its address. -/
  | request (op : NetOp) (piece : Nat)
  /-- A piece of the notice that an operation of module `op.srcModule` was performed, with the bytes it returns. -/
  | reply (op : NetOp) (piece : Nat) (data : List Byte)
  /-- A relay returns an operation to its source: its destination is unreachable (R474). -/
  | returned (op : NetOp)
  /-- Acknowledgment of every packet up to a sequence number (R468). -/
  | ack (seq : Nat)
  /-- A request for replay from a sequence number (R468). -/
  | replay (seq : Nat)
  /-- A message from one end to another; an end is a module index, or 64 plus a standby entry. -/
  | message (dst src : Nat) (m : Message)
  /-- A piece, of at most 512 bytes, of a message of the number `no` of its sender; `m` is the message with zeros for the bytes
  that its pieces carry. -/
  | piece (dst src no k : Nat) (m : Message) (data : List Byte)
  /-- A relay returns a message to its source: its destination is unreachable (R474). -/
  | undelivered (dst src : Nat)
  deriving DecidableEq, Repr

/-- A packet as received at a port: sequence number, CRC verdict, FEC verdict, how many codewords the FEC has corrected at the
port since the packet before, those of idle and of Training among them (R506), contents. -/
structure Packet where
  seq : Nat
  crcOk : Bool
  fecOk : Bool
  fecCorrected : Nat
  body : PacketBody
  deriving DecidableEq, Repr

/-- What the outside world delivers during power-up (R589, R591, R603). -/
structure PowerUpFacts where
  markedImageOk : Bool
  otherImageOk : Bool
  memoryOk : Bool
  /-- The farrier calibrates the ADC, the corrections and the PLLs (step 5). -/
  calibrationOk : Bool
  /-- The stable dies come up and their banks are fitted (step 6). -/
  banksOk : Bool
  /-- STRAP_LINK0, STRAP_LINK1, STRAP_ALT and STRAP_MGMT_OFF, from bit 0. -/
  straps : BitVec 4
  /-- Power-up fits of banks, by bank key (R130): none when outside the limits of R123. -/
  fits : List (Nat × Option Corr)
  /-- Sense corrections (offset, gain) by channel (R567). -/
  senseCorr : List (Nat × BitVec 16 × BitVec 16)
  /-- Temperature-compensation entries (R570) of the four stable dies, the gate die and the photonic dies. -/
  entries : List Nat
  deriving DecidableEq, Repr

/-- What a sense window's end delivers beside the module's own accumulators (R566, R575, R581). -/
structure WindowFacts where
  /-- Temperature reports of the eight DRAM stacks, in 1/128 °C. -/
  dramTemps : List Int
  deriving DecidableEq, Repr

/-- A network frame's facts for ARP and ICMP (R545): the address asked for, and the payload echoed. -/
structure Frame where
  target : W32
  payload : List Byte
  deriving DecidableEq, Repr

/-- The commands: one per row of the operation table. -/
inductive Instr where
  -- instructions of a stall's sequencer, fetched from its routine store at its program counter
  | cribMvm (st : Nat) | cribBank (st : Nat) | cribProbe (st : Nat)
  | vadd (st : Nat) | vmul (st : Nat) | vfma (st : Nat) | vmax (st : Nat) | vexp (st : Nat) | vrsq (st : Nat)
  | vcvt (st : Nat) | vred (st : Nat) | vsel (st : Nat) | vcmp (st : Nat) | vld (st : Nat) | vst (st : Nat)
  | mov (st : Nat) | ld (st : Nat) | st (st : Nat) | copy (st : Nat) | fill (st : Nat)
  | ldW (st : Nat) | stF (st : Nat) | slotSet (st : Nat) | slotClr (st : Nat)
  | put (st : Nat) | putS (st : Nat) | putF (st : Nat) | get (st : Nat)
  | aaddI32 (st : Nat) | aaddF32 (st : Nat) | aaddBf16 (st : Nat) | faddI32 (st : Nat) | faddI64 (st : Nat)
  | fenceD (st : Nat) | fenceY (st : Nat) | fenceP (st : Nat) | waitc (st : Nat) | attnGo (st : Nat)
  | b (st : Nat) | bc (st : Nat) | loop (st : Nat) | call (st : Nat) | ret (st : Nat)
  | yield (st : Nat) | epoch (st : Nat) | epochWaitEnd (st : Nat) | halt (st : Nat)
  -- events of a stall and of its units
  | routineEnd (st : Nat) | drainEnd (st : Nat) | idleAdopt (st : Nat)
  | routineStart (cid st : Nat)
  | cribStart (st op tick : Nat)
  | cribBinWrite (st op waited : Nat)
  | sideFetchReturn (st op which : Nat)
  | residue (st idx : Nat) | lockstep (st idx : Nat) | watchdog (st : Nat) | boundaryLate (st : Nat)
  | slotJam (id : Nat)
  -- remote operations at their homes
  | putPerform (id : Nat) | putFArrive (id : Nat) | holdResend (src dst : Nat)
  | getPerform (id : Nat) | atomicPerform (id : Nat) | remoteComplete (id : Nat)
  -- memory
  | groomScrub (line : GroomLine) (arisen : List (Nat × ErrKind)) (lastOfPass : Bool)
  | loftScrub (stack unit : Nat) (arisen : List (Nat × ErrKind))
  -- farrier
  | referenceRead (st crib bank tick : Nat)
  | refit (st crib bank : Nat) (corr : Corr)
  -- attention
  | attnJobStart (die id : Nat) | attnJobFinish (die id : Nat) (residue : Bool)
  | editBatchApply (id : Nat) | pageAllocate (seq layer : Nat) | prefixInsert (seq page : Nat)
  -- feed
  | stageStart (offer : Option StageOffer)
  | shardReceived (shard : Nat) (bytes : List Byte)
  | shardRefetch (shard : Nat)
  | shardTimeout
  | bankProgramStart (placement : Nat)
  | bankProgramDone (bank : Nat) (weak : List WeakSlice)
  | stageResult (module result : Nat)
  -- Derier commands, each acting on the fetched command `cid`
  | identify (cid : Nat) | attest (cid : Nat) | ringCreate (cid : Nat) (failAt : Option Nat) | ringDestroy (cid : Nat)
  | modelStage (cid : Nat) | keyAdd (cid : Nat) | keyRemove (cid : Nat)
  | modelActivate (cid : Nat) (othersMatch : Bool) | modelRetire (cid : Nat)
  | adapterLoad (cid : Nat) (othersFit : Bool)
  | adapterUnload (cid : Nat) (usedElsewhere : Bool)
  | seqOpen (cid : Nat) | seqClose (cid : Nat) | prefixLookup (cid : Nat)
  | submit (cid : Nat) | submitAbort (cid : Nat) | submitComplete (cid : Nat)
  | decodeStep (cid : Nat) | solve (cid : Nat)
  | modeSetPower (cid : Nat) | modeSetCalset (cid : Nat) | modeSetFeed (cid : Nat) | modeSetGroom (cid : Nat)
  | modeSetQuota (cid : Nat) | telemetryRead (cid : Nat) | telemetryReadClear (cid : Nat)
  | vetLoad (cid : Nat) | fwUpdateStore (cid : Nat) | fwUpdateActivate (cid : Nat)
  | paddockJoin (cid : Nat) (linksUp busy : Bool) (newest : List W32)
  | paddockLeave (cid : Nat) (busy : Bool)
  | twinBind (cid : Nat) (linkUp layoutSame stallsOk : Bool) | twinUnbind (cid : Nat)
  | forwardedCommand (lead fn : Nat) (desc : List Byte) (data : Option (List (List Byte))) (epoch : W32)
  -- host interface
  | commandFetch (ring : Nat) (desc : Option (List Byte)) (heads : List (List Byte)) (data : Option (List (List Byte)))
      (resultOk : Bool)
  | doorbell (fn ring : Nat) (value : W64) | coalesceTimeout (ring : Nat)
  | mboxDoorbell (value : W64) (heads : List (List Byte)) (data : Option (List (List Byte))) (resultOk : Bool) | hsGo (value : W64)
  | bar2Read (offset len : Nat) | bar2Write (offset : Nat) (data : List Byte) | bar2Resize (log2 : Nat)
  | registerWrite (fn offset width : Nat) (value : W64)
  | senseReq (value : W32) (firmware : Bool) | sensePeakClr (value : W64)
  | mgmtSettingWrite (offset width : Nat) (value : W64)
  | functionLevelReset (fn : Nat) | hotReset | perstN (level : Bool)
  -- optical ports and paddock
  | codewordLock (port : Nat) | trainingExchange (port peerPort : Nat) (serial : W64)
  | trainingTimeout (port : Nat) | linkDown (port : Nat) | linkUp (port : Nat)
  | packetReceive (port : Nat) (pkt : Packet) | replayRequest (port seq : Nat)
  | leadUnreachable | leadTakeover | leadFenced | twinCopyDone
  | epochRequest | epochPost (epoch : W32) (offer : Option EpochOffer) | stallEpochReport (st : Nat)
  | moduleEpochReport (module : Nat) (epoch : W32) | epochRetire (epoch : W32) (elsewhere : List Nat) | epochSlow (epoch : W32) (unit : Nat)
  -- health
  | sampleCheck (st crib : Nat) (residueOk : Bool)
  | vetProbe (st crib bank tick : Nat) (residueOk : Bool)
  | vetRun (st : Nat) (failed : List Nat)
  | watchPeriod (results : List (Nat × List (Nat × Nat)))
  | derierMismatch (pair : Nat) (recent : Nat) | derierRestart (pair : Nat)
  | heartbeat | eventReport | mgmtEventDrop
  | pushFragment (port : Nat) (bytes : List Byte) (fresh : Bool)
  | arpRequest (frame : Frame) | icmpEcho (frame : Frame)
  -- sense, power, clocks
  | senseScan | senseConversionStart | senseConversionEnd (raw : Int) | calSweep
  | senseWindowEnd (facts : WindowFacts)
  | pllUnlock (pll : Nat) | inputOutOfRange (millivolts : Nat) (micros : Nat)
  | resetNAssert (nanos : Nat) | resetNRelease | powerUp (facts : PowerUpFacts)
  -- rows after the first ordering of the table
  | fetchFault (st : Nat) (pathError : Bool)
  | registerRead (fn offset width : Nat)
  | hostLinkRetrained | twinLost | joinLinkTimeout
  deriving DecidableEq, Repr

end Sys2Proof
end

