-- ==== Sys2Proof/Decode.lean ====
section
/-! DEFINITION. The decoding of the operation table: its rows give a command no bits (spec/opcode_table.json has no
fields), so no word spells a command. The decoding of a routine's instruction words (R144) is `Machine/Operands.lean`. -/

namespace Sys2Proof

/-- The command a word spells by the table's bits: the table gives none. -/
def decodeTableWord (_nbits _w : Nat) : Option Instr := none

end Sys2Proof
end

