-- ==== Sys2Proof/Config.lean ====
section
/-! DEFINITION. What the manual leaves free. Every constant here is opaque: no proof can see its value. The draw
counter `Dev.draws` is the first argument wherever a fresh value is meant for each use. -/

namespace Sys2Proof

/-- An undefined byte (R4, R227): the value of an SRAM byte nothing has written, by draw and place. Log 3. -/
opaque Config.freeByte : Nat → Nat → Byte

/-- An undefined word (R4, R138): a register after routine start, by draw and register number. Log 4. -/
opaque Config.freeWord : Nat → Nat → W64

/-- A choice the manual leaves open (a "may"), by draw and place. Logs 3, 30. -/
opaque Config.freeBit : Nat → Nat → Bool

/-- A number the manual leaves open (which of several equal choices is taken), by draw and place. Log 30. -/
opaque Config.freeNat : Nat → Nat → Nat

/-- The converter code of one conversion before it is limited to −1,023..+1,023 (R76, R115, R118): by draw, by the
number of the conversion within the operation (its place, as `convertIndex` counts them), by the word of the converter-reference
table that the converters use (R570), and by the noise-free charge. Log 5. -/
opaque Config.convert : Nat → Nat → Nat → Int → Int

/-- Which of the values within R160's 2 ulp VEXP and the attention engine's `exp` deliver, by operand. Log 6. -/
opaque Config.expPick : W32 → W32

/-- Which of the values within R160's 1 ulp VRSQ.F32 delivers, by operand. Log 6. -/
opaque Config.rsqPick32 : W32 → W32

/-- Which of the values within R160's 1 ulp VRSQ.F64 delivers, by operand. Log 6. -/
opaque Config.rsqPick64 : W64 → W64

/-- A Falcon-1024 signature by the module identity key over a message, by byte (R451, R547). Log 7. -/
opaque Config.falconSign : List Byte → Nat → Byte

/-- One less than the length of that signature, 0 to 1,279 once reduced (R451). Log 7. -/
opaque Config.falconSignLen : List Byte → Nat

/-- The module identity public key, by byte (R451). Log 7. -/
opaque Config.identityKey : Nat → Byte

/-- The vendor ID that PCI-SIG assigned to Plaldo Microsystems (R415). Log 49. -/
opaque Config.vendorId : BitVec 16

/-- SHAKE256 of the Derier image that the module was made with, first 32 bytes (R451). Log 7. -/
opaque Config.shippedHash : Nat

/-- The boot-ROM keys of Plaldo Microsystems (R462). Log 7. -/
opaque Config.vendorKey : List Byte

/-- The firmware image of the bytes of FW_UPDATE: its version, or none when malformed (R462). Log 7. -/
opaque Config.fwVersion : List Byte → Option Nat

/-- Whether a firmware image's signature verifies against the boot-ROM keys (R462). Log 7. -/
opaque Config.fwSigned : List Byte → Bool

/-- Which two of the numbers left, by their places, are added next in an FP32 sum of a SOLVE's inner solve, from its terms and
the number of additions left: the manual does not say in what order terms are added (R278). Log 8. -/
opaque Config.sumPick : List W32 → Nat → Nat × Nat

/-- Coefficients that the inner solve's least-squares problem may give, from the columns of the Hessenberg matrix and the norm
of the residual (R278): they count where they leave no larger residual than those of Givens rotations. Log 8. -/
opaque Config.solveLeast : List (List W32) → W32 → List W32

/-- The hash by which a relay or a source picks one of the candidates of a next-hop row, by issuing stall and address (R473).
Log 9. -/
opaque Config.hopPick : Nat → Nat → Nat

end Sys2Proof
end

