-- ==== Sys2Proof/Machine/Map.lean ====
section
/-! DEFINITION. Sparse maps in canonical form, and bytes: the helpers every other file reads and writes data with. -/

namespace Sys2Proof.Machine

open Sys2Proof

variable {α : Type}

/-- The value at a key: the listed one, else what an unlisted key reads as. -/
def mget (d : α) : Map α → Nat → α
  | [], _ => d
  | (k, v) :: m, i => if k = i then v else mget d m i

/-- The map without a key. -/
def mdel (m : Map α) (i : Nat) : Map α := m.filter fun p => p.1 ≠ i

/-- A pair put before the first greater key. -/
def mins : Map α → Nat → α → Map α
  | [], i, v => [(i, v)]
  | (k, w) :: m, i, v => if i < k then (i, v) :: (k, w) :: m else (k, w) :: mins m i v

/-- A write: writing what an unlisted key reads as removes the entry. -/
def mput [DecidableEq α] (d : α) (m : Map α) (i : Nat) (v : α) : Map α :=
  if v = d then mdel m i else mins (mdel m i) i v

/-- The canonical form: keys strictly rising, no entry equal to the default. -/
abbrev mwf [DecidableEq α] (d : α) (m : Map α) : Prop :=
  m.Pairwise (fun p q => p.1 < q.1) ∧ ∀ p ∈ m, p.2 ≠ d

/-- The bytes of a range. -/
def mbytes (m : Map Byte) (a n : Nat) : List Byte := (List.range n).map fun k => mget 0 m (a + k)

/-- Consecutive values written from a key upward. -/
def mputs [DecidableEq α] (d : α) : Map α → Nat → List α → Map α
  | m, _, [] => m
  | m, a, v :: vs => mputs d (mput d m a v) (a + 1) vs

/-- The number little-endian bytes hold (R10). -/
def leNat : List Byte → Nat
  | [] => 0
  | x :: xs => x.toNat + 256 * leNat xs

/-- The n little-endian bytes of a number (R10). -/
def toLe : Nat → Nat → List Byte
  | 0, _ => []
  | n + 1, v => BitVec.ofNat 8 v :: toLe n (v / 256)

/-- Bytes off to off + n − 1 of a list. -/
def slice (l : List Byte) (off n : Nat) : List Byte := (l.drop off).take n

/-- The little-endian number at an offset of a structure. -/
def fieldAt (l : List Byte) (off n : Nat) : Nat := leNat (slice l off n)

/-- Bits high to low of a number, as the manual writes x[high:low] (R9). -/
def bitsOf (v hi lo : Nat) : Nat := v / 2 ^ lo % 2 ^ (hi + 1 - lo)

/-- Whether every byte of a range of a structure is zero. -/
def zeroAt (l : List Byte) (off n : Nat) : Bool := (slice l off n).all (· == 0)

/-- The signed value of the low w bits of a number (R11). -/
def signedOf (w v : Nat) : Int := (BitVec.ofNat w v).toInt

/-- Serial-number order: a has reached or passed b (R63). -/
def reached (a b : W32) : Bool := (a - b).toNat < 2 ^ 31

/-- The smallest number below n that satisfies p. -/
def firstBelow (n : Nat) (p : Nat → Bool) : Option Nat := (List.range n).find? p

def between (v lo hi : Nat) : Bool := lo ≤ v && v ≤ hi

end Sys2Proof.Machine
end

