-- ==== Sys2Proof/Machine/Float.lean ====
section
/-! DEFINITION. Floating point, exactly: every operation computes an exact ratio and rounds it once (06, R239 to R250,
R261). Bits in, bits out. -/

namespace Sys2Proof.Machine

open Sys2Proof

/-! ### Ratios -/

/-- A magnitude as an exact ratio; the denominator is never zero. -/
structure Mag where
  num : Nat
  den : Nat
  deriving DecidableEq, Repr

/-- m × 2^e. -/
def dyad (m : Nat) (e : Int) : Mag :=
  match e with
  | .ofNat k => { num := m * 2 ^ k, den := 1 }
  | .negSucc k => { num := m, den := 2 ^ (k + 1) }

def magMul (a b : Mag) : Mag := { num := a.num * b.num, den := a.den * b.den }
def magDiv (a b : Mag) : Mag := { num := a.num * b.den, den := a.den * b.num }
def magLe (a b : Mag) : Bool := a.num * b.den ≤ b.num * a.den
def magLt (a b : Mag) : Bool := a.num * b.den < b.num * a.den

/-- |a − b|. -/
def magDist (a b : Mag) : Mag :=
  { num := if magLe a b then b.num * a.den - a.num * b.den else a.num * b.den - b.num * a.den, den := a.den * b.den }

def magAdd (a b : Mag) : Mag := { num := a.num * b.den + b.num * a.den, den := a.den * b.den }

/-- floor(log2) of a magnitude that is not zero. -/
def magLog2 (a : Mag) : Int :=
  let e : Int := (Nat.log2 a.num : Int) - (Nat.log2 a.den : Int)
  if magLe (dyad 1 e) a then e else e - 1

/-! ### Values and formats -/

/-- A floating-point value: a NaN, a signed infinity, a signed magnitude. -/
inductive FVal where
  | nan
  | inf (neg : Bool)
  | fin (neg : Bool) (m : Mag)
  deriving DecidableEq, Repr

/-- A format of R239: exponent bits, fraction bits, bias, whether it has infinities, canonical NaN, largest finite. -/
structure Fmt where
  eb : Nat
  mb : Nat
  bias : Nat
  hasInf : Bool
  nan : Nat
  top : Nat
  deriving DecidableEq, Repr

def fp64 : Fmt := { eb := 11, mb := 52, bias := 1023, hasInf := true, nan := 0x7FF8000000000000, top := 0x7FEFFFFFFFFFFFFF }
def fp32 : Fmt := { eb := 8, mb := 23, bias := 127, hasInf := true, nan := 0x7FC00000, top := 0x7F7FFFFF }
def bf16 : Fmt := { eb := 8, mb := 7, bias := 127, hasInf := true, nan := 0x7FC0, top := 0x7F7F }
def fp16 : Fmt := { eb := 5, mb := 10, bias := 15, hasInf := true, nan := 0x7E00, top := 0x7BFF }
def e4m3 : Fmt := { eb := 4, mb := 3, bias := 7, hasInf := false, nan := 0x7F, top := 0x7E }
def e5m2 : Fmt := { eb := 5, mb := 2, bias := 15, hasInf := true, nan := 0x7E, top := 0x7B }
/-- E2M1 of MXFP4 (R240): no infinity and no NaN. -/
def e2m1 : Fmt := { eb := 2, mb := 1, bias := 1, hasInf := false, nan := 0x10, top := 0x7 }

def signBit (f : Fmt) : Nat := 2 ^ (f.eb + f.mb)

/-- The value that bits encode. -/
def fdecode (f : Fmt) (bits : Nat) : FVal :=
  let neg := bits / signBit f % 2 = 1
  let mag := bits % signBit f
  let e := mag / 2 ^ f.mb
  let m := mag % 2 ^ f.mb
  if f.hasInf ∧ e = 2 ^ f.eb - 1 then (if m = 0 then .inf neg else .nan)
  else if ¬ f.hasInf ∧ mag = f.nan then .nan
  else if e = 0 then .fin neg (dyad m (1 - (f.bias : Int) - f.mb))
  else .fin neg (dyad (2 ^ f.mb + m) ((e : Int) - f.bias - f.mb))

/-- A ratio rounded to an integer: to nearest with ties to even, or toward zero. -/
def roundMag (rz : Bool) (a : Mag) : Nat :=
  let n := a.num / a.den
  let r := a.num % a.den
  if rz then n
  else if 2 * r < a.den then n
  else if a.den < 2 * r then n + 1
  else if n % 2 = 0 then n else n + 1

/-- The magnitude bits of a ratio rounded once to a format, before the range test (R241, R242). -/
def roundBits (f : Fmt) (rz : Bool) (a : Mag) : Nat :=
  if a.num = 0 then 0
  else
    let ex : Int := max (magLog2 a) (1 - (f.bias : Int))
    let n := roundMag rz (magDiv a (dyad 1 (ex - f.mb)))
    (ex + f.bias - 1).toNat * 2 ^ f.mb + n

/-- A value rounded to a format (R241, R244). `sat`: beyond the range it saturates to the largest finite (R248). -/
def fround (f : Fmt) (rz sat : Bool) (v : FVal) : Nat :=
  let s (neg : Bool) (b : Nat) := if neg then signBit f + b else b
  match v with
  | .nan => f.nan
  | .inf neg => s neg (if f.hasInf then f.top + 1 else f.top)
  | .fin neg a =>
    let b := roundBits f rz a
    s neg (if b ≤ f.top then b else if sat ∨ rz ∨ ¬ f.hasInf then f.top else f.top + 1)

/-! ### Arithmetic on values (exact, then rounded by `fround`) -/

def vneg : FVal → FVal
  | .nan => .nan
  | .inf n => .inf (!n)
  | .fin n a => .fin (!n) a

/-- Exact sum; a zero sum of opposite signs is +0. -/
def vaddv : FVal → FVal → FVal
  | .nan, _ => .nan
  | _, .nan => .nan
  | .inf a, .inf b => if a = b then .inf a else .nan
  | .inf a, .fin _ _ => .inf a
  | .fin _ _, .inf b => .inf b
  | .fin n a, .fin m b =>
    if n = m then .fin n (magAdd a b)
    else if magLt b a then .fin n (magDist a b)
    else if magLt a b then .fin m (magDist a b)
    else .fin false { num := 0, den := 1 }

def vmulv : FVal → FVal → FVal
  | .nan, _ => .nan
  | _, .nan => .nan
  | .inf a, .inf b => .inf (a != b)
  | .inf a, .fin n m => if m.num = 0 then .nan else .inf (a != n)
  | .fin n m, .inf b => if m.num = 0 then .nan else .inf (n != b)
  | .fin n a, .fin m b => .fin (n != m) (magMul a b)

def vdivv : FVal → FVal → FVal
  | .nan, _ => .nan
  | _, .nan => .nan
  | .inf _, .inf _ => .nan
  | .inf a, .fin n _ => .inf (a != n)
  | .fin n _, .inf b => .fin (n != b) { num := 0, den := 1 }
  | .fin n a, .fin m b =>
    if b.num = 0 then (if a.num = 0 then .nan else .inf (n != m)) else .fin (n != m) (magDiv a b)

/-- Three-way order of two values that are not NaN: −1, 0, 1 (zeros are equal). -/
def vcmpv : FVal → FVal → Option Int
  | .nan, _ => none
  | _, .nan => none
  | .inf a, .inf b => some (if a = b then 0 else if a then -1 else 1)
  | .inf a, .fin _ _ => some (if a then -1 else 1)
  | .fin _ _, .inf b => some (if b then 1 else -1)
  | .fin n a, .fin m b =>
    let x : Int := if n then -(a.num * b.den : Nat) else (a.num * b.den : Nat)
    let y : Int := if m then -(b.num * a.den : Nat) else (b.num * a.den : Nat)
    some (if x < y then -1 else if x = y then 0 else 1)

def fadd (f : Fmt) (rz : Bool) (a b : Nat) : Nat := fround f rz false (vaddv (fdecode f a) (fdecode f b))
def fmul (f : Fmt) (rz : Bool) (a b : Nat) : Nat := fround f rz false (vmulv (fdecode f a) (fdecode f b))
def fdiv (f : Fmt) (a b : Nat) : Nat := fround f false false (vdivv (fdecode f a) (fdecode f b))

/-- The bits of a value with its sign turned. -/
def fneg (f : Fmt) (a : Nat) : Nat := if a / signBit f % 2 = 1 then a - signBit f else a + signBit f

/-- d ± a × b, rounded once (R160, R241). -/
def ffma (f : Fmt) (rz neg : Bool) (a b d : Nat) : Nat :=
  let p := vmulv (fdecode f a) (fdecode f b)
  fround f rz false (vaddv (fdecode f d) (if neg then vneg p else p))

/-- VMAX and VMIN (R245): NaN wins, +0 is above −0. -/
def fmax (f : Fmt) (mn : Bool) (a b : Nat) : Nat :=
  match vcmpv (fdecode f a) (fdecode f b) with
  | none => f.nan
  | some c =>
    if c = 0 then
      let na := a / signBit f % 2 = 1
      if na = mn then a else b
    else if (c < 0) = mn then a else b

/-! ### Roots and the exponential -/

/-- The integer square root, bit by bit from bit k − 1 down. -/
def isqrtAux (n : Nat) : Nat → Nat → Nat
  | 0, r => r
  | k + 1, r => isqrtAux n k (if (r + 2 ^ k) * (r + 2 ^ k) ≤ n then r + 2 ^ k else r)

/-- √a as a ratio, exact or with a last digit that only says the root is not exact (so that one rounding is right). -/
def magSqrt (a : Mag) : Mag :=
  let n := a.num * 2 ^ 2400 / a.den
  let r := isqrtAux n (Nat.log2 n / 2 + 1) 0
  if r * r = n ∧ (a.num * 2 ^ 2400) % a.den = 0 then { num := r, den := 2 ^ 1200 }
  else { num := 2 * r + 1, den := 2 ^ 1201 }

/-- The square root, rounded to nearest (the norms of R278). -/
def fsqrt (f : Fmt) (a : Nat) : Nat :=
  match fdecode f a with
  | .nan => f.nan
  | .inf neg => if neg then f.nan else f.top + 1
  | .fin neg m => if m.num = 0 then a else if neg then f.nan else fround f false false (.fin false (magSqrt m))

def fsqrt64 (a : Nat) : Nat := fsqrt fp64 a

/-- One unit in the last place at a magnitude. -/
def ulpOf (f : Fmt) (a : Mag) : Mag := dyad 1 (max (magLog2 a) (1 - (f.bias : Int)) - f.mb)

/-- The delivered value where only an error bound of k ulp is stated (R160): the picked bits when they are positive,
finite or the top, and within the bound of the true value `q` (known to better than 2⁻¹⁰⁰ of itself); else the nearest. -/
def pickNear (f : Fmt) (k : Nat) (q : Mag) (pick : Nat) : Nat :=
  let u := ulpOf f q
  let lim : Mag := magAdd { num := k * u.num, den := u.den } { num := q.num, den := q.den * 2 ^ 100 }
  match fdecode f pick with
  | .fin false m => if pick < signBit f ∧ magLe (magDist m q) lim then pick else fround f false false (.fin false q)
  | _ => fround f false false (.fin false q)

/-- Σ xᵏ/k! for the fixed-point x, scale 2¹²⁸. -/
def expSum (x : Nat) : Nat → Nat → Nat → Nat
  | 0, _, acc => acc
  | n + 1, term, acc =>
    let t := term * x / 2 ^ 128 / (25 - n)
    expSum x n t (acc + t)

/-- n squarings of a fixed-point number. -/
def squarings : Nat → Nat → Nat
  | 0, y => y
  | n + 1, y => squarings n (y * y / 2 ^ 128)

/-- e^m for a magnitude up to 112, to better than 2⁻¹⁰⁰ of itself. -/
def expMag (m : Mag) : Mag :=
  let x := m.num * 2 ^ 128 / (m.den * 256)
  { num := squarings 8 (expSum x 25 (2 ^ 128) (2 ^ 128)), den := 2 ^ 128 }

/-- e^a in FP32 within 2 ulp (R160, R245, R312). -/
def fexp (a : Nat) : Nat :=
  match fdecode fp32 a with
  | .nan => fp32.nan
  | .inf neg => if neg then 0 else fp32.top + 1
  | .fin neg m =>
    if ¬ neg ∧ magLe { num := 887229, den := 10000 } m then fp32.top + 1
    else
      let e := expMag (if magLt { num := 112, den := 1 } m then { num := 112, den := 1 } else m)
      let q : Mag := if neg then { num := e.den, den := e.num } else e
      pickNear fp32 2 q (Config.expPick (BitVec.ofNat 32 a)).toNat

/-- 1/√a within 1 ulp (R160, R245). -/
def frsq (f : Fmt) (pick : Nat) (a : Nat) : Nat :=
  match fdecode f a with
  | .nan => f.nan
  | .inf neg => if neg then f.nan else 0
  | .fin neg m =>
    if m.num = 0 then (if neg then signBit f + f.top + 1 else f.top + 1)
    else if neg then f.nan
    else pickNear f 1 (magSqrt { num := m.den, den := m.num }) pick

/-! ### Integers -/

/-- An integer as a value. -/
def ofInt (v : Int) : FVal := .fin (v < 0) { num := v.natAbs, den := 1 }

/-- A value rounded to an integer; none for NaN; infinities go beyond every range. -/
def toIntR (rz : Bool) : FVal → Option Int
  | .nan => none
  | .inf neg => some (if neg then -(2 ^ 80) else 2 ^ 80)
  | .fin neg m => some (if neg then -(roundMag rz m : Int) else (roundMag rz m : Int))

/-- round_even of an exact signed ratio num/den. -/
def roundEven (num : Int) (den : Nat) : Int :=
  let r : Int := roundMag false { num := num.natAbs, den := den }
  if num < 0 then -r else r

/-! ### MX blocks (R158, R240, R249) -/

/-- MX types by their code of R157: element format, bytes per element × 2, emax; code 0xA is MXINT8. -/
def mxEmax (code : Nat) : Int := if code = 8 then 8 else if code = 9 then 15 else if code = 10 then 0 else 2

/-- The value of an element with its block's scale byte. -/
def mxValue (code scale el : Nat) : FVal :=
  if scale = 0xFF then .nan
  else
    let v := if code = 8 then fdecode e4m3 el
      else if code = 9 then fdecode e5m2 el
      else if code = 10 then
        (let i := signedOf 8 el; FVal.fin (i < 0) (dyad i.natAbs (-6)))
      else fdecode e2m1 el
    vmulv v (.fin false (dyad 1 ((scale : Int) - 127)))

/-- The scale byte and element codes of a block of FP32 lanes (R249). -/
def mxBlock (code : Nat) (rz : Bool) (lanes : List Nat) : Nat × List Nat :=
  let vs := lanes.map (fdecode fp32)
  let bad := vs.any fun v => match v with | .fin _ _ => false | _ => true
  let mags := vs.map fun v => match v with | .fin _ m => m | _ => { num := 0, den := 1 }
  let amax := mags.foldl (fun a m => if magLt a m then m else a) { num := 0, den := 1 }
  if bad then (0xFF, lanes.map fun _ => 0)
  else if amax.num = 0 then (0x7F, lanes.map fun _ => 0)
  else
    let e : Int := max (-127) (min 127 (magLog2 amax - mxEmax code))
    let el (v : FVal) : Nat :=
      let x := vmulv v (.fin false (dyad 1 (-e)))
      if code = 8 then fround e4m3 rz true x
      else if code = 9 then
        fround e5m2 rz true x
      else if code = 10 then
        (match toIntR rz (vmulv x (.fin false (dyad 1 6))) with
          | some i => (BitVec.ofInt 8 (max (-128) (min 127 i))).toNat
          | none => 0)
      else fround e2m1 rz true x
    ((e + 127).toNat, vs.map el)

end Sys2Proof.Machine
end

