-- ==== Sys2Proof/Machine/Flags.lean ====
section
/-! DEFINITION. int32 accumulation with its sentinels (06, R251 to R258) and the conversions of the lanes (R250). -/

namespace Sys2Proof.Machine

open Sys2Proof

/-- The three sentinels of R251. -/
def psat : W32 := 0x7FFFFFFF
def nsat : W32 := 0x80000000
def conf : W32 := 0x80000001

def isNormal (a : W32) : Bool := a != psat && a != nsat && a != conf

/-- `sat32` of an exact integer (R252). -/
def sat32 (v : Int) : W32 :=
  if v > 2 ^ 31 - 2 then psat else if v < -(2 ^ 31) + 2 then nsat else BitVec.ofInt 32 v

/-- int32 addition (R253). -/
def satAddI (a b : W32) : W32 :=
  if a = conf ∨ b = conf then conf
  else if (a = psat ∧ b = nsat) ∨ (a = nsat ∧ b = psat) then conf
  else if a = psat ∨ b = psat then psat
  else if a = nsat ∨ b = nsat then nsat
  else sat32 (a.toInt + b.toInt)

/-- `neg` of R253. -/
def negI (a : W32) : W32 :=
  if a = psat then nsat else if a = nsat then psat else if a = conf then conf else -a

/-- int32 multiplication (R254). -/
def mulI (a b : W32) : W32 :=
  if a = conf ∨ b = conf then conf
  else if isNormal a && isNormal b then sat32 (a.toInt * b.toInt)
  else if a = 0 ∨ b = 0 then conf
  else if (a.toInt < 0) = (b.toInt < 0) then psat else nsat

/-- VFMA.I32 (R255). -/
def fmaI (neg : Bool) (a b d : W32) : W32 :=
  if isNormal a && isNormal b then
    let p := if neg then -(a.toInt * b.toInt) else a.toInt * b.toInt
    if isNormal d then sat32 (d.toInt + p) else satAddI d (sat32 p)
  else
    let p := mulI a b
    satAddI d (if neg then negI p else p)

/-- VMAX.I32 and VMIN.I32 (R256). -/
def maxI (mn : Bool) (a b : W32) : W32 :=
  if a = conf ∨ b = conf then conf
  else if (a.toInt ≤ b.toInt) = mn then a else b

/-- int32 to a floating format, sentinels as R258 states. -/
def cvtFromI (f : Fmt) (rz : Bool) (a : W32) : Nat :=
  if a = psat then f.top + 1
  else if a = nsat then signBit f + f.top + 1
  else if a = conf then f.nan
  else fround f rz false (ofInt a.toInt)

/-- Floating point to int32 (R250): the range test is made on the rounded integer. -/
def cvtToI (f : Fmt) (rz : Bool) (a : Nat) : W32 :=
  match toIntR rz (fdecode f a) with
  | none => conf
  | some v => sat32 v

/-- The comparison conditions of VCMP (R160): 0 EQ, 1 NE, 2 LT, 3 LE, 4 GT, 5 GE, on a three-way order; a NaN gives 0
except NE (R163). -/
def condHolds (c : Nat) : Option Int → Bool
  | none => c == 1
  | some o =>
    if c = 0 then o == 0 else if c = 1 then o != 0 else if c = 2 then o < 0
    else if c = 3 then o ≤ 0 else if c = 4 then 0 < o else 0 ≤ o

/-- The three-way order of two integers. -/
def cmpInt (a b : Int) : Option Int := some (if a < b then -1 else if a = b then 0 else 1)

/-- .I8 narrowing (R248). -/
def narrowI8 (a : W32) : Byte :=
  if a = conf then 0 else BitVec.ofInt 8 (max (-128) (min 127 a.toInt))

end Sys2Proof.Machine
end

