-- ==== Sys2Proof/Machine/Shake.lean ====
section
/-! DEFINITION. SHAKE256, as its standard defines it (00_scope.md: standard names are used as their owners define them):
the digest of R321, R370, R371 and R372. Lanes are numbers below 2⁶⁴; lane x + 5y stands at place x + 5y of a list. -/

namespace Sys2Proof.Machine

open Sys2Proof

/-- A lane rotated left by n bits. -/
def rotLane (x n : Nat) : Nat := (x <<< n ||| x >>> (64 - n)) % 2 ^ 64

def laneAt (a : List Nat) (k : Nat) : Nat := a.getD k 0

/-- Rotations of the ρ step. -/
def rhoOffsets : List Nat :=
  [0, 1, 62, 28, 27, 36, 44, 6, 55, 20, 3, 10, 43, 25, 39, 41, 45, 15, 21, 8, 18, 2, 61, 56, 14]

/-- Round constants of the ι step. -/
def iotaConstants : List Nat :=
  [0x0000000000000001, 0x0000000000008082, 0x800000000000808A, 0x8000000080008000, 0x000000000000808B,
   0x0000000080000001, 0x8000000080008081, 0x8000000000008009, 0x000000000000008A, 0x0000000000000088,
   0x0000000080008009, 0x000000008000000A] ++
  [0x000000008000808B, 0x800000000000008B, 0x8000000000008089, 0x8000000000008003, 0x8000000000008002,
   0x8000000000000080, 0x000000000000800A, 0x800000008000000A, 0x8000000080008081, 0x8000000000008080,
   0x0000000080000001, 0x8000000080008008]

/-- The column parities of θ, and what θ adds to each column. -/
def thetaSums (a : List Nat) : List Nat :=
  let c := (List.range 5).map fun x => (List.range 5).foldl (fun s y => s ^^^ laneAt a (x + 5 * y)) 0
  (List.range 5).map fun x => laneAt c ((x + 4) % 5) ^^^ rotLane (laneAt c ((x + 1) % 5)) 1

/-- θ. -/
def theta (a : List Nat) : List Nat :=
  let t := thetaSums a
  a.mapIdx fun k v => v ^^^ laneAt t (k % 5)

/-- ρ and π. -/
def rhoPi (a : List Nat) : List Nat :=
  (List.range 25).map fun k =>
    let s := (k % 5 + 3 * (k / 5)) % 5 + 5 * (k % 5)
    rotLane (laneAt a s) (rhoOffsets.getD s 0)

/-- χ. -/
def chi (b : List Nat) : List Nat :=
  (List.range 25).map fun k =>
    laneAt b k ^^^ ((laneAt b ((k + 1) % 5 + 5 * (k / 5)) ^^^ (2 ^ 64 - 1)) &&& laneAt b ((k + 2) % 5 + 5 * (k / 5)))

/-- One round. -/
def keccakRound (a : List Nat) (rc : Nat) : List Nat :=
  match chi (rhoPi (theta a)) with
  | [] => []
  | x :: xs => (x ^^^ rc) :: xs

/-- The permutation of 24 rounds. -/
def keccak (a : List Nat) : List Nat := iotaConstants.foldl keccakRound a

/-- The lanes after a block of 136 bytes is absorbed. -/
def absorbBlock (a : List Nat) (bs : List Byte) : List Nat :=
  keccak (a.mapIdx fun k v => if k < 17 then v ^^^ fieldAt bs (8 * k) 8 else v)

/-- n blocks of a message absorbed. -/
def absorb : Nat → List Nat → List Byte → List Nat
  | 0, a, _ => a
  | n + 1, a, bs => absorb n (absorbBlock a (bs.take 136)) (bs.drop 136)

/-- The bits 1111 and the padding after a message of some bytes. -/
def shakePad (len : Nat) : List Byte :=
  let n := 136 - len % 136
  if n = 1 then [0x9F] else 0x1F :: (List.replicate (n - 2) 0 ++ [0x80])

/-- n blocks of 136 output bytes. -/
def squeeze : Nat → List Nat → List Byte
  | 0, _ => []
  | n + 1, a => (List.range 17).flatMap (fun k => toLe 8 (laneAt a k)) ++ squeeze n (keccak a)

/-- The first n bytes of SHAKE256 of a message. -/
def shakeBytes (bs : List Byte) (n : Nat) : List Byte :=
  let m := bs ++ shakePad bs.length
  (squeeze ((n + 135) / 136) (absorb (m.length / 136) (List.replicate 25 0) m)).take n

/-- The first n bytes of SHAKE256 as a little-endian number. -/
def shake (bs : List Byte) (n : Nat) : Nat := leNat (shakeBytes bs n)

end Sys2Proof.Machine
end

