-- ==== Sys2Proof/Machine/State.lean ====
section
/-! DEFINITION. The state of one AK7340 module, as plain data, and what it is right after module reset. -/

namespace Sys2Proof.Machine

open Sys2Proof

/-! ### Stalls (04, 05, 06) -/

/-- Stall states of R137. -/
inductive StallMode where
  | idle | running | draining | retired
  deriving DecidableEq, Repr

/-- What ends a routine (R137, R192, R195). -/
inductive Ending where
  | halt | fault
  deriving DecidableEq, Repr

/-- Why a sequencer is held on an instruction (R147, R199). `slotW` and `slotS` name buffer (false trough) and slot. -/
inductive Wait where
  | scoreboard | counter | drain | epoch (awaited : W32) (dest : Nat) | issueLimit
  | slotW (bin : Bool) (slot : Nat) | slotS (bin : Bool) (slot : Nat)
  /-- No instruction: the stall runs Derier's own routine of a SOLVE (R281). -/
  | solve
  deriving DecidableEq, Repr

/-- A held instruction: why, and whether its watchdog event has been raised (R199). -/
structure Held where
  why : Wait
  raised : Bool
  deriving DecidableEq, Repr

/-- One SRAM buffer: bytes (unlisted: never written, R227), error marks by byte, written bits by line (R228), failing
lines of the last groom pass, remap entries in order of entry: (line, spare, holds) (R229 to R231). -/
structure Sram where
  bytes : Map (Option Byte)
  err : Map (Option ErrKind)
  written : Map Bool
  failing : Map Bool
  remap : List (Nat × Nat × Bool)
  deriving DecidableEq, Repr

/-- A crib operation issued and not yet written (R113, R149): a CRIB.MVM or a CRIB.PROBE. -/
structure CribOp where
  id : Nat
  probe : Bool
  cribs : List Nat
  banks : List Nat
  add : Bool
  clip : Bool
  tall : Bool
  slot : Nat
  tile : Nat
  reps : Nat
  epoch : W32
  corrs : List Corr
  /-- The converter-reference word in force at its issue. -/
  ref : Nat
  started : Bool
  /-- After the start: per crib of `cribs`, the 1,024 inputs as read, and the draw its conversions take. -/
  inputs : List (List Int)
  seed : Nat
  /-- Side-lane DRAM reads still to return (R273): place of the crib in `cribs`, and row, or 1,024 for the weak list. -/
  fetches : List (Nat × Nat)
  /-- Physical cribs of which this operation is a sample, or before its start is due to be one (R515). -/
  sampled : List Nat
  deriving DecidableEq, Repr

/-- One stall: sequencer, register files, buffers, flags, holding store, scoreboard. -/
structure Stall where
  mode : StallMode
  ending : Option Ending
  /-- The command whose routine runs or drains here. -/
  owner : Option Nat
  follow : Bool
  pc : Nat
  limit : Nat
  store : Map (Option W64)
  storeErr : Map (Option ErrKind)
  storeFailing : Map Bool
  storeRemap : List (Nat × Nat × Bool)
  faultCode : BitVec 8
  faultPc : BitVec 12
  faultDetail : W32
  sreg : Map W64
  areg : Map W64
  preg : Map W64
  vreg : Map W32
  creg : Map W32
  rstack : List Nat
  held : Option Held
  epoch : W32
  reported : W32
  posted : Option W32
  lateRaised : Bool
  /-- The converter-reference table entry that its cribs use (R570). -/
  refEntry : Nat
  /-- The word of that table that is in force; none: the one of power-up (R567), no boundary having brought another. -/
  refWord : Option Nat
  sel : Map (Option Bool)
  trough : Sram
  bin : Sram
  manger : Sram
  tFlags : Map Bool
  bFlags : Map Bool
  /-- Holding store: ids of remote operations in order of arrival (R213). -/
  hold : List Nat
  /-- Sources (stall indices) refused and awaiting their resend (R216). -/
  refused : List Nat
  /-- Ids of waiting PUT.F whose SLOT_JAM has been raised (R217). -/
  jammed : List Nat
  cribOps : List CribOp
  /-- Not Idle at any time since the last watch period ended (R537). -/
  busy : Bool
  ueOff : BitVec 18
  ueBuf : BitVec 2
  ueValid : Bool
  thresh : BitVec 8
  pins : Map (Option Pin)
  /-- The side store (R269, R271): weak-slice entries 0 to 255 of bank k of the stall, k = 2·physical crib + bank, as
  words of R265 at bytes 1,024k to 1,024k + 1,023, and the error marks of its check bits. -/
  side : Map Byte
  sideErr : Map (Option ErrKind)
  spareIndex : Option Nat
  /-- The crib whose substitution by the spare waits for a boundary (R541). -/
  pendingSpare : Option Nat
  pendingRetire : Bool
  /-- Its retirement has taken hold (R44, R542). -/
  gone : Bool
  deriving DecidableEq, Repr

/-- What one reference column of a row group gave in one converted phase (R120, R521): uptime in ms, group, reference
column, the sum of its codes, how many conversions and reads that sum has, and the slice value times the nibble sum. -/
structure RefTerm where
  time : Nat
  group : Nat
  col : Nat
  sum : Int
  convs : Nat
  reads : Nat
  want : Int
  deriving DecidableEq, Repr

/-- One crib-bank, keyed (17·stall + physical crib)·2 + bank (R85, R133). `image` is what the cells hold, one stored
weight per 1,024·row + output (R82, R384); persistent: all but `state` live, `pend`, `imagePresent` and the probe data. -/
structure Bank where
  state : BankState
  format : Nat
  tag : BitVec 256
  weak : List WeakEntry
  wear : W32
  image : Map Byte
  /-- Levels (positive cell, negative cell) of the 32 reference columns, on every row (R119); empty while none has been
  programmed. -/
  refs : List (Nat × Nat)
  /-- Reference columns with a weak slice, which the farrier leaves out (R386). -/
  refWeak : List Nat
  /-- The reference codes that the farrier has had in the last 250 ms (R120, R521). -/
  refSeen : List RefTerm
  corr : Corr
  /-- A byte of the correction store under `corr` cannot be corrected (R509). -/
  corrUe : Bool
  /-- The farrier's latest fit within the limits, where it is neither pending nor active yet (R521, R572). -/
  fit : Option Corr
  pend : Option Corr
  refitBad : Bool
  imagePresent : Bool
  probes : Nat
  lastPass : Nat
  /-- The placement or the spare substitution that programs it. -/
  forPlacement : Option Nat
  forSpare : Bool
  /-- A binding's copy programs it (R497). -/
  forTwin : Bool
  deriving DecidableEq, Repr

/-- Per physical crib: duty credit in 1/32 ns (R577), unsampled MVMs, samples taken and the uptime of the last
(R515, R517). -/
structure Crib where
  credit : Int
  /-- The 8 ns period of the current sense window up to which the credit has been brought up to date. -/
  tick : Nat
  unsampled : Nat
  samples : Nat
  lastSample : Option Nat
  deriving DecidableEq, Repr

/-! ### Remote operations (02) -/

/-- Where a remote operation stands (R49, R213, R216). -/
inductive OpPhase where
  | sent | holding | refused | performed
  /-- Performed at its home, and not yet at the standby that mirrors it: the number of the mirrored write (R495). -/
  | mirrored (n : Nat)
  deriving DecidableEq, Repr

/-- A remote operation issued and not complete, of this module's stalls or of another module. -/
structure RemOp where
  id : Nat
  op : NetOp
  /-- Its issuing stall is one of this module's. -/
  own : Bool
  /-- GET: local destination; FADD: destination register. -/
  dest : Nat
  ctr : Option Nat
  phase : OpPhase
  /-- The issuing stall already found it a violation: it is not sent (R61). -/
  dead : Bool
  /-- Returned bytes of a performed GET or FADD. -/
  back : List Byte
  /-- A FADD of an earlier routine writes no register (R195). -/
  orphan : Bool
  deriving DecidableEq, Repr

/-! ### Memory (08) -/

/-- DRAM, loft, and what protects them. DRAM keys are stack·0x14_0000_0000 + local offset; loft keys are space 0x2
offsets. Unlisted bytes read zero (R358, R359). -/
structure Memory where
  dram : Map Byte
  dramErr : Map (Option ErrKind)
  /-- Symbols in error of a line that has an error (R340): 0 to 63 its bytes, 64 to 67 its check symbols. -/
  dramBad : Map (List Nat)
  dramFailing : Map Bool
  /-- DRAM remap entries: (stack·32 + channel, local line, spare, holds). -/
  dramRemap : List (Nat × Nat × Nat × Bool)
  /-- Line of the most recent uncorrectable read of a stack, and VALID. -/
  dramUe : Map (Nat × Bool)
  loft : Map Byte
  loftErr : Map (Option ErrKind)
  /-- Bytes in error of a unit that has an error (R361). -/
  loftBad : Map (List Nat)
  loftUe : Map (Nat × Bool)
  /-- Offsets of the Derier record area that an operation has written since Derier last wrote its records (R360). -/
  record : Map Bool
  wear : Map Nat
  wornSent : Map Bool
  wearIndex : Map Nat
  /-- Error marks of the gate-die SRAM, by byte (R225, R350). -/
  gateErr : Map (Option ErrKind)
  groomEnable : Bool
  groomPeriod : Nat
  layout : W64
  deriving DecidableEq, Repr

/-! ### Weight feed (09) -/

/-- A shard of the running stage: its table entry, where it is held once its hash matched, re-fetches asked. -/
structure Shard where
  index : Nat
  codec : Nat
  stored : Nat
  raw : Nat
  hash : Nat
  /-- Where it lies in the feed buffer, as a space 0x1 offset, while it is held (R397). -/
  held : Option Nat
  /-- Its hash has matched. -/
  verified : Bool
  refetches : Nat
  keep : Bool
  forward : Bool
  /-- Downstream modules that have acknowledged it (R397). -/
  acks : List Nat
  deriving DecidableEq, Repr

/-- A stage queued or running (R393). -/
structure Stage where
  /-- The command that asked for it; a member takes the stage from the lead. -/
  cid : Option Nat
  model : Nat
  source : Nat
  store : Bool
  reuse : Bool
  /-- The end that the stage came from, on another module than the lead. -/
  sender : Nat
  started : Bool
  /-- The manifest, once checked. -/
  manifest : List Byte
  shards : List Shard
  /-- Results reported to the lead, by module index, or 64 plus a standby's entry. -/
  results : List (Nat × Nat)
  ownResult : Option Nat
  /-- At the lead, the other modules that have passed the checks of R394; and whether every module has, so that banks may be
  claimed. -/
  checked : List Nat
  cleared : Bool
  /-- The key table when the stage was accepted: a later KEY_REMOVE does not touch it (R452). -/
  keys : Map (Option (List Byte))
  /-- It delivers an adapter (R409), under a stage number beyond every record id. -/
  adapter : Option AdapterLoad
  deriving DecidableEq, Repr

/-- The weight feed. -/
structure Feed where
  keys : Map (Option (List Byte))
  models : List Model
  stages : List Stage
  adapters : List Adapter
  /-- The stage area's catalogue (R392): HASH of a verified shard, or digest of a manifest, its space 0x2 offset and its
  length. Kept in the loft. -/
  catalog : List (Nat × Nat × Nat)
  progPower : Nat
  timeout : Nat
  deriving DecidableEq, Repr

/-! ### Host interface (10) -/

/-- Ring types and states (R428, R431). -/
inductive RingType where
  | sub | comp | event
  deriving DecidableEq, Repr

inductive RingState where
  | active | draining | error
  deriving DecidableEq, Repr

/-- A completion record (R436), before PHASE. -/
structure Record where
  tag : W32
  sqid : Nat
  sqhead : Nat
  status : Nat
  result : Nat
  value1 : W32
  value0 : W64
  deriving DecidableEq, Repr

/-- A ring that is not Free (R428 to R432, R446). `head` and `tail` count modulo 2^sizeLog2. -/
structure Ring where
  type : RingType
  state : RingState
  owner : Nat
  sizeLog2 : Nat
  priority : Nat
  vector : Nat
  bind : Nat
  base : W64
  coalCount : Nat
  coalUsec : Nat
  mask : W32
  head : Nat
  tail : Nat
  phase : Bool
  unsignalled : Nat
  overflow : Bool
  heldRecords : List Record
  /-- Records and events written since the ring became Active. -/
  posted : Nat
  /-- The write of this number meets a host memory error (R431). -/
  failAt : Option Nat
  /-- Fetches of other rings since this one was last fetched (R433). -/
  passed : Nat
  /-- The RING_DESTROY that waits for the ring to become Free, and how many it discarded. -/
  destroyer : Option (Nat × Nat)
  deriving DecidableEq, Repr

/-- One block of a SOLVE's matrix (R277, R459): block row and column, the exact copy's space 0x1 offset, the crib bank that
its placement names, and where the feed wrote its column scales. -/
structure Block where
  row : Nat
  col : Nat
  off : Nat
  module : Nat
  stall : Nat
  crib : Nat
  bank : Nat
  scale : W64
  deriving DecidableEq, Repr

/-- A SOLVE that has begun (R278): its blocks, b, x and r as FP64 bits, the norm of b, outer steps done, and how many of the
last in a row were flat. -/
structure SolveRun where
  blocks : List Block
  b : List Nat
  x : List Nat
  r : List Nat
  nb : Nat
  steps : Nat
  flat : Nat
  deriving DecidableEq, Repr

/-- Status, result, values and result bytes of a command. -/
structure Ends where
  status : Nat
  result : Nat
  value0 : Nat
  value1 : Nat
  bytes : List Byte
  deriving DecidableEq, Repr

/-- A command in progress (R433, R434). -/
structure Cmd where
  cid : Nat
  fn : Nat
  /-- SUB ring, or a number beyond every ring: the mailbox (`mboxRing`) or none (`noRing`). -/
  ring : Nat
  desc : List Byte
  /-- The entries of the data list as read, with LIST (R435), and the data: one part for each entry. -/
  heads : List (List Byte)
  data : Option (List (List Byte))
  /-- Host memory takes its result data (R437). -/
  resultOk : Bool
  /-- It waits to be fetched because 1,024 commands are in progress (R433). -/
  queued : Bool
  epoch : W32
  /-- It has begun and now waits for routines, an epoch, a stage or links. -/
  begun : Bool
  waiting : List Nat
  running : List Nat
  ended : List (Nat × Nat)
  awaits : Option W32
  /-- The lead forwarded it to the module its MODULE names (R445). -/
  remote : Bool
  /-- On a member: the lead's own id of the command it forwarded (R445). -/
  lead : Option Nat
  /-- At the lead: modules on which it must take place before it completes (R443). -/
  asks : List Nat
  /-- Edit batches that must have been applied before it completes (R325, R443). -/
  edits : List Nat
  /-- How it ends, once those modules have answered and those batches have been applied, or its mirrored writes have been
  performed on the standby (R495). -/
  held : Option Ends
  /-- A reset, an update or a destroyed ring stopped it: it ends ABORTED (R437, R447). -/
  stopped : Bool
  /-- How many routines a SUBMIT with ABORT has stopped (R456). -/
  aborting : Option Nat
  solve : Option SolveRun
  deriving DecidableEq, Repr

/-- What leaves the module toward the host, the optical ports and the management network. -/
inductive Output where
  /-- Result data, and whether the write carries Relaxed Ordering (R414, R440). -/
  | result (addr : W64) (bytes : List Byte) (relaxed : Bool)
  | record (ring slot : Nat) (phase : Bool) (r : Record)
  | event (ring slot : Nat) (phase overflow : Bool) (e : Event)
  | msix (function vector : Nat) (addr : W64) (data : W32)
  | readData (value : W64)
  | bar2 (bytes : List Byte) (poisoned : Bool)
  | packet (port seq : Nat) (body : PacketBody)
  /-- A UDP datagram from a port of the module to a port of an address, sent to the next hop (R546). -/
  | datagram (kind source : Nat) (addr : W32) (port : Nat) (hop : W32) (bytes : List Byte)
  | arpReply (addr : W32)
  | icmpReply (payload : List Byte)
  deriving DecidableEq, Repr

/-- HI_STATUS.STATE (R425). -/
inductive HiState where
  | booting | handshake | running | failed
  deriving DecidableEq, Repr

/-- What the host sets in configuration space (R414): VF Enable and NumVFs, D3hot, payload and read request sizes in bytes,
Relaxed Ordering enable, AER status, the Link IDE stream and the Selective IDE streams in use. -/
structure PciConfig where
  vfEnable : Bool
  numVfs : Nat
  d3hot : Bool
  maxPayload : Nat
  maxRead : Nat
  relaxed : Bool
  aer : W32
  ideLink : Bool
  ideSelective : Nat
  deriving DecidableEq, Repr

/-- The host interface block, the rings and the commands. -/
structure HostIf where
  state : HiState
  step : Nat
  fail : Nat
  uptimeMs : Nat
  hsLayout : W64
  /-- `HS_CONFIG`, and the number of buckets as the handshake has taken it from there (R323, R426). -/
  hsNb : Nat
  nbLog2 : Nat
  mboxDesc : Map W64
  mboxCpl : Option (Record × Bool)
  mboxPhase : Bool
  bar2Base : Nat
  bar2Log2 : Nat
  rings : Map (Option Ring)
  cmds : List Cmd
  nextCid : Nat
  seqno : W32
  /-- MSI-X tables (R417) by (function·1,024 + vector)·4 + word; an unlisted control word is masked (log 10). -/
  msix : Map W32
  msixPending : Map Bool
  /-- VF quotas: ring limit and sequence limit (R460); absent: unlimited. -/
  quota : Map (Option (Nat × Nat))
  /-- The host link is trained. -/
  linkUp : Bool
  /-- The module's rings and mailbox accept commands (R445, R504). -/
  serving : Bool
  cfg : PciConfig
  deriving DecidableEq, Repr

/-! ### Epochs and paddock (11) -/

/-- An epoch requested and not retired. -/
structure Epoch where
  num : W32
  set : Settings
  /-- Modules that have reported it or a later one, this module and twins included. -/
  reports : List Nat
  moduleDone : Bool
  complete : Bool
  slow : Bool
  /-- Models it activates and retires, for the commands that wait. -/
  activates : Option Nat
  retires : Option Nat
  /-- It is a takeover epoch for this module index, taken by this standby entry (R501). -/
  takeover : Option (Nat × Nat)
  /-- It carries the fits of a REFIT (R572), by bank key. -/
  refit : Bool
  fits : List (Nat × Corr)
  deriving DecidableEq, Repr

/-- An epoch wanted by a command and not yet requested (R484). -/
structure Want where
  cid : Option Nat
  /-- The module whose power limit or calibration set it changes. -/
  target : Nat
  /-- The join epoch is numbered one after this (R478). -/
  base : Option W32
  power : Option Nat
  activate : Option Nat
  retire : Option Nat
  factory : Option Bool
  noBanks : Bool
  takeover : Option (Nat × Nat)
  /-- It carries the fits of a REFIT (R572). -/
  refit : Bool
  fits : List (Nat × Corr)
  deriving DecidableEq, Repr

inductive Role where
  | alone | lead | member | standby
  deriving DecidableEq, Repr

inductive PortState where
  | down | training | up
  deriving DecidableEq, Repr

/-- One optical port (R469, R506, R468). -/
structure Port where
  state : PortState
  routed : Bool
  twin : Bool
  peerPort : Nat
  peerIndex : Nat
  serial : W64
  txSeq : Nat
  rxSeq : Nat
  /-- Packets sent and not acknowledged, oldest first, with the replays of the oldest. -/
  unacked : List (Nat × PacketBody)
  /-- Packets that wait because 1,024 are unacknowledged. -/
  queue : List PacketBody
  replays : Nat
  deriving DecidableEq, Repr

/-- A link entry of the plan (R476). -/
structure Link where
  endA : Nat
  portA : Nat
  endB : Nat
  portB : Nat
  twin : Bool
  deriving DecidableEq, Repr

/-- What arrives in pieces: an operation, the notice of one, or a message. -/
inductive PartKind where
  | request | reply | message
  deriving DecidableEq, Repr

/-- Pieces that have arrived (R468): by number, with their data. -/
structure Part where
  kind : PartKind
  module : Nat
  id : Nat
  got : Map (List Byte)
  deriving DecidableEq, Repr

/-- A fetched command of the lead that has not come to this module and names stalls here (R457). -/
structure Guest where
  cid : Nat
  epoch : W32
  stalls : List Nat
  deriving DecidableEq, Repr

/-- The paddock as this module knows it. -/
structure Paddock where
  role : Role
  index : Nat
  size : Nat
  chain : Nat
  pdId : W64
  /-- The plan: (serial, index, chain) of the modules; serials of the standbys; links. -/
  modules : List (W64 × Nat × Nat)
  standbys : List W64
  links : List Link
  /-- Next-hop candidates by module index (R473). -/
  hops : Map (List Nat)
  unreachable : List Nat
  fenced : Bool
  joining : Option Nat
  twin : TwinState
  twinPeer : Nat
  mirror : W32
  /-- The bindings of the paddock, known to the lead. -/
  bindings : List Binding
  /-- On the protected module: the standby holds every copied byte and bank (R497). -/
  twinReady : Bool
  /-- On the protected module: Derier's state as it was last sent to the standby (R492). -/
  twinTold : Option TwinData
  /-- On the standby: banks of the copy still to be programmed (R497). -/
  twinBanks : List TwinBank
  /-- Number of the next mirrored write, and those that the standby has not performed yet (R495). -/
  twinNext : Nat
  twinOut : List Nat
  /-- Ports of other modules that the lead knows to be Down, as (end, port) (R474). -/
  downs : List (Nat × Nat)
  /-- Taken indices, with the takeover epoch from which each counts again (R491). -/
  away : List (Nat × W32)
  /-- On the standby bound to index 0: members that report index 0 unreachable (R503). -/
  leadGone : List Nat
  /-- Pieces received of operations, notices and messages that are not whole yet (R468). -/
  parts : List Part
  /-- The model's own number of the next message that goes in pieces. -/
  messageNo : Nat
  /-- Ends to which a relay could not forward a packet of this module, until something comes from there (R474). -/
  cut : List Nat
  guests : List Guest
  epochs : List Epoch
  requested : W32
  complete : W32
  wants : List Want
  limiterEpoch : W32
  limiterPosted : W32
  farrierEpoch : W32
  farrierPosted : W32
  ports : Map Port
  deriving DecidableEq, Repr

/-! ### Health (12) -/

/-- A kept sample (R516): physical crib, bank, inputs, crib outputs, repeats, and the (group, phase) pairs that ran a
split pass. -/
structure Sample where
  stall : Nat
  crib : Nat
  bank : Nat
  number : Nat
  inputs : List Int
  outs : List Int
  reps : Nat
  splits : List (Nat × Nat)
  deriving DecidableEq, Repr

/-- A watch-list entry (R536, R552). -/
structure Watch where
  kind : Nat
  unit : Nat
  crib : Nat
  fails : Nat
  clean : Nat
  failedNow : Bool
  deriving DecidableEq, Repr

/-- The health block, the vet engine and the management reports. -/
structure Health where
  probe : Bool
  vet : Bool
  bundle : List Byte
  vetVersion : Nat
  patterns : Nat
  runUs : Nat
  watch : Map (Option Watch)
  waitingWatch : List Watch
  /-- Uptime of each stall's last completed vet run (R548). -/
  vetAt : Map (Option Nat)
  samples : List Sample
  commandDown : Bool
  healthDown : Bool
  /-- Commands in progress when the command pair stopped: they end ABORTED (R544). -/
  lost : List Nat
  mgmtEnable : Bool
  heartbeat : Nat
  mac : W64
  addr : W32
  pfx : Nat
  gateway : W32
  collector : W32
  collectorPort : BitVec 16
  listen : BitVec 16
  reportSeq : W32
  sendQueue : List Event
  sendOverflow : Bool
  pushTotal : Nat
  pushBytes : Map (Option Byte)
  deriving DecidableEq, Repr

/-! ### Sense, power, clocks (13, 14) -/

/-- Who requested a conversion (R557). -/
inductive Requester where
  | thermal | check | sweep | host
  deriving DecidableEq, Repr

structure Request where
  who : Requester
  channel : Nat
  dac : BitVec 12
  deriving DecidableEq, Repr

/-- An accumulator (R561). -/
structure Acc where
  sum : Int
  count : Nat
  mn : Int
  mx : Int
  deriving DecidableEq, Repr

/-- The sense block, the farrier's sweeps, the power limiter and the thermal loop. -/
structure Sense where
  adc : Option Request
  waiting : List Request
  live : Map (Option Acc)
  acc : Map Acc
  peakMin : Map (Option Int)
  peakMax : Map (Option Int)
  /-- The next conversion starts the channel's peak trackers (R593). -/
  peakClr : Map Bool
  corr : Map (BitVec 16 × BitVec 16)
  factoryCorr : Map (BitVec 16 × BitVec 16)
  pendCorr : List (Nat × BitVec 16 × BitVec 16)
  /-- The sense corrections of a REFIT, held until the farrier adopts its epoch (R572). -/
  heldCorr : List (Nat × BitVec 16 × BitVec 16)
  factory : Bool
  failedRuns : Map Nat
  failed : Map Bool
  window : W32
  adcFail : Bool
  adcRuns : Nat
  checks : List Int
  /-- The check conversions of this window have been requested (R557). -/
  checksAsked : Bool
  sweepCodes : List Int
  sweeping : Bool
  sweepWaiting : Bool
  /-- The sweep is that of a REFIT. -/
  sweepRefit : Bool
  calCount : W32
  calLastMs : W64
  /-- Table entries of R570 by group of diodes: 0 to 3 the stable dies (their converter-reference and bias tables), 4 the gate
  die, 5 and 6 the photonic dies (bias tables). -/
  entries : Map Nat
  /-- The 14 compensation tables of 64 words (R570), as sweeps last fitted them: 0 to 3 the converter references of the stable
  dies, 4 to 13 the biases of PLLs 0 to 9; those of a sweep whose window has not ended; those of a REFIT, held for its epoch;
  and those of the record area (R571). -/
  tables : List (List Nat)
  pendTables : Option (List (List Nat))
  heldTables : Option (List (List Nat))
  factoryTables : List (List Nat)
  /-- Converter-reference words of the four stable dies at power-up. -/
  refBase : List Nat
  /-- Band and bias of each PLL (R567, R569). -/
  pllBand : List Nat
  pllBias : List Nat
  /-- Means of the seven groups of diodes at the end of the last sweep (R568), where the group had one. -/
  sweepMeans : List (Option (Int × Nat))
  inputW : Nat
  thermalW : Nat
  duty : Nat
  gate : Nat
  unmetRun : Nat
  unmetRaised : Bool
  throttling : Bool
  coolRun : Nat
  hot : Map Bool
  lock : BitVec 10
  lastUnlock : Nat
  /-- A REFIT in progress (R571, R572): its command, whether its sweep has ended, and the fits held by bank key; none
  where the fit lay outside the limits of R123. -/
  refits : Option (Nat × Bool × List (Nat × Option Corr))
  deriving DecidableEq, Repr

/-- Power and pins (R585, R603 to R607, R617). -/
structure Board where
  powered : Bool
  inputValid : Bool
  resetLow : Bool
  perstLow : Bool
  tripped : Bool
  straps : BitVec 4
  pinsLink : BitVec 2
  pinsAlt : Bool
  pinsMgmtOff : Bool
  cause : Nat
  image : Bool
  tripRecord : Option (Nat × Int)
  causeRecord : Option Nat
  unlockRaise : Bool
  pwrOk : Bool
  stepping : Nat
  serial : W64
  fwVersion : W32
  /-- The two image slots' versions and the marked one (R463). -/
  slot0 : Nat
  slot1 : Nat
  marked : Bool
  /-- SHAKE256 of each slot's image; absent: the image as manufactured (R451). -/
  hash0 : Option Nat
  hash1 : Option Nat
  /-- The slot whose image runs. -/
  runs : Bool
  deriving DecidableEq, Repr

/-- Everything but the queue of commands. `draws` is the model's own counter of free values. -/
structure Dev where
  draws : Nat
  stalls : Map Stall
  cribs : Map Crib
  banks : Map Bank
  ops : List RemOp
  nextId : Nat
  /-- Event counters by the space 0x4 offset of their register (R14, R420). -/
  ctr : Map W32
  mem : Memory
  attn : Attn
  feed : Feed
  host : HostIf
  pad : Paddock
  health : Health
  sense : Sense
  board : Board
  out : List Output
  deriving DecidableEq, Repr

/-- The state: the waiting commands, first in first out, and the module. -/
structure State where
  pending : List Instr
  dev : Dev
  deriving DecidableEq, Repr

/-- What stops the machine. -/
inductive Fault where
  /-- Raised by INPUT_OUT_OF_RANGE when the input passes the absolute maximum ratings of R616: under R3 no behaviour
  is defined. Safe: the model stops where the hardware may do anything. -/
  | outsideRatings
  deriving DecidableEq, Repr

/-- No meaning for the command in this state. -/
inductive Refusal where
  /-- Raised by an arm of `exec` that has no meaning yet. Safe. -/
  | notModelled (mnemonic : String)
  /-- Raised by a command that is an event or a step of the module and cannot occur in the state: its own rule's
  condition does not hold (the stall does not run, nothing waits). Safe: the hardware takes no such step. -/
  | notEnabled (command : String)
  deriving DecidableEq, Repr

/-- The answer of a meaning. -/
abbrev Res := Host.Outcome State Fault Refusal

/-! ### Reset -/

/-- An SRAM buffer that nothing has written. -/
def Sram.reset : Sram := { bytes := [], err := [], written := [], failing := [], remap := [] }

/-- A stall after module reset (R139, R201, R210, R236, R282). -/
def Stall.reset : Stall :=
  { mode := .idle, ending := none, owner := none, follow := false, pc := 0, limit := 0, store := [], storeErr := [],
    storeFailing := [], storeRemap := [], faultCode := 0, faultPc := 0, faultDetail := 0,
    sreg := [], areg := [], preg := [], vreg := [], creg := [], rstack := [], held := none,
    epoch := 0, reported := 0, posted := none, lateRaised := false, refEntry := 0, refWord := none, sel := [],
    trough := Sram.reset, bin := Sram.reset, manger := Sram.reset, tFlags := [], bFlags := [],
    hold := [], refused := [], jammed := [], cribOps := [], busy := false, ueOff := 0, ueBuf := 0, ueValid := false,
    thresh := 0x80, pins := [], side := [], sideErr := [], spareIndex := none, pendingSpare := none, pendingRetire := false, gone := false }

/-- A bank as manufactured: Empty, no image, no wear (R85, R133). Log 11. -/
def Bank.reset : Bank :=
  { state := .empty, format := 3, tag := 0, weak := [], wear := 0, image := [], refs := [],
    refWeak := [], refSeen := [], corr := { off := [], gain := [] },
    corrUe := false, fit := none, pend := none, refitBad := false, imagePresent := false, probes := 0, lastPass := 0, forPlacement := none,
    forSpare := false, forTwin := false }

/-- A crib after reset: full credit (R577). -/
def Crib.reset : Crib := { credit := 147456, tick := 0, unsampled := 0, samples := 0, lastSample := none }

def Memory.reset : Memory :=
  { dram := [], dramErr := [], dramBad := [], dramFailing := [], dramRemap := [], dramUe := [], loft := [], loftErr := [], loftBad := [],
    loftUe := [], record := [], wear := [], wornSent := [], wearIndex := [], gateErr := [], groomEnable := true, groomPeriod := 8,
    layout := 0x0000040008040228 }

def Attn.reset : Attn :=
  { seqs := [], jobs := [], edits := [], releases := [], taken := [], prefixes := [], poolWait := [], clock := 0,
    turn := [] }

def Feed.reset : Feed :=
  { keys := [], models := [], stages := [], adapters := [], catalog := [], progPower := 112, timeout := 20 }

/-- Configuration space after reset (R414): no VF, D0, the sizes and enables that PCIe gives after reset. Log 49. -/
def PciConfig.reset : PciConfig :=
  { vfEnable := false, numVfs := 0, d3hot := false, maxPayload := 128, maxRead := 512, relaxed := true, aer := 0,
    ideLink := false, ideSelective := 0 }

def HostIf.reset : HostIf :=
  { state := .booting, step := 0, fail := 0, uptimeMs := 0, hsLayout := 0x0000040008040228, hsNb := 0x14, nbLog2 := 0x14,
    mboxDesc := [], mboxCpl := none, mboxPhase := false, bar2Base := 0, bar2Log2 := 36, rings := [], cmds := [],
    nextCid := 0, seqno := 0, msix := [], msixPending := [], quota := [], linkUp := false, serving := true, cfg := PciConfig.reset }

/-- Epoch 0's settings (R482): no Live bank, 1,500 W (R26), FITTED (R571). -/
def Settings.reset : Settings := { power := 1500, live := [], dflt := [], factory := false }

/-- A port after reset (R506). -/
def Port.reset : Port :=
  { state := .down, routed := false, twin := false, peerPort := 0, peerIndex := 0xFF, serial := 0, txSeq := 0,
    rxSeq := 0, unacked := [], queue := [], replays := 0 }

/-- Epoch 0, complete (R482). -/
def Epoch.reset : Epoch :=
  { num := 0, set := Settings.reset, reports := [0],
    moduleDone := true, complete := true, slow := false, activates := none, retires := none, takeover := none,
    refit := false, fits := [] }

def Paddock.reset : Paddock :=
  { role := .alone, index := 0, size := 1, chain := 0, pdId := 0, modules := [], standbys := [], links := [],
    hops := [], unreachable := [], fenced := false, joining := none, twin := .unbound, twinPeer := 0, mirror := 0,
    bindings := [], twinReady := false, twinTold := none, twinBanks := [], twinNext := 0, twinOut := [], downs := [], away := [],
    leadGone := [], parts := [], messageNo := 0, cut := [], guests := [], epochs := [Epoch.reset], requested := 0, complete := 0, wants := [],
    limiterEpoch := 0, limiterPosted := 0, farrierEpoch := 0, farrierPosted := 0, ports := [] }

/-- The health block with the record area as shipped (R553); no bundle installed. Log 11. -/
def Health.reset : Health :=
  { probe := true, vet := true, bundle := [], vetVersion := 0, patterns := 0, runUs := 0, watch := [],
    waitingWatch := [], vetAt := [], samples := [], commandDown := false, healthDown := false, lost := [],
    mgmtEnable := false, heartbeat := 10, mac := 0, addr := 0, pfx := 24, gateway := 0, collector := 0,
    collectorPort := 0, listen := 0, reportSeq := 0, sendQueue := [], sendOverflow := false, pushTotal := 0,
    pushBytes := [] }

/-- An accumulator with nothing in it (R594). -/
def Acc.reset : Acc := { sum := 0, count := 0, mn := 0, mx := 0 }

def Sense.reset : Sense :=
  { adc := none, waiting := [], live := [], acc := [], peakMin := [], peakMax := [], peakClr := [], corr := [], factoryCorr := [],
    pendCorr := [], heldCorr := [], factory := false, failedRuns := [], failed := [], window := 0, adcFail := false, adcRuns := 0,
    checks := [], checksAsked := false, sweepCodes := [], sweeping := false, sweepWaiting := false, sweepRefit := false,
    calCount := 0, calLastMs := 0,
    entries := [], tables := [], pendTables := none, heldTables := none, factoryTables := [], refBase := [], pllBand := [],
    pllBias := [], sweepMeans := [], inputW := 0, thermalW := 1500, duty := 256, gate := 16, unmetRun := 0,
    unmetRaised := false, throttling := false, coolRun := 0, hot := [], lock := 0, lastUnlock := 0, refits := none }

/-- The board right after module reset: the input is valid and the power-up sequence is to run (R589). MOD_PINS holds
undefined values until step 3 (R617): 0 here, by log 10. -/
def Board.reset : Board :=
  { powered := true, inputValid := true, resetLow := false, perstLow := false, tripped := false, straps := 0,
    pinsLink := 0, pinsAlt := false, pinsMgmtOff := false, cause := 0, image := false, tripRecord := none,
    causeRecord := none, unlockRaise := false, pwrOk := false, stepping := 0, serial := 0, fwVersion := 1,
    slot0 := 1, slot1 := 1, marked := false, hash0 := none, hash1 := none, runs := false }

def Dev.reset : Dev :=
  { draws := 0, stalls := [], cribs := [], banks := [], ops := [], nextId := 0, ctr := [], mem := Memory.reset,
    attn := Attn.reset, feed := Feed.reset, host := HostIf.reset, pad := Paddock.reset, health := Health.reset,
    sense := Sense.reset, board := Board.reset, out := [] }

/-- The module right after reset: before power-up has brought it to the handshake (R425, R589). -/
def State.reset : State := { pending := [], dev := Dev.reset }

end Sys2Proof.Machine
end

