-- ==== Sys2Proof/Machine/Ops.lean ====
section
/-! DEFINITION. The named operations over the state that every family uses: the answer of a meaning, stalls, banks
and counters, events and rings, the buffers, DRAM and the loft. -/

namespace Sys2Proof.Machine

open Sys2Proof

/-! ### The answer of a meaning -/

/-- A meaning: the module's next state, or none where the command cannot occur. Every completed command advances the
model's own draw counter. -/
def onDev (name : String) (f : Dev → Option Dev) (s : State) : Res :=
  match f s.dev with
  | some d => .next { s with dev := { d with draws := d.draws + 1 } }
  | none => .refused (.notEnabled name)

/-- A command that always has an effect. -/
def always (f : Dev → Dev) (s : State) : Res :=
  .next { s with dev := { f s.dev with draws := (f s.dev).draws + 1 } }

/-! ### Units -/

/-- The stall with an index. -/
def stallOf (d : Dev) (st : Nat) : Stall := mget Stall.reset d.stalls st

/-- A stall written back. -/
def setStall (d : Dev) (st : Nat) (x : Stall) : Dev := { d with stalls := mput Stall.reset d.stalls st x }

/-- A stall changed. -/
def modStall (d : Dev) (st : Nat) (f : Stall → Stall) : Dev := setStall d st (f (stallOf d st))

/-- The key of a physical crib, and of a bank of it (R336: crib-bank n is 2c + b). -/
def cribKey (st phys : Nat) : Nat := 17 * st + phys

def bankKey (st phys b : Nat) : Nat := 2 * cribKey st phys + b

/-- The physical crib that serves a crib index (R421). -/
def physOf (d : Dev) (st crib : Nat) : Nat :=
  if (stallOf d st).spareIndex = some crib then 16 else crib

def bankOf (d : Dev) (k : Nat) : Bank := mget Bank.reset d.banks k

def setBank (d : Dev) (k : Nat) (x : Bank) : Dev := { d with banks := mput Bank.reset d.banks k x }

def modBank (d : Dev) (k : Nat) (f : Bank → Bank) : Dev := setBank d k (f (bankOf d k))

def cribOf (d : Dev) (k : Nat) : Crib := mget Crib.reset d.cribs k

def setCrib (d : Dev) (k : Nat) (x : Crib) : Dev := { d with cribs := mput Crib.reset d.cribs k x }

/-! ### Event counters (R14) -/

/-- A saturating count. -/
def satAdd (c : W32) (n : Nat) : W32 := BitVec.ofNat 32 (min (c.toNat + n) (2 ^ 32 - 1))

/-- The counter of the register at a space 0x4 offset. -/
def ctrOf (d : Dev) (off : Nat) : W32 := mget 0 d.ctr off

/-- n events counted at a register. -/
def bumpBy (d : Dev) (off n : Nat) : Dev := { d with ctr := mput 0 d.ctr off (satAdd (ctrOf d off) n) }

def bump (d : Dev) (off : Nat) : Dev := bumpBy d off 1

/-- A counter cleared (R14). -/
def clearCtr (d : Dev) (off : Nat) : Dev := { d with ctr := mput 0 d.ctr off 0 }

/-! The registers' places (R419, R420, and the chapters' own register tables). -/

def stallReg (st o : Nat) : Nat := 0x400000 + 0x1000 * st + o
def engineReg (die o : Nat) : Nat := 0x200000 + 0x1000 * die + o
def dramReg (stack o : Nat) : Nat := 0x100000 + 0x10000 * stack + o
def loftReg (stack o : Nat) : Nat := 0x180000 + 0x1000 * stack + o
def portReg (p o : Nat) : Nat := 0x030000 + 0x40 * p + o

/-! ### Numbers -/

/-- A stall's own number: module in 15:10, stall index in 9:0 (R138). -/
def stallNumber (d : Dev) (st : Nat) : Nat := 1024 * d.pad.index + st

/-- `HI_UPTIME` as a word. -/
def uptime (d : Dev) : W64 := BitVec.ofNat 64 d.host.uptimeMs

/-- Something leaves the module. -/
def emit (d : Dev) (o : Output) : Dev := { d with out := d.out ++ [o] }

/-! ### Packets and messages (R468, R473, R475) -/

def setPad (d : Dev) (p : Paddock) : Dev := { d with pad := p }

def portOf (d : Dev) (p : Nat) : Port := mget Port.reset d.pad.ports p

def setPort (d : Dev) (p : Nat) (x : Port) : Dev :=
  { d with pad := { d.pad with ports := mput Port.reset d.pad.ports p x } }

/-- A packet leaves by a port under the next sequence number, or waits while 1,024 are unacknowledged. -/
def sendPacket (d : Dev) (p : Nat) (body : PacketBody) : Dev :=
  let x := portOf d p
  if x.unacked.length < 1024 then
    emit (setPort d p { x with txSeq := (x.txSeq + 1) % 4096, unacked := x.unacked ++ [(x.txSeq, body)] })
      (.packet p x.txSeq body)
  else setPort d p { x with queue := x.queue ++ [body] }

/-- The candidate ports toward an end that are Up and routed (R473). -/
def usablePorts (d : Dev) (m : Nat) : List Nat :=
  (mget [] d.pad.hops m).filter fun p => (portOf d p).state == .up && (portOf d p).routed

/-- A packet sent toward an end by one of its candidates (log 9); nothing is sent where none is usable. -/
def sendTo (d : Dev) (m stall addr : Nat) (body : PacketBody) : Dev :=
  match usablePorts d m with
  | [] => d
  | [p] => sendPacket d p body
  | p :: ps => sendPacket d ((p :: ps).getD (Config.hopPick stall (addr / 2048) % (ps.length + 1)) p) body

/-- The first number below n that f takes. -/
def firstUnder : Nat → (Nat → Bool) → Option Nat
  | 0, _ => none
  | n + 1, f => (firstUnder n f).orElse fun _ => if f n then some n else none

/-- Own standby entry. -/
def ownEntry (d : Dev) : Nat := (firstUnder 16 fun k => (d.pad.standbys.drop k).head? == some d.board.serial).getD 0

/-- What this module is called as an end of messages: its index, or 64 plus its standby entry. -/
def here (d : Dev) : Nat := if d.pad.role = .standby then 64 + ownEntry d else d.pad.index

/-- A module that takes commands from a lead. -/
def follower (d : Dev) : Bool := d.pad.role == .member || d.pad.role == .standby

/-! Messages whose bytes do not fit into one packet (R468). The manual gives Derier's messages no form: the bytes that they
carry are cut into pieces of 512, and their other fields go with each packet (DESIGN CHOICE, log 36). -/

/-- The bytes that a message carries beside its fields, part by part. -/
def loadOf : Message → List (List Byte)
  | .command _ _ _ data _ => data.getD []
  | .answer _ _ _ _ _ data => [data]
  | .stage o => o.manifest :: (o.keys.map fun p => p.2.getD []) ++ (o.adapter.map (·.copies)).getD []
  | .shard _ _ bytes => [bytes]
  | .twinCopy _ dram loft banks =>
    dram.map (·.2) :: loft.map (·.2) :: banks.flatMap fun b => b.image.map (·.2) :: b.scales.map (·.2)
  | .twinState x => x.keys.map fun p => p.2.getD []
  | .twinWrite _ _ obs => [obs.map (·.2)]
  | _ => []

/-- Bytes cut into parts as long as those given. -/
def splitLike : List (List Byte) → List Byte → List (List Byte)
  | [], _ => []
  | p :: ps, bs => bs.take p.length :: splitLike ps (bs.drop p.length)

/-- The same places with other bytes. -/
def placed (l : List (Nat × Byte)) (bs : List Byte) : List (Nat × Byte) := (l.map (·.1)).zip bs

/-- The same key slots with other bytes. -/
def refillKeys (keys : Map (Option (List Byte))) (ps : List (List Byte)) : Map (Option (List Byte)) :=
  (keys.zip ps).map fun p => (p.1.1, p.1.2.map fun _ => p.2)

/-- The same banks with other bytes. -/
def refillBanks : List Machine.TwinBank → List (List Byte) → List Machine.TwinBank
  | [], _ => []
  | b :: bs, ps =>
    { b with image := placed b.image (ps.headD [])
             scales := (b.scales.map (·.1)).zip (ps.drop 1) } :: refillBanks bs (ps.drop (1 + b.scales.length))

/-- A message with other bytes in the parts that it carries. -/
def fillMessage (m : Message) (bs : List Byte) : Message :=
  let ps := splitLike (loadOf m) bs
  match m with
  | .command cid fn desc data epoch => .command cid fn desc (data.map fun _ => ps) epoch
  | .answer cid status result v0 v1 _ => .answer cid status result v0 v1 (ps.headD [])
  | .stage o =>
    .stage { o with manifest := ps.headD [], keys := refillKeys o.keys (ps.drop 1)
                    adapter := o.adapter.map fun a => { a with copies := ps.drop (1 + o.keys.length) } }
  | .shard model index _ => .shard model index (ps.headD [])
  | .twinCopy mirror dram loft banks =>
    .twinCopy mirror (placed dram (ps.headD [])) (placed loft (ps.getD 1 [])) (refillBanks banks (ps.drop 2))
  | .twinState x => .twinState { x with keys := refillKeys x.keys ps }
  | .twinWrite n loft obs => .twinWrite n loft (placed obs (ps.headD []))
  | m => m

/-- All its bytes, and the message with zeros for them. -/
def loadBytes (m : Message) : List Byte := (loadOf m).flatten
def blankMessage (m : Message) : Message := fillMessage m (List.replicate (loadBytes m).length 0)

/-- Pieces of at most 512 bytes of n bytes of data; an operation, a notice or a message without data is one (R468). -/
def pieceCount (n : Nat) : Nat := max 1 ((n + 511) / 512)

/-- What carries a message: one packet, or as many as its bytes need, under the number `no`. -/
def messageBodies (dst src no : Nat) (m : Message) : List PacketBody :=
  if (loadBytes m).length ≤ 512 then [.message dst src m]
  else
    (List.range (pieceCount (loadBytes m).length)).map fun k =>
      .piece dst src no k (blankMessage m) (slice (loadBytes m) (512 * k) 512)

/-- A message sent by f; its pieces take the next number. -/
def sendWhole (d : Dev) (dst : Nat) (m : Message) (f : Dev → PacketBody → Dev) : Dev :=
  let bs := messageBodies dst (here d) d.pad.messageNo m
  bs.foldl f (if bs.length ≤ 1 then d else setPad d { d.pad with messageNo := d.pad.messageNo + 1 })

/-- A message to another end. -/
def sendMsg (d : Dev) (dst : Nat) (m : Message) : Dev := sendWhole d dst m fun d b => sendTo d dst 0 0 b

/-- This module's own twin port. -/
def twinPort (d : Dev) : Option Nat := (d.pad.ports.find? fun p => p.2.twin).map (·.1)

def twinPortUp (d : Dev) : Bool := (twinPort d).any fun p => (portOf d p).state == .up

/-- A message over the twin link. -/
def sendTwin (d : Dev) (m : Message) : Dev :=
  match twinPort d with
  | some p => sendWhole d d.pad.twinPeer m fun d b => sendPacket d p b
  | none => d

/-- The module index that a stage's placements and an epoch's settings are for here (R33, R498): its own; on a standby, the
protected module's while the binding mirrors MODELS. -/
def served (d : Dev) : Option Nat :=
  if d.pad.role = .standby then
    (if (d.pad.twin = .copying ∨ d.pad.twin = .inStep) ∧ d.pad.mirror.getLsbD 0 then some d.pad.twinPeer else none)
  else some d.pad.index

/-- The module holds the index (R33): a standby holds none. -/
def holdsIndex (d : Dev) (m : Nat) : Bool := m == d.pad.index && d.pad.role != .standby

/-! ### Rings and events (R429, R448, R449) -/

def ringOf (d : Dev) (r : Nat) : Option Ring := mget none d.host.rings r

def setRing (d : Dev) (r : Nat) (x : Option Ring) : Dev :=
  { d with host := { d.host with rings := mput none d.host.rings r x } }

/-- A ring the device produces into is full one entry before its head (R430). Log 17. -/
def ringFull (x : Ring) : Bool := (x.tail + 1) % 2 ^ x.sizeLog2 == x.head

/-- The producer moves on one entry; PHASE inverts with each pass (R429). -/
def advanceTail (x : Ring) : Ring :=
  { x with tail := (x.tail + 1) % 2 ^ x.sizeLog2,
           phase := if (x.tail + 1) % 2 ^ x.sizeLog2 = 0 then !x.phase else x.phase }

/-- What an unlisted word of an MSI-X table reads as: a vector is masked after reset (log 10). -/
def msixDefault (k : Nat) : W32 := if k % 4 = 3 then 1 else 0

/-- A word of a function's MSI-X table (R417). -/
def msixWord (d : Dev) (k : Nat) : W32 := mget (msixDefault k) d.host.msix k

/-- An MSI-X message (R416): a write of the vector's data to its address; a masked vector is left pending. -/
def sendMsix (d : Dev) (fn vector : Nat) : Dev :=
  let v := fn * 1024 + vector
  if (msixWord d (4 * v + 3)).getLsbD 0 then
    { d with host := { d.host with msixPending := mput false d.host.msixPending v true } }
  else
    emit { d with host := { d.host with msixPending := mput false d.host.msixPending v false } }
      (.msix fn vector (BitVec.ofNat 64 ((msixWord d (4 * v)).toNat + 2 ^ 32 * (msixWord d (4 * v + 1)).toNat))
        (msixWord d (4 * v + 2)))

/-- One event copy to one EVENT ring (R449), and the ring itself where host memory does not take it (R431). -/
def eventToRing (e : Event) (p : Dev × List (Nat × Nat)) (r : Nat) : Dev × List (Nat × Nat) :=
  match ringOf p.1 r with
  | none => p
  | some x =>
    if ringFull x then (bump (setRing p.1 r (some { x with overflow := true })) 0xB8, p.2)
    else if x.failAt = some x.posted then (setRing p.1 r (some { x with state := .error }), p.2 ++ [(x.owner, r)])
    else
      (sendMsix (emit (setRing p.1 r (some { advanceTail x with overflow := false, posted := x.posted + 1 }))
        (.event r x.tail x.phase x.overflow e)) x.owner x.vector, p.2)

/-- The rings of a function that take an event class. -/
def takers (d : Dev) (fn cls : Nat) : List Nat :=
  (d.host.rings.filter fun p =>
    match p.2 with
    | some x => x.type == .event && x.state == .active && x.owner == fn && x.mask.getLsbD cls
    | none => false).map (·.1)

/-- An event written to every ring that takes it, with the rings, and their functions, that this put in Error. `fn` 0xFFFF
is the whole module and goes to the PF's rings. -/
def writeEvent (d : Dev) (cls : Nat) (e : Event) : Dev × List (Nat × Nat) :=
  let ts := takers d (if e.function = 0xFFFF then 0 else e.function) cls
  if ts = [] then (bump d 0xB8, []) else ts.foldl (eventToRing e) (d, [])

/-- An event to be raised: function, class, code and details. -/
structure Raised where
  fn : Nat
  cls : Nat
  code : Nat
  det0 : Nat
  det1 : Nat

/-- Events written: on the lead or alone to the rings; of a member or a standby to the lead's rings, which it reaches by a
message (R445, R449), or not at all while no path leads there. -/
def passEvent (d : Dev) (cls : Nat) (e : Event) : Dev × List (Nat × Nat) :=
  if follower d then (if (usablePorts d 0).isEmpty then (bump d 0xB8, []) else (sendMsg d 0 (.event cls e), []))
  else writeEvent d cls e

/-- One event raised: numbered, queued for the management network with class 1, 4, 5 or 6 (R548), and written. A standby has no
module index and the manual gives MODULE no value for one (R448): the model writes 0 there, and 0 in the module bits of its
stall numbers (R138), which are also the lead's (DESIGN CHOICE, log 50). -/
def raiseOne (d : Dev) (q : Raised) : Dev × List (Nat × Nat) :=
  let e : Event :=
    { code := q.code, function := q.fn, seqno := d.host.seqno, uptime := uptime d, detail0 := BitVec.ofNat 64 q.det0,
      detail1 := BitVec.ofNat 32 q.det1, module := d.pad.index }
  let d := { d with host := { d.host with seqno := d.host.seqno + 1 } }
  let d := if q.cls = 1 ∨ q.cls = 4 ∨ q.cls = 5 ∨ q.cls = 6 then
      { d with health := { d.health with sendQueue := d.health.sendQueue ++ [e] } } else d
  passEvent d q.cls e

/-- RING_ERROR of a ring that an event's write has put in Error. -/
def ringErrorOf (p : Nat × Nat) : Raised := { fn := p.1, cls := 3, code := 7, det0 := p.2, det1 := 2 }

/-- Events raised in order; each ring that fails on the way raises its own RING_ERROR, on the rings left. -/
def raiseAll : Nat → Dev → List Raised → Dev
  | 0, d, _ => d
  | _, d, [] => d
  | n + 1, d, q :: qs => raiseAll n (raiseOne d q).1 (qs ++ (raiseOne d q).2.map ringErrorOf)

/-- An event is raised (R448, R449). A ring fails once, so their number bounds the events that follow. -/
def raiseEvent (d : Dev) (fn cls code : Nat) (det0 : Nat) (det1 : Nat) : Dev :=
  raiseAll (1 + d.host.rings.length) d [{ fn := fn, cls := cls, code := code, det0 := det0, det1 := det1 }]

/-- An event that a member or a standby has raised reaches the lead's rings. -/
def takeEvent (d : Dev) (cls : Nat) (e : Event) : Dev :=
  raiseAll d.host.rings.length (writeEvent d cls e).1 ((writeEvent d cls e).2.map ringErrorOf)

/-- A ring enters Error, and with a COMP ring the SUB rings bound to it (R431); RING_ERROR goes to the function's
other event rings. -/
def ringError (d : Dev) (r reason : Nat) : Dev :=
  match ringOf d r with
  | none => d
  | some x =>
    let d := setRing d r (some { x with state := .error })
    let d := raiseEvent d x.owner 3 7 r reason
    if x.type = .comp then
      (d.host.rings.filter fun p =>
        match p.2 with
        | some y => y.type == .sub && y.state == .active && y.bind == r
        | none => false).foldl
        (fun d p => match ringOf d p.1 with
          | some y => raiseEvent (setRing d p.1 (some { y with state := .error })) y.owner 3 7 p.1 3
          | none => d) d
    else d

/-! ### Stall buffers (R203, R225 to R232) -/

/-- Sizes of trough, bin, manger and routine store (R38). -/
def bufSize (buf : Nat) : Nat :=
  if buf = 0 then 0x30000 else if buf = 1 then 0x20000 else if buf = 2 then 0x10000 else 0x8000

def sramOf (x : Stall) (buf : Nat) : Sram := if buf = 0 then x.trough else if buf = 1 then x.bin else x.manger

def setSram (x : Stall) (buf : Nat) (m : Sram) : Stall :=
  if buf = 0 then { x with trough := m } else if buf = 1 then { x with bin := m } else { x with manger := m }

/-- The place of a buffer byte, as the free values name it. -/
def bytePlace (st buf off : Nat) : Nat := (st * 4 + buf) * 0x40000 + off

/-- The incomplete remote operations of one of this module's stalls. -/
def opsOf (d : Dev) (st : Nat) : List RemOp := d.ops.filter fun o => o.own && o.op.srcStall == st

/-- A byte of a stall's buffer lies in the destination of one of its incomplete GETs (R51): `dest` is the local address
buffer·2¹⁸ + offset. -/
def getCovers (d : Dev) (st buf off : Nat) : Bool :=
  (opsOf d st).any fun o => o.op.kind == .get && o.dest / 2 ^ 18 == buf && o.dest % 2 ^ 18 ≤ off &&
    off < o.dest % 2 ^ 18 + o.op.len

/-- The bytes a read returns (R51, R226, R227): stored ones; undefined where nothing has been written, and in the
destination of an incomplete GET. -/
def sramRead (d : Dev) (st buf off n : Nat) : List Byte :=
  (List.range n).map fun k =>
    if getCovers d st buf (off + k) then Config.freeByte d.draws (bytePlace st buf (off + k))
    else (mget none (sramOf (stallOf d st) buf).bytes (off + k)).getD
      (Config.freeByte d.draws (bytePlace st buf (off + k)))

/-- The remap entries of a buffer; 3 is the routine store. -/
def sramEntries (x : Stall) (buf : Nat) : List (Nat × Nat × Bool) :=
  if buf = 3 then x.storeRemap else (sramOf x buf).remap

def setEntries (x : Stall) (buf : Nat) (l : List (Nat × Nat × Bool)) : Stall :=
  if buf = 3 then { x with storeRemap := l } else setSram x buf { sramOf x buf with remap := l }

/-- A failing line gets one of its buffer's 8 entries; with none free it is reported (R232, R527). The manual does not say
which: the model takes the lowest free spare line and the next entry. A line that waits under R231 keeps waiting for its
whole-line write, whatever later passes find in it. DESIGN CHOICE, log 52. -/
def sramFailing (d : Dev) (st buf line : Nat) (holds : Bool) : Dev :=
  let es := sramEntries (stallOf d st) buf
  if es.any fun e => e.1 == line then d
  else
    match firstBelow 8 fun n => es.all fun e => e.2.1 != n with
    | some n => modStall d st fun x => setEntries x buf (es ++ [(line, n, holds)])
    | none => raiseEvent d 0xFFFF 4 0x1A (stallNumber d st) buf

/-- One uncorrectable byte found by a read (R226): counted, its place recorded, reported. -/
def bufUe (st buf : Nat) (d : Dev) (off : Nat) : Dev :=
  let d := bump d (stallReg st 0x70)
  let d := modStall d st fun x =>
    { x with ueOff := BitVec.ofNat 18 off, ueBuf := BitVec.ofNat 2 buf, ueValid := true }
  raiseEvent d 0xFFFF 1 2 (stallNumber d st) (off + 2 ^ 18 * buf + 2 ^ 31)

/-- What a read of a range does beside returning bytes (R226): corrected bytes counted, uncorrectable ones reported, and their
lines recorded for R231 (R527). A byte never written may be found uncorrectable (R227). -/
def sramTouch (d : Dev) (st buf off n : Nat) : Dev :=
  let m := sramOf (stallOf d st) buf
  let offs := (List.range n).map (off + ·)
  let ce := offs.filter fun o => mget none m.err o == some .correctable
  let ue := offs.filter fun o => mget none m.err o == some .uncorrectable ||
    (mget none m.bytes o == none && Config.freeBit d.draws (bytePlace st buf o))
  ((ue.map (· / 64)).eraseDups).foldl (fun d l => sramFailing d st buf l false)
    (ue.foldl (bufUe st buf) (if ce = [] then d else bumpBy d (stallReg st 0x68) ce.length))

/-- `BUF_UE_ADDR` (R237). -/
def ueWord (x : Stall) : Nat := x.ueOff.toNat + 2 ^ 18 * x.ueBuf.toNat + (if x.ueValid then 2 ^ 31 else 0)

/-- An uncorrectable byte of a stall's routine store, side store or correction store is found: the event record of R511. No
code is its own: the model writes BUF_UE with the stall and with `BUF_UE_ADDR`, which records none of these stores, as it
stands (DESIGN CHOICE, log 13). -/
def storeUe (d : Dev) (st : Nat) : Dev := raiseEvent d 0xFFFF 1 2 (stallNumber d st) (ueWord (stallOf d st))

/-- Failing lines with an uncorrectable byte take their remap entry with the first whole-line write (R231). -/
def remapOnWrite (full : List Nat) (remap : List (Nat × Nat × Bool)) : List (Nat × Nat × Bool) :=
  remap.map fun e => if full.contains e.1 then (e.1, e.2.1, true) else e

/-- The lines of 64 bytes that a write covers whole (R228). -/
def fullLines (off n : Nat) : List Nat :=
  ((List.range (n / 64 + 1)).map (fun k => (off + 63) / 64 + k)).filter fun l => 64 * l + 64 ≤ off + n

/-- A buffer after a write (R225, R228): the named bytes and their check bits, the written bits of whole lines. -/
def sramPut (m : Sram) (off : Nat) (bs : List Byte) : Sram :=
  let full := fullLines off bs.length
  { m with
    bytes := mputs none m.bytes off (bs.map some)
    err := m.err.filter fun p => ¬ (off ≤ p.1 ∧ p.1 < off + bs.length)
    written := full.foldl (fun w l => mput false w l true) m.written
    remap := remapOnWrite full m.remap }

/-- A buffer after a write of single bytes at given offsets, rising, as one operation (R164, R228). -/
def sramPutAt (m : Sram) (obs : List (Nat × Byte)) : Sram :=
  let lines := (obs.map fun p => p.1 / 64).eraseDups
  let full := lines.filter fun l => (obs.filter fun p => p.1 / 64 == l).length == 64
  { m with
    bytes := obs.foldl (fun b p => mput none b p.1 (some p.2)) m.bytes
    err := m.err.filter fun p => !(obs.any fun q => q.1 == p.1)
    written := full.foldl (fun w l => mput false w l true) m.written
    remap := remapOnWrite full m.remap }

/-- A violation counted at a stall (R46). -/
def countViol (d : Dev) (st : Nat) : Dev := bump d (stallReg st 0x18)

/-- Bytes written into a stall's buffer. -/
def sramWrite (d : Dev) (st buf off : Nat) (bs : List Byte) : Dev :=
  modStall d st fun x => setSram x buf (sramPut (sramOf x buf) off bs)

/-- Bytes that the weight feed writes into a stall's buffer (R43): the buffers of a retired stall are unpopulated, so the
write is a violation, counted there, and changes nothing (R44 to R46). -/
def feedSramWrite (d : Dev) (st buf off : Nat) (bs : List Byte) : Dev :=
  if (stallOf d st).gone then countViol d st else sramWrite d st buf off bs

/-- Bytes that Derier reads from a stall's buffer, with what the read does: zeros and a violation where the stall is retired
(R44, R45). -/
def unitSramRead (d : Dev) (st buf off n : Nat) : Dev × List Byte :=
  if (stallOf d st).gone then (countViol d st, List.replicate n 0)
  else (sramTouch d st buf off n, sramRead d st buf off n)

/-- The fill flag of a slot (R209): buffer 0 the trough, else the bin. -/
def flagOf (x : Stall) (buf slot : Nat) : Bool :=
  if buf = 0 then mget false x.tFlags slot else mget false x.bFlags slot

def setFlag (x : Stall) (buf slot : Nat) (v : Bool) : Stall :=
  if buf = 0 then { x with tFlags := mput false x.tFlags slot v }
  else { x with bFlags := mput false x.bFlags slot v }

/-- Slots of the trough and the bin (R209). -/
def slotCount (buf : Nat) : Nat := if buf = 0 then 384 else 256

/-! ### DRAM (R39 to R41, R340 to R347) -/

/-- Bytes of one stack, and the key of a byte (R39). -/
def stackSize : Nat := 0x1400000000

def dramKey (stack loc : Nat) : Nat := stack * stackSize + loc

/-- `dram_place` of R39, as a key. -/
def dramPlace (off : Nat) : Nat := dramKey (off / 2048 % 8) (off / 2048 / 8 * 2048 + off % 2048)

/-- The key of a space 0x5 offset of a die (R40): its two stacks lie one after the other. -/
def homeKey (die off : Nat) : Nat := dramKey (2 * die) off

/-- The line of a key, and the stack and local line of it. -/
def lineOf (key : Nat) : Nat := key / 64
def stackOf (key : Nat) : Nat := key / stackSize
def localLine (key : Nat) : Nat := key % stackSize / 64

/-- DRAM and loft contents in canonical form. -/
abbrev Memory.wf (m : Memory) : Prop := mwf 0 m.dram ∧ mwf 0 m.loft

def setMem (d : Dev) (m : Memory) : Dev := { d with mem := m }

/-- The bytes at a list of DRAM keys. -/
def dramAt (d : Dev) (keys : List Nat) : List Byte := keys.map fun k => mget 0 d.mem.dram k

/-- The lines named by keys, each once, in order of first naming. -/
def linesOf (keys : List Nat) : List Nat := (keys.map lineOf).eraseDups

/-- The error standing in a line. -/
def lineErr (d : Dev) (line : Nat) : Option ErrKind := mget none d.mem.dramErr line

/-- What reading a DRAM line does beside returning it (R342, R343, R345). A corrected line is written back. -/
def dramTouch (d : Dev) (line : Nat) : Dev :=
  let stack := stackOf (64 * line)
  match lineErr d line with
  | none => d
  | some .correctable =>
    let d := bump d (dramReg stack 0x08)
    setMem d { d.mem with dramErr := mput none d.mem.dramErr line none }
  | some .uncorrectable =>
    let d := bump d (dramReg stack 0x10)
    let loc := localLine (64 * line)
    let d := setMem d { d.mem with dramUe := mput (0, false) d.mem.dramUe stack (loc, true) }
    raiseEvent d 0xFFFF 1 3 stack loc
  | some .poisoned => bump d (dramReg stack 0x18)

/-- Whether a line's data cannot be trusted (R316, R347, R423). -/
def lineBad (d : Dev) (line : Nat) : Bool :=
  lineErr d line == some .uncorrectable || lineErr d line == some .poisoned

/-- A write to a line (R344, R356): a whole line replaces it and its code and lets a failing line's remap take hold;
a part of a line is a read-modify-write that poisons a line it finds uncorrectable. -/
def dramLineWrite (keys : List Nat) (d : Dev) (line : Nat) : Dev :=
  if (keys.filter fun k => lineOf k == line).eraseDups.length = 64 then
    setMem d { d.mem with
      dramErr := mput none d.mem.dramErr line none
      dramRemap := d.mem.dramRemap.map fun e =>
        if e.1 / 32 = stackOf (64 * line) ∧ e.2.1 = localLine (64 * line) then (e.1, e.2.1, e.2.2.1, true) else e }
  else
    let bad := lineErr d line == some .uncorrectable
    let d := dramTouch d line
    if bad then setMem d { d.mem with dramErr := mput none d.mem.dramErr line (some .poisoned) } else d

/-- One byte stored at each key. -/
def dramStore (m : Map Byte) : List (Nat × Byte) → Map Byte
  | [] => m
  | p :: ps => dramStore (mput 0 m p.1 p.2) ps

/-- Bytes written at DRAM keys, line by line. -/
def dramWrite (d : Dev) (kbs : List (Nat × Byte)) : Dev :=
  let keys := kbs.map (·.1)
  let d := (linesOf keys).foldl (dramLineWrite keys) d
  setMem d { d.mem with dram := dramStore d.mem.dram kbs }

/-- Bytes read at DRAM keys, with what the reads do. -/
def dramTouchAll (d : Dev) (keys : List Nat) : Dev := (linesOf keys).foldl dramTouch d

/-- The keys of a space 0x1 range. -/
def space1Keys (off n : Nat) : List Nat := (List.range n).map fun k => dramPlace (off + k)

/-- The keys of a home-stack range of a die. -/
def homeKeys (die off n : Nat) : List Nat := (List.range n).map fun k => homeKey die (off + k)

/-- Size of space 0x1 (R38). -/
def space1Size : Nat := 0xA000000000

/-! ### Loft (R42, R57, R359 to R364) -/

def loftSize : Nat := 0x40000000000

/-- Stack of a loft offset, and its local offset (R42). -/
def loftStack (off : Nat) : Nat := off / 4096 % 4
def loftLocal (off : Nat) : Nat := off / 16384 * 4096 + off % 4096

/-- The unit of an offset: 256 bytes, never across a granule (R361). -/
def unitOf (off : Nat) : Nat := off / 256

/-- The wear region of a unit, keyed stack·4096 + region (R363). -/
def regionOf (unit : Nat) : Nat := loftStack (256 * unit) * 4096 + loftLocal (256 * unit) / 0x10000000

/-- Writes per region: 2²⁰ units × 2 × 10⁷ (R364). -/
def wearBudget : Nat := 2 ^ 20 * 20000000

def unitWorn (d : Dev) (unit : Nat) : Bool := wearBudget ≤ mget 0 d.mem.wear (regionOf unit)

def unitErr (d : Dev) (unit : Nat) : Option ErrKind := mget none d.mem.loftErr unit

/-- What reading a loft unit does beside returning it (R361). -/
def loftTouch (d : Dev) (unit : Nat) : Dev :=
  let stack := loftStack (256 * unit)
  match unitErr d unit with
  | none => d
  | some .correctable => bump d (loftReg stack 0x08)
  | some .uncorrectable =>
    let d := bump d (loftReg stack 0x10)
    let loc := loftLocal (256 * unit) / 256
    let d := setMem d { d.mem with loftUe := mput (0, false) d.mem.loftUe stack (loc, true) }
    raiseEvent d 0xFFFF 1 4 stack loc
  | some .poisoned => bump d (loftReg stack 0x18)

/-- Where the Derier record area of the loft begins (R360). -/
def recordBase : Nat := 0x3FF00000000

/-- A loft byte as a read returns it: the layout of Derier's records is not given, so a byte of the record area is free until
an operation has written it (log 31). -/
def loftByte (d : Dev) (o : Nat) : Byte :=
  if recordBase ≤ o ∧ mget false d.mem.record o = false then Config.freeByte d.draws (2 ^ 44 + o) else mget 0 d.mem.loft o

def loftAt (d : Dev) (offs : List Nat) : List Byte := offs.map (loftByte d)

/-- The bytes that the loft's cells hold. -/
def loftCells (d : Dev) (offs : List Nat) : List Byte := offs.map fun o => mget 0 d.mem.loft o

/-- Derier writes its own records: whatever operations have written there may be gone (log 31). -/
def ownRecords (d : Dev) : Dev := { d with mem := { d.mem with record := [] } }

/-- Bytes of the record area that an operation has written. -/
def noteRecord (m : Map Bool) (obs : List (Nat × Byte)) : Map Bool :=
  obs.foldl (fun m p => if recordBase ≤ p.1 then mput false m p.1 true else m) m

/-- A write to a unit of a worn region is ignored (R364): counted, and reported once for the region after reset. -/
def loftWorn (d : Dev) (unit : Nat) : Dev :=
  let stack := loftStack (256 * unit)
  let d := bump d (loftReg stack 0x20)
  if mget false d.mem.wornSent (regionOf unit) then d
  else
    let d := setMem d { d.mem with wornSent := mput false d.mem.wornSent (regionOf unit) true }
    raiseEvent d 0xFFFF 1 5 stack (regionOf unit % 4096)

/-- One unit of a loft write (R57, R361, R363, R364). -/
def loftUnitWrite (obs : List (Nat × Byte)) (d : Dev) (unit : Nat) : Dev :=
  if unitWorn d unit then loftWorn d unit
  else
    let mine := obs.filter fun p => unitOf p.1 == unit
    let bad := unitErr d unit == some .uncorrectable
    let whole := (mine.map (·.1)).eraseDups.length = 256
    let d := if whole then d else loftTouch d unit
    let err := if whole then none else if bad then some .poisoned else
      (if unitErr d unit == some .correctable then none else unitErr d unit)
    setMem d { d.mem with
      loft := dramStore d.mem.loft mine
      record := noteRecord d.mem.record mine
      loftErr := mput none d.mem.loftErr unit err
      wear := mput 0 d.mem.wear (regionOf unit) (mget 0 d.mem.wear (regionOf unit) + 1) }

/-- Bytes written at loft offsets, unit by unit. -/
def loftWrite (d : Dev) (obs : List (Nat × Byte)) : Dev :=
  ((obs.map fun p => unitOf p.1).eraseDups).foldl (loftUnitWrite obs) d

def loftTouchAll (d : Dev) (offs : List Nat) : Dev := ((offs.map unitOf).eraseDups).foldl loftTouch d

/-! ### Layout (R336 to R338, R367) -/

def gib : Nat := 0x40000000

def layoutField (d : Dev) (hi lo : Nat) : Nat := bitsOf d.mem.layout.toNat hi lo
def homeSplit (d : Dev) : Nat := layoutField d 6 0 * gib
def listGib (d : Dev) : Nat := layoutField d 14 8
def homeSw (d : Dev) : Nat := layoutField d 22 16 * gib
def topReserve (d : Dev) : Nat := layoutField d 31 24 * gib
def loftStage (d : Dev) : Nat := layoutField d 43 32 * gib

/-- Space 0x1 offset of the Derier reserve (R338). -/
def reserveBase (d : Dev) : Nat := space1Size - topReserve d

/-- The adapter area (R426): after the prefix table and the feed buffer, up to the working data. -/
def adapterBase (d : Dev) : Nat := reserveBase d + 2 ^ d.host.nbLog2 * 128 + 2 * gib
def adapterEnd : Nat := space1Size - gib

/-- Home-area offsets of the tables of a die, in stack 2d (R336). -/
def scaleTable : Nat := 0x800000
def imageBase (n : Nat) : Nat := 0x14800000 + n * 0x100000
def weakBase (n : Nat) : Nat := 0x234800000 + n * 0x4000
def listBase : Nat := 0x23D000000
def listEnd (d : Dev) : Nat := listBase + listGib d * gib

/-- Whether a page number of a die lies in its page pool (R336). -/
def inPool (d : Dev) (page : Nat) : Bool :=
  let off := page * 0x10000
  if off < stackSize then listEnd d ≤ off && off + 0x10000 ≤ homeSplit d - homeSw d
  else off - stackSize + 0x10000 ≤ homeSplit d - homeSw d

/-! ### Mirroring to a twin (R492, R495, R496) -/

/-- This module is the protected one of a binding that mirrors. -/
def mirroring (d : Dev) : Bool :=
  (d.pad.twin == .copying || d.pad.twin == .inStep) && d.pad.role != .standby && 64 ≤ d.pad.twinPeer

/-- The MIRROR bits whose range holds a DRAM key (R336, R338, R492); the Derier reserve is always mirrored. -/
def mirroredDram (d : Dev) (key : Nat) : Bool :=
  let stack := key / stackSize
  let loc := key % stackSize
  if loc < homeSplit d then
    if homeSplit d - homeSw d ≤ loc then d.pad.mirror.getLsbD 2
    else if stack % 2 = 0 ∧ 0x14800000 ≤ loc ∧ loc < listBase then false
    else d.pad.mirror.getLsbD 1
  else
    let off := (loc / 2048 * 8 + stack) * 2048 + loc % 2048
    if off < reserveBase d then d.pad.mirror.getLsbD 2
    else ! (reserveBase d + 2 ^ d.host.nbLog2 * 128 ≤ off && off < adapterBase d)

/-- The MIRROR bit of the loft software area. -/
def mirroredLoft (d : Dev) (off : Nat) : Bool :=
  d.pad.mirror.getLsbD 3 && loftStage d ≤ off && off < 0x3FF00000000

/-- The twin link is busy: packets wait at its port, or, which the manual does not fix, it carries others (log 40). -/
def twinBusy (d : Dev) : Bool :=
  ((twinPort d).any fun p => (portOf d p).queue != [] || 1024 ≤ (portOf d p).unacked.length) ||
    Config.freeBit d.draws (2 ^ 61 + d.pad.twinNext)

/-- A write in a mirrored range is performed on the standby too: it goes out over the twin link under the next number, after
a wait, which is counted, where the link is busy. -/
def mirrorOut (d : Dev) (loft : Bool) (obs : List (Nat × Byte)) : Dev :=
  let hit := obs.filter fun p => if loft then mirroredLoft d p.1 else mirroredDram d p.1
  if mirroring d ∧ hit ≠ [] then
    let n := d.pad.twinNext
    let d := if twinBusy d then bump d 0x31018 else d
    sendTwin (setPad d { d.pad with twinNext := n + 1, twinOut := d.pad.twinOut ++ [n] }) (.twinWrite n loft hit)
  else d

end Sys2Proof.Machine
end

