-- ==== Sys2Proof/Machine/Operands.lean ====
section
/-! DEFINITION. Operand forms: the fields of an instruction word and what each instruction allows in them (04, R144 to
R184), register files (R141), local addresses (R166), the scoreboard (R148, R149) and global addresses (02). -/

namespace Sys2Proof.Machine

open Sys2Proof

/-! ### Instruction words (R144) -/

/-- The fields of an instruction. -/
structure Ins where
  op : Nat
  d : Nat
  a : Nat
  b : Nat
  mod : Nat
  imm : Nat
  deriving DecidableEq, Repr

def insOf (w : W64) : Ins :=
  { op := bitsOf w.toNat 63 56, d := bitsOf w.toNat 55 50, a := bitsOf w.toNat 49 44, b := bitsOf w.toNat 43 38,
    mod := bitsOf w.toNat 37 32, imm := bitsOf w.toNat 31 0 }

/-- Bit k of a number. -/
def bitAt (v k : Nat) : Bool := v / 2 ^ k % 2 == 1

/-- Common lane fields (R157, R159). -/
def insType (i : Ins) : Nat := bitsOf i.mod 3 0
def insRz (i : Ins) : Bool := bitAt i.mod 4
def insM5 (i : Ins) : Bool := bitAt i.mod 5
def insPe (i : Ins) : Bool := bitAt i.imm 27
def insPred (i : Ins) : Nat := bitsOf i.imm 26 24

/-- `sext(imm, n)` as a 64-bit word. -/
def sextImm (i : Ins) (n : Nat) : W64 := BitVec.ofInt 64 (signedOf n i.imm)

/-- The register files a field can name (R141); `vp` is the even register of a pair (R143). -/
inductive RegFile where
  | none | s | a | v | vp | p | c
  deriving DecidableEq, Repr

/-- A field names a register of its file, and is zero where it is unused (R145). -/
def fieldOk : RegFile → Nat → Bool
  | .none, n => n == 0
  | .s, n => n < 32
  | .a, n => n < 16
  | .v, n => n < 32
  | .vp, n => n < 32 && n % 2 == 0
  | .p, n => n < 8
  | .c, n => n < 16

/-- Which file each of D, A and B names. -/
structure Form where
  d : RegFile
  a : RegFile
  b : RegFile
  deriving DecidableEq, Repr

/-- The form when the instruction's reserved bits are as they must be; none is ILLEGAL (R145). -/
def form (ok : Bool) (fd fa fb : RegFile) : Option Form := if ok then some { d := fd, a := fa, b := fb } else none

def formOk (f : Form) (i : Ins) : Bool := fieldOk f.d i.d && fieldOk f.a i.a && fieldOk f.b i.b

/-! ### The forms of each instruction -/

def formCribMvm (i : Ins) : Option Form :=
  let r : RegFile := if bitAt i.mod 3 then .s else .none
  form (bitsOf i.mod 5 4 == 0 && bitsOf i.imm 31 30 != 3) .none r r

def formCribBank (i : Ins) : Option Form := form (bitsOf i.mod 5 1 == 0 && bitsOf i.imm 31 16 == 0) .none .none .none

def formCribProbe (i : Ins) : Option Form :=
  form (bitsOf i.mod 5 1 == 0 && bitsOf i.imm 15 4 == 0 && bitsOf i.imm 31 30 == 0) .none .none .none

/-- What every lane instruction checks: its type, RZ only where it rounds, MOD bit 5 only where it has a meaning, and
the reserved bits of R159. -/
def laneBits (types : List Nat) (rounds m5 : Bool) (i : Ins) : Bool :=
  types.contains (insType i) && (!insRz i || rounds) && (!insM5 i || m5) && bitsOf i.imm 31 28 == 0

/-- The checks of every lane instruction but VSEL: with PE = 0 the predicate field is one it does not use, so it is
zero (R145, R159). DEDUCED, log 21. -/
def laneOk (types : List Nat) (rounds m5 : Bool) (i : Ins) : Bool :=
  laneBits types rounds m5 i && (insPe i || insPred i == 0)

def arithTypes : List Nat := [0, 1, 2]

def formVadd (i : Ins) : Option Form :=
  form (laneOk arithTypes (insType i != 0) true i && bitsOf i.imm 23 0 == 0) .v .v .v

def formVmul (i : Ins) : Option Form :=
  form (laneOk arithTypes (insType i != 0) false i && bitsOf i.imm 23 0 == 0) .v .v .v

def formVmax (i : Ins) : Option Form := form (laneOk arithTypes false true i && bitsOf i.imm 23 0 == 0) .v .v .v

def formVexp (i : Ins) : Option Form := form (laneOk [1] false false i && bitsOf i.imm 23 0 == 0) .v .v .none

def formVrsq (i : Ins) : Option Form := form (laneOk [1, 2] false false i && bitsOf i.imm 23 0 == 0) .v .v .none

/-- VCVT (R159, R161, R250): rounding conversions go to .I32 or .F32; HALF only across .F64 and 32 bits. -/
def formVcvt (i : Ins) : Option Form :=
  let src := bitsOf i.imm 3 0
  form (laneOk arithTypes (insType i != 2) false i && bitsOf i.imm 23 5 == 0 && arithTypes.contains src
    && src != insType i && (!bitAt i.imm 4 || src == 2 || insType i == 2)) .v .v .none

def formVred (i : Ins) : Option Form :=
  form (laneOk arithTypes (insType i != 0 && bitsOf i.imm 1 0 == 0) false i && bitsOf i.imm 23 2 == 0
    && bitsOf i.imm 1 0 != 3) .s .v .none

def formVsel (i : Ins) : Option Form :=
  form (laneBits arithTypes false false i && !insPe i && bitsOf i.imm 23 0 == 0) .v .v .v

def formVcmp (i : Ins) : Option Form :=
  form (laneOk arithTypes false false i && bitsOf i.imm 23 3 == 0 && bitsOf i.imm 2 0 < 6) .p .v .v

def formVld (i : Ins) : Option Form :=
  form (laneOk (List.range 12) false false i && bitsOf i.imm 23 20 == 0) .v .s .none

def formVst (i : Ins) : Option Form :=
  form (laneOk (List.range 12) ([3, 4, 5, 6, 8, 9, 10, 11].contains (insType i)) false i && bitsOf i.imm 23 20 == 0)
    .none .s .v

/-- MOV (R167): form in MOD 5:4, operation in MOD 3:0. MOV.A uses x, so it names B (log 16). -/
def formMov (i : Ins) : Option Form :=
  let f := bitsOf i.mod 5 4
  let o := bitsOf i.mod 3 0
  if f = 0 then form (o < 12) .s .s .s
  else if f = 1 then
    if o = 0 then form true .a .s .s
    else if o = 1 then form (i.imm == 0) .p .s .none
    else if o = 2 then form (i.imm == 0) .c .s .none
    else if o = 3 then form (i.imm < 64) .v .s .none
    else form (o == 4 && i.imm == 0) .v .s .none
  else if f = 2 then
    if o = 0 then form (i.imm == 0) .s .a .none
    else if o = 1 then form (i.imm == 0) .s .p .none
    else if o = 2 then form (i.imm == 0) .s .c .none
    else form (o == 3 && i.imm < 64) .s .v .none
  else none

def formLd (i : Ins) : Option Form := form (bitsOf i.mod 5 3 == 0) .s .s .none
def formSt (i : Ins) : Option Form := form (bitsOf i.mod 5 2 == 0) .none .s .s
def formCopy (i : Ins) : Option Form := form (i.mod == 0) .s .s .s

def formLdW (i : Ins) : Option Form :=
  form (bitsOf i.mod 5 3 == 0 && bitsOf i.imm 31 16 == 0) (if bitAt i.mod 2 then .none else .vp) .s .none

def formStF (i : Ins) : Option Form := form (bitsOf i.mod 5 1 == 0 && bitsOf i.imm 31 16 == 0) .none .s .vp
def formSlot (i : Ins) : Option Form := form (bitsOf i.mod 5 1 == 0 && bitsOf i.imm 31 25 == 0) .none .s .none

/-- With CE = 0 the counter field is one the instruction does not use, so it is zero (R145, R177). DEDUCED, log 21. -/
def ceOk (i : Ins) : Bool := bitAt i.imm 20 || bitsOf i.imm 19 16 == 0

def formPut (i : Ins) : Option Form := form (i.mod == 0 && bitsOf i.imm 31 21 == 0 && ceOk i) .a .s .s

/-- PUT.S: with ZL, Length − 1 and A are zero (R177). -/
def formPutS (i : Ins) : Option Form :=
  form (i.mod == 0 && bitsOf i.imm 31 26 == 0 && (!bitAt i.imm 25 || (bitsOf i.imm 15 0 == 0 && i.a == 0))
    && ceOk i) .a .s .s

def formPutF (i : Ins) : Option Form :=
  form (i.mod == 0 && bitsOf i.imm 31 21 == 0 && bitsOf i.imm 15 9 == 0 && ceOk i) .a .s .s

def formAadd (i : Ins) : Option Form :=
  form (i.mod == 0 && bitsOf i.imm 31 21 == 0 && bitsOf i.imm 15 6 == 0 && ceOk i) .a .v .s

def formFadd (i : Ins) : Option Form :=
  form (i.mod == 0 && bitsOf i.imm 31 21 == 0 && bitsOf i.imm 15 0 == 0 && ceOk i) .s .a .s

/-- FENCE, RET, YIELD, HALT: every field zero. -/
def formPlain (i : Ins) : Option Form := form (i.mod == 0 && i.imm == 0) .none .none .none

def formWaitc (i : Ins) : Option Form := form (i.mod == 0) .c .s .none
def formAttn (i : Ins) : Option Form := form (i.mod == 0) .none .s .none
def formB (i : Ins) : Option Form := form (i.mod == 0) .none .none .none

def formBc (i : Ins) : Option Form :=
  if bitsOf i.mod 2 0 < 6 then form (bitsOf i.mod 5 3 == 0) .none .s .s
  else form (bitsOf i.mod 5 3 == 0) .none .p .none

def formLoop (i : Ins) : Option Form := form (i.mod == 0) .s .none .none

def formEpoch (i : Ins) : Option Form :=
  if bitAt i.mod 0 then form (bitsOf i.mod 5 1 == 0) .s .s .none
  else form (bitsOf i.mod 5 1 == 0 && i.imm == 0) .s .none .none

/-- The opcodes of R146. -/
def opcodes : List Nat :=
  [0x10, 0x11, 0x12, 0x20, 0x21, 0x22, 0x23, 0x24, 0x25, 0x26, 0x27, 0x28, 0x29, 0x2A, 0x2B, 0x30, 0x32, 0x33, 0x34,
   0x35, 0x40, 0x41, 0x42, 0x43, 0x50, 0x51, 0x52, 0x53, 0x54, 0x55, 0x56, 0x57, 0x58, 0x59, 0x5A, 0x5B, 0x5C, 0x60,
   0x70, 0x71, 0x72, 0x73, 0x74, 0x75, 0x76, 0x77]

/-! ### Register files (R141) -/

/-- s0 reads zero. -/
def sGet (x : Stall) (n : Nat) : W64 := if n = 0 then 0 else mget 0 x.sreg n

/-- Writes to s0 are discarded. -/
def sSet (x : Stall) (n : Nat) (v : W64) : Stall := if n = 0 then x else { x with sreg := mput 0 x.sreg n v }

def aGet (x : Stall) (n : Nat) : W64 := mget 0 x.areg n
def aSet (x : Stall) (n : Nat) (v : W64) : Stall := { x with areg := mput 0 x.areg n v }
def pGet (x : Stall) (n : Nat) : W64 := mget 0 x.preg n
def pSet (x : Stall) (n : Nat) (v : W64) : Stall := { x with preg := mput 0 x.preg n v }
def cGet (x : Stall) (n : Nat) : W32 := mget 0 x.creg n
def cSet (x : Stall) (n : Nat) (v : W32) : Stall := { x with creg := mput 0 x.creg n v }

/-- One addition to a completion counter, modulo 2³² (R62). -/
def cAdd (x : Stall) (n : Nat) : Stall := cSet x n (cGet x n + 1)

def vLane (x : Stall) (n lane : Nat) : W32 := mget 0 x.vreg (64 * n + lane)
def vLaneSet (x : Stall) (n lane : Nat) (v : W32) : Stall := { x with vreg := mput 0 x.vreg (64 * n + lane) v }

/-- The 64 lanes of a vector register. -/
def vGet (x : Stall) (n : Nat) : List W32 := (List.range 64).map (vLane x n)

/-- Lanes written where the mask holds. -/
def vSet (x : Stall) (n : Nat) (mask : Nat → Bool) (f : Nat → W32) : Stall :=
  { x with vreg := (List.range 64).foldl (fun m k => if mask k then mput 0 m (64 * n + k) (f k) else m) x.vreg }

/-- Which lanes an instruction writes (R159). -/
def laneMask (x : Stall) (i : Ins) (k : Nat) : Bool := !insPe i || (pGet x (insPred i)).getLsbD k

/-- FP64 element e of a vector register (R142). -/
def vF64 (x : Stall) (n e : Nat) : Nat := (vLane x n (2 * e)).toNat + 2 ^ 32 * (vLane x n (2 * e + 1)).toNat

/-- FP64 elements written where predicate bit 2e holds. -/
def vSetF64 (x : Stall) (n : Nat) (mask : Nat → Bool) (f : Nat → Nat) : Stall :=
  vSet x n (fun k => mask (2 * (k / 2))) fun k => BitVec.ofNat 32 (f (k / 2) / 2 ^ (32 * (k % 2)))

/-- The 512 bytes of a vector pair (R143). -/
def pairBytes (x : Stall) (n : Nat) : List Byte :=
  (List.range 128).flatMap fun k => toLe 4 (mget 0 x.vreg (64 * n + k)).toNat

/-- A vector pair loaded from 512 bytes. -/
def pairLoad (x : Stall) (n : Nat) (bs : List Byte) : Stall :=
  { x with vreg := mputs 0 x.vreg (64 * n) ((List.range 128).map fun k => BitVec.ofNat 32 (fieldAt bs (4 * k) 4)) }

/-! ### Local addresses (R166) -/

/-- Buffer and offset of a local range, or none for LOCAL_RANGE. -/
def localRange (addr : W64) (len : Nat) : Option (Nat × Nat) :=
  let v := addr.toNat
  let buf := bitsOf v 19 18
  let off := bitsOf v 17 0
  if v / 2 ^ 20 = 0 ∧ buf ≠ 3 ∧ off + len ≤ bufSize buf then some (buf, off) else none

/-! ### The scoreboard (R149, R221) -/

/-- First trough slot and count that a crib operation reads. -/
def opSlots (o : CribOp) : Nat × Nat := (o.slot, if o.tall then 2 * o.cribs.length else 2)

/-- First bin tile and count that it writes. -/
def opTiles (o : CribOp) : Nat × Nat := (o.tile, if o.probe then 2 else if o.tall then 1 else o.cribs.length)

/-- Slot and tile ranges of a job descriptor (R306, R307): queries, keys and values; outputs, status. -/
def jobSlots (desc : List Byte) : List (Nat × Nat) :=
  [(fieldAt desc 8 2, fieldAt desc 10 2), (fieldAt desc 12 2, fieldAt desc 14 2)]

def jobTiles (desc : List Byte) : List (Nat × Nat) := [(fieldAt desc 5 1, fieldAt desc 6 1), (fieldAt desc 7 1, 1)]

/-- Two ranges (first, count) that share a member. -/
def overlap (p q : Nat × Nat) : Bool := p.1 < q.1 + q.2 && q.1 < p.1 + p.2

/-- The unfinished attention jobs of a stall (R182). -/
def jobsOf (d : Dev) (st : Nat) : List Job := d.attn.jobs.filter (·.stall == st)

/-- An unfinished crib or attention access touches the slot or tile of a local range (R149). -/
def blocked (d : Dev) (st buf off len : Nat) : Bool :=
  let slots := (off / 512, (off % 512 + len + 511) / 512)
  let tiles := (off / 4096, (off % 4096 + len + 4095) / 4096)
  if len = 0 then false
  else if buf = 0 then
    ((stallOf d st).cribOps.any fun o => !o.started && overlap (opSlots o) slots) ||
    (jobsOf d st).any fun j => (jobSlots j.desc).any fun r => overlap r slots
  else if buf = 1 then
    ((stallOf d st).cribOps.any fun o => overlap (opTiles o) tiles) ||
    (jobsOf d st).any fun j => (jobTiles j.desc).any fun r => overlap r tiles
  else false

/-! ### Global addresses (R37 to R47) -/

def gModule (a : W64) : Nat := bitsOf a.toNat 63 58
def gSpace (a : W64) : Nat := bitsOf a.toNat 57 54
def gDie (a : W64) : Nat := bitsOf a.toNat 53 52
/-- The stall index of a space 0x0 address. -/
def gStall (a : W64) : Nat := bitsOf a.toNat 53 44
def gBuf (a : W64) : Nat := bitsOf a.toNat 43 42
/-- The offset within the space, or within the buffer. -/
def gOff (a : W64) : Nat :=
  if gSpace a = 0 then bitsOf a.toNat 17 0
  else if gSpace a = 2 then bitsOf a.toNat 43 0
  else if gSpace a = 3 then bitsOf a.toNat 19 0
  else bitsOf a.toNat 41 0

/-- The reserved bits of the space are zero (R38, R385). -/
def gReservedOk (a : W64) : Bool :=
  let v := a.toNat
  if gSpace a = 0 then bitsOf v 41 18 == 0
  else if gSpace a = 1 then bitsOf v 53 42 == 0
  else if gSpace a = 2 then bitsOf v 53 44 == 0
  else if gSpace a = 3 then bitsOf v 37 20 == 0
  else if gSpace a = 5 then bitsOf v 51 42 == 0
  else true

/-- A module index of the paddock that can be reached (R23, R44, R60). -/
def reachableModule (d : Dev) (m : Nat) : Bool :=
  holdsIndex d m || ((d.pad.modules.any fun x => x.2.1 == m) && !d.pad.unreachable.contains m)

def isAtomic (k : RemKind) : Bool :=
  match k with
  | .aaddI32 | .aaddF32 | .aaddBf16 | .faddI32 | .faddI64 => true
  | _ => false

def isFadd (k : RemKind) : Bool := k == .faddI32 || k == .faddI64

/-- Bytes of one element of an atomic operation (R53). -/
def elemSize (k : RemKind) : Nat := if k = .aaddBf16 then 2 else if k = .faddI64 then 8 else 4

/-- The spaces and buffers a stall's operation may target (R43, R49). -/
def spaceOk (k : RemKind) (a : W64) : Bool :=
  let sp := gSpace a
  match k with
  | .get => sp == 1 || sp == 2 || sp == 3 || sp == 5 || (sp == 0 && gBuf a != 3)
  | .put => sp == 1 || sp == 2 || sp == 5 || (sp == 0 && gBuf a != 3)
  | .putS => sp == 0 && gBuf a != 3
  | .putF => sp == 0 && gBuf a < 2
  | _ => sp == 1 || sp == 2 || sp == 5 || (sp == 0 && gBuf a < 2)

/-- A violation that the issuing stall detects (R46, R53, R179). -/
def issueViolation (d : Dev) (k : RemKind) (a : W64) (len : Nat) : Bool :=
  !reachableModule d (gModule a) || !spaceOk k a || !gReservedOk a
  || (isAtomic k && a.toNat % elemSize k != 0)
  || (k == .putF && gOff a % 512 + len > 512)

/-! ### Remote operations of a stall (R59, R148) -/

/-- A scalar register that a pending FADD will write (R148). -/
def pendingReg (d : Dev) (st n : Nat) : Bool :=
  n != 0 && (opsOf d st).any fun o => isFadd o.op.kind && !o.orphan && o.dest == n

/-- An instruction names a scalar register that a pending FADD will write. -/
def hazard (d : Dev) (st : Nat) (f : Form) (i : Ins) : Bool :=
  (f.d == .s && pendingReg d st i.d) || (f.a == .s && pendingReg d st i.a) || (f.b == .s && pendingReg d st i.b)

end Sys2Proof.Machine
end

