-- ==== Sys2Proof/Machine/Units.lean ====
section
/-! DEFINITION. Operations over the module's units that several families share: packets to other modules, the watch
list, the ends of remote operations, epochs' settings, retirement, spare substitution and the routine boundary. -/

namespace Sys2Proof.Machine

open Sys2Proof

/-- The stalls. -/
def stallCount : Nat := 1024

/-! ### Ends of remote operations (R45, R49) -/

def setOps (d : Dev) (l : List RemOp) : Dev := { d with ops := l }

/-- The operation with an id. -/
def opOf (d : Dev) (id : Nat) : Option RemOp := d.ops.find? (·.id == id)

/-- The operation with an id replaced. -/
def putOp (d : Dev) (o : RemOp) : Dev := setOps d (d.ops.map fun x => if x.id = o.id then o else x)

def dropOp (d : Dev) (id : Nat) : Dev := setOps d (d.ops.filter fun x => x.id != id)

/-- Piece k of some bytes. -/
def pieceOf (bs : List Byte) (k : Nat) : List Byte := slice bs (512 * k) 512

/-- An operation sent toward its home, a piece at a time. -/
def sendRequest (d : Dev) (o : NetOp) : Dev :=
  (List.range (pieceCount o.data.length)).foldl (fun d k =>
    sendTo d (gModule o.addr) (1024 * o.srcModule + o.srcStall) o.addr.toNat
      (.request { o with data := pieceOf o.data k } k)) d

/-- The notice of an operation's performance sent to its source, a piece at a time. -/
def sendReply (d : Dev) (o : NetOp) (back : List Byte) : Dev :=
  (List.range (pieceCount back.length)).foldl (fun d k =>
    sendTo d o.srcModule (1024 * o.srcModule + o.srcStall) o.addr.toNat
      (.reply { o with data := [] } k (pieceOf back k))) d

/-- An operation has been performed at its home: an own one waits for its notice, another module's is answered. -/
def performed (d : Dev) (o : RemOp) (back : List Byte) : Dev :=
  if o.own then putOp d { o with phase := .performed, back := back }
  else sendReply (dropOp d o.id) o.op back

/-- An operation has been performed at memory of this module, from a state to a state: it is performed for every rule only
when the standby has performed the mirrored writes that it made (R495). -/
def settle (before after : Dev) (o : RemOp) (back : List Byte) : Dev :=
  if before.pad.twinNext < after.pad.twinNext then
    putOp after { o with phase := .mirrored (after.pad.twinNext - 1), back := back }
  else performed after o back

/-- Bytes an operation returns. -/
def returnLen (o : RemOp) : Nat :=
  if o.op.kind = .get then o.op.len else if isFadd o.op.kind then elemSize o.op.kind else 0

/-- An operation completes as a violation: it returns zeros and changes nothing (R45). -/
def performedZero (d : Dev) (o : RemOp) : Dev := performed d o (List.replicate (returnLen o) 0)

/-- An addition to a completion counter of a stall (R62). -/
def addCounter (d : Dev) (st k : Nat) : Dev := modStall d st fun x => cAdd x k

/-! ### The watch list (R536) -/

/-- `WATCH_n` as a word (R552). -/
def watchWord (w : Watch) : Nat :=
  w.kind + 2 ^ 4 * w.unit + 2 ^ 14 * w.crib + 2 ^ 24 * min w.fails (if w.kind = 2 then 63 else 2) + 2 ^ 32 * w.clean + 2 ^ 63

def watchAt (d : Dev) (n : Nat) : Option Watch := mget none d.health.watch n

def setWatch (d : Dev) (n : Nat) (w : Option Watch) : Dev :=
  { d with health := { d.health with watch := mput none d.health.watch n w } }

/-- The entry of a unit. -/
def watchFind (d : Dev) (kind unit crib : Nat) : Option Nat :=
  (d.health.watch.find? fun p =>
    match p.2 with
    | some w => w.kind == kind && w.unit == unit && w.crib == crib
    | none => false).map (·.1)

/-- Two entries name one unit. -/
def sameUnit (x y : Watch) : Bool := x.kind == y.kind && x.unit == y.unit && x.crib == y.crib

/-- A unit enters the list at the lowest free entry, or waits; a failure of one that waits is noted (R536). -/
def watchEnter (d : Dev) (w : Watch) : Dev :=
  match firstBelow 1024 (fun n => watchAt d n == none) with
  | some n =>
    let d := setWatch d n (some w)
    let d := raiseEvent (bump d 0x20050) 0xFFFF 4 0x12 (watchWord w) n
    if d.health.watch.length = 1024 then raiseEvent d 0xFFFF 4 0x1B 0 0 else d
  | none =>
    let ws := d.health.waitingWatch
    { d with health := { d.health with
        waitingWatch := if ws.any (sameUnit w) then ws.map fun x => if sameUnit w x then w else x else ws ++ [w] } }

/-- A unit fails (R527, R536): its entry notes the failure, or it enters the list with it (log 18). Kind 0 crib, 1 stall,
2 engine. -/
def unitFails (d : Dev) (kind unit crib : Nat) : Dev :=
  match watchFind d kind unit crib with
  | some n =>
    match watchAt d n with
    | some w => setWatch d n (some { w with failedNow := true })
    | none => d
  | none => watchEnter d { kind := kind, unit := unit, crib := crib, fails := 0, clean := 0, failedNow := true }

/-- An entry frees and a waiting unit takes its place (R536). -/
def watchFree (d : Dev) (n : Nat) : Dev :=
  let d := setWatch d n none
  match d.health.waitingWatch with
  | [] => d
  | u :: us => watchEnter { d with health := { d.health with waitingWatch := us } } u

/-- An entry leaves the list (R538, R541). -/
def watchLeave (d : Dev) (n : Nat) : Dev :=
  match watchAt d n with
  | none => d
  | some w => watchFree (raiseEvent d 0xFFFF 4 0x13 (watchWord w) n) n

/-- The digital units of a stall are suspect (R524, R527): cause 0 recompute, 1 RESIDUE, 2 LOCKSTEP, 3 FETCH. -/
def digitalSuspect (d : Dev) (st cause index : Nat) : Dev :=
  unitFails (raiseEvent (bump d 0x20038) 0xFFFF 4 0x11 (stallNumber d st + 2 ^ 16 * cause) index) 1 st 0

/-- A crib fails a check (R524, R527): 0 sample, 1 reference, 2 sweep, 3 refit limit, 4 weak limit. A spare that serves no
index is no crib. -/
def cribFails (d : Dev) (st crib bank check lastPass : Nat) : Dev :=
  if 16 ≤ crib then d else
  let ms := min (d.host.uptimeMs - lastPass) (2 ^ 32 - 1)
  unitFails (raiseEvent d 0xFFFF 4 0x10 (stallNumber d st + 2 ^ 16 * crib + 2 ^ 20 * bank + 2 ^ 21 * check) ms) 0 st crib

/-! ### Epochs' settings (R87, R482, R483) -/

def epochOf (d : Dev) (e : W32) : Option Epoch := d.pad.epochs.find? (·.num == e)

/-- The settings of an epoch. -/
def settingsOf (d : Dev) (e : W32) : Settings := ((epochOf d e).map (·.set)).getD Settings.reset

/-- The key of a bank by crib index, as settings name it. -/
def indexKey (st crib bank : Nat) : Nat := (16 * st + crib) * 2 + bank

/-- A bank is Live in an epoch (R87). -/
def liveIn (d : Dev) (e : W32) (st crib bank : Nat) : Bool := mget false (settingsOf d e).live (indexKey st crib bank)

/-- The default bank of a crib in an epoch. -/
def defaultIn (d : Dev) (e : W32) (st crib : Nat) : Option Bool := mget none (settingsOf d e).dflt (16 * st + crib)

/-- The bank key that an index key names now. -/
def livePhys (d : Dev) (k : Nat) : Nat := bankKey (k / 32) (physOf d (k / 32) (k / 2 % 16)) (k % 2)

/-! ### Derier's state on the standby (R492, R498) -/

/-- States and tags of the banks that do not program, by index key. -/
def bankStates (d : Dev) : List (Nat × BankState × BitVec 256) :=
  d.banks.filterMap fun p =>
    let st := p.1 / 34
    let phys := p.1 / 2 % 17
    let crib := if phys = 16 then (stallOf d st).spareIndex.getD 16 else phys
    if crib < 16 ∧ physOf d st crib = phys ∧ p.2.state ≠ .loading then
      some (indexKey st crib (p.1 % 2), p.2.state, p.2.tag)
    else none

/-- Settings as the standby takes them: without MODELS no bank is Live on it (R502). -/
def twinSettings (d : Dev) : Settings :=
  let s := settingsOf d d.pad.requested
  if d.pad.mirror.getLsbD 0 then s else { s with live := [], dflt := [] }

/-- The ids of the sequences, in use on the standby without what they hold, and the prefix table, which lies in the Derier
reserve, with the pages that its rows name. -/
def idsOnly (a : Attn) : Attn :=
  { Attn.reset with
    seqs := a.seqs.map fun p => (p.1, p.2.map fun q => { q with layers := 0, chains := [], toks := [], pl := [] })
    prefixes := a.prefixes, clock := a.clock
    taken := a.taken.filter fun t => a.prefixes.any fun p => p.rows.any fun r => p.die * 2 ^ 24 + r.toNat == t.1 }

/-- What a binding mirrors of Derier's state (log 40). -/
def twinData (d : Dev) : TwinData :=
  { models := d.feed.models, adapters := d.feed.adapters, keys := d.feed.keys, vetVersion := d.health.vetVersion,
    requested := d.pad.requested, set := twinSettings d, complete := d.pad.complete, unreachable := d.pad.unreachable,
    away := d.pad.away, downs := d.pad.downs,
    attn := if d.pad.mirror.getLsbD 1 then { d.attn with jobs := [], turn := [] } else idsOnly d.attn,
    states := if d.pad.mirror.getLsbD 0 then bankStates d else [],
    bindings := d.pad.bindings }

/-- Derier's state goes to the standby when it has changed, in order with the mirrored writes. -/
def mirrorState (d : Dev) : Dev :=
  if mirroring d then
    (if d.pad.twinTold = some (twinData d) then d
     else sendTwin (setPad d { d.pad with twinTold := some (twinData d) }) (.twinState (twinData d)))
  else d

/-- A meaning that may change what a binding mirrors of Derier's state. -/
def onDerier (name : String) (f : Dev → Option Dev) (s : State) : Res := onDev name (fun d => (f d).map mirrorState) s

/-- A command that always has an effect, and may change what a binding mirrors of Derier's state. -/
def alwaysDerier (f : Dev → Dev) (s : State) : Res := always (fun d => mirrorState (f d)) s

/-! ### Stopping (R194 to R196) -/

/-- From a fault on, a FADD of the stall that is not complete writes no register (R195). -/
def orphanOps (d : Dev) (st : Nat) : Dev :=
  setOps d (d.ops.map fun o => if o.own && o.op.srcStall == st then { o with orphan := true } else o)

/-- A routine stops with a fault: the stall enters Draining. `STALL_FAULT.PC` has 12 bits and DETAIL 32: an index beyond
them is truncated (DESIGN CHOICE, log 50). -/
def stopStall (d : Dev) (st code detail pc : Nat) : Dev :=
  modStall (orphanOps d st) st fun x =>
    { x with mode := .draining, ending := some .fault, held := none, faultCode := BitVec.ofNat 8 code,
             faultPc := BitVec.ofNat 12 pc, faultDetail := BitVec.ofNat 32 detail }

/-- RESIDUE, LOCKSTEP, ABORT and RETIRED stop issue at once (R196); a HALT that waits has not ended the routine. -/
def stopNow (d : Dev) (st code detail : Nat) : Dev := stopStall d st code detail (stallOf d st).pc

/-- A routine runs, or its HALT waits. -/
def active (x : Stall) : Bool := x.mode == .running || (x.mode == .draining && x.ending == some .halt)

/-! ### Retirement and the spare (R44, R219, R271, R541, R542) -/

/-- Stalls whose retirement has not taken hold. -/
def usableStalls (d : Dev) : Nat := stallCount - (d.stalls.filter (·.2.gone)).length

/-- An operation held at a stall completes as a violation there (R219). -/
def holdViol (st : Nat) (d : Dev) (id : Nat) : Dev :=
  match opOf d id with
  | some o => countViol (performedZero d o) st
  | none => d

/-- A stall's retirement takes hold. A running routine ends with RETIRED; a mirroring standby is degraded (R500). -/
def retireStall (d : Dev) (st : Nat) : Dev :=
  let x := stallOf d st
  let d := if x.mode = .idle then modStall d st fun x => { x with mode := .retired }
    else if active x then stopNow d st 0x10 0 else d
  let d := x.hold.foldl (holdViol st) d
  let d := modStall d st fun x => { x with gone := true, pendingRetire := false, hold := [], jammed := [] }
  let d := match watchFind d 1 st 0 with
    | some n => watchFree d n
    | none => d
  let d := raiseEvent d 0xFFFF 4 0x15 (stallNumber d st) (usableStalls d)
  if d.pad.role = .standby ∧ (d.pad.twin = .copying ∨ d.pad.twin = .inStep) then
    raiseEvent d 0 6 0x36 d.pad.twinPeer st
  else d

/-- The spare's bank takes the state of the bank it replaces, when it was programmed for it. -/
def takeBank (st crib : Nat) (d : Dev) (b : Nat) : Dev :=
  let sp := bankOf d (bankKey st 16 b)
  if sp.forSpare then
    setBank d (bankKey st 16 b) { sp with state := (bankOf d (bankKey st crib b)).state, forSpare := false }
  else d

/-- Pins after a substitution (R271): those of the spare's programmed banks, which have the retired banks' rows and lines,
stand under the index. -/
def sparePins (crib : Nat) (kept : Nat → Bool) (m : Map (Option Pin)) : Map (Option Pin) :=
  m.filter fun p => match p.2 with
    | some e => e.crib != crib || kept e.bank
    | none => true

/-- A spare substitution takes hold (R541). -/
def substitute (d : Dev) (st crib : Nat) : Dev :=
  let kept (b : Nat) : Bool := (bankOf d (bankKey st 16 b)).forSpare
  let d := [0, 1].foldl (takeBank st crib) d
  let d := modStall d st fun x =>
    { x with spareIndex := some crib, pendingSpare := none, pins := sparePins crib kept x.pins }
  let d := raiseEvent d 0xFFFF 4 0x14 (stallNumber d st + 2 ^ 16 * crib) 0
  match watchFind d 0 st crib with
  | some n => watchLeave d n
  | none => d

/-! ### The routine boundary (R187) -/

/-- The newest posted epoch is adopted, and with it the bank selections (R87, R189). -/
def adopt (d : Dev) (st : Nat) : Dev :=
  match (stallOf d st).posted with
  | none => d
  | some e =>
    modStall d st fun x =>
      { x with epoch := e, posted := none,
               sel := (List.range 16).foldl (fun m c => mput none m c (defaultIn d e st c)) x.sel }

/-- The pending correction set of each crib-bank becomes active (R122, R124). -/
def takeCorrections (d : Dev) (st : Nat) : Dev :=
  (List.range 34).foldl (fun d k =>
    match (bankOf d (34 * st + k)).pend with
    | some c => modBank d (34 * st + k) fun b => { b with corr := c, corrUe := false, pend := none }
    | none => d) d

/-- The word of a compensation table at an entry, of the fitted tables or those of the record area (R570, R571). -/
def tableWord (s : Sense) (factory : Bool) (table entry : Nat) : Nat :=
  ((if factory then s.factoryTables else s.tables).getD table []).getD entry 0

/-- The converter-reference word that a stall takes at a boundary: of the calibration set of its held epoch (R571, R572), at
its die's entry. -/
def refNow (d : Dev) (st : Nat) : Nat :=
  tableWord d.sense (settingsOf d (stallOf d st).epoch).factory (st / 256) (mget 0 d.sense.entries (st / 256))

/-- The converter-reference word that a stall's cribs use. -/
def refOf (d : Dev) (st : Nat) : Nat := (stallOf d st).refWord.getD (d.sense.refBase.getD (st / 256) 0)

/-- A bank of the spare programs, or waits until it may (R389). -/
def spareUnready (d : Dev) (st b : Nat) : Bool :=
  let x := bankOf d (bankKey st 16 b)
  x.state == .loading || (x.forSpare && x.state == .empty)

/-- A pending substitution or retirement takes hold (R28). -/
def takeRetirement (d : Dev) (st : Nat) : Dev :=
  let d := match (stallOf d st).pendingSpare with
    | some c => if spareUnready d st 0 || spareUnready d st 1 then d else substitute d st c
    | none => d
  if (stallOf d st).pendingRetire then retireStall d st else d

/-- The die's converter-reference entry becomes active with the pending corrections (R570). -/
def takeReference (d : Dev) (st : Nat) : Dev :=
  modStall d st fun x => { x with refEntry := mget 0 d.sense.entries (st / 256), refWord := some (refNow d st) }

/-- A routine boundary: adopt, corrections and the die's converter-reference entry, substitution or retirement, the report on
its way, the timer restarted. -/
def boundary (d : Dev) (st : Nat) : Dev :=
  modStall (takeRetirement (takeReference (takeCorrections (adopt d st) st) st) st) st fun x => { x with lateRaised := false }

end Sys2Proof.Machine
end

