-- ==== Sys2Proof/Machine/Home.lean ====
section
/-! DEFINITION. Remote operations performed at their homes (02, R45 to R62; 05, R209 to R219; 08, R340 to R364): reads,
writes and atomic operations at stall buffers, DRAM and the loft, and the holding store. -/

namespace Sys2Proof.Machine

open Sys2Proof

/-! ### Places -/

/-- The target address of an operation. -/
def tAddr (o : RemOp) : W64 := o.op.addr

/-- The operation's home is this module. -/
def atHome (d : Dev) (o : RemOp) : Bool := holdsIndex d (gModule (tAddr o)) && o.phase == .sent

/-- Populated size of the target region (R38). -/
def regionSize (a : W64) : Nat :=
  if gSpace a = 0 then bufSize (gBuf a) else if gSpace a = 1 then space1Size
  else if gSpace a = 2 then loftSize else if gSpace a = 5 then 2 * stackSize else 2 ^ 20

/-- Bytes of a range that lie inside the region (R47). -/
def inside (a : W64) (len : Nat) : Nat := min len (regionSize a - gOff a)

/-- The stack that receives a request at an offset (R39, R40, R42). -/
def ctlStack (a : W64) (off : Nat) : Nat :=
  if gSpace a = 2 then loftStack off else if gSpace a = 1 then off / 2048 % 8
  else 2 * gDie a + min 1 (off / stackSize)

/-- The violation of a range that runs beyond its region, counted once where it is found (R46, R47). The manual gives
no controller for an offset beyond the end of a space, where `dram_place` is not defined: the model takes the
interleave of the first byte beyond. A range of no bytes is counted when its offset lies above the region's size and
not when it equals it. DESIGN CHOICE, log 50. -/
def countBeyond (d : Dev) (a : W64) (len : Nat) : Dev :=
  if gOff a + len ≤ regionSize a then d
  else if gSpace a = 0 then countViol d (gStall a)
  else if gSpace a = 2 then bump d (loftReg (ctlStack a (gOff a + inside a len)) 0)
  else bump d (dramReg (ctlStack a (gOff a + inside a len)) 0)

/-- DRAM keys of a range of space 0x1 or 0x5. -/
def dramKeys (a : W64) (off n : Nat) : List Nat :=
  if gSpace a = 1 then space1Keys off n else homeKeys (gDie a) off n

/-! ### Reads and writes at memory -/

/-- Bytes written at the target, inside its region. -/
def memWrite (d : Dev) (a : W64) (bs : List Byte) : Dev :=
  let bs := bs.take (inside a bs.length)
  if gSpace a = 2 then
    let obs := (List.range bs.length).zip bs |>.map fun p => (gOff a + p.1, p.2)
    mirrorOut (loftWrite d obs) true obs
  else
    let obs := (dramKeys a (gOff a) bs.length).zip bs
    mirrorOut (dramWrite d obs) false obs

/-- Bytes read at the target: zero beyond the region and in space 0x3 (R43, R47). -/
def memRead (d : Dev) (a : W64) (len : Nat) : Dev × List Byte :=
  let n := inside a len
  let pad := List.replicate (len - n) 0
  if gSpace a = 3 then (d, List.replicate len 0)
  else if gSpace a = 2 then
    let offs := (List.range n).map (gOff a + ·)
    (loftTouchAll d offs, loftAt d offs ++ pad)
  else
    let keys := dramKeys a (gOff a) n
    (dramTouchAll d keys, dramAt d keys ++ pad)

/-! ### Atomic arithmetic (R56) -/

/-- The new value of an element. -/
def atomicElem (k : RemKind) (old add : Nat) : Nat :=
  match k with
  | .aaddI32 => (satAddI (BitVec.ofNat 32 old) (BitVec.ofNat 32 add)).toNat
  | .aaddF32 => fadd fp32 false old add
  | .aaddBf16 => fadd bf16 false old add
  | .faddI64 => (old + add) % 2 ^ 64
  | _ => (old + add) % 2 ^ 32

/-- The bytes after an atomic operation on n bytes of elements. -/
def atomicBytes (k : RemKind) (old add : List Byte) : List Byte :=
  let e := elemSize k
  (List.range (old.length / e)).flatMap fun j => toLe e (atomicElem k (fieldAt old (e * j) e) (fieldAt add (e * j) e))

/-- The pieces of a range that one atomic unit performs: granules of DRAM or of the loft (R346). -/
def pieces (a : W64) (n : Nat) : List (Nat × Nat) :=
  let g := if gSpace a = 2 then 4096 else 2048
  let k := min n (g - gOff a % g)
  if k < n then [(0, k), (k, n - k)] else [(0, n)]

/-- One piece at a DRAM controller (R346, R347): on a line that cannot be trusted nothing is added. -/
def atomicDram (k : RemKind) (a : W64) (add : List Byte) (d : Dev) (p : Nat × Nat) : Dev :=
  let keys := dramKeys a (gOff a + p.1) p.2
  let bad := (linesOf keys).any (lineBad d)
  let d := dramTouchAll d keys
  if bad then bump d (dramReg (ctlStack a (gOff a + p.1)) 0x20)
  else
    let obs := keys.zip (atomicBytes k (dramAt d keys) (slice add p.1 p.2))
    mirrorOut (setMem d { d.mem with dram := dramStore d.mem.dram obs }) false obs

/-- One piece at a loft controller (R57, R347, R364). One at a unit that is both not to be trusted and worn counts under R347
alone: nothing is written, so R364 has no write to ignore; the manual does not say (DESIGN CHOICE, log 19). -/
def atomicLoft (k : RemKind) (a : W64) (add : List Byte) (d : Dev) (p : Nat × Nat) : Dev :=
  let offs := (List.range p.2).map fun j => gOff a + p.1 + j
  let units := (offs.map unitOf).eraseDups
  let bad := units.any fun u => unitErr d u == some .uncorrectable || unitErr d u == some .poisoned
  let worn := units.filter (unitWorn d)
  let d := loftTouchAll d offs
  if bad then bump d (loftReg (ctlStack a (gOff a + p.1)) 0x40)
  else if worn ≠ [] then worn.foldl loftWorn d
  else
    let obs := offs.zip (atomicBytes k (loftAt d offs) (slice add p.1 p.2))
    mirrorOut (setMem d { d.mem with
      loft := dramStore d.mem.loft obs
      record := noteRecord d.mem.record obs
      loftErr := units.foldl (fun m u => mput none m u none) d.mem.loftErr
      wear := units.foldl (fun w u => mput 0 w (regionOf u) (mget 0 w (regionOf u) + 1)) d.mem.wear }) true obs

/-- An atomic operation at memory, and the element a FADD returns. -/
def memAtomic (d : Dev) (a : W64) (k : RemKind) (add : List Byte) : Dev × List Byte :=
  let n := inside a add.length
  let old := if gSpace a = 2 then loftAt d ((List.range n).map (gOff a + ·)) else dramAt d (dramKeys a (gOff a) n)
  let back := if isFadd k then old ++ List.replicate (add.length - n) 0 else []
  if gSpace a = 2 then ((pieces a n).foldl (atomicLoft k a add) d, back)
  else ((pieces a n).foldl (atomicDram k a add) d, back)

/-! ### At a stall's buffers -/

/-- The slot that a PUT.F targets. -/
def tSlot (o : RemOp) : Nat := gOff (tAddr o) / 512

/-- The target slot exists: its buffer's size is a whole number of slots (R38, R209). -/
def slotExists (o : RemOp) : Bool := tSlot o < slotCount (gBuf (tAddr o))

/-- The flag of the target slot set; beyond the buffer there is none, and a violation changes no state (R45). -/
def fillSlot (x : Stall) (o : RemOp) : Stall := if slotExists o then setFlag x (gBuf (tAddr o)) (tSlot o) true else x

/-- An operation performed at a stall's buffers, its signal after its data (R49, R61, R68). R54 lets only aligned 8-byte
portions count as performed at one time; here, as everywhere, the whole operation is performed in one step (DESIGN CHOICE,
log 3). -/
def performAtStall (d : Dev) (o : RemOp) : Dev :=
  let a := tAddr o
  let t := gStall a
  let b := gBuf a
  let n := inside a o.op.len
  let d := countBeyond d a o.op.len
  match o.op.kind with
  | .get =>
    performed (sramTouch d t b (gOff a) n) o (sramRead d t b (gOff a) n ++ List.replicate (o.op.len - n) 0)
  | .put => performed (sramWrite d t b (gOff a) (o.op.data.take n)) o []
  | .putS => performed (addCounter (sramWrite d t b (gOff a) (o.op.data.take n)) t o.op.tctr) o []
  | .putF =>
    performed (modStall (sramWrite d t b (gOff a) (o.op.data.take n)) t fun x => fillSlot x o) o []
  | k =>
    let old := sramRead d t b (gOff a) n
    let d := sramTouch d t b (gOff a) n
    performed (sramWrite d t b (gOff a) (atomicBytes k old o.op.data)) o
      (if isFadd k then old ++ List.replicate (o.op.len - n) 0 else [])

/-! ### The holding store (R213 to R216) -/

/-- The issuing stall as a number: module · 1,024 + stall. -/
def srcNum (o : RemOp) : Nat := 1024 * o.op.srcModule + o.op.srcStall

/-- Source and target are stalls of one die of this module (R68). -/
def sameDie (o : RemOp) : Bool := o.own && gSpace (tAddr o) == 0 && o.op.srcStall / 256 == gStall (tAddr o) / 256

/-- Entries an operation takes: one, or one for each 512-byte packet (log 20). -/
def holdEntries (o : RemOp) : Nat := max 1 ((o.op.data.length + 511) / 512)

def holdUsed (d : Dev) (t : Nat) : Nat :=
  ((stallOf d t).hold.map fun id => ((opOf d id).map holdEntries).getD 0).sum

/-- A waiting operation of the same source stall on the same die stands before it (R214). -/
def behind (d : Dev) (t : Nat) (o : RemOp) : Bool :=
  sameDie o && (stallOf d t).hold.any fun id =>
    match opOf d id with
    | some p => srcNum p == srcNum o && p.id < o.id
    | none => false

/-- The slot of a PUT.F is full; a slot that does not exist never is. -/
def slotFull (d : Dev) (o : RemOp) : Bool :=
  o.op.kind == .putF && slotExists o && flagOf (stallOf d (gStall (tAddr o))) (gBuf (tAddr o)) (tSlot o)

/-- An operation is refused: counted, and its source is to resend (R216). -/
def refuse (d : Dev) (t : Nat) (o : RemOp) : Dev :=
  let d := bump (putOp d { o with phase := .refused }) (stallReg t 0x60)
  modStall d t fun x => { x with refused := if x.refused.contains (srcNum o) then x.refused else x.refused ++ [srcNum o] }

/-- An operation arrives at a stall: it is performed, waits in the holding store, or is refused. -/
def arrive (d : Dev) (o : RemOp) : Dev :=
  let t := gStall (tAddr o)
  if (stallOf d t).gone then countViol (performedZero d o) t
  else if (stallOf d t).refused.contains (srcNum o) then refuse d t o
  else if behind d t o || slotFull d o then
    if holdUsed d t + holdEntries o ≤ 16 then
      modStall (putOp d { o with phase := .holding }) t fun x => { x with hold := x.hold ++ [o.id] }
    else refuse d t o
  else performAtStall d o

/-- An operation leaves the holding store and is performed. -/
def release (d : Dev) (t : Nat) (o : RemOp) : Dev :=
  performAtStall (modStall d t fun x =>
    { x with hold := x.hold.filter (· != o.id), jammed := x.jammed.filter (· != o.id) }) o

/-- The first held operation of a source on the stall's own die. -/
def nextHeld (d : Dev) (t src : Nat) : Option RemOp :=
  ((stallOf d t).hold.filterMap (opOf d)).find? fun o => sameDie o && srcNum o == src

/-- Operations held behind a performed PUT.F are performed in issue order, up to the next PUT.F that must wait. -/
def drainHeld (t src : Nat) : Nat → Dev → Dev
  | 0, d => d
  | n + 1, d =>
    match nextHeld d t src with
    | none => d
    | some o => if slotFull d o then d else drainHeld t src n (release d t o)

/-- When a slot becomes empty, the PUT.F that has waited longest at it is performed (R215). -/
def wakeSlot (t buf slot : Nat) (d : Dev) : Dev :=
  match ((stallOf d t).hold.filterMap (opOf d)).find? fun o =>
      o.op.kind == .putF && gBuf (tAddr o) == buf && tSlot o == slot && !behind d t o with
  | none => d
  | some o =>
    let d := release d t o
    if sameDie o then drainHeld t (srcNum o) 16 d else d

/-- A slot's flag cleared; a waiting PUT.F follows when the flag was set. -/
def clearFlag (t buf : Nat) (d : Dev) (slot : Nat) : Dev :=
  if flagOf (stallOf d t) buf slot then wakeSlot t buf slot (modStall d t fun x => setFlag x buf slot false) else d

/-! ### Arrival of operations of each kind -/

/-- An earlier operation of the same stall to the same stall of its die is still on its way (R68). -/
def outOfOrder (d : Dev) (o : RemOp) : Bool :=
  sameDie o && d.ops.any fun p =>
    p.id < o.id && p.phase == .sent && !p.dead && sameDie p && srcNum p == srcNum o &&
      gModule (tAddr p) == gModule (tAddr o) && gStall (tAddr p) == gStall (tAddr o)

/-- The operation with an id, when it can reach its home in this module now. -/
def arriving (d : Dev) (id : Nat) : Option RemOp :=
  match opOf d id with
  | some o => if atHome d o && !outOfOrder d o then some o else none
  | none => none

/-- A PUT, or a PUT.S, at its home. -/
def performPut (d : Dev) (o : RemOp) : Dev :=
  if gSpace (tAddr o) = 0 then arrive d o
  else settle d (memWrite (countBeyond d (tAddr o) o.op.len) (tAddr o) o.op.data) o []

/-- A GET at its home. -/
def performGet (d : Dev) (o : RemOp) : Dev :=
  if gSpace (tAddr o) = 0 then arrive d o
  else
    let r := memRead (if gSpace (tAddr o) = 3 then d else countBeyond d (tAddr o) o.op.len) (tAddr o) o.op.len
    performed r.1 o r.2

/-- An atomic operation at its home. -/
def performAtomic (d : Dev) (o : RemOp) : Dev :=
  if gSpace (tAddr o) = 0 then arrive d o
  else
    let r := memAtomic (countBeyond d (tAddr o) o.op.len) (tAddr o) o.op.kind o.op.data
    settle d r.1 o r.2

end Sys2Proof.Machine
end

