-- ==== Sys2Proof/Machine/SeqMem.lean ====
section
/-! DEFINITION. Sequence memory (07): context records and page lists, edits and generations, the page pool, prefix keys
and the prefix table. -/

namespace Sys2Proof.Machine

open Sys2Proof

/-! ### Shapes (R289, R293) -/

/-- Bytes of one head vector. -/
def headBytes (fmt dim : Nat) : Nat := if fmt = 2 then dim * 17 / 32 else dim

def tokenSize (fmt dim hKv : Nat) : Nat := 2 * hKv * headBytes fmt dim

/-- TP_LOG2: the largest from 5 to 11 with TP × token size ≤ 65,536 (R293). -/
def tpLog2Of (tok : Nat) : Nat :=
  ((List.range 7).filter fun k => 2 ^ (5 + k) * tok ≤ 65536).foldl (fun m k => max m (5 + k)) 5

def Seq.hb (q : Seq) : Nat := headBytes q.kvFmt q.dim

def Seq.tp (q : Seq) : Nat := 2 ^ q.tpLog2

def nonePage : W32 := 0xFFFFFFFE
def evictedPage : W32 := 0xFFFFFFFF

/-- A value that names a page (R294). -/
def isPage (p : W32) : Bool := p.toNat < 0x280000

/-! ### The engine's and Derier's own writes to the home stacks -/

/-- Bytes written in a home area, mirrored like every write (R495). -/
def engWrite (d : Dev) (die off : Nat) (bs : List Byte) : Dev :=
  let obs := (homeKeys die off bs.length).zip bs
  mirrorOut (dramWrite d obs) false obs

/-- Some bytes of a structure at an offset of a home area written as one operation: those of the numbers `ks`. -/
def engWritePart (d : Dev) (die off : Nat) (bs : List Byte) (ks : List Nat) : Dev :=
  let obs := ks.map fun k => (homeKey die (off + k), bs.getD k 0)
  mirrorOut (dramWrite d obs) false obs

/-- Bytes written in space 0x1 by Derier. -/
def derWrite (d : Dev) (off : Nat) (bs : List Byte) : Dev :=
  let obs := (space1Keys off bs.length).zip bs
  mirrorOut (dramWrite d obs) false obs

/-! ### Context records and page lists (R298 to R300) -/

def seqOf (d : Dev) (id : Nat) : Option Seq := mget none d.attn.seqs id

def setSeq (d : Dev) (id : Nat) (q : Option Seq) : Dev :=
  { d with attn := { d.attn with seqs := mput none d.attn.seqs id q } }

/-- The 128 bytes of a context record (R298). -/
def recordBytes (id : Nat) (q : Seq) : List Byte :=
  toLe 2 id ++ toLe 1 (if q.closing then 2 else 1) ++ toLe 1 q.die ++ toLe 1 (q.layers - 1) ++ toLe 1 q.hKv ++
    toLe 1 (q.hQ - 1) ++ toLe 1 (if q.dim = 64 then 0 else if q.dim = 128 then 1 else 2) ++ toLe 1 q.kvFmt ++
    toLe 1 q.qFmt ++ toLe 1 q.tpLog2 ++ toLe 1 q.headroom ++ toLe 4 q.maxLen ++ toLe 4 q.budget ++ toLe 4 q.window ++
    toLe 4 q.decay.toNat ++ toLe 2 q.adapter ++ toLe 2 (if q.pubFlag then 1 else 0) ++ toLe 8 q.lists ++
    toLe 4 q.stride ++ toLe 4 q.reserve ++ q.nameSpace ++ toLe 12 q.chain ++ toLe 4 q.keyed ++ List.replicate 48 0

def entryBytes (e : Entry) : List Byte :=
  toLe 4 e.page.toNat ++ toLe 4 e.prev.toNat ++ toLe 4 e.changed.toNat ++ toLe 4 e.score.toNat

def liveCount (l : PageList) : Nat := (l.entries.filter fun e => isPage e.page).length

/-- The bytes of a page list (R299). -/
def listBytes (l : PageList) : List Byte :=
  toLe 4 l.gen.toNat ++ toLe 4 l.length ++ toLe 4 (liveCount l) ++ List.replicate 52 0 ++ l.entries.flatMap entryBytes

/-- A sequence stored, with its whole context record. -/
def putSeq (d : Dev) (id : Nat) (q : Seq) : Dev := engWrite (setSeq d id (some q)) q.die (128 * id) (recordBytes id q)

/-- A sequence changed: only the changed bytes of its record are written, as parts of their lines (R344). -/
def putSeqPart (d : Dev) (id : Nat) (q : Seq) (ks : List Nat) : Dev :=
  engWritePart (setSeq d id (some q)) q.die (128 * id) (recordBytes id q) ks

/-- Bytes of a record that hold STATE, and CHAIN with KEYED (R298). -/
def stateBytes : List Nat := [2]
def keyedBytes : List Nat := (List.range 16).map (64 + ·)

/-- An entry that nothing fills (R300). -/
def freshEntry : Entry := { page := nonePage, prev := nonePage, changed := 0, score := 0x3F800000 }

def freshList (n : Nat) : PageList := { gen := 1, length := 0, entries := List.replicate n freshEntry, due := false }

/-- Page list l of a sequence. -/
def Seq.list (q : Seq) (l : Nat) : PageList := q.pl.getD l (freshList 0)

def listOff (q : Seq) (l : Nat) : Nat := q.lists + l * q.stride

/-- A page list stored, and the bytes `ks` of it written, as parts of their lines (R344). -/
def putList (d : Dev) (id l : Nat) (x : PageList) (ks : List Nat) : Dev :=
  match seqOf d id with
  | none => d
  | some q => engWritePart (setSeq d id (some { q with pl := q.pl.set l x })) q.die (listOff q l) (listBytes x) ks

/-- A page list written whole (R300). -/
def openList (d : Dev) (id l : Nat) (x : PageList) : Dev :=
  match seqOf d id with
  | none => d
  | some q => engWrite (setSeq d id (some { q with pl := q.pl.set l x })) q.die (listOff q l) (listBytes x)

/-! The bytes of a list that a change writes (R299, R302, R310, R317): no more than its fields. The manual does not say so;
a wider write would clear errors of bytes that it has no reason to touch (DESIGN CHOICE, log 25). -/

/-- GEN, LIVE, and LENGTH where it changes too. -/
def headerBytes (len : Bool) : List Nat :=
  [0, 1, 2, 3] ++ (if len then [4, 5, 6, 7] else []) ++ [8, 9, 10, 11]

def lengthBytes : List Nat := [4, 5, 6, 7]

/-- PAGE, PREV and CHANGED of some entries. -/
def changedBytes (ns : List Nat) : List Nat := ns.flatMap fun n => (List.range 12).map fun k => 64 + 16 * n + k

/-- SCORE of some entries. -/
def scoreBytes (ns : List Nat) : List Nat := ns.flatMap fun n => (List.range 4).map fun k => 64 + 16 * n + 12 + k

/-- What an entry holds for a walk of generation g (R303). -/
def entryAt (g : W32) (e : Entry) : W32 := if reached g e.changed then e.page else e.prev

/-! ### Walks (R303) -/

/-- The jobs that walk a list. -/
def walksOf (d : Dev) (id l : Nat) : List Job := d.attn.jobs.filter fun j => j.started && j.seq == id && j.layer == l

/-- Jobs not finished that name a sequence. -/
def jobsNaming (d : Dev) (id : Nat) : List Job := d.attn.jobs.filter fun j => fieldAt j.desc 0 2 == id

/-! ### The page pool (R304, R336) -/

/-- Pages of a die's pool. -/
def poolSize (d : Dev) : Nat :=
  (homeSplit d - homeSw d - listEnd d) / 0x10000 + (homeSplit d - homeSw d) / 0x10000

def pageKey (die page : Nat) : Nat := die * 2 ^ 24 + page

def pageTaken (d : Dev) (die page : Nat) : Bool := mget false d.attn.taken (pageKey die page)

def freePages (d : Dev) (die : Nat) : Nat :=
  poolSize d - (d.attn.taken.filter fun p => p.1 / 2 ^ 24 == die).length

def markPage (d : Dev) (die page : Nat) (v : Bool) : Dev :=
  { d with attn := { d.attn with taken := mput false d.attn.taken (pageKey die page) v } }

/-- The first page from p upward that is free, among the next n. -/
def freeFrom (d : Dev) (die : Nat) : Nat → Nat → Option Nat
  | 0, _ => none
  | n + 1, p => if inPool d p && !pageTaken d die p then some p else freeFrom d die n (p + 1)

/-- A free page of a die. Which one is not said: any free page may be meant (log 30). -/
def pickPage (d : Dev) (die k : Nat) : Option Nat :=
  let p := Config.freeNat d.draws (die + 4 * k)
  let n := d.attn.taken.length + 1
  if inPool d p && !pageTaken d die p then some p
  else (freeFrom d die n (listEnd d / 0x10000)).orElse fun _ => freeFrom d die n (stackSize / 0x10000)

/-- n pages taken from a die's pool. -/
def takePages (die : Nat) : Nat → Dev → Dev × List Nat
  | 0, d => (d, [])
  | n + 1, d =>
    match pickPage d die n with
    | none => (d, [])
    | some p =>
      let r := takePages die n (markPage d die p true)
      (r.1, p :: r.2)

/-- A page is named by the PAGE field of an entry of any list, or by a row of the prefix table (R304). -/
def pageNamed (d : Dev) (die page : Nat) : Bool :=
  (d.attn.seqs.any fun p => match p.2 with
    | some q => q.die == die && q.pl.any fun l => l.entries.any fun e => e.page.toNat == page
    | none => false) ||
  d.attn.prefixes.any fun p => p.die == die && p.rows.any fun r => r.toNat == page

/-- A page is released: counted, and back in the pool when nothing names it and no other release of it waits. -/
def releasePage (die page : Nat) (d : Dev) : Dev :=
  let d := bump d (engineReg die 0x28)
  if pageNamed d die page || d.attn.releases.any fun r => r.die == die && r.page.toNat == page then d
  else markPage d die page false

/-- Generation `r.gen` of its list has retired (R304). -/
def genRetired (d : Dev) (r : Release) : Bool :=
  ((seqOf d r.seq).all fun q => (q.list r.layer).gen != r.gen) &&
    (walksOf d r.seq r.layer).all fun j => !reached r.gen j.gen

/-- Generations retire and their pages are released. -/
def retireGens (d : Dev) : Dev :=
  let done := d.attn.releases.filter (genRetired d)
  done.foldl (fun d r => releasePage r.die r.page.toNat d)
    { d with attn := { d.attn with releases := d.attn.releases.filter fun r => !genRetired d r } }

/-! ### Prefix keys and the prefix table (R321 to R327) -/

/-- The chain value of a block after the one before it. -/
def chainNext (ns : List Byte) (before : Option Nat) (toks : List Byte) : Nat :=
  shake ((match before with
    | none => ns
    | some c => toLe 12 c) ++ toks) 12

/-- Whole blocks of token ids keyed onto a chain; n blocks of the bytes are taken. -/
def keyBlocks (ns : List Byte) : Nat → List Nat → List Byte → List Nat
  | 0, cs, _ => cs
  | n + 1, cs, toks => keyBlocks ns n (cs ++ [chainNext ns cs.getLast? (toks.take 128)]) (toks.drop 128)

/-- The chain value that keys page n: that of its last block. -/
def pageChain (q : Seq) (n : Nat) : Option Nat := (q.chains.drop ((n + 1) * q.tp / 32 - 1)).head?

def chainKey (c : Nat) : Nat := c % 2 ^ 64
def chainCheck (c : Nat) : Nat := c / 2 ^ 64 % 2 ^ 32

def buckets (d : Dev) : Nat := 2 ^ d.host.nbLog2

/-- The entries a key is looked up at, in order: bucket and slot. -/
def probePlaces (d : Dev) (key : Nat) : List (Nat × Nat) :=
  (List.range 8).flatMap fun j => (List.range 4).map fun s => ((key % buckets d + j) % buckets d, s)

def prefixAt (d : Dev) (pl : Nat × Nat) : Option Prefix :=
  d.attn.prefixes.find? fun p => p.bucket == pl.1 && p.slot == pl.2

/-- DRAM keys of a bucket (R323), and of a row's page numbers. -/
def bucketKeys (d : Dev) (b : Nat) : List Nat := space1Keys (reserveBase d + 128 * b) 128
def rowKeys (p : Prefix) : List Nat := homeKeys p.die p.row (4 * p.layers)

/-- The buckets of a key are read, up to the one where it matches (R324, R341). -/
def readBuckets (d : Dev) (key : Nat) (hit : Option Prefix) : Dev :=
  let bs := (List.range 8).map fun j => (key % buckets d + j) % buckets d
  let bs := match hit with
    | some p => bs.takeWhile (· != p.bucket) ++ [p.bucket]
    | none => bs
  dramTouchAll d (bs.flatMap (bucketKeys d))

/-- A row matches page n of a sequence under a chain value (R324). -/
def rowMatches (q : Seq) (c n : Nat) (p : Prefix) : Bool :=
  p.key == chainKey c && p.check == chainCheck c && p.die == q.die && p.tpLog2 == q.tpLog2 &&
    p.layers == q.layers && p.page == n

/-- The row that matches page n. -/
def findRow (d : Dev) (q : Seq) (n : Nat) : Option Prefix :=
  match pageChain q n with
  | none => none
  | some c => ((probePlaces d (chainKey c)).filterMap (prefixAt d)).find? (rowMatches q c n)

/-- Matched rows of pages 0, 1, 2 and on, up to n of them. -/
def matchRows (d : Dev) (q : Seq) : Nat → Nat → List Prefix
  | 0, _ => []
  | n + 1, k =>
    match findRow d q k with
    | none => []
    | some p => p :: matchRows d q n (k + 1)

/-- What the look-up of pages k, k + 1 and on, up to n of them, reads: the buckets of each page's key, and the row of each
match (R341). -/
def readRows (q : Seq) : Nat → Nat → Dev → Dev
  | 0, _, d => d
  | n + 1, k, d =>
    match pageChain q k with
    | none => d
    | some c =>
      let hit := findRow d q k
      let d := readBuckets d (chainKey c) hit
      match hit with
      | none => d
      | some p => readRows q n (k + 1) (dramTouchAll d (rowKeys p))

/-! Ranges of the list area (R288, R323, R336). -/

/-- The lowest free range of n bytes between two offsets (R288, R410). -/
def lowestRange (used : List (Nat × Nat)) (lo hi n : Nat) : Option Nat :=
  let starts := (lo :: used.map fun u => u.1 + u.2).filter fun s =>
    lo ≤ s && s + n ≤ hi && used.all fun u => s + n ≤ u.1 || u.1 + u.2 ≤ s
  starts.foldl (fun m s => some (min s (m.getD s))) none

/-- Bytes that the page numbers of a row take, in whole lines. -/
def rowSize (layers : Nat) : Nat := (4 * layers + 63) / 64 * 64

/-- Ranges of a die's list area in use, as (offset, length): the lists of its sequences and the rows of its prefix-table
entries. -/
def listRanges (d : Dev) (die : Nat) : List (Nat × Nat) :=
  (d.attn.seqs.filterMap fun p => match p.2 with
    | some q => if q.die = die then some (q.lists, q.layers * q.stride) else none
    | none => none) ++
  (d.attn.prefixes.filter fun p => p.die == die).map fun p => (p.row, rowSize p.layers)

/-- The highest free range of n bytes between two offsets. -/
def highestRange (used : List (Nat × Nat)) (lo hi n : Nat) : Option Nat :=
  let starts := ((hi - n) :: used.map fun u => u.1 - n).filter fun s =>
    lo ≤ s && s + n ≤ hi && used.all fun u => s + n ≤ u.1 || u.1 + u.2 ≤ s
  starts.foldl (fun m s => some (max s (m.getD s))) none

/-- Where a new row of page numbers lies. The manual says only that ROW is an offset on the die: any free range of the list
area may be meant, and a row that finds none is not inserted. DESIGN CHOICE, log 25. -/
def rowPlace (d : Dev) (die layers : Nat) : Option Nat :=
  let used := listRanges d die
  let p := listBase + 64 * (Config.freeNat d.draws (20 + die) % (listGib d * gib / 64))
  let n := rowSize layers
  if p + n ≤ listEnd d ∧ used.all (fun u => p + n ≤ u.1 || u.1 + u.2 ≤ p) then some p
  else highestRange used listBase (listEnd d) n

/-- The 32 bytes of a table entry (R323). -/
def prefixBytes (p : Prefix) : List Byte :=
  toLe 8 p.key ++ toLe 4 p.check ++ toLe 4 p.refs ++ toLe 8 p.row ++
    toLe 1 (p.die + 128) ++ toLe 1 p.tpLog2 ++ toLe 2 (p.layers - 1) ++ toLe 4 p.page

def prefixOff (d : Dev) (p : Prefix) : Nat := reserveBase d + 128 * p.bucket + 32 * p.slot

def samePlace (p r : Prefix) : Bool := p.bucket == r.bucket && p.slot == r.slot

/-- A table entry stored, in place of one at its place. -/
def putPrefix (d : Dev) (p : Prefix) : Dev :=
  derWrite { d with attn := { d.attn with prefixes := d.attn.prefixes.filter (fun r => !samePlace p r) ++ [p] } }
    (prefixOff d p) (prefixBytes p)

/-- A table entry removed; its pages are released (R327). -/
def dropPrefix (d : Dev) (p : Prefix) : Dev :=
  let d := derWrite { d with attn := { d.attn with prefixes := d.attn.prefixes.filter fun r => !samePlace p r } }
    (prefixOff d p) (List.replicate 32 0)
  p.rows.foldl (fun d r => releasePage p.die r.toNat d) d

/-- The descendants of a place in the table, n generations deep. -/
def descendants (d : Dev) : Nat → Nat → List Prefix
  | 0, _ => []
  | n + 1, place =>
    (d.attn.prefixes.filter fun p => p.parent == some place).flatMap fun p =>
      p :: descendants d n (4 * p.bucket + p.slot)

/-- The entry with REFS 0 of a die that was matched longest ago. The manual does not rank those that one look-up matched, nor
one never matched: the model takes the earliest in the table's order, and an insertion counts as a match (DESIGN CHOICE,
log 27). -/
def oldestFreeRow (d : Dev) (die : Nat) : Option Prefix :=
  (d.attn.prefixes.filter fun p => p.die == die && p.refs == 0).foldl (fun m p =>
    match m with
    | none => some p
    | some b => if p.used < b.used then some p else some b) none

/-- PREFIX_PRUNE (R327): rows go while the free pages are below one sixteenth of the pool, at most n of them. -/
def prune (die : Nat) : Nat → Dev → Dev
  | 0, d => d
  | n + 1, d =>
    if poolSize d ≤ 16 * freePages d die then d
    else
      match oldestFreeRow d die with
      | none => d
      | some p =>
        let ds := descendants d d.attn.prefixes.length (4 * p.bucket + p.slot)
        prune die n (ds.foldl dropPrefix (dropPrefix d p))

def pruneAll (d : Dev) (die : Nat) : Dev := prune die d.attn.prefixes.length d

/-- A sequence's lists name the page row (R323): some list does. Whether an eviction in one list alone takes the reference
away the manual does not say; here REFS falls only when no list of the sequence names the row (DESIGN CHOICE, log 27). -/
def namesRow (q : Seq) (p : Prefix) : Bool :=
  (List.range p.rows.length).any fun l =>
    ((q.list l).entries.drop p.page).head?.any fun e => some e.page == (p.rows.drop l).head?

/-- REFS falls where a sequence's lists no longer name a row. -/
def dropRefs (before after : Seq) (d : Dev) : Dev :=
  (d.attn.prefixes.filter fun p => p.die == before.die && namesRow before p && !namesRow after p).foldl
    (fun d p => putPrefix d { p with refs := p.refs - 1 }) d

/-! ### Edits (R301 to R305) -/

/-- The entries of a list after an edit's changes, under generation g. -/
def editEntries (g : W32) (sets : List (Nat × W32)) (es : List Entry) : List Entry :=
  es.mapIdx fun n e =>
    match sets.find? fun s => s.1 == n with
    | some s => { e with page := s.2, prev := e.page, changed := g }
    | none => e

/-- An edit applied to its list as one step (R302). -/
def applyEdit (d : Dev) (e : Edit) : Dev :=
  let d := { d with attn := { d.attn with edits := d.attn.edits.filter fun x => x.id != e.id } }
  match seqOf d e.seq with
  | none => d
  | some q =>
    let l := q.list e.layer
    let l' : PageList :=
      { gen := l.gen + 1, length := e.newLen.getD l.length, entries := editEntries (l.gen + 1) e.sets l.entries,
        due := l.due || e.newLen.isSome }
    let gone := e.sets.filterMap fun s => ((l.entries.drop s.1).head?).bind fun x =>
      if isPage x.page && x.page != s.2 then
        some { seq := e.seq, layer := e.layer, gen := l.gen, die := q.die, page := x.page }
      else none
    let ev := (e.sets.filter fun s => s.2 == evictedPage).length
    let ns := (e.sets.map (·.1)).filter (· < l.entries.length)
    let d := putList d e.seq e.layer l' (headerBytes e.newLen.isSome ++ changedBytes ns)
    let d := { d with attn := { d.attn with releases := d.attn.releases ++ gone } }
    let d := if ev = 0 then d else bumpBy d (engineReg q.die 0x20) ev
    retireGens (dropRefs q { q with pl := q.pl.set e.layer l' } d)

/-- PREFIX_PRUNE follows whatever takes pages or lowers a REFS (R327). -/
def applyPrune (d : Dev) (e : Edit) : Dev :=
  match seqOf d e.seq with
  | none => applyEdit d e
  | some q => pruneAll (applyEdit d e) q.die

/-- The edits that wait on a list, oldest first. -/
def editsOf (d : Dev) (id l : Nat) : List Edit := d.attn.edits.filter fun e => e.seq == id && e.layer == l

/-- No walk of the list is earlier than the CHANGED of an entry the edit changes (R305). -/
def editFree (d : Dev) (e : Edit) : Bool :=
  match seqOf d e.seq with
  | none => true
  | some q => e.sets.all fun s => (((q.list e.layer).entries.drop s.1).head?).all fun x =>
      (walksOf d e.seq e.layer).all fun j => reached j.gen x.changed

/-- An append of the list that stands before an edit in the list's serial order (R310): one that has taken its snapshot,
or one that arrived before the edit was requested. -/
def appendBefore (d : Dev) (e : Edit) : Bool :=
  d.attn.jobs.any fun j => bitAt (fieldAt j.desc 3 1) 1 && fieldAt j.desc 0 2 == e.seq && fieldAt j.desc 2 1 == e.layer &&
    ((seqOf d e.seq).map (·.die)).getD 4 == j.die && (j.started || j.id < e.id)

/-- The first batch of its list, with no earlier walk and no append in its way (R301, R305, R310). -/
def editMay (d : Dev) (e : Edit) : Bool :=
  ((editsOf d e.seq e.layer).head?).any (·.id == e.id) && editFree d e && !appendBefore d e

/-- Batches of a die held under R305: an earlier walk stands in the way of one, or of one before it on its list. -/
def heldEdits (d : Dev) (die : Nat) : List Edit :=
  d.attn.edits.filter fun e => ((seqOf d e.seq).map (·.die)).getD 4 == die &&
    (editsOf d e.seq e.layer).any fun f => f.id ≤ e.id && !editFree d f

/-- An edit batch is requested. -/
def addEdit (d : Dev) (seq layer : Nat) (sets : List (Nat × W32)) (newLen : Option Nat) : Dev :=
  { d with
    attn := { d.attn with
      edits := d.attn.edits ++ [{ id := d.nextId, seq := seq, layer := layer, sets := sets, newLen := newLen }] }
    nextId := d.nextId + 1 }

/-- A list as it will be after the batches that wait on it. -/
def viewEntries (d : Dev) (id l : Nat) (es : List Entry) : List Entry :=
  (editsOf d id l).foldl (fun es e => editEntries 0 e.sets es) es

/-- A closing sequence's id is freed when no job names it and no batch waits (R285, R305). -/
def tryFree (d : Dev) (id : Nat) : Dev :=
  match seqOf d id with
  | none => d
  | some q =>
    if q.closing ∧ jobsNaming d id = [] ∧ (d.attn.edits.any fun e => e.seq == id) = false then
      setSeq (engWrite d q.die (128 * id + 2) [0]) id none
    else d

/-- Every generation that may retire does, and closed sequences are freed: nothing walks a list here any more (R502). -/
def retireLists (d : Dev) : Dev := (d.attn.seqs.map (·.1)).foldl tryFree (retireGens d)

/-! ### Allocation ahead, and eviction (R318 to R320) -/

/-- The page number with the lowest score among entries 1 to w0 − 1, ties to the lowest; scores compare as FP32. -/
def lowestScore (es : List Entry) (w0 : Nat) (evict : List Nat) : Option Nat :=
  (List.range w0).foldl (fun c n =>
    match (es.drop n).head? with
    | none => c
    | some e =>
      if n = 0 ∨ isPage e.page = false ∨ evict.contains n then c
      else
        match c with
        | none => some n
        | some m =>
          let o := ((es.drop m).head?).map (·.score)
          if (vcmpv (fdecode fp32 e.score.toNat) (fdecode fp32 (o.getD 0).toNat)).any (· < 0) then some n else c) none

/-- `make_room` of R319: at most n rounds. -/
def makeRoom (es : List Entry) (live budget w0 : Nat) : Nat → List Nat → Nat → List Nat × Nat
  | 0, evict, need => (evict, need)
  | n + 1, evict, need =>
    if live + need ≤ budget + evict.length then (evict, need)
    else
      match lowestScore es w0 evict with
      | none => makeRoom es live budget w0 n evict (need - 1)
      | some c => makeRoom es live budget w0 n (evict ++ [c]) need

/-- What an allocation for a list will ask for: entries below the limit that hold no page. -/
def wantedEntries (q : Seq) (l : PageList) (es : List Entry) : List Nat :=
  let lim := min q.maxLen (max (l.length + q.tp) q.reserve)
  (List.range ((lim + q.tp - 1) / q.tp)).filter fun n => ((es.drop n).head?).any fun e => e.page == nonePage

/-- PAGE_ALLOCATE (R318, R319): one batch that fills the entries ahead, evicting under the budget; POOL_EMPTY once while
the allocation waits. Of a pool that has pages, but fewer than the batch needs, the manual does not speak: what there is goes
out in a first batch, and the rest waits as for an empty pool (DESIGN CHOICE, log 27). -/
def execPageAllocate (seq layer : Nat) : State → Res :=
  onDerier "PAGE_ALLOCATE" fun d =>
    match seqOf d seq with
    | none => none
    | some q =>
      let l := q.list layer
      if q.closing ∨ q.layers ≤ layer ∨ l.due = false then none
      else
        let d := pruneAll d q.die
        let es := viewEntries d seq layer l.entries
        let want := wantedEntries q l es
        let w0 := (max l.length 1 - 1) / q.tp + 1 - q.window
        let live := (es.filter fun e => isPage e.page).length
        let room := fun n => if q.budget = 0 then ([], n) else makeRoom es live q.budget w0 (es.length + n + 1) [] n
        let short := freePages d q.die < (room want.length).2
        let need := if short then freePages d q.die else want.length
        let waits := d.attn.poolWait.contains (seq, layer)
        if short ∧ waits ∧ need = 0 then none
        else
          let d := if short ∧ waits = false then
              raiseEvent { d with attn := { d.attn with poolWait := d.attn.poolWait ++ [(seq, layer)] } } q.owner 2 6 q.die seq
            else if short = false then
              { d with attn := { d.attn with poolWait := d.attn.poolWait.filter (· != (seq, layer)) } }
            else d
          let r := room need
          let t := takePages q.die r.2 d
          let sets := r.1.map (fun n => (n, evictedPage)) ++ (want.zip t.2).map fun p => (p.1, BitVec.ofNat 32 p.2)
          let d := t.1
          let d := if short then d else
            (match seqOf d seq with
              | some q => setSeq d seq (some { q with pl := q.pl.set layer { l with due := false } })
              | none => d)
          some (pruneAll (if sets = [] then d else addEdit d seq layer sets none) q.die)

/-! ### PREFIX_INSERT (R326) -/

/-- The pages of entry n of every list. -/
def rowPages (q : Seq) (n : Nat) : List W32 :=
  (List.range q.layers).filterMap fun l => (((q.list l).entries.drop n).head?).map (·.page)

/-- Every condition of R326 for page n. -/
def mayInsert (d : Dev) (q : Seq) (n : Nat) : Bool :=
  q.pubFlag && !q.closing
    && (q.pl.all fun l => (n + 1) * q.tp ≤ l.length && (l.entries.take (n + 1)).all fun e => e.page != evictedPage)
    && (n + 1) * q.tp ≤ q.keyed
    && ((List.range n).all fun k => k < q.attached || (findRow d q k).isSome)
    && (findRow d q n).isNone && (rowPages q n).length == q.layers

def execPrefixInsert (seq page : Nat) : State → Res :=
  onDerier "PREFIX_INSERT" fun d =>
    match seqOf d seq with
    | none => none
    | some q =>
      match pageChain q page with
      | none => none
      | some c =>
        if mayInsert d q page = false then none
        else
          match (probePlaces d (chainKey c)).find? fun pl => (prefixAt d pl).isNone, rowPlace d q.die q.layers with
          | some pl, some at_ =>
            let rows := rowPages q page
            some (putPrefix (engWrite (readBuckets d (chainKey c) none) q.die at_ (rows.flatMap fun p => toLe 4 p.toNat))
              { bucket := pl.1, slot := pl.2, key := chainKey c, check := chainCheck c, refs := 1, die := q.die,
                tpLog2 := q.tpLog2, layers := q.layers, page := page, row := at_, rows := rows,
                parent := if page = 0 then none else (findRow d q (page - 1)).map fun p => 4 * p.bucket + p.slot,
                used := d.attn.clock })
          | _, _ => some (readBuckets d (chainKey c) none)

end Sys2Proof.Machine
end

