-- ==== Sys2Proof/Machine/Sequencer.lean ====
section
/-! DEFINITION. The sequencer: fetching, refusing, holding and issuing one instruction (04, R145 to R149, R194, R198),
and the reservation of remote operations. -/

namespace Sys2Proof.Machine

open Sys2Proof

/-- What an instruction does at issue. -/
inductive Issue where
  /-- It is refused with a fault (R194). -/
  | fault (code detail : Nat)
  /-- It is held (R147). -/
  | wait (w : Wait)
  /-- It issues; the next instruction is at the index given, or follows. -/
  | go (d : Dev) (next : Option Nat)
  /-- It issues and has itself set the program counter and what holds the stall. -/
  | stay (d : Dev)

/-- The word at the program counter, when the fetch is below the limit and every byte of it is readable. -/
def fetchWord (x : Stall) : Option W64 :=
  if x.pc < x.limit ∧ ((List.range 8).any fun k => mget none x.storeErr (8 * x.pc + k) == some .uncorrectable) = false
  then mget none x.store x.pc else none

/-- Corrected bytes of a fetch are counted (R198), once for each issue. -/
def fetchTouch (d : Dev) (st : Nat) : Dev :=
  let x := stallOf d st
  let n := ((List.range 8).filter fun k => mget none x.storeErr (8 * x.pc + k) == some .correctable).length
  if x.held = none ∧ n ≠ 0 then bumpBy d (stallReg st 0x28) n else d

/-- The sequencer is held at a routine boundary: by an EPOCH with WAIT that has issued, or for a SOLVE. -/
def epochHeld (x : Stall) : Bool :=
  match x.held with
  | some { why := .epoch _ _, .. } => true
  | some { why := .solve, .. } => true
  | _ => false

/-- A hold begins, or goes on when it is the same one (R199). -/
def holdOn (d : Dev) (st : Nat) (w : Wait) : Dev :=
  modStall d st fun x =>
    { x with held := some { why := w, raised := match x.held with
      | some h => h.why == w && h.raised
      | none => false } }

/-- The stall after an issue: the hold is over and the program counter moves. -/
def advance (d : Dev) (st pc : Nat) : Dev := modStall d st fun x => { x with held := none, pc := pc }

/-- One instruction of a running stall with the opcode given. -/
def issueDev (op : Nat) (frm : Ins → Option Form) (st : Nat) (f : Ins → Stall → Dev → Issue) (d : Dev) :
    Option Dev :=
  let x := stallOf d st
  if x.mode ≠ .running ∨ epochHeld x then none
  else
    match fetchWord x with
    | none => none
    | some w =>
      let i := insOf w
      if i.op ≠ op then none
      else
        let d := fetchTouch d st
        match frm i with
        | none => some (stopStall d st 0x01 (w.toNat / 2 ^ 32) x.pc)
        | some fm =>
          if formOk fm i = false then some (stopStall d st 0x01 (w.toNat / 2 ^ 32) x.pc)
          else if hazard d st fm i then some (holdOn d st .scoreboard)
          else
            match f i x d with
            | .fault c det => some (stopStall d st c det x.pc)
            | .wait w => some (holdOn d st w)
            | .go d' nx => some (advance d' st (nx.getD (x.pc + 1)))
            | .stay d' => some d'

/-- The meaning of an instruction. -/
def issue (name : String) (op : Nat) (frm : Ins → Option Form) (st : Nat) (f : Ins → Stall → Dev → Issue)
    (s : State) : Res :=
  onDev name (issueDev op frm st f) s

/-- An instruction that only changes its stall. -/
def pureOp (f : Ins → Stall → Stall) (st : Nat) (i : Ins) (_x : Stall) (d : Dev) : Issue :=
  .go (modStall d st (f i)) none

/-! ### Local accesses -/

/-- A local access: LOCAL_RANGE, then ALIGN, then the scoreboard (R149, R164, R166, R168). -/
def withLocal (d : Dev) (st : Nat) (addr : W64) (len align : Nat) (k : Nat → Nat → Issue) : Issue :=
  match localRange addr len with
  | none => .fault 0x04 (addr.toNat % 2 ^ 32)
  | some (buf, off) =>
    if addr.toNat % align ≠ 0 then .fault 0x05 (addr.toNat % 2 ^ 32)
    else if blocked d st buf off len then .wait .scoreboard
    else k buf off

/-! ### Remote operations at issue (R52, R59, R178) -/

/-- Earlier bin writes of the stall are still to come (R52). -/
def accessesPending (d : Dev) (st : Nat) : Bool := (stallOf d st).cribOps != [] || jobsOf d st != []

/-- Where the operation's completion counts (R177). -/
def insCtr (i : Ins) : Option Nat := if bitAt i.imm 20 then some (bitsOf i.imm 19 16) else none

/-- The operation enters the module: sent to its home, or complete as a violation that the stall found (R46, R61). -/
def launch (d : Dev) (st : Nat) (o : NetOp) (dest : Nat) (ctr : Option Nat) : Dev :=
  let far := !holdsIndex d (gModule o.addr) && (usablePorts d (gModule o.addr)).isEmpty
  let bad := issueViolation d o.kind o.addr o.len || far
  let r : RemOp :=
    { id := d.nextId, op := { o with srcId := d.nextId, srcModule := d.pad.index, srcStall := st },
      own := true, dest := dest, ctr := ctr, phase := .sent, dead := bad, back := [], orphan := false }
  let d := { d with ops := d.ops ++ [r], nextId := d.nextId + 1 }
  if bad then performedZero (countViol d st) r
  else if holdsIndex d (gModule o.addr) then d
  else sendRequest d r.op

/-- A remote operation issues: it waits for earlier local accesses and below 64 outstanding (R52, R59). -/
def remoteOp (d : Dev) (st : Nat) (o : NetOp) (dest : Nat) (ctr : Option Nat) : Issue :=
  if accessesPending d st then .wait .scoreboard
  else if 64 ≤ (opsOf d st).length then .wait .issueLimit
  else .go (launch d st o dest ctr) none

/-- An operation without its source, which `launch` fills in. -/
def netOp (k : RemKind) (addr : W64) (data : List Byte) (len tctr : Nat) : NetOp :=
  { kind := k, addr := addr, data := data, len := len, tctr := tctr, srcModule := 0, srcStall := 0, srcId := 0 }

end Sys2Proof.Machine
end

