-- ==== Sys2Proof/Machine/Attention.lean ====
section
/-! DEFINITION. Attention jobs (04, R180 to R183; 07, R289 to R317): the issue of a job, its start, and its finish. -/

namespace Sys2Proof.Machine

open Sys2Proof

/-! ### Descriptors (R306, R307) -/

def jSeq (b : List Byte) : Nat := fieldAt b 0 2
def jLayer (b : List Byte) : Nat := fieldAt b 2 1
def jAttend (b : List Byte) : Bool := bitAt (fieldAt b 3 1) 0
def jAppend (b : List Byte) : Bool := bitAt (fieldAt b 3 1) 1
def jCausal (b : List Byte) : Bool := bitAt (fieldAt b 3 1) 2
def jScore (b : List Byte) : Bool := bitAt (fieldAt b 3 1) 3
def jNq (b : List Byte) : Nat := fieldAt b 4 1
def jOutTile (b : List Byte) : Nat := fieldAt b 5 1
def jOutTiles (b : List Byte) : Nat := fieldAt b 6 1
def jStatTile (b : List Byte) : Nat := fieldAt b 7 1
def jQSlot (b : List Byte) : Nat := fieldAt b 8 2
def jQSlots (b : List Byte) : Nat := fieldAt b 10 2
def jKvSlot (b : List Byte) : Nat := fieldAt b 12 2
def jKvSlots (b : List Byte) : Nat := fieldAt b 14 2
def jQPos (b : List Byte) : Nat := fieldAt b 16 4
def jAppendPos (b : List Byte) : Nat := fieldAt b 20 4
def jKeyStart (b : List Byte) : Nat := fieldAt b 24 4
def jKeyEnd (b : List Byte) : Nat := fieldAt b 28 4
def jScale (b : List Byte) : Nat := fieldAt b 32 4

/-- The lowest reserved byte that is not zero. -/
def jReserved (b : List Byte) : Option Nat :=
  if bitsOf (fieldAt b 3 1) 7 4 ≠ 0 then some 3
  else ((List.range 28).map (36 + ·)).find? fun k => fieldAt b k 1 != 0

/-- The lowest offset among the fields that must be zero without ATTEND. -/
def jIdleField (b : List Byte) : Option Nat :=
  if jCausal b || jScore b then some 3
  else if jOutTile b ≠ 0 then some 5
  else if jOutTiles b ≠ 0 then some 6
  else if jQSlot b ≠ 0 then some 8
  else if jQSlots b ≠ 0 then some 10
  else none

/-- The checks at issue, in order: the offset of the first that fails. -/
def descFault (b : List Byte) : Option Nat :=
  match jReserved b with
  | some k => some k
  | none =>
    if jAttend b = false ∧ jAppend b = false then some 3
    else if jNq b < 1 ∨ 16 < jNq b then some 4
    else if jAttend b ∧ (jOutTiles b = 0 ∨ 31 < jOutTile b + jOutTiles b - 1) then some 5
    else if jAttend b ∧ (jQSlots b = 0 ∨ 383 < jQSlot b + jQSlots b - 1) then some 8
    else if jAttend b = false ∧ (jIdleField b).isSome then jIdleField b
    else if (jAppend b ∧ (jKvSlots b = 0 ∨ 383 < jKvSlot b + jKvSlots b - 1)) ∨
        (jAppend b = false ∧ (jKvSlot b ≠ 0 ∨ jKvSlots b ≠ 0)) then some 12
    else if 31 < jStatTile b then some 7
    else none

/-! ### ATTN.GO (R180 to R183) -/

/-- Earlier crib and attention writers of a tile have written (R221). -/
def tileFree (d : Dev) (st : Nat) (tiles : Nat × Nat) : Bool :=
  ((stallOf d st).cribOps.all fun o => !overlap (opTiles o) tiles) &&
    (jobsOf d st).all fun j => (jobTiles j.desc).all fun r => !overlap r tiles

/-- A job is accepted by the engine of the stall's die. -/
def addJob (d : Dev) (st : Nat) (b : List Byte) (epoch : W32) : Dev :=
  let j : Job :=
    { id := d.nextId, die := st / 256, stall := st, desc := b, epoch := epoch, started := false, seq := jSeq b,
      layer := jLayer b, gen := 0, len := 0, memErr := false, hold := none }
  bump { d with attn := { d.attn with jobs := d.attn.jobs ++ [j] }, nextId := d.nextId + 1 } (engineReg (st / 256) 0x08)

/-- ATTN.GO: the local range and the descriptor are checked as soon as the instruction is reached, so that one that would
also have to be held faults at once; the manual does not say which comes first (DESIGN CHOICE, log 26). -/
def attnIssue (st : Nat) (i : Ins) (x : Stall) (d : Dev) : Issue :=
  withLocal d st (sGet x i.a + sextImm i 32) 64 1 fun buf off =>
    let b := sramRead d st buf off 64
    let d := sramTouch d st buf off 64
    match descFault b with
    | some k => .fault 0x0C k
    | none =>
      if 4 ≤ (jobsOf d st).length then .wait .issueLimit
      else if (jobTiles b).all (tileFree d st) = false then .wait .scoreboard
      else .go (addJob d st b x.epoch) none

def execAttnGo (st : Nat) : State → Res := issue "ATTN_GO" 0x60 formAttn st (attnIssue st)

/-! ### The engine's checks (R308) -/

/-- Bytes of a query element. -/
def queryBytes (qFmt : Nat) : Nat := if qFmt = 0 then 2 else 1

/-- The shape test. -/
def shapeBad (q : Seq) (b : List Byte) : Bool :=
  let n := jNq b * q.hQ * q.dim
  (jAttend b && (jQSlots b * 512 < n * queryBytes q.qFmt || jOutTiles b * 4096 < n * 4 || 256 < jNq b * q.hQ ||
    (jOutTile b ≤ jStatTile b && jStatTile b < jOutTile b + jOutTiles b))) ||
  (jAppend b && jKvSlots b * 512 < jNq b * 2 * q.hKv * q.dim * 2)

/-- The LENGTH that a job's keys end at: with APPEND, that after its own append (R311). -/
def jobLen (b : List Byte) (len : Nat) : Nat := if jAppend b then jAppendPos b + jNq b else len

/-- The end position E of R312. -/
def jobEnd (b : List Byte) (len : Nat) : Nat := if jKeyEnd b = 0xFFFFFFFF then jobLen b len else jKeyEnd b

/-- The positions a job appends at. -/
def appendPositions (b : List Byte) : List Nat := (List.range (jNq b)).map (jAppendPos b + ·)

/-- The engine's checks in their order: the status of the first that fails. -/
def jobRefusal (d : Dev) (die : Nat) (b : List Byte) : Option Nat :=
  match seqOf d (jSeq b) with
  | none => some 1
  | some q =>
    let l := q.list (jLayer b)
    if q.closing then some 1
    else if q.die ≠ die then some 2
    else if q.layers ≤ jLayer b then some 3
    else if shapeBad q b then some 4
    else if jAppend b ∧ jAppendPos b ≠ l.length then some 5
    else if jAppend b ∧ (appendPositions b).any (fun p =>
        ((l.entries.drop (p / q.tp)).head?).any fun e => !isPage (entryAt l.gen e)) then some 6
    else if jAppend b ∧ q.maxLen < jAppendPos b + jNq b then some 7
    else if jAttend b ∧ (jobEnd b l.length < jKeyStart b ∨
        (jKeyEnd b ≠ 0xFFFFFFFF ∧ jobLen b l.length < jKeyEnd b)) then some 8
    else none

/-! ### Ends of jobs -/

def jobOf (d : Dev) (id : Nat) : Option Job := d.attn.jobs.find? (·.id == id)

/-- Bytes written into the stall's bin. -/
def binPut (d : Dev) (st tile off : Nat) (bs : List Byte) : Dev := sramWrite d st 1 (4096 * tile + off) bs

/-- A job's walk ends, and with it its place in every list. -/
def endJob (d : Dev) (j : Job) : Dev :=
  let d := { d with attn := { d.attn with jobs := d.attn.jobs.filter fun x => x.id != j.id } }
  tryFree (retireGens d) (jSeq j.desc)

/-- A job refused (R308). -/
def refuseJob (d : Dev) (j : Job) (status : Nat) : Dev :=
  endJob (binPut (bump d (engineReg j.die 0x10)) j.stall (jStatTile j.desc) 0 (toLe 4 status ++ List.replicate 12 0)) j

/-! ### ATTN_JOB_START (R303, R308, R310, R328) -/

/-- DRAM keys of a sequence's context record and of a list's header. -/
def walkKeys (q : Seq) (id l : Nat) : List Nat :=
  homeKeys q.die (128 * id) 128 ++ homeKeys q.die (listOff q l) 64

/-- DRAM keys of the entries that an append's positions lie in. -/
def appendKeys (q : Seq) (b : List Byte) : List Nat :=
  if jAppend b = false then []
  else ((((appendPositions b).filter (· < q.maxLen)).map (· / q.tp)).eraseDups).flatMap fun n =>
    homeKeys q.die (listOff q (jLayer b) + 64 + 16 * n) 16

/-- DRAM keys that the checks of a job read (R308, R316): the context record its number names on the engine's die and,
where that sequence lies there and has the layer, its list's header and the entries of the append. -/
def checkKeys (d : Dev) (die : Nat) (b : List Byte) : List Nat :=
  match seqOf d (jSeq b) with
  | some q =>
    if q.die = die ∧ jLayer b < q.layers then walkKeys q (jSeq b) (jLayer b) ++ appendKeys q b
    else homeKeys die (128 * jSeq b) 128
  | none => homeKeys die (128 * jSeq b) 128

/-- An append waits for the appends on its list that arrived before it, and for a batch requested before it that no walk
holds (R301, R310). -/
def appendWaits (d : Dev) (j : Job) : Bool :=
  jAppend j.desc &&
    ((d.attn.jobs.any fun x => x.id < j.id && x.die == j.die && jAppend x.desc && jSeq x.desc == jSeq j.desc &&
        jLayer x.desc == jLayer j.desc) ||
      ((editsOf d (jSeq j.desc) (jLayer j.desc)).head?).any fun e => e.id < j.id && editFree d e)

/-- A job is the next of its stall to start, and nothing in its list's order stands before it. -/
def jobReady (d : Dev) (j : Job) : Bool :=
  !j.started && !appendWaits d j && d.attn.jobs.all fun x => x.id ≥ j.id || x.stall != j.stall || x.started

/-- How many stalls of the die come before a stall in the round-robin. -/
def turnDist (d : Dev) (die st : Nat) : Nat := (st + 512 - mget 255 d.attn.turn die - 1) % 256

/-- Jobs of one stall start in issue order, and those of different stalls round-robin, at most 64 at once (R328). The
round goes through the die's stalls by rising number and passes over one whose next job has to wait (log 26). -/
def jobMayStart (d : Dev) (die : Nat) (j : Job) : Bool :=
  j.die == die && jobReady d j && (d.attn.jobs.filter fun x => x.die == die && x.started).length < 64 &&
    d.attn.jobs.all fun x => !(x.die == die && jobReady d x) ||
      turnDist d die (j.stall % 256) ≤ turnDist d die (x.stall % 256)

def startJob (d : Dev) (die : Nat) (j : Job) : Dev :=
  let refused := jobRefusal d die j.desc
  let keys := checkKeys d die j.desc
  let bad := (linesOf keys).any (lineBad d)
  let d := dramTouchAll d keys
  let d := { d with attn := { d.attn with turn := mput 255 d.attn.turn die (j.stall % 256) } }
  match refused with
  | some k => refuseJob d j k
  | none =>
    match seqOf d (jSeq j.desc) with
    | none => d
    | some q =>
      let l := q.list (jLayer j.desc)
      { d with attn := { d.attn with jobs := d.attn.jobs.map fun x =>
        if x.id = j.id then { x with started := true, gen := l.gen, len := l.length, memErr := bad } else x } }

def execAttnJobStart (die id : Nat) : State → Res :=
  onDerier "ATTN_JOB_START" fun d =>
    match jobOf d id with
    | none => none
    | some j => if jobMayStart d die j then some (startJob d die j) else none

/-! ### New keys and values (R292, R295, R296, R309, R310) -/

/-- Largest magnitude among the finite values. -/
def amaxOf (vs : List FVal) : Mag :=
  vs.foldl (fun a v => match v with
    | .fin _ m => if magLt a m then m else a
    | _ => a) { num := 0, den := 1 }

def isFin : FVal → Bool
  | .fin _ _ => true
  | _ => false

/-- A value over a scale, rounded to even. -/
def quot (v : FVal) (s : Mag) : Int :=
  match v with
  | .fin neg m => if neg then -(roundMag false (magDiv m s) : Int) else (roundMag false (magDiv m s) : Int)
  | _ => 0

/-- Elements that the limits change, with the inputs that are not finite. -/
def clampCount (vs : List FVal) (lo hi : Int) (s : Mag) : Nat :=
  (vs.filter fun v => !isFin v || quot v s < lo || hi < quot v s).length

/-- The INT8 scale of a head vector (R292), FP32 bits. -/
def int8Scale (headroom : Nat) (vs : List FVal) : Nat :=
  let a := amaxOf vs
  if a.num = 0 then 0x37800000
  else fround fp32 false false (.fin false { num := a.num * headroom, den := a.den * 127 })

/-- The magnitude of FP32 bits, 1 where it is none that can divide. -/
def magOf (bits : Nat) : Mag :=
  match fdecode fp32 bits with
  | .fin _ m => if m.num = 0 then { num := 1, den := 1 } else m
  | _ => { num := 1, den := 1 }

/-- Scale byte and elements of an INT4 block (R292), and its count. -/
def int4Block (vs : List FVal) : List Byte × Nat :=
  let a := amaxOf vs
  let bad := (vs.filter fun v => !isFin v).length
  if a.num = 0 then (0x7F :: List.replicate 16 0, bad)
  else
    let e : Int := max (-127) (min 127 (magLog2 a - 2))
    let s := dyad 1 e
    let qs := vs.map fun v => max (-8) (min 7 (quot v s))
    (BitVec.ofInt 8 (e + 127) :: (List.range 16).map fun k =>
      BitVec.ofInt 8 (qs.getD (2 * k) 0 % 16 + 16 * (qs.getD (2 * k + 1) 0 % 16)), clampCount vs (-8) 7 s)

/-- A head vector narrowed to the storage format: its bytes and its count. `scale` is the page's INT8 scale. -/
def narrowHead (fmt scale : Nat) (vs : List FVal) : List Byte × Nat :=
  if fmt = 0 then (vs.map fun v => BitVec.ofNat 8 (fround e4m3 false true v), (vs.filter fun v => !isFin v).length)
  else if fmt = 1 then
    let s := magOf scale
    (vs.map fun v => BitVec.ofInt 8 (max (-127) (min 127 (quot v s))), clampCount vs (-127) 127 s)
  else
    (List.range (vs.length / 32)).foldl (fun r k =>
      let b := int4Block ((vs.drop (32 * k)).take 32)
      (r.1 ++ b.1, r.2 + b.2)) ([], 0)

/-- Byte offset of the key (`v` 0) or value (`v` 1) of head h at offset t of a page (R295). -/
def headOff (q : Seq) (v h t : Nat) : Nat := v * q.tp * q.hKv * q.hb + h * q.tp * q.hb + t * q.hb

/-- Offset of a page's scale of a head in stack 2d (R296). -/
def scaleOff (page v h : Nat) : Nat := scaleTable + 128 * page + 64 * v + 4 * h

/-- One head vector of an appended position written: `src` are its BF16 bytes. The Bool gathers the uncorrectable or
poisoned reads (R316). -/
def appendHead (q : Seq) (page t : Nat) (r : Dev × Bool) (vh : Nat × Nat) (src : List Byte) : Dev × Bool :=
  let d := r.1
  let vs := (List.range q.dim).map fun i => fdecode bf16 (fieldAt src (2 * i) 2)
  let so := scaleOff page vh.1 vh.2
  let d := if q.kvFmt = 1 ∧ t = 0 then engWrite d q.die so (toLe 4 (int8Scale q.headroom vs)) else d
  let scale := if q.kvFmt = 1 then leNat (dramAt d (homeKeys q.die so 4)) else 0
  let reads := if q.kvFmt = 1 ∧ t ≠ 0 then homeKeys q.die so 4 else []
  let bad := r.2 || (linesOf reads).any (lineBad d)
  let d := dramTouchAll d reads
  let n := narrowHead q.kvFmt scale vs
  let d := engWrite d q.die (page * 0x10000 + headOff q vh.1 vh.2 t) n.1
  (if n.2 = 0 then d else bumpBy d (engineReg q.die 0x18) n.2, bad)

/-- One appended position: keys of every head, then values. -/
def appendPos (q : Seq) (es : List Entry) (g : W32) (nq : Nat) (src : List Byte) (p0 : Nat) (r : Dev × Bool) (j : Nat) :
    Dev × Bool :=
  let p := p0 + j
  let page := (((es.drop (p / q.tp)).head?).map fun e => (entryAt g e).toNat).getD 0
  ((List.range 2).flatMap fun v => (List.range q.hKv).map fun h => (v, h)).foldl (fun r vh =>
    appendHead q page (p % q.tp) r vh
      (slice src (vh.1 * nq * q.hKv * q.dim * 2 + (j * q.hKv + vh.2) * q.dim * 2) (2 * q.dim))) r

/-- The bytes of a job's append (R310), and whether a read of it failed. -/
def doAppend (d : Dev) (j : Job) (q : Seq) : Dev × Bool :=
  let b := j.desc
  let n := jNq b * 2 * q.hKv * q.dim * 2
  let src := sramRead d j.stall 0 (512 * jKvSlot b) n
  let d := sramTouch d j.stall 0 (512 * jKvSlot b) n
  let es := (q.list j.layer).entries
  (List.range (jNq b)).foldl (appendPos q es j.gen (jNq b) src (jAppendPos b)) (d, false)

/-- LENGTH after an append (R310). -/
def setLength (d : Dev) (j : Job) : Dev :=
  match seqOf d j.seq with
  | none => d
  | some q =>
    putList d j.seq j.layer { q.list j.layer with length := jAppendPos j.desc + jNq j.desc, due := true } lengthBytes

/-! ### Attending (R290, R291, R311 to R314) -/

/-- Element i of a stored head vector widened to FP32 (R290, R291). -/
def kvElem (q : Seq) (hv : List Byte) (scale i : Nat) : Nat :=
  if q.kvFmt = 0 then fround fp32 false false (fdecode e4m3 (fieldAt hv i 1))
  else if q.kvFmt = 1 then
    fround fp32 false false (vmulv (ofInt (signedOf 8 (fieldAt hv i 1))) (fdecode fp32 scale))
  else
    let s := fieldAt hv (17 * (i / 32)) 1
    let el := bitsOf (fieldAt hv (17 * (i / 32) + 1 + i % 32 / 2) 1) (4 * (i % 2) + 3) (4 * (i % 2))
    if s = 0xFF then fp32.nan
    else fround fp32 false false (vmulv (ofInt (signedOf 4 el)) (.fin false (dyad 1 ((s : Int) - 127))))

/-- A stored head vector of a position, as FP32: `v` 0 its key, 1 its value. -/
def kvHead (d : Dev) (q : Seq) (page t v h : Nat) : List Nat :=
  let hv := dramAt d (homeKeys q.die (page * 0x10000 + headOff q v h t) q.hb)
  let scale := leNat (dramAt d (homeKeys q.die (scaleOff page v h) 4))
  (List.range q.dim).map (kvElem q hv scale)

/-- A query element widened (R291). -/
def queryElem (fmt : Nat) (src : List Byte) (k : Nat) : Nat :=
  if fmt = 0 then fround fp32 false false (fdecode bf16 (fieldAt src (2 * k) 2))
  else fround fp32 false false (fdecode (if fmt = 1 then e4m3 else e5m2) (fieldAt src k 1))

/-- The exact products added in ascending order, each sum rounded once (R312). -/
def dotOf (x y : List Nat) : Nat := (x.zip y).foldl (fun a p => ffma fp32 false false p.1 p.2 a) 0

/-- Running values of R312: m, l, acc. -/
structure Soft where
  m : Nat
  l : Nat
  acc : List Nat

def negInf : Nat := 0xFF800000

def fsub32 (a b : Nat) : Nat := fadd fp32 false a (fneg fp32 b)

/-- One attended position with score s and value v. -/
def softStep (r : Soft) (s : Nat) (v : List Nat) : Soft :=
  let mn := fmax fp32 false r.m s
  let c := if r.m = negInf then 0 else fexp (fsub32 r.m mn)
  let w := fexp (fsub32 s mn)
  { m := mn, l := fadd fp32 false (fmul fp32 false r.l c) w,
    acc := (r.acc.zip v).map fun p => fadd fp32 false (fmul fp32 false p.1 c) (fmul fp32 false w p.2) }

/-- A walk's view: the job's parameters and, by entry, what it holds under the snapshot. -/
def walkEntries (q : Seq) (j : Job) : List W32 := (q.list j.layer).entries.map (entryAt j.gen)

/-- The positions a query attends (R312). -/
def attended (q : Seq) (j : Job) (qp : Nat) : List Nat :=
  let es := walkEntries q j
  let s := jKeyStart j.desc
  ((List.range (jobEnd j.desc j.len - s)).map (s + ·)).filter fun p =>
    (es.drop (p / q.tp)).head? != some evictedPage && !(jCausal j.desc && qp < p)

/-- Position of query k (R311). -/
def queryPos (b : List Byte) (k : Nat) : Nat := (if jAppend b then jAppendPos b else jQPos b) + k

/-- The scores of the attended positions of a query and head. -/
def scoresOf (d : Dev) (q : Seq) (j : Job) (qs : List Nat) (k h : Nat) : List (Nat × Nat) :=
  let es := walkEntries q j
  (attended q j (queryPos j.desc k)).map fun p =>
    let page := ((es.drop (p / q.tp)).head?.getD 0).toNat
    (p, fmul fp32 false (jScale j.desc) (dotOf qs (kvHead d q page (p % q.tp) 0 (h / (q.hQ / q.hKv)))))

/-- `attend_head` of R312, from its scores. -/
def attendHead (d : Dev) (q : Seq) (j : Job) (sc : List (Nat × Nat)) (h : Nat) : Soft :=
  let es := walkEntries q j
  sc.foldl (fun r ps =>
    let page := ((es.drop (ps.1 / q.tp)).head?.getD 0).toNat
    softStep r ps.2 (kvHead d q page (ps.1 % q.tp) 1 (h / (q.hQ / q.hKv))))
    { m := negInf, l := 0, acc := List.replicate q.dim 0 }

/-- The outputs of a head: zeros where nothing is attended. -/
def softOut (r : Soft) : List Nat := if r.l = 0 then r.acc.map fun _ => 0 else r.acc.map fun a => fdiv fp32 a r.l

/-- What one query and head gives: outputs, m, l, and its scores. -/
structure HeadResult where
  out : List Nat
  m : Nat
  l : Nat
  scores : List (Nat × Nat)

/-- Every query and head of a job, queries first. -/
def attendJob (d : Dev) (q : Seq) (j : Job) (src : List Byte) : List HeadResult :=
  (List.range (jNq j.desc)).flatMap fun k => (List.range q.hQ).map fun h =>
    let qs := (List.range q.dim).map fun i => queryElem q.qFmt src ((k * q.hQ + h) * q.dim + i)
    let sc := scoresOf d q j qs k h
    let r := attendHead d q j sc h
    { out := softOut r, m := r.m, l := r.l, scores := sc }

/-- DRAM keys that a job reads of its list's entries, its pages and its scales (R316): the keys and values of the positions
that some query attends. -/
def jobReadKeys (q : Seq) (j : Job) : List Nat :=
  let es := walkEntries q j
  let s := jKeyStart j.desc
  let ps := attended q j (queryPos j.desc (jNq j.desc - 1))
  let ns := ((List.range (jobEnd j.desc j.len - s)).map fun k => (s + k) / q.tp).eraseDups
  (ns.flatMap fun n => homeKeys q.die (listOff q j.layer + 64 + 16 * n) 16) ++
    ps.flatMap fun p =>
      let page := ((es.drop (p / q.tp)).head?.getD 0).toNat
      (List.range 2).flatMap fun v => (List.range q.hKv).flatMap fun h =>
        homeKeys q.die (page * 0x10000 + headOff q v h (p % q.tp)) q.hb ++
          if q.kvFmt = 1 then homeKeys q.die (scaleOff page v h) 4 else []

/-! ### Scores (R317) -/

/-- The mass of an entry: final softmax weights of its attended positions, over queries and heads, then the mean. R317 gives
no order for the sum: the model adds the queries in order, of each the heads, of each the positions ascending, from +0
(DESIGN CHOICE, log 26). -/
def massOf (q : Seq) (nq : Nat) (rs : List HeadResult) (n : Nat) : Nat :=
  let terms := rs.flatMap fun r => (r.scores.filter fun p => p.1 / q.tp == n).map fun p =>
    fdiv fp32 (fexp (fsub32 p.2 r.m)) r.l
  fdiv fp32 (terms.foldl (fadd fp32 false) 0) (fround fp32 false false (ofInt ((nq * q.hQ : Nat) : Int)))

/-- SCORE after a mass: DECAY × SCORE + (1 − DECAY) × μ; a NaN mass is not applied. -/
def newScore (decay : W32) (score : W32) (mu : Nat) : W32 :=
  if fdecode fp32 mu = .nan then score
  else BitVec.ofNat 32 (fadd fp32 false (fmul fp32 false decay.toNat score.toNat)
    (fmul fp32 false (fsub32 0x3F800000 decay.toNat) mu))

def updateScores (d : Dev) (j : Job) (rs : List HeadResult) : Dev :=
  match seqOf d j.seq with
  | none => d
  | some q =>
    let l := q.list j.layer
    let hit := (rs.flatMap fun r => r.scores.map fun p => p.1 / q.tp).eraseDups
    let es := l.entries.mapIdx fun n e =>
      if hit.contains n then { e with score := newScore q.decay e.score (massOf q (jNq j.desc) rs n) } else e
    putList d j.seq j.layer { l with entries := es } (scoreBytes (hit.filter (· < l.entries.length)))

/-! ### ATTN_JOB_FINISH (R315, R316, R527) -/

/-- An engine fails (R527, R540). -/
def engineFails (d : Dev) (die : Nat) : Dev :=
  let d := unitFails d 2 die 0
  let n := match watchFind d 2 die 0 with
    | some k => ((watchAt d k).map (·.fails)).getD 0
    | none => 0
  raiseEvent d 0xFFFF 4 0x1C die n

/-- The status tile of a job that was not refused. -/
def statusBytes (j : Job) (q : Seq) (status : Nat) (rs : List HeadResult) : List Byte :=
  let s := jKeyStart j.desc
  let keys := if jAttend j.desc = false then 0
    else (((List.range (jobEnd j.desc j.len - s)).map (s + ·)).filter fun p =>
      ((walkEntries q j).drop (p / q.tp)).head? != some evictedPage).length
  toLe 4 status ++ toLe 4 j.gen.toNat ++ toLe 4 (jobLen j.desc j.len) ++ toLe 4 keys ++
    rs.flatMap fun r => toLe 4 r.m ++ toLe 4 r.l

/-- Every output, m and l the canonical NaN (R316). -/
def nanResults (rs : List HeadResult) : List HeadResult :=
  rs.map fun r => { r with out := r.out.map fun _ => fp32.nan, m := fp32.nan, l := fp32.nan }

/-- The part of a job with ATTEND: its reads and its results, before NaN. -/
def jobResults (d : Dev) (j : Job) (q : Seq) : Dev × List HeadResult × Bool :=
  if jAttend j.desc = false then (d, [], false)
  else
    let n := jNq j.desc * q.hQ * q.dim * queryBytes q.qFmt
    let src := sramRead d j.stall 0 (512 * jQSlot j.desc) n
    let keys := jobReadKeys q j
    let bad := (linesOf keys).any (lineBad d)
    (dramTouchAll (sramTouch d j.stall 0 (512 * jQSlot j.desc) n) keys, attendJob d q j src, bad)

/-- The last number of the mirrored writes made from a state to a state, where one was made (R495). -/
def mirroredBy (before after : Dev) : Option Nat :=
  if before.pad.twinNext < after.pad.twinNext then some (after.pad.twinNext - 1) else none

def holdJob (d : Dev) (id : Nat) (h : JobHold) : Dev :=
  { d with attn := { d.attn with jobs := d.attn.jobs.map fun x => if x.id = id then { x with hold := some h } else x } }

/-- The last write of a job, its status tile, and its end (R315). -/
def tellJob (d : Dev) (j : Job) (tile : List Byte) : Dev := endJob (binPut d j.stall (jStatTile j.desc) 0 tile) j

/-- A job once every byte of its append has been performed: LENGTH, its attention and scores, its results (R310 to R317). -/
def attendFinish (d : Dev) (j : Job) (failed residue : Bool) : Dev :=
  match seqOf d j.seq with
  | none => endJob d j
  | some q0 =>
    let d0 := if jAppend j.desc then setLength d j else d
    let q := (seqOf d0 j.seq).getD q0
    let r := jobResults d0 j q
    let bad := j.memErr || failed || r.2.2
    let rs := if bad then nanResults r.2.1 else r.2.1
    let d1 := if jScore j.desc then updateScores r.1 j rs else r.1
    let d1 := if jAttend j.desc then
        binPut d1 j.stall (jOutTile j.desc) 0 (rs.flatMap fun h => h.out.flatMap (toLe 4)) else d1
    let d1 := if bad then bump d1 (engineReg j.die 0x30) else d1
    let d1 := if residue ∧ bad = false then engineFails (bump d1 (engineReg j.die 0x38)) j.die else d1
    let tile := statusBytes j q (if bad then 9 else if residue then 10 else 0) rs
    match mirroredBy d d1 with
    | some n => holdJob d1 j.id (.status n tile)
    | none => tellJob d1 j tile

/-- The finish of a started job: its append, and what follows when that has been performed, on the standby too where it is
mirrored (R495). -/
def finishJob (d : Dev) (j : Job) (residue : Bool) : Dev :=
  match seqOf d j.seq with
  | none => endJob d j
  | some q =>
    if jAppend j.desc then
      if (q.list j.layer).length ≠ jAppendPos j.desc then refuseJob d j 5
      else
        let a := doAppend d j q
        match mirroredBy d a.1 with
        | some n => holdJob a.1 j.id (.append n a.2 residue)
        | none => attendFinish a.1 j a.2 residue
    else attendFinish d j false residue

/-- A job goes on that waited for mirrored writes up to a number that f takes. -/
def releaseJob (f : Nat → Bool) (d : Dev) (j : Job) : Dev :=
  match j.hold with
  | some (.append n bad residue) => if f n then attendFinish d j bad residue else d
  | some (.status n tile) => if f n then tellJob d j tile else d
  | none => d

def releaseJobs (d : Dev) (f : Nat → Bool) : Dev := d.attn.jobs.foldl (releaseJob f) d

def execAttnJobFinish (die id : Nat) (residue : Bool) : State → Res :=
  onDerier "ATTN_JOB_FINISH" fun d =>
    match jobOf d id with
    | none => none
    | some j => if j.die = die ∧ j.started ∧ j.hold = none then some (finishJob d j residue) else none

end Sys2Proof.Machine
end

