-- ==== Sys2Proof/Machine/Crib.lean ====
section
/-! DEFINITION. Cribs: the crib instructions, the start of an operation, its phases and adder tree, its bin write, the
side lane, the farrier's reference reads and refits (03; 04 R154 to R156; 06 R262 to R273; 12 R515, R516). -/

namespace Sys2Proof.Machine

open Sys2Proof

/-! ### Issue -/

/-- The set bits of a crib mask, ascending. -/
def maskBits (m : Nat) : List Nat := (List.range 16).filter (bitAt m)

/-- Slot and tile of a crib instruction: with INDEXED, scalar registers are added exactly (R154). -/
def cribSlot (i : Ins) (x : Stall) : Nat :=
  bitsOf i.imm 24 16 + if bitAt i.mod 3 then (sGet x i.a).toNat else 0
def cribTile (i : Ins) (x : Stall) : Nat :=
  bitsOf i.imm 29 25 + if bitAt i.mod 3 then (sGet x i.b).toNat else 0

/-- Bins tiles are free for a new operation: earlier crib and attention writers of a tile have written, but for a run
of CRIB.MVM with ADD (R221, R222). -/
def tilesFree (d : Dev) (st : Nat) (addMvm : Bool) (tiles : Nat × Nat) : Bool :=
  ((stallOf d st).cribOps.all fun o => !overlap (opTiles o) tiles || (addMvm && o.add && !o.probe)) &&
    (jobsOf d st).all fun j => (jobTiles j.desc).all fun r => !overlap r tiles

/-- A bank number as a number. -/
def bnum (b : Bool) : Nat := if b then 1 else 0

/-- An MVM on the crib is due to be its sample: after 4,095 unsampled ones, or after 250 ms (R515). -/
def sampleDue (d : Dev) (c : Crib) : Bool :=
  d.health.probe && !d.health.healthDown && (4095 ≤ c.unsampled ||
    match c.lastSample with
    | some t => t + 250 ≤ d.host.uptimeMs
    | none => false)

/-- The vet engine counts an issued MVM on a physical crib; one that is due stays so until an eligible MVM is the sample. -/
def countMvm (st : Nat) (d : Dev) (phys : Nat) : Dev :=
  let c := cribOf d (cribKey st phys)
  setCrib d (cribKey st phys) { c with unsampled := c.unsampled + 1 }

/-- A crib operation joins the stall's list. -/
def addCribOp (d : Dev) (st : Nat) (o : CribOp) : Dev :=
  { (modStall d st fun y => { y with cribOps := y.cribOps ++ [{ o with id := d.nextId }] }) with nextId := d.nextId + 1 }

/-- CRIB.MVM at issue (R154): the checks in their order, then the operation under the held epoch and the active
corrections (R90). -/
def cribMvmIssue (st : Nat) (i : Ins) (x : Stall) (d : Dev) : Issue :=
  let n := cribSlot i x
  let t := cribTile i x
  let cs := maskBits (bitsOf i.imm 15 0)
  let k := cs.length
  let tall := bitAt i.mod 2
  let add := bitAt i.mod 0
  if k = 0 then .go d none
  else if 383 < n + (if tall then 2 * k - 1 else 1) then .fault 0x06 (max n 384 % 2 ^ 32)
  else if 31 < t + (if tall then 0 else k - 1) then .fault 0x07 (max t 32 % 2 ^ 32)
  else
    match cs.find? fun c => mget none x.sel c == none with
    | some c => .fault 0x08 c
    | none =>
      if tilesFree d st add (t, if tall then 1 else k) = false then .wait .scoreboard
      else
        let ph := cs.map (physOf d st)
        let bs := cs.map fun c => bnum ((mget none x.sel c).getD false)
        let o : CribOp :=
          { id := 0, probe := false, cribs := ph, banks := bs, add := add, clip := bitAt i.mod 1, tall := tall,
            slot := n, tile := t, reps := 2 ^ bitsOf i.imm 31 30, epoch := x.epoch,
            corrs := (ph.zip bs).map fun p => (bankOf d (bankKey st p.1 p.2)).corr, ref := refOf d st,
            started := false, inputs := [], seed := 0, fetches := [],
            sampled := ph.filter fun c => sampleDue d (cribOf d (cribKey st c)) }
        .go (addCribOp (ph.foldl (countMvm st) d) st o) none

/-- CRIB.BANK (R88, R155). -/
def cribBankIssue (st : Nat) (i : Ins) (x : Stall) (d : Dev) : Issue :=
  let b := bitAt i.mod 0
  let cs := maskBits (bitsOf i.imm 15 0)
  match cs.find? fun c => !liveIn d x.epoch st c (bnum b) with
  | some c => .fault 0x09 c
  | none => .go (modStall d st fun y => { y with sel := cs.foldl (fun m c => mput none m c (some b)) y.sel }) none

/-- CRIB.PROBE (R125, R126, R156). -/
def cribProbeIssue (st : Nat) (i : Ins) (x : Stall) (d : Dev) : Issue :=
  let n := bitsOf i.imm 24 16
  let t := bitsOf i.imm 29 25
  let c := bitsOf i.imm 3 0
  let b := bitsOf i.mod 0 0
  let ph := physOf d st c
  let bk := bankOf d (bankKey st ph b)
  if 382 < n then .fault 0x06 (max n 384)
  else if 30 < t then .fault 0x07 (max t 32)
  else if bk.state ≠ .live ∧ bk.state ≠ .ready then .fault 0x0A (2 * c + b)
  else if tilesFree d st false (t, 2) = false then .wait .scoreboard
  else
    .go (addCribOp d st
      { id := 0, probe := true, cribs := [ph], banks := [b], add := false, clip := false, tall := false, slot := n,
        tile := t, reps := 1, epoch := x.epoch, corrs := [bk.corr], ref := refOf d st, started := false, inputs := [], seed := 0,
        fetches := [], sampled := [] }) none

def execCribMvm (st : Nat) : State → Res := issue "CRIB_MVM" 0x10 formCribMvm st (cribMvmIssue st)
def execCribBank (st : Nat) : State → Res := issue "CRIB_BANK" 0x11 formCribBank st (cribBankIssue st)
def execCribProbe (st : Nat) : State → Res := issue "CRIB_PROBE" 0x12 formCribProbe st (cribProbeIssue st)

/-! ### Slices and phases (R76 to R83, R96, R99, R119) -/

/-- The high slice of a W8 weight (R83). -/
def hiSlice (w : Int) : Int := (2 * w + 15) / 30

/-- The slice a data column of an output is meant to hold (R82). -/
def sliceOf (fmt : Nat) (w : Int) (odd : Bool) : Int :=
  if fmt = 0 then (if odd then w - 15 * hiSlice w else hiSlice w) else if odd then 0 else w

/-- The value of a reference column's slices (R119). -/
def refSlice (c : Nat) : Int := if c < 15 then (c : Int) - 7 else if 15 < c ∧ c < 31 then (c : Int) - 23 else 0

/-- The stored weight of a row and output in the cells. -/
def cellWeight (b : Bank) (row out : Nat) : Int := signedOf 8 (mget 0 b.image (1024 * row + out)).toNat

/-- The levels of the positive and the negative cell of a pair that holds a data slice (R79). -/
def dataLevels (v : Int) : Nat × Nat := (v.toNat, (-v).toNat)

/-- The levels of a reference column's pairs (R119): columns 0 to 15 in the form of R79, columns 16 to 31 at high levels. -/
def refLevels (c : Nat) : Nat × Nat :=
  if c < 16 then dataLevels (refSlice c) else ((7 + min (refSlice c) 0).toNat, (7 - max (refSlice c) 0).toNat)

/-- The levels of the device pair at a row and column of a bank: data columns from the image (R79, R82), reference columns
as programmed (R119). -/
def cellLevels (b : Bank) (row col : Nat) : Nat × Nat :=
  if col < 2048 then dataLevels (sliceOf b.format (cellWeight b row (col / 2)) (col % 2 == 1))
  else b.refs.getD (col - 2048) (0, 0)

/-- The slice value of a pair: the positive cell's level minus the negative cell's. -/
def pairSlice (p : Nat × Nat) : Int := (p.1 : Int) - p.2

/-- What the cells of a column hold, a weak slice its intended value less its δ (R80, R265). -/
def cellSlice (b : Bank) (row col : Nat) : Int :=
  pairSlice (cellLevels b row col) - ((b.weak.find? fun e => e.row == row && e.col == col).map (·.delta)).getD 0

/-- The nibble of an input in a phase: 0 the high phase, 1 the low phase (R96). -/
def nibble (p : Nat) (x : Int) : Int := if p = 0 then x / 16 else x % 16

/-- The charge of rows lo to lo + n − 1 on a column in a phase (R76). -/
def charge (b : Bank) (xs : List Int) (p lo n col : Nat) : Int :=
  ((List.range n).map fun k => nibble p (xs.getD (lo + k) 0) * cellSlice b (lo + k) col).sum

/-- What one crib converts: its bank, its place in the operation, its corrections, its converter-reference word, its inputs
after zeroing, the repeats and the draw. -/
structure Conv where
  bank : Bank
  place : Nat
  corr : Corr
  ref : Nat
  xs : List Int
  reps : Nat
  clip : Bool
  seed : Nat

/-- The number of a conversion within its operation: crib, group, phase, column, read, sub-pass (0 the full pass). -/
def convertIndex (place g p col n m : Nat) : Nat := ((((place * 16 + g) * 2 + p) * 2080 + col) * 4 + n) * 9 + m

/-- One converter code: free, within its range (R76, R118); a sub-pass never clips (R105). Log 5. -/
def codeOf (c : Conv) (g p col n m : Nat) : Int :=
  let q := charge c.bank c.xs p (64 * g + if m = 0 then 0 else 8 * (m - 1)) (if m = 0 then 64 else 8) col
  let top : Int := if m = 0 then 1023 else 1022
  max (-top) (min top (Config.convert c.seed (convertIndex c.place g p col n m) c.ref q))

/-- A group skips a phase (R102). -/
def skips (c : Conv) (g p : Nat) : Bool := (List.range 64).all fun k => nibble p (c.xs.getD (64 * g + k) 0) == 0

/-- The data columns that are converted (R82). -/
def dataCols (fmt : Nat) : List Nat := (List.range 2048).filter fun k => fmt == 0 || k % 2 == 0

/-- A data column of the group clipped in a read of the phase. -/
def clipped (c : Conv) (g p : Nat) : Bool :=
  !skips c g p && (dataCols c.bank.format).any fun k =>
    (List.range c.reps).any fun n => codeOf c g p k n 0 == 1023 || codeOf c g p k n 0 == -1023

/-- The group runs a split pass in the phase (R104). -/
def splits (c : Conv) (g p : Nat) : Bool := !c.clip && clipped c g p

/-- The sum of the corrected reads of a column, times 32,768 (R98, R99). -/
def readSum (c : Conv) (g p col : Nat) : Int :=
  if skips c g p then 0
  else
    let off := mget 0 c.corr.off (2080 * g + col)
    let gain : Int := (mget 0x8000 c.corr.gain col : Nat)
    let ms := if splits c g p then (List.range 8).map (· + 1) else [0]
    ((List.range c.reps).flatMap fun n => ms.map fun m => (codeOf c g p col n m - off) * gain).sum

/-- An adder-tree output (R99). -/
def treeOut (c : Conv) (j : Nat) : Int :=
  let y := ((List.range 16).map fun g =>
    if c.bank.format = 0 then
      240 * readSum c g 0 (2 * j) + 16 * readSum c g 0 (2 * j + 1) + 15 * readSum c g 1 (2 * j) +
        readSum c g 1 (2 * j + 1)
    else 16 * readSum c g 0 (2 * j) + readSum c g 1 (2 * j)).sum
  roundEven y (32768 * c.reps)

/-- A reference-column output of a probe (R125). -/
def refOut (c : Conv) (k : Nat) : Int :=
  roundEven (((List.range 16).map fun g => 16 * readSum c g 0 (2048 + k) + readSum c g 1 (2048 + k)).sum)
    (32768 * c.reps)

/-- Whether any group of a phase satisfies a test. -/
def anyGroup (f : Nat → Bool) : Bool := (List.range 16).any f

/-- What a converted phase gives of a reference column (R120): its codes' sum against what the slices and nibbles make of
it; none when the group skips or a code is clipped, which the farrier discards (R101). -/
def refTerm (now : Nat) (c : Conv) (g p k : Nat) : Option RefTerm :=
  let ms := if splits c g p then (List.range 8).map (· + 1) else [0]
  let codes := (List.range c.reps).flatMap fun n => ms.map fun m => codeOf c g p (2048 + k) n m
  if skips c g p ∨ codes.any (fun q => q == 1023 || q == -1023) then none
  else some { time := now, group := g, col := k, sum := codes.sum, convs := codes.length, reads := c.reps,
              want := refSlice k * ((List.range 64).map fun i => nibble p (c.xs.getD (64 * g + i) 0)).sum }

/-- The reference codes of an MVM: 16 groups, two phases, 32 columns. -/
def refTerms (now : Nat) (c : Conv) : List RefTerm :=
  (List.range 16).flatMap fun g => (List.range 2).flatMap fun p => (List.range 32).filterMap (refTerm now c g p)

/-- The reference codes of a conversion go to the farrier (R120), who keeps those of the last 250 ms (R521). -/
def seeRefs (c : Conv) (d : Dev) (key : Nat) : Dev :=
  modBank d key fun b =>
    { b with refSeen := (b.refSeen.filter fun t => d.host.uptimeMs ≤ t.time + 250) ++ refTerms d.host.uptimeMs c }

/-- The farrier's latest fit for a bank (R521): the one that waits for an epoch, the pending set, or the active one. -/
def latestFit (b : Bank) : Corr := b.fit.getD (b.pend.getD b.corr)

/-- A reference column lies within 2 converter units of the bank's latest fit in a term (R521). -/
def termNear (b : Bank) (t : RefTerm) : Bool :=
  let off := mget 0 (latestFit b).off (2080 * t.group + 2048 + t.col)
  let gain : Int := (mget 0x8000 (latestFit b).gain (2048 + t.col) : Nat)
  ((t.sum - t.convs * off) * gain - t.want * t.reads * 32768).natAbs ≤ 2 * t.reads * 32768

/-- The converting time of a crib in ns (R106, R109). -/
def convTime (c : Conv) : Nat :=
  c.reps * ((List.range 2).map fun p =>
    if anyGroup fun g => !skips c g p then (if anyGroup fun g => splits c g p then 2304 else 256) else 0).sum

/-! ### Inputs and the side lane (R92, R95, R262 to R273) -/

/-- An input is an outlier of the threshold. -/
def outlier (t : Nat) (x : Int) : Bool := t < x.natAbs

/-- The inputs after outlier zeroing; a probe zeroes none (R268). -/
def zeroed (o : CribOp) (t : Nat) (xs : List Int) : List Int :=
  if o.probe then xs else xs.map fun x => if outlier t x then 0 else x

/-- What each crib of a started operation converts. -/
def convAt (d : Dev) (st : Nat) (o : CribOp) (k : Nat) : Conv :=
  { bank := bankOf d (bankKey st (o.cribs.getD k 0) (o.banks.getD k 0)), place := k,
    corr := o.corrs.getD k { off := [], gain := [] }, ref := o.ref,
    xs := zeroed o (stallOf d st).thresh.toNat (o.inputs.getD k []), reps := o.reps, clip := o.clip, seed := o.seed }

/-- The first trough slot that a crib of the operation reads (R92). -/
def inputSlot (o : CribOp) (k : Nat) : Nat := if o.tall then o.slot + 2 * k else o.slot

/-- The crib-bank's number on its die, and DRAM keys of its image and weak list (R336). -/
def dieBank (st phys b : Nat) : Nat := 2 * (17 * (st % 256) + phys) + b
def imageKeys (st phys b off n : Nat) : List Nat := homeKeys (st / 256) (imageBase (dieBank st phys b) + off) n
def weakKeys (st phys b n : Nat) : List Nat := homeKeys (st / 256) (weakBase (dieBank st phys b) + 1024) (4 * n)

/-- The manger line that pins a row of a crib's bank (R270). -/
def pinOf (x : Stall) (crib b row : Nat) : Option Nat :=
  (x.pins.findSome? fun p => match p.2 with
    | some e => if e.crib = crib ∧ e.bank = b ∧ e.row = row then some e.line else none
    | none => none)

/-- The crib index a physical crib serves, as pins and events name it: of a spare, the one it has or is programmed for (R541). -/
def servedIndex (x : Stall) (phys : Nat) : Nat :=
  if phys = 16 then (match x.spareIndex with
    | some c => c
    | none => x.pendingSpare.getD 16) else phys

/-- Rows of a crib whose input is an outlier. -/
def outlierRows (t : Nat) (xs : List Int) : List Nat := (List.range 1024).filter fun r => outlier t (xs.getD r 0)

/-- The MVM's input has a non-zero element after outlier zeroing (R272). -/
def anyInput (d : Dev) (st : Nat) (o : CribOp) : Bool :=
  (List.range o.cribs.length).any fun k =>
    (zeroed o (stallOf d st).thresh.toNat (o.inputs.getD k [])).any (· != 0)

/-- The DRAM reads of one crib of an MVM: unpinned outlier rows, and the weak list beyond the side store, which is read
for each crib of an MVM whose input has any non-zero element (R272). In the TALL shape the input is that of all its
cribs: DEDUCED, log 50. -/
def fetchesOf (d : Dev) (st : Nat) (o : CribOp) (k : Nat) : List (Nat × Nat) :=
  let x := stallOf d st
  let xs := o.inputs.getD k []
  let b := o.banks.getD k 0
  let rows := (outlierRows x.thresh.toNat xs).filter fun r =>
    pinOf x (servedIndex x (o.cribs.getD k 0)) b r == none
  rows.map (fun r => (k, r)) ++
    if anyInput d st o && 256 < (bankOf d (bankKey st (o.cribs.getD k 0) b)).weak.length then [(k, 1024)] else []

/-- A weak-slice entry of 4 bytes (R265). -/
def weakOfWord (v : Nat) : WeakEntry := { row := bitsOf v 9 0, col := bitsOf v 20 10, delta := signedOf 5 (bitsOf v 25 21) }

/-- Where the side store holds a bank's entries (R269). -/
def sideBase (phys b : Nat) : Nat := 1024 * (2 * phys + b)

/-- A weak entry as its 4 bytes (R265). -/
def weakBytes (w : WeakEntry) : List Byte := toLe 4 (w.row + 2 ^ 10 * w.col + 2 ^ 21 * (w.delta % 32).toNat)

/-- The first 256 entries of a bank's weak list written to the side store, with their check bits (R269, R271). -/
def loadSide (d : Dev) (st phys b : Nat) (ws : List WeakEntry) : Dev :=
  let base := sideBase phys b
  modStall d st fun x =>
    { x with side := mputs 0 (x.side.filter fun p => p.1 < base || base + 1024 ≤ p.1) base ((ws.take 256).flatMap weakBytes)
             sideErr := x.sideErr.filter fun p => p.1 < base || base + 1024 ≤ p.1 }

/-- The weak entries the side lane serves: the side store's, then those of the list in DRAM (R269). -/
def sideEntries (d : Dev) (st phys b : Nat) : List WeakEntry :=
  let bk := bankOf d (bankKey st phys b)
  let n := bk.weak.length - 256
  ((List.range (min 256 bk.weak.length)).map fun j =>
    weakOfWord (leNat (mbytes (stallOf d st).side (sideBase phys b + 4 * j) 4))) ++
    (List.range n).map fun j => weakOfWord (fieldAt (dramAt d (weakKeys st phys b n)) (4 * j) 4)

/-- The 1,024 intended weights of an outlier row (R269). -/
def rowWeights (d : Dev) (st phys b row : Nat) : List Byte :=
  match pinOf (stallOf d st) (servedIndex (stallOf d st) phys) b row with
  | some line => sramRead d st 2 (1024 * line) 1024
  | none => dramAt d (imageKeys st phys b (1024 * row) 1024)

/-- The exact side-lane sum of a crib for an output (R263, R264). -/
def sideSum (d : Dev) (st : Nat) (o : CribOp) (k j : Nat) : Int :=
  let t := (stallOf d st).thresh.toNat
  let xs := o.inputs.getD k []
  let phys := o.cribs.getD k 0
  let b := o.banks.getD k 0
  let fmt := (bankOf d (bankKey st phys b)).format
  let rows := ((outlierRows t xs).map fun r =>
    xs.getD r 0 * signedOf 8 (fieldAt (rowWeights d st phys b r) j 1)).sum
  let weak := (((sideEntries d st phys b).filter fun e => e.col / 2 == j).map fun e =>
    (zeroed o t xs).getD e.row 0 * e.delta * (if fmt = 0 ∧ e.col % 2 = 0 then 15 else 1)).sum
  rows + weak

/-! ### CRIB_START (R92, R95, R110, R577) -/

/-- The stall's crib operation with an id. -/
def cribOpOf (d : Dev) (st id : Nat) : Option CribOp := (stallOf d st).cribOps.find? (·.id == id)

def setCribOp (d : Dev) (st : Nat) (o : CribOp) : Dev :=
  modStall d st fun x => { x with cribOps := x.cribOps.map fun p => if p.id = o.id then o else p }

/-- Every earlier operation on the operation's cribs has started (R110). -/
def cribsFree (d : Dev) (st : Nat) (o : CribOp) : Bool :=
  (stallOf d st).cribOps.all fun p => p.id ≥ o.id || p.started || !(p.cribs.any o.cribs.contains)

/-- The credit of a crib at the 8 ns period `tick` of the current window, in which the duty D is the one in force (R577). -/
def creditAfter (d : Dev) (key tick : Nat) : Int :=
  min 147456 ((cribOf d key).credit + (tick - (cribOf d key).tick : Nat) * d.sense.duty)

/-- At the period `tick` a crib's credit falls by a converting time of some ns. -/
def charge32 (tick ns : Nat) (d : Dev) (key : Nat) : Dev :=
  setCrib d key { cribOf d key with credit := creditAfter d key tick - 32 * ns, tick := max tick (cribOf d key).tick }

/-- The 8 ns periods of a sense window of 10 ms (R560). -/
def windowTicks : Nat := 1250000

/-- A window ends: every credit has risen at the window's duty up to its end, before a new duty takes hold. -/
def endCredits (d : Dev) : Dev :=
  let up (p : Nat × Crib) : Nat × Crib := (p.1, { p.2 with credit := creditAfter d p.1 windowTicks, tick := 0 })
  { d with cribs := (d.cribs.map up).filter fun p => p.2 != Crib.reset }

/-- The front end reads the inputs. -/
def readInputs (d : Dev) (st : Nat) (o : CribOp) : List (List Int) :=
  (List.range o.cribs.length).map fun k =>
    (sramRead d st 0 (512 * inputSlot o k) 1024).map fun b => b.toInt

/-- The slots touched by the front end, in WIDE once for all cribs. -/
def touchInputs (d : Dev) (st : Nat) (o : CribOp) : Dev :=
  ((List.range (if o.tall then o.cribs.length else 1)).map (inputSlot o)).foldl
    (fun d n => sramTouch d st 0 (512 * n) 1024) d

/-- An MVM that has started may be a crib's sample (R515, R520): its input is not all zero after outlier zeroing, no phase of
it clipped under the CLIP policy, and the bank's image is present. -/
def eligible (d : Dev) (st : Nat) (o : CribOp) (k : Nat) : Bool :=
  !((convAt d st o k).xs.all (· == 0)) && (convAt d st o k).bank.imagePresent &&
    !(o.clip && (List.range o.cribs.length).any fun n =>
      (List.range 2).any fun p => anyGroup fun g => clipped (convAt d st o n) g p)

/-- An MVM is a crib's sample: those issued on it since are the next unsampled ones, none of them due. -/
def takeSample (st id phys : Nat) (d : Dev) : Dev :=
  let follows (o : CribOp) : Bool := id < o.id && !o.probe && o.cribs.contains phys
  let n := ((stallOf d st).cribOps.filter follows).length
  let d := setCrib d (cribKey st phys)
    { cribOf d (cribKey st phys) with unsampled := n, lastSample := some d.host.uptimeMs }
  let unmark (o : CribOp) : CribOp := if follows o then { o with sampled := o.sampled.filter (· != phys) } else o
  modStall d st fun x => { x with cribOps := x.cribOps.map unmark }

/-- A started MVM that is due: the cribs of which it is the sample, the first eligible one after it being the sample of the
others (R515). -/
def settleSamples (st : Nat) (o : CribOp) (d : Dev) : Dev :=
  let mine := (List.range o.cribs.length).filter fun k => o.sampled.contains (o.cribs.getD k 0) && eligible d st o k
  let d := setCribOp d st { o with sampled := mine.map fun k => o.cribs.getD k 0 }
  mine.foldl (fun d k => takeSample st o.id (o.cribs.getD k 0) d) d

/-- CRIB_START, at the 8 ns period `tick` of the current sense window. -/
def execCribStart (st op tick : Nat) : State → Res :=
  onDev "CRIB_START" fun d =>
    match cribOpOf d st op with
    | none => none
    | some o =>
      let o := { o with started := true, inputs := readInputs d st o, seed := d.draws }
      let ks := List.range o.cribs.length
      let idle := ks.all fun k => (convAt d st o k).xs.all (· == 0)
      let rich := o.cribs.all fun c => 0 ≤ creditAfter d (cribKey st c) tick
      if (cribOpOf d st op).any (·.started) ∨ cribsFree d st o = false ∨ (idle = false ∧ rich = false) then none
      else
        let o := if o.probe then o else { o with fetches := ks.flatMap (fetchesOf d st o) }
        let outs := if o.probe then 0 else
          (ks.map fun k => (outlierRows (stallOf d st).thresh.toNat (o.inputs.getD k [])).length).sum
        let d' := touchInputs d st o
        let d' := settleSamples st o d'
        let d' := ks.foldl (fun e k => charge32 tick (convTime (convAt d st o k)) e (cribKey st (o.cribs.getD k 0))) d'
        let d' := if outs = 0 then d' else bumpBy d' (stallReg st 0x88) outs
        some (if o.fetches = [] then d' else bumpBy d' (stallReg st 0x90) o.fetches.length)

/-- The side-lane work of every earlier MVM of the stall has ended, so the operation's own work may begin (R273): the lane
serves MVMs in issue order. -/
def sideTurn (d : Dev) (st : Nat) (o : CribOp) : Bool :=
  (stallOf d st).cribOps.all fun p => p.id ≥ o.id || p.probe || (p.started && p.fetches == [])

/-- SIDE_FETCH_RETURN (R272, R273): one of the reads returns; they are issued when the operation's work begins. -/
def execSideFetchReturn (st op which : Nat) : State → Res :=
  onDev "SIDE_FETCH_RETURN" fun d =>
    match cribOpOf d st op with
    | none => none
    | some o =>
      match (o.fetches.drop which).head? with
      | none => none
      | some (k, row) =>
        if sideTurn d st o = false then none else
        let phys := o.cribs.getD k 0
        let b := o.banks.getD k 0
        let keys := if row = 1024 then
            weakKeys st phys b ((bankOf d (bankKey st phys b)).weak.length - 256)
          else imageKeys st phys b (1024 * row) 1024
        some (setCribOp (dramTouchAll d keys) st { o with fetches := o.fetches.eraseIdx which })

/-! ### CRIB_BIN_WRITE (R93, R94, R99, R103, R108, R125, R222, R266, R273) -/

/-- The operation has side-lane work (R272): an outlier row, a side-store entry with a non-zero input, or a part of a weak
list in DRAM, which is read and examined whatever its rows' inputs are. -/
def hasSideWork (d : Dev) (st : Nat) (o : CribOp) : Bool :=
  !o.probe && (List.range o.cribs.length).any fun k =>
    (outlierRows (stallOf d st).thresh.toNat (o.inputs.getD k [])) != [] ||
      (anyInput d st o && 256 < (convAt d st o k).bank.weak.length) ||
      ((sideEntries d st (o.cribs.getD k 0) (o.banks.getD k 0)).take 256).any fun e =>
        (convAt d st o k).xs.getD e.row 0 != 0

/-- The delivered outputs of one crib: tree plus side lane (R266). -/
def cribOuts (d : Dev) (st : Nat) (o : CribOp) (k : Nat) : List W32 :=
  (List.range 1024).map fun j =>
    let y := sat32 (treeOut (convAt d st o k) j)
    if o.probe then y else satAddI y (sat32 (sideSum d st o k j))

/-- Exact sums of cribs' outputs, element by element (R93). -/
def tallSum (ls : List (List W32)) : List W32 :=
  (List.range 1024).map fun j => BitVec.ofInt 32 ((ls.map fun l => (l.getD j 0).toInt).sum)

/-- One tile's worth of outputs written with SET or ADD (R94). -/
def writeTile (st : Nat) (add : Bool) (d : Dev) (tile : Nat) (outs : List W32) : Dev :=
  if add then
    let old := sramRead d st 1 (4096 * tile) 4096
    let d := sramTouch d st 1 (4096 * tile) 4096
    sramWrite d st 1 (4096 * tile) ((List.range 1024).flatMap fun j =>
      toLe 4 (satAddI (BitVec.ofNat 32 (fieldAt old (4 * j) 4)) (outs.getD j 0)).toNat)
  else sramWrite d st 1 (4096 * tile) (outs.flatMap fun v => toLe 4 v.toNat)

/-- Crib-phases of an operation that satisfy a test. -/
def phaseCount (d : Dev) (st : Nat) (o : CribOp) (f : Conv → Nat → Bool) : Nat :=
  ((List.range o.cribs.length).flatMap fun k => (List.range 2).filter (f (convAt d st o k))).length

/-- The vet engine keeps a sample (R516). -/
def keepSample (st : Nat) (o : CribOp) (d : Dev) (k : Nat) : Dev :=
  let c := convAt d st o k
  let phys := o.cribs.getD k 0
  if o.sampled.contains phys = false then d
  else
    let cr := cribOf d (cribKey st phys)
    let d := setCrib d (cribKey st phys) { cr with samples := cr.samples + 1 }
    { d with health := { d.health with samples := d.health.samples ++
      [{ stall := st, crib := phys, bank := o.banks.getD k 0, number := cr.samples, inputs := c.xs,
         outs := (List.range 1024).map (treeOut c), reps := o.reps,
         splits := (List.range 16).flatMap fun g => ((List.range 2).filter (splits c g)).map fun p => (g, p) }] } }

/-- Manger rows that the side lane reads. -/
def touchPins (st : Nat) (o : CribOp) (d : Dev) (k : Nat) : Dev :=
  let x := stallOf d st
  ((outlierRows x.thresh.toNat (o.inputs.getD k [])).filterMap
    (pinOf x (servedIndex x (o.cribs.getD k 0)) (o.banks.getD k 0))).foldl
    (fun d line => sramTouch d st 2 (1024 * line) 1024) d

/-- The side lane reads the side store for an MVM with an input that is not zero: a byte there that cannot be corrected is
found (R271, R511). -/
def touchSide (st : Nat) (o : CribOp) (d : Dev) (k : Nat) : Dev :=
  let b := o.banks.getD k 0
  let phys := o.cribs.getD k 0
  let n := 4 * min 256 (bankOf d (bankKey st phys b)).weak.length
  let bad (j : Nat) : Bool := mget none (stallOf d st).sideErr (sideBase phys b + j) == some .uncorrectable
  if anyInput d st o && (List.range n).any bad then storeUe d st else d

/-- The adder tree reads a bank's active corrections: a value there that cannot be corrected is found (R509, R511). -/
def touchCorr (st : Nat) (d : Dev) (key : Nat) : Dev := if (bankOf d key).corrUe then storeUe d st else d

/-- The tiles a crib operation writes, each with its outputs. -/
def opWrites (d : Dev) (st : Nat) (o : CribOp) : List (Nat × List W32) :=
  let outs := (List.range o.cribs.length).map (cribOuts d st o)
  if o.tall then [(o.tile, tallSum outs)] else (List.range outs.length).map fun k => (o.tile + k, outs.getD k [])

/-- What an operation does beside its outputs: its counters, the samples it gives, and its reference codes, which go to the
farrier. `waited` are the cycles its write waited for the side lane; `d` is the state it ran in. -/
def mvmCounts (d : Dev) (st : Nat) (o : CribOp) (waited : Nat) (e : Dev) : Dev :=
  let nSplit := phaseCount d st o fun c p => anyGroup fun g => splits c g p
  let nClip := phaseCount d st o fun c p => c.clip && anyGroup fun g => clipped c g p
  let nSkip := phaseCount d st o fun c p => (List.range 16).all fun g => skips c g p
  let e := if nSplit = 0 then e else bumpBy e (stallReg st 0x30) nSplit
  let e := if nClip = 0 then e else bumpBy e (stallReg st 0x38) nClip
  let e := if nSkip = 0 then e else bumpBy e (stallReg st 0x40) nSkip
  let e := if waited = 0 then e else bumpBy e (stallReg st 0x98) waited
  let e := (List.range o.cribs.length).foldl (keepSample st o) e
  (List.range o.cribs.length).foldl (fun e k =>
    seeRefs (convAt d st o k) e (bankKey st (o.cribs.getD k 0) (o.banks.getD k 0))) e

/-- The bin write of an operation. -/
def binWrite (d : Dev) (st : Nat) (o : CribOp) (waited : Nat) : Dev :=
  let ws := opWrites d st o
  let refs := (List.range 32).flatMap fun k => toLe 4 (BitVec.ofInt 32 (refOut (convAt d st o 0) k)).toNat
  let ks := List.range o.cribs.length
  let e := if o.probe then d else ks.foldl (touchSide st o) (ks.foldl (touchPins st o) d)
  let e := ks.foldl (fun e k => touchCorr st e (bankKey st (o.cribs.getD k 0) (o.banks.getD k 0))) e
  let e := ws.foldl (fun e w => writeTile st o.add e w.1 w.2) e
  let e := if o.probe then sramWrite e st 1 (4096 * (o.tile + 1)) refs else e
  let e := mvmCounts d st o waited e
  modStall e st fun x => { x with cribOps := x.cribOps.filter fun p => p.id != o.id }

/-- An operation's side-lane work has ended; one without side-lane work waits for nothing on the side lane (R273). -/
def sideReady (d : Dev) (st : Nat) (o : CribOp) : Bool := !hasSideWork d st o || (o.fetches == [] && sideTurn d st o)

def execCribBinWrite (st op waited : Nat) : State → Res :=
  onDev "CRIB_BIN_WRITE" fun d =>
    match cribOpOf d st op with
    | none => none
    | some o =>
      if o.started ∧ sideReady d st o ∧ (waited = 0 ∨ hasSideWork d st o) then some (binWrite d st o waited) else none

/-! ### The farrier (R121 to R124, R519, R570) -/

/-- A crib has an operation issued and not written. -/
def cribInUse (d : Dev) (st phys : Nat) : Bool := (stallOf d st).cribOps.any fun o => o.cribs.contains phys

/-- What the farrier drives in a reference read: the manual does not say, so the inputs are free (log 30). -/
def farrierInputs (draw : Nat) : List Int :=
  (List.range 1024).map fun i => (Config.freeNat draw i % 256 : Nat) - 128

/-- The reference read of a bank (R121): its codes go to the farrier (R120). -/
def readReference (st crib b : Nat) (d : Dev) : Dev :=
  let bk := bankOf d (bankKey st crib b)
  seeRefs { bank := bk, place := 0, corr := bk.corr, ref := refOf d st, xs := farrierInputs d.draws, reps := 1, clip := false,
            seed := d.draws } d (bankKey st crib b)

/-- A REFIT is in progress: its command has not ended (R571). -/
def refitOn (d : Dev) : Bool := d.sense.refits.any fun r => d.host.cmds.any fun c => c.cid == r.1

/-- REFERENCE_READ (R121, R572, R577), `tick` as for CRIB_START: 512 ns of converting time on a Live bank of a crib with
no MVM; during a REFIT also on a Ready one. -/
def execReferenceRead (st crib bank tick : Nat) : State → Res :=
  onDev "REFERENCE_READ" fun d =>
    let x := (bankOf d (bankKey st crib bank)).state
    if st < stallCount ∧ crib < 17 ∧ bank < 2 ∧ (x = .live ∨ (x = .ready ∧ refitOn d)) ∧
        cribInUse d st crib = false ∧ 0 ≤ creditAfter d (cribKey st crib) tick then
      some (readReference st crib bank (charge32 tick 512 d (cribKey st crib)))
    else none

/-- Corrections within the limits of R123. -/
def corrOk (c : Corr) : Bool :=
  (c.gain.all fun p => 0x7800 ≤ p.2 && p.2 ≤ 0xA000) && c.off.all fun p => -64 ≤ p.2 && p.2 ≤ 64

end Sys2Proof.Machine
end

