-- ==== Sys2Proof/Machine/Falcon.lean ====
section
/-! DEFINITION. Verification of Falcon-1024 signatures in the compressed format of the Falcon specification (R370, R462):
n = 1,024, q = 12,289. A byte string's bits run from bit 7 of its first byte. -/

namespace Sys2Proof.Machine

open Sys2Proof

def falconQ : Nat := 12289

/-- The header byte of a Falcon-1024 public key, and of a signature in the compressed format. -/
def falconKeyHeader : Nat := 0x0A
def falconSigHeader : Nat := 0x3A

/-- The squared bound on the length of a signature vector. -/
def falconBound : Nat := 70265242

/-- The bits of bytes, most significant first. -/
def bitsOfBytes (bs : List Byte) : List Bool := bs.flatMap fun b => (List.range 8).map fun k => b.getLsbD (7 - k)

/-- The number that bits give, most significant first. -/
def natOfBits (l : List Bool) : Nat := l.foldl (fun a b => 2 * a + if b then 1 else 0) 0

/-- Coefficients of 14 bits each. -/
def coeffs14 : Nat → List Bool → List Nat
  | 0, _ => []
  | n + 1, l => natOfBits (l.take 14) :: coeffs14 n (l.drop 14)

/-- The polynomial h of a public key of 1,793 bytes. -/
def falconKey (bs : List Byte) : Option (List Nat) :=
  let h := coeffs14 1024 (bitsOfBytes (bs.drop 1))
  if bs.length = 1793 ∧ fieldAt bs 0 1 = falconKeyHeader ∧ h.all (· < falconQ) then some h else none

/-- Hash to point: n coefficients from pairs of bytes, those at or above 5q passed over. -/
def pointOf : Nat → Nat → List Byte → List Nat
  | 0, _, _ => []
  | _, 0, _ => []
  | _, _, [] => []
  | _, _, [_] => []
  | fuel + 1, n + 1, x :: y :: bs =>
    let t := 256 * x.toNat + y.toNat
    if t < 5 * falconQ then t % falconQ :: pointOf fuel n bs else pointOf fuel (n + 1) bs

/-- The point of a salt and a message. 2,048 candidates are drawn, of which 1,024 pass but for a chance below 2⁻⁵⁰⁰. -/
def hashToPoint (salt msg : List Byte) : List Nat := pointOf 2048 1024 (shakeBytes (salt ++ msg) 4096)

/-- The unary part of a compressed coefficient: zeros up to the first one, and the bits after it. -/
def unaryPart : List Bool → Nat → Option (Nat × List Bool)
  | [], _ => none
  | true :: l, k => some (k, l)
  | false :: l, k => unaryPart l (k + 1)

/-- n compressed coefficients: sign, seven low bits, the high part in unary; no negative zero; zero bits after the last. -/
def decompress : Nat → List Bool → Option (List Int)
  | 0, l => if l.all (· == false) then some [] else none
  | n + 1, l =>
    match unaryPart (l.drop 8) 0 with
    | none => none
    | some (k, r) =>
      let m : Nat := 128 * k + natOfBits ((l.drop 1).take 7)
      let neg := l.headD false
      if (neg ∧ m = 0) ∨ 2048 ≤ m then none else (decompress n r).map ((if neg then -(m : Int) else m) :: ·)

/-- A polynomial times x, modulo xⁿ + 1. -/
def timesX (h : List Int) : List Int := -(h.getLastD 0) :: h.dropLast

/-- The product of two polynomials modulo xⁿ + 1, added to a sum. -/
def polyMul : List Int → List Int → List Int → List Int
  | [], _, acc => acc
  | a :: s, h, acc =>
    if (a :: s).all (· == 0) then acc else polyMul s (timesX h) ((acc.zip h).map fun p => p.1 + a * p.2)

/-- The representative of a residue between −q/2 and q/2. -/
def centred (v : Int) : Int := let r := v % falconQ; if falconQ < 2 * r then r - falconQ else r

/-- The squared length of a vector. -/
def normSq (l : List Int) : Nat := (l.map fun v => (v * v).toNat).sum

/-- The squared length of (c − s₂h, s₂). -/
def sigNorm (h c : List Nat) (s : List Int) : Nat :=
  let p := polyMul s (h.map Int.ofNat) (h.map fun _ => 0)
  normSq ((c.zip p).map fun v => centred ((v.1 : Int) - v.2)) + normSq s

/-- A signature verifies: header, 40 bytes of salt, the compressed s₂. -/
def falconOk (key msg sig : List Byte) : Bool :=
  match falconKey key, decompress 1024 (bitsOfBytes (sig.drop 41)) with
  | some h, some s =>
    fieldAt sig 0 1 == falconSigHeader && 41 ≤ sig.length &&
      sigNorm h (hashToPoint (slice sig 1 40) msg) s ≤ falconBound
  | _, _ => false

end Sys2Proof.Machine
end

