-- ==== Sys2Proof/Machine/Routine.lean ====
section
/-! DEFINITION. Routines and their ends: ROUTINE_END, DRAIN_END, IDLE_ADOPT, what stops a routine from outside, and the
watchdog events (04, R140, R192 to R200; 05, R217, R218). -/

namespace Sys2Proof.Machine

open Sys2Proof

/-! ### Commands and their routines -/

def cmdOf (d : Dev) (cid : Nat) : Option Cmd := d.host.cmds.find? (·.cid == cid)

def setCmds (d : Dev) (l : List Cmd) : Dev := { d with host := { d.host with cmds := l } }

/-- The command with the id of `c` replaced. -/
def putCmd (d : Dev) (c : Cmd) : Dev := setCmds d (d.host.cmds.map fun x => if x.cid = c.cid then c else x)

/-- The command with an id changed. -/
def modCmd (d : Dev) (cid : Nat) (f : Cmd → Cmd) : Dev :=
  setCmds d (d.host.cmds.map fun x => if x.cid = cid then f x else x)

/-- The function whose routine a stall runs (R448); the PF where none does. -/
def ownerFn (d : Dev) (st : Nat) : Nat :=
  match (stallOf d st).owner with
  | some cid => ((cmdOf d cid).map (·.fn)).getD 0
  | none => 0

/-- `STALL_FAULT` as a word (R201). -/
def faultWord (x : Stall) : Nat := x.faultCode.toNat + 2 ^ 8 * x.faultPc.toNat + 2 ^ 32 * x.faultDetail.toNat

/-- A routine has ended: its command learns how (R192, R195). -/
def routineEnded (d : Dev) (st : Nat) (fault : Nat) : Dev :=
  let d := match (stallOf d st).owner with
    | some cid =>
      match cmdOf d cid with
      | some c => putCmd d { c with running := c.running.filter (· != st), ended := c.ended ++ [(st, fault)] }
      | none => d
    | none => d
  modStall d st fun x => { x with owner := none, ending := none, held := none }

/-- Issued crib and attention work of a stall is finished. -/
def workDone (d : Dev) (st : Nat) : Bool := !accessesPending d st

/-- ROUTINE_END (R192). -/
def execRoutineEnd (st : Nat) : State → Res :=
  onDev "ROUTINE_END" fun d =>
    let x := stallOf d st
    if x.mode = .draining ∧ x.ending = some .halt ∧ workDone d st ∧ opsOf d st = [] then
      some (modStall (routineEnded d st 0) st fun y => { y with mode := .idle, busy := false })
    else none

/-- DRAIN_END (R195): remote operations go on; a FADD among them writes no register (`orphanOps`, at the fault). -/
def execDrainEnd (st : Nat) : State → Res :=
  onDev "DRAIN_END" fun d =>
    let x := stallOf d st
    if x.mode = .draining ∧ x.ending = some .fault ∧ workDone d st then
      let d := routineEnded d st (faultWord x)
      if x.gone then some (modStall d st fun y => { y with mode := .retired })
      else some (boundary (modStall d st fun y => { y with mode := .idle, busy := false }) st)
    else none

/-- Something waits for a boundary of the stall. -/
def boundaryWork (d : Dev) (st : Nat) : Bool :=
  let x := stallOf d st
  x.posted.isSome || x.pendingRetire || x.pendingSpare.isSome ||
    refNow d st != refOf d st || (List.range 34).any fun k => (bankOf d (34 * st + k)).pend.isSome

/-- IDLE_ADOPT (R140, R190): an Idle stall, or one that an EPOCH holds, is at a boundary at every cycle. -/
def execIdleAdopt (st : Nat) : State → Res :=
  onDev "IDLE_ADOPT" fun d =>
    let x := stallOf d st
    if (x.mode = .idle ∨ (x.mode = .running ∧ epochHeld x)) ∧ boundaryWork d st then some (boundary d st) else none

/-- A routine is stopped with ABORT and a reason (R193, R196). -/
def abortStall (reason : Nat) (d : Dev) (st : Nat) : Dev :=
  if active (stallOf d st) then stopNow d st 0x0F reason else d

/-! ### Detected errors (R165, R197, R198, R276, R527) -/

/-- The instructions whose results carry a residue check (R165, R274): CRIB.MVM, CRIB.PROBE, VADD, VMUL, VFMA, and the
sum of VRED. -/
def residueChecked (w : W64) : Bool :=
  let i := insOf w
  [0x10, 0x12, 0x20, 0x21, 0x22].contains i.op || (i.op == 0x27 && bitsOf i.imm 1 0 == 0)

/-- The stall runs Derier's own routine of a SOLVE, whose instructions are not given (R281). -/
def solving (x : Stall) : Bool :=
  match x.held with
  | some { why := .solve, .. } => true
  | _ => false

/-- RESIDUE: the result of the checked instruction at `idx` stands; the routine stops. -/
def execResidue (st idx : Nat) : State → Res :=
  onDev "RESIDUE" fun d =>
    let x := stallOf d st
    if (x.mode ≠ .running ∧ x.mode ≠ .draining) ∨ (solving x = false ∧ (x.limit ≤ idx ∨
        (mget none x.store idx).any residueChecked = false)) ∨ 4096 ≤ idx then none
    else
      let d := bump d (stallReg st 0xA0)
      if active x then some (digitalSuspect (stopNow d st 0x0D idx) st 1 idx) else some d

/-- LOCKSTEP: `idx` is the instruction index at the mismatch (R193); later instructions may have issued (R196, R197). -/
def execLockstep (st idx : Nat) : State → Res :=
  onDev "LOCKSTEP" fun d =>
    let x := stallOf d st
    if active x ∧ idx < 4096 then some (digitalSuspect (stopNow d st 0x0E idx) st 2 idx) else none

/-- FETCH_FAULT (R145, R185, R198): PC_RANGE, FETCH or ILLEGAL at the index where an instruction would issue. -/
def execFetchFault (st : Nat) (pathError : Bool) : State → Res :=
  onDev "FETCH_FAULT" fun d =>
    let x := stallOf d st
    if x.mode ≠ .running ∨ epochHeld x then none
    else if x.limit ≤ x.pc then some (stopStall d st 0x03 x.pc x.pc)
    else
      let stopped := digitalSuspect (stopStall (fetchTouch d st) st 0x02 x.pc x.pc) st 3 x.pc
      match fetchWord x with
      | none => some stopped
      | some w =>
        if pathError ∧ x.held = none then some stopped
        else if opcodes.contains (insOf w).op then none
        else some (stopStall (fetchTouch d st) st 0x01 (w.toNat / 2 ^ 32) x.pc)

/-! ### Watchdog events (R199, R200, R217, R218) -/

/-- A WATCHDOG event of a stall. -/
def watchdogEvent (d : Dev) (st kind buf slot index : Nat) : Dev :=
  raiseEvent (bump d (stallReg st 0x20)) (ownerFn d st) 0 1
    (stallNumber d st + 2 ^ 16 * kind + 2 ^ 24 * buf + 2 ^ 32 * slot) index

/-- Kind, buffer and slot of a wait; a wait on the scoreboard raises nothing. -/
def waitKind : Wait → Option (Nat × Nat × Nat)
  | .scoreboard => none
  | .solve => none
  | .counter => some (0, 0, 0)
  | .drain => some (1, 0, 0)
  | .epoch _ _ => some (2, 0, 0)
  | .issueLimit => some (3, 0, 0)
  | .slotW b n => some (4, if b then 1 else 0, n)
  | .slotS b n => some (5, if b then 1 else 0, n)

/-- WATCHDOG: 2²⁴ cycles on one instruction, once for each wait. -/
def execWatchdog (st : Nat) : State → Res :=
  onDev "WATCHDOG" fun d =>
    let x := stallOf d st
    match x.held with
    | none => none
    | some h =>
      match waitKind h.why with
      | none => none
      | some (k, b, n) =>
        if h.raised then none
        else
          some (watchdogEvent (modStall d st fun y => { y with held := some { h with raised := true } }) st k b n x.pc)

/-- BOUNDARY_LATE: once until the next boundary. -/
def execBoundaryLate (st : Nat) : State → Res :=
  onDev "BOUNDARY_LATE" fun d =>
    let x := stallOf d st
    if x.mode = .running ∧ x.lateRaised = false ∧ epochHeld x = false then
      some (watchdogEvent (modStall d st fun y => { y with lateRaised := true }) st 6 0 0 x.pc)
    else none

/-- SLOT_JAM: once for each PUT.F that waits at its slot. -/
def execSlotJam (id : Nat) : State → Res :=
  onDev "SLOT_JAM" fun d =>
    match opOf d id with
    | none => none
    | some o =>
      let t := gStall (tAddr o)
      if o.phase = .holding ∧ o.op.kind = .putF ∧ behind d t o = false ∧ (stallOf d t).jammed.contains id = false then
        some (watchdogEvent (modStall d t fun y => { y with jammed := y.jammed ++ [id] }) t 5 (gBuf (tAddr o))
          (tSlot o) (srcNum o))
      else none

end Sys2Proof.Machine
end

