-- ==== Sys2Proof/Machine/Command.lean ====
section
/-! DEFINITION. The command set's common ground (10): rings and doorbells, fetching, the checks of a descriptor, and the
end of a command with its record. -/

namespace Sys2Proof.Machine

open Sys2Proof

/-! ### Descriptors (R434) -/

def dOpcode (b : List Byte) : Nat := fieldAt b 0 1
def dFlags (b : List Byte) : Nat := fieldAt b 1 1
def dModule (b : List Byte) : Nat := fieldAt b 2 1
def dTag (b : List Byte) : Nat := fieldAt b 4 4
def dDataLen (b : List Byte) : Nat := fieldAt b 16 4
def dResultLen (b : List Byte) : Nat := fieldAt b 20 4
def dResult (b : List Byte) : Nat := fieldAt b 24 8

/-- The ring number of a mailbox command, and one that no ring has: a command of it ends without a record. -/
def mboxRing : Nat := 0x10001
def noRing : Nat := 0x10000

/-- LIST of R434. -/
def Cmd.isList (c : Cmd) : Bool := bitAt (dFlags c.desc) 0

/-- FENCE of R434. -/
def Cmd.fence (c : Cmd) : Bool := bitAt (dFlags c.desc) 1

/-- A parameter field by its descriptor byte. -/
def Cmd.param (c : Cmd) (off n : Nat) : Nat := fieldAt c.desc off n

/-- n bytes of some, with zeros after them where they are fewer. -/
def fitTo (n : Nat) (bs : List Byte) : List Byte := (bs ++ List.replicate (n - bs.length) 0).take n

/-- The parts of the data as delivered, one where LIST is 0, else one for each list entry, as long as the entry says (R435);
none where a read of host memory failed. -/
def Cmd.entries (c : Cmd) : List (List Byte) :=
  if c.heads = [] then c.data.getD []
  else ((List.range c.heads.length).zip c.heads).map fun p => fitTo (fieldAt p.2 8 4) ((c.data.getD []).getD p.1 [])

/-- The command's data: the concatenation of its entries. -/
def Cmd.bytes (c : Cmd) : List Byte := c.entries.flatten

/-- Bytes of data the command names: DATA_LEN, or with LIST the sum of the entries' lengths. -/
def Cmd.dataLen (c : Cmd) : Nat := if c.isList then c.bytes.length else dDataLen c.desc

/-- The status that refuses a data list (R435, R444): a reserved byte of an entry, or an entry of no bytes or a list that is
not aligned. -/
def Cmd.listStatus (c : Cmd) : Option Nat :=
  if c.isList = false ∨ c.heads = [] then none
  else if c.heads.any fun h => fieldAt h 12 4 != 0 then some 0x01
  else if fieldAt c.desc 8 8 % 16 ≠ 0 ∨ c.heads.any (fun h => fieldAt h 8 4 == 0) then some 0x02
  else none

/-- A read of the command's data failed (R437). -/
def Cmd.dataFailed (c : Cmd) : Bool := c.data.isNone && dDataLen c.desc != 0

/-! ### Checks common to every descriptor (R434, R437, R443, R444) -/

/-- The opcodes of R443, whether only the PF may issue them, and the parameter bytes R444 names, as (first, count). -/
def opTable : List (Nat × Bool × List (Nat × Nat)) :=
  [(0x01, false, []), (0x02, false, []), (0x03, false, [(32, 3), (36, 13), (50, 6)]), (0x04, false, [(32, 2)]),
   (0x10, true, [(32, 3), (36, 16)]), (0x11, true, [(32, 4)]), (0x12, true, [(32, 2)]),
   (0x13, true, [(32, 1), (34, 6)]), (0x20, false, []), (0x21, false, [(32, 2)]), (0x22, false, [(32, 2), (36, 4)]),
   (0x30, false, [(32, 10), (44, 8)]), (0x31, false, [(32, 28)]), (0x32, false, []), (0x40, true, [(32, 1), (36, 8)]),
   (0x41, false, [(32, 1), (36, 6)]), (0x50, true, []), (0x51, true, [(32, 1)]), (0x60, true, [(32, 1)]),
   (0x61, true, [(32, 3), (36, 4)])]

/-- Commands that act on every module: MODULE must be 0 (R444). -/
def everyModule (op : Nat) : Bool := [0x10, 0x11, 0x12, 0x13, 0x50, 0x60].contains op

/-- A reserved bit or byte of the descriptor is not zero. -/
def reservedSet (b : List Byte) (named : List (Nat × Nat)) : Bool :=
  bitsOf (dFlags b) 7 2 != 0 || fieldAt b 3 1 != 0 ||
    ((List.range 32).map (32 + ·)).any fun k =>
      (named.any fun p => p.1 ≤ k && k < p.1 + p.2) == false && fieldAt b k 1 != 0

/-- The status of the first common check that fails: INVALID, DENIED, then MODULE. A command for another module of the
paddock passes here and is forwarded. -/
def commonStatus (d : Dev) (c : Cmd) : Option Nat :=
  match opTable.find? fun t => t.1 == dOpcode c.desc with
  | none => some 0x01
  | some t =>
    if reservedSet c.desc t.2.2 then some 0x01
    else if (t.2.1 ∨ (dOpcode c.desc = 0x41 ∧ bitAt (c.param 32 1) 0)) ∧ c.fn ≠ 0 then some 0x03
    else if c.listStatus.isSome then c.listStatus
    else if everyModule (dOpcode c.desc) then (if dModule c.desc ≠ 0 then some 0x02 else none)
    else if c.lead.isNone ∧ holdsIndex d (dModule c.desc) = false ∧ reachableModule d (dModule c.desc) = false then
      some 0x0A
    else none

/-- The lead itself carries out a MODE_SET that passes through an epoch, for every module (R460, R484). -/
def leadRuns (c : Cmd) : Bool := dOpcode c.desc == 0x40 && c.param 32 1 ≤ 1

/-- The command is for another module. -/
def isRemote (d : Dev) (c : Cmd) : Bool :=
  c.lead.isNone && !everyModule (dOpcode c.desc) && !holdsIndex d (dModule c.desc) && !leadRuns c

/-! ### The other modules, for a lead (R437, R445, R475, R482) -/

/-- Module indices of the paddock, this module's own included. -/
def memberIndices (d : Dev) : List Nat := (d.pad.index :: d.pad.modules.map fun m => m.2.1).eraseDups

/-- At the lead, the other modules that it reaches. -/
def others (d : Dev) : List Nat :=
  if d.pad.role = .lead then (memberIndices d).filter fun m => m != d.pad.index && !d.pad.unreachable.contains m else []

/-- A binding whose twin counts with the modules: Copying or InStep (R475, R482). -/
def Binding.counts (b : Binding) : Bool := b.state == .copying || b.state == .inStep

/-- Modules whose results a stage waits for: those reachable, and twins, as 64 plus their entry. -/
def stageModules (d : Dev) : List Nat :=
  (memberIndices d).filter (fun m => m == d.pad.index || !d.pad.unreachable.contains m) ++
    (d.pad.bindings.filter (·.counts)).map fun b => 64 + b.entry

/-- A message of the lead to every other module and twin. -/
def tellAll (d : Dev) (m : Message) : Dev :=
  if d.pad.role = .lead then ((stageModules d).filter (· != d.pad.index)).foldl (fun d k => sendMsg d k m) d else d

/-! ### Routine commands and the stalls that they name (R281, R444, R457) -/

/-- A command runs routines of its own image. -/
def Cmd.runs (c : Cmd) : Bool := dOpcode c.desc == 0x30 || dOpcode c.desc == 0x31

/-- A command has routines on stalls; those of a SOLVE are Derier's own (R281, R457). -/
def Cmd.onStalls (c : Cmd) : Bool := c.runs || dOpcode c.desc == 0x32

def pFirst (c : Cmd) : Nat := c.param 32 2
def pCount (c : Cmd) : Nat := c.param 34 2
def pFlags (c : Cmd) : Nat := c.param 41 1
def pAbort (c : Cmd) : Bool := bitAt (pFlags c) 1
/-- The stalls a command names. -/
def pStalls (c : Cmd) : List Nat := (List.range (pCount c)).map (pFirst c + ·)

def modelOf (d : Dev) (id : Nat) : Option Model := d.feed.models.find? (·.id == id)

/-- The stalls of a module that hold the banks of a SOLVE's blocks, from its command. -/
def solveStallsAt (d : Dev) (c : Cmd) (m : Nat) : List Nat :=
  match modelOf d (fieldAt c.bytes 0 2) with
  | none => []
  | some x => (((x.placements.take (fieldAt c.bytes 8 4)).filter fun p => p.module == m).map (·.stall)).eraseDups

/-- The stalls of other modules on which a command of the lead holds back epochs (R457): until it is forwarded, those that its
routines name; of a SOLVE, until it ends, those of its blocks. -/
def awayStalls (d : Dev) (c : Cmd) : List (Nat × List Nat) :=
  if d.pad.role ≠ .lead ∨ c.lead.isSome then []
  else if c.runs then (if isRemote d c ∧ c.remote = false ∧ pAbort c = false then [(dModule c.desc, pStalls c)] else [])
  else if c.onStalls then (others d).map fun m => (m, solveStallsAt d c m)
  else []

/-- Those modules are told, as far as f takes them. -/
def holdAway (d : Dev) (c : Cmd) (f : Nat → Bool) : Dev :=
  ((awayStalls d c).filter fun p => f p.1 && p.2 != []).foldl (fun d p => sendMsg d p.1 (.hold c.cid c.epoch p.2)) d

/-- They are told that the command has ended. -/
def freeAway (d : Dev) (c : Cmd) : Dev := (awayStalls d c).foldl (fun d p => sendMsg d p.1 (.unhold c.cid)) d

/-! ### Records (R429, R432, R436, R440, R446) -/

/-- A COMP ring sends its vector when it is due. -/
def coalesce (d : Dev) (r : Nat) (x : Ring) : Dev :=
  if x.coalCount = 0 ∨ x.coalUsec = 0 ∨ x.coalCount ≤ x.unsignalled then
    sendMsix (setRing d r (some { x with unsignalled := 0 })) x.owner x.vector
  else setRing d r (some x)

/-- Device head of a SUB ring, as SQHEAD. -/
def subHead (d : Dev) (sq : Nat) : Nat := ((ringOf d sq).map (·.head)).getD 0

/-- One record written to a COMP ring that has room; a host memory error puts the ring in Error (R431). -/
def writeRecord (d : Dev) (r : Nat) (x : Ring) (rc : Record) : Dev :=
  if x.failAt = some x.posted then ringError (setRing d r (some x)) r 2
  else
    coalesce (emit d (.record r x.tail x.phase { rc with sqhead := subHead d rc.sqid })) r
      { advanceTail x with unsignalled := x.unsignalled + 1, posted := x.posted + 1 }

/-- A record goes to its COMP ring, or is held while the ring is full. A ring in Error takes nothing. -/
def postRecord (d : Dev) (r : Nat) (rc : Record) : Dev :=
  match ringOf d r with
  | none => d
  | some x =>
    if x.state = .error ∨ x.type ≠ .comp then d
    else if ringFull x ∨ x.heldRecords ≠ [] then
      setRing d r (some { x with heldRecords := x.heldRecords ++ [rc] })
    else writeRecord d r x rc

/-- Held records are written while there is room, at most n of them. -/
def flushHeld (r : Nat) : Nat → Dev → Dev
  | 0, d => d
  | n + 1, d =>
    match ringOf d r with
    | none => d
    | some x =>
      match x.heldRecords with
      | [] => d
      | rc :: rest =>
        if ringFull x ∨ x.state = .error then d
        else flushHeld r n (writeRecord d r { x with heldRecords := rest } rc)

/-- The mailbox's record: `MBOX_CPL`, PHASE inverted, PF vector 0 (R427). -/
def postMailbox (d : Dev) (rc : Record) : Dev :=
  sendMsix { d with host := { d.host with mboxCpl := some (rc, !d.host.mboxPhase), mboxPhase := !d.host.mboxPhase } } 0 0

/-! ### The end of a command (R431, R436, R440, R445, R447) -/

def dropCmd (d : Dev) (cid : Nat) : Dev := setCmds d (d.host.cmds.filter fun c => c.cid != cid)

def setModels (d : Dev) (l : List Model) : Dev := { d with feed := { d.feed with models := l } }

/-- A ring number under which a Failed record waits for its command's own record to be written. -/
def unwritten : Nat := 0x20000

/-- A ring number that says, of a record on a module that did not take the command, that the host has read the result. -/
def hostHasRead : Nat := 0x30000

/-- Where the record of a command stands that now ends: the number of the record in its COMP ring, or the mailbox; none
without a record. -/
def recordPlace (d : Dev) (c : Cmd) : Option (Nat × Nat) :=
  if c.ring = mboxRing then some (mboxRing, 0)
  else
    match (ringOf d c.ring).bind fun s => (ringOf d s.bind).map fun x => (s.bind, x.posted + x.heldRecords.length) with
    | some p => some p
    | none => none

/-- Failed records are freed whose completions f says the host has read, or never will; those of the other modules with them
(R391). -/
def freeFailed (d : Dev) (f : Nat × Nat → Bool) : Dev :=
  (d.feed.models.filter fun m => m.reply.any f).foldl (fun d m => tellAll d (.recordFreed m.id))
    (setModels d (d.feed.models.filter fun m => !m.reply.any f))

/-- A Failed record of the command waits for the host to read the completion, and without a completion is freed (R391). -/
def noteReply (d : Dev) (c : Cmd) : Dev :=
  match recordPlace d c with
  | some p =>
    setModels d (d.feed.models.map fun m => if m.reply = some (unwritten, c.cid) then { m with reply := some p } else m)
  | none => freeFailed d fun q => q == (unwritten, c.cid)

/-- A ring becomes Free. -/
def freeRing (d : Dev) (r : Nat) : Dev := freeFailed (setRing d r none) fun p => p.1 == r

def ends (status : Nat) : Ends := { status := status, result := 0, value0 := 0, value1 := 0, bytes := [] }

/-- A command ends: its result bytes, then its record; a member's answer goes to the lead. Results that host memory does not
take end it with HOST_MEM (R437). -/
def endNow (d : Dev) (c : Cmd) (e : Ends) : Dev :=
  let d := noteReply (dropCmd (freeAway d c) c.cid) c
  match c.lead with
  | some id => sendMsg d 0 (.answer id e.status e.result e.value0 e.value1 e.bytes)
  | none =>
    let bs := if c.ring = noRing then [] else e.bytes.take (dResultLen c.desc)
    let lost : Bool := bs != [] && !c.resultOk
    let d := if bs = [] ∨ lost then d else emit d (.result (BitVec.ofNat 64 (dResult c.desc)) bs d.host.cfg.relaxed)
    let rc : Record :=
      { tag := BitVec.ofNat 32 (dTag c.desc), sqid := if c.ring = mboxRing then 0xFFFF else c.ring, sqhead := 0,
        status := if lost then 0x07 else e.status, result := e.result,
        value1 := BitVec.ofNat 32 e.value1, value0 := BitVec.ofNat 64 e.value0 }
    if c.ring = mboxRing then postMailbox d rc
    else
      match ringOf d c.ring with
      | none => d
      | some s => postRecord d s.bind rc

/-- A command ends when its writes have been performed, on the standby too where they are mirrored (R440, R495). -/
def endCmd (d : Dev) (c : Cmd) (e : Ends) : Dev :=
  if d.pad.twinOut = [] then endNow d c e
  else modCmd d c.cid fun x => { x with begun := true, asks := [], held := some e }

/-- Records of a SUB ring's commands still wait for room in its COMP ring (R432); one in Error takes none. -/
def recordsHeld (d : Dev) (r : Nat) : Bool :=
  d.host.rings.any fun p => match p.2 with
    | some x => x.state == .active && x.heldRecords.any fun rc => rc.sqid == r
    | none => false

/-- A Draining ring with no command left is Free, and its RING_DESTROY completes (R431, R447). A RING_DESTROY fetched
from the ring itself is not waited for. -/
def drained (d : Dev) (r : Nat) : Dev :=
  match ringOf d r with
  | none => d
  | some x =>
    match x.destroyer with
    | none => d
    | some (cid, n) =>
      if x.state = .draining ∧ (d.host.cmds.all fun c => c.ring != r || c.cid == cid) ∧ recordsHeld d r = false then
        let d' := match cmdOf d cid with
          | some c => endCmd d c { ends 0 with value1 := n }
          | none => d
        freeRing d' r
      else d

/-- Rings that can become Free do; a destroy's own end may free another, so this is done as often as there are rings. -/
def drainRings (d : Dev) : Dev :=
  let rs := d.host.rings.map (·.1)
  rs.foldl (fun d _ => rs.foldl drained d) d

/-- A command ends, with what follows for its ring. -/
def finish (d : Dev) (c : Cmd) (e : Ends) : Dev := drainRings (endCmd d c e)

/-! ### Starting a command (R433, R445, R544) -/

/-- Commands in progress; at most 1,024. -/
def inProgress (d : Dev) : Nat := (d.host.cmds.filter fun c => !c.queued).length

/-- Commands of one SUB ring start in ring order; one with FENCE waits until every earlier one has completed. A command of
the mailbox starts when it has been fetched; the lead's start in the order in which it has forwarded them, which keeps that of
each ring (log 28). -/
def inOrder (d : Dev) (c : Cmd) : Bool :=
  (!c.queued || inProgress d < 1024) &&
    if c.lead.isSome then d.host.cmds.all fun x => x.lead.isNone || c.cid ≤ x.cid || x.begun
    else noRing ≤ c.ring || d.host.cmds.all fun x => x.ring != c.ring || c.cid ≤ x.cid || (x.begun && !c.fence)

/-- VALUE1 of a command that is refused before it has begun: no stall and no module has failed. -/
def refusedValue1 (op : Nat) : Nat := if op = 0x10 ∨ op = 0x30 ∨ op = 0x31 then 0xFFFFFFFF else 0

def refusedEnds (op status : Nat) : Ends := { ends status with value1 := refusedValue1 op }

/-- A command as the lead sends it to another end. -/
def tell (c : Cmd) (d : Dev) (m : Nat) : Dev :=
  sendMsg d m (.command c.cid c.fn c.desc (c.data.map fun _ => c.entries) c.epoch)

/-- The lead forwards a command to the module it names. -/
def forward (d : Dev) (c : Cmd) : Dev := tell c (putCmd d { c with begun := true, remote := true }) (dModule c.desc)

/-- Standbys of the plan that have not taken an index, as ends, without this module. -/
def standbyEnds (d : Dev) : List Nat :=
  ((List.range d.pad.standbys.length).filter fun k =>
    !(d.pad.modules.any fun m => some m.1 == (d.pad.standbys.drop k).head?) && 64 + k != here d).map (64 + ·)

/-- A command that acts on every module goes to each of them (R444, R445). -/
def toMembers (d : Dev) (c : Cmd) : Dev := (others d).foldl (tell c) d

/-- A command done here, which completes when it is done on every module (R443). -/
def finishAll (d : Dev) (c : Cmd) (e : Ends) : Dev :=
  if others d = [] then finish d c e
  else modCmd (toMembers d c) c.cid fun x => { x with asks := others d, held := some e }

/-- The newest epoch whose request has been accepted (R457). A wanted epoch that would be the seventeenth not complete waits
before its request (R484), so no command carries it yet (log 37). -/
def acceptedEpoch (d : Dev) : W32 :=
  (d.pad.wants.take (16 - (d.pad.epochs.filter fun e => !e.complete).length)).foldl (fun e w => w.base.getD e + 1)
    d.pad.requested

/-- A command begins; one that waited to be fetched carries the newest epoch from now on. -/
def begins (d : Dev) (c : Cmd) : Cmd :=
  { c with begun := true, queued := false, epoch := if c.queued ∧ c.lead.isNone then acceptedEpoch d else c.epoch }

/-- A command that waited to be fetched counts on other modules once it begins. -/
def joins (d : Dev) (c : Cmd) : Dev := if c.queued then holdAway d (begins d c) fun _ => true else d

/-- The start of the command `cid` with the opcode and form of its row: the common checks, then its own meaning. -/
def startCmd (name : String) (op : Nat) (isForm : Cmd → Bool) (cid : Nat) (f : Dev → Cmd → Dev) (s : State) : Res :=
  onDerier name (fun d =>
    match cmdOf d cid with
    | none => none
    | some c =>
      if dOpcode c.desc ≠ op ∨ isForm c = false ∨ c.begun ∨ inOrder d c = false ∨ d.health.commandDown then none
      else
        match commonStatus d c with
        | some k => some (finish d c (refusedEnds op k))
        | none =>
          if isRemote d c then some (forward d (begins d c))
          else some (f (putCmd (joins d c) (begins d c)) (begins d c))) s

/-- Every command of the opcode is of this row. -/
def anyForm (_ : Cmd) : Bool := true

/-- A sequence is open and belongs to a function. -/
def openFor (d : Dev) (id fn : Nat) : Bool :=
  match seqOf d id with
  | some q => !q.closing && q.owner == fn
  | none => false

/-! ### COMMAND_FETCH (R431 to R433) -/

/-- A SUB ring can be fetched: Active, with an entry, its COMP ring with room; none once the lead is fenced (R504). -/
def fetchable (d : Dev) (x : Ring) : Bool :=
  x.type == .sub && x.state == .active && x.head != x.tail && !d.pad.fenced &&
    match ringOf d x.bind with
    | some c => c.state == .active && c.heldRecords == [] && !ringFull c
    | none => false

/-- Rings that can be fetched. -/
def candidates (d : Dev) : List (Nat × Ring) :=
  d.host.rings.filterMap fun p => match p.2 with
    | some x => if fetchable d x then some (p.1, x) else none
    | none => none

/-- The rings that must be fetched within j fetches are as many as j, for some j: the longest unserved goes next, so that
each of them is fetched once in 64 fetches. -/
def pressed (cs : List Ring) : Bool :=
  (List.range 64).any fun k => k + 1 ≤ (cs.filter fun y => 63 ≤ y.passed + k).length

/-- Whether a ring is the one to fetch: the longest unserved where 64 fetches would not do otherwise, else by priority, then
the longest unserved. -/
def fetchTurn (d : Dev) (x : Ring) : Bool :=
  let cs := (candidates d).map (·.2)
  if pressed cs then cs.all fun y => y.passed ≤ x.passed
  else cs.all fun y => x.priority < y.priority || (x.priority == y.priority && y.passed ≤ x.passed)

/-- A command joins those in progress, or, not from a ring, waits to be fetched while 1,024 are in progress. -/
def addCmd (d : Dev) (fn ring : Nat) (desc : List Byte) (heads : List (List Byte)) (data : Option (List (List Byte)))
    (resultOk : Bool) (epoch : W32) (lead : Option Nat) : Dev :=
  let c : Cmd :=
    { cid := d.host.nextCid, fn := fn, ring := ring, desc := desc, heads := heads, data := data, resultOk := resultOk,
      queued := 1024 ≤ inProgress d, epoch := epoch, begun := false,
      waiting := [], running := [], ended := [], awaits := none, remote := false, lead := lead, asks := [],
      edits := [], held := none, stopped := false, aborting := none, solve := none }
  { d with host := { d.host with cmds := d.host.cmds ++ [c], nextCid := d.host.nextCid + 1 } }

/-- A reserved opcode has no row of its own: it ends at once (R6, R443). -/
def endReserved (d : Dev) (cid : Nat) : Dev :=
  match cmdOf d cid with
  | none => d
  | some c => if (opTable.find? fun t => t.1 == dOpcode c.desc).isNone then finish d c (ends 0x01) else d

/-- A fetched command counts on other modules from now on (R457). -/
def holdNew (d : Dev) (cid : Nat) : Dev :=
  match cmdOf d cid with
  | none => d
  | some c => if c.queued then d else holdAway d c fun _ => true

/-- Rings passed over by a fetch. -/
def passOthers (d : Dev) (r : Nat) : Dev :=
  (candidates d).foldl (fun d p =>
    setRing d p.1 (some { p.2 with passed := if p.1 = r then 0 else p.2.passed + 1 })) d

/-- COMMAND_FETCH: `desc`, `heads` and `data` are what host memory holds, the descriptor, the entries of a data list and the
data; none is a host memory error. `resultOk` says that host memory will take the command's result data. -/
def execCommandFetch (ring : Nat) (desc : Option (List Byte)) (heads : List (List Byte))
    (data : Option (List (List Byte))) (resultOk : Bool) : State → Res :=
  onDev "COMMAND_FETCH" fun d =>
    match ringOf d ring with
    | none => none
    | some x =>
      if fetchable d x = false ∨ fetchTurn d x = false ∨ 1024 ≤ inProgress d ∨ d.health.commandDown then none
      else
        match desc with
        | none => some (ringError d ring 2)
        | some b =>
          let d := passOthers d ring
          let d := setRing d ring (some { x with head := (x.head + 1) % 2 ^ x.sizeLog2, passed := 0 })
          some (endReserved (holdNew (addCmd d x.owner ring (fitTo 64 b) heads data resultOk (acceptedEpoch d) none)
            d.host.nextCid) d.host.nextCid)

/-! ### Doorbells (R427, R430, R446) -/

def dropDoorbell (d : Dev) : Dev := bump d 0xB0

/-- A ring doorbell; in STATE Failed it is ignored (R591). -/
def ringDoorbell (d : Dev) (fn ring : Nat) (value : W64) : Dev :=
  match ringOf d ring with
  | none => if d.host.state = .failed then d else dropDoorbell d
  | some x =>
    let i := bitsOf value.toNat 15 0
    if d.host.state = .failed then d
    else if x.owner ≠ fn ∨ x.state ≠ .active ∨ d.host.serving = false then dropDoorbell d
    else if 2 ^ x.sizeLog2 ≤ i then ringError d ring 1
    else if x.type = .sub then setRing d ring (some { x with tail := i })
    else
      let left := (x.tail + 2 ^ x.sizeLog2 - i) % 2 ^ x.sizeLog2
      drainRings (flushHeld ring (x.heldRecords.length)
        (freeFailed (setRing d ring (some { x with head := i })) fun p => p.1 == ring && p.2 + left < x.posted))

def execDoorbell (fn ring : Nat) (value : W64) : State → Res := always fun d => ringDoorbell d fn ring value

/-- COALESCE_TIMEOUT: COAL_USEC after the first record without a message. -/
def execCoalesceTimeout (ring : Nat) : State → Res :=
  onDev "COALESCE_TIMEOUT" fun d =>
    match ringOf d ring with
    | none => none
    | some x =>
      if x.type = .comp ∧ x.state = .active ∧ x.unsignalled ≠ 0 then
        some (sendMsix (setRing d ring (some { x with unsignalled := 0 })) x.owner x.vector)
      else none

/-- The descriptor in `MBOX_DESC_0` to `MBOX_DESC_7`. -/
def mboxBytes (d : Dev) : List Byte := (List.range 8).flatMap fun k => toLe 8 (mget 0 d.host.mboxDesc k).toNat

/-- MBOX_DOORBELL (R427): one PF command at a time, in every STATE (R425) but Failed, in which the mailbox is ignored until
module reset and a doorbell of it counts nothing (R591: `DOORBELL_DROP_COUNT` counts those ignored under R427 and R430); on a
module whose port serves only the host
interface block no command is accepted (R445, R504). A record that failed before it is the host's business no more. -/
def execMboxDoorbell (value : W64) (heads : List (List Byte)) (data : Option (List (List Byte))) (resultOk : Bool) :
    State → Res :=
  always fun d =>
    if value.getLsbD 0 = false ∨ d.host.state = .failed then d
    else if d.host.cmds.any (fun c => c.ring == mboxRing) ∨ d.host.serving = false then dropDoorbell d
    else
      endReserved (holdNew (addCmd (freeFailed d fun p => p.1 == mboxRing) 0 mboxRing (mboxBytes d) heads data resultOk
        (acceptedEpoch d) none) d.host.nextCid) d.host.nextCid

/-! ### Forwarded commands (R445) -/

/-- A command of the lead counts here no more by the lead's word (R457). -/
def dropGuest (d : Dev) (cid : Nat) : Dev := setPad d { d.pad with guests := d.pad.guests.filter fun g => g.cid != cid }

/-- FORWARDED_COMMAND: a member or a standby takes a command of the lead, with its function and the epoch it carries; a
module that is alone takes the plan of a PADDOCK_JOIN (R478). -/
def execForwardedCommand (lead fn : Nat) (desc : List Byte) (data : Option (List (List Byte))) (epoch : W32) :
    State → Res :=
  onDev "FORWARDED_COMMAND" fun d =>
    if follower d ∨ (d.pad.role = .alone ∧ dOpcode desc = 0x60 ∧ fieldAt desc 32 1 = 0) then
      some (addCmd (dropGuest d lead) fn noRing (fitTo 64 desc) [] data true epoch (some lead))
    else none

/-! ### RING_CREATE and RING_DESTROY (R428, R431, R438, R444, R446, R447, R460) -/

/-- Vectors of a function (R414). -/
def vectorCount (fn : Nat) : Nat := if fn = 0 then 1024 else 24

/-- Fields of RING_CREATE that belong to another ring type are reserved (R444). -/
def ringReserved (c : Cmd) : Bool :=
  let ty := c.param 32 1
  let zero (l : List (Nat × Nat)) : Bool := l.all fun p => c.param p.1 p.2 == 0
  if ty = 0 then !zero [(36, 2), (48, 1), (50, 2), (52, 4)]
  else if ty = 1 then !zero [(34, 1), (38, 2), (52, 4)]
  else !zero [(34, 1), (38, 2), (48, 1), (50, 2)]

/-- The status that refuses a RING_CREATE. -/
def ringRefusal (d : Dev) (c : Cmd) : Option Nat :=
  let ty := c.param 32 1
  if 2 < ty ∨ ringReserved c ∨ (ty = 2 ∧ 128 ≤ c.param 52 4) then some 0x01
  else if c.param 33 1 < 4 ∨ 16 < c.param 33 1 ∨ 3 < c.param 34 1 ∨ c.param 40 8 % 4096 ≠ 0 ∨ 1000 < c.param 50 2 ∨
      (ty ≠ 0 ∧ vectorCount c.fn ≤ c.param 36 2) then some 0x02
  else if ty = 2 ∧ c.fn ≠ 0 ∧ (List.range 32).any (fun k => bitAt (c.param 52 4) k && !([0, 2, 3].contains k)) then
    some 0x03
  else if ty = 0 then
    (match ringOf d (c.param 38 2) with
      | none => some 0x04
      | some x => if x.owner ≠ c.fn then some 0x04 else if x.type ≠ .comp ∨ x.state ≠ .active then some 0x02 else none)
  else none

/-- Rings that a function owns. -/
def ringsOf (d : Dev) (fn : Nat) : List Nat :=
  (d.host.rings.filter fun p => match p.2 with
    | some x => x.owner == fn
    | none => false).map (·.1)

/-- The first number from k upward, among n, that f takes. -/
def firstFrom (f : Nat → Bool) : Nat → Nat → Option Nat
  | 0, _ => none
  | n + 1, k => if f k then some k else firstFrom f n (k + 1)

/-- A free id below `top`, given how many are used. Which one is not said (R438): any free one may be meant (log 30). -/
def freeId (d : Dev) (place top used : Nat) (free : Nat → Bool) : Option Nat :=
  let p := Config.freeNat d.draws place % top
  if free p then some p else (firstFrom free (used + 1) 0).filter (· < top)

/-- A ring as RING_CREATE makes it. -/
def newRing (c : Cmd) (failAt : Option Nat) : Ring :=
  let ty := c.param 32 1
  { type := if ty = 0 then .sub else if ty = 1 then .comp else .event, state := .active, owner := c.fn,
    sizeLog2 := c.param 33 1, priority := c.param 34 1, vector := c.param 36 2, bind := c.param 38 2,
    base := BitVec.ofNat 64 (c.param 40 8), coalCount := c.param 48 1, coalUsec := c.param 50 2,
    mask := BitVec.ofNat 32 (c.param 52 4), head := 0, tail := 0, phase := true, unsignalled := 0, overflow := false,
    heldRecords := [], posted := 0, failAt := failAt, passed := 0, destroyer := none }

def ringCreate (failAt : Option Nat) (d : Dev) (c : Cmd) : Dev :=
  match ringRefusal d c with
  | some k => finish d c (ends k)
  | none =>
    let full : Bool := match mget none d.host.quota c.fn with
      | some q => q.1 ≤ (ringsOf d c.fn).length
      | none => false
    match freeId d 1 65536 d.host.rings.length fun k => (ringOf d k).isNone with
    | none => finish d c (ends 0x05)
    | some r =>
      if full then finish d c (ends 0x05) else finish (setRing d r (some (newRing c failAt))) c { ends 0 with value0 := r }

/-- RING_CREATE. `failAt` says which write of a record or an event to the ring, if any, will meet a host memory error. -/
def execRingCreate (cid : Nat) (failAt : Option Nat) : State → Res :=
  startCmd "RING_CREATE" 0x03 anyForm cid (ringCreate failAt)

/-- A command's routines are stopped with ABORT, running or waiting to start (R447, R455, R464); a routine stopped
before it started counts as ended with fault code ABORT. -/
def stopRoutines (reason : Nat) (d : Dev) (c : Cmd) : Dev :=
  match cmdOf d c.cid with
  | none => d
  | some c =>
    let d := putCmd d { c with waiting := [], ended := c.ended ++ c.waiting.map fun st => (st, 0x0F), stopped := true }
    c.running.foldl (abortStall reason) d

/-- A command's routines are stopped, on the module that runs them; one that has not begun ends at once. -/
def stopCmd (reason : Nat) (d : Dev) (c : Cmd) : Dev :=
  if c.remote then sendMsg d (dModule c.desc) (.stop c.cid reason)
  else if c.begun then stopRoutines reason d c else endCmd d c (refusedEnds (dOpcode c.desc) 0x09)

def ringDestroy (d : Dev) (c : Cmd) : Dev :=
  let r := c.param 32 2
  match ringOf d r with
  | none => finish d c (ends 0x04)
  | some x =>
    if x.owner ≠ c.fn then finish d c (ends 0x04)
    else if x.state = .draining ∨ (x.type = .comp ∧ d.host.rings.any fun p => match p.2 with
        | some y => y.type == .sub && y.bind == r
        | none => false) then finish d c (ends 0x06)
    else
      let n := if x.type = .sub then (x.tail + 2 ^ x.sizeLog2 - x.head) % 2 ^ x.sizeLog2 else 0
      if x.type = .sub then
        let d := setRing d r (some { x with state := .draining, head := x.tail, destroyer := some (c.cid, n) })
        drainRings ((d.host.cmds.filter fun y => y.ring == r && y.cid != c.cid && y.onStalls).foldl (stopCmd 0x04) d)
      else finish (freeRing d r) c (ends 0)

def execRingDestroy (cid : Nat) : State → Res := startCmd "RING_DESTROY" 0x04 anyForm cid ringDestroy

end Sys2Proof.Machine
end

