-- ==== Sys2Proof/Machine/Sequences.lean ====
section
/-! DEFINITION. The sequence commands (10, R453; 07, R285 to R288, R300, R305, R325). -/

namespace Sys2Proof.Machine

open Sys2Proof

/-! ### SEQ_OPEN -/

/-- A DECAY of at least 0 and below 1, as FP32 bits. -/
def decayOk (v : Nat) : Bool := v < 0x3F800000 || v == 0x80000000

/-- The block's reserved bits and bytes. -/
def openReserved (b : List Byte) : Bool := bitsOf (fieldAt b 30 1) 7 1 != 0 || fieldAt b 31 1 != 0 || !zeroAt b 48 16

/-- Fields whose range does not depend on TP (R453, step 1). -/
def openRange (b : List Byte) : Bool :=
  let hKv := fieldAt b 6 1
  let hQ := fieldAt b 7 1 + 1
  (fieldAt b 0 1 < 4 || fieldAt b 0 1 == 0xFF) && fieldAt b 1 1 ≤ 2 && fieldAt b 2 1 ≤ 2 &&
    1 ≤ fieldAt b 3 1 && fieldAt b 3 1 ≤ 8 && 1 ≤ fieldAt b 4 2 && fieldAt b 4 2 ≤ 256 && 1 ≤ hKv && hKv ≤ 16 &&
    hQ ≤ 128 && hQ % hKv == 0 && [64, 128, 256].contains (fieldAt b 8 2) &&
    1 ≤ fieldAt b 10 2 && fieldAt b 10 2 ≤ 4096 && decayOk (fieldAt b 24 4) && fieldAt b 28 2 ≤ 4095

def openToken (b : List Byte) : Nat := tokenSize (fieldAt b 1 1) (fieldAt b 8 2) (fieldAt b 6 1)

def openTp (b : List Byte) : Nat := 2 ^ tpLog2Of (openToken b)

/-- MAXLEN, BUDGET and RESERVE (R453, step 3). -/
def openLengths (b : List Byte) : Bool :=
  let m := fieldAt b 12 4
  let tp := openTp b
  m % tp == 0 && tp ≤ m && m ≤ 2 ^ 20 && fieldAt b 20 4 ≤ m &&
    (fieldAt b 16 4 == 0 || (fieldAt b 10 2 + 2 ≤ fieldAt b 16 4 && fieldAt b 16 4 ≤ m / tp))

/-- The format pairs of R289. -/
def pairOk (kv q : Nat) : Bool := if kv = 0 then q ≤ 2 else if kv = 1 then q == 0 else q ≤ 1

/-- The adapter is loaded and its base model Active (R410). -/
def adapterOk (d : Dev) (a : Nat) : Bool :=
  a == 0 || (d.feed.adapters.any fun x => x.id == a &&
    d.feed.models.any fun m => m.modelId == x.model && m.state == .active)

/-- The block's own refusals: STATUS and RESULT. -/
def openRefusal (d : Dev) (b : List Byte) : Option (Nat × Nat) :=
  if openReserved b then some (0x01, 0)
  else if openRange b = false then some (0x02, 1)
  else if 2048 < openToken b then some (0x02, 2)
  else if openLengths b = false then some (0x02, 1)
  else if pairOk (fieldAt b 1 1) (fieldAt b 2 1) = false then some (0x02, 3)
  else if adapterOk d (fieldAt b 28 2) = false then some (0x02, 4)
  else none

/-- The die a sequence is placed on (R286); ties between the dies with most free pages are free (log 30). -/
def openDie (d : Dev) (b : List Byte) : Nat :=
  if fieldAt b 0 1 = 0xFF then
    let top := ((List.range 4).map (freePages d)).foldl max 0
    let ds := (List.range 4).filter fun k => freePages d k == top
    ds.getD (Config.freeNat d.draws 2 % ds.length) 0
  else fieldAt b 0 1

/-- STRIDE of R299. -/
def strideOf (n : Nat) : Nat := (64 + 16 * n + 63) / 64 * 64

/-- The sequence that a block opens. -/
def newSeq (fn : Nat) (b : List Byte) (die lists : Nat) : Seq :=
  let n := fieldAt b 12 4 / openTp b
  { owner := fn, closing := false, die := die, layers := fieldAt b 4 2, hKv := fieldAt b 6 1, hQ := fieldAt b 7 1 + 1,
    dim := fieldAt b 8 2, kvFmt := fieldAt b 1 1, qFmt := fieldAt b 2 1, tpLog2 := tpLog2Of (openToken b),
    headroom := fieldAt b 3 1, maxLen := fieldAt b 12 4, budget := fieldAt b 16 4, window := fieldAt b 10 2,
    decay := BitVec.ofNat 32 (fieldAt b 24 4), adapter := fieldAt b 28 2, pubFlag := bitAt (fieldAt b 30 1) 0,
    lists := lists, stride := strideOf n, reserve := fieldAt b 20 4, nameSpace := slice b 32 16, chain := 0, keyed := 0,
    chains := [], toks := [], attached := 0, pl := List.replicate (fieldAt b 4 2) (freshList n) }

/-- An edit batch requested and, where nothing stands before it, applied. -/
def editNow (d : Dev) (seq layer : Nat) (sets : List (Nat × W32)) (newLen : Option Nat) : Dev :=
  let id := d.nextId
  let d := addEdit d seq layer sets newLen
  match d.attn.edits.find? (·.id == id) with
  | some e => if editMay d e then applyEdit d e else d
  | none => d

/-- Sequences of a function. -/
def seqsOf (d : Dev) (fn : Nat) : Nat :=
  (d.attn.seqs.filter fun p => match p.2 with
    | some q => q.owner == fn
    | none => false).length

/-- The id, the die and the list range of a sequence, or what the module lacks. -/
def openPlace (d : Dev) (fn : Nat) (b : List Byte) : Except Nat (Nat × Nat × Nat) :=
  let die := openDie d b
  let layers := fieldAt b 4 2
  let full : Bool := match mget none d.host.quota fn with
    | some q => q.2 ≤ seqsOf d fn
    | none => false
  match freeId d 3 65536 (d.attn.seqs.length + d.attn.jobs.length) fun k => (seqOf d k).isNone && jobsNaming d k == [] with
  | none => .error 5
  | some id =>
    if full then .error 5
    else if freePages d die < layers then .error 6
    else
      match lowestRange (listRanges d die) listBase (listEnd d) (layers * strideOf (fieldAt b 12 4 / openTp b)) with
      | none => .error 7
      | some at_ => .ok (id, die, at_)

/-- A sequence opened: its record, its lists with GEN 1, and the first page of each as the first edit (R300). -/
def openSeq (d : Dev) (id : Nat) (q : Seq) : Dev :=
  let d := putSeq d id q
  let d := (List.range q.layers).foldl (fun d l => openList d id l (q.list l)) d
  let t := takePages q.die q.layers d
  pruneAll (((List.range q.layers).zip t.2).foldl (fun d p => editNow d id p.1 [(0, BitVec.ofNat 32 p.2)] none) t.1) q.die

def seqOpenDev (d : Dev) (c : Cmd) : Dev :=
  let b := c.bytes
  if c.dataFailed then finish d c (ends 0x07)
  else if c.dataLen ≠ 64 then finish d c (ends 0x02)
  else
    match openRefusal d b with
    | some k => finish d c { ends k.1 with result := k.2 }
    | none =>
      let d := pruneAll d (openDie d b)
      match openPlace d c.fn b with
      | .error k => finish d c { ends 0x05 with result := k }
      | .ok p =>
        finish (openSeq d p.1 (newSeq c.fn b p.2.1 p.2.2)) c
          { ends 0 with value0 := p.1 + 2 ^ 16 * p.2.1, value1 := openTp b }

def execSeqOpen (cid : Nat) : State → Res := startCmd "SEQ_OPEN" 0x20 anyForm cid seqOpenDev

/-! ### SEQ_CLOSE (R285, R305) -/

/-- A sequence becomes closing, and its final batches are requested. -/
def closeSeq (d : Dev) (id : Nat) : Dev :=
  match seqOf d id with
  | none => d
  | some q =>
    if q.closing then d
    else
      let d := putSeqPart d id { q with closing := true } stateBytes
      let d := { d with attn := { d.attn with poolWait := d.attn.poolWait.filter fun p => p.1 != id } }
      tryFree (pruneAll ((List.range q.layers).foldl (fun d l =>
        addEdit d id l ((List.range (q.list l).entries.length).map fun n => (n, nonePage)) none) d) q.die) id

/-- A sequence belongs to a function. -/
def ownsSeq (d : Dev) (id fn : Nat) : Bool := (seqOf d id).any fun q => q.owner == fn

def seqCloseDev (d : Dev) (c : Cmd) : Dev :=
  if ownsSeq d (c.param 32 2) c.fn then finish (closeSeq d (c.param 32 2)) c (ends 0) else finish d c (ends 0x04)

def execSeqClose (cid : Nat) : State → Res := startCmd "SEQ_CLOSE" 0x21 anyForm cid seqCloseDev

/-! ### PREFIX_LOOKUP (R325) -/

/-- Matched rows attached to every list of a sequence. -/
def attachRows (d : Dev) (id : Nat) (q : Seq) (rows : List Prefix) : Dev :=
  let d := rows.foldl (fun d p => putPrefix d { p with refs := p.refs + 1, used := d.attn.clock + 1 }) d
  let d := { d with attn := { d.attn with clock := d.attn.clock + 1 } }
  if rows = [] then d
  else (List.range q.layers).foldl (fun d l =>
    editNow d id l ((List.range rows.length).map fun n => (n, ((rows.getD n (rows.headD
      { bucket := 0, slot := 0, key := 0, check := 0, refs := 0, die := 0, tpLog2 := 0, layers := 0, page := 0,
        row := 0, rows := [], parent := none, used := 0 })).rows.getD l nonePage))) (some (rows.length * q.tp))) d

/-- Token ids keyed block by block, and matched pages attached. -/
def lookupSeq (d : Dev) (id : Nat) (q : Seq) (toks : List Byte) : Dev × Nat :=
  let blocks := toks.length / 128
  let cs := keyBlocks q.nameSpace blocks [] toks
  let q := { q with chains := cs, toks := [], keyed := 32 * blocks, chain := cs.getLastD 0 }
  let rows := matchRows d q (32 * blocks / q.tp) 0
  let d := readRows q (32 * blocks / q.tp) 0 d
  let q := { q with attached := rows.length }
  (attachRows (putSeqPart d id q keyedBytes) id q rows, rows.length * q.tp)

/-- The edit batches requested from a state to a state that still wait. -/
def editsSince (before after : Dev) : List Edit := after.attn.edits.filter fun e => before.nextId ≤ e.id

/-- A command ends when edit batches have been applied. -/
def endAfter (d : Dev) (c : Cmd) (edits : List Nat) (e : Ends) : Dev :=
  if edits = [] then finish d c e else modCmd d c.cid fun x => { x with edits := edits, held := some e }

/-- A batch has been applied: the commands that waited for it alone end. -/
def editApplied (d : Dev) (id : Nat) : Dev :=
  (d.host.cmds.filter fun c => c.edits.contains id).foldl (fun d c =>
    let c := { c with edits := c.edits.filter (· != id) }
    if c.edits = [] then finish (putCmd d c) c (c.held.getD (ends 0)) else putCmd d c) d

/-- EDIT_BATCH_APPLY (R302, R305, R310). -/
def execEditBatchApply (id : Nat) : State → Res :=
  onDerier "EDIT_BATCH_APPLY" fun d =>
    match d.attn.edits.find? (·.id == id) with
    | none => none
    | some e => if editMay d e then some (editApplied (tryFree (applyPrune d e) e.seq) id) else none

/-- PREFIX_LOOKUP (R325): it completes when the batches that attach the pages have been applied. -/
def prefixLookupDev (d : Dev) (c : Cmd) : Dev :=
  let id := c.param 32 2
  let n := c.param 36 4
  if c.dataFailed then finish d c (ends 0x07)
  else if c.dataLen ≠ 4 * n then finish d c { ends 0x02 with result := 2 }
  else if openFor d id c.fn = false then finish d c (ends 0x04)
  else
    match seqOf d id with
    | none => finish d c (ends 0x04)
    | some q =>
      if n < 1 ∨ q.maxLen < n then finish d c (ends 0x02)
      else if q.pl.any fun l => l.length != 0 then finish d c { ends 0x02 with result := 1 }
      else
        let r := lookupSeq d id q c.bytes
        endAfter r.1 c ((editsSince d r.1).map (·.id)) { ends 0 with value0 := r.2 }

def execPrefixLookup (cid : Nat) : State → Res := startCmd "PREFIX_LOOKUP" 0x22 anyForm cid prefixLookupDev

end Sys2Proof.Machine
end

