-- ==== Sys2Proof/Machine/Manifest.lean ====
section
/-! DEFINITION. Manifests and quantisation (09, R369 to R388): the fields of a manifest, its checks, source values, column
scales and stored weights. -/

namespace Sys2Proof.Machine

open Sys2Proof

/-! ### Fields (R369, R372, R374, R375) -/

def mLength (b : List Byte) : Nat := fieldAt b 8 8
def mModelId (b : List Byte) : Nat := fieldAt b 16 16
def mKeyId (b : List Byte) : Nat := fieldAt b 32 8
def mShards (b : List Byte) : Nat := fieldAt b 40 4
def mPlacements (b : List Byte) : Nat := fieldAt b 44 4
def mShardTable (b : List Byte) : Nat := fieldAt b 48 8
def mPlaceTable (b : List Byte) : Nat := fieldAt b 56 8
def mPinTable (b : List Byte) : Nat := fieldAt b 64 8
def mPins (b : List Byte) : Nat := fieldAt b 72 4
def mFlags (b : List Byte) : Nat := fieldAt b 76 4
def mBaseId (b : List Byte) : Nat := fieldAt b 80 16
def mSigOffset (b : List Byte) : Nat := fieldAt b 96 8
def mSigLength (b : List Byte) : Nat := fieldAt b 104 2

/-- The manifest digest (R370). -/
def mDigest (b : List Byte) : Nat := shake (b.take (mSigOffset b)) 24

/-- A KEY_ID (R371). -/
def keyIdOf (key : List Byte) : Nat := shake key 8

def shardEntry (b : List Byte) (n : Nat) : List Byte := slice b (mShardTable b + 64 * n) 64
def placeEntry (b : List Byte) (k : Nat) : List Byte := slice b (mPlaceTable b + 64 * k) 64
def pinEntry (b : List Byte) (k : Nat) : List Byte := slice b (mPinTable b + 8 * k) 8

/-- A placement entry as the feed uses it. -/
def placementOf (b : List Byte) (k : Nat) : Placement :=
  let e := placeEntry b k
  { index := k, shard := fieldAt e 0 4, srcFmt := fieldAt e 4 1, dstFmt := fieldAt e 5 1,
    transpose := bitAt (fieldAt e 6 1) 0, srcOffset := fieldAt e 8 8, srcStride := fieldAt e 16 4, rows := fieldAt e 20 2,
    cols := fieldAt e 22 2, module := fieldAt e 24 1, stall := 256 * fieldAt e 25 1 + fieldAt e 26 1,
    crib := fieldAt e 27 1, bank := fieldAt e 28 1, group := fieldAt e 32 4,
    scaleDest := BitVec.ofNat 64 (fieldAt e 36 8), srcScale := fieldAt e 44 8,
    pins := (List.range (mPins b)).filterMap fun n =>
      if fieldAt (pinEntry b n) 0 4 = k then some (fieldAt (pinEntry b n) 4 2, fieldAt (pinEntry b n) 6 1) else none,
    scaled := none, claimed := false, done := false }

def shardOf (b : List Byte) (n : Nat) (keep forward : Bool) : Shard :=
  let e := shardEntry b n
  { index := n, codec := fieldAt e 4 1, stored := fieldAt e 8 8, raw := fieldAt e 16 8, hash := fieldAt e 24 32,
    held := none, verified := false, refetches := 0, keep := keep, forward := forward, acks := [] }

/-- Decompressed bytes of the shards before one, and of all of them (R410). -/
def rawBefore (b : List Byte) (n : Nat) : Nat := ((List.range n).map fun k => (shardOf b k true true).raw).sum
def rawTotal (b : List Byte) : Nat := rawBefore b (mShards b)

/-! ### Checks at stage start (R394, R395) -/

/-- Framing. -/
def framed (b : List Byte) : Bool :=
  128 ≤ b.length && fieldAt b 0 4 == 0x464D4B41 && fieldAt b 4 2 == 1 && mLength b == b.length &&
    1 ≤ mSigLength b && mSigLength b ≤ 1280 && 128 ≤ mSigOffset b && mSigOffset b + mSigLength b == mLength b

/-- The HOST data list holds the manifest and every shard at its STORED length (R452). -/
def hostList (b : List Byte) (lens : List Nat) : Bool :=
  lens.length == mShards b + 1 && (List.range (mShards b)).all fun n =>
    lens.getD (n + 1) 0 == fieldAt (shardEntry b n) 8 8

/-- The public key of a table with a KEY_ID. -/
def keyIn (m : Map (Option (List Byte))) (kid : Nat) : Option (List Byte) :=
  m.findSome? fun p => match p.2 with
    | some k => if keyIdOf k = kid then some k else none
    | none => none

/-- The public key of the key table with a KEY_ID. -/
def keyFor (d : Dev) (kid : Nat) : Option (List Byte) := keyIn d.feed.keys kid

/-- A table lies inside the manifest. -/
def tableIn (b : List Byte) (off n size : Nat) : Bool := n == 0 || off + n * size ≤ b.length

/-- Header fields and tables; `adapter` is what FLAGS bit 0 must be. -/
def headerOk (b : List Byte) (adapter : Bool) : Bool :=
  b.length ≤ 2 ^ 28 && zeroAt b 6 2 && zeroAt b 106 22 && mFlags b < 2 && bitAt (mFlags b) 0 == adapter &&
    (adapter || mBaseId b == 0) && 1 ≤ mShards b && mShards b ≤ 65536 && mPlacements b ≤ 2228224 && mPins b ≤ 32768 &&
    tableIn b (mShardTable b) (mShards b) 64 && tableIn b (mPlaceTable b) (mPlacements b) 64 &&
    tableIn b (mPinTable b) (mPins b) 8

def shardOk (b : List Byte) (n : Nat) : Bool :=
  let e := shardEntry b n
  fieldAt e 0 4 == n && fieldAt e 4 1 ≤ 1 && zeroAt e 5 3 && zeroAt e 56 8 && 1 ≤ fieldAt e 8 8 &&
    fieldAt e 8 8 ≤ 2 ^ 28 && 1 ≤ fieldAt e 16 8 && fieldAt e 16 8 ≤ 2 ^ 28 &&
    (fieldAt e 4 1 == 1 || fieldAt e 8 8 == fieldAt e 16 8)

/-- Bytes of a source block and elements in it (R376): MX blocks of 32, else single elements. -/
def srcBlock (fmt : Nat) : Nat := if fmt < 2 then 2 else if fmt = 7 then 17 else if 4 ≤ fmt ∧ fmt < 7 then 33 else 1
def isMx (fmt : Nat) : Bool := 4 ≤ fmt && fmt ≤ 7

/-- Offset of an element in the shard (R377): for an MX block, that of its byte. -/
def srcPlace (p : Placement) (r c : Nat) : Nat :=
  let e := r * p.srcStride + c
  if isMx p.srcFmt then
    p.srcOffset + e / 32 * srcBlock p.srcFmt + 1 + (if p.srcFmt = 7 then e % 32 / 2 else e % 32)
  else p.srcOffset + e * srcBlock p.srcFmt

/-- Every source element and scale lies inside the shard (R379). -/
def sourceOk (b : List Byte) (p : Placement) : Bool :=
  let raw := fieldAt (shardEntry b p.shard) 16 8
  let last := if p.transpose then srcPlace p (p.cols - 1) (p.rows - 1) else srcPlace p (p.rows - 1) (p.cols - 1)
  last + (if isMx p.srcFmt then 1 else srcBlock p.srcFmt) ≤ raw &&
    (p.srcFmt != 8 || p.srcScale + 4 * p.cols ≤ raw)

/-- SCALE_DEST (R383): a range of the placement's own module in a buffer, or in a software part of DRAM. -/
def scaleDestOk (d : Dev) (p : Placement) : Bool :=
  let a := p.scaleDest
  gModule a == p.module && gReservedOk a &&
    (if gSpace a = 0 then gBuf a != 3 && gOff a + 4096 ≤ bufSize (gBuf a)
     else if gSpace a = 1 then 8 * homeSplit d ≤ gOff a && gOff a + 4096 ≤ reserveBase d
     else if gSpace a = 5 then
       (let o := gOff a % stackSize
        homeSplit d - homeSw d ≤ o && o + 4096 ≤ homeSplit d && gOff a < 2 * stackSize)
     else false)

/-- A placement entry within its own limits. -/
def placementOk (d : Dev) (b : List Byte) (p : Placement) : Bool :=
  let e := placeEntry b p.index
  p.shard < mShards b && p.srcFmt ≤ 8 && p.dstFmt ≤ 2 && fieldAt e 6 1 < 2 && zeroAt e 7 1 && zeroAt e 29 3 &&
    zeroAt e 52 12 && 1 ≤ p.rows && p.rows ≤ 1024 && 1 ≤ p.cols && p.cols ≤ 1024 && fieldAt e 25 1 < 4 &&
    p.crib < 16 && p.bank < 2 && (!isMx p.srcFmt || p.srcStride % 32 == 0) && sourceOk b p && scaleDestOk d p

/-- The members of a placement's scale group (R380). -/
def groupOf (ps : List Placement) (p : Placement) : List Placement :=
  if p.group = 0xFFFFFFFF then [p] else ps.filter fun q => q.group == p.group

def groupOk (ps : List Placement) (p : Placement) : Bool :=
  (groupOf ps p).all fun q => q.module == p.module && q.cols == p.cols && q.dstFmt == p.dstFmt

/-- A pin entry names a placement, and where that is one of `mine` it lies within its limits (R375, R394). -/
def pinOk (b : List Byte) (mine : List Placement) (n : Nat) : Bool :=
  let e := pinEntry b n
  fieldAt e 0 4 < mPlacements b && ((mine.any fun p => p.index == fieldAt e 0 4) == false ||
    (fieldAt e 4 2 < 1024 && fieldAt e 6 1 < 64 && zeroAt e 7 1))

/-- Every placement of a manifest. -/
def placements (b : List Byte) : List Placement := (List.range (mPlacements b)).map (placementOf b)

/-- The target bank of a placement, by physical crib. -/
def targetKey (d : Dev) (p : Placement) : Nat := bankKey p.stall (physOf d p.stall p.crib) p.bank

/-- Programmings a bank bears (R128). -/
def bankWorn (b : Bank) : Bool := 200000000 ≤ b.wear.toNat

/-- The bank belongs to a Staged model whose activation has been accepted: the epoch that names it Live is still to be
requested, and no stage may claim the bank before it (R85, DESIGN CHOICE, log 51). -/
def activating (d : Dev) (p : Placement) : Bool :=
  d.feed.models.any fun m => m.state == .staged && m.busy && m.placements.any fun q =>
    q.module == p.module && q.stall == p.stall && q.crib == p.crib && q.bank == p.bank

/-- The rules of R395 for a target bank, wear apart; a retired stall's banks are never Ready (R543). -/
def bankFree (d : Dev) (mine : List Placement) (p : Placement) : Bool :=
  let s := (bankOf d (targetKey d p)).state
  (s == .empty || s == .ready || s == .stale) && !activating d p && !(stallOf d p.stall).gone &&
    (mine.filter fun q => q.stall == p.stall && q.crib == p.crib && q.bank == p.bank).length == 1

/-- Pin entries of a stall after the stage. -/
def pinsAfter (d : Dev) (mine : List Placement) (st : Nat) : Nat :=
  (((stallOf d st).pins.filter fun e => match e.2 with
    | some x => mine.all fun p => p.stall != st || p.crib != x.crib || p.bank != x.bank
    | none => false)).length + ((mine.filter fun p => p.stall == st).map fun p => p.pins.length).sum

/-- The base model of an adapter is Staged or Active. -/
def baseKnown (d : Dev) (b : List Byte) : Bool :=
  d.feed.models.any fun m => m.modelId == mBaseId b && (m.state == .staged || m.state == .active)

/-- An adapter's manifest places nothing, and its base model is known (R409). -/
def adapterOnly (d : Dev) (b : List Byte) : Bool := mPlacements b == 0 && mPins b == 0 && baseKnown d b

/-- The placements that this module takes (R498). -/
def servedPlacements (d : Dev) (ps : List Placement) : List Placement := ps.filter fun p => served d == some p.module

/-- The checks of stage start from the key on, in order: the code of R405. `held` is the key table at acceptance (R452). -/
def manifestResult (d : Dev) (held : Map (Option (List Byte))) (b : List Byte) (adapter : Bool) : Option Nat :=
  match (keyIn held (mKeyId b)).orElse fun _ => keyFor d (mKeyId b) with
  | none => some 2
  | some k =>
    let ps := placements b
    let mine := servedPlacements d ps
    if falconOk k (b.take (mSigOffset b)) (slice b (mSigOffset b) (mSigLength b)) = false then some 1
    else if headerOk b adapter = false ∨ (List.range (mShards b)).any (fun n => !shardOk b n) ∨
        (adapter ∧ adapterOnly d b = false) ∨
        (follower d = false ∧ ps.any fun p => !(memberIndices d).contains p.module) ∨
        mine.any (fun p => !placementOk d b p || !groupOk ps p) ∨
        (List.range (mPins b)).any (fun n => !pinOk b mine n) then some 3
    else if mine.any fun p => bankWorn (bankOf d (targetKey d p)) then some 5
    else if mine.any fun p => !bankFree d mine p then some 4
    else if mine.any fun p => 32 < pinsAfter d mine p.stall then some 6
    else none

/-! ### Source values (R376 to R378) -/

/-- The element type codes of `mxValue` for source formats 4 to 7. -/
def mxType (fmt : Nat) : Nat := fmt + 4

/-- The exact value of the source element of crib row i and output j. -/
def srcValue (p : Placement) (raw : List Byte) (i j : Nat) : FVal :=
  let r := if p.transpose then j else i
  let c := if p.transpose then i else j
  let o := srcPlace p r c
  if p.srcFmt = 0 then fdecode bf16 (fieldAt raw o 2)
  else if p.srcFmt = 1 then fdecode fp16 (fieldAt raw o 2)
  else if p.srcFmt = 2 then fdecode e4m3 (fieldAt raw o 1)
  else if p.srcFmt = 3 then fdecode e5m2 (fieldAt raw o 1)
  else if p.srcFmt = 8 then
    vmulv (ofInt (signedOf 8 (fieldAt raw o 1))) (fdecode fp32 (fieldAt raw (p.srcScale + 4 * j) 4))
  else
    let e := r * p.srcStride + c
    let byte := fieldAt raw o 1
    let el := if p.srcFmt = 7 then (if e % 2 = 0 then byte % 16 else byte / 16) else byte
    mxValue (mxType p.srcFmt) (fieldAt raw (p.srcOffset + e / 32 * srcBlock p.srcFmt) 1) el

/-- The magnitudes of column j over a group's rows; none where a value is no number. -/
def columnMags (ms : List (Placement × List Byte)) (j : Nat) : Option (List Mag) :=
  (ms.flatMap fun m => (List.range m.1.rows).map fun i => srcValue m.1 m.2 i j).mapM fun v => match v with
    | .fin _ x => some x
    | _ => none

/-! ### Quantisation (R380 to R382) -/

/-- A sum of magnitudes whose denominators are powers of two. -/
def magSum (ms : List Mag) : Mag :=
  let den := ms.foldl (fun m x => max m x.den) 1
  { num := (ms.map fun x => x.num * (den / x.den)).sum, den := den }

def magMax (ms : List Mag) : Mag := ms.foldl (fun a m => if magLt a m then m else a) { num := 0, den := 1 }

/-- A magnitude over a whole number. -/
def magOver (a : Mag) (n : Nat) : Mag := { num := a.num, den := a.den * n }

/-- Δ_j of W2: 0.7 × the mean magnitude. -/
def w2Delta (ms : List Mag) : Mag := { num := (magSum ms).num * 7, den := (magSum ms).den * (10 * max 1 ms.length) }

/-- The exact quotient that σ_j rounds; zero where R382 gives σ_j zero. -/
def scaleQuot (dst : Nat) (ms : List Mag) : Mag :=
  if dst = 0 then magOver (magMax ms) 112
  else if dst = 1 then magOver (magMax ms) 7
  else
    let big := ms.filter fun m => magLt (w2Delta ms) m
    if big = [] then { num := 0, den := 1 } else magOver (magOver (magSum big) big.length) 7

/-- σ_j as FP32 bits; none where it cannot be held (R382). -/
def columnScale (dst : Nat) (ms : List Mag) : Option Nat :=
  let q := scaleQuot dst ms
  if q.num = 0 then some 0
  else
    let s := fround fp32 false false (.fin false q)
    if s = 0 ∨ s = fp32.top + 1 then none else some s

/-- The stored weight of a value in a column with scale σ and, for W2, Δ (R381). -/
def storedBy (dst s : Nat) (delta : Mag) (v : FVal) : Int :=
  match v with
  | .fin neg m =>
    if s = 0 then 0
    else if dst = 2 then (if magLt delta m then (if neg then -7 else 7) else 0)
    else
      let top : Int := if dst = 0 then 112 else 7
      let n : Int := match fdecode fp32 s with
        | .fin _ d => if d.num = 0 then 0 else (roundMag false (magDiv m d) : Int)
        | _ => 0
      max (-top) (min top (if neg then -n else n))
  | _ => 0

/-- The stored weight of a value in a column with scale σ, of the magnitudes of its group's column. -/
def storedWeight (dst s : Nat) (ms : List Mag) (v : FVal) : Int := storedBy dst s (w2Delta ms) v

/-- The columns of a group: σ, and Δ as numerator and denominator (0 over 1 but for W2); none where the shard fails with
FORMAT. -/
def groupColumns (ms : List (Placement × List Byte)) (dst cols : Nat) : Option (List (Nat × Nat × Nat)) :=
  (List.range cols).mapM fun j =>
    match columnMags ms j with
    | none => none
    | some v => (columnScale dst v).map fun s => if dst = 2 then (s, (w2Delta v).num, (w2Delta v).den) else (s, 0, 1)

/-- The 1 MiB image of a placement (R384, step 2): byte 1,024i + j. -/
def imageOf (p : Placement) (raw : List Byte) (cols : List (Nat × Nat × Nat)) : List Byte :=
  (List.range 1024).flatMap fun i => (List.range 1024).map fun j =>
    if i < p.rows ∧ j < p.cols then
      (match (cols.drop j).head? with
        | some c => BitVec.ofInt 8 (storedBy p.dstFmt c.1 { num := c.2.1, den := c.2.2 } (srcValue p raw i j))
        | none => 0)
    else 0

/-- The 1,024 column scales (R383). -/
def scaleBytes (cols : List (Nat × Nat × Nat)) : List Byte :=
  (List.range 1024).flatMap fun j => toLe 4 (((cols.drop j).head?.map (·.1)).getD 0)

/-- The tag of a placement (R387). -/
def tagOf (digest : Nat) (p : Placement) : BitVec 256 :=
  BitVec.ofNat 256 (digest + 2 ^ 192 * p.index + 2 ^ 224 * p.dstFmt + 2 ^ 232)

/-- A tag is valid: VERSION is 1 and DIGEST is not all zero (R387). -/
def tagValid (t : BitVec 256) : Bool := bitsOf t.toNat 239 232 == 1 && bitsOf t.toNat 191 0 != 0

end Sys2Proof.Machine
end

