-- ==== Sys2Proof/Machine/Zstd.lean ====
section
/-! DEFINITION. Zstandard decompression as RFC 8878 defines it, within the limits of R373: frames one after another, a
window of at most 8 MiB, no dictionary, content checksums checked, skippable frames skipped. -/

namespace Sys2Proof.Machine

open Sys2Proof

/-! ### XXH64, the content checksum -/

def xxP1 : Nat := 11400714785074694791
def xxP2 : Nat := 14029467366897019727
def xxP3 : Nat := 1609587929392839161
def xxP4 : Nat := 9650029242287828579
def xxP5 : Nat := 2870177450012600261

def xxRound (acc lane : Nat) : Nat := rotLane ((acc + lane * xxP2) % 2 ^ 64) 31 * xxP1 % 2 ^ 64

/-- The four accumulators after n stripes of 32 bytes. -/
def xxStripes : Nat → List Nat → List Byte → List Nat
  | 0, vs, _ => vs
  | n + 1, vs, bs => xxStripes n (vs.mapIdx fun k v => xxRound v (fieldAt bs (8 * k) 8)) (bs.drop 32)

def xxMerge (acc v : Nat) : Nat := ((acc ^^^ xxRound 0 v) * xxP1 + xxP4) % 2 ^ 64

/-- The accumulator after the bytes beyond the last stripe. -/
def xxTail : Nat → Nat → List Byte → Nat
  | 0, acc, _ => acc
  | fuel + 1, acc, bs =>
    if 8 ≤ bs.length then
      xxTail fuel ((rotLane (acc ^^^ xxRound 0 (fieldAt bs 0 8)) 27 * xxP1 + xxP4) % 2 ^ 64) (bs.drop 8)
    else if 4 ≤ bs.length then
      xxTail fuel ((rotLane (acc ^^^ (fieldAt bs 0 4 * xxP1 % 2 ^ 64)) 23 * xxP2 + xxP3) % 2 ^ 64) (bs.drop 4)
    else
      match bs with
      | [] => acc
      | b :: r => xxTail fuel (rotLane (acc ^^^ (b.toNat * xxP5 % 2 ^ 64)) 11 * xxP1 % 2 ^ 64) r

/-- XXH64 with seed 0. -/
def xxh64 (bs : List Byte) : Nat :=
  let vs := xxStripes (bs.length / 32) [(xxP1 + xxP2) % 2 ^ 64, xxP2, 0, 2 ^ 64 - xxP1] bs
  let acc := if bs.length < 32 then xxP5 else
    vs.foldl xxMerge ((rotLane (vs.getD 0 0) 1 + rotLane (vs.getD 1 0) 7 + rotLane (vs.getD 2 0) 12 +
      rotLane (vs.getD 3 0) 18) % 2 ^ 64)
  let a := xxTail 40 ((acc + bs.length) % 2 ^ 64) (bs.drop (bs.length / 32 * 32))
  let a := (a ^^^ a >>> 33) * xxP2 % 2 ^ 64
  let a := (a ^^^ a >>> 29) * xxP3 % 2 ^ 64
  a ^^^ a >>> 32

/-! ### Bit streams -/

/-- A stream read backward: from the highest bit of the last byte, after the padding and the first one bit. -/
def backBits (bs : List Byte) : Option (List Bool) :=
  match (bitsOfBytes bs.reverse).dropWhile (· == false) with
  | [] => none
  | _ :: l => if 8 ≤ (bitsOfBytes bs.reverse).length - l.length - 1 then none else some l

/-- The next n bits of a backward stream as a number, zeros beyond its end. -/
def peekBack (l : List Bool) (n : Nat) : Nat := natOfBits (l.take n ++ List.replicate (n - l.length) false)

/-- The bits of a stream read forward: from bit 0 of the first byte. -/
def foreBits (bs : List Byte) : List Bool := bs.flatMap fun b => (List.range 8).map fun k => b.getLsbD k

/-- The next n bits of a forward stream. -/
def readFore (l : List Bool) (n : Nat) : Nat := natOfBits (l.take n).reverse

/-! ### FSE tables -/

/-- One state of a decoding table: symbol, bits to read, and what is added to them. -/
structure FseState where
  sym : Nat
  bits : Nat
  base : Nat
  deriving DecidableEq, Repr

/-- A decoding table: its accuracy log and its states. -/
structure FseTable where
  log : Nat
  states : List FseState
  deriving DecidableEq, Repr

def FseTable.at (t : FseTable) (k : Nat) : FseState := t.states.getD k { sym := 0, bits := 0, base := 0 }

/-- Zero-probability repeats: two bits at a time, until fewer than three. -/
def zeroRuns : Nat → List Bool → List Int → List Bool × List Int
  | 0, l, ps => (l, ps)
  | fuel + 1, l, ps =>
    let r := readFore l 2
    let ps := ps ++ List.replicate r 0
    if r = 3 then zeroRuns fuel (l.drop 2) ps else (l.drop 2, ps)

/-- The normalised probabilities of a table description: the bits after it, and the probabilities. -/
def fseProbs (maxSym : Nat) : Nat → Nat → List Bool → List Int → Option (List Bool × List Int)
  | 0, _, _, _ => none
  | fuel + 1, left, l, ps =>
    if left = 0 then (if ps.length ≤ maxSym + 1 then some (l, ps) else none)
    else if maxSym < ps.length ∨ l = [] then none
    else
      let n := Nat.log2 (left + 1) + 1
      let v := readFore l n
      let low := v % 2 ^ (n - 1)
      let small := 2 ^ n - 2 - left
      let r : Nat × Nat := if low < small then (low, n - 1) else (if 2 ^ (n - 1) ≤ v then v - small else v, n)
      let p : Int := (r.1 : Int) - 1
      let used : Nat := if r.1 = 0 then 1 else r.1 - 1
      if left < used then none
      else if r.1 = 1 then
        let z := zeroRuns 100 (l.drop r.2) (ps ++ [0])
        fseProbs maxSym fuel left z.1 z.2
      else fseProbs maxSym fuel (left - used) (l.drop r.2) (ps ++ [p])

/-- The next position of the spread that is not taken from the top. -/
def spreadNext (size high : Nat) : Nat → Nat → Nat
  | 0, p => p
  | fuel + 1, p =>
    let p := (p + size / 2 + size / 8 + 3) % size
    if high ≤ p then spreadNext size high fuel p else p

/-- A symbol put at its positions. -/
def spreadSym (size high sym : Nat) : Nat → Nat × Map (Option Nat) → Nat × Map (Option Nat)
  | 0, r => r
  | n + 1, r => spreadSym size high sym n (spreadNext size high size r.1, mput none r.2 r.1 (some sym))

/-- The decoding table of normalised probabilities. -/
def fseTable (log : Nat) (ps : List Int) : FseTable :=
  let size := 2 ^ log
  let rare := (List.range ps.length).filter fun s => ps.getD s 0 == -1
  let high := size - rare.length
  let top : Map (Option Nat) := (List.range rare.length).foldl
    (fun m k => mput none m (size - 1 - k) (some (rare.getD k 0))) []
  let syms := ((List.range ps.length).foldl (fun r s => spreadSym size high s (ps.getD s 0).toNat r) (0, top)).2
  let states := (List.range size).foldl (fun (r : List FseState × Map Nat) k =>
    let s := (mget none syms k).getD 0
    let next := max (ps.getD s 0).natAbs 1 + mget 0 r.2 s
    let nb := log - Nat.log2 next
    (r.1 ++ [{ sym := s, bits := nb, base := next * 2 ^ nb - size }], mput 0 r.2 s (mget 0 r.2 s + 1))) ([], [])
  { log := log, states := states.1 }

/-- A table description: the table and how many bytes it takes. -/
def readFse (maxLog maxSym : Nat) (bs : List Byte) : Option (FseTable × Nat) :=
  let l := foreBits bs
  let log := readFore l 4 + 5
  if maxLog < log ∨ l.length < 4 then none
  else
    (fseProbs maxSym 600 (2 ^ log) (l.drop 4) []).map fun r =>
      (fseTable log r.2, (l.length - r.1.length + 7) / 8)

/-! ### Huffman-coded literals -/

/-- The weights that two interleaved states give, until a read runs beyond the stream. -/
def weightsFrom (t : FseTable) : Nat → List Bool → Nat → Nat → List Nat
  | 0, _, _, _ => []
  | fuel + 1, l, s, o =>
    let e := t.at s
    if l.length < e.bits then [e.sym, (t.at o).sym]
    else e.sym :: weightsFrom t fuel (l.drop e.bits) o (e.base + peekBack l e.bits)

/-- A decoding table of literals: the longest code and, for each value of that many bits, symbol and length. -/
structure HufTable where
  bits : Nat
  codes : List (Nat × Nat)
  deriving DecidableEq, Repr

/-- The table of the weights, the last of which is implied. -/
def hufTable (ws : List Nat) : Option HufTable :=
  let sum := (ws.map fun w => if w = 0 then 0 else 2 ^ (w - 1)).sum
  let n := Nat.log2 sum + 1
  let left := 2 ^ n - sum
  if sum = 0 ∨ 11 < n ∨ 255 < ws.length ∨ left ≠ 2 ^ Nat.log2 left then none
  else
    let ws := ws ++ [Nat.log2 left + 1]
    some { bits := n, codes := (List.range n).flatMap fun k =>
      (List.range ws.length).flatMap fun s =>
        if ws.getD s 0 = k + 1 then List.replicate (2 ^ k) (s, n - k) else [] }

/-- A tree description: the table and how many bytes it takes. -/
def readHuf (bs : List Byte) : Option (HufTable × Nat) :=
  let h := fieldAt bs 0 1
  if bs = [] then none
  else if 128 ≤ h then
    let n := h - 127
    let raw := slice bs 1 ((n + 1) / 2)
    if raw.length < (n + 1) / 2 then none
    else (hufTable ((List.range n).map fun k =>
      bitsOf (fieldAt raw (k / 2) 1) (if k % 2 = 0 then 7 else 3) (if k % 2 = 0 then 4 else 0))).map (·, 1 + (n + 1) / 2)
  else
    let raw := slice bs 1 h
    if raw.length < h then none
    else
      (readFse 6 255 raw).bind fun t => (backBits (raw.drop t.2)).bind fun l =>
        if l.length < 2 * t.1.log then none
        else (hufTable (weightsFrom t.1 256 (l.drop (2 * t.1.log)) (peekBack l t.1.log)
          (peekBack (l.drop t.1.log) t.1.log))).map (·, 1 + h)

/-- n literals of one stream, which they use up. -/
def hufStream (t : HufTable) : Nat → List Bool → Option (List Byte)
  | 0, l => if l = [] then some [] else none
  | n + 1, l =>
    let e := t.codes.getD (peekBack l t.bits) (0, 0)
    if l.length < e.2 then none else (hufStream t n (l.drop e.2)).map (BitVec.ofNat 8 e.1 :: ·)

/-- The literals of one stream or of four. -/
def hufLiterals (t : HufTable) (four : Bool) (n : Nat) (bs : List Byte) : Option (List Byte) :=
  if four = false then (backBits bs).bind (hufStream t n)
  else
    let part := (n + 3) / 4
    let a := fieldAt bs 0 2
    let b := fieldAt bs 2 2
    let c := fieldAt bs 4 2
    if bs.length < 6 + a + b + c ∨ n < 3 * part then none
    else
      let run (m off len : Nat) : Option (List Byte) := (backBits (slice bs off len)).bind (hufStream t m)
      (run part 6 a).bind fun x => (run part (6 + a) b).bind fun y => (run part (6 + a + b) c).bind fun z =>
        (run (n - 3 * part) (6 + a + b + c) (bs.length - 6 - a - b - c)).map fun w => x ++ y ++ z ++ w

/-- What a frame keeps from block to block: the tables of literals, literal lengths, offsets and match lengths, and the
three repeated offsets. -/
structure ZState where
  huf : Option HufTable
  ll : Option FseTable
  off : Option FseTable
  ml : Option FseTable
  reps : List Nat
  /-- What the frame has given so far, last byte first. -/
  out : List Byte
  deriving DecidableEq, Repr

/-- A literals section: the literals, the table kept, and the bytes it takes. -/
def zLiterals (h : Option HufTable) (bs : List Byte) : Option (List Byte × Option HufTable × Nat) :=
  let b := fieldAt bs 0 1
  let kind := b % 4
  let fmt := b / 4 % 4
  if bs = [] then none
  else if kind < 2 then
    let hs := if fmt % 2 = 0 then 1 else if fmt = 1 then 2 else 3
    let n := fieldAt bs 0 hs / (if fmt % 2 = 0 then 8 else 16)
    let raw := if kind = 0 then slice bs hs n else List.replicate n ((slice bs hs 1).headD 0)
    if bs.length < hs + (if kind = 0 then n else 1) ∨ 0x20000 < n then none
    else some (raw, h, hs + if kind = 0 then n else 1)
  else
    let hs := if fmt < 2 then 3 else if fmt = 2 then 4 else 5
    let w := if fmt < 2 then 10 else if fmt = 2 then 14 else 18
    let v := fieldAt bs 0 hs / 16
    let n := v % 2 ^ w
    let size := v / 2 ^ w
    let raw := slice bs hs size
    if bs.length < hs + size ∨ 0x20000 < n then none
    else
      (if kind = 2 then readHuf raw else h.map (·, 0)).bind fun t =>
        (hufLiterals t.1 (fmt != 0) n (raw.drop t.2)).map fun l => (l, some t.1, hs + size)

/-! ### Sequences -/

def llDefault : List Int :=
  [4, 3, 2, 2, 2, 2, 2, 2, 2, 2, 2, 2, 2, 1, 1, 1, 2, 2, 2, 2, 2, 2, 2, 2, 2, 3, 2, 1, 1, 1, 1, 1, -1, -1, -1, -1]
def mlDefault : List Int :=
  [1, 4, 3, 2, 2, 2, 2, 2, 2] ++ List.replicate 37 1 ++ List.replicate 7 (-1)
def offDefault : List Int := [1, 1, 1, 1, 1, 1, 2, 2, 2] ++ List.replicate 15 1 ++ List.replicate 5 (-1)

/-- Base and extra bits of a literal length code, and of a match length code. -/
def llCode (c : Nat) : Nat × Nat :=
  if c < 16 then (c, 0)
  else ([(16, 1), (18, 1), (20, 1), (22, 1), (24, 2), (28, 2), (32, 3), (40, 3), (48, 4), (64, 6), (128, 7), (256, 8),
    (512, 9), (1024, 10), (2048, 11), (4096, 12), (8192, 13), (16384, 14), (32768, 15), (65536, 16)] : List (Nat × Nat)).getD
      (c - 16) (0, 0)
def mlCode (c : Nat) : Nat × Nat :=
  if c < 32 then (c + 3, 0)
  else ([(35, 1), (37, 1), (39, 1), (41, 1), (43, 2), (47, 2), (51, 3), (59, 3), (67, 4), (83, 4), (99, 5), (131, 7),
    (259, 8), (515, 9), (1027, 10), (2051, 11), (4099, 12), (8195, 13), (16387, 14), (32771, 15), (65539, 16)] :
      List (Nat × Nat)).getD (c - 32) (0, 0)

/-- The table of a mode: predefined, one symbol, described, or the one before; with the bytes it takes. -/
def seqTable (mode maxLog maxSym dfltLog : Nat) (dflt : List Int) (kept : Option FseTable) (bs : List Byte) :
    Option (FseTable × Nat) :=
  if mode = 0 then some (fseTable dfltLog dflt, 0)
  else if mode = 1 then
    (bs.head?).bind fun b => if maxSym < b.toNat then none
      else some ({ log := 0, states := [{ sym := b.toNat, bits := 0, base := 0 }] }, 1)
  else if mode = 2 then readFse maxLog maxSym bs
  else kept.map (·, 0)

/-- The repeated offsets and the offset after an offset value, by whether the literal length is zero. -/
def nextReps (v : Nat) (noLits : Bool) (reps : List Nat) : Option (List Nat × Nat) :=
  let r1 := reps.getD 0 0
  let r2 := reps.getD 1 0
  let r3 := reps.getD 2 0
  if 3 < v then some ([v - 3, r1, r2], v - 3)
  else
    let k := if noLits then v + 1 else v
    if k = 1 then some (reps, r1)
    else if k = 2 then some ([r2, r1, r3], r2)
    else if k = 3 then some ([r3, r1, r2], r3)
    else if r1 ≤ 1 then none
    else some ([r1 - 1, r1, r2], r1 - 1)

/-- n bytes copied from an offset back; `out` is last byte first. -/
def copyBack (off : Nat) : Nat → List Byte → List Byte
  | 0, out => out
  | n + 1, out => copyBack off n (out.getD (off - 1) 0 :: out)

/-- The sequences of a block, executed: the three states, the bits left, the literals left. -/
def runSeqs (window : Nat) (ll off ml : FseTable) :
    Nat → List Bool → Nat → Nat → Nat → List Byte → ZState → Option (List Bool × List Byte × ZState)
  | 0, l, _, _, _, lits, z => some (l, lits, z)
  | n + 1, l, a, o, m, lits, z =>
    let oc := (off.at o).sym
    let mc := mlCode (ml.at m).sym
    let lc := llCode (ll.at a).sym
    let ov := 2 ^ oc + peekBack l oc
    let l1 := l.drop oc
    let mlen := mc.1 + peekBack l1 mc.2
    let l2 := l1.drop mc.2
    let llen := lc.1 + peekBack l2 lc.2
    let l3 := l2.drop lc.2
    if l.length < oc + mc.2 + lc.2 ∨ lits.length < llen then none
    else
      (nextReps ov (llen == 0) z.reps).bind fun r =>
        let out := (lits.take llen).reverse ++ z.out
        if out.length < r.2 ∨ window < r.2 ∨ r.2 = 0 then none
        else
          let z := { z with reps := r.1, out := copyBack r.2 mlen out }
          if n = 0 then some (l3, lits.drop llen, z)
          else
            let la := (ll.at a).bits
            let lm := (ml.at m).bits
            let lo := (off.at o).bits
            if l3.length < la + lm + lo then none
            else
              let l4 := l3.drop la
              let l5 := l4.drop lm
              runSeqs window ll off ml n (l5.drop lo) ((ll.at a).base + peekBack l3 la) ((off.at o).base + peekBack l5 lo)
                ((ml.at m).base + peekBack l4 lm) (lits.drop llen) z

/-- The number of sequences, and the bytes it takes. -/
def seqCount (bs : List Byte) : Nat × Nat :=
  let b := fieldAt bs 0 1
  if b < 128 then (b, 1)
  else if b < 255 then ((b - 128) * 256 + fieldAt bs 1 1, 2)
  else (fieldAt bs 1 2 + 0x7F00, 3)

/-- A compressed block. -/
def zBlock (window : Nat) (z : ZState) (bs : List Byte) : Option ZState :=
  (zLiterals z.huf bs).bind fun t =>
    let z := { z with huf := t.2.1 }
    let s := bs.drop t.2.2
    let c := seqCount s
    if s.length < c.2 then none
    else if c.1 = 0 then (if s.length = c.2 then some { z with out := t.1.reverse ++ z.out } else none)
    else
      let modes := fieldAt s c.2 1
      let r := s.drop (c.2 + 1)
      if modes % 4 ≠ 0 ∨ s.length < c.2 + 1 then none
      else
        (seqTable (modes / 64) 9 35 6 llDefault z.ll r).bind fun ll =>
          let r := r.drop ll.2
          (seqTable (modes / 16 % 4) 8 31 5 offDefault z.off r).bind fun off =>
            let r := r.drop off.2
            (seqTable (modes / 4 % 4) 9 52 6 mlDefault z.ml r).bind fun ml =>
              (backBits (r.drop ml.2)).bind fun l =>
                let la := ll.1.log
                let lo := off.1.log
                let lm := ml.1.log
                if l.length < la + lo + lm then none
                else
                  let z := { z with ll := some ll.1, off := some off.1, ml := some ml.1 }
                  (runSeqs window ll.1 off.1 ml.1 c.1 (l.drop (la + lo + lm)) (peekBack l la) (peekBack (l.drop la) lo)
                    (peekBack (l.drop (la + lo)) lm) t.1 z).bind fun e =>
                      if e.1 = [] then some { e.2.2 with out := e.2.1.reverse ++ e.2.2.out } else none

/-! ### Frames -/

/-- The blocks of a frame: what is left after the last, and the state. -/
def zBlocks (window : Nat) : Nat → ZState → List Byte → Option (ZState × List Byte)
  | 0, _, _ => none
  | fuel + 1, z, bs =>
    let h := fieldAt bs 0 3
    let kind := h / 2 % 4
    let size := h / 8
    let most := min window 0x20000
    let used := if kind = 1 then 1 else size
    let body := slice bs 3 used
    if bs.length < 3 + used ∨ kind = 3 ∨ most < size then none
    else
      (if kind = 0 then some { z with out := body.reverse ++ z.out }
       else if kind = 1 then some { z with out := List.replicate size (body.headD 0) ++ z.out }
       else zBlock window z body).bind fun y =>
        if most < y.out.length - z.out.length then none
        else if h % 2 = 1 then some (y, bs.drop (3 + used))
        else zBlocks window fuel y (bs.drop (3 + used))

/-- One frame after its magic number: what it gives, and the bytes after it. -/
def zFrame (bs : List Byte) : Option (List Byte × List Byte) :=
  let d := fieldAt bs 0 1
  let single := bitsOf d 5 5 == 1
  let wl := if single then 0 else 1
  let dl := [0, 1, 2, 4].getD (d % 4) 0
  let fl := if d / 64 = 0 then (if single then 1 else 0) else 2 ^ (d / 64)
  let wd := fieldAt bs 1 1
  let size := fieldAt bs (1 + wl + dl) fl + if fl = 2 then 256 else 0
  let window := if single then size else 2 ^ (10 + wd / 8) + 2 ^ (10 + wd / 8) / 8 * (wd % 8)
  if bs.length < 1 + wl + dl + fl ∨ bitsOf d 3 3 = 1 ∨ fieldAt bs (1 + wl) dl ≠ 0 ∨ 0x800000 < window then none
  else
    (zBlocks window bs.length { huf := none, ll := none, off := none, ml := none, reps := [1, 4, 8], out := [] }
      (bs.drop (1 + wl + dl + fl))).bind fun r =>
        let out := r.1.out.reverse
        if 0 < fl ∧ out.length ≠ size then none
        else if bitsOf d 2 2 = 1 then
          (if 4 ≤ r.2.length ∧ fieldAt r.2 0 4 = xxh64 out % 2 ^ 32 then some (out, r.2.drop 4) else none)
        else some (out, r.2)

/-- Frames one after another. -/
def zFrames : Nat → List Byte → Option (List Byte)
  | 0, bs => if bs = [] then some [] else none
  | fuel + 1, bs =>
    if bs = [] then some []
    else
      let m := fieldAt bs 0 4
      if bs.length < 5 then none
      else if m / 16 = 0x184D2A5 then
        (if bs.length < 8 + fieldAt bs 4 4 then none else zFrames fuel (bs.drop (8 + fieldAt bs 4 4)))
      else if m = 0xFD2FB528 then
        (zFrame (bs.drop 4)).bind fun r => (zFrames fuel r.2).map (r.1 ++ ·)
      else none

/-- The content of one or more frames (R373); none when one breaks the limits, or a checksum fails. -/
def zstd (bs : List Byte) : Option (List Byte) := if bs = [] then none else zFrames bs.length bs

end Sys2Proof.Machine
end

