-- ==== Sys2Proof/Machine/Feed.lean ====
section
/-! DEFINITION. The weight feed (09, R384 to R410): stages, shards, programming, and the commands for models, keys and
adapters. -/

namespace Sys2Proof.Machine

open Sys2Proof

/-! ### Records and stages -/

def setFeed (d : Dev) (f : Feed) : Dev := { d with feed := f }

def putModel (d : Dev) (m : Model) : Dev :=
  setFeed d { d.feed with models := d.feed.models.map fun x => if x.id = m.id then m else x }

def dropModel (d : Dev) (id : Nat) : Dev := setFeed d { d.feed with models := d.feed.models.filter fun x => x.id != id }

/-- The stage that runs or is next, first in the queue (R393). -/
def headStage (d : Dev) : Option Stage := d.feed.stages.head?

def putStage (d : Dev) (s : Stage) : Dev :=
  setFeed d { d.feed with stages := d.feed.stages.map fun x => if x.model = s.model then s else x }

/-- VALUE1 of MODEL_STAGE (R452). -/
def stageValue1 (s : Stage) (code : Nat) : Nat :=
  if code = 0 ∨ code = 0x0C then 0xFFFFFFFF
  else
    let own := s.results.filter fun p => p.2 != 0 && p.2 != 0x0B
    (own.foldl (fun m p => some (min p.1 (m.getD p.1))) none).getD 0

/-- The result that a stage reports: that of the lowest module whose own failure failed it; MEMBER where only a standby
failed (R498). -/
def stageCode (s : Stage) : Nat :=
  match s.results.find? fun p => p.2 == 0x0C with
  | some _ => 0x0C
  | none =>
    let own := s.results.filter fun p => p.1 < 64 && p.2 != 0 && p.2 != 0x0B
    match own.foldl (fun (m : Option (Nat × Nat)) p => some (match m with
        | none => p
        | some q => if p.1 < q.1 then p else q)) none with
    | some p => p.2
    | none => if s.results.any fun p => p.2 != 0 then 0x0B else 0

/-- Banks that a stage left in Loading become Empty (R85, R398). -/
def abandonBanks (d : Dev) : Dev :=
  { d with banks := d.banks.map fun p =>
      if p.2.state = .loading ∧ p.2.forPlacement.isSome then (p.1, { p.2 with state := .empty, forPlacement := none })
      else p }

/-- What a failed stage leaves of its record: it is Failed until the host has read the completion (R391), on another module
until the lead says so. With the command gone there is no completion, and it is freed. -/
def failRecord (d : Dev) (s : Stage) : Dev :=
  match modelOf d s.model with
  | none => d
  | some m =>
    let m := { m with state := .failed, placements := [] }
    match s.cid.bind (cmdOf d) with
    | some c => putModel d { m with reply := some (unwritten, c.cid) }
    | none =>
      if follower d then (if m.reply = some (hostHasRead, 0) then dropModel d m.id else putModel d m)
      else tellAll (dropModel d m.id) (.recordFreed m.id)

/-- The host has read a failed stage's result: its record here is freed, or will be once the stage has ended here. -/
def takeFreed (d : Dev) (id : Nat) : Dev :=
  match modelOf d id with
  | none => d
  | some m => if m.state = .failed then dropModel d id else putModel d { m with reply := some (hostHasRead, 0) }

/-- An adapter whose stage has succeeded is loaded (R410); a standby may know it from the protected module already (R492). -/
def loadAdapter (d : Dev) (s : Stage) (a : AdapterLoad) : Dev :=
  if d.feed.adapters.any fun x => x.id == a.id then d
  else
    setFeed d { d.feed with
      adapters := d.feed.adapters ++
        [{ id := a.id, base := a.base, len := rawTotal s.manifest, model := mBaseId s.manifest }] }

/-- The end of a stage's command (R443, R452). -/
def stageEnds (s : Stage) (code : Nat) : Ends :=
  let e := { ends (if code = 0 then 0 else 0x08) with result := code }
  match s.adapter with
  | some a => { e with value0 := if code = 0 then a.id else 0 }
  | none => { e with value0 := s.model, value1 := stageValue1 s code }

/-- A stage leaves the feed: its record becomes Staged or Failed, every module is told the verdict, and its command ends. -/
def closeStage (d : Dev) (s : Stage) (code : Nat) : Dev :=
  let d := if code = 0 ∨ s.started = false then d else abandonBanks d
  let d := setFeed d { d.feed with stages := d.feed.stages.filter fun x => x.model != s.model }
  let d := match modelOf d s.model with
    | some m => if code = 0 then putModel d { m with state := .staged } else failRecord d s
    | none => d
  let d := match s.adapter with
    | some a => if code = 0 then loadAdapter d s a else d
    | none => d
  let d := if s.started ∧ (code = 0 ∨ code = 0x0C) then tellAll d (.stageVerdict s.model code) else d
  match s.cid.bind (cmdOf d) with
  | some c => finish d c (stageEnds s code)
  | none => d

/-- Every module's result is known. -/
def resultsIn (d : Dev) (s : Stage) : Bool := (stageModules d).all fun m => s.results.any fun p => p.1 == m

/-- The lead notes a result: the first failure makes the stage fail on every module, and those that had succeeded report
MEMBER, this one too (R403); the last result ends it. -/
def noteResult (d : Dev) (s : Stage) (m code : Nat) : Dev :=
  let first : Bool := code != 0 && s.results.all fun p => p.2 == 0
  let before := if first then (s.results.filter fun p => p.1 == d.pad.index).map fun p => (p.1, 0x0B) else s.results
  let s := { s with results := before ++ [(m, code)] }
  let d := putStage d s
  let d := if first then tellAll d (.stageVerdict s.model 0x0B) else d
  if resultsIn d s then closeStage d s (stageCode s) else d

/-- This module's own result is known: reported to the lead, or, at the lead or alone, noted. -/
def ownEnds (d : Dev) (s : Stage) (code : Nat) : Dev :=
  let s := { s with ownResult := some code }
  let d := if code = 0 then putStage d s else abandonBanks (putStage d s)
  if follower d then sendMsg (putStage d { s with results := [(d.pad.index, code)] }) 0 (.stageReport s.model code)
  else noteResult d s d.pad.index code

/-! ### STAGE_START (R392, R394, R395, R475) -/

/-- The manifest of a stage on the module that took the command: the data list's first entry, the data, or DRAM. -/
def ownManifest (d : Dev) (s : Stage) : List Byte :=
  match s.cid.bind (cmdOf d) with
  | none => s.manifest
  | some c =>
    if s.source = 0 then (c.entries.head?).getD []
    else if s.source = 2 then c.bytes
    else
      let off := c.param 36 8
      let n := fieldAt (dramAt d (space1Keys off 128)) 8 8
      dramAt d (space1Keys off (min n (2 ^ 28 + 1)))

/-- Lengths of the delivered data list. -/
def deliveredLens (d : Dev) (s : Stage) : List Nat := ((s.cid.bind (cmdOf d)).map fun c => c.entries.map (·.length)).getD []

/-- A module's place in the chain order: twice its CHAIN, and one more for the twin that follows it (R475). -/
def chainOf (d : Dev) (m : Nat) : Nat := 2 * ((d.pad.modules.find? fun x => x.2.1 == m).map (·.2.2)).getD 0

/-- This module's own place. -/
def ownChain (d : Dev) : Nat := if d.pad.role = .standby then chainOf d d.pad.twinPeer + 1 else 2 * d.pad.chain

/-- This module's twin in the chain, while it is the protected module of a binding. -/
def ownTwin (d : Dev) : List Nat := if mirroring d then [d.pad.twinPeer] else []

/-- The places that stand after this one and that it knows, with their place in the chain: its own twin, and every later
module. -/
def laterPlaces (d : Dev) : List (Nat × Nat) :=
  (ownTwin d).map (fun m => (m, ownChain d + 1)) ++
    ((d.pad.modules.filter fun m => ownChain d < 2 * m.2.2 && !d.pad.unreachable.contains m.2.1).map fun m => (m.2.1, 2 * m.2.2))

/-- The next place in the chain. -/
def nextPlace (d : Dev) : Option Nat :=
  ((laterPlaces d).foldl (fun (x : Option (Nat × Nat)) p => some (match x with
    | none => p
    | some q => if p.2 < q.2 then p else q)) none).map (·.1)

/-- A placement is taken at a place: at its module, and at that module's twin where MODELS is mirrored. -/
def takenAt (d : Dev) (p : Placement) (m : Nat) : Bool :=
  p.module == m || ((ownTwin d).contains m && p.module == d.pad.index && d.pad.mirror.getLsbD 0)

/-- The later places down to the last one that takes a placement of a shard: each of them holds it in turn. -/
def holders (d : Dev) (ps : List Placement) (n : Nat) : List Nat :=
  let ls := laterPlaces d
  let last := (ls.filter fun l => ps.any fun p => p.shard == n && takenAt d p l.1).foldl (fun m l => max m (l.2 + 1)) 0
  (ls.filter fun l => l.2 < last).map (·.1)

/-- The later places that hold a shard of a stage: all of them for an adapter, which every module takes (R409). -/
def stageHolders (d : Dev) (adapter : Bool) (ps : List Placement) (n : Nat) : List Nat :=
  if adapter then (laterPlaces d).map (·.1) else holders d ps n

/-- The shards of a stage: all of an adapter's; of a model's, kept where a placement that this module takes names them, forwarded where one of a later place
does, and never with LOFT. -/
def stageShards (d : Dev) (b : List Byte) (source : Nat) (adapter : Bool) : List Shard :=
  let ps := placements b
  (List.range (mShards b)).map fun n =>
    shardOf b n (adapter || (servedPlacements d ps).any fun p => p.shard == n)
      (source != 2 && stageHolders d adapter ps n != [])

/-- Where the stage area holds a shard, or a manifest, and its length (R392). -/
def catalogued (d : Dev) (hash : Nat) : Option (Nat × Nat) := (d.feed.catalog.find? fun c => c.1 == hash).map (·.2)

/-- A kept shard that the stage area does not hold fails a LOFT stage with MISSING. -/
def loftMissing (d : Dev) (s : Stage) : Bool :=
  s.source == 2 && s.shards.any fun h => h.keep && (catalogued d h.hash).isNone

/-- Bytes stored in the stage area, by units, in the lowest free range of it, and catalogued; where it has no room for them
nothing is stored (log 31). -/
def storeLoft (d : Dev) (hash : Nat) (b : List Byte) : Dev :=
  if (catalogued d hash).isSome then d
  else
    match lowestRange (d.feed.catalog.map fun c => (c.2.1, (c.2.2 + 255) / 256 * 256)) 0 (loftStage d)
        ((b.length + 255) / 256 * 256) with
    | none => d
    | some off =>
      let d := loftWrite d (((List.range b.length).map (off + ·)).zip b)
      setFeed d { d.feed with catalog := d.feed.catalog ++ [(hash, off, b.length)] }

/-- Every shard the module keeps or forwards has been verified, and every placement of its own is done. -/
def stageDone (d : Dev) (s : Stage) : Bool :=
  s.shards.all (fun h => !(h.keep || h.forward) || h.verified) &&
    ((modelOf d s.model).map fun m => (servedPlacements d m.placements).all (·.done)).getD true

/-- One part of an adapter copied to a manger of this module. -/
def copyPart (bytes : List Byte) (d : Dev) (e : List Byte) : Dev :=
  if fieldAt e 2 1 = d.pad.index then
    feedSramWrite d (fieldAt e 0 2) 2 (fieldAt e 4 4) (slice bytes (fieldAt e 12 4) (fieldAt e 8 4))
  else d

/-- An adapter's parts go to the mangers that its copy table names (R235, R410). -/
def copyParts (d : Dev) (s : Stage) : Dev :=
  match s.adapter with
  | none => d
  | some a =>
    if a.copies = [] then d
    else
      let keys := space1Keys a.base (rawTotal s.manifest)
      a.copies.foldl (copyPart (dramAt d keys)) (dramTouchAll d keys)

/-- A stage whose work is done on this module ends here. -/
def checkStage (d : Dev) (model : Nat) : Dev :=
  match d.feed.stages.find? (·.model == model) with
  | none => d
  | some s => if s.started ∧ s.ownResult = none ∧ stageDone d s then ownEnds (copyParts d s) s 0 else d

/-- Every module has passed the checks of stage start: banks may be claimed, on every module (R394). -/
def clearStage (d : Dev) (model : Nat) : Dev :=
  match d.feed.stages.find? (·.model == model) with
  | none => d
  | some s =>
    if s.ownResult.getD 0 = 0 ∧ (stageModules d).all fun m => s.checked.contains m then
      tellAll (putStage d { s with cleared := true }) (.stageGo model)
    else d

/-- A module has passed the checks: a member tells the lead; at the lead, and alone, it is noted. -/
def passedChecks (d : Dev) (s : Stage) : Dev :=
  if follower d then sendMsg d 0 (.stageChecked s.model)
  else clearStage (putStage d { s with checked := s.checked ++ [d.pad.index] }) s.model

/-- The manifest goes on to the next place of the chain (R399), over the twin link to this module's own twin. -/
def passManifest (d : Dev) (s : Stage) : Dev :=
  match nextPlace d with
  | none => d
  | some m => sendMsg d m (.stage { model := s.model, source := s.source, store := s.store, reuse := s.reuse, keys := s.keys,
                                    manifest := s.manifest, sender := here d, adapter := s.adapter })

/-- The stage starts on a manifest. With STORE the manifest goes to the loft, catalogued under its own 24-byte digest of R370:
R372 gives a HASH to shards only (DESIGN CHOICE, log 31). -/
def startStage (d : Dev) (s : Stage) (b : List Byte) : Dev :=
  let s := { s with started := true, manifest := b }
  let d := passManifest (putStage d s) s
  let lens := if s.adapter.isSome then (deliveredLens d s).take (mShards b + 1) else deliveredLens d s
  if framed b = false ∨ (s.source = 0 ∧ s.cid.isSome ∧ hostList b lens = false) then ownEnds d s 3
  else
    match manifestResult d s.keys b s.adapter.isSome with
    | some k => ownEnds d s k
    | none =>
      let s := { s with shards := stageShards d b s.source s.adapter.isSome }
      if loftMissing d s then ownEnds d s 8
      else
        let d := putStage d s
        let d := match modelOf d s.model with
          | some m => putModel d { m with modelId := mModelId b, digest := mDigest b, placements := placements b }
          | none => d
        let d := if s.store then storeLoft d (mDigest b) b else d
        checkStage (passedChecks d s) s.model

/-- A new record and stage. -/
def newModel (id : Nat) : Model :=
  { id := id, state := .staging, modelId := 0, digest := 0, placements := [], busy := false, reply := none }

def newStage (keys : Map (Option (List Byte))) (cid : Option Nat) (model source : Nat) (store reuse : Bool)
    (b : List Byte) (sender : Nat) : Stage :=
  { cid := cid, model := model, source := source, store := store, reuse := reuse, sender := sender, started := false,
    manifest := b, shards := [], results := [], ownResult := none, checked := [], cleared := false, keys := keys, adapter := none }

/-- Ranges of the adapter area in use: by loaded adapters, and by those whose stage has not ended. -/
def adapterRanges (d : Dev) : List (Nat × Nat) :=
  (d.feed.adapters.map fun a => (a.base, a.len)) ++
    d.feed.stages.filterMap fun s => s.adapter.map fun a => (a.base, rawTotal s.manifest)

/-- Where an adapter's bytes go: the lowest free range of the adapter area that holds them (R410). -/
def adapterRoom (d : Dev) (b : List Byte) : Option Nat := lowestRange (adapterRanges d) (adapterBase d) adapterEnd (rawTotal b)

/-- STAGE_START: the next queued stage, or, on a member or a twin, the one that arrives from the place before it. -/
def execStageStart (offer : Option StageOffer) : State → Res :=
  onDerier "STAGE_START" fun d =>
    match offer with
    | none =>
      match headStage d with
      | some s => if s.started then none else
          let b := ownManifest d s
          some (startStage (if s.source = 1 then
            dramTouchAll d (space1Keys (((s.cid.bind (cmdOf d)).map fun c => c.param 36 8).getD 0) b.length) else d) s b)
      | none => none
    | some o =>
      if follower d ∧ d.feed.stages = [] ∧ (modelOf d o.model).isNone then
        let s := newStage o.keys none o.model o.source o.store o.reuse o.manifest o.sender
        match o.adapter with
        | none =>
          some (startStage (setFeed d { d.feed with models := d.feed.models ++ [newModel o.model], stages := [s] }) s
            o.manifest)
        | some a =>
          (adapterRoom d o.manifest).map fun off =>
            let s := { s with adapter := some { a with base := off } }
            startStage (setFeed d { d.feed with stages := [s] }) s o.manifest
      else none

/-! ### Shards (R373, R392, R397, R400 to R402) -/

/-- Where shard n lies with DRAM: each at the first 4 KiB boundary after the item before it (R452). -/
def dramShardOff (b : List Byte) (base : Nat) : Nat → Nat
  | 0 => (base + b.length + 4095) / 4096 * 4096
  | n + 1 => (dramShardOff b base n + fieldAt (shardEntry b n) 8 8 + 4095) / 4096 * 4096

/-- The delivered bytes of a shard, with what reading them does: from the place before, or from the stage source: the data
of the command as fetched, or as it arrives again after a hash that did not match (R401), DRAM, or the stage area. -/
def deliveredBytes (d : Dev) (s : Stage) (h : Shard) (arrived : List Byte) : Dev × List Byte :=
  if s.source = 2 then
    match catalogued d h.hash with
    | none => (d, [])
    | some (off, n) =>
      let offs := (List.range n).map (off + ·)
      (loftTouchAll d offs, loftAt d offs)
  else
    match s.cid.bind (cmdOf d) with
    | none => (d, arrived)
    | some c =>
      if s.source = 0 then (d, if h.refetches = 0 then c.entries.getD (h.index + 1) [] else arrived)
      else
        let keys := space1Keys (dramShardOff s.manifest (c.param 36 8) h.index) h.stored
        (dramTouchAll d keys, dramAt d keys)

/-- The feed buffer (R397): 2 GiB directly after the prefix table. -/
def feedBase (d : Dev) : Nat := reserveBase d + 2 ^ d.host.nbLog2 * 128

/-- Where the feed buffer has room for a shard: the lowest free range (log 31). -/
def feedRoom (d : Dev) (n : Nat) : Option Nat :=
  lowestRange ((d.feed.stages.flatMap (·.shards)).filterMap fun h => h.held.map fun o => (o, h.stored)) (feedBase d)
    (feedBase d + 2 * gib) n

/-- The bytes of a held shard, as the feed buffer holds them. -/
def heldBytes (d : Dev) (h : Shard) : Option (List Byte) := h.held.map fun o => dramAt d (space1Keys o h.stored)

/-- What reading a held shard does. -/
def heldTouch (d : Dev) (h : Shard) : Dev :=
  match h.held with
  | some o => dramTouchAll d (space1Keys o h.stored)
  | none => d

/-- A shard's bytes after decompression; none is FORMAT (R373). -/
def rawOf (h : Shard) (b : List Byte) : Option (List Byte) :=
  if h.codec = 0 then some b
  else
    match zstd b with
    | some r => if r.length = h.raw then some r else none
    | none => none

/-- A held shard's bytes after decompression. -/
def rawBytes (d : Dev) (h : Shard) : Option (List Byte) := (heldBytes d h).bind (rawOf h)

def putShard (d : Dev) (s : Stage) (h : Shard) : Dev :=
  putStage d { s with shards := s.shards.map fun x => if x.index = h.index then h else x }

/-- A shard leaves the feed buffer once every placement taken here that names it has reached step 2, and every later place
that holds it in turn has acknowledged it (R397). -/
def mayRelease (d : Dev) (s : Stage) (ps : List Placement) (h : Shard) : Bool :=
  h.verified && (servedPlacements d ps).all (fun p => p.shard != h.index || p.claimed || p.done) &&
    (!h.forward || (stageHolders d s.adapter.isSome ps h.index).all fun m => h.acks.contains m)

/-- Shards of a stage that need not be held any more are released. -/
def releaseShards (d : Dev) (model : Nat) : Dev :=
  match d.feed.stages.find? (·.model == model) with
  | none => d
  | some s =>
    let ps := ((modelOf d model).map (·.placements)).getD []
    putStage d { s with shards := s.shards.map fun h => if mayRelease d s ps h then { h with held := none } else h }

/-- An acknowledgment of a shard by a later place: noted, and passed on to the place before (R397). -/
def takeAckOf (d : Dev) (model index place : Nat) : Dev :=
  match d.feed.stages.find? (·.model == model) with
  | none => d
  | some s =>
    match s.shards.find? (·.index == index) with
    | none => d
    | some h =>
      let d := putShard d s { h with acks := h.acks ++ [place] }
      let d := if s.cid.isSome then d else sendMsg d s.sender (.shardAck model index place)
      releaseShards d model

/-- The decompressed bytes of an adapter's shard go to their place in the adapter area (R409); the feed buffer keeps the shard
only for the next module. -/
def placeShard (d : Dev) (s : Stage) (h : Shard) (b : List Byte) : Dev :=
  match s.adapter with
  | none => d
  | some a => releaseShards (derWrite d (a.base + rawBefore s.manifest h.index) ((rawOf h b).getD [])) s.model

/-- A shard whose hash has matched: held, acknowledged, catalogued with STORE, and sent on. -/
def takeShard (d : Dev) (s : Stage) (h : Shard) (b : List Byte) (off : Nat) : Dev :=
  let h := { h with held := some off, verified := true }
  let d := putShard (derWrite d off b) s h
  let d := if s.store ∧ h.keep then storeLoft d h.hash b else d
  let d := if s.cid.isSome ∨ s.source = 2 then d else sendMsg d s.sender (.shardAck s.model h.index (here d))
  let d := match nextPlace d with
    | some m => if h.forward then sendMsg d m (.shard s.model h.index b) else d
    | none => d
  match d.feed.stages.find? (·.model == s.model) with
  | some s => if h.keep ∧ (rawOf h b).isNone then ownEnds d s 9 else checkStage (placeShard d s h b) s.model
  | none => d

/-- A shard has arrived whole (R400, R401). -/
def shardArrives (d : Dev) (s : Stage) (h : Shard) (b : List Byte) (off : Nat) : Dev :=
  if b.length = h.stored ∧ shake b 32 = h.hash then takeShard d s h b off
  else
    let d := bump d 0x20A0
    if h.refetches = 3 then ownEnds d s 7
    else
      let d := putShard (bump d 0x20A8) s { h with refetches := h.refetches + 1 }
      if s.cid.isSome ∨ s.source = 2 then d else sendMsg d s.sender (.shardRequest s.model h.index)

/-- The started stage that still works on this module. -/
def workingStage (d : Dev) : Option Stage :=
  match headStage d with
  | some s => if s.started ∧ s.ownResult = none then some s else none
  | none => none

/-- SHARD_RECEIVED. A shard for which the feed buffer has no room has not arrived yet. -/
def execShardReceived (shard : Nat) (bytes : List Byte) : State → Res :=
  onDerier "SHARD_RECEIVED" fun d =>
    match workingStage d with
    | none => none
    | some s =>
      match s.shards.find? fun h => h.index == shard && (h.keep || h.forward) && !h.verified with
      | none => none
      | some h =>
        let r := deliveredBytes d s h bytes
        (feedRoom d h.stored).map (shardArrives r.1 s h r.2)

/-- SHARD_REFETCH: a held shard is sent again, from the feed buffer. -/
def execShardRefetch (shard : Nat) : State → Res :=
  onDerier "SHARD_REFETCH" fun d =>
    match headStage d, nextPlace d with
    | some s, some m =>
      match s.shards.find? fun h => h.index == shard && h.forward with
      | some h => (heldBytes d h).map fun b => sendMsg (heldTouch d h) m (.shard s.model shard b)
      | none => none
    | _, _ => none

/-- SHARD_TIMEOUT. -/
def execShardTimeout : State → Res :=
  onDerier "SHARD_TIMEOUT" fun d =>
    match workingStage d with
    | none => none
    | some s =>
      if s.shards.any fun h => (h.keep || h.forward) && !h.verified then some (ownEnds (bump d 0x20B0) s 8) else none

/-! ### Programming (R384 to R389, R396, R397, R541, R542) -/

/-- Crib-banks in Loading. -/
def loadingBanks (d : Dev) : Nat := (d.banks.filter fun p => p.2.state == .loading).length

/-- Banks that program at once: PROG_POWER over 6.4 mW. -/
def programLimit (d : Dev) : Nat := d.feed.progPower * 10000 / 64

/-- Pin entries of a bank stop being valid. -/
def dropPins (x : Stall) (crib bank : Nat) : Stall :=
  { x with pins := x.pins.filter fun p => match p.2 with
      | some e => e.crib != crib || e.bank != bank
      | none => true }

/-- Samples of a bank whose image, weak list or tag is written are discarded (R526). -/
def dropSamples (d : Dev) (st phys bank : Nat) : Dev :=
  { d with health := { d.health with
    samples := d.health.samples.filter fun s => s.stall != st || s.crib != phys || s.bank != bank } }

/-- Step 1: the claim. The bank keeps the correction set it had until its next fit, and a refit that is still pending for
the old image is dropped: no rule gives a freshly programmed bank another set (DESIGN CHOICE, log 51). -/
def claimBank (d : Dev) (st phys crib bank format : Nat) (forPl : Option Nat) (spare : Bool) : Dev :=
  let d := modBank d (bankKey st phys bank) fun b =>
    { b with state := .loading, wear := satAdd b.wear 1, tag := 0, weak := [], refWeak := [], refSeen := [],
             format := format, imagePresent := false, forPlacement := forPl, forSpare := spare, fit := none,
             pend := none }
  dropSamples (loadSide (modStall d st fun x => dropPins x crib bank) st phys bank []) st phys bank

/-- Steps 2 and 3: the digital image in DRAM; the data columns are programmed to it, and the reference columns of R119. -/
def writeBankImage (d : Dev) (st phys bank : Nat) (img : List Byte) : Dev :=
  let obs := (imageKeys st phys bank 0 img.length).zip img
  modBank (dramWrite d obs) (bankKey st phys bank) fun b =>
    { b with image := mputs 0 [] 0 img, refs := (List.range 32).map refLevels, imagePresent := true }

/-- Step 4: the weak list, in ascending order of row and column, with zero entries after it, and the side store. -/
def writeWeak (d : Dev) (st phys bank : Nat) (ws : List WeakEntry) : Dev :=
  let keys := homeKeys (st / 256) (weakBase (dieBank st phys bank)) 16384
  let bs := ws.flatMap weakBytes
  let d := dramWrite d (keys.zip (bs ++ List.replicate (16384 - bs.length) 0))
  modBank (loadSide d st phys bank ws) (bankKey st phys bank) fun b => { b with weak := ws }

/-- Entries in ascending order of row and then column; reference columns are not listed (R386). -/
def weakInsert (w : WeakEntry) : List WeakEntry → List WeakEntry
  | [] => [w]
  | x :: xs => if w.row * 4096 + w.col < x.row * 4096 + x.col then w :: x :: xs else x :: weakInsert w xs

def weakSorted (ws : List WeakEntry) : List WeakEntry :=
  (ws.filter fun w => w.col < 2048).foldl (fun l w => weakInsert w l) []

/-- The nearest integer to a number of thousandths, ties away from zero (R265). -/
def roundAway (v : Int) : Int := if 0 ≤ v then (2 * v + 1000) / 2000 else -((1000 - 2 * v) / 2000)

/-- The entry of a weak slice (R265): δ is the intended slice value minus the measured one, rounded. -/
def weakOf (b : Bank) (s : WeakSlice) : WeakEntry :=
  { row := s.row, col := s.col, delta := roundAway (1000 * pairSlice (cellLevels b s.row s.col) - s.measured) }

/-- A slice that program-and-verify can report: a pair of the bank, measured within 7.499 levels of zero, so that δ lies
within its field (R265). -/
def weakValid (s : WeakSlice) : Bool := s.row < 1024 && s.col < 2080 && s.measured.natAbs < 7500

/-- One pinned row: its weights to its manger line, and a free pin entry. -/
def writePin (st crib bank : Nat) (img : List Byte) (d : Dev) (pin : Nat × Nat) : Dev :=
  let d := feedSramWrite d st 2 (1024 * pin.2) (slice img (1024 * pin.1) 1024)
  match firstBelow 32 fun n => mget none (stallOf d st).pins n == none with
  | none => d
  | some n => modStall d st fun x =>
      { x with pins := mput none x.pins n (some { crib := crib, bank := bank, row := pin.1, line := pin.2 }) }

/-- Step 6: the column scales. -/
def writeScales (d : Dev) (a : W64) (bs : List Byte) : Dev :=
  if gSpace a = 0 then feedSramWrite d (gStall a) (gBuf a) (gOff a) bs else memWrite d a bs

/-- The image bytes of a bank as DRAM holds them. -/
def imageBack (d : Dev) (st phys bank : Nat) : List Byte := dramAt d (imageKeys st phys bank 0 0x100000)

/-- A placement's decompressed shard; none while it is not held. -/
def placementData (d : Dev) (s : Stage) (p : Placement) : Option (List Byte) :=
  (s.shards.find? (·.index == p.shard)).bind (rawBytes d)

/-- The members of a placement's group with their decompressed shards; none while one is not held. -/
def groupData (d : Dev) (s : Stage) (ps : List Placement) (p : Placement) : Option (List (Placement × List Byte)) :=
  (groupOf ps p).mapM fun q => (placementData d s q).map fun r => (q, r)

def putPlacement (d : Dev) (m : Model) (p : Placement) : Dev :=
  putModel d { m with placements := m.placements.map fun q => if q.index = p.index then p else q }

/-- The state of a bank of an index key once its tag is written: Ready, and Live where a requested epoch names it so (R85). -/
def writtenState (d : Dev) (k : Nat) : BankState :=
  if d.pad.epochs.any fun e => mget false e.set.live k then .live else .ready

/-- Steps 4 to 7 of a bank. -/
def completeBank (d : Dev) (m : Model) (p : Placement) (ws : List WeakEntry) (cols : List (Nat × Nat × Nat)) : Dev :=
  let phys := physOf d p.stall p.crib
  let img := imageBack d p.stall phys p.bank
  let d := writeWeak d p.stall phys p.bank ws
  let d := p.pins.foldl (writePin p.stall p.crib p.bank img) d
  let d := writeScales d p.scaleDest (scaleBytes cols)
  let d := modBank d (bankKey p.stall phys p.bank) fun b =>
    { b with state := writtenState d (indexKey p.stall p.crib p.bank), tag := tagOf m.digest p, forPlacement := none }
  checkStage (releaseShards (putPlacement d m { p with done := true }) m.id) m.id

/-- A scale group begins: its members keep the columns' scales (R380, R397). -/
def beginGroup (d : Dev) (m : Model) (p : Placement) (cols : List (Nat × Nat × Nat)) : Dev :=
  putModel d { m with placements := m.placements.map fun q =>
    if (groupOf m.placements p).any (·.index == q.index) then { q with scaled := some cols } else q }

/-- A placement begins (R384, steps 1 and 2), or is done at once with REUSE (R396). -/
def placeBank (d : Dev) (s : Stage) (m : Model) (p : Placement) (raw : List Byte) (cols : List (Nat × Nat × Nat)) : Dev :=
    let phys := physOf d p.stall p.crib
    let b := bankOf d (bankKey p.stall phys p.bank)
    let img := imageOf p raw cols
    if s.reuse ∧ b.state = .ready ∧ b.tag = tagOf m.digest p then
      let d := dropSamples (modStall d p.stall fun x => dropPins x p.crib p.bank) p.stall phys p.bank
      let d := modBank (dramWrite d ((imageKeys p.stall phys p.bank 0 img.length).zip img)) (bankKey p.stall phys p.bank)
        fun x => { x with imagePresent := true }
      completeBank d m p b.weak cols
    else
      let d := writeBankImage (claimBank d p.stall phys p.crib p.bank p.dstFmt (some p.index) false) p.stall phys p.bank img
      releaseShards (putPlacement d m { p with claimed := true }) m.id

/-- A placement starts: with its group, whose columns are scaled first where it is the group's first (R397). The feed reads
the shards that it needs from the feed buffer. -/
def startPlacement (d : Dev) (s : Stage) (m : Model) (p : Placement) : Option Dev :=
  let touched (qs : List Placement) : Dev :=
    (s.shards.filter fun h => qs.any fun q => q.shard == h.index).foldl heldTouch d
  match p.scaled with
  | some cols => (placementData d s p).map fun raw => placeBank (touched [p]) s m p raw cols
  | none =>
    (groupData d s m.placements p).map fun data =>
      let d := touched (groupOf m.placements p)
      match groupColumns data p.dstFmt p.cols with
      | none => ownEnds d s 9
      | some cols =>
        let d := beginGroup d m p cols
        let raw := ((data.find? fun q => q.1.index == p.index).map (·.2)).getD []
        placeBank d s ((modelOf d m.id).getD m) { p with scaled := some cols } raw cols

/-- The target bank may still be programmed: not Live since the stage began, nor about to be, and its stall not retired (R85,
R284, R395). -/
def stillFree (d : Dev) (p : Placement) : Bool :=
  (bankOf d (targetKey d p)).state != .live && !activating d p && !(stallOf d p.stall).gone

/-- A bank of a binding's copy is claimed and written (R497). -/
def startTwinBank (d : Dev) (t : TwinBank) : Dev :=
  let st := t.key / 32
  let crib := t.key / 2 % 16
  let phys := physOf d st crib
  let d := writeBankImage (claimBank d st phys crib (t.key % 2) t.format none false) st phys (t.key % 2)
    ((List.range 0x100000).map fun k => mget 0 t.image k)
  modBank d (livePhys d t.key) fun b => { b with forTwin := true }

/-- The retired crib's bank is copied to the spare (R541, steps 1 and 2). -/
def startSpare (d : Dev) (st crib b : Nat) : Dev :=
  let img := imageBack d st crib b
  let d := dramTouchAll d (imageKeys st crib b 0 0x100000)
  writeBankImage (claimBank d st 16 16 b (bankOf d (bankKey st crib b)).format none true) st 16 b img

/-- The bank of a spare that waits to be programmed and that a command names: by 2³³ plus its key. -/
def spareWaiting (d : Dev) (n : Nat) : Option (Nat × Nat × Nat) :=
  let k := n - 2 ^ 33
  if 2 ^ 33 ≤ n ∧ k / 2 % 17 = 16 ∧ (bankOf d k).forSpare ∧ (bankOf d k).state = .empty then
    (stallOf d (k / 34)).pendingSpare.map fun c => (k / 34, c, k % 2)
  else none

/-- The bank of a binding's copy that a command names: by 2³² plus its index key. A worn bank is not programmed (R128). -/
def twinBankOf (d : Dev) (n : Nat) : Option TwinBank :=
  d.pad.twinBanks.find? fun t =>
    let b := bankOf d (livePhys d t.key)
    n == 2 ^ 32 + t.key && !b.forTwin && !bankWorn b

/-- BANK_PROGRAM_START (R389, R397): a placement of the stage, once every module has passed its checks (R394), or a bank
of a binding's copy (R497), or one of a spare that had to wait (R541). -/
def execBankProgramStart (placement : Nat) : State → Res :=
  onDerier "BANK_PROGRAM_START" fun d =>
    match twinBankOf d placement, spareWaiting d placement, workingStage d with
    | some t, _, _ =>
      let b := bankOf d (livePhys d t.key)
      if b.state = .loading ∨ b.state = .live ∨ programLimit d ≤ loadingBanks d then none
      else some (startTwinBank d t)
    | none, some (st, c, b), _ => if programLimit d ≤ loadingBanks d then none else some (startSpare d st c b)
    | none, none, none => none
    | none, none, some s =>
      match modelOf d s.model with
      | none => none
      | some m =>
        match (servedPlacements d m.placements).find? fun p => p.index == placement && !p.claimed && !p.done with
        | none => none
        | some p =>
          if s.cleared = false ∨ (bankOf d (targetKey d p)).state = .loading ∨ programLimit d ≤ loadingBanks d then none
          else if stillFree d p = false then some (ownEnds d s 4)
          else startPlacement d s m p

/-- Column scales of a bank, as the feed wrote them for the placement whose tag it has. -/
def bankScales (d : Dev) (k : Nat) : List (W64 × List Byte) :=
  let b := bankOf d (livePhys d k)
  (d.feed.models.flatMap fun m => (m.placements.filter fun p =>
    p.module == d.pad.index && indexKey p.stall p.crib p.bank == k && b.tag == tagOf m.digest p).filterMap fun p =>
      p.scaled.map fun cols => (p.scaleDest, scaleBytes cols))

/-- The pin entries of a bank by crib index, each with its number. -/
def pinsOf (x : Stall) (crib bank : Nat) : List (Nat × Pin) :=
  x.pins.filterMap fun p => match p.2 with
    | some e => if e.crib = crib ∧ e.bank = bank then some (p.1, e) else none
    | none => none

/-- Pinned rows written to their manger lines, with their entries. -/
def writePins (d : Dev) (st : Nat) (image : Map Byte) (pins : List (Nat × Pin)) : Dev :=
  pins.foldl (fun d p =>
    let d := feedSramWrite d st 2 (1024 * p.2.line) ((List.range 1024).map fun k => mget 0 image (1024 * p.2.row + k))
    modStall d st fun x => { x with pins := mput none x.pins p.1 (some p.2) }) d

/-- A spare bank is programmed (R541): from the retired bank's image, with its pinned rows, pin entries, scales and tag. The
entries name the index, which the retired crib has until the substitution and the spare from then on (R271). -/
def completeSpare (d : Dev) (st crib bank : Nat) (ws : List WeakEntry) : Dev :=
  let src := bankOf d (bankKey st crib bank)
  let scales := bankScales d (indexKey st crib bank)
  let d := writePins (writeWeak d st 16 bank ws) st (bankOf d (bankKey st 16 bank)).image (pinsOf (stallOf d st) crib bank)
  let d := scales.foldl (fun d p => writeScales d p.1 p.2) d
  modBank d (bankKey st 16 bank) fun b => { b with state := .ready, tag := src.tag }

/-- The standby holds every byte and bank of the copy, and tells the protected module (R494, R497). -/
def checkCopy (d : Dev) : Dev := if d.pad.twinBanks = [] then sendTwin d .twinReady else d

/-- A bank of a binding's copy is programmed (R497): with its own weak list, and the protected bank's tag, pins, scales and
state. -/
def completeTwin (d : Dev) (t : TwinBank) (ws : List WeakEntry) : Dev :=
  let st := t.key / 32
  let phys := physOf d st (t.key / 2 % 16)
  let d := writeWeak d st phys (t.key % 2) ws
  let d := writePins d st t.image t.pins
  let d := t.scales.foldl (fun d p => writeScales d p.1 p.2) d
  let d := modBank d (livePhys d t.key) fun b =>
    { b with state := if t.state = .ready then writtenState d t.key else t.state, tag := t.tag, forTwin := false }
  checkCopy (setPad d { d.pad with twinBanks := d.pad.twinBanks.filter fun x => x.key != t.key })

/-- More than 4,096 weak slices (R81, R388): the bank is Empty, the crib fails, and the stage fails or, for a spare, the
stall is to retire (R542). -/
def programFails (d : Dev) (st phys bank : Nat) : Dev :=
  let b := bankOf d (bankKey st phys bank)
  let d := modBank (bump d 0x20C0) (bankKey st phys bank) fun x =>
    { x with state := .empty, forPlacement := none, forSpare := false, forTwin := false }
  let d := cribFails d st (servedIndex (stallOf d st) phys) bank 4 b.lastPass
  if b.forSpare then modStall d st fun x => { x with pendingRetire := true, pendingSpare := none }
  else if b.forTwin then
    checkCopy (setPad d { d.pad with twinBanks := d.pad.twinBanks.filter fun x => livePhys d x.key != bankKey st phys bank })
  else
    match workingStage d with
    | some s => ownEnds d s 0x0A
    | none => d

/-- BANK_PROGRAM_DONE: `weak` are the slices that program-and-verify found. Those of data columns count toward the limit
of R81; those of reference columns are neither listed nor counted (R386; DESIGN CHOICE, log 51). -/
def execBankProgramDone (bank : Nat) (weak : List WeakSlice) : State → Res :=
  onDerier "BANK_PROGRAM_DONE" fun d =>
    let b := bankOf d bank
    let st := bank / 34
    let phys := bank / 2 % 17
    let bn := bank % 2
    let ws := weakSorted (weak.map (weakOf b))
    let d := modBank d bank fun b => { b with refWeak := (weak.filter fun s => 2048 ≤ s.col).map (·.col) }
    if b.state ≠ .loading ∨ weak.all weakValid = false then none
    else if 4096 < ws.length then some (programFails d st phys bn)
    else
      let d := if ws = [] then d else bumpBy d 0x20B8 ws.length
      if b.forSpare then
        match (stallOf d st).pendingSpare with
        | some c => some (completeSpare d st c bn ws)
        | none => none
      else if b.forTwin then (d.pad.twinBanks.find? fun t => livePhys d t.key == bank).map fun t => completeTwin d t ws
      else
        match workingStage d with
        | none => none
        | some s =>
          match modelOf d s.model with
          | none => none
          | some m =>
            match m.placements.find? fun p => some p.index == b.forPlacement with
            | none => none
            | some p => p.scaled.map (completeBank d m p ws)

/-! ### STAGE_RESULT (R403) -/

/-- A module's result at the lead, where one that was sent before the stage failed counts for nothing; or, on a member, the
lead's verdict: a module that did not fail itself reports MEMBER (R403), and nothing where the stage is retired (R398). -/
def execStageResult (module result : Nat) : State → Res :=
  onDerier "STAGE_RESULT" fun d =>
    match headStage d with
    | none => none
    | some s =>
      if s.started = false then none
      else if d.pad.role = .lead then
        if (stageModules d).contains module = false ∨ module = d.pad.index ∨ s.results.any (fun p => p.1 == module) then none
        else if result = 0 ∧ s.results.any (fun p => p.2 != 0) then some d
        else
          let d := noteResult d s module result
          match d.feed.stages.find? (·.model == s.model) with
          | some s => if s.ownResult = none ∧ result ≠ 0 then some (ownEnds d s 0x0B) else some d
          | none => some d
      else if follower d ∧ module = 0 then
        if result = 0 then (if s.ownResult = some 0 then some (closeStage d s 0) else none)
        else if result = 0x0C then some (closeStage d s 0x0C)
        else if s.ownResult.getD 0 = 0 then some (closeStage (sendMsg d 0 (.stageReport s.model 0x0B)) s 0x0B)
        else some (closeStage d s (s.ownResult.getD 0))
      else none

/-! ### MODEL_STAGE, KEY_ADD, KEY_REMOVE (R371, R393, R452) -/

def stageForm (c : Cmd) : Bool := c.param 32 1 != 1 && c.param 32 1 != 2

/-- FAILED with a code of R405. -/
def feedEnds (code value1 : Nat) : Ends := { ends 0x08 with result := code, value1 := value1 }

/-- A MODEL_RETIRE of a Staged record waits for the other modules. -/
def retiringNow (d : Dev) (id : Nat) : Bool :=
  d.host.cmds.any fun c => dOpcode c.desc == 0x12 && c.held.isSome && c.param 32 2 == id

def modelStageDev (d : Dev) (c : Cmd) : Dev :=
  let src := c.param 33 1
  let opt := c.param 34 1
  if 2 < c.param 32 1 ∨ 2 < src ∨ 4 ≤ opt then finish d c (refusedEnds 0x10 0x01)
  else if (src = 0 ∧ c.isList = false) ∨ (src = 1 ∧ dDataLen c.desc ≠ 0) ∨ (src = 2 ∧ bitAt opt 0) ∨
      (src = 1 ∧ (c.param 36 8 < 8 * homeSplit d ∨ reserveBase d ≤ c.param 36 8)) then finish d c (refusedEnds 0x10 0x02)
  else if c.dataFailed then finish d c (refusedEnds 0x10 0x07)
  else if 64 ≤ d.feed.models.length then finish d c (feedEnds 0x0D 0)
  else if 9 ≤ (d.feed.stages.filter (·.adapter.isNone)).length then finish d c (feedEnds 0x0E 0)
  else
    match freeId d 5 65535 (d.feed.models.length + d.host.cmds.length) fun k => (modelOf d k).isNone && !retiringNow d k with
    | none => finish d c (feedEnds 0x0D 0)
    | some id =>
      setFeed d { d.feed with
        models := d.feed.models ++ [newModel id]
        stages := d.feed.stages ++ [newStage d.feed.keys (some c.cid) id src (bitAt opt 0) (bitAt opt 1) [] 0] }

def execModelStage (cid : Nat) : State → Res := startCmd "MODEL_STAGE" 0x10 stageForm cid modelStageDev

def keyEnds (status value0 : Nat) : Ends := { ends status with value0 := value0, value1 := 0xFFFFFFFF }

/-- A SOURCE or OPTIONS that R444 does not define: every form of MODEL_STAGE has these bytes. -/
def sourceReserved (c : Cmd) : Bool := 2 < c.param 33 1 || 4 ≤ c.param 34 1

def keyAddDev (d : Dev) (c : Cmd) : Dev :=
  let k := c.bytes
  if sourceReserved c then finish d c (keyEnds 0x01 0)
  else if c.dataFailed then finish d c (keyEnds 0x07 0)
  else if c.dataLen ≠ 1793 ∨ k.head? ≠ some falconKeyHeader then finish d c (keyEnds 0x02 0)
  else if (keyFor d (keyIdOf k)).isSome then finish d c (keyEnds 0 (keyIdOf k))
  else
    match freeId d 4 16 d.feed.keys.length fun n => mget none d.feed.keys n == none with
    | none => finish d c (keyEnds 0x05 0)
    | some n =>
      finishAll (setFeed d { d.feed with keys := mput none d.feed.keys n (some k) }) c (keyEnds 0 (keyIdOf k))

def execKeyAdd (cid : Nat) : State → Res := startCmd "KEY_ADD" 0x10 (fun c => c.param 32 1 == 1) cid keyAddDev

def keyRemoveDev (d : Dev) (c : Cmd) : Dev :=
  let kid := c.param 44 8
  let named (k : Option (List Byte)) : Bool := k.any fun k => keyIdOf k == kid
  if sourceReserved c then finish d c (keyEnds 0x01 0)
  else
    match d.feed.keys.find? fun p => named p.2 with
    | none => finish d c (keyEnds 0x04 0)
    | some p => finishAll (setFeed d { d.feed with keys := mput none d.feed.keys p.1 none }) c (keyEnds 0 kid)

def execKeyRemove (cid : Nat) : State → Res := startCmd "KEY_REMOVE" 0x10 (fun c => c.param 32 1 == 2) cid keyRemoveDev

/-! ### MODEL_ACTIVATE and MODEL_RETIRE (R404, R408, R619) -/

/-- An epoch that a command needs, in order of acceptance (R484); the command waits for it. -/
def addWant (d : Dev) (w : Want) : Dev := { d with pad := { d.pad with wants := d.pad.wants ++ [w] } }

def noWant : Want :=
  { cid := none, target := 0, base := none, power := none, activate := none, retire := none, factory := none, noBanks := false, takeover := none,
    refit := false, fits := [] }

/-- The placements of a model that this module takes. -/
def ownPlacements (d : Dev) (m : Model) : List Placement := servedPlacements d m.placements

/-- Each bank of a staged model is Ready and matches its placement (R387, R404, R543). -/
def banksMatch (d : Dev) (m : Model) : Bool :=
  (ownPlacements d m).all fun p =>
    let b := bankOf d (targetKey d p)
    b.state == .ready && b.tag == tagOf m.digest p && !(stallOf d p.stall).gone

def markBusy (d : Dev) (id : Nat) (v : Bool) : Dev :=
  match modelOf d id with
  | some m => putModel d { m with busy := v }
  | none => d

def setModelState (d : Dev) (id : Nat) (s : ModelState) : Dev :=
  match modelOf d id with
  | some m => putModel d { m with state := s }
  | none => d

/-- An activation or retirement that names the record is in progress (R619). -/
def isBusy (d : Dev) (id : Nat) : Bool := (modelOf d id).any (·.busy) || retiringNow d id

def modelActivateDev (othersMatch : Bool) (d : Dev) (c : Cmd) : Dev :=
  let id := c.param 32 2
  let rep := c.param 34 2
  if isBusy d id ∨ (rep ≠ 0xFFFF ∧ isBusy d rep) then finish d c { ends 0x06 with result := 0x0E }
  else
    match modelOf d id with
    | none => finish d c (ends 0x04)
    | some m =>
      if rep ≠ 0xFFFF ∧ (modelOf d rep).isNone then finish d c (ends 0x04)
      else if m.state ≠ .staged ∨ (rep ≠ 0xFFFF ∧ (modelOf d rep).any fun r => r.state != .active) then
        finish d c (feedEnds 0x0F 0)
      else if banksMatch d m = false ∨ othersMatch = false then finish d c (feedEnds 0x04 0)
      else
        let d := tellAll (markBusy d id true) (.activating id)
        let d := if rep ≠ 0xFFFF then setModelState (markBusy d rep true) rep .retiring else d
        addWant d { noWant with cid := some c.cid, activate := some id, retire := if rep = 0xFFFF then none else some rep }

/-- MODEL_ACTIVATE. `othersMatch` is what the check of R404 gives on every other module. -/
def execModelActivate (cid : Nat) (othersMatch : Bool) : State → Res :=
  startCmd "MODEL_ACTIVATE" 0x11 anyForm cid (modelActivateDev othersMatch)

def modelRetireDev (d : Dev) (c : Cmd) : Dev :=
  let id := c.param 32 2
  if isBusy d id then finish d c { ends 0x06 with result := 0x0E }
  else
    match modelOf d id with
    | none => finish d c (ends 0x04)
    | some m =>
      match m.state with
      | .staging =>
        match d.feed.stages.find? (·.model == id) with
        | some s => finish (closeStage d { s with results := [(d.pad.index, 0x0C)] } 0x0C) c (ends 0)
        | none => finish (dropModel d id) c (ends 0)
      | .staged => finishAll (dropModel d id) c (ends 0)
      | .active =>
        addWant (setModelState (markBusy d id true) id .retiring) { noWant with cid := some c.cid, retire := some id }
      | _ => finish d c (ends 0x04)

def execModelRetire (cid : Nat) : State → Res := startCmd "MODEL_RETIRE" 0x12 anyForm cid modelRetireDev

/-! ### ADAPTER_LOAD (R409, R410, R452) -/

/-- Manifest checks of an adapter (R394, R409). -/
def adapterResult (d : Dev) (b : List Byte) (es : List (List Byte)) : Option Nat :=
  if framed b = false ∨ hostList b ((es.take (mShards b + 1)).map (·.length)) = false then some 3
  else manifestResult d [] b true

/-- One entry of the copy table: stall, module, manger offset, length, source offset. -/
def copyEntry (t : List Byte) (k : Nat) : List Byte := slice t (16 * k) 16

def copyOk (d : Dev) (total : Nat) (e : List Byte) : Bool :=
  fieldAt e 0 2 < 1024 && (memberIndices d).contains (fieldAt e 2 1) && fieldAt e 4 4 + fieldAt e 8 4 ≤ 0x10000 &&
    fieldAt e 12 4 + fieldAt e 8 4 ≤ total

/-- An adapter id that is free, of 1 to 4,095. -/
def adapterId (d : Dev) : Option Nat :=
  freeId d 6 4096 (d.feed.adapters.length + d.feed.stages.length + 1) fun k =>
    k != 0 && (d.feed.adapters.all fun a => a.id != k) && d.feed.stages.all fun s => s.adapter.all fun a => a.id != k

/-- The stage that delivers an adapter, under a number beyond every record id. -/
def adapterStage (d : Dev) (c : Cmd) (b : List Byte) (id base : Nat) (copies : List (List Byte)) : Stage :=
  { newStage d.feed.keys (some c.cid) (0x10000 + id) 0 false false b 0 with
    adapter := some { id := id, base := base, copies := copies } }

/-- An adapter whose manifest and copy table are good is delivered like a model (R409, R410). -/
def queueAdapter (d : Dev) (c : Cmd) (b : List Byte) (copies : List (List Byte)) (othersFit : Bool) : Dev :=
  match adapterId d with
  | none => finish d c { ends 0x05 with result := 1 }
  | some id =>
    match adapterRoom d b with
    | none => finish d c { ends 0x05 with result := 2 }
    | some off =>
      if othersFit = false then finish d c { ends 0x05 with result := 2 }
      else setFeed d { d.feed with stages := d.feed.stages ++ [adapterStage d c b id off copies] }

def adapterLoadDev (othersFit : Bool) (d : Dev) (c : Cmd) : Dev :=
  let es := c.entries
  let b := (es.head?).getD []
  let n := c.param 36 4
  let table := es.getD (mShards b + 1) []
  let copies := (List.range n).map (copyEntry table)
  if 1 < c.param 32 1 then finish d c (ends 0x01)
  else if c.isList = false ∨ 4096 < n then finish d c (ends 0x02)
  else if c.dataFailed then finish d c (ends 0x07)
  else
    match adapterResult d b es with
    | some k => finish d c (feedEnds k 0)
    | none =>
      if copies.any (fun e => fieldAt e 3 1 != 0) then finish d c (ends 0x01)
      else if (n ≠ 0 ∧ table.length ≠ 16 * n) ∨ copies.any (fun e => !copyOk d (rawTotal b) e) then finish d c (ends 0x02)
      else queueAdapter d c b copies othersFit

/-- ADAPTER_LOAD. `othersFit` says that the adapter fits on every other module (R410). -/
def execAdapterLoad (cid : Nat) (othersFit : Bool) : State → Res :=
  startCmd "ADAPTER_LOAD" 0x13 (fun c => c.param 32 1 != 1) cid (adapterLoadDev othersFit)

/-- An open sequence names the adapter. -/
def adapterUsed (d : Dev) (id : Nat) : Bool :=
  d.attn.seqs.any fun p => match p.2 with
    | some q => q.adapter == id && !q.closing
    | none => false

def adapterUnloadDev (usedElsewhere : Bool) (d : Dev) (c : Cmd) : Dev :=
  let id := c.param 34 2
  if (d.feed.adapters.any fun a => a.id == id) = false then finish d c (ends 0x04)
  else if adapterUsed d id ∨ usedElsewhere then finish d c (ends 0x06)
  else
    finishAll (setFeed d { d.feed with adapters := d.feed.adapters.filter fun a => a.id != id }) c
      { ends 0 with value0 := id }

/-- ADAPTER_UNLOAD. `usedElsewhere` says that an open sequence of another module names the adapter. -/
def execAdapterUnload (cid : Nat) (usedElsewhere : Bool) : State → Res :=
  startCmd "ADAPTER_UNLOAD" 0x13 (fun c => c.param 32 1 == 1) cid (adapterUnloadDev usedElsewhere)

end Sys2Proof.Machine
end

