-- ==== Sys2Proof/Machine/Submit.lean ====
section
/-! DEFINITION. Routines from commands (10, R454 to R458; 04, R136 to R140): SUBMIT, DECODE_STEP, SUBMIT with ABORT, the
start of a routine, and the end of its command. -/

namespace Sys2Proof.Machine

open Sys2Proof

/-! ### Parameters (R444) -/

def pEntry (c : Cmd) : Nat := c.param 36 2
def pImageLen (c : Cmd) : Nat := c.param 38 2
def pThresh (c : Cmd) : Nat := c.param 40 1
def pFollow (c : Cmd) : Bool := bitAt (pFlags c) 0
def pCopyOut (c : Cmd) : Bool := bitAt (pFlags c) 2

/-- Batch entries of a DECODE_STEP; a SUBMIT has none. -/
def pBatch (c : Cmd) : Nat := if dOpcode c.desc = 0x31 then c.param 42 2 else 0

/-- The 8 bytes of a batch entry (R458). -/
def batchEntry (c : Cmd) (k : Nat) : List Byte := slice c.bytes (64 + 8 * k) 8

/-- The routine image. -/
def imageBytes (c : Cmd) : List Byte := slice c.bytes (64 + 8 * pBatch c) (8 * pImageLen c)

/-! ### SUBMIT and DECODE_STEP (R454, R458) -/

/-- The status that refuses a routine command before its data is used. -/
def submitRefusal (c : Cmd) : Option Nat :=
  let dec := dOpcode c.desc = 0x31
  if bitsOf (pFlags c) 7 3 ≠ 0 ∨ (dec ∧ pAbort c) then some 0x01
  else if 1024 < pFirst c + pCount c ∨ pImageLen c < 1 ∨ 4096 < pImageLen c ∨ pImageLen c ≤ pEntry c ∨
      pThresh c < 0x20 ∨ 0x80 < pThresh c ∨ (dec ∧ (pBatch c < 1 ∨ 4096 < pBatch c)) then some 0x02
  else if c.dataFailed then some 0x07
  else if c.dataLen ≠ 64 + 8 * pBatch c + 8 * pImageLen c then some 0x02
  else if (List.range (pBatch c)).any (fun k => fieldAt (batchEntry c k) 2 2 != 0) then some 0x01
  else none

/-- The lowest batch entry whose sequence is not open or not the function's. -/
def badEntry (d : Dev) (c : Cmd) : Option Nat :=
  (List.range (pBatch c)).find? fun k => !openFor d (fieldAt (batchEntry c k) 0 2) c.fn

/-- A named stall is retired. -/
def namesRetired (d : Dev) (c : Cmd) : Bool := (pStalls c).any fun st => (stallOf d st).gone

/-- One token id keyed as the next KEYED position (R321, R326, R458). -/
def keyToken (d : Dev) (id : Nat) (tok : List Byte) : Dev :=
  match seqOf d id with
  | none => d
  | some q =>
    let ts := q.toks ++ tok
    if ts.length < 128 then putSeqPart d id { q with toks := ts, keyed := q.keyed + 1 } keyedBytes
    else
      let ch := chainNext q.nameSpace q.chains.getLast? ts
      putSeqPart d id { q with toks := [], keyed := q.keyed + 1, chains := q.chains ++ [ch], chain := ch } keyedBytes

/-- The batch table written and its tokens keyed. -/
def keyBatch (d : Dev) (c : Cmd) : Dev :=
  let d := derWrite d (c.param 52 8) ((List.range (pBatch c)).flatMap (batchEntry c))
  (List.range (pBatch c)).foldl (fun d k =>
    keyToken d (fieldAt (batchEntry c k) 0 2) (slice (batchEntry c k) 4 4)) d

/-- The routines of a command wait for their stalls. -/
def beginRoutines (d : Dev) (c : Cmd) : Dev := putCmd d { c with waiting := pStalls c }

def submitDev (d : Dev) (c : Cmd) : Dev :=
  match submitRefusal c with
  | some k => finish d c (refusedEnds (dOpcode c.desc) k)
  | none =>
    match badEntry d c with
    | some k => finish d c { ends 0x04 with value1 := k }
    | none =>
      if namesRetired d c then finish d c { refusedEnds (dOpcode c.desc) 0x08 with result := 1 }
      else beginRoutines (if dOpcode c.desc = 0x31 then keyBatch d c else d) c

def execSubmit (cid : Nat) : State → Res := startCmd "SUBMIT" 0x30 (fun c => !pAbort c) cid submitDev

def execDecodeStep (cid : Nat) : State → Res := startCmd "DECODE_STEP" 0x31 anyForm cid submitDev

/-! ### SUBMIT with ABORT (R456) -/

/-- One command of the function loses its routines on the named stalls that have not started. -/
def dropWaiting (sts : List Nat) (c : Cmd) : Cmd :=
  { c with waiting := c.waiting.filter fun st => !sts.contains st
           ended := c.ended ++ (c.waiting.filter sts.contains).map fun st => (st, 0x0F) }

def submitAbortDev (d : Dev) (c : Cmd) : Dev :=
  let sts := pStalls c
  if bitsOf (pFlags c) 7 3 ≠ 0 then finish d c (refusedEnds 0x30 0x01)
  else if 1024 < pFirst c + pCount c ∨ dDataLen c.desc ≠ 0 then finish d c (refusedEnds 0x30 0x02)
  else
    let mine := d.host.cmds.filter fun x => x.fn == c.fn && x.onStalls && x.cid != c.cid
    let waits := (mine.flatMap (·.waiting)).filter sts.contains
    let runs := (mine.flatMap (·.running)).filter sts.contains
    let stops := runs.filter fun st => active (stallOf d st)
    let d := setCmds d (d.host.cmds.map fun x => if mine.any (·.cid == x.cid) then dropWaiting sts x else x)
    let d := stops.foldl (abortStall 0x01) d
    putCmd d { c with aborting := some (waits.length + stops.length) }

def execSubmitAbort (cid : Nat) : State → Res := startCmd "SUBMIT_ABORT" 0x30 pAbort cid submitAbortDev

/-! ### ROUTINE_START (R136, R138, R140, R454, R457) -/

/-- Two epochs give a stall the same Live banks and default banks. -/
def sameBanks (d : Dev) (e f : W32) (st : Nat) : Bool :=
  (List.range 16).all fun c =>
    defaultIn d e st c == defaultIn d f st c && liveIn d e st c 0 == liveIn d f st c 0 &&
      liveIn d e st c 1 == liveIn d f st c 1

/-- An earlier command of the ring still waits for the stall. -/
def waitsBehind (d : Dev) (c : Cmd) (st : Nat) : Bool :=
  d.host.cmds.any fun x => x.ring == c.ring && x.cid < c.cid && x.waiting.contains st

/-- A routine of the command may start on the stall. -/
def mayStart (d : Dev) (c : Cmd) (st : Nat) : Bool :=
  let x := stallOf d st
  c.solve.isNone && c.waiting.contains st && x.mode == .idle && !x.gone && !x.pendingRetire && x.posted.isNone && !waitsBehind d c st &&
    reached x.epoch c.epoch && sameBanks d c.epoch x.epoch st && !d.health.commandDown

/-- The registers at routine start: s1 to s8 the arguments, s9 the stall's number, every other undefined (log 4). -/
def startRegs (d : Dev) (st : Nat) (args : List W64) (x : Stall) : Stall :=
  let fw (k : Nat) : W64 := Config.freeWord d.draws (65536 * st + k)
  { x with
    sreg := mputs 0 [] 1 (args ++ [BitVec.ofNat 64 (stallNumber d st)] ++ (List.range 22).map fun k => fw (10 + k))
    areg := mputs 0 [] 0 ((List.range 16).map fun k => fw (64 + k))
    preg := mputs 0 [] 0 ((List.range 8).map fun k => fw (96 + k))
    vreg := mputs 0 [] 0 ((List.range 2048).map fun k => (fw (128 + k)).setWidth 32) }

/-- The image written from index 0 of the routine store. -/
def writeImage (x : Stall) (bs : List Byte) (len : Nat) : Stall :=
  { x with
    store := mputs none x.store 0 ((List.range len).map fun k => some (BitVec.ofNat 64 (fieldAt bs (8 * k) 8)))
    storeErr := x.storeErr.filter fun p => 8 * len ≤ p.1
    storeRemap := remapOnWrite (fullLines 0 (8 * len)) x.storeRemap
    limit := len }

def startRoutine (d : Dev) (c : Cmd) (st : Nat) : Dev :=
  let args := (List.range 8).map fun k => BitVec.ofNat 64 (fieldAt c.bytes (8 * k) 8)
  let d := putCmd d { c with waiting := c.waiting.filter (· != st), running := c.running ++ [st] }
  modStall d st fun x =>
    let x := startRegs d st args (writeImage x (imageBytes c) (pImageLen c))
    { x with mode := .running, ending := none, owner := some c.cid, follow := pFollow c, pc := pEntry c,
             thresh := BitVec.ofNat 8 (pThresh c), faultCode := 0, faultPc := 0, faultDetail := 0, rstack := [],
             held := none, lateRaised := false }

def execRoutineStart (cid st : Nat) : State → Res :=
  onDev "ROUTINE_START" fun d =>
    match cmdOf d cid with
    | none => none
    | some c => if mayStart d c st then some (startRoutine d c st) else none

/-! ### SUBMIT_COMPLETE (R455, R456) -/

/-- Result bytes of COPY_OUT, and whether a line could not be trusted. -/
def copyOut (d : Dev) (c : Cmd) : Dev × List Byte × Bool :=
  if pCopyOut c = false ∨ c.stopped then (d, [], false)
  else
    let n := dResultLen c.desc
    let a : W64 := BitVec.ofNat 64 (2 ^ 58 * d.pad.index + 2 ^ 54 + c.param 44 8 % 2 ^ 42)
    let keys := dramKeys a (gOff a) (inside a n)
    let bad := (linesOf keys).any (lineBad d)
    let r := memRead (countBeyond d a n) a n
    if 2 ^ 42 ≤ c.param 44 8 then (d, List.replicate n 0, false) else (r.1, r.2, bad)

/-- Every routine of the command has ended; of a SUBMIT with ABORT, every stall that it names is Idle (R456), or retired. -/
def routinesDone (d : Dev) (c : Cmd) : Bool :=
  match c.aborting with
  | some _ => (pStalls c).all fun st => (stallOf d st).mode == .idle || (stallOf d st).mode == .retired
  | none => c.waiting == [] && c.running == []

def execSubmitComplete (cid : Nat) : State → Res :=
  onDev "SUBMIT_COMPLETE" fun d =>
    match cmdOf d cid with
    | none => none
    | some c =>
      if c.begun = false ∨ c.remote ∨ c.held.isSome ∨ c.runs = false ∨ routinesDone d c = false ∨ d.health.commandDown then none
      else
        match c.aborting with
        | some n => some (finish d c { ends 0 with value0 := n, value1 := 0xFFFFFFFF })
        | none =>
          let faults := (c.ended.filter fun p => p.2 != 0).map (·.1)
          let r := copyOut d c
          some (finish r.1 c
            { status := if c.stopped then 0x09 else if r.2.2 then 0x0B else 0
              result := if faults = [] then 0 else 2
              value0 := faults.length
              value1 := (faults.foldl (fun m st => some (min st (m.getD st))) none).getD 0xFFFFFFFF
              bytes := r.2.1 })

end Sys2Proof.Machine
end

