-- ==== Sys2Proof/Machine/Solve.lean ====
section
/-! DEFINITION. SOLVE (06, R277 to R281; 10, R459): refinement on the cribs, as routines of Derier's own on the stalls that
hold the matrix's banks. The command SOLVE comes once to begin, then as often as something of the solve is to be done:
routines to start, an outer step, the end. -/

namespace Sys2Proof.Machine

open Sys2Proof

/-! ### The exact part, in FP64 -/

/-- A vector of FP64 bits. -/
abbrev Vec := List Nat

/-- The 2-norm, in ascending order. -/
def norm2 (v : Vec) : Nat := fsqrt64 (v.foldl (fun s x => fadd fp64 false s (fmul fp64 false x x)) 0)

/-- a ≤ b, false for a NaN. -/
def fle (a b : Nat) : Bool := (vcmpv (fdecode fp64 a) (fdecode fp64 b)).any fun c => c ≤ 0
def fgt (a b : Nat) : Bool := (vcmpv (fdecode fp64 a) (fdecode fp64 b)).any fun c => 0 < c

def finite64 (a : Nat) : Bool :=
  match fdecode fp64 a with
  | .fin _ _ => true
  | _ => false

/-- FP64 of FP32 bits, exactly. -/
def widen64 (a : W32) : Nat := fround fp64 false false (fdecode fp32 a.toNat)

/-- FP64 bits of 1,000 and of 0.9. -/
def f1000 : Nat := 0x408F400000000000
def f09 : Nat := 0x3FECCCCCCCCCCCCD

def sgBit : Nat := 2 ^ 63

/-- A SOLVE's parameters (R459). -/
structure SolveArgs where
  model : Nat
  n : Nat
  blocks : Nat
  steps : Nat
  inner : Nat
  repeats : Nat
  fmt : Nat
  tau : Nat
  table : Nat
  b : Nat
  x : Nat

def solveArgs (b : List Byte) : SolveArgs :=
  { model := fieldAt b 0 2, n := fieldAt b 4 4, blocks := fieldAt b 8 4, steps := fieldAt b 12 4, inner := fieldAt b 16 1,
    repeats := fieldAt b 17 1, fmt := fieldAt b 18 1, tau := fieldAt b 24 8, table := fieldAt b 32 8, b := fieldAt b 40 8,
    x := fieldAt b 48 8 }

/-- Entry k of the block table, with the crib bank that placement k names (R459). -/
def tableEntry (d : Dev) (a : SolveArgs) (ps : List Placement) (k : Nat) : Block :=
  let e := dramAt d (space1Keys (a.table + 16 * k) 16)
  let b : Block := { row := fieldAt e 0 4, col := fieldAt e 4 4, off := fieldAt e 8 8, module := d.pad.index, stall := 0,
                     crib := 0, bank := 0, scale := 0 }
  match (ps.drop k).head? with
  | some p => { b with module := p.module, stall := p.stall, crib := p.crib, bank := p.bank, scale := p.scaleDest }
  | none => b

def tableBlocks (d : Dev) (a : SolveArgs) (ps : List Placement) : List Block :=
  (List.range a.blocks).map (tableEntry d a ps)

/-- Bytes of one element of the exact copy. -/
def elemBytes (a : SolveArgs) : Nat := if a.fmt = 0 then 8 else 4

/-- A range lies in space 0x1. -/
def inSpace1 (off n : Nat) : Bool := off + n ≤ space1Size

/-- Every entry lies in the matrix and in DRAM, and no block stands twice (R277, R279). -/
def tableOk (a : SolveArgs) (bs : List Block) : Bool :=
  bs.all (fun e => e.row < a.n / 1024 && e.col < a.n / 1024 && e.off % 2048 == 0 &&
    inSpace1 e.off (0x100000 * elemBytes a)) &&
    ((bs.map fun e => e.row * 131072 + e.col).eraseDups).length == bs.length

/-- Element (i, j) of a block of the exact copy, as FP64 bits. -/
def blockElem (d : Dev) (a : SolveArgs) (e : Block) (i j : Nat) : Nat :=
  let w := elemBytes a
  let v := fieldAt (dramAt d (space1Keys (e.off + w * (1024 * i + j)) w)) 0 w
  if a.fmt = 0 then v else widen64 (BitVec.ofNat 32 v)

/-- Row i of A · x: the present blocks of its block row, each row in ascending column order. -/
def rowDot (d : Dev) (a : SolveArgs) (bs : List Block) (x : Vec) (i : Nat) : Nat :=
  (List.range (a.n / 1024)).foldl (fun s bc =>
    match bs.find? fun e => e.row == i / 1024 && e.col == bc with
    | some e => (List.range 1024).foldl (fun s j =>
        fadd fp64 false s (fmul fp64 false (blockElem d a e (i % 1024) j) (x.getD (1024 * bc + j) 0))) s
    | none => s) 0

/-- b − A · x. -/
def residual (d : Dev) (a : SolveArgs) (bs : List Block) (b x : Vec) : Vec :=
  (List.range a.n).map fun i => fadd fp64 false (b.getD i 0) (fneg fp64 (rowDot d a bs x i))

/-- The vector of n elements at an offset of space 0x1. -/
def readVec (d : Dev) (off n : Nat) : Vec := (List.range n).map fun i => fieldAt (dramAt d (space1Keys (off + 8 * i) 8)) 0 8

def zeroVec (b : Vec) : Bool := b.all fun v => v % sgBit == 0

/-- DRAM keys of the block table, of a vector, and of the exact copy. -/
def tableKeys (a : SolveArgs) : List Nat := space1Keys a.table (16 * a.blocks)
def vecKeys (off n : Nat) : List Nat := space1Keys off (8 * n)
def blockKeys (a : SolveArgs) (bs : List Block) : List Nat := bs.flatMap fun e => space1Keys e.off (0x100000 * elemBytes a)

/-- The status that refuses a SOLVE before its block table is read. -/
def paramRefusal (d : Dev) (c : Cmd) : Option Nat :=
  let b := c.bytes
  let a := solveArgs b
  if c.dataFailed then some 0x07
  else if c.dataLen ≠ 64 then some 0x02
  else if fieldAt b 2 2 ≠ 0 ∨ zeroAt b 19 5 = false ∨ zeroAt b 56 8 = false ∨ 1 < a.fmt then some 0x01
  else if a.n % 1024 ≠ 0 ∨ between a.n 1024 131072 = false ∨ between a.steps 1 1000 = false ∨
      between a.inner 1 32 = false ∨ ([1, 2, 4].contains a.repeats) = false ∨ inSpace1 a.table (16 * a.blocks) = false ∨
      inSpace1 a.b (8 * a.n) = false ∨ inSpace1 a.x (8 * a.n) = false then some 0x02
  else
    match modelOf d a.model with
    | none => some 0x04
    | some m => if m.state ≠ .active ∨ m.placements.length < a.blocks then some 0x04 else none

/-- The blocks that a SOLVE's table names. -/
def solveBlocks (d : Dev) (a : SolveArgs) : List Block := tableBlocks d a (((modelOf d a.model).map (·.placements)).getD [])

/-- The status that refuses a SOLVE before any routine starts. -/
def solveRefusal (d : Dev) (c : Cmd) : Option Nat :=
  (paramRefusal d c).orElse fun _ =>
    if tableOk (solveArgs c.bytes) (solveBlocks d (solveArgs c.bytes)) then none else some 0x02

/-! ### The crib operator (R278) -/

/-- The operation that one application of the operator runs on a bank: outliers have the threshold 128, so there are none;
the policy is SPLIT (log 8). -/
def solveOp (d : Dev) (st crib b reps : Nat) (q : List Int) : CribOp :=
  let phys := physOf d st crib
  { id := 0, probe := false, cribs := [phys], banks := [b], add := false, clip := false, tall := true, slot := 0, tile := 0,
    reps := reps, epoch := (stallOf d st).epoch, corrs := [(bankOf d (bankKey st phys b)).corr], ref := refOf d st,
    started := true, inputs := [q], seed := d.draws, fetches := [],
    sampled := if sampleDue d (cribOf d (cribKey st phys)) then [phys] else [] }

/-- The credit that the limiter leaves a crib after an MVM whose start it timed: free, since the manual gives no time for a
SOLVE's MVMs (R577, log 8). -/
def spendCredit (o : CribOp) (st phys : Nat) (d : Dev) : Dev :=
  let c := cribOf d (cribKey st phys)
  setCrib d (cribKey st phys)
    { c with credit := (Config.freeNat d.draws 40 % 147457 : Nat) - 32 * (convTime (convAt d st o 0) : Nat) }

/-- One CRIB.MVM of a SOLVE: its outputs, and what it does beside them, as any MVM of a routine (R103, R107, R120, R272,
R273, R515, R577). -/
def solveMvm (d : Dev) (st crib b reps : Nat) (q : List Int) : Dev × List W32 :=
  let o := solveOp d st crib b reps q
  let o := if eligible d st o 0 then o else { o with sampled := [] }
  let phys := physOf d st crib
  let outs := cribOuts d st o 0
  let fetches := fetchesOf d st o 0
  let keys := if fetches = [] then [] else weakKeys st phys b ((bankOf d (bankKey st phys b)).weak.length - 256)
  let waited := if hasSideWork d st o then Config.freeNat d.draws 41 else 0
  let e := spendCredit o st phys (dramTouchAll (countMvm st d phys) keys)
  let e := o.sampled.foldl (fun e c => takeSample st o.id c e) e
  let e := if fetches = [] then e else bumpBy e (stallReg st 0x90) fetches.length
  let e := mvmCounts d st o waited e
  ({ e with draws := e.draws + 1 }, outs)

/-- The outputs of a block for an input: those of its bank, or free values where its placement is of another module
(log 8). -/
def blockOuts (d : Dev) (reps : Nat) (e : Block) (q : List Int) : Dev × List W32 :=
  if e.module = d.pad.index then solveMvm d e.stall e.crib e.bank reps q
  else ({ d with draws := d.draws + 1 }, (List.range 1024).map fun j => (Config.freeWord d.draws j).setWidth 32)

/-- The 1,024 column scales of a block, where the feed wrote them. -/
def colScales (d : Dev) (e : Block) : Dev × List Nat :=
  let a := e.scale
  let r := if gSpace a = 0 then unitSramRead d (gStall a) (gBuf a) (gOff a) 4096 else memRead d a 4096
  (r.1, (List.range 1024).map fun j => fieldAt r.2 (4 * j) 4)

/-- The magnitude of FP32 bits. -/
def abs32 (a : Nat) : Nat := a % 2 ^ 31

/-- s of a block's 1,024 elements. -/
def scaleOf (z : List Nat) : Nat :=
  fdiv fp32 (z.foldl (fun m v => fmax fp32 false m (abs32 v)) 0) (fround fp32 false false (ofInt 127))

/-- q of an element: zero where s is zero, free where the quotient is no number (log 8). -/
def quantised (draw k s v : Nat) : Int :=
  if abs32 s = 0 then 0
  else
    match fdecode fp32 (fdiv fp32 v s) with
    | .fin neg m => max (-128) (min 127 (if neg then -(roundMag false m : Int) else (roundMag false m : Int)))
    | _ => (Config.freeNat draw k % 256 : Nat) - 128

/-- One addition: two numbers, by their places among those left, give way to their sum. -/
def addTwo (l : List Nat) (p : Nat × Nat) : List Nat :=
  let i := p.1 % l.length
  let rest := l.eraseIdx i
  let j := p.2 % rest.length
  fadd fp32 false (l.getD i 0) (rest.getD j 0) :: rest.eraseIdx j

/-- n additions, each of the two numbers that f picks. -/
def addUp (f : Nat → Nat × Nat) : Nat → List Nat → List Nat
  | 0, l => l
  | n + 1, l => addUp f n (addTwo l (f n))

/-- The sum of FP32 terms, every addition rounded (R241). In what order they are added is not said: any order may be meant,
and two terms have one sum (log 8). -/
def sum32 (l : List Nat) : Nat := (addUp (Config.sumPick (l.map (BitVec.ofNat 32 ·))) (l.length - 1) l).headD 0

/-- A block's part of y: s · colscale · out. R278 sums the outputs of a block row under TALL and scales them by s, which it
gives for each block; blocks of one row that stand in different columns have different s, so a TALL sum takes the outputs of
one block, and the parts are summed over the block columns in FP32, as R278 says (DESIGN CHOICE, log 8). -/
def blockPart (reps : Nat) (z : List Nat) (r : Dev × List (Nat × List Nat)) (e : Block) : Dev × List (Nat × List Nat) :=
  let zs := (z.drop (1024 * e.col)).take 1024
  let s := scaleOf zs
  let c := colScales r.1 e
  let o := blockOuts c.1 reps e (zs.mapIdx fun k v => quantised c.1.draws k s v)
  (o.1, r.2 ++ [(e.row, (List.range 1024).map fun j =>
    fmul fp32 false (fmul fp32 false s (c.2.getD j 0)) (cvtFromI fp32 false (o.2.getD j 0)))])

/-- y := Ac · z. -/
def operate (a : SolveArgs) (bs : List Block) (d : Dev) (z : List Nat) : Dev × List Nat :=
  let r := bs.foldl (blockPart a.repeats z) (d, [])
  (r.1, (List.range a.n).map fun i =>
    sum32 ((r.2.filter fun p => p.1 == i / 1024).map fun p => p.2.getD (i % 1024) 0))

/-! ### The inner solve: one cycle of GMRES (R278) -/

def dot32 (u v : List Nat) : Nat := sum32 ((u.zip v).map fun p => fmul fp32 false p.1 p.2)

def norm32 (u : List Nat) : Nat := fsqrt fp32 (dot32 u u)

/-- w less its part along v; the modified Gram–Schmidt step, with the coefficient. -/
def orthogonal (r : List Nat × List Nat) (v : List Nat) : List Nat × List Nat :=
  let h := dot32 r.1 v
  ((r.1.zip v).map fun p => fadd fp32 false p.1 (fneg fp32 (fmul fp32 false h p.2)), r.2 ++ [h])

/-- The Arnoldi process, at most n more steps: basis and columns of the Hessenberg matrix. A norm of zero ends it. -/
def arnoldi (op : Dev → List Nat → Dev × List Nat) : Nat → Dev → List (List Nat) → List (List Nat) →
    Dev × List (List Nat) × List (List Nat)
  | 0, d, vs, hs => (d, vs, hs)
  | n + 1, d, vs, hs =>
    let r := op d (vs.getLastD [])
    let g := vs.foldl orthogonal (r.2, [])
    let h := norm32 g.1
    let hs := hs ++ [g.2 ++ [h]]
    if abs32 h = 0 then (r.1, vs, hs) else arnoldi op n r.1 (vs ++ [g.1.map fun w => fdiv fp32 w h]) hs

/-! The least-squares problem of the cycle: y minimises the norm of β e₁ − H y. -/

/-- 1 in FP32. -/
def one32 : Nat := 0x3F800000

/-- The rotation that takes the second of two numbers to zero. -/
def rotationOf (a b : Nat) : Nat × Nat :=
  let r := fsqrt fp32 (fadd fp32 false (fmul fp32 false a a) (fmul fp32 false b b))
  if abs32 r = 0 then (one32, 0) else (fdiv fp32 a r, fdiv fp32 b r)

/-- A rotation of places i and i + 1. -/
def rotateAt (v : List Nat) (i : Nat) (r : Nat × Nat) : List Nat :=
  let a := v.getD i 0
  let b := v.getD (i + 1) 0
  (v.set i (fadd fp32 false (fmul fp32 false r.1 a) (fmul fp32 false r.2 b))).set (i + 1)
    (fadd fp32 false (fmul fp32 false r.1 b) (fneg fp32 (fmul fp32 false r.2 a)))

/-- Rotations of places 0, 1 and on, in order. -/
def rotateAll (rs : List (Nat × Nat)) (v : List Nat) : List Nat :=
  ((List.range rs.length).zip rs).foldl (fun v p => rotateAt v p.1 p.2) v

/-- Givens rotations of the columns of H, each first turned by those before it: the triangular columns and the turned right
side. -/
def givens (hs : List (List Nat)) (beta : Nat) : List (List Nat) × List Nat :=
  let r := hs.foldl (fun (s : List (Nat × Nat) × List (List Nat)) h =>
    let c := rotateAll s.1 h
    let k := s.1.length
    let t := rotationOf (c.getD k 0) (c.getD (k + 1) 0)
    (s.1 ++ [t], s.2 ++ [rotateAt c k t])) ([], [])
  (r.2, rotateAll r.1 (beta :: List.replicate hs.length 0))

/-- Back substitution from row n − 1 up; `ys` are the coefficients below. -/
def backSolve (cols : List (List Nat)) (g : List Nat) : Nat → List Nat → List Nat
  | 0, ys => ys
  | n + 1, ys =>
    let s := ((List.range ys.length).zip ys).foldl (fun s p =>
      fadd fp32 false s (fneg fp32 (fmul fp32 false ((cols.getD (n + 1 + p.1) []).getD n 0) p.2))) (g.getD n 0)
    let t := (cols.getD n []).getD n 0
    backSolve cols g n ((if abs32 t = 0 then 0 else fdiv fp32 s t) :: ys)

/-- The coefficients by Givens rotations. -/
def leastGivens (hs : List (List Nat)) (beta : Nat) : List Nat :=
  let r := givens hs beta
  backSolve r.1 r.2 hs.length []

/-- The norm of β e₁ − H y, in FP64. -/
def leastNorm (hs : List (List Nat)) (beta : Nat) (y : List Nat) : Nat :=
  let w (v : Nat) : Nat := widen64 (BitVec.ofNat 32 v)
  norm2 ((List.range (hs.length + 1)).map fun i =>
    ((List.range hs.length).zip hs).foldl (fun s p =>
      fadd fp64 false s (fneg fp64 (fmul fp64 false (w (p.2.getD i 0)) (w (y.getD p.1 0))))) (if i = 0 then w beta else 0))

/-- The coefficients of the cycle. The manual names no method for them: any may be meant that leaves no larger residual than
Givens rotations in FP32 do (log 8). -/
def leastOf (hs : List (List Nat)) (beta : Nat) : List Nat :=
  let y := leastGivens hs beta
  let z := (Config.solveLeast (hs.map fun h => h.map (BitVec.ofNat 32 ·)) (BitVec.ofNat 32 beta)).map (·.toNat)
  if z.length = hs.length ∧ fle (leastNorm hs beta z) (leastNorm hs beta y) then z else y

/-- The correction d of an outer step, FP32. -/
def solveInner (a : SolveArgs) (bs : List Block) (d : Dev) (r : Vec) : Dev × List Nat :=
  let r32 := r.map fun v => fround fp32 false false (fdecode fp64 v)
  let beta := norm32 r32
  if abs32 beta = 0 then (d, List.replicate a.n 0)
  else
    let g := arnoldi (operate a bs) a.inner d [r32.map fun v => fdiv fp32 v beta] []
    let y := leastOf g.2.2 beta
    (g.1, (List.range a.n).map fun i =>
      sum32 ((List.range g.2.2.length).map fun k =>
        fmul fp32 false (y.getD k 0) ((g.2.1.getD k []).getD i 0)))

/-! ### Routines of a SOLVE (R281) -/

/-- The stalls that hold the banks of a SOLVE's blocks. -/
def blockStalls (d : Dev) (bs : List Block) : List Nat :=
  ((bs.filter fun e => e.module == d.pad.index).map fun e => e.stall).eraseDups

/-- A buffer whose written bytes hold anything. -/
def scramble (draw st buf : Nat) (m : Sram) : Sram :=
  { m with bytes := m.bytes.map fun p => (p.1, p.2.map fun _ => Config.freeByte draw (bytePlace st buf p.1)) }

/-- Derier's own routine starts on a stall, at a routine boundary until the outer step; its outlier threshold is 128, and
what it leaves in the trough and the bin is not said: free values (log 8). -/
def startSolve (d : Dev) (c : Cmd) (st : Nat) : Dev :=
  let d := modCmd d c.cid fun c => { c with waiting := c.waiting.filter (· != st), running := c.running ++ [st] }
  modStall d st fun x =>
    { x with mode := .running, ending := none, owner := some c.cid, follow := false, pc := 0, thresh := 0x80, faultCode := 0,
             faultPc := 0, faultDetail := 0, rstack := [], held := some { why := .solve, raised := false },
             lateRaised := false, trough := scramble d.draws st 0 x.trough, bin := scramble d.draws st 1 x.bin }

/-- The routines that still run halt. -/
def haltSolve (d : Dev) (c : Cmd) : Dev :=
  c.running.foldl (fun d st =>
    modStall d st fun x => { x with mode := .idle, ending := none, owner := none, held := none, busy := false }) d

/-- The end of a solve: x is written, the routines halt, the record. -/
def endSolve (d : Dev) (c : Cmd) (a : SolveArgs) (s : SolveRun) (result : Nat) : Dev :=
  finish (haltSolve (derWrite d a.x (s.x.flatMap (toLe 8))) c) c
    { ends 0 with result := result, value0 := fdiv fp64 (norm2 s.r) s.nb, value1 := s.steps }

/-- The outer step of a solve, or its end (R278); each routine passes a boundary (R281). -/
def solveStep (d : Dev) (c : Cmd) (a : SolveArgs) (s : SolveRun) : Dev :=
  if fle (norm2 s.r) (fmul fp64 false a.tau s.nb) then endSolve d c a s 0
  else if a.steps ≤ s.steps then endSolve d c a s 1
  else
    let p := solveInner a s.blocks d s.r
    let d := dramTouchAll p.1 (blockKeys a s.blocks)
    let x := (List.range a.n).map fun i => fadd fp64 false (s.x.getD i 0) (widen64 (BitVec.ofNat 32 (p.2.getD i 0)))
    let r := residual d a s.blocks s.b x
    let flat := if fgt (norm2 r) (fmul fp64 false f09 (norm2 s.r)) then s.flat + 1 else 0
    let s := { s with x := x, r := r, flat := flat, steps := s.steps + 1 }
    if finite64 (norm2 r) = false ∨ fgt (norm2 r) (fmul fp64 false f1000 s.nb) then endSolve d c a s 3
    else if flat = 3 then endSolve d c a s 2
    else c.running.foldl boundary (putCmd d { c with solve := some s })

/-- A solve that has begun: a routine that faulted or was stopped ends it once its stalls have drained; else its waiting
routines start, and when all run it takes a step. -/
def solveNext (d : Dev) (c : Cmd) (s : SolveRun) : Option Dev :=
  if d.health.commandDown then none
  else if c.stopped ∨ c.ended ≠ [] ∨ c.running.any fun st => (stallOf d st).mode == .draining then
    if c.running.any fun st => (stallOf d st).mode == .draining then none
    else some (finish (haltSolve d c) c { ends (if c.stopped then 0x09 else 0x08) with result := if c.stopped then 0 else 2 })
  else if c.waiting ≠ [] then
    let sts := c.waiting.filter (mayStart d { c with solve := none })
    if sts = [] then none else some (sts.foldl (fun d st => startSolve d c st) d)
  else some (solveStep d c (solveArgs c.bytes) s)

/-- A SOLVE begins (R277, R279). -/
def solveDev (d : Dev) (c : Cmd) : Dev :=
  match paramRefusal d c with
  | some k => finish d c (ends k)
  | none =>
    let a := solveArgs c.bytes
    let bs := solveBlocks d a
    let b := readVec d a.b a.n
    let d := dramTouchAll d (tableKeys a)
    if tableOk a bs = false then finish d c (ends 0x02)
    else
      let d := dramTouchAll d (vecKeys a.b a.n)
      let s : SolveRun := { blocks := bs, b := b, x := List.replicate a.n 0, r := b, nb := norm2 b, steps := 0, flat := 0 }
      if zeroVec b then endSolve d c a s 0
      else if (blockStalls d bs).any fun st => (stallOf d st).gone then finish d c { ends 0x08 with result := 1 }
      else putCmd d { c with waiting := blockStalls d bs, solve := some s }

def execSolve (cid : Nat) (s : State) : Res :=
  match (cmdOf s.dev cid).bind (·.solve) with
  | none => startCmd "SOLVE" 0x32 anyForm cid solveDev s
  | some r => onDev "SOLVE" (fun d => (cmdOf d cid).bind fun c => solveNext d c r) s

end Sys2Proof.Machine
end

