-- ==== Sys2Proof/Machine/Epochs.lean ====
section
/-! DEFINITION. Epochs (11, R482 to R491; 09, R404 to R408; 10, R457): the request, posting, reports, completion,
retirement. -/

namespace Sys2Proof.Machine

open Sys2Proof

def putEpoch (d : Dev) (e : Epoch) : Dev :=
  setPad d { d.pad with epochs := d.pad.epochs.map fun x => if x.num = e.num then e else x }

/-! ### Settings of a request (R404, R408, R478, R483) -/

/-- Keys, by crib index, of the banks of a model's placements here. -/
def modelBanks (d : Dev) (id : Nat) : List (Nat × Nat × Nat) :=
  match modelOf d id with
  | some m => (ownPlacements d m).map fun p => (p.stall, p.crib, p.bank)
  | none => []

/-- A model's banks leave the live set, and a crib that defaulted to one has no default. A crib that held a replaced bank but
defaults to a bank of a third model keeps that default: of R404's bullets the third would give it a new bank or none, and the
fourth keeps every other default (DESIGN CHOICE, log 51). -/
def dropLive (s : Settings) (p : Nat × Nat × Nat) : Settings :=
  let c := 16 * p.1 + p.2.1
  { s with live := mput false s.live (indexKey p.1 p.2.1 p.2.2) false,
           dflt := if mget none s.dflt c = some (p.2.2 == 1) then mput none s.dflt c none else s.dflt }

/-- A bank becomes Live and the default of its crib; when a model places both banks of one crib, the later placement's bank
is the default (R404 is silent: DESIGN CHOICE, log 51). -/
def addLive (s : Settings) (p : Nat × Nat × Nat) : Settings :=
  { s with live := mput false s.live (indexKey p.1 p.2.1 p.2.2) true,
           dflt := mput none s.dflt (16 * p.1 + p.2.1) (some (p.2.2 == 1)) }

/-- A want as it is requested of every module. -/
def Want.offer (w : Want) : EpochOffer :=
  { target := w.target, power := w.power, factory := w.factory, activate := w.activate, retire := w.retire,
    noBanks := w.noBanks, takeover := w.takeover, refit := w.refit, fits := w.fits }

/-- The module index whose settings this module holds: its own, or on a standby the protected module's. -/
def settingsIndex (d : Dev) : Nat := if d.pad.role = .standby then d.pad.twinPeer else d.pad.index

/-- What a request leaves of the settings before it, on this module. -/
def applyWant (d : Dev) (o : EpochOffer) (s : Settings) : Settings :=
  let s := if o.noBanks then { s with live := [], dflt := [] } else s
  let s := match o.retire with
    | some id => (modelBanks d id).foldl dropLive s
    | none => s
  let s := match o.activate with
    | some id => (modelBanks d id).foldl addLive s
    | none => s
  if o.target = settingsIndex d then
    { s with power := o.power.getD s.power, factory := o.factory.getD s.factory }
  else s

/-- A Ready bank that a requested epoch names Live is Live (R85). -/
def makeLive (d : Dev) (k : Nat) : Dev :=
  modBank d (livePhys d k) fun b => if b.state = .ready then { b with state := .live } else b

/-- Epochs requested and not complete. -/
def openEpochs (d : Dev) : List Epoch := d.pad.epochs.filter fun e => !e.complete

/-- An epoch enters this module: its banks are Live from now on. -/
def newEpoch (d : Dev) (num : W32) (s : Settings) (act ret : Option Nat) (take : Option (Nat × Nat)) (refit : Bool)
    (fits : List (Nat × Corr)) : Dev :=
  let e : Epoch :=
    { num := num, set := s, reports := [], moduleDone := false,
      complete := false, slow := false, activates := act, retires := ret, takeover := take, refit := refit,
      fits := fits }
  (s.live.map (·.1)).foldl makeLive (setPad d { d.pad with epochs := d.pad.epochs ++ [e], requested := num })

/-- A REFIT of this module has ended here: a member has told the lead, and its fits wait for the epoch (R572). -/
def refitTold (d : Dev) : Bool := d.sense.refits.any fun r => r.2.1 && (cmdOf d r.1).isNone

/-- The fits that wait for it. -/
def heldFits (d : Dev) : List (Nat × Corr) :=
  if refitTold d then (d.sense.refits.map (·.2.2)).getD [] |>.filterMap fun f => f.2.map fun c => (f.1, c) else []

/-- A request arrives at this module: its settings follow from those of the newest requested epoch (R483). -/
def enterEpoch (d : Dev) (num : W32) (o : EpochOffer) : Dev :=
  let mine := o.refit && holdsIndex d o.target
  let d' := newEpoch d num (applyWant d o (settingsOf d d.pad.requested)) o.activate o.retire o.takeover mine
    (if mine then o.fits ++ heldFits d else [])
  if mine ∧ refitTold d then { d' with sense := { d'.sense with refits := none } } else d'

/-- EPOCH_REQUEST (R482, R484): the lead numbers the oldest wanted epoch, while fewer than 16 are outstanding, and sends the
request to every reachable module and twin. -/
def execEpochRequest : State → Res :=
  onDerier "EPOCH_REQUEST" fun d =>
    match d.pad.wants with
    | [] => none
    | w :: ws =>
      if follower d ∨ 16 ≤ (openEpochs d).length then none
      else
        let num := w.base.getD d.pad.requested + 1
        let d := enterEpoch (setPad d { d.pad with wants := ws }) num w.offer
        let d := match w.cid.bind (cmdOf d) with
          | some c => putCmd d { c with awaits := some num }
          | none => d
        some (tellAll d (.epochRequest num { w.offer with fits := [] }))

/-! ### Posting (R87, R406, R457, R487, R572) -/

/-- Some routine of the command is still to start or to run on the stall; a SOLVE that runs on another module uses the
stalls of its blocks here as well (R281). -/
def usesStall (d : Dev) (st : Nat) (c : Cmd) : Bool :=
  c.onStalls && !pAbort c && (if c.begun && !c.remote then c.waiting.contains st || c.running.contains st
    else if c.runs then (pStalls c).contains st && holdsIndex d (dModule c.desc)
    else (solveStallsAt d c d.pad.index).contains st)

/-- A fetched command with an older epoch holds back a change of banks on the stall, one of the lead that has not come here
too; a running FOLLOW routine does not hold back its own. -/
def heldBack (d : Dev) (st : Nat) (e : W32) : Bool :=
  (d.host.cmds.any fun c =>
    usesStall d st c && c.epoch != e && reached e c.epoch &&
      !((stallOf d st).owner == some c.cid && (stallOf d st).follow && !c.waiting.contains st)) ||
    d.pad.guests.any fun g => g.stalls.contains st && g.epoch != e && reached e g.epoch

/-- The newest epoch that a stall holds or has posted. -/
def postedOf (x : Stall) : W32 := x.posted.getD x.epoch

/-- The epochs after the one a stall has posted, up to e, in order. -/
def epochsTo (d : Dev) (st : Nat) (e : W32) : List W32 :=
  (d.pad.epochs.map (·.num)).filter fun n => n != postedOf (stallOf d st) && reached n (postedOf (stallOf d st)) && reached e n

/-- No step from one epoch to the next changes the stall's banks, unless the stall may take such a change. -/
def stepsOk (d : Dev) (st : Nat) : W32 → List W32 → Bool
  | _, [] => true
  | b, n :: ns =>
    (sameBanks d b n st ||
      (((stallOf d st).mode == .idle || ((stallOf d st).mode == .running && (stallOf d st).follow)) &&
        !heldBack d st n)) && stepsOk d st n ns

/-- The epoch can be posted to the stall now. -/
def mayPost (d : Dev) (e : W32) (st : Nat) : Bool :=
  !(stallOf d st).gone && postedOf (stallOf d st) != e && reached e (postedOf (stallOf d st)) &&
    stepsOk d st (postedOf (stallOf d st)) (epochsTo d st e)

/-- The fits that epochs up to e hold for a bank of the stall become pending, but none outside the limits of R123. -/
def postFits (d : Dev) (st : Nat) (ns : List W32) : Dev :=
  (d.pad.epochs.filter fun x => ns.contains x.num).foldl (fun d x =>
    (x.fits.filter fun f => f.1 / 34 == st && corrOk f.2).foldl (fun d f => modBank d f.1 fun b => { b with pend := some f.2, fit := none }) d) d

/-- The epoch is posted to a stall. -/
def postStall (e : W32) (d : Dev) (st : Nat) : Dev :=
  modStall (postFits d st (epochsTo d st e)) st fun x => { x with posted := some e }

/-- Every usable stall has reported e or a later epoch. -/
def stallsReported (d : Dev) (e : W32) : Bool :=
  (List.range stallCount).all fun st => (stallOf d st).gone || reached (stallOf d st).reported e

/-- The limiter takes the newest posted epoch whose limit is no higher than the one it applies, or that every usable
stall has reported (R487). -/
def limiterStep (d : Dev) : Dev :=
  let ok (x : Epoch) : Bool := reached d.pad.limiterPosted x.num && x.num != d.pad.limiterEpoch &&
    reached x.num d.pad.limiterEpoch &&
    (x.set.power ≤ (settingsOf d d.pad.limiterEpoch).power || stallsReported d x.num)
  match (d.pad.epochs.filter ok).getLast? with
  | some x => setPad d { d.pad with limiterEpoch := x.num }
  | none => d

/-- What EPOCH_POST posts: limiter and farrier at once, and the stalls that may take it. -/
def postEpoch (d : Dev) (e : W32) : Option Dev :=
  let sts := (List.range stallCount).filter (mayPost d e)
  let fresh := !(d.pad.limiterPosted == e || reached d.pad.limiterPosted e)
  if fresh = false ∧ sts = [] then none
  else
    let d := if fresh then setPad d { d.pad with limiterPosted := e, farrierPosted := e } else d
    some (limiterStep (sts.foldl (postStall e) d))

/-- EPOCH_POST (R406, R457, R484). On a member or a twin the first post of an epoch brings the lead's request. -/
def execEpochPost (epoch : W32) (offer : Option EpochOffer) : State → Res :=
  onDerier "EPOCH_POST" fun d =>
    if (epochOf d epoch).isSome then postEpoch d epoch
    else
      match offer with
      | none => none
      | some o =>
        if follower d ∧ reached epoch d.pad.requested then postEpoch (enterEpoch d epoch { o with fits := [] }) epoch
        else none

/-! ### Reports and completion (R485, R486) -/

/-- STALL_EPOCH_REPORT. -/
def execStallEpochReport (st : Nat) : State → Res :=
  onDev "STALL_EPOCH_REPORT" fun d =>
    let x := stallOf d st
    if x.gone ∨ x.reported = x.epoch then none
    else some (limiterStep (modStall d st fun y => { y with reported := y.epoch }))

/-- Every reporting unit of this module has reported the epoch. -/
def unitsReported (d : Dev) (e : W32) : Bool :=
  stallsReported d e && reached d.pad.limiterEpoch e && reached d.pad.farrierEpoch e

/-- The takeover epoch is complete (R494, R501): the module that has the index is Serving, and the lead raises
TAKEOVER_DONE. -/
def takeoverDone (d : Dev) (m entry : Nat) : Dev :=
  let d := if holdsIndex d m ∧ d.pad.twin = .inStep then setPad d { d.pad with twin := .serving } else d
  if follower d then d else raiseEvent d 0 6 0x33 m entry

/-- What the completion of an epoch does: its models change state, and its command ends. -/
def epochEffects (d : Dev) (e : Epoch) : Dev :=
  let d := match e.activates with
    | some id => setModelState (markBusy d id false) id .active
    | none => d
  let d := match e.retires with
    | some id => setModelState (markBusy d id false) id .retiring
    | none => d
  let d : Dev := match e.takeover with
    | some (m, entry) => takeoverDone d m entry
    | none => d
  (d.host.cmds.filter fun c => c.awaits == some e.num).foldl (fun d c =>
    finish d c { ends 0 with value0 := if dOpcode c.desc = 0x60 then d.pad.size else e.num.toNat }) d

/-- A module counts for an epoch: a taken index does from its takeover epoch onward (R491). -/
def countsFor (d : Dev) (e : W32) (m : Nat) : Bool :=
  (stageModules d).contains m && d.pad.away.all fun p => p.1 != m || reached e p.2

/-- Every reachable module, and every twin in step or copying, has reported the epoch or a later one. -/
def allReported (d : Dev) (e : Epoch) : Bool :=
  (stageModules d).all fun m => !countsFor d e.num m || e.reports.contains m

/-- Epochs complete in numerical order; at most n of them. The lead tells every module. -/
def completeEpochs : Nat → Dev → Dev
  | 0, d => d
  | n + 1, d =>
    match (openEpochs d).head? with
    | none => d
    | some e =>
      if allReported d e = false then d
      else
        let e := { e with complete := true }
        let d := putEpoch d e
        completeEpochs n (tellAll (epochEffects (setPad d { d.pad with complete := e.num }) e) (.epochComplete e.num))

/-- A module's report of e counts for every requested epoch up to e. -/
def reportEpoch (d : Dev) (m : Nat) (e : W32) : Dev :=
  let note (x : Epoch) : Epoch :=
    if reached e x.num ∧ x.complete = false ∧ x.reports.contains m = false then { x with reports := x.reports ++ [m] } else x
  setPad d { d.pad with epochs := d.pad.epochs.map note }

/-- A member learns from the lead that epochs up to e are complete. -/
def learnComplete (e : W32) : Nat → Dev → Dev
  | 0, d => d
  | n + 1, d =>
    match (openEpochs d).head? with
    | none => d
    | some x =>
      if reached e x.num = false then d
      else
        let x := { x with complete := true }
        let d := putEpoch d x
        learnComplete e n (epochEffects (setPad d { d.pad with complete := x.num }) x)

/-- MODULE_EPOCH_REPORT (R485, R486): this module's report, at the lead another module's, and on a member the lead's word
that the epoch is complete. -/
def execModuleEpochReport (module : Nat) (epoch : W32) : State → Res :=
  onDerier "MODULE_EPOCH_REPORT" fun d =>
    match epochOf d epoch with
    | none => none
    | some e =>
      if module = here d ∧ e.moduleDone = false then
        if unitsReported d epoch then
          let d := putEpoch d { e with moduleDone := true }
          if follower d then some (sendMsg d 0 (.epochReport epoch))
          else some (completeEpochs 16 (reportEpoch d module epoch))
        else none
      else if follower d ∧ module = 0 ∧ e.complete = false then some (learnComplete epoch 16 d)
      else if d.pad.role = .lead ∧ module ≠ d.pad.index ∧ (stageModules d).contains module ∧
          e.reports.contains module = false ∧ e.complete = false then
        some (completeEpochs 16 (reportEpoch d module epoch))
      else none

/-- A record is busy only while an epoch that activates or retires it is wanted or not complete: one whose command is gone
with its wanted epoch is as it was before (R503). -/
def settleBusy (d : Dev) : Dev :=
  let names (id : Nat) : Bool :=
    (d.pad.wants.any fun w => w.activate == some id || w.retire == some id) ||
      (openEpochs d).any fun e => e.activates == some id || e.retires == some id
  setModels d (d.feed.models.map fun m =>
    if m.busy = false ∨ names m.id then m
    else { m with busy := false, state := if m.state = .retiring then .active else m.state })

/-! ### Retirement (R85, R407, R489) -/

/-- An epoch is in use on this module. -/
def epochInUse (d : Dev) (e : W32) : Bool :=
  (List.range stallCount).any (fun st =>
    let x := stallOf d st
    (!x.gone && x.epoch == e) || x.cribOps.any fun o => o.epoch == e) ||
    d.pad.limiterEpoch == e || d.pad.farrierEpoch == e ||
    d.host.cmds.any (fun c => c.onStalls && c.epoch == e) ||
    d.attn.jobs.any fun j => j.epoch == e

/-- A bank that no epoch left names Live is Ready (R85). -/
def dropBank (d : Dev) (k : Nat) : Dev :=
  if d.pad.epochs.any fun e => mget false e.set.live k then d
  else modBank d (livePhys d k) fun b => if b.state = .live then { b with state := .ready } else b

/-- The record of a retired model is freed when no epoch left names its banks Live (R391, R407). -/
def freeRetired (d : Dev) : Dev :=
  let done := d.feed.models.filter fun m => m.state == .retiring && !m.busy &&
    (modelBanks d m.id).all fun p => d.pad.epochs.all fun e => !mget false e.set.live (indexKey p.1 p.2.1 p.2.2)
  done.foldl (fun d m => dropModel d m.id) d

/-- EPOCH_RETIRE. `elsewhere` names the other modules on which the epoch is in use; those that do not count any more hold
nothing back (R491). The lead tells the others that it has retired. -/
def execEpochRetire (epoch : W32) (elsewhere : List Nat) : State → Res :=
  onDerier "EPOCH_RETIRE" fun d =>
    match d.pad.epochs with
    | [] => none
    | e :: rest =>
      if e.num ≠ epoch ∨ d.pad.complete = epoch ∨ reached d.pad.complete epoch = false ∨ epochInUse d epoch ∨
          elsewhere.any (fun m => m != here d && countsFor d epoch m) then none
      else
        some (tellAll (freeRetired ((e.set.live.map (·.1)).foldl dropBank (setPad d { d.pad with epochs := rest })))
          (.epochRetired epoch))

/-! ### EPOCH_SLOW (R490) -/

/-- The unit of this module that has not reported: the lowest stall, or the limiter, or the farrier. -/
def slowUnit (d : Dev) (e : W32) : Nat :=
  match firstBelow stallCount fun st => !(stallOf d st).gone && !reached (stallOf d st).reported e with
  | some st => stallNumber d st
  | none => if reached d.pad.limiterEpoch e then 0x20000 else 0x10000

/-- EPOCH_SLOW: `unit` is what another module's Derier names. -/
def execEpochSlow (epoch : W32) (unit : Nat) : State → Res :=
  onDev "EPOCH_SLOW" fun d =>
    match epochOf d epoch with
    | none => none
    | some e =>
      if e.complete ∨ e.slow ∨ follower d then none
      else
        let late := (stageModules d).filter fun m => countsFor d epoch m && !e.reports.contains m
        let m := (late.foldl (fun (x : Option Nat) y => some (min y (x.getD y))) none).getD 0
        some (raiseEvent (putEpoch d { e with slow := true }) 0 6 0x37 (epoch.toNat + 2 ^ 32 * (m % 64))
          (if m = d.pad.index then slowUnit d epoch else unit))

end Sys2Proof.Machine
end

