-- ==== Sys2Proof/Machine/Remote.lean ====
section
/-! DEFINITION. The remote instructions, the fences and WAITC at issue (04, R175 to R179; 02, R49 to R67). -/

namespace Sys2Proof.Machine

open Sys2Proof

/-- The target of PUT, GET and AADD: a[d] + s[b]. -/
def target (i : Ins) (x : Stall) : W64 := aGet x i.d + sGet x i.b

/-- The encoded length. -/
def remLen (i : Ins) : Nat := bitsOf i.imm 15 0 + 1

/-- PUT, PUT.S with data and PUT.F: the source range is read at issue (R50, R178). -/
def putIssue (k : RemKind) (st : Nat) (i : Ins) (x : Stall) (d : Dev) : Issue :=
  let tctr := if k = .putS then bitsOf i.imm 24 21 else 0
  if k = .putS ∧ bitAt i.imm 25 then remoteOp d st (netOp k (target i x) [] 0 tctr) 0 (insCtr i)
  else
    withLocal d st (sGet x i.a) (remLen i) 1 fun buf off =>
      match remoteOp d st (netOp k (target i x) (sramRead d st buf off (remLen i)) (remLen i) tctr) 0 (insCtr i) with
      | .go d' nx => .go (sramTouch d' st buf off (remLen i)) nx
      | r => r

/-- GET: its destination range is checked and is undefined until it completes (R51, R178). -/
def getIssue (st : Nat) (i : Ins) (x : Stall) (d : Dev) : Issue :=
  withLocal d st (sGet x i.a) (remLen i) 1 fun buf off =>
    remoteOp d st (netOp .get (target i x) [] (remLen i) 0) (buf * 2 ^ 18 + off) (insCtr i)

/-- AADD: lanes 0 to n − 1 are the addends (R175). -/
def aaddIssue (k : RemKind) (st : Nat) (i : Ins) (x : Stall) (d : Dev) : Issue :=
  let n := bitsOf i.imm 5 0 + 1
  let data := (List.range n).flatMap fun j => toLe (elemSize k) (vLane x i.a j).toNat
  remoteOp d st (netOp k (target i x) data (elemSize k * n) 0) 0 (insCtr i)

/-- FADD: the addend is s[b], the result register s[d]. -/
def faddIssue (k : RemKind) (st : Nat) (i : Ins) (x : Stall) (d : Dev) : Issue :=
  remoteOp d st (netOp k (aGet x i.a) (toLe (elemSize k) (sGet x i.b).toNat) (elemSize k) 0) i.d (insCtr i)

/-- A fence holds its stall while an operation in its scope is incomplete (R65, R195). -/
def fenceIssue (scope : Dev → Nat → RemOp → Bool) (st : Nat) (_i : Ins) (_x : Stall) (d : Dev) : Issue :=
  if (opsOf d st).any (scope d st) then .wait .drain else .go d none

def scopeD (d : Dev) (st : Nat) (o : RemOp) : Bool :=
  holdsIndex d (gModule (tAddr o)) && gSpace (tAddr o) == 0 && gDie (tAddr o) == st / 256

def scopeY (d : Dev) (_st : Nat) (o : RemOp) : Bool := holdsIndex d (gModule (tAddr o))
def scopeP (_d : Dev) (_st : Nat) (_o : RemOp) : Bool := true

/-- WAITC (R63, R177). -/
def waitcIssue (_st : Nat) (i : Ins) (x : Stall) (d : Dev) : Issue :=
  if reached (cGet x i.d) (BitVec.ofNat 32 (sGet x i.a + sextImm i 32).toNat) then .go d none else .wait .counter

def execPut (st : Nat) : State → Res := issue "PUT" 0x50 formPut st (putIssue .put st)
def execPutS (st : Nat) : State → Res := issue "PUT_S" 0x51 formPutS st (putIssue .putS st)
def execPutF (st : Nat) : State → Res := issue "PUT_F" 0x52 formPutF st (putIssue .putF st)
def execGet (st : Nat) : State → Res := issue "GET" 0x53 formPut st (getIssue st)
def execAaddI32 (st : Nat) : State → Res := issue "AADD_I32" 0x54 formAadd st (aaddIssue .aaddI32 st)
def execAaddF32 (st : Nat) : State → Res := issue "AADD_F32" 0x55 formAadd st (aaddIssue .aaddF32 st)
def execAaddBf16 (st : Nat) : State → Res := issue "AADD_BF16" 0x56 formAadd st (aaddIssue .aaddBf16 st)
def execFaddI32 (st : Nat) : State → Res := issue "FADD_I32" 0x57 formFadd st (faddIssue .faddI32 st)
def execFaddI64 (st : Nat) : State → Res := issue "FADD_I64" 0x58 formFadd st (faddIssue .faddI64 st)
def execFenceD (st : Nat) : State → Res := issue "FENCE_D" 0x59 formPlain st (fenceIssue scopeD st)
def execFenceY (st : Nat) : State → Res := issue "FENCE_Y" 0x5A formPlain st (fenceIssue scopeY st)
def execFenceP (st : Nat) : State → Res := issue "FENCE_P" 0x5B formPlain st (fenceIssue scopeP st)
def execWaitc (st : Nat) : State → Res := issue "WAITC" 0x5C formWaitc st (waitcIssue st)

/-! ### Remote operations at their homes, and their completion -/

/-- PUT_PERFORM (R49): the bytes of a PUT, or the bytes and the signal of a PUT.S. -/
def execPutPerform (id : Nat) : State → Res :=
  onDev "PUT_PERFORM" fun d =>
    match arriving d id with
    | some o => if o.op.kind = .put ∨ o.op.kind = .putS then some (performPut d o) else none
    | none => none

/-- PUT_F_ARRIVE (R211, R213). -/
def execPutFArrive (id : Nat) : State → Res :=
  onDev "PUT_F_ARRIVE" fun d =>
    match arriving d id with
    | some o => if o.op.kind = .putF then some (arrive d o) else none
    | none => none

/-- GET_PERFORM. -/
def execGetPerform (id : Nat) : State → Res :=
  onDev "GET_PERFORM" fun d =>
    match arriving d id with
    | some o => if o.op.kind = .get then some (performGet d o) else none
    | none => none

/-- ATOMIC_PERFORM (R346). -/
def execAtomicPerform (id : Nat) : State → Res :=
  onDev "ATOMIC_PERFORM" fun d =>
    match arriving d id with
    | some o => if isAtomic o.op.kind then some (performAtomic d o) else none
    | none => none

/-- HOLD_RESEND (R216): the refused operations of a source arrive again, in issue order. -/
def execHoldResend (src dst : Nat) : State → Res :=
  onDev "HOLD_RESEND" fun d =>
    if (stallOf d dst).refused.contains src then
      let d := modStall d dst fun x => { x with refused := x.refused.filter (· != src) }
      let mine := d.ops.filter fun o =>
        o.phase == .refused && srcNum o == src && gSpace (tAddr o) == 0 && gStall (tAddr o) == dst
      some (mine.foldl arrive d)
    else none

/-- What completion writes at the source: the GET's bytes, the FADD's value, the counter (R49, R62, R195). All bytes of a
GET land at its completion, over whatever a store or a PUT has put there since its issue (DESIGN CHOICE, log 3). -/
def completeOp (d : Dev) (o : RemOp) : Dev :=
  let st := o.op.srcStall
  let d := dropOp d o.id
  let d :=
    if o.op.kind = .get ∧ (stallOf d st).gone = false then
      sramWrite d st (o.dest / 2 ^ 18) (o.dest % 2 ^ 18) o.back
    else if isFadd o.op.kind ∧ o.orphan = false then
      modStall d st fun x => sSet x o.dest (BitVec.ofNat 64 (leNat o.back))
    else d
  match o.ctr with
  | some k => addCounter d st k
  | none => d

/-- REMOTE_COMPLETE (R62). -/
def execRemoteComplete (id : Nat) : State → Res :=
  onDev "REMOTE_COMPLETE" fun d =>
    match opOf d id with
    | some o => if o.own ∧ o.phase = .performed then some (completeOp d o) else none
    | none => none

end Sys2Proof.Machine
end

