-- ==== Sys2Proof/Machine/Reset.lean ====
section
/-! DEFINITION. The handshake and the resets of functions, of the host link and of the module (10, R426, R463 to R465;
13, R585; 14, R606). -/

namespace Sys2Proof.Machine

open Sys2Proof

/-! ### HS_GO (R337, R426) -/

/-- The bits of `DRAM_LAYOUT` that are not reserved (R367). -/
def layoutMask : W64 := 0x00000FFFFF7F7F7F

/-- Every check of R337 and R426 on the proposed layout. -/
def layoutOk (layout nbLog2 : Nat) : Bool :=
  let h := bitsOf layout 6 0
  let l := bitsOf layout 14 8
  let sw := bitsOf layout 22 16
  let top := bitsOf layout 31 24
  between h 10 80 && between l 1 64 && between sw 0 64 && between top 4 255 && between (bitsOf layout 43 32) 0 4092
    && listBase + l * gib + sw * gib ≤ h * gib && 8 * h + top ≤ 640 && 2 ^ nbLog2 * 128 + 3 * gib ≤ top * gib

/-- The space 0x1 offset of a DRAM key (R39). -/
def space1Off (key : Nat) : Nat := (key % stackSize / 2048 * 8 + key / stackSize) * 2048 + key % 2048

/-- The prefix table is zeroed, by whole lines: a failing line that waits for such a write takes its entry (R356). -/
def zeroPrefixTable (d : Dev) : Dev :=
  let hit (key : Nat) : Bool := reserveBase d ≤ space1Off key && space1Off key < reserveBase d + 2 ^ d.host.nbLog2 * 128
  { d with
    mem := { d.mem with dram := d.mem.dram.filter (fun p => !hit p.1)
                        dramErr := d.mem.dramErr.filter fun p => !hit (64 * p.1)
                        dramRemap := d.mem.dramRemap.map fun e =>
                          if hit (dramKey (e.1 / 32) (64 * e.2.1)) then (e.1, e.2.1, e.2.2.1, true) else e }
    attn := { d.attn with prefixes := [] } }

/-- HS_GO: the handshake. -/
def execHsGo (value : W64) : State → Res :=
  always fun d =>
    if value.getLsbD 0 = false ∨ d.host.state ≠ .handshake then d
    else if layoutOk d.host.hsLayout.toNat d.host.hsNb = false then { d with host := { d.host with fail := 1 } }
    else
      let d := setMem d { d.mem with layout := d.host.hsLayout &&& layoutMask }
      zeroPrefixTable { d with host := { d.host with state := .running, fail := 0, nbLog2 := d.host.hsNb } }

/-! ### Function Level Reset (R464) -/

/-- The MSI-X table and pending bits of a function as after reset (log 10): it sends no message. -/
def clearMsix (d : Dev) (fn : Nat) : Dev :=
  { d with host := { d.host with msix := d.host.msix.filter (fun p => p.1 / 4096 != fn)
                                 msixPending := d.host.msixPending.filter fun p => p.1 / 1024 != fn } }

/-- One command of the function ends without a record: its routines are stopped, a stage is abandoned (R391, log 32), every
other ends. -/
def resetCmd (reason : Nat) (d : Dev) (c : Cmd) : Dev :=
  if c.begun ∧ c.onStalls ∧ c.remote = false then
    let c := { c with ring := noRing, lead := none }
    stopRoutines reason (putCmd d c) c
  else
    let d := dropCmd (freeAway d c) c.cid
    match d.feed.stages.find? fun s => s.cid == some c.cid with
    | some s => closeStage d { s with results := [(d.pad.index, 0x0C)] } 0x0C
    | none => d

/-- Sequences of a function. -/
def seqIdsOf (d : Dev) (fn : Nat) : List Nat :=
  (d.attn.seqs.filter fun p => match p.2 with
    | some q => q.owner == fn
    | none => false).map (·.1)

/-- A function's commands on this module end and its sequences close. -/
def endFunction (reason : Nat) (d : Dev) (fn : Nat) : Dev :=
  let d := (d.host.cmds.filter fun c => c.fn == fn).foldl (resetCmd reason) d
  (seqIdsOf d fn).foldl closeSeq d

/-- One function is reset: rings Free, routines stopped, sequences closed, other commands ended, on every module of the
paddock, and requests stopped. The commands and sequences of a member or a standby are those of the lead's functions, which
a reset of its own does not touch (R445). -/
def resetFunction (reason : Nat) (d : Dev) (fn : Nat) : Dev :=
  let d := if fn = 0 then { d with host := { d.host with cfg := { d.host.cfg with vfEnable := false } } } else d
  if follower d then clearMsix d fn
  else
    let d := (ringsOf d fn).foldl freeRing d
    clearMsix (endFunction reason ((others d).foldl (fun d m => sendMsg d m (.resetFn fn reason)) d) fn) fn

/-- The PF and every VF (R414). -/
def allFunctions : List Nat := List.range 129

/-- FUNCTION_LEVEL_RESET: of the PF, of every VF as well. -/
def execFunctionLevelReset (fn : Nat) : State → Res :=
  alwaysDerier fun d => (if fn = 0 then allFunctions else [fn]).foldl (resetFunction 0x02) d

/-- The host link is lost (R465): every function, with reason LINK. STATE stays as it is. -/
def linkLost (d : Dev) : Dev :=
  let d := allFunctions.foldl (resetFunction 0x03) d
  { d with host := { d.host with linkUp := false } }

def execHotReset : State → Res := alwaysDerier linkLost

/-- HOST_LINK_RETRAINED (R465): PERST_N is high and PC has locked. -/
def execHostLinkRetrained : State → Res :=
  onDev "HOST_LINK_RETRAINED" fun d =>
    if d.host.linkUp = false ∧ d.board.powered ∧ d.board.perstLow = false ∧
        (d.host.state = .running ∨ d.host.state = .handshake ∨ d.host.state = .failed) then
      some { d with
        host := { d.host with linkUp := true }
        sense := { d.sense with lock := d.sense.lock ||| 0x40 } }
    else none

/-- Steps 7 and 8 of the power-up sequence (R589, R606). -/
def trainHost (d : Dev) : Dev :=
  { d with
    host := { d.host with state := .handshake, step := 8, linkUp := true }
    sense := { d.sense with lock := d.sense.lock ||| 0x40 } }

/-- PERST_N: assertion acts as a hot reset; its release lets step 7 begin. -/
def execPerstN (level : Bool) : State → Res :=
  alwaysDerier fun d =>
    let b := { d.board with perstLow := !level }
    if level = false then (if d.board.perstLow then d else linkLost { d with board := b })
    else
      let d := { d with board := b }
      if d.board.powered ∧ d.host.state = .booting ∧ d.host.step = 6 then trainHost d else d

/-! ### Module reset and shutdown (R44, R129, R357, R359, R413, R536, R543, R553, R585) -/

/-- What a bank keeps: its image, tag, weak list, format and wear. A bank that was Loading is Empty. Correction sets do not
survive (R585): power-up fits those of the banks with a valid tag (R130), and the rest have none. -/
def keptBank (b : Bank) : Bank :=
  if b.state = .loading then { Bank.reset with wear := b.wear, format := b.format }
  else
    { Bank.reset with
      state := if b.state = .live then .ready else b.state
      wear := b.wear, format := b.format, tag := b.tag, weak := b.weak, image := b.image, refs := b.refs,
      refWeak := b.refWeak }

/-- What a stall keeps: its retirement and its spare's index. -/
def keptStall (x : Stall) : Stall :=
  { Stall.reset with
    gone := x.gone, pendingRetire := x.pendingRetire, spareIndex := x.spareIndex
    mode := if x.gone then .retired else .idle }

/-- What the memories keep: the loft, its wear, and the DRAM remap entries that are reloaded. Every line is then written
whole with zero (R358), so a line that waited for such a write has taken its entry (R356). -/
def keptMemory (m : Memory) : Memory :=
  { Memory.reset with
    loft := m.loft, loftErr := m.loftErr, loftBad := m.loftBad, record := m.record, wear := m.wear
    dramRemap := m.dramRemap.map fun e => (e.1, e.2.1, e.2.2.1, true) }

/-- What the record area keeps for the health block. -/
def keptHealth (h : Health) : Health :=
  { h with
    probe := true, vet := true, vetAt := [], samples := [], commandDown := false, healthDown := false, lost := [],
    sendQueue := []
    sendOverflow := false, pushTotal := 0, pushBytes := [] }

/-- The module after a reset, with the cause a record holds, if any. What has left the module has left it. -/
def moduleReset (d : Dev) (record : Option Nat) : Dev :=
  { Dev.reset with
    draws := d.draws, nextId := d.nextId, out := d.out
    stalls := (d.stalls.map fun p => (p.1, keptStall p.2)).filter fun p => p.2 != Stall.reset
    banks := (d.banks.map fun p => (p.1, keptBank p.2)).filter fun p => p.2 != Bank.reset
    mem := keptMemory d.mem
    feed := { Feed.reset with keys := d.feed.keys, catalog := d.feed.catalog }
    host := { HostIf.reset with nextCid := d.host.nextCid }
    health := keptHealth d.health
    sense := { Sense.reset with
      factoryCorr := d.sense.factoryCorr, factoryTables := d.sense.factoryTables, lastUnlock := d.sense.lastUnlock }
    board := { d.board with causeRecord := record, pwrOk := false } }

/-- A shutdown removes power from every die (R585); `LAST_UNLOCK` does not survive it (R593). -/
def powerOff (d : Dev) (record : Option Nat) : Dev :=
  let d := moduleReset d record
  { d with board := { d.board with powered := false, unlockRaise := false }, sense := { d.sense with lastUnlock := 0 } }

end Sys2Proof.Machine
end

