-- ==== Sys2Proof/Machine/Twin.lean ====
section
/-! DEFINITION. Twins (11, R492 to R499): the initial copy, mirrored writes and state, and the end of a binding. -/

namespace Sys2Proof.Machine

open Sys2Proof

/-! ### The copy (R497) -/

/-- The lines of the mirrored DRAM ranges that hold something, on this module. -/
def mirroredLines (d : Dev) : List Nat :=
  let keys : List Nat := d.mem.dram.map Prod.fst ++ d.mem.dramErr.map fun p => 64 * p.1
  ((keys.filter (mirroredDram d)).map lineOf).eraseDups

/-- The units of the mirrored loft range that hold something, on this module. -/
def mirroredUnits (d : Dev) : List Nat :=
  let offs : List Nat := d.mem.loft.map Prod.fst ++ d.mem.loftErr.map fun p => 256 * p.1
  ((offs.filter (mirroredLoft d)).map unitOf).eraseDups

/-- The bytes of some blocks of n bytes. -/
def blockBytes (n : Nat) (bs : List Nat) (f : Nat → Byte) : List (Nat × Byte) :=
  bs.flatMap fun b => (List.range n).map fun k => (n * b + k, f (n * b + k))

def copyDram (d : Dev) : List (Nat × Byte) := blockBytes 64 (mirroredLines d) (mget 0 d.mem.dram)

def copyLoft (d : Dev) : List (Nat × Byte) := blockBytes 256 (mirroredUnits d) (mget 0 d.mem.loft)

/-- A Ready or Live bank as the copy sends it. -/
def bankCopy (d : Dev) (k : Nat) : TwinBank :=
  let b := bankOf d (livePhys d k)
  { key := k, format := b.format, tag := b.tag, state := b.state, image := b.image,
    pins := pinsOf (stallOf d (k / 32)) (k / 2 % 16) (k % 2)
    scales := bankScales d k }

/-- The banks of the copy: with MODELS, every Ready or Live one. -/
def copyBanks (d : Dev) : List TwinBank :=
  if d.pad.mirror.getLsbD 0 then
    ((bankStates d).filter fun p => p.2.1 == .ready || p.2.1 == .live).map fun p => bankCopy d p.1
  else []

/-- The protected module sends every mirrored range and bank, reading its own memory, and then Derier's state. Mirrored writes
follow on the same link, so a copied line and a write to it arrive in the order in which they were performed. -/
def sendCopy (d : Dev) : Dev :=
  let d := (mirroredUnits d).foldl loftTouch ((mirroredLines d).foldl dramTouch d)
  mirrorState (sendTwin d (.twinCopy d.pad.mirror (copyDram d) (copyLoft d) (copyBanks d)))

/-- With MODELS, the banks that the copy does not program are Empty on the standby (R498). -/
def emptyBanks (d : Dev) : Dev :=
  if d.pad.mirror.getLsbD 0 then
    { d with banks := d.banks.map fun p => if p.2.state = .loading then p else (p.1, { p.2 with state := .empty, tag := 0 }) }
  else d

/-- The standby takes the copy: every mirrored byte is as it is on the protected module, zero where that holds nothing. -/
def takeCopy (d : Dev) (src : Nat) (mirror : W32) (dram loft : List (Nat × Byte)) (banks : List TwinBank) : Dev :=
  let d := setPad d { d.pad with twin := .copying, twinPeer := src, mirror := mirror, twinBanks := banks }
  let own := (mirroredLines d).filter fun l => !dram.any fun p => lineOf p.1 == l
  let ownUnits := (mirroredUnits d).filter fun u => !loft.any fun p => unitOf p.1 == u
  let d := dramWrite d (dram ++ blockBytes 64 own fun _ => 0)
  checkCopy (emptyBanks (loftWrite d (loft ++ blockBytes 256 ownUnits fun _ => 0)))

/-! ### Mirrored state (R492, R498) -/

/-- Model records as mirrored, but those of a stage in progress here, which places them itself. -/
def mergeModels (d : Dev) (l : List Model) : List Model :=
  let mine := d.feed.models.filter fun m => d.feed.stages.any fun s => s.model == m.id
  (l.filter fun m => !mine.any fun x => x.id == m.id) ++ mine

/-- A bank's state follows the protected module's, but while it programs or waits to be programmed; and it is Ready or Live
only once its own tag is the protected bank's (R86, R498). -/
def followState (d : Dev) (p : Nat × BankState × BitVec 256) : Dev :=
  let b := bankOf d (livePhys d p.1)
  let usable : Bool := p.2.1 == .ready || p.2.1 == .live
  if b.state = .loading ∨ (d.pad.twinBanks.any fun t => t.key == p.1) ∨ (usable ∧ b.tag ≠ p.2.2) then d
  else modBank d (livePhys d p.1) fun b => { b with state := p.2.1 }

/-- The newest epoch of the protected module, where the standby does not hold it yet. -/
def followEpoch (d : Dev) (x : TwinData) : Dev :=
  let d := if (epochOf d x.requested).isNone ∧ reached x.requested d.pad.requested then
      newEpoch d x.requested x.set none none none false []
    else d
  if reached x.complete d.pad.complete then
    setPad d { d.pad with
      complete := x.complete
      epochs := d.pad.epochs.map fun e => if reached x.complete e.num then { e with complete := true } else e }
  else d

/-- The standby takes Derier's state as mirrored. -/
def takeTwinState (d : Dev) (x : TwinData) : Dev :=
  let d := setFeed d { d.feed with models := mergeModels d x.models, adapters := x.adapters, keys := x.keys }
  let d := { d with health := { d.health with vetVersion := x.vetVersion }, attn := x.attn }
  let d := setPad d { d.pad with
    bindings := x.bindings, unreachable := x.unreachable, away := x.away, downs := x.downs
    twinBanks := d.pad.twinBanks.map fun t => match x.states.find? fun p => p.1 == t.key with
      | some p => if p.2.2 = t.tag then { t with state := p.2.1 } else t
      | none => t }
  followEpoch (x.states.foldl followState d) x

/-! ### Mirrored writes (R495) -/

/-- The standby performs a mirrored write, and says so. -/
def takeTwinWrite (d : Dev) (n : Nat) (loft : Bool) (obs : List (Nat × Byte)) : Dev :=
  sendTwin (if loft then loftWrite d obs else dramWrite d obs) (.twinDone n)

/-- Commands that only waited for mirrored writes end (R440). -/
def endHeld (d : Dev) : Dev :=
  drainRings ((d.host.cmds.filter fun c => c.held.isSome && c.asks == [] && c.edits == []).foldl (fun d c =>
    endNow d c (c.held.getD (ends 0))) d)

/-- Operations whose mirrored writes f says the standby has performed, or never will, are performed. -/
def releaseOps (d : Dev) (f : Nat → Bool) : Dev :=
  (d.ops.filter fun o => match o.phase with
    | .mirrored n => f n
    | _ => false).foldl (fun d o => performed d o o.back) d

/-- What waited for mirrored writes that f takes goes on: operations, and attention jobs. -/
def releaseMirrored (d : Dev) (f : Nat → Bool) : Dev := releaseJobs (releaseOps d f) f

/-- The standby has performed every mirrored write up to a number. -/
def takeTwinDone (d : Dev) (n : Nat) : Dev :=
  let d := releaseMirrored (setPad d { d.pad with twinOut := d.pad.twinOut.filter fun k => n < k }) fun k => k ≤ n
  if d.pad.twinOut = [] then endHeld d else d

/-- Mirroring has stopped: nothing waits for it any more (R499). -/
def stopMirror (d : Dev) : Dev := endHeld (releaseMirrored (setPad d { d.pad with twinOut := [] }) fun _ => true)

/-! ### Bindings in step, lost and over (R494, R499) -/

/-- FAILED with a result of R477 or R493. -/
def failedWith (result : Nat) : Ends := { ends 0x08 with result := result }

/-- The binding of a module, as the lead knows it. -/
def bindingOf (d : Dev) (m : Nat) : Option Binding := d.pad.bindings.find? fun b => b.index == m

/-- The lead notes a binding's state; the BIND that waits for it ends. -/
def noteBinding (d : Dev) (m : Nat) (s : TwinState) (e : Ends) : Dev :=
  match bindingOf d m with
  | none => d
  | some b =>
    let d := setPad d { d.pad with
      bindings := d.pad.bindings.map fun x => if x.index = m then { x with state := s, cmd := none } else x }
    match b.cmd.bind (cmdOf d) with
    | some c => finish d c e
    | none => d

/-- A binding has reached InStep. -/
def bindingInStep (d : Dev) (m : Nat) : Dev :=
  if (bindingOf d m).any fun b => b.state == .copying then noteBinding d m .inStep (ends 0) else d

/-- A binding has entered Lost: its standby is told, and counts for no epoch any more. -/
def bindingLost (d : Dev) (m : Nat) : Dev :=
  match bindingOf d m with
  | none => d
  | some b =>
    if b.counts then completeEpochs 16 (sendMsg (noteBinding d m .lost (failedWith 2)) (64 + b.entry) .twinOver) else d

/-- Banks of a copy that will not be finished: those being programmed are Empty (R398). -/
def dropTwinBanks (d : Dev) : Dev :=
  setPad { d with banks := d.banks.map fun p =>
      if p.2.forTwin then (p.1, { p.2 with forTwin := false, state := if p.2.state = .loading then .empty else p.2.state })
      else p }
    { d.pad with twinBanks := [] }

/-- This module's binding enters Lost. The protected module raises TWIN_LOST, and the lead is told. -/
def loseTwin (d : Dev) : Dev :=
  if d.pad.twin ≠ .copying ∧ d.pad.twin ≠ .inStep then d
  else if d.pad.role = .standby then dropTwinBanks (setPad d { d.pad with twin := .lost })
  else if mirroring d = false then d
  else
    let d := setPad d { d.pad with twin := .lost, twinReady := false, twinTold := none }
    let d := stopMirror (raiseEvent d 0 6 0x34 d.pad.index (d.pad.twinPeer % 64))
    if follower d then sendMsg d 0 .twinLost else bindingLost d d.pad.index

end Sys2Proof.Machine
end

