-- ==== Sys2Proof/Machine/Ports.lean ====
section
/-! DEFINITION. Optical ports, links, packets, messages and unreachable modules (11, R468 to R474, R491, R499, R501; 02,
R60). -/

namespace Sys2Proof.Machine

open Sys2Proof

/-! ### Unreachable modules (R60, R445, R474, R491, R501) -/

/-- An operation of this module to an index that has become unreachable completes as a violation. -/
def cutOp (d : Dev) (o : RemOp) : Dev :=
  performedZero (countViol (putOp d { o with dead := true }) o.op.srcStall) { o with dead := true }

/-- Every operation outstanding to the index. -/
def cutOps (d : Dev) (m : Nat) : Dev :=
  (d.ops.filter fun o => o.own && o.phase == .sent && !o.dead && gModule (tAddr o) == m).foldl cutOp d

/-- The lead's commands on a lost member end with UNREACHABLE; those that waited for it among others wait no longer. -/
def cutCommands (d : Dev) (m : Nat) : Dev :=
  let d := (d.host.cmds.filter fun c => c.remote && dModule c.desc == m).foldl (fun d c => finish d c (ends 0x0A)) d
  (d.host.cmds.filter fun c => c.asks.contains m).foldl (fun d c =>
    let c := { c with asks := c.asks.filter (· != m) }
    if c.asks = [] then finish (putCmd d c) c (c.held.getD (ends 0)) else putCmd d c) d

/-- A stage that waits for the lost member fails on every module (R403). -/
def cutStage (d : Dev) (m : Nat) : Dev :=
  match headStage d with
  | some s =>
    if s.started ∧ (s.results.any fun p => p.1 == m) = false then
      let d := noteResult d s m 0x0B
      match d.feed.stages.find? (·.model == s.model) with
      | some s => if s.ownResult = none then ownEnds d s 0x0B else d
      | none => d
    else clearStage d s.model
  | none => d

/-- Ends that are told of a takeover: the reachable modules but the taken one, and every other standby of the plan. -/
def takeoverEnds (d : Dev) (m : Nat) : List Nat :=
  (others d).filter (· != m) ++ (((List.range d.pad.standbys.length).map (64 + ·)).filter (· != here d))

/-- The index leads to the standby of an entry from now on (R501, steps 2 and 3), which `PEER_INDEX` names by it (R506). -/
def retarget (d : Dev) (m entry : Nat) : Dev :=
  let serial := (d.pad.standbys.drop entry).headD 0
  let put (x : W64 × Nat × Nat) : W64 × Nat × Nat := if x.2.1 = m then (serial, x.2) else x
  setPad d { d.pad with
    hops := mput [] d.pad.hops m (mget [] d.pad.hops (64 + entry))
    unreachable := d.pad.unreachable.filter (· != m)
    cut := d.pad.cut.filter (· != m)
    ports := d.pad.ports.map fun q => (q.1, if q.2.peerIndex = 64 + entry then { q.2 with peerIndex := m } else q.2)
    modules := d.pad.modules.map put }

/-- The number that a newly wanted epoch will have. -/
def wantedNumber (d : Dev) : W32 := (d.pad.wants.foldl (fun e w => w.base.getD e + 1) d.pad.requested) + 1

/-- A takeover by a standby entry (R491, R501, steps 2 to 4): every module is told, and the takeover epoch is wanted, from
which the index counts again. -/
def takeOver (d : Dev) (m entry chain : Nat) : Dev :=
  let d := retarget d m entry
  let d := (takeoverEnds d m).foldl (fun d e => sendMsg d e (.taken m chain entry)) d
  let d := (d.host.cmds.filter fun c => !c.queued).foldl (fun d c => holdAway d c (· == m)) d
  let d := setPad d { d.pad with
    away := (d.pad.away.filter fun p => p.1 != m) ++ [(m, wantedNumber d)]
    bindings := d.pad.bindings.map fun b => if b.index = m then { b with state := .serving } else b }
  addWant d { noWant with target := m, takeover := some (m, entry) }

/-- What the lost member's binding does: one in step takes over, one that copied is Lost. -/
def bindingOfLost (d : Dev) (m : Nat) : Dev :=
  match bindingOf d m with
  | none => d
  | some b =>
    if b.state = .inStep then
      takeOver d m b.entry (((d.pad.modules.find? fun x => x.2.1 == m).map (·.2.2)).getD 0)
    else if b.state = .copying then bindingLost (raiseEvent d 0 6 0x34 m b.entry) m
    else d

/-- The lead finds a module unreachable (R474, R491, R501). -/
def memberLost (d : Dev) (m : Nat) : Dev :=
  if d.pad.role ≠ .lead ∨ m = d.pad.index ∨ d.pad.unreachable.contains m ∨
      (d.pad.modules.any fun x => x.2.1 == m) = false then d
  else
    let d := raiseEvent d 0 6 0x32 m 0
    let d := setPad d { d.pad with unreachable := d.pad.unreachable ++ [m] }
    completeEpochs 16 (bindingOfLost (cutStage (cutCommands (cutOps d m) m) m) m)

/-! Which ends of links are whose (R476, R501). -/

/-- The end of the plan's links that a serial number has. -/
def planEndOf (d : Dev) (serial : W64) : Option Nat :=
  match firstUnder 16 fun k => (d.pad.standbys.drop k).head? == some serial with
  | some k => some (64 + k)
  | none => (d.pad.modules.find? fun m => m.1 == serial).map (·.2.1)

/-- This module's own end. -/
def ownEnd (d : Dev) : Nat := (planEndOf d d.board.serial).getD d.pad.index

/-- The end of the module that has an index now: a standby's, once it has taken it. -/
def endOfIndex (d : Dev) (m : Nat) : Nat :=
  (((d.pad.modules.find? fun x => x.2.1 == m).map (·.1)).bind (planEndOf d)).getD m

/-- A port of an end is known to be Down. -/
def endDown (d : Dev) (e p : Nat) : Bool := if e = ownEnd d then (portOf d p).state != .up else d.pad.downs.contains (e, p)

/-- Neighbours over paddock links. -/
def neighbours (ls : List Link) (a : Nat) : List Nat :=
  (ls.filter fun l => !l.twin).filterMap fun l =>
    if l.endA = a then some l.endB else if l.endB = a then some l.endA else none

/-- b lies within k hops of a. -/
def within (ls : List Link) (b : Nat) : Nat → Nat → Bool
  | 0, a => a == b
  | k + 1, a => a == b || (neighbours ls a).any (within ls b k)

/-- Hops from a to b, up to 3; more is 4. -/
def hopCount (ls : List Link) (a b : Nat) : Nat := (firstBelow 4 fun k => within ls b k a).getD 4

/-- A port of an end takes packets, as far as this module knows. -/
def endOpen (d : Dev) (e p : Nat) : Bool := !endDown d e p && (e != ownEnd d || (portOf d p).routed)

/-- Within k hops a packet comes from an end to another, each hop nearer to it (R473). -/
def wayOn (d : Dev) (dst : Nat) : Nat → Nat → Bool
  | 0, e => e == dst
  | k + 1, e => e == dst || d.pad.links.any fun l =>
    !l.twin && (l.endA == e || l.endB == e) && endOpen d l.endA l.portA && endOpen d l.endB l.portB &&
      (let f := if l.endA = e then l.endB else l.endA
       hopCount d.pad.links f dst < hopCount d.pad.links e dst && wayOn d dst k f)

/-- An index is reachable: a candidate of this module is Up and routed, no relay has returned a packet for it since something
came from there, and some way of the plan has no port on it that is known to be Down (R474, log 35). -/
def reaches (d : Dev) (m : Nat) : Bool :=
  !(usablePorts d m).isEmpty && !d.pad.cut.contains m && wayOn d (endOfIndex d m) 3 (ownEnd d)

/-- Every paddock link of the module is Down, as far as this one knows. -/
def allLinksDown (d : Dev) (m : Nat) : Bool :=
  let e := endOfIndex d m
  let ls := d.pad.links.filter fun l => !l.twin && (l.endA == e || l.endB == e)
  ls != [] && ls.all fun l => endDown d l.endA l.portA || endDown d l.endB l.portB

/-- Indices that are unreachable from this module. -/
def cutOff (d : Dev) : List Nat :=
  (d.pad.modules.map fun m => m.2.1).filter fun m => !holdsIndex d m && (d.pad.unreachable.contains m || !reaches d m)

/-- The standby that the plan joins to index 0. -/
def leadStandby (d : Dev) : Option Nat :=
  (d.pad.links.find? fun l => l.twin && (l.endA == 0 || l.endB == 0)).map fun l => if l.endA = 0 then l.endB else l.endA

/-- A member that finds index 0 unreachable tells the standby bound to it (R503). -/
def leadMissing (d : Dev) : Dev :=
  if d.pad.role = .member ∧ reaches d 0 = false then
    (match leadStandby d with
    | some e => sendMsg d e .leadGone
    | none => d)
  else d

/-- What a lost link leaves unreachable (R60, R474, R503). -/
def reachLost (d : Dev) : Dev :=
  let d := leadMissing ((cutOff d).foldl cutOps d)
  ((d.pad.modules.map fun m => m.2.1).filter (allLinksDown d)).foldl memberLost d

/-! ### Ports (R469 to R471) -/

/-- The binding is the lead's: for 1 ms LEAD_TAKEOVER, LEAD_FENCED or TWIN_LOST may follow (R503, R504). -/
def leadTwin (d : Dev) : Bool := d.pad.role == .lead || (d.pad.role == .standby && d.pad.twinPeer == 0)

/-- A twin port is lost: the protected member's binding enters Lost. A standby waits for the lead to say whether the member
is lost too (R499, R501), and the lead's own binding for what follows within 1 ms. -/
def twinPortLost (d : Dev) : Dev := if leadTwin d ∨ d.pad.role = .standby then d else loseTwin d

/-- A member or a standby tells the lead of its port. -/
def reportPort (d : Dev) (m : Message) : Dev := if follower d then sendMsg d 0 m else d

/-- A port goes Down from another state: counted, reported; unacknowledged packets are gone with the link. -/
def portDown (d : Dev) (p : Nat) : Dev :=
  let x := portOf d p
  if x.state = .down then d
  else
    let d := bump d (portReg p 0x28)
    let d := setPort d p { x with state := .down, routed := false, txSeq := 0, rxSeq := 0, unacked := [], queue := [],
                                  replays := 0 }
    let d := reportPort (raiseEvent d 0 6 0x30 p x.peerIndex) (.portDown p)
    reachLost (if x.twin ∧ x.state = .up then twinPortLost d else d)

/-- LINK_DOWN (R470). -/
def execLinkDown (port : Nat) : State → Res :=
  onDerier "LINK_DOWN" fun d => if (portOf d port).state = .down then none else some (portDown d port)

/-- The photonic die's PLL has its lock (R588, R589). -/
def opticalLock (d : Dev) (port : Nat) : Dev :=
  { d with sense := { d.sense with lock := d.sense.lock ||| (if port < 8 then 0x80 else 0x100) } }

/-- CODEWORD_LOCK: Down to Training. -/
def execCodewordLock (port : Nat) : State → Res :=
  onDev "CODEWORD_LOCK" fun d =>
    let x := portOf d port
    if x.state = .down ∧ d.board.powered then some (opticalLock (setPort d port { x with state := .training }) port)
    else none

/-- The index of the far end, where the plan knows its serial number. -/
def peerIndexOf (d : Dev) (serial : W64) : Nat :=
  match d.pad.modules.find? fun m => m.1 == serial with
  | some m => m.2.1
  | none => ((firstBelow 16 fun k => (d.pad.standbys.drop k).head? == some serial).map (64 + ·)).getD 0xFF

/-- TRAINING_EXCHANGE: Training to Up. -/
def execTrainingExchange (port peerPort : Nat) (serial : W64) : State → Res :=
  onDev "TRAINING_EXCHANGE" fun d =>
    let x := portOf d port
    if x.state = .training then
      some (setPort d port { x with state := .up, peerPort := peerPort, serial := serial, peerIndex := peerIndexOf d serial })
    else none

/-- TRAINING_TIMEOUT: a transition into Down like any other (R470). -/
def execTrainingTimeout (port : Nat) : State → Res :=
  onDerier "TRAINING_TIMEOUT" fun d => if (portOf d port).state = .training then some (portDown d port) else none

/-- The far end and port of a link of the plan at an end and port. -/
def farEnd (d : Dev) (e p : Nat) : Option (Nat × Nat) :=
  d.pad.links.findSome? fun l =>
    if l.endA = e ∧ l.portA = p then some (l.endB, l.portB)
    else if l.endB = e ∧ l.portB = p then some (l.endA, l.portA) else none

/-- A port is included in the routes again. -/
def routePort (d : Dev) (p : Nat) : Dev :=
  if (portOf d p).state = .up then setPort (setPad d { d.pad with cut := [] }) p { portOf d p with routed := true } else d

/-- What the lead calls an end when it sends to it: the index that a standby has taken. -/
def endName (d : Dev) (e : Nat) : Nat :=
  if e < 64 then e
  else (((d.pad.standbys.drop (e - 64)).head?.bind fun s => d.pad.modules.find? fun m => m.1 == s).map (·.2.1)).getD e

/-- The lead routes one end of a link: its own, or another's by a message. -/
def routeEnd (d : Dev) (q : Nat × Nat) : Dev :=
  if q.1 = ownEnd d then routePort d q.2
  else sendMsg (setPad d { d.pad with downs := d.pad.downs.filter (· != q) }) (endName d q.1) (.route q.2)

/-- The lead includes a link in the routes again, at both ends, and raises LINK_UP for the end that has reported. -/
def linkBack (d : Dev) (e p peer : Nat) : Dev :=
  match farEnd d e p with
  | none => d
  | some far => raiseEvent (routeEnd (routeEnd d (e, p)) far) 0 6 0x31 p peer

/-- LINK_UP (R471): a port of the plan has stayed Up for 1 s, and the lead includes it in the routes again. -/
def execLinkUp (port : Nat) : State → Res :=
  onDev "LINK_UP" fun d =>
    let x := portOf d port
    if x.state = .up ∧ x.routed = false ∧ d.pad.role ≠ .alone ∧ (farEnd d (ownEnd d) port).isSome then
      some (if follower d then sendMsg d 0 (.portUp port) else linkBack d (ownEnd d) port x.peerIndex)
    else none

/-! ### Packets (R468, R473, R474) -/

/-- Packets that waited for room are sent. -/
def sendQueued (p : Nat) : Nat → Dev → Dev
  | 0, d => d
  | n + 1, d =>
    let x := portOf d p
    match x.queue with
    | [] => d
    | b :: bs => if x.unacked.length < 1024 then sendQueued p n (sendPacket (setPort d p { x with queue := bs }) p b) else d

/-- An acknowledgment covers every packet up to its sequence number. -/
def takeAck (d : Dev) (p seq : Nat) : Dev :=
  let x := portOf d p
  if x.unacked.any fun u => u.1 == seq then
    let left := (x.unacked.dropWhile fun u => u.1 != seq).drop 1
    sendQueued p x.queue.length (setPort d p { x with unacked := left, replays := 0 })
  else d

/-- A packet and all later ones are sent again; after 8 replays of one packet the port goes Down (R470). -/
def replayFrom (d : Dev) (p seq : Nat) : Dev :=
  let x := portOf d p
  let again := x.unacked.dropWhile fun u => u.1 != seq
  if again = [] then d
  else if 8 ≤ x.replays then portDown d p
  else
    let d := bumpBy (setPort d p { x with replays := x.replays + 1 }) (portReg p 0x10) again.length
    again.foldl (fun d u => emit d (.packet p u.1 u.2)) d

/-- A packet goes on toward an end from a relay, by the hash of its operation's stall and address; what cannot go on is left
to `other`. -/
def relay (d : Dev) (dst : Nat) (op : NetOp) (body : PacketBody) (other : Dev → Dev) : Dev :=
  if (usablePorts d dst).isEmpty then other d else sendTo d dst (1024 * op.srcModule + op.srcStall) op.addr.toNat body

/-- A piece joins those of its operation, notice or message: the data, once all of them have arrived. -/
def joinPiece (d : Dev) (kind : PartKind) (src id total piece : Nat) (data : List Byte) : Dev × Option (List Byte) :=
  let mine (x : Part) : Bool := x.kind == kind && x.module == src && x.id == id
  let got := mput [] (((d.pad.parts.find? mine).map (·.got)).getD []) piece data
  let rest := d.pad.parts.filter fun x => !mine x
  let have' (k : Nat) : Bool := k == piece || (((d.pad.parts.find? mine).map (·.got)).getD []).any fun p => p.1 == k
  if (List.range (pieceCount total)).all have' then
    (setPad d { d.pad with parts := rest }, some ((List.range (pieceCount total)).flatMap fun k => mget [] got k))
  else
    (setPad d { d.pad with parts := rest ++ [{ kind := kind, module := src, id := id, got := got }] }, none)

/-- Something has come from an end: packets reach it again, as far as this module knows. -/
def heard (d : Dev) (e : Nat) : Dev := setPad d { d.pad with cut := d.pad.cut.filter (· != e) }

/-- An operation of another module arrives for this one. -/
def takeRequest (d : Dev) (op : NetOp) : Dev :=
  let r : RemOp :=
    { id := d.nextId, op := op, own := false, dest := 0, ctr := none, phase := .sent, dead := false, back := [],
      orphan := false }
  { d with ops := d.ops ++ [r], nextId := d.nextId + 1 }

/-- Bytes of data that an operation carries. -/
def opBytes (op : NetOp) : Nat := if op.kind = .get then 0 else op.len

/-- A piece of an operation arrives at its home, or at a relay, which returns what it cannot forward (R473, R474). -/
def takeRequestPiece (d : Dev) (op : NetOp) (piece : Nat) : Dev :=
  if holdsIndex d (gModule op.addr) then
    match joinPiece (heard d op.srcModule) .request op.srcModule op.srcId (opBytes op) piece op.data with
    | (d, some data) => takeRequest d { op with data := data }
    | (d, none) => d
  else
    relay d (gModule op.addr) op (.request op piece) fun d =>
      relay d op.srcModule op (.returned { op with data := [] }) id

/-- A relay has returned a packet for an end (R474). -/
def cutEnd (d : Dev) (e : Nat) : Dev :=
  leadMissing (setPad d { d.pad with cut := if d.pad.cut.contains e then d.pad.cut else d.pad.cut ++ [e] })

/-- The notice of an operation's performance reaches its source. -/
def takeReply (d : Dev) (id : Nat) (data : List Byte) : Dev :=
  match opOf d id with
  | some o => if o.own ∧ o.phase = .sent ∧ o.dead = false then putOp d { o with phase := .performed, back := data } else d
  | none => d

/-- A piece of a notice arrives at its source or at a relay. -/
def takeReplyPiece (d : Dev) (op : NetOp) (piece : Nat) (data : List Byte) : Dev :=
  if holdsIndex d op.srcModule then
    let total := if op.kind = .get then op.len else if isFadd op.kind then elemSize op.kind else 0
    match joinPiece (heard d (gModule op.addr)) .reply op.srcModule op.srcId total piece data with
    | (d, some bs) => takeReply d op.srcId bs
    | (d, none) => d
  else relay d op.srcModule op (.reply op piece data) id

/-- A relay returned the operation (R474). -/
def takeReturned (d : Dev) (id : Nat) : Dev :=
  match opOf d id with
  | some o => if o.own ∧ o.phase = .sent ∧ o.dead = false then cutOp d o else d
  | none => d

/-- Every sequence of the module closes. -/
def closeAll (d : Dev) : Dev := (d.attn.seqs.map (·.1)).foldl closeSeq d

/-- Every routine of the module is stopped. -/
def abortAll (d : Dev) (reason : Nat) : Dev := (d.stalls.map (·.1)).foldl (abortStall reason) d

/-- Every command in progress ends without a record (R481, R503): those with routines when these have stopped. -/
def silenceCommands (d : Dev) : Dev :=
  setCmds d ((d.host.cmds.filter fun c => c.onStalls && c.begun && !c.remote).map fun c =>
    { c with ring := noRing, lead := none, waiting := [], ended := c.ended ++ c.waiting.map fun st => (st, 0x0F),
             stopped := true })

/-- Without SEQUENCES in its MIRROR a taken index has no sequences, and no row of its prefix table is referred to; and no walk
is left, so that every generation of every list retires (R502). -/
def dropUnmirrored (d : Dev) : Dev :=
  retireLists (if d.pad.mirror.getLsbD 1 then d
    else
      let d := closeAll d
      (d.attn.prefixes.filter (·.refs != 0)).foldl (fun d p => putPrefix d { p with refs := 0 }) d)

/-- A standby takes the index of the module it mirrors (R501, R502). -/
def assumeIndex (d : Dev) (index chain : Nat) : Dev :=
  if d.pad.role = .standby ∧ d.pad.twin = .inStep ∧ d.pad.twinPeer = index then
    dropUnmirrored (setPad d { d.pad with role := .member, index := index, chain := chain })
  else d

/-- A member's REFIT has read and fitted: the lead requests its epoch (R571). -/
def refitAnswered (d : Dev) (c : Cmd) (e : Ends) : Bool :=
  dOpcode c.desc == 0x40 && c.param 32 1 == 1 && e.status == 0 && (cmdOf d c.cid).isSome

/-- A member's answer reaches the lead, which writes the results and the record (R445); a command of every module ends with
the last answer, and with the first that is not OK, if one is not (R443). -/
def takeAnswer (d : Dev) (src cid : Nat) (e : Ends) : Dev :=
  match cmdOf d cid with
  | some c =>
    if c.asks.contains src then
      let held := if ((c.held.map (·.status)).getD 0) = 0 ∧ e.status ≠ 0 then some e else c.held
      let c := { c with asks := c.asks.filter (· != src), held := held }
      if c.asks = [] then finish (putCmd d c) c (held.getD (ends 0)) else putCmd d c
    else if c.remote = false then d
    else if refitAnswered d c e then
      addWant (putCmd d { c with remote := false })
        { noWant with cid := some cid, target := dModule c.desc, factory := some false, refit := true }
    else finish d c e
  | none => d

/-- A command that the lead has forwarded is stopped (R447). -/
def takeStop (d : Dev) (cid reason : Nat) : Dev :=
  match d.host.cmds.find? fun c => c.lead == some cid with
  | some c => drainRings (stopCmd reason d c)
  | none => d

/-- A takeover reaches this module (R501): routes change, and the standby named assumes the index. -/
def takeTaken (d : Dev) (m chain entry : Nat) : Dev :=
  let mine : Bool := d.pad.role == .standby && ownEntry d == entry
  let d := retarget d m entry
  let d := setPad d { d.pad with leadGone := [] }
  if mine then assumeIndex d m chain else d

/-- Every stage is abandoned (R398). -/
def endStages (d : Dev) : Dev :=
  d.feed.stages.foldl (fun d s => closeStage d { s with results := [(d.pad.index, 0x0C)] } 0x0C) d

/-- The new lead stops every routine of the paddock and ends every command in progress without a record (R503). -/
def takeStopAll (d : Dev) : Dev := endStages (silenceCommands (abortAll (setPad d { d.pad with guests := [] }) 0x06))

/-- A module has passed the checks of a stage's start (R394). -/
def takeChecked (d : Dev) (src model : Nat) : Dev :=
  match d.feed.stages.find? (·.model == model) with
  | some s => clearStage (putStage d { s with checked := s.checked ++ [src] }) model
  | none => d

/-- Every module has: banks may be claimed. -/
def takeGo (d : Dev) (model : Nat) : Dev :=
  match d.feed.stages.find? (·.model == model) with
  | some s => putStage d { s with cleared := true }
  | none => d

/-- The ends of the plan by which a message's sender names its ports. -/
def senderEnd (d : Dev) (src : Nat) : Nat := if src < 64 then endOfIndex d src else src

/-- The lead learns that a port of another module is Down. -/
def takePortDown (d : Dev) (src p : Nat) : Dev :=
  let q := (senderEnd d src, p)
  reachLost (setPad d { d.pad with downs := if d.pad.downs.contains q then d.pad.downs else d.pad.downs ++ [q] })

/-- A command of the lead names stalls here. -/
def takeHold (d : Dev) (cid : Nat) (epoch : W32) (stalls : List Nat) : Dev :=
  let d := dropGuest d cid
  setPad d { d.pad with guests := d.pad.guests ++ [{ cid := cid, epoch := epoch, stalls := stalls }] }

/-- The protected module's binding is in step (R494): the standby's side, and the lead's. -/
def takeInStep (d : Dev) (src : Nat) : Dev :=
  if d.pad.role = .standby then (if d.pad.twin = .copying then setPad d { d.pad with twin := .inStep } else d)
  else bindingInStep d src

/-- A message has arrived for this module. What a row of its own takes, that row's operands carry. -/
def takeMessage (d : Dev) (src : Nat) : Message → Dev
  | .answer cid status result v0 v1 data =>
    takeAnswer d src cid { status := status, result := result, value0 := v0, value1 := v1, bytes := data }
  | .stop cid reason => takeStop d cid reason
  | .resetFn fn reason => endFunction reason d fn
  | .hold cid epoch stalls => takeHold d cid epoch stalls
  | .unhold cid => dropGuest d cid
  | .stopAll => takeStopAll d
  | .event cls e => takeEvent d cls e
  | .shardAck model index place => takeAckOf d model index place
  | .stageChecked model => takeChecked d src model
  | .stageGo model => takeGo d model
  | .activating model => markBusy d model true
  | .recordFreed model => takeFreed d model
  | .portDown p => takePortDown d src p
  | .portUp p => linkBack d (senderEnd d src) p (((farEnd d (senderEnd d src) p).map fun q => endName d q.1).getD 0xFF)
  | .route p => routePort d p
  | .taken m chain entry => takeTaken d m chain entry
  | .leadGone =>
    setPad d { d.pad with leadGone := if d.pad.leadGone.contains src then d.pad.leadGone else d.pad.leadGone ++ [src] }
  | .twinInStep => takeInStep d src
  | .twinLost => bindingLost d src
  | .twinOver => loseTwin d
  | .twinCopy mirror dram loft banks => takeCopy d src mirror dram loft banks
  | .twinState x => takeTwinState d x
  | .twinWrite n loft obs => takeTwinWrite d n loft obs
  | .twinDone n => takeTwinDone d n
  | .twinReady => setPad d { d.pad with twinReady := true }
  | .command _ _ _ _ _ | .stage _ | .shard _ _ _ | .shardRequest _ _ | .stageReport _ _ | .stageVerdict _ _
  | .epochRequest _ _ | .epochReport _ | .epochComplete _ | .epochRetired _ => d

/-- A relay passes a message on, or returns it (R474). -/
def passMessage (d : Dev) (dst src : Nat) (body : PacketBody) : Dev :=
  if (usablePorts d dst).isEmpty then sendTo d src 0 0 (.undelivered dst src) else sendTo d dst 0 0 body

/-- A packet's contents are delivered to the gate die. -/
def deliver (d : Dev) (p : Nat) (body : PacketBody) : Dev :=
  match body with
  | .request op piece => takeRequestPiece d op piece
  | .reply op piece data => takeReplyPiece d op piece data
  | .returned op =>
    if holdsIndex d op.srcModule then takeReturned (cutEnd d (gModule op.addr)) op.srcId else relay d op.srcModule op body id
  | .ack seq => takeAck d p seq
  | .replay seq => replayFrom d p seq
  | .message dst src m => if dst = here d then takeMessage (heard d src) src m else passMessage d dst src body
  | .piece dst src no k m data =>
    if dst = here d then
      match joinPiece (heard d src) .message src no (loadBytes m).length k data with
      | (d, some bs) => takeMessage d src (fillMessage m bs)
      | (d, none) => d
    else passMessage d dst src body
  | .undelivered dst src => if src = here d then cutEnd d dst else passMessage d src dst body

/-- Acknowledgments and replay requests stand outside the sequence: they answer it. -/
def isControl : PacketBody → Bool
  | .ack _ => true
  | .replay _ => true
  | _ => false

/-- A discarded packet: counted where its CRC failed, and asked for again. -/
def discard (d : Dev) (p : Nat) (pkt : Packet) : Dev :=
  let d := if pkt.crcOk then d else bump d (portReg p 0x18)
  emit d (.packet p pkt.seq (.replay (portOf d p).rxSeq))

/-- PACKET_RECEIVE (R468): checked, acknowledged and delivered in sequence order, or discarded with a replay request. -/
def execPacketReceive (port : Nat) (pkt : Packet) : State → Res :=
  onDerier "PACKET_RECEIVE" fun d =>
    let x := portOf d port
    if x.state ≠ .up then none
    else
      let d := if pkt.fecCorrected = 0 then d else bumpBy d (portReg port 0x20) pkt.fecCorrected
      if pkt.crcOk = false ∨ pkt.fecOk = false then some (discard d port pkt)
      else if isControl pkt.body then some (deliver d port pkt.body)
      else if pkt.seq ≠ x.rxSeq then
        some (if (x.rxSeq + 4096 - pkt.seq) % 4096 ≤ 1024 then emit d (.packet port pkt.seq (.ack pkt.seq)) else discard d port pkt)
      else
        let d := setPort d port { x with rxSeq := (x.rxSeq + 1) % 4096 }
        some (deliver (emit d (.packet port pkt.seq (.ack pkt.seq))) port pkt.body)

/-- REPLAY_REQUEST: a replay that the far end asks for, or that the sender starts for want of an acknowledgment. -/
def execReplayRequest (port seq : Nat) : State → Res :=
  onDerier "REPLAY_REQUEST" fun d =>
    let x := portOf d port
    if x.state = .up ∧ x.unacked.any fun u => u.1 == seq then some (replayFrom d port seq) else none

end Sys2Proof.Machine
end

