-- ==== Sys2Proof/Machine/Paddock.lean ====
section
/-! DEFINITION. Forming and leaving a paddock, twins, takeover and fencing (11, R472 to R481, R492 to R504). -/

namespace Sys2Proof.Machine

open Sys2Proof

/-! ### The plan (R476, R477) -/

def planModules (b : List Byte) : Nat := fieldAt b 0 1
def planStandbys (b : List Byte) : Nat := fieldAt b 1 1
def planLinks (b : List Byte) : Nat := fieldAt b 2 2
def planLen (b : List Byte) : Nat := 16 + 16 * planModules b + 16 * planStandbys b + 8 * planLinks b

def moduleEntry (b : List Byte) (k : Nat) : List Byte := slice b (16 + 16 * k) 16
def standbyEntry (b : List Byte) (k : Nat) : List Byte := slice b (16 + 16 * planModules b + 16 * k) 16
def linkEntry (b : List Byte) (k : Nat) : List Byte := slice b (16 + 16 * planModules b + 16 * planStandbys b + 8 * k) 8

/-- (serial, index, chain) of the modules. -/
def modulesOf (b : List Byte) : List (W64 × Nat × Nat) :=
  (List.range (planModules b)).map fun k =>
    let e := moduleEntry b k
    (BitVec.ofNat 64 (fieldAt e 0 8), fieldAt e 8 1, fieldAt e 9 1)

def standbysOf (b : List Byte) : List W64 :=
  (List.range (planStandbys b)).map fun k => BitVec.ofNat 64 (fieldAt (standbyEntry b k) 0 8)

/-- The module index, or 64 plus the standby entry, of a link's end: ends name entries (R476). -/
def endOf (b : List Byte) (e : Nat) : Nat :=
  if e < 64 then (((modulesOf b).drop e).head?.map fun m => m.2.1).getD 0xFF else e

def planLinkList (b : List Byte) : List Link :=
  (List.range (planLinks b)).map fun k =>
    let e := linkEntry b k
    { endA := endOf b (fieldAt e 0 1), portA := fieldAt e 1 1, endB := endOf b (fieldAt e 2 1), portB := fieldAt e 3 1,
      twin := fieldAt e 4 1 == 1 }

/-- A reserved byte or a reserved KIND of the plan. -/
def planReserved (b : List Byte) : Bool :=
  !zeroAt b 4 4 || (List.range (planModules b)).any (fun k => !zeroAt (moduleEntry b k) 10 6) ||
    (List.range (planStandbys b)).any (fun k => !zeroAt (standbyEntry b k) 8 8) ||
    (List.range (planLinks b)).any fun k => !zeroAt (linkEntry b k) 5 3 || 1 < fieldAt (linkEntry b k) 4 1

/-- Every field of the plan lies in its range. -/
def planRange (b : List Byte) : Bool :=
  let okEnd (e : Nat) : Bool := e < planModules b || (64 ≤ e && e < 64 + planStandbys b)
  (modulesOf b).all (fun m => m.2.1 < 64 && m.2.2 < planModules b) &&
    (List.range (planLinks b)).all fun k =>
      let e := linkEntry b k
      okEnd (fieldAt e 0 1) && okEnd (fieldAt e 2 1) && fieldAt e 1 1 < 16 && fieldAt e 3 1 < 16

/-- Some two places of a list hold the same. -/
def hasTwice {α : Type} [DecidableEq α] : List α → Bool
  | [] => false
  | x :: xs => xs.contains x || hasTwice xs

/-- The plan breaks a rule of R477. -/
def planBad (serial : W64) (b : List Byte) : Bool :=
  let ms := modulesOf b
  let ss := standbysOf b
  let ls := planLinkList b
  let twins := ls.filter (·.twin)
  hasTwice (ms.map (·.1) ++ ss) || hasTwice (ms.map fun m => m.2.1) || hasTwice (ms.map fun m => m.2.2) ||
    ms.any (fun m => m.2.2 == 0 && (m.2.1 != 0 || m.1 != serial)) ||
    hasTwice (ls.flatMap fun l => [(l.endA, l.portA), (l.endB, l.portB)]) ||
    twins.any (fun l => (l.endA < 64) == (l.endB < 64)) || hasTwice (twins.flatMap fun l => [l.endA, l.endB]) ||
    (List.range ss.length).any (fun k => neighbours ls (64 + k) != [] && (neighbours ls (64 + k)).all (64 ≤ ·)) ||
    ms.any fun m => ms.any fun n => hopCount ls m.2.1 n.2.1 == 4

/-! ### Joining (R478, R479) -/

/-- What an end of the plan is called here: a module by its index, a standby by 64 plus its entry. -/
def placeOf (serial : W64) (b : List Byte) : Nat :=
  match (modulesOf b).find? fun m => m.1 == serial with
  | some m => m.2.1
  | none => ((firstBelow 16 fun k => ((standbysOf b).drop k).head? == some serial).map (64 + ·)).getD 0

/-- Own port and far end of each link of this module, with the far port. -/
def ownLinks (ls : List Link) (me : Nat) : List (Nat × Nat × Nat × Bool) :=
  ls.filterMap fun l =>
    if l.endA = me then some (l.portA, l.endB, l.portB, l.twin)
    else if l.endB = me then some (l.portB, l.endA, l.portA, l.twin) else none

/-- The candidates of a row: own paddock links toward a neighbour strictly nearer to the destination; 4 at most, in plan
order (log 36). -/
def rowOf (ls : List Link) (me m : Nat) : List Nat :=
  (((ownLinks ls me).filter fun l => !l.2.2.2 && hopCount ls l.2.1 m < hopCount ls me m).map (·.1)).take 4

/-- The next-hop table: rows of modules, and of standbys at 64 plus their entries. -/
def hopTable (b : List Byte) (me : Nat) : Map (List Nat) :=
  let ls := planLinkList b
  let ends := (modulesOf b).map (fun m => m.2.1) ++ (List.range (planStandbys b)).map (64 + ·)
  (ends.filter (· != me)).foldl (fun t m => mput [] t m (rowOf ls me m)) []

/-- The serial number of an end. -/
def serialOf (b : List Byte) (e : Nat) : Option W64 :=
  if e < 64 then ((modulesOf b).find? fun m => m.2.1 == e).map (·.1) else ((standbysOf b).drop (e - 64)).head?

/-- A port as the plan makes it. -/
def planPort (d : Dev) (l : Nat × Nat × Nat × Bool) : Dev :=
  setPort d l.1 { portOf d l.1 with routed := (portOf d l.1).state == .up, twin := l.2.2.2, peerIndex := l.2.1 }

/-- The plan applied to this module: role, index, routes. -/
def applyPlan (d : Dev) (b : List Byte) (role : Role) (index chain : Nat) : Dev :=
  let me := placeOf d.board.serial b
  let d := setPad d { d.pad with
    role := role, index := index, size := planModules b, chain := chain, pdId := BitVec.ofNat 64 (fieldAt b 8 8),
    modules := modulesOf b, standbys := standbysOf b, links := planLinkList b, hops := hopTable b me,
    unreachable := [], fenced := false, joining := none, bindings := [], downs := [], away := [], leadGone := [], parts := [], cut := [],
    guests := [] }
  (ownLinks (planLinkList b) me).foldl planPort d

/-- This module is busy: a paddock, a model record, a sequence, a stall not Idle, another command in progress (R433, R477). A
retired stall is no stall that is not Idle (log 36). -/
def moduleBusy (d : Dev) (cid : Nat) (joining : Bool) : Bool :=
  (joining && d.pad.role != .alone) || d.feed.models != [] || d.attn.seqs != [] ||
    d.stalls.any (fun p => p.2.mode == .running || p.2.mode == .draining) ||
    d.host.cmds.any fun c => c.cid != cid && !c.queued

/-- A far end that has trained reports another serial number or port than the plan. -/
def wrongPeer (d : Dev) (b : List Byte) : Bool :=
  (ownLinks (planLinkList b) 0).any fun l =>
    (portOf d l.1).state == .up && (some (portOf d l.1).serial != serialOf b l.2.1 || (portOf d l.1).peerPort != l.2.2.1)

/-- Every listed link of this module is Up. -/
def ownLinksUp (d : Dev) (b : List Byte) : Bool :=
  (ownLinks (planLinkList b) 0).all fun l => (portOf d l.1).state == .up

/-- The newest of epochs, as serial numbers compare (R482). -/
def newestOf (e : W32) (l : List W32) : W32 := l.foldl (fun m x => if reached x m then x else m) e

/-- The key table that the lead sends after the plan (R478). -/
def sentKeys (l : List Byte) : Map (Option (List Byte)) :=
  (List.range (min 16 (l.length / 1793))).foldl (fun m k =>
    let key := slice l (1793 * k) 1793
    if key.all (· == 0) then m else mput none m k (some key)) []

/-- The plan reaches a module that is to be a member or a standby: its rings become Free without records, and its port
serves only the host interface block (R479). -/
def becomeFollower (d : Dev) (c : Cmd) : Dev :=
  let b := c.bytes.take (planLen c.bytes)
  let d := (d.host.rings.map (·.1)).foldl (fun d r => setRing d r none) d
  let d := setFeed { d with host := { d.host with serving := false } } { d.feed with keys := sentKeys (c.bytes.drop b.length) }
  let d := match (modulesOf b).find? fun m => m.1 == d.board.serial with
    | some m => applyPlan d b .member m.2.1 m.2.2
    | none => applyPlan d b .standby 0 0 -- `PD_STATUS.INDEX` of a standby reads 0; it holds no index (R33, R507)
  finish d c { ends 0 with value0 := planModules b }

/-- The key table as PADDOCK_JOIN carries it to the modules of the plan, empty slots as zeros. -/
def keyTable (d : Dev) : List Byte :=
  (List.range 16).flatMap fun k => (mget none d.feed.keys k).getD (List.replicate 1793 0)

/-- Every other module and standby of the plan. -/
def planEnds (d : Dev) : List Nat :=
  ((memberIndices d).filter (· != d.pad.index)) ++ ((List.range d.pad.standbys.length).map (64 + ·)).filter (· != here d)

/-- PADDOCK_JOIN goes to every end of the plan, with the plan and the lead's key table (R478). -/
def toPlan (d : Dev) (c : Cmd) (data : Option (List (List Byte))) : Dev :=
  (planEnds d).foldl (fun d e => sendMsg d e (.command c.cid c.fn c.desc data c.epoch)) d

/-- PADDOCK_JOIN at the lead to be. -/
def joinLead (d : Dev) (c : Cmd) (linksUp busy : Bool) (newest : List W32) : Dev :=
  let b := c.bytes
  if c.dataFailed then finish d c (ends 0x07)
  else if b.length < 16 ∨ planModules b < 1 ∨ 64 < planModules b ∨ 16 < planStandbys b ∨ 640 < planLinks b ∨
      c.dataLen ≠ planLen b ∨ b.length ≠ planLen b then finish d c (ends 0x02)
  else if planReserved b then finish d c (ends 0x01)
  else if planRange b = false then finish d c (ends 0x02)
  else if planBad d.board.serial b then finish d c { ends 0x02 with result := 1 }
  else if wrongPeer d b then finish d c (failedWith 2)
  else if ownLinksUp d b = false ∨ linksUp = false then
    setPad (putCmd d { c with begun := false }) { d.pad with joining := some c.cid }
  else if moduleBusy d c.cid true ∨ busy then finish (setPad d { d.pad with joining := none }) c (failedWith 3)
  else
    let d := applyPlan d b .lead 0 0
    let d := toPlan d c (some [b ++ keyTable d])
    addWant d { noWant with
      cid := some c.cid, base := some (newestOf d.pad.requested newest), noBanks := true }

/-- PADDOCK_JOIN with JOIN. `linksUp`, `busy` and `newest` are what the other listed modules report. -/
def execPaddockJoin (cid : Nat) (linksUp busy : Bool) (newest : List W32) : State → Res :=
  startCmd "PADDOCK_JOIN" 0x60 (fun c => c.param 32 1 != 1) cid fun d c =>
    if 1 < c.param 32 1 then finish d c (ends 0x01)
    else if c.lead.isSome then becomeFollower d c else joinLead d c linksUp busy newest

/-- JOIN_LINK_TIMEOUT (R477): nothing has changed. -/
def execJoinLinkTimeout : State → Res :=
  onDev "JOIN_LINK_TIMEOUT" fun d =>
    match d.pad.joining.bind (cmdOf d) with
    | some c => some (finish (setPad d { d.pad with joining := none }) c (failedWith 2))
    | none => none

/-! ### Leaving (R480, R481) -/

/-- A port outside any paddock. -/
def freePort (x : Port) : Port := { x with routed := false, twin := false, peerIndex := 0xFF }

/-- The module is Alone; its epochs go on from the number it holds. -/
def becomeAlone (d : Dev) : Dev :=
  let p := d.pad
  let alone (e : Epoch) : Epoch := { e with reports := if e.moduleDone then [0] else [] }
  let d := setPad d { Paddock.reset with
    epochs := p.epochs.map alone, requested := p.requested, complete := p.complete, wants := p.wants,
    limiterEpoch := p.limiterEpoch, limiterPosted := p.limiterPosted, farrierEpoch := p.farrierEpoch,
    farrierPosted := p.farrierPosted, ports := (p.ports.map fun q => (q.1, freePort q.2)).filter fun q => q.2 != Port.reset }
  settleBusy { d with host := { d.host with serving := true } }

/-- The bindings of this module end: nothing waits for a twin any more, and a copy is not finished. -/
def unbindOwn (d : Dev) : Dev :=
  dropTwinBanks (stopMirror (setPad d { d.pad with
    twin := .unbound, twinPeer := 0, mirror := 0, twinReady := false, twinTold := none }))

/-- PADDOCK_JOIN with LEAVE: every twin is unbound, and every module and standby becomes Alone. The lead sends it to all of
them; each answers before it leaves. -/
def execPaddockLeave (cid : Nat) (busy : Bool) : State → Res :=
  startCmd "PADDOCK_LEAVE" 0x60 (fun c => c.param 32 1 == 1) cid fun d c =>
    if dDataLen c.desc ≠ 0 ∧ c.lead.isNone then finish d c (ends 0x02)
    else if c.lead.isNone ∧ (moduleBusy d c.cid false ∨ busy) then finish d c (failedWith 3)
    else
      let d := if c.lead.isNone then toPlan d c none else finish d c (ends 0)
      let d := completeEpochs 16 (becomeAlone (unbindOwn d))
      if c.lead.isNone then finish d c { ends 0 with value0 := 1 } else d

/-- No epoch names a bank Live any more, and each Live bank is Ready. -/
def dropAllLive (d : Dev) : Dev :=
  let d := setPad d { d.pad with epochs := d.pad.epochs.map fun e => { e with set := { e.set with live := [], dflt := [] } } }
  { d with banks := d.banks.map fun p => (p.1, if p.2.state = .live then { p.2 with state := .ready } else p.2) }

/-- Operations under way to an index that this module neither holds nor reaches any more complete as violations (R60). -/
def cutAway (d : Dev) : Dev :=
  (d.ops.filter fun o => o.own && o.phase == .sent && !o.dead && !reachableModule d (gModule (tAddr o))).foldl cutOp d

/-- LEAD_UNREACHABLE (R481). -/
def execLeadUnreachable : State → Res :=
  onDev "LEAD_UNREACHABLE" fun d =>
    if d.pad.role = .member ∧ reaches d 0 = false then
      some (cutAway (becomeAlone (unbindOwn (silenceCommands (dropAllLive (closeAll (abortAll d 0x03)))))))
    else none

/-! ### Twins (R492 to R499) -/

/-- The twin link of the plan between a module and a standby entry. -/
def twinLink (d : Dev) (m entry : Nat) : Option Link :=
  d.pad.links.find? fun l => l.twin && ((l.endA == m && l.endB == 64 + entry) || (l.endB == m && l.endA == 64 + entry))

/-- This module's part of a new binding: the protected module, which sends the copy, or the standby of the entry, to which the
copy may have come first. -/
def bindHere (d : Dev) (c : Cmd) : Dev :=
  let m := c.param 33 1
  let entry := c.param 34 1
  let mir := BitVec.ofNat 32 (c.param 36 4)
  if d.pad.role = .standby then
    (if d.pad.twin = .copying then d else setPad d { d.pad with twin := .copying, twinPeer := m, mirror := mir })
  else if m = d.pad.index then
    sendCopy (setPad d { d.pad with twin := .copying, twinPeer := 64 + entry, mirror := mir, twinReady := false, twinTold := none })
  else d

/-- The result that refuses a BIND. A pair that is Lost or Serving is bound still (R494). -/
def bindRefusal (d : Dev) (c : Cmd) (linkUp layoutSame stallsOk : Bool) : Option Nat :=
  let m := c.param 33 1
  let entry := c.param 34 1
  if (d.pad.modules.any fun x => x.2.1 == m) = false ∨ (twinLink d m entry).isNone ∨
      d.pad.bindings.any (fun b => b.index == m || b.entry == entry) ∨ (m = d.pad.index ∧ d.pad.twin ≠ .unbound) then some 1
  else if linkUp = false ∨ (m = d.pad.index ∧ twinPortUp d = false) then some 2
  else if layoutSame = false then some 3
  else if stallsOk = false then some 4
  else none

/-- TWIN_BIND goes on to the standby of an entry and the protected module. -/
def toTwins (d : Dev) (c : Cmd) (entry : Nat) : Dev :=
  let d := tell c d (64 + entry)
  if c.param 33 1 = d.pad.index then d else tell c d (c.param 33 1)

/-- TWIN_BIND with BIND: completes when the binding is in step. -/
def execTwinBind (cid : Nat) (linkUp layoutSame stallsOk : Bool) : State → Res :=
  startCmd "TWIN_BIND" 0x61 (fun c => c.param 32 1 != 1) cid fun d c =>
    if 1 < c.param 32 1 ∨ 16 ≤ c.param 36 4 then finish d c (ends 0x01)
    else if c.lead.isSome then finish (bindHere d c) c (ends 0)
    else
      match bindRefusal d c linkUp layoutSame stallsOk with
      | some k => finish d c (failedWith k)
      | none =>
        let b : Binding := { index := c.param 33 1, entry := c.param 34 1, state := .copying, cmd := some c.cid }
        bindHere (toTwins (setPad d { d.pad with bindings := d.pad.bindings ++ [b] }) c b.entry) c

/-- TWIN_COPY_DONE (R494): the standby of this module's binding holds the copy. The standby and the lead are told. -/
def execTwinCopyDone : State → Res :=
  onDerier "TWIN_COPY_DONE" fun d =>
    if d.pad.twin = .copying ∧ mirroring d ∧ d.pad.twinReady then
      let d := raiseEvent (setPad d { d.pad with twin := .inStep }) 0 6 0x35 d.pad.index (d.pad.twinPeer % 64)
      let d := sendTwin d .twinInStep
      some (if follower d then sendMsg d 0 .twinInStep else bindingInStep d d.pad.index)
    else none

/-- TWIN_BIND with UNBIND (R494, R499). One that names no binding, or a Serving one, is inconsistent with the state
(log 36). -/
def execTwinUnbind (cid : Nat) : State → Res :=
  startCmd "TWIN_UNBIND" 0x61 (fun c => c.param 32 1 == 1) cid fun d c =>
    let m := c.param 33 1
    if c.param 36 4 ≥ 16 then finish d c (ends 0x01)
    else if c.lead.isSome then finish (unbindOwn d) c (ends 0)
    else
      match bindingOf d m with
      | none => finish d c (ends 0x02)
      | some b =>
        if b.state = .serving then finish d c (ends 0x02)
        else
          let d := toTwins (noteBinding d m .unbound (failedWith 2)) c b.entry
          let d := setPad d { d.pad with bindings := d.pad.bindings.filter fun b => b.index != m }
          let d := if m = d.pad.index then unbindOwn d else d
          finish (completeEpochs 16 d) c (ends 0)

/-! ### Takeover of the lead and fencing (R503, R504) -/

/-- Members that this standby reaches, and whether more than half of them report index 0 unreachable. -/
def reachedMembers (d : Dev) : List Nat :=
  (d.pad.modules.map fun m => m.2.1).filter fun m => m != 0 && reaches d m

def leadIsGone (d : Dev) : Bool :=
  (reachedMembers d).length < 2 * ((reachedMembers d).filter d.pad.leadGone.contains).length

/-- LEAD_TAKEOVER: the standby bound to index 0 takes it. -/
def execLeadTakeover : State → Res :=
  onDev "LEAD_TAKEOVER" fun d =>
    if d.pad.role = .standby ∧ d.pad.twinPeer = 0 ∧ d.pad.twin = .inStep ∧ twinPortUp d = false ∧ leadIsGone d then
      let entry := ownEntry d
      let d := setPad d { d.pad with role := .lead, index := 0, chain := 0, leadGone := [] }
      let d := dropUnmirrored (takeStopAll d)
      let d := (others d).foldl (fun d m => sendMsg d m .stopAll) d
      let d := takeOver (settleBusy d) 0 entry 0
      some (sendMsix { d with host := { d.host with serving := true } } 0 0)
    else none

/-- The binding of the lead lacks its link (R503, R504). -/
def leadTwinDown (d : Dev) : Bool :=
  ((d.pad.role == .lead && mirroring d) ||
    (d.pad.role == .standby && d.pad.twinPeer == 0 && (d.pad.twin == .copying || d.pad.twin == .inStep))) && !twinPortUp d

/-- TWIN_LOST (R503): the lead's binding enters Lost, and the lead continues. -/
def execTwinLost : State → Res :=
  onDev "TWIN_LOST" fun d => if leadTwinDown d then some (loseTwin d) else none

/-- Every command in progress ends ABORTED, whatever it still waits for. -/
def abortCommands (d : Dev) (but : Option Nat) : Dev :=
  drainRings ((d.host.cmds.filter fun x => some x.cid != but).foldl (fun d x =>
    endNow d x (refusedEnds (dOpcode x.desc) 0x09)) d)

/-- LEAD_FENCED (R504). -/
def execLeadFenced : State → Res :=
  onDev "LEAD_FENCED" fun d =>
    if d.pad.role = .lead ∧ leadTwinDown d ∧ d.pad.modules.length - 1 < 2 * (cutOff d).length then
      let d := abortCommands (abortAll (raiseEvent d 0 6 0x38 0 0) 0x06) none
      let d := loseTwin (endStages (setPad d { d.pad with fenced := true, wants := [] }))
      some { d with host := { d.host with serving := false } }
    else none

end Sys2Proof.Machine
end

