-- ==== Sys2Proof/Machine/Sense.lean ====
section
/-! DEFINITION. The sense ADC, windows, sensor checks, the farrier's sweeps, the power limiter and throttling (13, R554 to
R583). -/

namespace Sys2Proof.Machine

open Sys2Proof

def setSense (d : Dev) (s : Sense) : Dev := { d with sense := s }

/-- The sense block responds to the host: STATE is 3 and the port serves the whole interface (R425, R445, R504). -/
def windowOpen (d : Dev) : Bool := d.host.state == .running && d.host.serving

/-- The thermal loop and the farrier run: power-up has passed step 5 (R589). -/
def sensing (d : Dev) : Bool := d.board.powered && 5 ≤ d.host.step

/-! ### Requests and conversions (R555 to R559) -/

/-- A request of the thermal loop goes before those of the farrier, each requester's in its own order. -/
def addRequest (l : List Request) (r : Request) : List Request :=
  if r.who = .thermal then
    l.takeWhile (fun x => x.who == .thermal) ++ r :: l.dropWhile (fun x => x.who == .thermal)
  else l ++ [r]

def request (who : Requester) (s : Sense) (p : Nat × BitVec 12) : Sense :=
  { s with waiting := addRequest s.waiting { who := who, channel := p.1, dac := p.2 } }

/-- SENSE_SCAN (R557): channels 0 to 62 in ascending order; after the first scan of a window the four check conversions. -/
def execSenseScan : State → Res :=
  onDev "SENSE_SCAN" fun d =>
    if sensing d = false ∨ d.health.healthDown then none
    else
      let s := ((List.range 63).map fun n => (n, (0 : BitVec 12))).foldl (request .thermal) d.sense
      let s := if s.checksAsked then s else
        { (List.replicate 4 (63, (0x800 : BitVec 12))).foldl (request .check) s with checksAsked := true }
      some (setSense d s)

/-- SENSE_CONVERSION_START (R558): the idle ADC takes the first waiting request. -/
def execSenseConversionStart : State → Res :=
  onDev "SENSE_CONVERSION_START" fun d =>
    match d.sense.adc, d.sense.waiting with
    | none, r :: rs => some (setSense d { d.sense with adc := some r, waiting := rs })
    | _, _ => none

/-- SENSE_REQ (R558, R593): accepted only on the idle ADC with no firmware request in its way. -/
def execSenseReq (value : W32) (firmware : Bool) : State → Res :=
  always fun d =>
    if windowOpen d = false then d
    else if d.sense.adc.isSome ∨ d.sense.waiting ≠ [] ∨ firmware then bump d 0x10010
    else
      setSense d { d.sense with
        adc := some { who := .host, channel := bitsOf value.toNat 5 0, dac := BitVec.ofNat 12 (bitsOf value.toNat 27 16) } }

/-- The code range of a channel's form (R554). -/
def senseLo (n : Nat) : Int := if n < 40 then -32768 else 0
def senseHi (n : Nat) : Int := if n < 40 then 32767 else 65535

/-- The correction pair in force on a channel (R571). -/
def corrOf (s : Sense) (n : Nat) : BitVec 16 × BitVec 16 := mget (0, 0) (if s.factory then s.factoryCorr else s.corr) n

/-- The corrected code (R555). -/
def corrected (s : Sense) (n : Nat) (raw : Int) : Int :=
  let c := corrOf s n
  max (senseLo n) (min (senseHi n) (roundEven ((raw - c.1.toInt) * c.2.toNat) 32768))

/-- A code enters an accumulator and the peak trackers (R561, R593). -/
def accumulate (s : Sense) (n : Nat) (c : Int) : Sense :=
  let a : Acc := match mget none s.live n with
    | some a => { sum := a.sum + c, count := a.count + 1, mn := min a.mn c, mx := max a.mx c }
    | none => { sum := c, count := 1, mn := c, mx := c }
  let fresh := mget false s.peakClr n
  let lo := match mget none s.peakMin n with
    | some v => if fresh then c else min v c
    | none => c
  let hi := match mget none s.peakMax n with
    | some v => if fresh then c else max v c
    | none => c
  { s with live := mput none s.live n (some a), peakMin := mput none s.peakMin n (some lo),
           peakMax := mput none s.peakMax n (some hi), peakClr := mput false s.peakClr n false }

/-- The 64 conversions of a sweep are requested (R568). -/
def startSweep (s : Sense) : Sense :=
  let codes := List.replicate 32 (63, (0x100 : BitVec 12)) ++ List.replicate 32 (63, (0xF00 : BitVec 12))
  { codes.foldl (request .sweep) s with sweeping := true, sweepWaiting := false, sweepCodes := [] }

/-! ### Means -/

/-- A ratio: numerator and positive denominator. -/
abbrev Ratio := Int × Nat

def rLt (a b : Ratio) : Bool := a.1 * b.2 < b.1 * a.2
def rAdd (a b : Ratio) : Ratio := (a.1 * b.2 + b.1 * a.2, a.2 * b.2)
def rMul (a b : Ratio) : Ratio := (a.1 * b.1, a.2 * b.2)

/-- The window mean of a channel: 0 where it had no conversion. -/
def meanOf (s : Sense) (n : Nat) : Ratio :=
  let a := mget Acc.reset s.acc n
  (a.sum, max 1 a.count)

/-- The channel had a conversion in the last window. -/
def measured (s : Sense) (n : Nat) : Bool := (mget Acc.reset s.acc n).count != 0

def insertR (a : Ratio) : List Ratio → List Ratio
  | [] => [a]
  | b :: bs => if rLt b a then b :: insertR a bs else a :: b :: bs

/-- The median: of an even number, the mean of the middle two. -/
def median (l : List Ratio) : Option Ratio :=
  let s := l.foldr insertR []
  if s.length % 2 = 1 then (s.drop (s.length / 2)).head?
  else
    match s.drop (s.length / 2 - 1) with
    | a :: b :: _ => some (rMul (rAdd a b) (1, 2))
    | _ => none

/-- The diodes of a channel's group. -/
def groupOfChannel (n : Nat) : List Nat :=
  if n < 20 then (List.range 5).map (n / 5 * 5 + ·) else (List.range 4).map ((n - 20) / 4 * 4 + 20 + ·)

def channelFailed (s : Sense) (n : Nat) : Bool := mget false s.failed n

/-- The mean of the window means of a group's diodes that are not failed (R570): groups 0 to 3 the stable dies, 4 the gate die,
5 and 6 the photonic dies. -/
def groupMean (s : Sense) (k : Nat) : Option Ratio :=
  let ms := (groupOfChannel (if k < 4 then 5 * k else 4 * k + 4)).filter fun n => !channelFailed s n && measured s n
  if ms = [] then none else some (rMul ((ms.map (meanOf s)).foldl rAdd (0, 1)) (1, ms.length))

/-! ### Sweeps (R568, R569, R571 to R573) -/

/-- The sense corrections that a sweep gives: how they follow from the codes is not said (R567, R568); free (log 33). -/
def sweepFits (draw : Nat) : List (Nat × BitVec 16 × BitVec 16) :=
  (List.range 64).map fun n =>
    (n, (Config.freeWord draw n).setWidth 16, (Config.freeWord draw (64 + n)).setWidth 16)

/-- The compensation tables that a sweep gives, free as its corrections are (R568, R570, log 33). -/
def sweepTables (draw : Nat) : List (List Nat) :=
  (List.range 14).map fun t => (List.range 64).map fun e => Config.freeNat draw (2 ^ 51 + 64 * t + e)

/-- The REFIT in progress (R571): one whose command has ended or is no more holds nothing. -/
def refitNow (d : Dev) : Option (Nat × Bool × List (Nat × Option Corr)) :=
  d.sense.refits.filter fun r => (cmdOf d r.1).isSome

/-- The diode means of the seven groups, for the next sweep to be compared with (R568). -/
def groupMeans (s : Sense) : List (Option Ratio) := (List.range 7).map (groupMean s)

/-- A sweep ends (R568, R569, R572, R573): its corrections and tables wait for the window's end, or for the epoch of the REFIT
that they are of. -/
def endSweep (d : Dev) : Dev :=
  let s := d.sense
  let held := s.sweepRefit && (refitNow d).isSome
  setSense d { s with
    sweeping := false, sweepRefit := false, sweepCodes := [],
    pendCorr := if held then s.pendCorr else sweepFits d.draws, heldCorr := if held then sweepFits d.draws else s.heldCorr,
    pendTables := if held then s.pendTables else some (sweepTables d.draws)
    heldTables := if held then some (sweepTables d.draws) else s.heldTables
    refits := if held then s.refits.map fun r => (r.1, true, r.2.2) else s.refits,
    sweepMeans := groupMeans s, calCount := satAdd s.calCount 1, calLastMs := BitVec.ofNat 64 d.host.uptimeMs }

/-- Every Ready or Live bank has its fit, and the sweep of the REFIT has ended: its epoch is wanted (R571, R572). A member
tells the lead, which requests the epoch, and holds the fits for it. -/
def checkRefit (d : Dev) : Dev :=
  match refitNow d with
  | some (cid, true, l) =>
    if d.banks.all fun p => !(p.2.state == .ready || p.2.state == .live) || l.any fun f => f.1 == p.1 then
      match cmdOf d cid with
      | some c =>
        if c.lead.isSome then finish d c (ends 0)
        else
          addWant (setSense d { d.sense with refits := none }) { noWant with
            cid := some cid, target := d.pad.index, factory := some false, refit := true
            fits := l.filterMap fun f => f.2.map fun c => (f.1, c) }
      | none => d
    else d
  | _ => d

/-- SENSE_CONVERSION_END (R555 to R559): the corrected code goes to its accumulator or to the farrier. -/
def execSenseConversionEnd (raw : Int) : State → Res :=
  onDev "SENSE_CONVERSION_END" fun d =>
    match d.sense.adc with
    | none => none
    | some r =>
      let c := corrected d.sense r.channel raw
      let s := { d.sense with adc := none }
      match r.who with
      | .thermal => some (setSense d (accumulate s r.channel c))
      | .check => some (setSense d { s with checks := s.checks ++ [c] })
      | .sweep =>
        let d := setSense d { s with sweepCodes := s.sweepCodes ++ [c] }
        some (if d.sense.sweepCodes.length = 64 then checkRefit (endSweep d) else d)
      | .host =>
        let s := accumulate s r.channel c
        some (setSense d (if s.sweepWaiting ∧ r.channel = 63 then startSweep s else s))

/-- SENSE_PEAK_CLR (R593). -/
def execSensePeakClr (value : W64) : State → Res :=
  always fun d =>
    if windowOpen d = false then d
    else
      setSense d { d.sense with
        peakClr := (List.range 64).foldl (fun m n => if value.getLsbD n then mput false m n true else m) d.sense.peakClr }

/-- The REFIT in progress still waits for its sweep. -/
def refitSweep (d : Dev) : Bool :=
  match refitNow d with
  | some (_, false, _) => true
  | _ => false

/-- The mean of a group has moved by more than 4 °C since the last sweep (R568). -/
def groupMoved (s : Sense) (k : Nat) : Bool :=
  match groupMean s k, s.sweepMeans.getD k none with
  | some m, some o => rLt (rAdd o (512, 1)) m || rLt m (rAdd o (-512, 1))
  | _, _ => false

/-- The farrier runs a sweep (R568, R571): every 10 s, when a group has moved, or for a REFIT. -/
def sweepDue (d : Dev) : Bool :=
  refitSweep d || d.sense.calLastMs.toNat + 10000 ≤ d.host.uptimeMs || (List.range 7).any (groupMoved d.sense)

/-- CAL_SWEEP (R559, R568): a sweep starts, or waits for a pending injected conversion. -/
def execCalSweep : State → Res :=
  onDev "CAL_SWEEP" fun d =>
    let s := d.sense
    if sensing d = false ∨ s.sweeping ∨ s.sweepWaiting ∨ sweepDue d = false then none
    else
      let s := { s with sweepRefit := refitSweep d }
      match s.adc with
      | some { who := .host, channel := 63, .. } => some (setSense d { s with sweepWaiting := true })
      | _ => some (setSense d (startSweep s))

/-- A bank whose fit a REFIT in progress still waits for (R571). -/
def awaitsFit (d : Dev) (k : Nat) : Bool :=
  match refitNow d with
  | some (_, _, l) => ((bankOf d k).state == .ready || (bankOf d k).state == .live) && !l.any fun f => f.1 == k
  | none => false

/-- A fit joins those that the REFIT holds; one outside the limits leaves the active set in use (R123). -/
def holdFit (d : Dev) (k : Nat) (c : Option Corr) : Dev :=
  checkRefit (setSense d { d.sense with refits := d.sense.refits.map fun r => (r.1, r.2.1, r.2.2 ++ [(k, c)]) })

/-- A fit outside the limits of R123 is a crib fault. -/
def fitFails (d : Dev) (st crib bank : Nat) : Dev :=
  let k := bankKey st crib bank
  let b := bankOf d k
  cribFails (setBank d k { b with refitBad := true }) st (servedIndex (stallOf d st) crib) bank 3 b.lastPass

/-- REFIT (R122, R123, R571): a pending correction set, a fit that a REFIT holds, or a crib fault. The farrier refits a
Ready or Live bank whenever its reference columns drift; that they have, or that 10 s have passed, is taken on trust
(log 12). -/
def execRefit (st crib bank : Nat) (corr : Corr) : State → Res :=
  onDev "REFIT" fun d =>
    let k := bankKey st crib bank
    let b := bankOf d k
    if stallCount ≤ st ∨ 17 ≤ crib ∨ 2 ≤ bank then none
    else if awaitsFit d k then
      some (if corrOk corr then holdFit (setBank d k { b with fit := some corr, refitBad := false }) k (some corr)
        else holdFit (fitFails d st crib bank) k none)
    else if b.state ≠ .live ∧ b.state ≠ .ready then none
    else if corrOk corr then some (setBank d k { b with pend := some corr, fit := none, refitBad := false })
    else some (fitFails d st crib bank)

/-! ### Sensor checks (R563 to R566) -/

/-- The group median of a diode. -/
def groupMedian (s : Sense) (n : Nat) : Option Ratio :=
  median (((groupOfChannel n).filter fun k => k != n && !channelFailed s k && measured s k).map (meanOf s))

/-- Nominal voltage of channels 41 to 55, in mV (R554). -/
def nominal (n : Nat) : Int :=
  if n ≤ 44 ∨ n = 49 then 700 else if n ≤ 48 ∨ n = 50 ∨ n = 53 then 1200 else if n ≤ 52 then 1050
  else if n = 54 then 1800 else 3300

/-- The channel fails its check in the window. -/
def failsCheck (s : Sense) (n : Nat) : Bool :=
  let a := mget Acc.reset s.acc n
  if a.count = 0 then false
  else if n < 32 then
    match groupMedian s n with
    | some m => rLt (a.mn, 1) (rAdd m (-1024, 1)) || rLt (rAdd m (1024, 1)) (a.mn, 1) ||
        rLt (a.mx, 1) (rAdd m (-1024, 1)) || rLt (rAdd m (1024, 1)) (a.mx, 1)
    | none => false
  else if n < 40 then a.mn < -2560 || 16640 < a.mx
  else if n = 40 then a.mn < 45000 || 62000 < a.mx
  else if n < 56 then 100 * a.mn < 85 * nominal n || 115 * nominal n < 100 * a.mx
  else if n = 56 then 6000 < a.mx
  else if n < 61 then 65000 < a.mx
  else n < 63 && 40000 < a.mx

/-- A ratio as a code, to nearest with ties to even. -/
def codeOfRatio (r : Ratio) : Int := roundEven r.1 r.2

/-- The substitute of a failed channel (R592): the group median of a diode, none of any other. -/
def substituteCode (s : Sense) (n : Nat) : Nat :=
  match (if n < 32 then groupMedian s n else none) with
  | some m => (BitVec.ofInt 32 (codeOfRatio m)).toNat
  | none => 0xFFFFFFFF

/-- One channel's check; medians are over the channels that were not failed before the window's end (log 54). -/
def checkChannel (before : Sense) (d : Dev) (n : Nat) : Dev :=
  let s := d.sense
  if channelFailed s n then d
  else
    let runs := if failsCheck before n then mget 0 s.failedRuns n + 1 else 0
    let d := setSense d { s with failedRuns := mput 0 s.failedRuns n runs }
    if runs < 3 then d
    else
      raiseEvent (setSense d { d.sense with failed := mput false d.sense.failed n true }) 0xFFFF 5 0x20 n
        (substituteCode before n)

/-- The check of the ADC (R566): the mean of the window's check conversions against 32,768. -/
def checkAdc (d : Dev) : Dev :=
  let s := d.sense
  let cs := s.checks
  let sum : Int := cs.foldl (· + ·) 0
  let bad := cs != [] && 160 * cs.length < (sum - 32768 * (cs.length : Int)).natAbs
  let runs := if bad then s.adcRuns + 1 else 0
  let d := setSense d { s with checks := [], checksAsked := false, adcRuns := runs }
  if s.adcFail = false ∧ 3 ≤ runs then
    raiseEvent (setSense d { d.sense with adcFail := true, duty := 16, gate := 4 }) 0xFFFF 5 0x24 32768
      (BitVec.ofInt 32 (codeOfRatio (sum, max 1 cs.length))).toNat
  else d

/-! ### Power (R574 to R580) -/

def epochLimit (d : Dev) : Nat := (settingsOf d d.pad.limiterEpoch).power

/-- L_T: the epoch limit while no source is throttling (R582). -/
def thermalLimit (d : Dev) : Nat := if d.sense.throttling then d.sense.thermalW else epochLimit d

/-- The effective limit L. -/
def effectiveLimit (d : Dev) : Nat := min (epochLimit d) (thermalLimit d)

/-- Rail channel of a current channel; of channel 61 the manual does not say which (log 33). -/
def railOf (n : Nat) : Nat :=
  if n < 61 then n - 16 else if n = 62 then 54 else 49 + Config.freeNat 61 0 % 5

/-- P in watts (R575). -/
def inputPower (s : Sense) : Ratio :=
  if channelFailed s 40 || channelFailed s 56 then
    let ws := [57, 58, 59, 60, 61, 62].map fun n => rMul (meanOf s n) (meanOf s (railOf n))
    rMul (ws.foldl rAdd (0, 1)) (100, 85 * 100000)
  else rMul (rMul (meanOf s 40) (meanOf s 56)) (1, 100000)

/-- The whole watts that report P: of a P that is no whole number the rounding is not said (log 33). -/
def wholeWatts (draw : Nat) (p : Ratio) : Nat :=
  (p.1 / p.2).toNat + (if p.1 % p.2 ≠ 0 ∧ Config.freeBit draw 40 then 1 else 0)

/-- `ceil((P − L) · 256 / 960)`. -/
def dutyStep (p : Ratio) (l : Nat) : Nat :=
  let num := (p.1 - (l : Int) * p.2) * 256
  ((num + (960 * p.2 : Nat) - 1) / ((960 * p.2 : Nat) : Int)).toNat

/-- The limiter's window (R579). -/
def limiterWindow (s : Sense) (p : Ratio) (l : Nat) : Sense :=
  if rLt (l, 1) p then
    (if 16 < s.duty then { s with duty := max 16 (s.duty - dutyStep p l) }
    else if 4 < s.gate then { s with gate := s.gate - 1 } else s)
  else if rLt p (97 * l, 100) then
    (if s.gate < 16 then { s with gate := s.gate + 1 } else { s with duty := min 256 (s.duty + 4) })
  else s

/-- Power above the limit at the lowest controls (R580). -/
def unmetWindow (d : Dev) (p : Ratio) (l : Nat) : Dev :=
  let s := d.sense
  if rLt (l, 1) p ∧ s.duty = 16 ∧ s.gate = 4 then
    let d := bump (setSense d { s with unmetRun := s.unmetRun + 1 }) 0x10058
    if s.unmetRun + 1 < 10 ∨ s.unmetRaised then d
    else raiseEvent (setSense d { d.sense with unmetRaised := true }) 0xFFFF 5 0x23 (wholeWatts d.draws p) l
  else setSense d { s with unmetRun := 0, unmetRaised := false }

/-- The limiter at a window end; a failed ADC holds it (R566). -/
def powerWindow (d : Dev) : Dev :=
  if d.sense.adcFail then d
  else
    let p := inputPower d.sense
    let l := effectiveLimit d
    let d := unmetWindow d p l
    setSense d { limiterWindow d.sense p l with inputW := wholeWatts d.draws p }

/-! ### Thermal throttling and trips (R581 to R583) -/

/-- Channels of sources 0 to 6, 15 and 16. -/
def sourceChannels (n : Nat) : List Nat :=
  if n < 4 then (List.range 5).map (5 * n + ·) else if n < 7 then (List.range 4).map (20 + 4 * (n - 4) + ·)
  else if n = 15 then [38, 39] else [37]

/-- Throttle, release and trip levels in 1/128 °C. -/
def levels (n : Nat) : Int × Int × Option Int :=
  if n < 5 then (12160, 11776, some 14080) else if n < 7 then (9600, 9216, some 11520)
  else if n < 15 then (10624, 10240, some 12160) else if n = 15 then (8960, 8576, some 10880) else (7680, 7296, none)

/-- What a channel contributes to its source. -/
def channelReading (s : Sense) (n : Nat) : Option Int :=
  if channelFailed s n then (if n < 32 then (groupMedian s n).map codeOfRatio else none)
  else if measured s n then some (mget Acc.reset s.acc n).mx else none

/-- A source's reading; with a failed ADC only the DRAM stacks' own reports are used (R566). -/
def sourceReading (s : Sense) (dram : List Int) (n : Nat) : Option Int :=
  if 7 ≤ n ∧ n < 15 then (dram.drop (n - 7)).head?
  else if s.adcFail then none
  else ((sourceChannels n).filterMap (channelReading s)).foldl (fun m v => some (max v (m.getD v))) none

/-- Sources that read above their throttle level. -/
def hotSources (s : Sense) (dram : List Int) : List Nat :=
  (List.range 17).filter fun n => (sourceReading s dram n).any fun v => (levels n).1 < v

/-- One of several: which is reported is not said (log 30). -/
def pickOne (draw place : Nat) (l : List Nat) : Nat := (l.drop (Config.freeNat draw place % l.length)).headD 0

/-- A reading as DETAIL1. -/
def readingBits (v : Option Int) : Nat := (BitVec.ofInt 32 (v.getD 0)).toNat

/-- L_T at a window end (R582). -/
def throttleWindow (d : Dev) (dram : List Int) : Dev :=
  let hot := hotSources d.sense dram
  let cool := (List.range 17).all fun n => (sourceReading d.sense dram n).all fun v => v < (levels n).2.1
  let d := setSense d { d.sense with
    hot := hot.foldl (fun m n => mput false m n true) [],
    thermalW := thermalLimit d }
  if hot ≠ [] then
    let d :=
      if d.sense.throttling then d
      else
        let n := pickOne d.draws 8 hot
        raiseEvent (setSense d { d.sense with throttling := true, thermalW := effectiveLimit d }) 0xFFFF 5 0x21 n
          (readingBits (sourceReading d.sense dram n))
    let lt := max 500 (d.sense.thermalW - 25)
    let d := if lt < d.sense.thermalW then bump d 0x10050 else d
    setSense d { d.sense with thermalW := lt, coolRun := 0 }
  else if d.sense.throttling = false then d
  else if cool = false then setSense d { d.sense with coolRun := 0 }
  else if d.sense.coolRun + 1 < 10 then setSense d { d.sense with coolRun := d.sense.coolRun + 1 }
  else
    let lt := min (epochLimit d) (d.sense.thermalW + 10)
    let d := setSense d { d.sense with coolRun := 0, thermalW := lt }
    if lt < epochLimit d then d
    else raiseEvent (setSense d { d.sense with throttling := false }) 0xFFFF 5 0x22 0 lt

/-- Sources at or above their trip level. -/
def trippedSources (s : Sense) (dram : List Int) : List Nat :=
  (List.range 17).filter fun n => match (levels n).2.2, sourceReading s dram n with
    | some t, some v => t ≤ v
    | _, _ => false

/-- A trip (R583): the record is written and the module shuts down. -/
def tripWindow (d : Dev) (dram : List Int) : Dev :=
  match trippedSources d.sense dram with
  | [] => d
  | l =>
    let n := pickOne d.draws 9 l
    let d' := powerOff d (some 2)
    { d' with board := { d'.board with tripped := true, tripRecord := some (n, (sourceReading d.sense dram n).getD 0) } }

/-! ### SENSE_WINDOW_END -/

/-- The accumulators latch and clear (R561). -/
def latch (s : Sense) : Sense :=
  { s with
    acc := s.live.foldl (fun m p => match p.2 with
      | some a => mput Acc.reset m p.1 a
      | none => m) []
    live := [], window := s.window + 1 }

def putCorrs (m : Map (BitVec 16 × BitVec 16)) (l : List (Nat × BitVec 16 × BitVec 16)) : Map (BitVec 16 × BitVec 16) :=
  l.foldl (fun m p => mput (0, 0) m p.1 p.2) m

/-- Corrections change, and the farrier adopts the posted epoch's calibration set (R485, R562, R569, R572). -/
def adoptCalibration (d : Dev) : Dev :=
  let refit := d.pad.epochs.any fun e =>
    e.refit && reached d.pad.farrierPosted e.num && !reached d.pad.farrierEpoch e.num
  let d := setPad d { d.pad with farrierEpoch := d.pad.farrierPosted }
  let s := d.sense
  let new := s.pendCorr ++ (if refit then s.heldCorr else [])
  setSense d { s with
    corr := putCorrs s.corr new, pendCorr := [], heldCorr := if refit then [] else s.heldCorr,
    tables := ((if refit then s.heldTables else none).orElse fun _ => s.pendTables).getD s.tables
    pendTables := none, heldTables := if refit then none else s.heldTables
    factory := (settingsOf d d.pad.farrierEpoch).factory }

/-- The table entry of a group of diodes moves when their mean lies 1 °C or more outside its band (R570). -/
def moveEntry (s : Sense) (die : Nat) : Sense :=
  match groupMean s die with
  | none => s
  | some m =>
    let e : Int := (mget 0 s.entries die : Nat)
    if rLt (256 * e - 128, 1) m ∧ rLt m (256 * e + 384, 1) then s
    else { s with entries := mput 0 s.entries die (max 0 (min 63 (m.1 / (256 * m.2)))).toNat }

/-- The group of diodes whose entry selects a PLL's bias: SP0 to SP3 by their stable die, OP0 and OP1 by their photonic die, the
others by the gate die (R570, R586). -/
def pllGroup (p : Nat) : Nat := if p < 4 then p else if p = 7 then 5 else if p = 8 then 6 else 4

/-- Every PLL takes the bias of the tables in force, with the sense corrections (R569). -/
def setBiases (s : Sense) : Sense :=
  { s with pllBias := (List.range 10).map fun p => tableWord s s.factory (4 + p) (mget 0 s.entries (pllGroup p)) }

/-- SENSE_WINDOW_END (R561 to R583). Windows count from module reset (R560); until the thermal loop runs, which power-up
step 5 starts, a window ends with nothing to check or regulate. -/
def execSenseWindowEnd (facts : WindowFacts) : State → Res :=
  onDev "SENSE_WINDOW_END" fun d =>
    if d.board.powered = false then none
    else if sensing d = false then some (endCredits (setSense d (latch d.sense)))
    else
      let d := adoptCalibration (setSense (endCredits d) (latch d.sense))
      let d := (List.range 63).foldl (checkChannel d.sense) d
      let d := setSense (checkAdc d) (setBiases ((List.range 7).foldl moveEntry (checkAdc d).sense))
      let d := powerWindow (throttleWindow d facts.dramTemps)
      some (limiterStep (tripWindow d facts.dramTemps))

end Sys2Proof.Machine
end

