-- ==== Sys2Proof/Machine/Power.lean ====
section
/-! DEFINITION. Clocks lost, the 56 V input, RESET_N and the power-up sequence (13, R584 to R591; 14, R602 to R607, R616 to
R618). -/

namespace Sys2Proof.Machine

open Sys2Proof

/-! ### PLLs (R588) -/

/-- PLL_UNLOCK: SP0 to SP3, GF, DR and MG reset the module; PC loses the host link; OP0 and OP1 their die's ports. -/
def execPllUnlock (pll : Nat) : State → Res :=
  onDev "PLL_UNLOCK" fun d =>
    if d.board.powered = false ∨ d.sense.lock.getLsbD pll = false then none
    else
      let s := { d.sense with lastUnlock := 1 + pll, lock := d.sense.lock &&& ~~~((1 : BitVec 10) <<< pll) }
      let d := setSense d s
      if pll = 6 then some (linkLost d)
      else if pll = 7 then some ((List.range 8).foldl portDown d)
      else if pll = 8 then some (((List.range 8).map (8 + ·)).foldl portDown d)
      else
        let d := moduleReset d (some 3)
        some { d with board := { d.board with unlockRaise := true } }

/-! ### The input and RESET_N (R584, R604, R605, R616) -/

/-- Beyond the absolute maximum ratings of the input: 65 V, or 72 V for at most 10 ms. -/
def beyondRatings (millivolts micros : Nat) : Bool := 72000 < millivolts || (65000 < millivolts && 10000 < micros)

/-- INPUT_OUT_OF_RANGE. -/
def execInputOutOfRange (millivolts micros : Nat) (s : State) : Res :=
  if beyondRatings millivolts micros then .fault .outsideRatings
  else
    always (fun d =>
      if (52000 ≤ millivolts ∧ millivolts ≤ 58000) ∨ micros ≤ 5 then d
      else
        let d := powerOff d d.board.causeRecord
        { d with board := { d.board with inputValid := false, tripped := false, cause := 0 } }) s

/-- RESET_N_ASSERT: `nanos` is how long it has been low. -/
def execResetNAssert (nanos : Nat) : State → Res :=
  always fun d =>
    if nanos < 1000 then d
    else if nanos < 10000 then
      (if Config.freeBit d.draws 604 then
        let d := moduleReset d d.board.causeRecord
        { d with board := { d.board with cause := 1 } }
      else d)
    else
      let d := powerOff d d.board.causeRecord
      { d with board := { d.board with resetLow := true } }

/-- RESET_N_RELEASE: RESET_N is the last to be released, unless the input left its range while RESET_N was low: whether it
has come back before the release no command says, and which of the two was last is a free value (R618, log 34). -/
def execResetNRelease : State → Res :=
  onDev "RESET_N_RELEASE" fun d =>
    if d.board.resetLow then
      some { d with board := { d.board with
        resetLow := false, tripped := false
        cause := if d.board.inputValid ∨ Config.freeBit d.draws 618 then 1 else 0 } }
    else none

/-! ### POWER_UP (R589 to R591, R603, R607, R618) -/

/-- Which image runs: some false the marked one, some true the other. -/
def bootImage (f : PowerUpFacts) : Option Bool :=
  let alt := f.straps.getLsbD 2
  let ok (other : Bool) : Bool := if other then f.otherImageOk else f.markedImageOk
  if ok alt then some alt else if ok (!alt) then some (!alt) else none

/-- The version of the marked image, or of the other. -/
def slotVersion (b : Board) (other : Bool) : Nat := if b.marked != other then b.slot1 else b.slot0

/-- Steps 1 to 3: straps, rails, crystal PLLs, the image and the causes of the reset. -/
def bootModule (d : Dev) (f : PowerUpFacts) (other : Bool) : Dev :=
  let b := d.board
  { d with
    board := { b with
      pinsLink := BitVec.ofNat 2 f.straps.toNat, pinsAlt := f.straps.getLsbD 2, pinsMgmtOff := f.straps.getLsbD 3,
      cause := b.causeRecord.getD b.cause, causeRecord := none, image := other,
      fwVersion := BitVec.ofNat 32 (slotVersion b other), runs := b.marked != other }
    sense := { d.sense with lock := 0x3B0 } }

/-- A step fails: the module stops there, and PCIe is trained, with PC locked, for the host to see why. -/
def bootFails (d : Dev) (step fail : Nat) : Dev :=
  { d with
    host := { d.host with state := .failed, step := step, fail := fail, linkUp := !d.board.perstLow }
    sense := { d.sense with lock := if d.board.perstLow then d.sense.lock else d.sense.lock ||| 0x40 } }

/-- The farrier's fit of a bank (R130): the facts name those whose fit is not the plain set (offsets 0, gains 0x8000); none
is a fit outside the limits of R123. -/
def factFit (f : PowerUpFacts) (k : Nat) : Option Corr :=
  match f.fits.find? fun p => p.1 == k with
  | some (_, c) => c.filter corrOk
  | none => some { off := [], gain := [] }

/-- Step 6 for one bank (R130): Empty without a valid tag, else Ready with its fit active, or Stale. -/
def fitBank (f : PowerUpFacts) (k : Nat) (b : Bank) : Bank :=
  if tagValid b.tag = false then { b with state := .empty }
  else
    match factFit f k with
    | some c => { b with state := .ready, corr := c, corrUe := false, refitBad := false }
    | none => { b with state := .stale, refitBad := true }

/-- Derier fills the side stores from the weak lists that the banks keep (R269). -/
def loadSides (d : Dev) : Dev := d.banks.foldl (fun d p => loadSide d (p.1 / 34) (p.1 / 2 % 17) (p.1 % 2) p.2.weak) d

/-- The sense block as step 5 calibrates it (R567): corrections, the entries for the present temperatures, and for each PLL
its band and bias. Bands and tables are free, as those of a sweep are (log 33). -/
def calibrated (s : Sense) (draw uptimeMs : Nat) (f : PowerUpFacts) : Sense :=
  let es := (List.range 7).zip f.entries
  let s := setBiases { s with
    lock := s.lock ||| 0xF, corr := putCorrs [] f.senseCorr, calCount := 1, calLastMs := BitVec.ofNat 64 uptimeMs
    entries := es.foldl (fun m p => mput 0 m p.1 (p.2 % 64)) [], tables := sweepTables draw
    pllBand := (List.range 10).map fun p => Config.freeNat draw (2 ^ 52 + p), sweepMeans := groupMeans s }
  { s with refBase := (List.range 4).map fun k => tableWord s s.factory k (mget 0 s.entries k) }

/-- Steps 5 and 6: the sense block, and the fits of the banks. -/
def calibrate (d : Dev) (f : PowerUpFacts) : Dev :=
  { d with
    sense := calibrated d.sense d.draws d.host.uptimeMs f
    banks := (d.banks.map fun p => (p.1, fitBank f p.1 p.2)).filter fun p => p.2 != Bank.reset }

/-- Events that records keep across the restart (R583, R588). -/
def raiseKept (d : Dev) : Dev :=
  let b := d.board
  let d := { d with board := { b with tripRecord := none, unlockRaise := false } }
  let d := match b.tripRecord with
    | some (n, v) => raiseEvent d 0xFFFF 5 0x26 n (readingBits (some v))
    | none => d
  if b.unlockRaise then raiseEvent d 0xFFFF 5 0x25 d.sense.lastUnlock 0 else d

/-- The uptime, counted from step 1, is `ms`, and the windows that have ended are counted with it (R560, R589). -/
def clockAt (d : Dev) (ms : Nat) : Dev :=
  { d with
    host := { d.host with uptimeMs := ms }
    sense := { d.sense with window := BitVec.ofNat 32 (ms / 10) } }

/-- The sequence of R589 as far as it goes. The times of its table are typical ones: how long the steps up to the sweep of
step 5 take, and those after it, is free (log 34). -/
def powerSequence (d : Dev) (f : PowerUpFacts) : Dev :=
  let d := { d with board := { d.board with powered := true, inputValid := true, straps := f.straps, pwrOk := true } }
  let d := clockAt d (Config.freeNat d.draws 589)
  match bootImage f with
  | none => bootFails { d with sense := { d.sense with lock := 0x3B0 } } 3 2
  | some other =>
    let d := bootModule d f other
    if f.memoryOk = false then bootFails d 4 3
    else if f.calibrationOk = false then bootFails d 5 4
    else if f.banksOk = false then bootFails { d with sense := { d.sense with lock := 0x3BF } } 6 4
    else
      let d := raiseKept (loadSides (calibrate d f))
      let d := clockAt { d with host := { d.host with step := 6 } } (d.host.uptimeMs + Config.freeNat d.draws 590)
      if d.board.perstLow then d else trainHost d

/-- POWER_UP: the input has been valid for 10 ms, RESET_N is high, and no trip holds the module off (R605). -/
def execPowerUp (facts : PowerUpFacts) : State → Res :=
  onDev "POWER_UP" fun d =>
    if d.board.resetLow ∨ d.board.tripped then none
    else if d.board.powered = false ∨ (d.host.state = .booting ∧ d.host.step = 0) then some (powerSequence d facts)
    else none

end Sys2Proof.Machine
end

