-- ==== Sys2Proof/Machine/Registers.lean ====
section
/-! DEFINITION. The register window (00, R12 to R15; 10, R417 to R421, R425): every register of space 0x4 below
0x100_0000, what a read of it returns and what a write of it does; the MSI-X tables. -/

namespace Sys2Proof.Machine

open Sys2Proof

/-! ### Words -/

/-- A word from its fields, each with its lowest bit; the fields of a register do not overlap. -/
def pack (l : List (Nat × Nat)) : Nat := l.foldl (fun s p => s + p.1 * 2 ^ p.2) 0

def flag (b : Bool) : Nat := if b then 1 else 0

/-- The two's complement field of w bits of a number (R11). -/
def signedField (w : Nat) (v : Int) : Nat := (BitVec.ofInt w v).toNat

/-- 64 flags of a map from a number upward, as a word. -/
def flagWord (m : Map Bool) (first : Nat) : Nat :=
  (m.filter fun p => p.2 && first ≤ p.1 && p.1 < first + 64).foldl (fun s p => s + 2 ^ (p.1 - first)) 0

/-! ### Event counters (R14, R420) -/

/-- Counters of a stall's page. -/
def stallCounter (o : Nat) : Bool :=
  o == 0x18 || (0x20 ≤ o && o ≤ 0x70 && o % 8 == 0) || (0x88 ≤ o && o ≤ 0xA0 && o % 8 == 0)

/-- The event counters: every W1C register that counts. -/
def isCounter (off : Nat) : Bool :=
  [0xB0, 0xB8, 0xC0, 0x1008, 0x20A0, 0x20A8, 0x20B0, 0x20B8, 0x20C0, 0x10010, 0x10050, 0x10058, 0x31018].contains off ||
    (0x20018 ≤ off && off ≤ 0x20068 && off % 8 == 0) ||
    (0x30000 ≤ off && off < 0x30400 && [0x10, 0x18, 0x20, 0x28].contains (off % 0x40)) ||
    (0x100000 ≤ off && off < 0x180000 && [0x00, 0x08, 0x10, 0x18, 0x20].contains (off % 0x10000)) ||
    (0x180000 ≤ off && off < 0x184000 && [0x00, 0x08, 0x10, 0x18, 0x20, 0x40].contains (off % 0x1000)) ||
    (0x200000 ≤ off && off < 0x204000 && off % 8 == 0 && 0x08 ≤ off % 0x1000 && off % 0x1000 ≤ 0x38) ||
    (0x400000 ≤ off && off < 0x800000 && stallCounter (off % 0x1000))

/-! ### The host interface block (R425) -/

def stateCode : HiState → Nat
  | .booting => 1
  | .handshake => 2
  | .running => 3
  | .failed => 4

/-- Word n of a completion record (R436). -/
def recordWord (r : Record) (phase : Bool) (n : Nat) : Nat :=
  if n = 0 then pack [(r.tag.toNat, 0), (r.sqid, 32), (r.sqhead, 48)]
  else if n = 1 then pack [(r.status, 0), (r.result, 8), (r.value1.toNat, 32)]
  else if n = 2 then r.value0.toNat
  else pack [(flag phase, 56)]

def hostReg (d : Dev) (o : Nat) : Option Nat :=
  let h := d.host
  if o = 0x00 then some (pack [(0x7340, 0), (d.board.stepping, 16), (1, 20)])
  else if o = 0x08 then some (pack [(stateCode h.state, 0), (h.step, 4), (h.fail, 8)])
  else if o = 0x10 then some h.uptimeMs
  else if o = 0x18 then some h.hsLayout.toNat
  else if o = 0x20 then some h.hsNb
  else if o = 0x28 ∨ o = 0x80 then some 0
  else if 0x40 ≤ o ∧ o < 0x80 then some (mget 0 h.mboxDesc ((o - 0x40) / 8)).toNat
  else if 0x88 ≤ o ∧ o < 0xA8 then
    some (match h.mboxCpl with
      | some (r, ph) => recordWord r ph ((o - 0x88) / 8)
      | none => 0)
  else if o = 0xA8 then some h.bar2Base
  else none

/-! ### Groom, layout and feed (R367, R411) -/

def gateReg (d : Dev) (o : Nat) : Option Nat :=
  if o = 0x1000 then some (pack [(flag d.mem.groomEnable, 0), (d.mem.groomPeriod, 8)])
  else if o = 0x1010 then some d.mem.layout.toNat
  else if o = 0x2000 then some (pack [(d.feed.progPower, 0), (d.feed.timeout, 8)])
  else if o = 0x2008 then
    some (pack [(d.feed.stages.length, 0), (d.feed.models.length, 8), (loadingBanks d, 16)])
  else if 0x2020 ≤ o ∧ o < 0x20A0 then
    some (match mget none d.feed.keys ((o - 0x2020) / 8) with
      | some k => keyIdOf k
      | none => 0)
  else none

/-! ### Sense (R593, R594, R617) -/

def senseChannel (s : Sense) (n o : Nat) : Option Nat :=
  let a := mget Acc.reset s.acc n
  if o = 0x00 then some (pack [(signedField 48 a.sum, 0), (a.count % 2 ^ 16, 48)])
  else if o = 0x08 then
    some (pack [(signedField 16 a.mn, 0), (signedField 16 a.mx, 16),
      (signedField 16 ((mget none s.peakMin n).getD 0), 32), (signedField 16 ((mget none s.peakMax n).getD 0), 48)])
  else if o = 0x10 then some (pack [((corrOf s n).1.toNat, 0), ((corrOf s n).2.toNat, 16)])
  else none

def senseReg (d : Dev) (o : Nat) : Option Nat :=
  let s := d.sense
  let b := d.board
  if o = 0x00 ∨ o = 0x20 then some 0
  else if o = 0x08 then some (pack [(flag s.adc.isSome, 0), (flag s.adcFail, 1), (s.window.toNat, 32)])
  else if o = 0x18 then some (flagWord s.failed 0)
  else if o = 0x28 then
    some (pack ((flag s.factory, 0) :: (List.range 4).map fun n => (mget 0 s.entries n, 8 * n + 8)))
  else if o = 0x30 then some s.calCount.toNat
  else if o = 0x38 then some s.calLastMs.toNat
  else if o = 0x40 then
    some (pack [(s.inputW % 2 ^ 12, 0), (effectiveLimit d, 12), (thermalLimit d, 24), (epochLimit d, 36), (s.duty, 48),
      (s.gate, 57)])
  else if o = 0x48 then some (flagWord s.hot 0)
  else if o = 0x60 then some (pack [(s.lock.toNat, 0), (s.lastUnlock, 16)])
  else if o = 0x68 then
    some (pack [(b.pinsLink.toNat, 0), (flag b.pinsAlt, 2), (flag b.pinsMgmtOff, 3), (b.cause, 8), (flag b.image, 16)])
  else if 0x1000 ≤ o ∧ o < 0x1800 then senseChannel s ((o - 0x1000) / 0x20) (o % 0x20)
  else none

/-- FAULT_N (R607), which the module holds low while STATE is 4. -/
def faultN (d : Dev) : Bool := d.host.state != .failed

/-! ### Health (R552) -/

def retiredCount (d : Dev) : Nat := (d.stalls.filter (·.2.gone)).length

def sparesUsed (d : Dev) : Nat := (d.stalls.filter fun p => p.2.spareIndex.isSome).length

def healthReg (d : Dev) (o : Nat) : Option Nat :=
  let h := d.health
  if o = 0x00 then some (pack [(flag h.probe, 0), (flag h.vet, 1)])
  else if o = 0x08 then some (pack [(h.watch.length, 0), (retiredCount d, 16), (sparesUsed d, 32)])
  else if o = 0x10 then some (pack [(h.vetVersion, 0), (h.patterns, 32), (h.runUs, 36)])
  else if o = 0x100 then some (pack [(flag h.mgmtEnable, 0), (h.heartbeat, 8)])
  else if o = 0x108 then some (h.mac.toNat % 2 ^ 48)
  else if o = 0x110 then some (pack [(h.addr.toNat, 0), (h.pfx, 32)])
  else if o = 0x118 then some h.gateway.toNat
  else if o = 0x120 then some (pack [(h.collector.toNat, 0), (h.collectorPort.toNat, 32), (h.listen.toNat, 48)])
  else if 0x1000 ≤ o ∧ o < 0x3000 then some (((watchAt d ((o - 0x1000) / 8)).map watchWord).getD 0)
  else none

/-! ### Ports and paddock (R506, R507) -/

def portCode : PortState → Nat
  | .down => 0
  | .training => 1
  | .up => 2

def roleCode : Role → Nat
  | .alone => 0
  | .lead => 1
  | .member => 2
  | .standby => 3

def twinCode : TwinState → Nat
  | .unbound => 0
  | .copying => 1
  | .inStep => 2
  | .lost => 3
  | .serving => 4

def portWord (x : Port) (o : Nat) : Option Nat :=
  if o = 0x00 then
    some (pack [(portCode x.state, 0), (flag x.routed, 2), (flag x.twin, 3), (x.peerPort, 8), (x.peerIndex, 16)])
  else if o = 0x08 then some x.serial.toNat
  else none

def padReg (d : Dev) (o : Nat) : Option Nat :=
  let p := d.pad
  if o = 0x00 then some (pack [(if p.role = .standby then 0 else p.index, 0), (roleCode p.role, 8), (p.size, 16), (p.chain, 24)])
  else if o = 0x08 then some (pack [(p.requested.toNat, 0), (p.complete.toNat, 32)])
  else if o = 0x10 then some (pack [(twinCode p.twin, 0), (p.twinPeer, 8), (p.mirror.toNat, 32)])
  else if o = 0x20 then some p.pdId.toNat
  else none

/-! ### Memory controllers and engines (R330, R365, R366) -/

/-- `DRAM_REMAP_n` of a stack: entry n mod 32 of channel n >> 5. -/
def dramRemapWord (d : Dev) (stack n : Nat) : Nat :=
  match ((d.mem.dramRemap.filter fun e => e.1 == stack * 32 + n / 32).drop (n % 32)).head? with
  | some (_, line, spare, holds) => pack [(line, 0), (flag holds, 31), (spare, 32)]
  | none => 0

def dramCtl (d : Dev) (stack o : Nat) : Option Nat :=
  if o = 0x28 then
    let u := mget (0, false) d.mem.dramUe stack
    some (pack [(u.1, 0), (flag u.2, 31)])
  else if 0x2000 ≤ o ∧ o < 0x4000 then some (dramRemapWord d stack ((o - 0x2000) / 8))
  else none

def loftCtl (d : Dev) (stack o : Nat) : Option Nat :=
  let region := mget 0 d.mem.wearIndex stack
  let count := mget 0 d.mem.wear (stack * 4096 + region)
  if o = 0x28 then
    let u := mget (0, false) d.mem.loftUe stack
    some (pack [(u.1, 0), (flag u.2, 63)])
  else if o = 0x30 then some region
  else if o = 0x38 then some (pack [(count % 2 ^ 48, 0), (flag (wearBudget ≤ count), 63)])
  else none

/-- `ATTN_STATUS` of a die (R330): a started job holds one walk and streams (R303). -/
def engineStatus (d : Dev) (die : Nat) : Nat :=
  let run := (d.attn.jobs.filter fun j => j.die == die && j.started).length
  pack [(run, 0), (run, 16), (min (heldEdits d die).length 255, 24)]

/-! ### Stalls (R133, R201, R237, R282, R421) -/

def modeCode : StallMode → Nat
  | .idle => 0
  | .running => 1
  | .draining => 2
  | .retired => 3

/-- `STALL_STATUS`: PC is undefined while Idle; of an index beyond 4,095 it holds the low 12 bits (DESIGN CHOICE, log 50). -/
def stallStatus (d : Dev) (st : Nat) : Nat :=
  let x := stallOf d st
  pack [(modeCode x.mode, 0), ((jobsOf d st).length, 4), ((opsOf d st).length, 8),
    (if x.mode = .idle then Config.freeNat d.draws (2 ^ 20 + st) % 4096 else x.pc % 4096, 16), (x.epoch.toNat, 32)]

/-- `BUF_REMAP_n`: entry n mod 8 of buffer n >> 3. -/
def bufRemapWord (x : Stall) (n : Nat) : Nat :=
  let l := if n / 8 = 3 then x.storeRemap else (sramOf x (n / 8)).remap
  match (l.drop (n % 8)).head? with
  | some (line, spare, holds) => pack [(line, 0), (spare, 28), (flag holds, 31)]
  | none => 0

def pinWord (x : Stall) (n : Nat) : Nat :=
  match mget none x.pins n with
  | some p => pack [(p.crib, 0), (p.bank, 4), (p.row, 8), (p.line, 20), (1, 31)]
  | none => 0

def bankCode : BankState → Nat
  | .empty => 0
  | .loading => 1
  | .ready => 2
  | .live => 3
  | .stale => 4

/-- `BANK_STATUS`: an Empty bank has no image. -/
def bankStatus (b : Bank) : Nat :=
  pack [(bankCode b.state, 0), (if b.state = .empty then 3 else b.format, 8), (flag (200000000 ≤ b.wear.toNat), 10),
    (b.weak.length, 16)]

def bankReg (b : Bank) (o : Nat) : Option Nat :=
  if o = 0x00 then some (bankStatus b)
  else if o = 0x08 then some b.wear.toNat
  else if 0x10 ≤ o ∧ o < 0x30 then
    some (if b.state = .empty ∨ b.state = .loading then 0 else b.tag.toNat / 2 ^ (64 * ((o - 0x10) / 8)) % 2 ^ 64)
  else none

def stallRegister (d : Dev) (st o : Nat) : Option Nat :=
  let x := stallOf d st
  if o = 0x00 then some (stallStatus d st)
  else if o = 0x08 then some (pack [(x.faultCode.toNat, 0), (x.faultPc.toNat, 8), (x.faultDetail.toNat, 32)])
  else if o = 0x10 then some (x.limit % 8192)
  else if o = 0x78 then some (pack [(x.ueOff.toNat, 0), (x.ueBuf.toNat, 18), (flag x.ueValid, 31)])
  else if o = 0x80 then some x.thresh.toNat
  else if o = 0xA8 then
    some (match x.spareIndex with
      | some c => pack [(c, 0), (1, 4)]
      | none => 0)
  else if 0xC0 ≤ o ∧ o < 0xF0 then some (flagWord x.tFlags (64 * ((o - 0xC0) / 8)))
  else if 0xF0 ≤ o ∧ o < 0x110 then some (flagWord x.bFlags (64 * ((o - 0xF0) / 8)))
  else if 0x200 ≤ o ∧ o < 0x300 then some (bufRemapWord x ((o - 0x200) / 8))
  else if 0x300 ≤ o ∧ o < 0x400 then some (pinWord x ((o - 0x300) / 8))
  else if 0x400 ≤ o ∧ o < 0xC80 then bankReg (bankOf d (34 * st + (o - 0x400) / 0x40)) (o % 0x40)
  else none

/-! ### One slot (R418, R419) -/

/-- The register at an 8-byte slot of space 0x4 below 0x100_0000; none where the offset holds no register. -/
def regAt (d : Dev) (off : Nat) : Option Nat :=
  if isCounter off then some (ctrOf d off).toNat
  else if off < 0x1000 then hostReg d off
  else if off < 0x10000 then gateReg d off
  else if off < 0x20000 then senseReg d (off - 0x10000)
  else if off < 0x30000 then healthReg d (off - 0x20000)
  else if off < 0x30400 then portWord (portOf d ((off - 0x30000) / 0x40)) (off % 0x40)
  else if 0x31000 ≤ off ∧ off < 0x32000 then padReg d (off - 0x31000)
  else if 0x100000 ≤ off ∧ off < 0x180000 then dramCtl d ((off - 0x100000) / 0x10000) (off % 0x10000)
  else if 0x180000 ≤ off ∧ off < 0x184000 then loftCtl d ((off - 0x180000) / 0x1000) (off % 0x1000)
  else if 0x200000 ≤ off ∧ off < 0x204000 then
    (if off % 0x1000 = 0 then some (engineStatus d ((off - 0x200000) / 0x1000)) else none)
  else if 0x400000 ≤ off ∧ off < 0x800000 then stallRegister d ((off - 0x400000) / 0x1000) (off % 0x1000)
  else none

/-- What a read of a slot returns: zero where there is no register (R418). -/
def readSlot (d : Dev) (off : Nat) : W64 := BitVec.ofNat 64 ((regAt d off).getD 0)

/-- The register window answers at an offset: below STATE 3, in STATE 4 and on a module whose port serves only the host
interface block, that block alone does (R425, R445, R504, R591). -/
def answers (d : Dev) (off : Nat) : Bool := off < 0x1000 || windowOpen d

/-! ### Writes (R12, R14) -/

/-- Whether a counter is cleared by a write: the whole 32-bit register is written with ones. -/
def allOnes (value : W64) : Bool := value.setWidth 32 == BitVec.allOnes 32

/-- The slot that a write of 4 bytes leaves, from what it held; a write of 8 bytes is the value itself. -/
def merged (old : W64) (off width : Nat) (value : W64) : W64 :=
  if width = 8 then value
  else if off % 8 = 4 then (old &&& 0xFFFFFFFF) ||| (value <<< 32)
  else (old &&& 0xFFFFFFFF00000000) ||| (value &&& 0xFFFFFFFF)

/-- The bits that a write sets, with zeros elsewhere, for W1C and WO registers. -/
def written (off width : Nat) (value : W64) : W64 := merged 0 off width value

/-- A register whose write has its own row: HS_GO, MBOX_DOORBELL, SENSE_REQ, SENSE_PEAK_CLR, and the management
settings. -/
def ownRow (off : Nat) : Bool := [0x28, 0x80, 0x10000, 0x10020, 0x20100, 0x20110, 0x20118, 0x20120].contains off

/-- A write that reaches only the upper half of a slot whose register with a row of its own is 32 bits wide: it reaches no
field (R418, R425, R593). -/
def upperHalf (off width : Nat) : Bool := width == 4 && off % 8 == 4 && [0x28, 0x80, 0x10000].contains (off / 8 * 8)

/-- A write of the host interface block's RW registers (R422, R425). -/
def writeHost (d : Dev) (off : Nat) (v : W64) : Dev :=
  if off = 0x18 then { d with host := { d.host with hsLayout := v } }
  else if off = 0x20 then
    let n := bitsOf v.toNat 4 0
    if 16 ≤ n ∧ n ≤ 24 then { d with host := { d.host with hsNb := n } } else d
  else if 0x40 ≤ off ∧ off < 0x80 then
    { d with host := { d.host with mboxDesc := mput 0 d.host.mboxDesc ((off - 0x40) / 8) v } }
  else if off = 0xA8 then
    let b := bitsOf v.toNat 39 0
    if b % 2 ^ d.host.bar2Log2 = 0 then { d with host := { d.host with bar2Base := b } } else d
  else d

/-- Status bits that a write of 1 clears (R12): `BUF_UE_ADDR.VALID`, `DRAM_UE_ADDR.VALID`, `LOFT_UE_ADDR.VALID`. -/
def clearValid (d : Dev) (off : Nat) (bits : W64) : Dev :=
  if 0x400000 ≤ off ∧ off < 0x800000 ∧ off % 0x1000 = 0x78 ∧ bits.getLsbD 31 then
    modStall d ((off - 0x400000) / 0x1000) fun x => { x with ueValid := false }
  else if 0x100000 ≤ off ∧ off < 0x180000 ∧ off % 0x10000 = 0x28 ∧ bits.getLsbD 31 then
    let n := (off - 0x100000) / 0x10000
    let u := (mget (0, false) d.mem.dramUe n).1
    setMem d { d.mem with dramUe := mput (0, false) d.mem.dramUe n (u, false) }
  else if 0x180000 ≤ off ∧ off < 0x184000 ∧ off % 0x1000 = 0x28 ∧ bits.getLsbD 63 then
    let n := (off - 0x180000) / 0x1000
    let u := (mget (0, false) d.mem.loftUe n).1
    setMem d { d.mem with loftUe := mput (0, false) d.mem.loftUe n (u, false) }
  else d

/-- `HEALTH_CTRL` (R552, R553). -/
def writeHealth (d : Dev) (v : W64) : Dev :=
  { d with health := { d.health with probe := v.getLsbD 0, vet := v.getLsbD 1 } }

/-- A write of a slot by the PF. `width` is 4 or 8 and the access is aligned. -/
def writeSlot (d : Dev) (off width : Nat) (value : W64) : Dev :=
  let slot := off / 8 * 8
  if isCounter slot then (if off % 8 = 0 ∧ allOnes value then clearCtr d slot else d)
  else if slot < 0x1000 then writeHost d slot (merged (readSlot d slot) off width value)
  else if slot = 0x20000 then writeHealth d (merged (readSlot d slot) off width value)
  else clearValid d slot (written off width value)

/-! ### MSI-X tables (R416, R417) -/

/-- The word of the table that a function's BAR0 offset names. -/
def msixIndex (fn off : Nat) : Option Nat :=
  if 0x2000000 ≤ off ∧ off < 0x2000000 + 16 * vectorCount fn then some (fn * 4096 + (off - 0x2000000) / 4) else none

/-- Pending bits of the 64 vectors from a number. -/
def pendingWord (d : Dev) (fn first : Nat) : Nat := flagWord d.host.msixPending (fn * 1024 + first)

/-- A word of the table written; unmasking a vector with a pending message sends it. -/
def msixWrite (fn : Nat) (d : Dev) (p : Nat × W32) : Dev :=
  let v := if p.1 % 4 = 3 then p.2 &&& 1 else p.2
  let d := { d with host := { d.host with msix := mput (msixDefault p.1) d.host.msix p.1 v } }
  let vec := p.1 / 4 % 1024
  if p.1 % 4 = 3 ∧ v = 0 ∧ mget false d.host.msixPending (fn * 1024 + vec) then sendMsix d fn vec else d

/-! ### REGISTER_READ and REGISTER_WRITE (R417, R418) -/

/-- A naturally aligned access of 4 or 8 bytes. -/
def goodAccess (off width : Nat) : Bool := (width == 4 || width == 8) && off % width == 0

/-- The register window and the doorbells: where a bad access is counted. -/
def countedArea (off : Nat) : Bool := off < 0x1000000 || (0x1000000 ≤ off && off < 0x1080000)

/-- The 8 bytes that a slot of BAR0 holds for a function. -/
def bar0Slot (d : Dev) (fn off : Nat) : W64 :=
  if off < 0x1000000 then (if fn = 0 ∧ answers d off then readSlot d off else 0)
  else
    match msixIndex fn off with
    | some k => BitVec.ofNat 64 ((msixWord d k).toNat + 2 ^ 32 * (msixWord d (k + 1)).toNat)
    | none =>
      if 0x2010000 ≤ off ∧ off < 0x2010000 + (vectorCount fn + 63) / 64 * 8 then
        BitVec.ofNat 64 (pendingWord d fn ((off - 0x2010000) * 8))
      else 0

/-- The bytes that an access of a width takes from a slot. -/
def accessPart (slot : W64) (off width : Nat) : W64 :=
  if width = 8 then slot else (slot >>> (if off % 8 = 4 then 32 else 0)) &&& 0xFFFFFFFF

/-- The PF reads the word of `MBOX_CPL` that holds RESULT: a record that failed under the mailbox's command is freed
(R391). -/
def readsResult (fn off : Nat) : Bool := fn == 0 && off / 8 * 8 == 0x90

/-- REGISTER_READ: a BAR0 read by a function. -/
def execRegisterRead (fn off width : Nat) : State → Res :=
  always fun d =>
    if goodAccess off width then
      emit (if readsResult fn off then freeFailed d fun p => p.1 == mboxRing else d)
        (.readData (accessPart (bar0Slot d fn (off / 8 * 8)) off width))
    else emit (if countedArea off then bump d 0xC0 else d) (.readData 0)

/-- What an aligned BAR0 write of 4 or 8 bytes does; none for a register whose write has its own row. -/
def bar0Write (d : Dev) (fn off width : Nat) (value : W64) : Option Dev :=
  if off < 0x1000000 then
    if fn ≠ 0 ∨ answers d off = false then some d
    else if ownRow (off / 8 * 8) then (if upperHalf off width then some d else none)
    else some (writeSlot d off width value)
  else if off < 0x1080000 then none
  else
    match msixIndex fn off with
    | some k =>
      let ws := if width = 8 then [(k, value.setWidth 32), (k + 1, (value >>> 32).setWidth 32)]
        else [(k, value.setWidth 32)]
      some (ws.foldl (msixWrite fn) d)
    | none => some d

/-- REGISTER_WRITE: a BAR0 write by a function to a register without a row of its own. -/
def execRegisterWrite (fn off width : Nat) (value : W64) : State → Res :=
  onDev "REGISTER_WRITE" fun d =>
    if goodAccess off width then bar0Write d fn off width value
    else some (if countedArea off then bump d 0xC0 else d)

/-! ### Configuration space (R414, R415) -/

/-- The device ID of a function: 0 the PF, else a VF. -/
def deviceId (fn : Nat) : BitVec 16 := if fn = 0 then 0x7340 else 0x7341

/-- Class code of every function: processing accelerator. -/
def classCode : BitVec 24 := 0x120000

/-- VFs that configuration space shows. -/
def visibleVfs (c : PciConfig) : Nat := if c.vfEnable then min c.numVfs 128 else 0

/-- What configuration space reports of a function, as (vendor, device, class); none where there is no such function. No row
of the operation table reads configuration space (log 49). -/
def configIds (d : Dev) (fn : Nat) : Option (BitVec 16 × BitVec 16 × BitVec 24) :=
  if fn ≤ visibleVfs d.host.cfg then some (Config.vendorId, deviceId fn, classCode) else none

/-! ### MGMT_SETTING_WRITE (R552, R553) -/

/-- The new settings; a write with HEARTBEAT or PREFIX out of range is ignored whole. -/
def writeSetting (h : Health) (slot : Nat) (v : W64) : Health :=
  let n := v.toNat
  if slot = 0x20100 then
    (if 1 ≤ bitsOf n 13 8 ∧ bitsOf n 13 8 ≤ 60 then { h with mgmtEnable := v.getLsbD 0, heartbeat := bitsOf n 13 8 } else h)
  else if slot = 0x20110 then
    (if 1 ≤ bitsOf n 37 32 ∧ bitsOf n 37 32 ≤ 30 then
      { h with addr := BitVec.ofNat 32 (bitsOf n 31 0), pfx := bitsOf n 37 32 } else h)
  else if slot = 0x20118 then { h with gateway := BitVec.ofNat 32 (bitsOf n 31 0) }
  else
    { h with collector := BitVec.ofNat 32 (bitsOf n 31 0), collectorPort := BitVec.ofNat 16 (bitsOf n 47 32),
             listen := BitVec.ofNat 16 (bitsOf n 63 48) }

/-- The registers of the management settings. -/
def isSetting (slot : Nat) : Bool := [0x20100, 0x20110, 0x20118, 0x20120].contains slot

/-- MGMT_SETTING_WRITE: a PF write, through BAR0, of a `MGMT_` register. -/
def execMgmtSettingWrite (off width : Nat) (value : W64) : State → Res :=
  onDev "MGMT_SETTING_WRITE" fun d =>
    let slot := off / 8 * 8
    if isSetting slot = false ∨ goodAccess off width = false then none
    else if windowOpen d = false then some d
    else some { ownRecords d with health := writeSetting d.health slot (merged (readSlot d slot) off width value) }

end Sys2Proof.Machine
end

