-- ==== Sys2Proof/Machine/Bar2.lean ====
section
/-! DEFINITION. The BAR2 window into space 0x1 (10, R422 to R424). -/

namespace Sys2Proof.Machine

open Sys2Proof

/-- Space 0x1 offset of a BAR2 window offset. -/
def bar2Place (d : Dev) (offset : Nat) : Nat := d.host.bar2Base + offset

/-- An access that is refused: the module does not run or its port serves only the host interface block, or the range
reaches beyond space 0x1 (R422). -/
def bar2Refused (d : Dev) (offset len : Nat) : Bool := !windowOpen d || space1Size < bar2Place d offset + len

/-- The window holds the offset; another offset is no BAR2 access. -/
def inBar2 (d : Dev) (offset : Nat) : Bool := offset < 2 ^ d.host.bar2Log2

/-- BAR2_READ (R422, R423): bytes as stored, marked poisoned when a line cannot be trusted. -/
def execBar2Read (offset len : Nat) : State → Res :=
  onDev "BAR2_READ" fun d =>
    if inBar2 d offset = false then none
    else if bar2Refused d offset len then some (emit (bump d 0xC0) (.bar2 (List.replicate len 0) false))
    else
      let keys := space1Keys (bar2Place d offset) len
      some (emit (dramTouchAll d keys) (.bar2 (dramAt d keys) ((linesOf keys).any (lineBad d))))

/-- BAR2_WRITE (R422, R424). -/
def execBar2Write (offset : Nat) (data : List Byte) : State → Res :=
  onDev "BAR2_WRITE" fun d =>
    if inBar2 d offset = false then none
    else if bar2Refused d offset data.length then some (bump d 0xC0)
    else some (derWrite d (bar2Place d offset) data)

/-- BAR2_RESIZE (R414, R422): any power of two from 1 GiB to 512 GiB. -/
def execBar2Resize (log2 : Nat) : State → Res :=
  onDev "BAR2_RESIZE" fun d =>
    if between log2 30 39 then some { d with host := { d.host with bar2Log2 := log2, bar2Base := 0 } } else none

end Sys2Proof.Machine
end

