-- ==== Sys2Proof/Machine/Control.lean ====
section
/-! DEFINITION. The control instructions (04, R184 to R192). -/

namespace Sys2Proof.Machine

open Sys2Proof

/-- A branch target: the index plus the signed immediate (R184). The manual gives an index below 0 or above 4,095 no
width: the model sums modulo 2⁶⁴, so that a negative index lies beyond ROUTINE_LIMIT (DESIGN CHOICE, log 50). -/
def branchTo (i : Ins) (x : Stall) : Nat := (BitVec.ofNat 64 x.pc + sextImm i 32).toNat

def bIssue (_st : Nat) (i : Ins) (x : Stall) (d : Dev) : Issue := .go d (some (branchTo i x))

/-- The condition of BC. -/
def bcHolds (i : Ins) (x : Stall) : Bool :=
  let c := bitsOf i.mod 2 0
  let a := sGet x i.a
  let b := sGet x i.b
  if c = 0 then a == b
  else if c = 1 then a != b
  else if c = 2 then a.toInt < b.toInt
  else if c = 3 then b.toInt ≤ a.toInt
  else if c = 4 then a.toNat < b.toNat
  else if c = 5 then b.toNat ≤ a.toNat
  else if c = 6 then pGet x i.a != 0
  else pGet x i.a == 0

def bcIssue (_st : Nat) (i : Ins) (x : Stall) (d : Dev) : Issue :=
  .go d (if bcHolds i x then some (branchTo i x) else none)

/-- LOOP: the branch is taken while the register, as it then reads, is not zero. -/
def loopIssue (st : Nat) (i : Ins) (x : Stall) (d : Dev) : Issue :=
  let y := sSet x i.d (sGet x i.d - 1)
  .go (modStall d st fun z => sSet z i.d (sGet x i.d - 1))
    (if sGet y i.d ≠ 0 then some (branchTo i x) else none)

def callIssue (st : Nat) (i : Ins) (x : Stall) (d : Dev) : Issue :=
  if 16 ≤ x.rstack.length then .fault 0x0B x.rstack.length
  else .go (modStall d st fun y => { y with rstack := (x.pc + 1) :: y.rstack }) (some (branchTo i x))

def retIssue (st : Nat) (_i : Ins) (x : Stall) (d : Dev) : Issue :=
  match x.rstack with
  | [] => .fault 0x0B 0
  | r :: rs => .go (modStall d st fun y => { y with rstack := rs }) (some r)

/-- YIELD: the boundary lies between it and the next instruction (R187). -/
def yieldIssue (st : Nat) (_i : Ins) (x : Stall) (d : Dev) : Issue := .stay (boundary (advance d st (x.pc + 1)) st)

/-- The end of an EPOCH with WAIT: the held epoch is written and the sequencer moves on. -/
def epochEnd (d : Dev) (st dest : Nat) : Dev :=
  let x := stallOf d st
  advance (modStall d st fun y => sSet y dest (BitVec.ofNat 64 x.epoch.toNat)) st (x.pc + 1)

/-- EPOCH (R190): without WAIT a read; with WAIT a boundary, and a hold until the held epoch reaches the value. -/
def epochIssue (st : Nat) (i : Ins) (x : Stall) (d : Dev) : Issue :=
  if bitAt i.mod 0 = false then
    .go (modStall d st fun y => sSet y i.d (BitVec.ofNat 64 x.epoch.toNat)) none
  else
    let n : W32 := BitVec.ofNat 32 (sGet x i.a + sextImm i 32).toNat
    let d := boundary d st
    if (stallOf d st).mode ≠ .running then .stay d
    else if reached (stallOf d st).epoch n then .stay (epochEnd d st i.d)
    else .stay (holdOn d st (.epoch n i.d))

/-- HALT (R137, R192, log 15): the routine has ended and the stall drains. -/
def haltIssue (st : Nat) (_i : Ins) (_x : Stall) (d : Dev) : Issue :=
  .stay (modStall (holdOn d st .drain) st fun y => { y with mode := .draining, ending := some .halt })

def execB (st : Nat) : State → Res := issue "B" 0x70 formB st (bIssue st)
def execBc (st : Nat) : State → Res := issue "BC" 0x71 formBc st (bcIssue st)
def execLoop (st : Nat) : State → Res := issue "LOOP" 0x72 formLoop st (loopIssue st)
def execCall (st : Nat) : State → Res := issue "CALL" 0x73 formB st (callIssue st)
def execRet (st : Nat) : State → Res := issue "RET" 0x74 formPlain st (retIssue st)
def execYield (st : Nat) : State → Res := issue "YIELD" 0x75 formPlain st (yieldIssue st)
def execEpoch (st : Nat) : State → Res := issue "EPOCH" 0x76 formEpoch st (epochIssue st)
def execHalt (st : Nat) : State → Res := issue "HALT" 0x77 formPlain st (haltIssue st)

/-- EPOCH_WAIT_END (R190). -/
def execEpochWaitEnd (st : Nat) : State → Res :=
  onDev "EPOCH_WAIT_END" fun d =>
    let x := stallOf d st
    match x.held with
    | some { why := .epoch n dest, .. } =>
      if x.mode = .running ∧ reached x.epoch n then some (epochEnd d st dest) else none
    | _ => none

end Sys2Proof.Machine
end

