-- ==== Sys2Proof/Machine/Derier.lean ====
section
/-! DEFINITION. Derier's own commands (10, R450, R451, R459 to R463; 12, R528 to R532; 13, R571; 06, R277 to R281):
IDENTIFY, ATTEST, MODE_SET, TELEMETRY_READ, VET_LOAD, FW_UPDATE, SOLVE. -/

namespace Sys2Proof.Machine

open Sys2Proof

/-! ### IDENTIFY (R450) -/

/-- The module identity public key, and its KEY_ID (R371, R450). -/
def identityKeyBytes : List Byte := (List.range 1793).map Config.identityKey
def identityId : Nat := keyIdOf identityKeyBytes

/-- Power limit of the current epoch, the newest complete one (R26, R450). -/
def currentPower (d : Dev) : Nat := (settingsOf d d.pad.complete).power

/-- Byte k of the RETIRED bits. -/
def retiredByte (d : Dev) (k : Nat) : Byte :=
  BitVec.ofNat 8 (((List.range 8).filter fun j => (stallOf d (8 * k + j)).gone).foldl (fun s j => s + 2 ^ j) 0)

/-- IDENTIFY's ROLE (R472). -/
def identifyRole : Role → Nat
  | .alone => 0
  | .lead => 0
  | .member => 1
  | .standby => 2

/-- The identify structure. -/
def identifyBytes (d : Dev) : List Byte :=
  toLe 2 0x7340 ++ toLe 1 d.board.stepping ++ toLe 1 1 ++ toLe 4 d.board.fwVersion.toNat ++
    toLe 8 d.board.serial.toNat ++ toLe 1 d.pad.index ++ toLe 1 d.pad.size ++ toLe 1 (identifyRole d.pad.role) ++ toLe 1 0 ++
    toLe 2 (usableStalls d) ++ toLe 2 0 ++ toLe 4 (16 * usableStalls d) ++ toLe 4 (currentPower d) ++
    toLe 8 d.mem.layout.toNat ++ toLe 1 d.host.nbLog2 ++ toLe 1 d.host.bar2Log2 ++ toLe 6 0 ++ toLe 8 identityId ++
    toLe 4 d.health.vetVersion ++ toLe 4 d.pad.complete.toNat ++ (List.range 128).map (retiredByte d) ++
    List.replicate 3904 0

def identifyDev (d : Dev) (c : Cmd) : Dev := finish d c { ends 0 with bytes := identifyBytes d }

def execIdentify (cid : Nat) : State → Res := startCmd "IDENTIFY" 0x01 anyForm cid identifyDev

/-! ### ATTEST (R451) -/

/-- A signature by the module identity key: 1 to 1,280 bytes. -/
def signature (msg : List Byte) : List Byte :=
  (List.range (1 + Config.falconSignLen msg % 1280)).map (Config.falconSign msg)

/-- SHAKE256 of the running image, first 32 bytes. -/
def imageHash (d : Dev) : Nat := ((if d.board.runs then d.board.hash1 else d.board.hash0).getD Config.shippedHash)

/-- The structure's bytes 0 to 1,887, with the signature length. -/
def attestBody (d : Dev) (nonce : List Byte) (sigLen : Nat) : List Byte :=
  nonce ++ toLe 32 (imageHash d) ++ toLe 4 d.board.fwVersion.toNat ++ toLe 1 d.board.stepping ++ toLe 3 0 ++
    toLe 8 identityId ++ toLe 4 d.health.vetVersion ++ toLe 4 sigLen ++ identityKeyBytes ++ toLe 7 0

/-- The structure signed over its first 1,888 bytes. -/
def attestBytes (d : Dev) (nonce : List Byte) : List Byte :=
  let n := 1 + Config.falconSignLen nonce % 1280
  let body := attestBody d nonce n
  body ++ (List.range n).map (Config.falconSign body)

def attestDev (d : Dev) (c : Cmd) : Dev :=
  if dResultLen c.desc < 3168 ∨ c.dataLen ≠ 32 ∧ c.dataFailed = false then finish d c (ends 0x02)
  else if c.dataFailed then finish d c (ends 0x07)
  else
    let bs := attestBytes d c.bytes
    finish d c { ends 0 with value0 := bs.length, bytes := bs }

def execAttest (cid : Nat) : State → Res := startCmd "ATTEST" 0x02 anyForm cid attestDev

/-! ### MODE_SET (R460, R571, R572) -/

def mForm (c : Cmd) : Nat := c.param 32 1
def mA (c : Cmd) : Nat := c.param 36 4
def mB (c : Cmd) : Nat := c.param 40 4

def isMode (k : Nat) (c : Cmd) : Bool := mForm c == k

def modePowerDev (d : Dev) (c : Cmd) : Dev :=
  if between (mA c) 500 1800 then addWant d { noWant with cid := some c.cid, target := dModule c.desc, power := some (mA c) }
  else finish d c (ends 0x02)

def execModeSetPower (cid : Nat) : State → Res := startCmd "MODE_SET_POWER" 0x40 (isMode 0) cid modePowerDev

/-- CALSET: FITTED and FACTORY want an epoch; REFIT first has the farrier of the target sweep and read. -/
def modeCalsetDev (d : Dev) (c : Cmd) : Dev :=
  if 2 < mA c then finish d c (ends 0x01)
  else if mA c < 2 then
    addWant d { noWant with cid := some c.cid, target := dModule c.desc, factory := some (mA c == 1) }
  else if holdsIndex d (dModule c.desc) = false then forward d c
  else if d.sense.refits.any fun r => (cmdOf d r.1).isSome then finish d c (ends 0x06)
  else setSense d { d.sense with refits := some (c.cid, false, []) }

def execModeSetCalset (cid : Nat) : State → Res := startCmd "MODE_SET_CALSET" 0x40 (isMode 1) cid modeCalsetDev

def modeFeedDev (d : Dev) (c : Cmd) : Dev :=
  if between (mA c) 16 112 ∧ between (mB c) 1 100 then
    finish (setFeed d { d.feed with progPower := mA c, timeout := mB c }) c (ends 0)
  else finish d c (ends 0x02)

def execModeSetFeed (cid : Nat) : State → Res := startCmd "MODE_SET_FEED" 0x40 (isMode 2) cid modeFeedDev

def modeGroomDev (d : Dev) (c : Cmd) : Dev :=
  if mA c < 2 ∧ between (mB c) 4 60 then
    finish (setMem d { d.mem with groomEnable := mA c == 1, groomPeriod := mB c }) c (ends 0)
  else finish d c (ends 0x02)

def execModeSetGroom (cid : Nat) : State → Res := startCmd "MODE_SET_GROOM" 0x40 (isMode 3) cid modeGroomDev

/-- QUOTA; every FORM beyond it is reserved. -/
def modeQuotaDev (d : Dev) (c : Cmd) : Dev :=
  if mForm c ≠ 4 then finish d c (ends 0x01)
  else if between (mA c) 1 128 then
    finish { d with host := { d.host with
      quota := mput none d.host.quota (mA c) (some (mB c % 2 ^ 16, mB c / 2 ^ 16)) } } c (ends 0)
  else finish d c (ends 0x02)

def execModeSetQuota (cid : Nat) : State → Res := startCmd "MODE_SET_QUOTA" 0x40 (fun c => 4 ≤ mForm c) cid modeQuotaDev

/-! ### TELEMETRY_READ (R461) -/

def tClear (c : Cmd) : Bool := bitAt (c.param 32 1) 0
def tOffset (c : Cmd) : Nat := c.param 36 4
def tCount (c : Cmd) : Nat := c.param 40 2

/-- The slots that a TELEMETRY_READ names. -/
def tSlots (c : Cmd) : List Nat := (List.range (tCount c)).map fun k => tOffset c + 8 * k

/-- The status that refuses a TELEMETRY_READ. -/
def telemetryRefusal (c : Cmd) : Option Nat :=
  if bitsOf (c.param 32 1) 7 1 ≠ 0 then some 0x01
  else if tClear c ∧ c.fn ≠ 0 then some 0x03
  else if 0x1000000 ≤ tOffset c ∨ tOffset c % 8 ≠ 0 ∨ tCount c < 1 ∨ 512 < tCount c ∨
      dResultLen c.desc < 8 * tCount c then some 0x02
  else none

/-- What the command delivers. -/
def telemetryEnds (d : Dev) (c : Cmd) : Ends :=
  { ends 0 with value0 := tCount c, bytes := (tSlots c).flatMap fun o => toLe 8 (readSlot d o).toNat }

def telemetryDev (d : Dev) (c : Cmd) : Dev :=
  match telemetryRefusal c with
  | some k => finish d c (ends k)
  | none => finish d c (telemetryEnds d c)

def execTelemetryRead (cid : Nat) : State → Res :=
  startCmd "TELEMETRY_READ" 0x41 (fun c => !tClear c) cid telemetryDev

/-- A counter read is cleared with the read; an increment of the same cycle counts after it (R15, R461). -/
def clearSlot (d : Dev) (off : Nat) : Dev := if isCounter off then clearCtr d off else d

def telemetryClearDev (d : Dev) (c : Cmd) : Dev :=
  match telemetryRefusal c with
  | some k => finish d c (ends k)
  | none => finish ((tSlots c).foldl clearSlot d) c (telemetryEnds d c)

def execTelemetryReadClear (cid : Nat) : State → Res :=
  startCmd "TELEMETRY_READ_CLEAR" 0x41 tClear cid telemetryClearDev

/-! ### Vet bundles (R528 to R532) -/

def vPatterns (b : List Byte) : Nat := fieldAt b 7 1
def vVersion (b : List Byte) : Nat := fieldAt b 8 4
def vSigOffset (b : List Byte) : Nat := fieldAt b 28 4
def vSigLength (b : List Byte) : Nat := fieldAt b 32 2
def vTests (b : List Byte) : Nat := fieldAt b 18 2
def vRunUs (b : List Byte) : Nat := fieldAt b 24 4

/-- A length padded to 8 bytes. -/
def pad8 (n : Nat) : Nat := (n + 7) / 8 * 8

/-- The header of the test entry at an offset is in range. -/
def testOk (b : List Byte) (o : Nat) : Bool :=
  fieldAt b o 1 ≤ 4 && fieldAt b (o + 1) 1 ≤ 1 && (fieldAt b (o + 1) 1 == 1 || fieldAt b (o + 2) 1 == 0) &&
    fieldAt b (o + 3) 1 == 0 && fieldAt b (o + 12) 4 == 0

/-- The offset after a test entry. -/
def testNext (b : List Byte) (o : Nat) : Nat := o + 16 + pad8 (fieldAt b (o + 4) 4) + pad8 (fieldAt b (o + 8) 4)

/-- n test entries from an offset are in range and end before the signature. -/
def testsOk (b : List Byte) : Nat → Nat → Bool
  | 0, _ => true
  | n + 1, o => o + 16 ≤ vSigOffset b && testOk b o && testNext b o ≤ vSigOffset b && testsOk b n (testNext b o)

/-- Offset of test entry n. -/
def testAt (b : List Byte) : Nat → Nat
  | 0 => fieldAt b 20 4
  | n + 1 => testNext b (testAt b n)

/-- The bundle is well formed and names a stepping (R528 to R530). -/
def bundleOk (b : List Byte) (stepping : Nat) : Bool :=
  64 ≤ b.length && b.length ≤ 0x400000 && fieldAt b 0 4 == 0x5445564B && fieldAt b 4 2 == 1 && bitsOf (fieldAt b 6 1) 7 2 == 0 &&
    bitAt (fieldAt b 6 1) stepping && between (vPatterns b) 1 7 && 1 ≤ vVersion b && fieldAt b 12 4 == b.length &&
    between (fieldAt b 16 1) 16 48 && fieldAt b 17 1 == 0 && between (vTests b) 1 4096 && between (vRunUs b) 1 200 &&
    between (vSigLength b) 1 1280 && vSigOffset b + vSigLength b == b.length && zeroAt b 34 30 &&
    64 + 1024 * vPatterns b ≤ vSigOffset b && testsOk b (vTests b) (fieldAt b 20 4)

/-- The result code of R462 that a bundle gets; none: it is installed. -/
def bundleResult (d : Dev) (b : List Byte) : Option Nat :=
  if bundleOk b d.board.stepping = false then some 3
  else if falconOk Config.vendorKey (b.take (vSigOffset b)) (slice b (vSigOffset b) (vSigLength b)) = false then some 1
  else if vVersion b ≤ d.health.vetVersion then some 2
  else none

/-- Derier writes an image into the record area, by units, which wears its regions (R360, R363): the top four of each stack.
How many units the manual does not say: free (log 31). -/
def writeRecords (d : Dev) : Dev :=
  let rs := (List.range 4).flatMap fun k => (List.range 4).map fun r => 4096 * k + 4092 + r
  setMem (ownRecords d) { (ownRecords d).mem with
    wear := rs.foldl (fun w r => mput 0 w r (mget 0 w r + Config.freeNat d.draws (2 ^ 63 + r))) d.mem.wear }

/-- The bundle is installed: each bank's pattern count restarts (R531, R532). -/
def installBundle (d : Dev) (b : List Byte) : Dev :=
  let d := writeRecords d
  { d with
    health := { d.health with bundle := b, vetVersion := vVersion b, patterns := vPatterns b, runUs := vRunUs b }
    banks := (d.banks.map fun p => (p.1, { p.2 with probes := 0 })).filter fun p => p.2 != Bank.reset }

/-- A bundle arrives by a route: installed or refused, and reported. -/
def takeBundle (d : Dev) (b : List Byte) (route : Nat) : Dev :=
  match bundleResult d b with
  | some k => raiseEvent d 0xFFFF 4 0x18 (vVersion b) k
  | none => raiseEvent (installBundle d b) 0xFFFF 4 0x17 (vVersion b) route

/-- VET_LOAD; the lead passes the bundle to every member and standby (R531). -/
def vetLoadDev (d : Dev) (c : Cmd) : Dev :=
  if c.dataFailed then finish d c (ends 0x07)
  else
    let r := bundleResult d c.bytes
    let d := if d.pad.role = .lead then (standbyEnds d).foldl (tell c) d else d
    finishAll (takeBundle d c.bytes (if c.lead.isSome then 2 else 0)) c
      { ends (if r.isSome then 0x08 else 0) with result := r.getD 0, value0 := vVersion c.bytes }

def execVetLoad (cid : Nat) : State → Res := startCmd "VET_LOAD" 0x50 anyForm cid vetLoadDev

/-! ### FW_UPDATE (R462, R463) -/

/-- Version of the running image. -/
def runningVersion (d : Dev) : Nat := if d.board.runs then d.board.slot1 else d.board.slot0

/-- The result code that an image gets; none: it is stored. -/
def firmwareResult (d : Dev) (b : List Byte) : Option Nat :=
  match Config.fwVersion b with
  | none => some 3
  | some v => if Config.fwSigned b = false then some 1 else if v ≤ runningVersion d then some 2 else none

/-- The image goes to the slot that does not run, and is marked. -/
def storeImage (d : Dev) (b : List Byte) : Dev :=
  let d := writeRecords d
  let v := (Config.fwVersion b).getD 0
  let h := some (shake b 32)
  let bd := d.board
  { d with board :=
    if bd.runs then { bd with slot0 := v, hash0 := h, marked := false }
    else { bd with slot1 := v, hash1 := h, marked := true } }

def fwStoreDev (d : Dev) (c : Cmd) : Dev :=
  if 1 < c.param 32 1 then finish d c (ends 0x01)
  else if c.dataFailed then finish d c (ends 0x07)
  else
    match firmwareResult d c.bytes with
    | some k => finish d c { ends 0x08 with result := k, value0 := (Config.fwVersion c.bytes).getD 0 }
    | none => finish (storeImage d c.bytes) c { ends 0 with value0 := (Config.fwVersion c.bytes).getD 0 }

def execFwUpdateStore (cid : Nat) : State → Res :=
  startCmd "FW_UPDATE_STORE" 0x51 (fun c => c.param 32 1 != 1) cid fwStoreDev

/-- Version of the image that starts next. -/
def markedVersion (d : Dev) : Nat := if d.board.marked then d.board.slot1 else d.board.slot0

def fwActivateDev (d : Dev) (c : Cmd) : Dev :=
  let d := abortCommands (abortAll d 0x05) (some c.cid)
  moduleReset (endNow d c { ends 0 with value0 := markedVersion d }) (some 4)

def execFwUpdateActivate (cid : Nat) : State → Res :=
  startCmd "FW_UPDATE_ACTIVATE" 0x51 (fun c => c.param 32 1 == 1) cid fwActivateDev

end Sys2Proof.Machine
end

