-- ==== Sys2Proof/Machine/Health.lean ====
section
/-! DEFINITION. The vet engine and the watch list (12, R515 to R544): samples, probes, vet runs, watch periods, Derier's
lockstep. -/

namespace Sys2Proof.Machine

open Sys2Proof

def setHealth (d : Dev) (h : Health) : Dev := { d with health := h }

/-! ### The recompute and its tolerance (R517, R522) -/

/-- f of R264 for a weak entry. -/
def weakFactor (fmt col : Nat) : Int := if fmt = 0 ∧ col % 2 = 0 then 15 else 1

/-- The intended weight of a row and output in the bank's digital image. -/
def imageWeight (d : Dev) (st phys b row j : Nat) : Int :=
  signedOf 8 (fieldAt (dramAt d (imageKeys st phys b (1024 * row + j) 1)) 0 1)

/-- E[j]: the expected value of output j for the inputs x′. -/
def expected (d : Dev) (st phys b : Nat) (xs : List Int) (j : Nat) : Int :=
  let bk := bankOf d (bankKey st phys b)
  ((List.range 1024).map fun i => xs.getD i 0 * imageWeight d st phys b i j).sum -
    (((bk.weak.filter fun e => e.col / 2 == j).map fun e => xs.getD e.row 0 * e.delta * weakFactor bk.format e.col).sum)

/-- The converted terms of an output, as tree weight, phase and column parity. -/
def termsOf (fmt : Nat) : List (Int × Nat × Bool) :=
  if fmt = 0 then [(240, 0, false), (16, 0, true), (15, 1, false), (1, 1, true)] else [(16, 0, false), (1, 1, false)]

/-- A phase of a group is converted: some nibble is not zero (R102). -/
def converted (xs : List Int) (g p : Nat) : Bool := (List.range 64).any fun k => nibble p (xs.getD (64 * g + k) 0) != 0

/-- a_t of a term. -/
def termMag (d : Dev) (st phys b fmt : Nat) (xs : List Int) (j g p : Nat) (odd : Bool) : Int :=
  ((List.range 64).map fun k =>
    ((nibble p (xs.getD (64 * g + k) 0) * sliceOf fmt (imageWeight d st phys b (64 * g + k) j) odd).natAbs : Int)).sum

/-- Σ s·w², Σ s·w and Σ w·a over the converted terms of output j. -/
def termSums (d : Dev) (st phys b : Nat) (xs : List Int) (splits : List (Nat × Nat)) (j : Nat) : Int × Int × Int :=
  let fmt := (bankOf d (bankKey st phys b)).format
  let ts := (List.range 16).flatMap fun g => ((termsOf fmt).filter fun t => converted xs g t.2.1).map fun t => (g, t)
  let s (g p : Nat) : Int := if splits.contains (g, p) then 8 else 1
  ((ts.map fun t => s t.1 t.2.2.1 * t.2.1 * t.2.1).sum, (ts.map fun t => s t.1 t.2.2.1 * t.2.1).sum,
    (ts.map fun t => t.2.1 * termMag d st phys b fmt xs j t.1 t.2.2.1 t.2.2.2).sum)

/-- |y − E| ≤ T, exactly: 400 times the excess over the last three parts of T, squared, against k and the terms
(0.7 · SIGMA / 4 · 400 = 70 · SIGMA). -/
def withinT (sigma reps : Nat) (y e : Int) (t : Int × Int × Int) : Bool :=
  let x : Int := 400 * (y - e).natAbs - 100 * t.2.1 - t.2.2 - 400
  x ≤ 0 || x * x * reps ≤ 4900 * (sigma : Int) * sigma * t.1

/-- SIGMA of the installed bundle. -/
def sigmaOf (d : Dev) : Nat := fieldAt d.health.bundle 16 1

/-- Every output of a list passes. With no bundle installed the tolerance has no k, and the verdict is free (log 30). -/
def outputsOk (d : Dev) (st phys b : Nat) (xs : List Int) (splits : List (Nat × Nat)) (reps : Nat) (y : Nat → Int)
    (js : List Nat) : Bool :=
  if d.health.vetVersion = 0 then Config.freeBit d.draws 517
  else js.all fun j => withinT (sigmaOf d) reps (y j) (expected d st phys b xs j) (termSums d st phys b xs splits j)

/-- Lines that a recompute of outputs reads. -/
def recomputeKeys (st phys b first n : Nat) : List Nat :=
  (List.range 1024).flatMap fun i => imageKeys st phys b (1024 * i + first) n

/-! ### Verdicts (R523 to R525) -/

def notePass (d : Dev) (st phys b : Nat) : Dev :=
  modBank d (bankKey st phys b) fun x => { x with lastPass := d.host.uptimeMs }

/-- The crib fails a check of a bank. -/
def failCheck (d : Dev) (st phys b check : Nat) : Dev :=
  cribFails d st (servedIndex (stallOf d st) phys) b check (bankOf d (bankKey st phys b)).lastPass

/-- The side lane is suspect; the crib's next eligible MVM is sampled (R524). -/
def laneSuspect (d : Dev) (st phys : Nat) : Dev :=
  let d := digitalSuspect (bump d (stallReg st 0xA0)) st 0 0
  setCrib d (cribKey st phys) { cribOf d (cribKey st phys) with unsampled := 4095 }

/-! ### SAMPLE_CHECK (R515 to R517, R524, R526) -/

def sampleOf (d : Dev) (st phys : Nat) : Option Sample :=
  d.health.samples.find? fun s => s.stall == st && s.crib == phys

def dropSample (d : Dev) (s : Sample) : Dev :=
  setHealth d { d.health with samples := d.health.samples.erase s }

/-- The crib's or the stall's retirement has taken hold. -/
def retiredUnit (d : Dev) (st phys : Nat) : Bool := (stallOf d st).gone || (stallOf d st).spareIndex == some phys

/-- A sample judged. -/
def judgeSample (d : Dev) (s : Sample) (residueOk : Bool) : Dev :=
  let first := 64 * (s.number % 16)
  let ok := outputsOk d s.stall s.crib s.bank s.inputs s.splits s.reps (fun j => s.outs.getD j 0)
    ((List.range 64).map (first + ·))
  let d := dramTouchAll (bump d 0x20018) (recomputeKeys s.stall s.crib s.bank first 64)
  if residueOk = false then laneSuspect d s.stall s.crib
  else if ok then notePass d s.stall s.crib s.bank
  else failCheck (bump d 0x20020) s.stall s.crib s.bank 0

/-- SAMPLE_CHECK: the recompute of the crib's oldest sample ends; `residueOk` is the side lane's residue on it. -/
def execSampleCheck (st crib : Nat) (residueOk : Bool) : State → Res :=
  onDev "SAMPLE_CHECK" fun d =>
    match sampleOf d st crib with
    | none => none
    | some s =>
      if d.health.healthDown then none
      else if retiredUnit d st crib then some (dropSample d s)
      else some (judgeSample (dropSample d s) s residueOk)

/-! ### VET_PROBE (R518 to R523) -/

/-- Sweep pattern k of the installed bundle. -/
def patternOf (d : Dev) (k : Nat) : List Int :=
  (List.range 1024).map fun i => signedOf 8 (fieldAt d.health.bundle (64 + 1024 * k + i) 1)

/-- What the probe's MVM converts: repeats 1, SPLIT, the vet engine's own inputs. -/
def probeConv (d : Dev) (st phys b k : Nat) : Conv :=
  { bank := bankOf d (bankKey st phys b), place := 0, corr := (bankOf d (bankKey st phys b)).corr, ref := refOf d st,
    xs := patternOf d k, reps := 1, clip := false, seed := d.draws }

/-- Groups and phases that ran a split pass. -/
def convSplits (c : Conv) : List (Nat × Nat) :=
  (List.range 16).flatMap fun g => ((List.range 2).filter (splits c g)).map fun p => (g, p)

/-- Crib-phases of one conversion that satisfy a test. -/
def convPhases (f : Nat → Bool) : Nat := ((List.range 2).filter f).length

/-- A sweep-pattern check: the MVM runs and its outputs are judged, with the residue of the recompute. -/
def sweepCheck (d : Dev) (st phys b k : Nat) (residueOk : Bool) : Dev × Bool :=
  let c := probeConv d st phys b k
  let ok := outputsOk d st phys b c.xs (convSplits c) 1 (treeOut c) (List.range 1024)
  let nSplit := convPhases fun p => anyGroup fun g => splits c g p
  let nSkip := convPhases fun p => (List.range 16).all fun g => skips c g p
  let d := touchCorr st (seeRefs c d (bankKey st phys b)) (bankKey st phys b)
  let d := if nSplit = 0 then d else bumpBy d (stallReg st 0x30) nSplit
  let d := if nSkip = 0 then d else bumpBy d (stallReg st 0x40) nSkip
  let d := dramTouchAll d (recomputeKeys st phys b 0 1024)
  if residueOk = false then (laneSuspect d st phys, true)
  else if ok then (notePass d st phys b, false)
  else (failCheck d st phys b 2, true)

/-- The sweep part of a probe, with its converting time. -/
def sweepPart (d : Dev) (st phys b tick : Nat) (residueOk : Bool) : Dev × Bool :=
  let k := (bankOf d (bankKey st phys b)).probes % d.health.patterns
  sweepCheck (charge32 tick (convTime (probeConv d st phys b k)) d (cribKey st phys)) st phys b k residueOk

/-- A reference check passes (R521): the farrier's latest fit lies within the limits, and every reference code of the last
250 ms, of a column without a weak slice, lies within 2 converter units of it. -/
def referenceOk (d : Dev) (b : Bank) : Bool :=
  !b.refitBad && b.refSeen.all fun t =>
    t.time + 250 < d.host.uptimeMs || b.refWeak.contains (2048 + t.col) || termNear b t

/-- The reference part of a probe: on the reference codes that the farrier has had, the probe's own among them. -/
def referencePart (d : Dev) (st phys b : Nat) : Dev × Bool :=
  if referenceOk d (bankOf d (bankKey st phys b)) then (notePass d st phys b, false)
  else (failCheck d st phys b 1, true)

/-- A sweep pattern can run: a bundle is installed and the bank's image is present (R520). -/
def canSweep (d : Dev) (st phys b : Nat) : Bool :=
  d.health.vetVersion != 0 && (bankOf d (bankKey st phys b)).imagePresent

/-- One probe of a bank. -/
def probeBank (d : Dev) (st phys b tick : Nat) (residueOk : Bool) : Dev :=
  let s := if canSweep d st phys b then sweepPart d st phys b tick residueOk else (d, false)
  let r := referencePart s.1 st phys b
  let d := modBank (bump r.1 0x20028) (bankKey st phys b) fun x => { x with probes := x.probes + 1 }
  if r.2 || s.2 then bump d 0x20030 else d

/-- A CRIB.MVM on a physical crib waits to issue (R519). -/
def mvmWaits (d : Dev) (st phys : Nat) : Bool :=
  let x := stallOf d st
  x.mode == .running && x.held.any (fun h => h.why == .scoreboard) &&
    match fetchWord x with
    | some w => (insOf w).op == 0x10 && (maskBits (bitsOf (insOf w).imm 15 0)).any fun c => physOf d st c == phys
    | none => false

/-- VET_PROBE: `tick` as for CRIB_START; `residueOk` is the side lane's residue on the recompute. -/
def execVetProbe (st crib bank tick : Nat) (residueOk : Bool) : State → Res :=
  onDev "VET_PROBE" fun d =>
    let x := (bankOf d (bankKey st crib bank)).state
    if d.health.probe ∧ d.health.healthDown = false ∧ (x = .ready ∨ x = .live) ∧ cribInUse d st crib = false ∧
        mvmWaits d st crib = false ∧ retiredUnit d st crib = false ∧ 0 ≤ creditAfter d (cribKey st crib) tick then
      some (probeBank d st crib bank tick residueOk)
    else none

/-! ### VET_RUN (R533 to R535) -/

/-- UNIT of test entry n. -/
def testUnit (d : Dev) (n : Nat) : Nat := fieldAt d.health.bundle (testAt d.health.bundle n) 1

/-- A failed test (R527, R535): the unit it names fails. -/
def testFails (st : Nat) (d : Dev) (n : Nat) : Dev :=
  let u := testUnit d n
  let d := raiseEvent (bump d 0x20048) 0xFFFF 4 0x16 (stallNumber d st + 2 ^ 32 * n) u
  if u = 4 then unitFails d 2 (st / 256) 0 else unitFails d 1 st 0

/-- A completed vet run of a stall, with the tests whose results differ. -/
def vetRunStall (d : Dev) (st : Nat) (failed : List Nat) : Dev :=
  let d := bump d 0x20040
  let d := setHealth d { d.health with vetAt := mput none d.health.vetAt st (some d.host.uptimeMs) }
  (failed.filter (· < vTests d.health.bundle)).foldl (testFails st) d

/-- A vet run of the stall can be made now. -/
def canVet (d : Dev) (st : Nat) : Bool :=
  d.health.vet && !d.health.healthDown && d.health.vetVersion != 0 && (stallOf d st).mode == .idle && !(stallOf d st).gone

def execVetRun (st : Nat) (failed : List Nat) : State → Res :=
  onDev "VET_RUN" fun d => if canVet d st then some (vetRunStall d st failed) else none

/-! ### WATCH_PERIOD (R536 to R543) -/

/-- A crib's test on one bank (R537): every sweep pattern and a reference check, where the bank is Ready or Live; `bad` are
the (bank, pattern) pairs whose recompute residue fails. The checks are spread over the period, so the credit that their
converting times take has been regained at its end. -/
def bankTest (st phys : Nat) (bad : List (Nat × Nat)) (d : Dev) (b : Nat) : Dev :=
  let s := (bankOf d (bankKey st phys b)).state
  if s = .ready ∨ s = .live then
    let ks := if canSweep d st phys b then List.range d.health.patterns else []
    (referencePart (ks.foldl (fun d k => (sweepCheck d st phys b k (!bad.contains (b, k))).1) d) st phys b).1
  else d

/-- Whether an entry is tested and counted now: PROBE for a crib, VET for a stall or an engine (R552, R553). -/
def testing (d : Dev) (w : Watch) : Bool := if w.kind = 0 then d.health.probe else d.health.vet

/-- A test of the entry can run in the period: those of a stall and of an engine are the installed bundle's, and a stall's
needs it Idle at some time of the period, and not retired. -/
def testable (d : Dev) (w : Watch) : Bool :=
  testing d w && (w.kind == 0 || d.health.vetVersion != 0) &&
    (w.kind != 1 || (!(stallOf d w.unit).busy && !(stallOf d w.unit).gone))

/-- The test of one entry ran in the period; of a stall or an engine with the tests that failed in it, of a crib with the
recomputes whose residue failed. -/
def runTest (d : Dev) (r : Nat × List (Nat × Nat)) : Dev :=
  match watchAt d r.1 with
  | none => d
  | some w =>
    if testable d w = false then d
    else if w.kind = 0 then [0, 1].foldl (bankTest w.unit (physOf d w.unit w.crib) r.2) d
    else if w.kind = 1 then vetRunStall d w.unit (r.2.map (·.1))
    else if r.2 = [] then d else unitFails d 2 w.unit 0

/-- The spare takes over one bank of the crib (R541), unless its own is worn (R128): claimed at once, or, while PROG_POWER
allows no further bank, in wait (R389). -/
def spareBank (st crib : Nat) (d : Dev) (b : Nat) : Dev :=
  let src := bankOf d (bankKey st crib b)
  if (src.state = .ready ∨ src.state = .live) ∧ src.imagePresent ∧ bankWorn (bankOf d (bankKey st 16 b)) = false then
    (if programLimit d ≤ loadingBanks d then modBank d (bankKey st 16 b) fun x => { x with state := .empty, forSpare := true }
     else startSpare d st crib b)
  else d

/-- A crib is retired to the spare, or its stall is retired when the spare is in use (R541, R542). -/
def retireCrib (d : Dev) (st crib : Nat) : Dev :=
  let x := stallOf d st
  if x.pendingRetire ∨ x.gone then d
  else if x.spareIndex.isSome ∨ x.pendingSpare.isSome then
    (if x.pendingSpare = some crib then d else modStall d st fun y => { y with pendingRetire := true })
  else [0, 1].foldl (spareBank st crib) (modStall d st fun y => { y with pendingSpare := some crib })

/-- What follows an entry's failure count. -/
def afterFailure (d : Dev) (w : Watch) (fails : Nat) : Dev :=
  if w.kind = 2 then (if 3 < fails then raiseEvent d 0xFFFF 4 0x1C w.unit fails else d)
  else if fails = 3 then
    (if w.kind = 0 then retireCrib d w.unit w.crib else modStall d w.unit fun y => { y with pendingRetire := true })
  else d

/-- The end of the period for entry n (R538); `ran` says that its test ran. A crib or a stall at 3 failures is retired: one
whose substitution a reset has dropped is retired anew (log 41). -/
def countEntry (ran : List Nat) (d : Dev) (n : Nat) : Dev :=
  match watchAt d n with
  | none => d
  | some w =>
    if testing d w = false then setWatch d n (some { w with failedNow := false })
    else if w.kind ≠ 2 ∧ 3 ≤ w.fails then afterFailure (setWatch d n (some { w with failedNow := false })) w 3
    else if w.failedNow then
      let f := if w.kind = 2 then min 63 (w.fails + 1) else w.fails + 1
      afterFailure (setWatch d n (some { w with fails := f, clean := 0, failedNow := false })) w f
    else if ran.contains n = false ∨ testable d w = false then d
    else if w.clean + 1 < 600 then setWatch d n (some { w with clean := w.clean + 1 })
    else watchLeave d n

/-- A unit that waits has no period: its failures of this one are over (R538). -/
def clearWaiting (d : Dev) : Dev :=
  setHealth d { d.health with waitingWatch := d.health.waitingWatch.map fun w => { w with failedNow := false } }

/-- A period begins: the stalls that are not Idle now. -/
def newPeriod (d : Dev) : Dev :=
  (d.stalls.map (·.1)).foldl (fun d st => modStall d st fun x => { x with busy := x.mode != .idle }) d

/-- WATCH_PERIOD: the entries whose test ran in the period, each with what failed in it. -/
def execWatchPeriod (results : List (Nat × List (Nat × Nat))) : State → Res :=
  onDerier "WATCH_PERIOD" fun d =>
    if d.health.healthDown then none
    else
      let d := clearWaiting (results.foldl runTest d)
      some (newPeriod ((d.health.watch.map (·.1)).foldl (countEntry (results.map (·.1))) d))

end Sys2Proof.Machine
end

