-- ==== Sys2Proof/Machine/Lane.lean ====
section
/-! DEFINITION. The lane instructions (04, R157 to R164; 06, R241 to R258). -/

namespace Sys2Proof.Machine

open Sys2Proof

/-! ### Three-operand arithmetic -/

/-- A lane operation of type .I32, .F32 or .F64 on a, b and the old destination, written under the mask (R160). -/
def lane3 (fi : W32 → W32 → W32 → W32) (fs fd : Nat → Nat → Nat → Nat) (i : Ins) (x : Stall) : Stall :=
  if insType i = 2 then
    vSetF64 x i.d (laneMask x i) fun e => fd (vF64 x i.a e) (vF64 x i.b e) (vF64 x i.d e)
  else
    vSet x i.d (laneMask x i) fun k =>
      if insType i = 0 then fi (vLane x i.a k) (vLane x i.b k) (vLane x i.d k)
      else BitVec.ofNat 32 (fs (vLane x i.a k).toNat (vLane x i.b k).toNat (vLane x i.d k).toNat)

/-- a + b, or a − b with NEG. -/
def vaddOp (i : Ins) : Stall → Stall :=
  lane3 (fun a b _ => satAddI a (if insM5 i then negI b else b))
    (fun a b _ => fadd fp32 (insRz i) a (if insM5 i then fneg fp32 b else b))
    (fun a b _ => fadd fp64 (insRz i) a (if insM5 i then fneg fp64 b else b)) i

def vmulOp (i : Ins) : Stall → Stall :=
  lane3 (fun a b _ => mulI a b) (fun a b _ => fmul fp32 (insRz i) a b) (fun a b _ => fmul fp64 (insRz i) a b) i

/-- d + a × b with one rounding, or d − a × b with NEG. -/
def vfmaOp (i : Ins) : Stall → Stall :=
  lane3 (fun a b c => fmaI (insM5 i) a b c) (fun a b c => ffma fp32 (insRz i) (insM5 i) a b c)
    (fun a b c => ffma fp64 (insRz i) (insM5 i) a b c) i

def vmaxOp (i : Ins) : Stall → Stall :=
  lane3 (fun a b _ => maxI (insM5 i) a b) (fun a b _ => fmax fp32 (insM5 i) a b) (fun a b _ => fmax fp64 (insM5 i) a b) i

def vexpOp (i : Ins) : Stall → Stall := lane3 (fun a _ _ => a) (fun a _ _ => fexp a) (fun a _ _ => a) i

def vrsqOp (i : Ins) : Stall → Stall :=
  lane3 (fun a _ _ => a) (fun a _ _ => frsq fp32 (Config.rsqPick32 (BitVec.ofNat 32 a)).toNat a)
    (fun a _ _ => frsq fp64 (Config.rsqPick64 (BitVec.ofNat 64 a)).toNat a) i

/-! ### Conversion (R161, R250, R258) -/

/-- VCVT: the destination type is the instruction's, the source type IMM 3:0, HALF IMM 4. -/
def vcvtOp (i : Ins) (x : Stall) : Stall :=
  let src := bitsOf i.imm 3 0
  let half := if bitAt i.imm 4 then 32 else 0
  let rz := insRz i
  if insType i = 2 then
    vSetF64 x i.d (laneMask x i) fun e =>
      let v := vLane x i.a (half + e)
      if src = 0 then cvtFromI fp64 rz v else fround fp64 rz false (fdecode fp32 v.toNat)
  else if src = 2 then
    vSet x i.d (fun k => laneMask x i k && (half ≤ k && k < half + 32)) fun k =>
      let v := vF64 x i.a (k - half)
      if insType i = 0 then cvtToI fp64 rz v else BitVec.ofNat 32 (fround fp32 rz false (fdecode fp64 v))
  else
    vSet x i.d (laneMask x i) fun k =>
      let v := vLane x i.a k
      if insType i = 0 then cvtToI fp32 rz v.toNat else BitVec.ofNat 32 (cvtFromI fp32 rz v)

/-! ### Reduction (R162) -/

/-- One level of the fixed tree: neighbours combined. -/
def pairUp {α : Type} (f : α → α → α) : List α → List α
  | a :: b :: r => f a b :: pairUp f r
  | l => l

/-- n levels. -/
def tree {α : Type} (f : α → α → α) : Nat → List α → List α
  | 0, l => l
  | n + 1, l => tree f n (pairUp f l)

/-- The reduction of enabled lanes, a disabled one contributing the identity; the result as a scalar word. -/
def vredWord (i : Ins) (x : Stall) : W64 :=
  let o := bitsOf i.imm 1 0
  let on := laneMask x i
  if insType i = 0 then
    let ident : W32 := if o = 0 then 0 else if o = 1 then nsat else psat
    let f : W32 → W32 → W32 := if o = 0 then satAddI else maxI (o == 2)
    let l := (List.range 64).map fun k => if on k then vLane x i.a k else ident
    BitVec.ofInt 64 ((tree f 6 l).headD 0).toInt
  else if insType i = 1 then
    let ident := if o = 0 then 0 else if o = 1 then signBit fp32 + fp32.top + 1 else fp32.top + 1
    let f : Nat → Nat → Nat := if o = 0 then fadd fp32 (insRz i) else fmax fp32 (o == 2)
    let l := (List.range 64).map fun k => if on k then (vLane x i.a k).toNat else ident
    BitVec.ofNat 64 ((tree f 6 l).headD 0)
  else
    let ident := if o = 0 then 0 else if o = 1 then signBit fp64 + fp64.top + 1 else fp64.top + 1
    let f : Nat → Nat → Nat := if o = 0 then fadd fp64 (insRz i) else fmax fp64 (o == 2)
    let l := (List.range 32).map fun e => if on (2 * e) then vF64 x i.a e else ident
    BitVec.ofNat 64 ((tree f 5 l).headD 0)

def vredOp (i : Ins) (x : Stall) : Stall := sSet x i.d (vredWord i x)

/-! ### Selection and comparison -/

/-- VSEL: a where p is 1, b where p is 0; bit 2e governs an FP64 element (R142). -/
def vselOp (i : Ins) (x : Stall) : Stall :=
  let p := pGet x (insPred i)
  vSet x i.d (fun _ => true) fun k =>
    if p.getLsbD (if insType i = 2 then 2 * (k / 2) else k) then vLane x i.a k else vLane x i.b k

/-- The order of lane k's operands. -/
def laneOrder (i : Ins) (x : Stall) (k : Nat) : Option Int :=
  if insType i = 0 then cmpInt (vLane x i.a k).toInt (vLane x i.b k).toInt
  else if insType i = 1 then vcmpv (fdecode fp32 (vLane x i.a k).toNat) (fdecode fp32 (vLane x i.b k).toNat)
  else vcmpv (fdecode fp64 (vF64 x i.a (k / 2))) (fdecode fp64 (vF64 x i.b (k / 2)))

/-- Bit k of the word VCMP writes: a disabled lane's keeps its value (R163). -/
def vcmpBit (i : Ins) (x : Stall) (k : Nat) : Bool :=
  if laneMask x i (if insType i = 2 then 2 * (k / 2) else k) then condHolds (bitsOf i.imm 2 0) (laneOrder i x k)
  else (pGet x i.d).getLsbD k

/-- The word of 64 bits. -/
def wordOfBits (bit : Nat → Bool) : W64 :=
  BitVec.ofNat 64 (((List.range 64).map fun k => if bit k then 2 ^ k else 0).sum)

/-- VCMP (R163). -/
def vcmpOp (i : Ins) (x : Stall) : Stall := pSet x i.d (wordOfBits (vcmpBit i x))

/-! ### Loads and stores (R157, R158, R164, R247 to R249) -/

/-- Bytes per VLD or VST. -/
def vecBytes (t : Nat) : Nat :=
  if t ≤ 2 then 256 else if t ≤ 4 then 128 else if t ≤ 7 then 64 else if t ≤ 10 then 66 else 34

/-- Alignment of a VLD or VST address. -/
def vecAlign (t : Nat) : Nat :=
  if t ≤ 1 then 4 else if t = 2 then 8 else if t ≤ 4 then 2 else if t ≤ 7 then 1 else 2

/-- The element code of lane k of an MX vector. -/
def mxCode (t : Nat) (bs : List Byte) (k : Nat) : Nat :=
  if t = 11 then
    let v := fieldAt bs (2 + k / 2) 1
    if k % 2 = 0 then v % 16 else v / 16
  else fieldAt bs (2 + k) 1

/-- Lane k widened (R247). -/
def widen (t : Nat) (bs : List Byte) (k : Nat) : W32 :=
  if t ≤ 2 then BitVec.ofNat 32 (fieldAt bs (4 * k) 4)
  else if t = 7 then BitVec.ofInt 32 (signedOf 8 (fieldAt bs k 1))
  else
    let v :=
      if t = 3 then fdecode bf16 (fieldAt bs (2 * k) 2)
      else if t = 4 then fdecode fp16 (fieldAt bs (2 * k) 2)
      else if t = 5 then fdecode e4m3 (fieldAt bs k 1)
      else if t = 6 then fdecode e5m2 (fieldAt bs k 1)
      else mxValue t (fieldAt bs (k / 32) 1) (mxCode t bs k)
    BitVec.ofNat 32 (fround fp32 false false v)

/-- VLD of the bytes into the enabled lanes. -/
def vldOp (i : Ins) (bs : List Byte) (x : Stall) : Stall :=
  let on := laneMask x i
  vSet x i.d (fun k => on (if insType i = 2 then 2 * (k / 2) else k)) (widen (insType i) bs)

/-- One lane narrowed (R248), for the types that are not MX. -/
def narrow (t : Nat) (rz : Bool) (v : W32) : List Byte :=
  let f := fdecode fp32 v.toNat
  if t ≤ 2 then toLe 4 v.toNat
  else if t = 3 then toLe 2 (fround bf16 rz false f)
  else if t = 4 then toLe 2 (fround fp16 rz false f)
  else if t = 5 then toLe 1 (fround e4m3 rz true f)
  else if t = 6 then toLe 1 (fround e5m2 rz true f)
  else [narrowI8 v]

/-- Element bytes of one MX block with the lanes that let each byte be written. -/
def mxBytes (t : Nat) (els : List Nat) (on : Nat → Bool) (base : Nat) : List (Byte × Bool) :=
  if t = 11 then
    (List.range 16).map fun j =>
      (BitVec.ofNat 8 (els.getD (2 * j) 0 + 16 * els.getD (2 * j + 1) 0), on (base + 2 * j) || on (base + 2 * j + 1))
  else (List.range 32).map fun j => (BitVec.ofNat 8 (els.getD j 0), on (base + j))

/-- The bytes of a VST, each with whether it is written (R164, R249). -/
def vstBytes (t : Nat) (rz : Bool) (lanes : List W32) (on : Nat → Bool) : List (Byte × Bool) :=
  if t ≤ 7 then
    (List.range 64).flatMap fun k =>
      (narrow t rz (lanes.getD k 0)).map fun b => (b, on (if t = 2 then 2 * (k / 2) else k))
  else
    let blk (n : Nat) := mxBlock t rz ((lanes.drop (32 * n)).take 32 |>.map (·.toNat))
    let any (n : Nat) := (List.range 32).any fun j => on (32 * n + j)
    [(BitVec.ofNat 8 (blk 0).1, any 0), (BitVec.ofNat 8 (blk 1).1, any 1)] ++
      mxBytes t (blk 0).2 on 0 ++ mxBytes t (blk 1).2 on 32

/-- The local address of a VLD or VST. -/
def vecAddr (i : Ins) (x : Stall) : W64 := sGet x i.a + sextImm i 20

def vldIssue (st : Nat) (i : Ins) (x : Stall) (d : Dev) : Issue :=
  withLocal d st (vecAddr i x) (vecBytes (insType i)) (vecAlign (insType i)) fun buf off =>
    .go (modStall (sramTouch d st buf off (vecBytes (insType i))) st
      (vldOp i (sramRead d st buf off (vecBytes (insType i))))) none

/-- The (offset, byte) pairs that a VST writes. -/
def vstStores (i : Ins) (x : Stall) (off : Nat) : List (Nat × Byte) :=
  let bs := vstBytes (insType i) (insRz i) (vGet x i.b) (laneMask x i)
  ((List.range bs.length).zip bs).filterMap fun p => if p.2.2 then some (off + p.1, p.2.1) else none

def vstIssue (st : Nat) (i : Ins) (x : Stall) (d : Dev) : Issue :=
  withLocal d st (vecAddr i x) (vecBytes (insType i)) (vecAlign (insType i)) fun buf off =>
    .go (modStall d st fun y => setSram y buf (sramPutAt (sramOf y buf) (vstStores i x off))) none

/-! ### The instructions -/

def execVadd (st : Nat) : State → Res := issue "VADD" 0x20 formVadd st (pureOp vaddOp st)
def execVmul (st : Nat) : State → Res := issue "VMUL" 0x21 formVmul st (pureOp vmulOp st)
def execVfma (st : Nat) : State → Res := issue "VFMA" 0x22 formVadd st (pureOp vfmaOp st)
def execVmax (st : Nat) : State → Res := issue "VMAX" 0x23 formVmax st (pureOp vmaxOp st)
def execVexp (st : Nat) : State → Res := issue "VEXP" 0x24 formVexp st (pureOp vexpOp st)
def execVrsq (st : Nat) : State → Res := issue "VRSQ" 0x25 formVrsq st (pureOp vrsqOp st)
def execVcvt (st : Nat) : State → Res := issue "VCVT" 0x26 formVcvt st (pureOp vcvtOp st)
def execVred (st : Nat) : State → Res := issue "VRED" 0x27 formVred st (pureOp vredOp st)
def execVsel (st : Nat) : State → Res := issue "VSEL" 0x28 formVsel st (pureOp vselOp st)
def execVcmp (st : Nat) : State → Res := issue "VCMP" 0x29 formVcmp st (pureOp vcmpOp st)
def execVld (st : Nat) : State → Res := issue "VLD" 0x2A formVld st (vldIssue st)
def execVst (st : Nat) : State → Res := issue "VST" 0x2B formVst st (vstIssue st)

end Sys2Proof.Machine
end

