-- ==== Sys2Proof/Machine/Memory.lean ====
section
/-! DEFINITION. Scrubbing and remapping (05, R228 to R232; 08, R349 to R364): GROOM_SCRUB and LOFT_SCRUB. -/

namespace Sys2Proof.Machine

open Sys2Proof

/-! ### Upsets (R509, R513) -/

/-- The error of an SRAM byte after another upset in it: a second flipped bit makes it uncorrectable (R225). -/
def worse (a b : Option ErrKind) : Option ErrKind :=
  match a, b with
  | none, x => x
  | some .correctable, some _ => some .uncorrectable
  | x, _ => x

/-- The errors among those that have arisen: nothing becomes poisoned by itself (R344). -/
def upsets (l : List (Nat × ErrKind)) : List (Nat × ErrKind) := l.filter fun p => p.2 != .poisoned

/-- The positions of a line or unit that are in error: those in error before, and those where an upset has arisen. -/
def badNow (old : Option ErrKind) (bad : List Nat) (l : List (Nat × ErrKind)) : List Nat :=
  ((if old = none then [] else bad) ++ (upsets l).map (·.1)).eraseDups

/-- What the code makes of some positions in error (R340, R361): it corrects up to `fix` of them and detects up to `see`;
more are not sure to be detected, so the code may take them for anything (log 13). Poison stays. -/
def codeKind (fix see draw : Nat) (old : Option ErrKind) (bad : List Nat) : Option ErrKind :=
  if old = some .poisoned then old
  else if bad = [] then none
  else if bad.length ≤ fix then some .correctable
  else if bad.length ≤ see then some .uncorrectable
  else match Config.freeNat draw (2 ^ 62) % 3 with
    | 0 => none
    | 1 => some .correctable
    | _ => some .uncorrectable

/-- The error of a line or unit at a scrub: as before where nothing has arisen since, else what the code makes of all its
positions in error. -/
def scrubKind (fix see draw : Nat) (old : Option ErrKind) (bad : List Nat) (arisen : List (Nat × ErrKind)) :
    Option ErrKind :=
  if upsets arisen = [] then old else codeKind fix see draw old bad

/-- The positions whose stored bytes an upset leaves as anything: those where it has arisen, and, where the code could still
correct the ones before it and now cannot, those too. Bytes that were beyond the code before hold what they held, or what has
been stored since (R344, R345). -/
def lostNow (fix : Nat) (old : Option ErrKind) (bad : List Nat) (arisen : List (Nat × ErrKind)) : List Nat :=
  if old = some .poisoned ∨ old = some .uncorrectable then (upsets arisen).map (·.1)
  else if upsets arisen = [] ∨ bad.length ≤ fix then [] else bad

/-- Bytes in error that the code cannot correct hold what the upsets left: anything (log 13). -/
def upsetBytes (m : Map Byte) (draw base : Nat) (lost keys : List Nat) : Map Byte :=
  lost.foldl (fun m p =>
    match (keys.drop p).head? with
    | some k => mput 0 m k (Config.freeByte draw (base + k))
    | none => m) m

/-! ### DRAM lines (R350, R352, R353, R355 to R357) -/

/-- The channel of a local line (R334). -/
def channelOf (line : Nat) : Nat := 64 * line / 2048 % 32

def dramEntries (d : Dev) (ch : Nat) : List (Nat × Nat × Nat × Bool) := d.mem.dramRemap.filter fun e => e.1 == ch

/-- A failing line gets one of its channel's 32 entries; with none free it is reported (R357, R527). `holds` is false for
a line that waits for a whole write (R356). -/
def dramFailing (d : Dev) (stack line : Nat) (holds : Bool) : Dev :=
  let ch := stack * 32 + channelOf line
  let es := dramEntries d ch
  if es.any fun e => e.2.1 == line then d
  else
    match firstBelow 32 fun n => es.all fun e => e.2.2.1 != n with
    | some n => setMem d { d.mem with dramRemap := d.mem.dramRemap ++ [(ch, line, n, holds)] }
    | none => raiseEvent d 0xFFFF 4 0x1A (stack + 2 ^ 16) (channelOf line)

/-- The groom's read of a DRAM line. A correctable error is corrected in place: the write-back is one step with its test
(R352). -/
def groomDram (d : Dev) (stack line : Nat) (arisen : List (Nat × ErrKind)) : Dev :=
  let g := lineOf (dramKey stack (64 * line))
  let keys := (List.range 64).map fun k => dramKey stack (64 * line) + k
  let arisen := arisen.filter (·.1 < 68)
  let bad := badNow (lineErr d g) (mget [] d.mem.dramBad g) arisen
  let d := setMem d { d.mem with
    dram := upsetBytes d.mem.dram d.draws 0 (lostNow 1 (lineErr d g) bad arisen) keys
    dramErr := mput none d.mem.dramErr g (scrubKind 1 2 d.draws (lineErr d g) bad arisen)
    dramBad := mput [] d.mem.dramBad g bad }
  let before := mget false d.mem.dramFailing g
  let e := lineErr d g
  let d := dramTouch d g
  let d := setMem d { d.mem with dramFailing := mput false d.mem.dramFailing g (e == some .correctable) }
  match e with
  | some .correctable => if before then dramFailing d stack line true else d
  | some .uncorrectable => dramFailing d stack line false
  | _ => d

/-! ### SRAM lines (R228 to R232) -/

/-- Error marks of single bytes after upsets in a line. -/
def upsetMarks (m : Map (Option ErrKind)) (line : Nat) (arisen : List (Nat × ErrKind)) : Map (Option ErrKind) :=
  (upsets arisen).foldl (fun m p =>
    if p.1 < 64 then mput none m (64 * line + p.1) (worse (mget none m (64 * line + p.1)) (some p.2)) else m) m

/-- The error marks of a line's bytes that a scrub leaves: the correctable ones are gone. -/
def scrubbed (m : Map (Option ErrKind)) (line : Nat) : Map (Option ErrKind) :=
  m.filter fun p => p.1 / 64 != line || p.2 != some .correctable

/-- Whether a line has a byte in error of a kind. -/
def lineHas (m : Map (Option ErrKind)) (line : Nat) (k : ErrKind) : Bool :=
  m.any fun p => p.1 / 64 == line && p.2 == some k

/-- A line that the groom covers: its written bit is set (R228). Of a routine store it is a line that holds instructions
in all of its eight places (log 13). -/
def groomed (x : Stall) (buf line : Nat) : Bool :=
  if buf = 3 then (List.range 8).all fun k => (mget none x.store (8 * line + k)).isSome
  else mget false (sramOf x buf).written line

/-- A line found failing on this pass and on the one before is entered; one with an uncorrectable byte is entered with
its next whole write (R230, R231). -/
def enterSram (d : Dev) (st buf line : Nat) (before ce ue : Bool) : Dev :=
  if ue then sramFailing d st buf line false else if ce && before then sramFailing d st buf line true else d

/-- The groom's read of a line of the trough, bin or manger. -/
def groomBuffer (d : Dev) (st buf line : Nat) (arisen : List (Nat × ErrKind)) : Dev :=
  let d := modStall d st fun x =>
    let m := sramOf x buf
    let err := upsetMarks m.err line arisen
    let bad := (upsets arisen).filter fun p => p.1 < 64 && mget none err (64 * line + p.1) == some .uncorrectable
    setSram x buf { m with
      err := err
      bytes := bad.foldl (fun b p =>
        mput none b (64 * line + p.1) (some (Config.freeByte d.draws (bytePlace st buf (64 * line + p.1))))) m.bytes }
  let m := sramOf (stallOf d st) buf
  let ce := lineHas m.err line .correctable
  let ue := lineHas m.err line .uncorrectable
  let before := mget false m.failing line
  let d := sramTouch d st buf (64 * line) 64
  let d := modStall d st fun x =>
    let m := sramOf x buf
    setSram x buf { m with err := scrubbed m.err line, failing := mput false m.failing line (ce && !ue) }
  if ue then d else enterSram d st buf line before ce false

/-- The groom's read of a line of the routine store. An instruction word under an uncorrectable byte is not read again
before it is written (R198), so its stored value is left; the error is recorded and reported (R511). -/
def groomStore (d : Dev) (st line : Nat) (arisen : List (Nat × ErrKind)) : Dev :=
  let d := modStall d st fun x => { x with storeErr := upsetMarks x.storeErr line arisen }
  let x := stallOf d st
  let ce := lineHas x.storeErr line .correctable
  let ue := lineHas x.storeErr line .uncorrectable
  let before := mget false x.storeFailing line
  let d := modStall d st fun x =>
    { x with storeErr := scrubbed x.storeErr line, storeFailing := mput false x.storeFailing line (ce && !ue) }
  enterSram (if ue then storeUe d st else d) st 3 line before ce ue

/-- The place of a side-store byte, as the free values name it. -/
def sidePlace (st k : Nat) : Nat := 2 ^ 50 + st * 0x10000 + k

/-- The groom's read of a line of the side store, which has the check bits of R225 (R271, R509; log 13). -/
def groomSide (d : Dev) (st line : Nat) (arisen : List (Nat × ErrKind)) : Dev :=
  let err := upsetMarks (stallOf d st).sideErr line arisen
  let bad := (upsets arisen).filter fun p => p.1 < 64 && mget none err (64 * line + p.1) == some .uncorrectable
  let e := modStall d st fun x =>
    { x with
      sideErr := scrubbed err line
      side := bad.foldl (fun m p =>
        mput 0 m (64 * line + p.1) (Config.freeByte d.draws (sidePlace st (64 * line + p.1)))) x.side }
  if lineHas err line .uncorrectable then storeUe e st else e

/-- A correction set of which one value can no longer be read: what the store returns for it is free. -/
def upsetCorr (draw : Nat) (c : Corr) (n : Nat) : Corr :=
  if n < 33280 then
    { c with off := mput 0 c.off n ((Config.freeNat draw (4 * n) : Int) - (Config.freeNat draw (4 * n + 1) : Int)) }
  else { c with gain := mput 0x8000 c.gain (n - 33280) (Config.freeNat draw (4 * n)) }

/-- The groom's visit of a bank's active correction set (R509; log 13): what can be corrected is; a value that cannot is left
as it is read, until the set is replaced. -/
def groomCorr (d : Dev) (st bank : Nat) (arisen : List (Nat × ErrKind)) : Dev :=
  let bad := ((upsets arisen).filter fun p => p.1 < 35360 && p.2 == .uncorrectable).map (·.1)
  if bad = [] then (if (bankOf d (34 * st + bank)).corrUe then storeUe d st else d)
  else
    storeUe (modBank d (34 * st + bank) fun b => { b with corr := bad.foldl (upsetCorr d.draws) b.corr, corrUe := true }) st

/-- The groom's read of a line of the gate-die SRAM: correctable errors go. Of others the manual names no register and no
event code: the event record of R511 is BUF_UE with free details (DESIGN CHOICE, log 13). -/
def groomGate (d : Dev) (line : Nat) (arisen : List (Nat × ErrKind)) : Dev :=
  let err := upsetMarks d.mem.gateErr line arisen
  let e := setMem d { d.mem with gateErr := scrubbed err line }
  if lineHas err line .uncorrectable then
    raiseEvent e 0xFFFF 1 2 (Config.freeNat d.draws 511) (Config.freeNat d.draws 512)
  else e

/-- The end of a full pass is counted (R367). -/
def passEnds (last : Bool) (d : Dev) : Dev := if last then bump d 0x1008 else d

/-- GROOM_SCRUB (R350): one line of a pass; nothing while the groom is not enabled (R354). -/
def execGroomScrub (line : GroomLine) (arisen : List (Nat × ErrKind)) (lastOfPass : Bool) : State → Res :=
  onDev "GROOM_SCRUB" fun d =>
    if d.mem.groomEnable = false then none
    else
      match line with
      | .dram stack l => some (passEnds lastOfPass (groomDram d stack l arisen))
      | .correction st k => some (passEnds lastOfPass (groomCorr d st k arisen))
      | .sram st buf l =>
        if buf = 4 then some (passEnds lastOfPass (groomSide d st l arisen))
        else if groomed (stallOf d st) buf l = false then none
        else some (passEnds lastOfPass (if buf = 3 then groomStore d st l arisen else groomBuffer d st buf l arisen))
      | .gate l => some (passEnds lastOfPass (groomGate d l arisen))

/-! ### The loft (R361 to R364) -/

/-- Space 0x2 offset of a local offset of a stack (R42). -/
def loftPlace (stack loc : Nat) : Nat := loc / 4096 * 16384 + stack * 4096 + loc % 4096

/-- LOFT_SCRUB (R362): a unit in which the read corrects 3 or more bytes is rewritten. -/
def execLoftScrub (stack unit : Nat) (arisen : List (Nat × ErrKind)) : State → Res :=
  always fun d =>
    let offs := (List.range 256).map fun k => loftPlace stack (256 * unit) + k
    let u := unitOf (loftPlace stack (256 * unit))
    let arisen := arisen.filter (·.1 < 256)
    let bad := badNow (unitErr d u) (mget [] d.mem.loftBad u) arisen
    let d := setMem d { d.mem with
      loft := upsetBytes d.mem.loft d.draws (2 ^ 60) (lostNow 4 (unitErr d u) bad arisen) offs
      loftErr := mput none d.mem.loftErr u (scrubKind 4 8 d.draws (unitErr d u) bad arisen)
      loftBad := mput [] d.mem.loftBad u bad }
    let e := unitErr d u
    let d := loftTouch d u
    if e = some .correctable ∧ 3 ≤ bad.length then
      (let w := loftUnitWrite (offs.zip (loftCells d offs)) d u
       setMem w { w.mem with record := d.mem.record })
    else d

end Sys2Proof.Machine
end

