-- ==== Sys2Proof/Machine/Move.lean ====
section
/-! DEFINITION. MOV, LD, ST, COPY and FILL (04, R166 to R169). -/

namespace Sys2Proof.Machine

open Sys2Proof

/-- Form 0 of MOV. -/
def movArith (o : Nat) (a x : W64) : W64 :=
  let sh := x.toNat % 64
  if o = 0 then a + x
  else if o = 1 then a - x
  else if o = 2 then a &&& x
  else if o = 3 then a ||| x
  else if o = 4 then a ^^^ x
  else if o = 5 then a <<< sh
  else if o = 6 then a >>> sh
  else if o = 7 then a.sshiftRight sh
  else if o = 8 then a * x
  else if o = 9 then (if a.toInt < x.toInt then 1 else 0)
  else if o = 10 then (if a.toNat < x.toNat then 1 else 0)
  else (if a = x then 1 else 0)

/-- MOV (R167). -/
def movOp (i : Ins) (s : Stall) : Stall :=
  let f := bitsOf i.mod 5 4
  let o := bitsOf i.mod 3 0
  let x := sGet s i.b + sextImm i 32
  let a := sGet s i.a
  let lo : W32 := BitVec.ofNat 32 a.toNat
  if f = 0 then sSet s i.d (movArith o a x)
  else if f = 1 then
    if o = 0 then aSet s i.d (a + x)
    else if o = 1 then pSet s i.d a
    else if o = 2 then cSet s i.d lo
    else if o = 3 then vLaneSet s i.d (i.imm % 64) lo
    else vSet s i.d (fun _ => true) fun _ => lo
  else
    if o = 0 then sSet s i.d (aGet s i.a)
    else if o = 1 then sSet s i.d (pGet s i.a)
    else if o = 2 then sSet s i.d (BitVec.ofNat 64 (cGet s i.a).toNat)
    else sSet s i.d (BitVec.ofNat 64 (vLane s i.a (i.imm % 64)).toNat)

/-- The local address and width of LD and ST (R168). -/
def ldAddr (i : Ins) (x : Stall) : W64 := sGet x i.a + sextImm i 32
def ldWidth (i : Ins) : Nat := 2 ^ bitsOf i.mod 1 0

/-- The value loaded: sign-extended with MOD bit 2. -/
def ldValue (i : Ins) (bs : List Byte) : W64 :=
  if bitAt i.mod 2 then BitVec.ofInt 64 (signedOf (8 * ldWidth i) (leNat bs)) else BitVec.ofNat 64 (leNat bs)

def ldIssue (st : Nat) (i : Ins) (x : Stall) (d : Dev) : Issue :=
  withLocal d st (ldAddr i x) (ldWidth i) (ldWidth i) fun buf off =>
    .go (modStall (sramTouch d st buf off (ldWidth i)) st fun y =>
      sSet y i.d (ldValue i (sramRead d st buf off (ldWidth i)))) none

def stIssue (st : Nat) (i : Ins) (x : Stall) (d : Dev) : Issue :=
  withLocal d st (ldAddr i x) (ldWidth i) (ldWidth i) fun buf off =>
    .go (sramWrite d st buf off (toLe (ldWidth i) (sGet x i.b).toNat)) none

/-- The length of COPY and FILL (R169). -/
def copyLen (i : Ins) (x : Stall) : Nat := (sGet x i.b + sextImm i 32).toNat

/-- COPY: the whole source is read before any byte is written. -/
def copyIssue (st : Nat) (i : Ins) (x : Stall) (d : Dev) : Issue :=
  let n := copyLen i x
  if n = 0 then .go d none
  else
    match localRange (sGet x i.a) n with
    | none => .fault 0x04 ((sGet x i.a).toNat % 2 ^ 32)
    | some (sb, so) =>
      match localRange (sGet x i.d) n with
      | none => .fault 0x04 ((sGet x i.d).toNat % 2 ^ 32)
      | some (db, dof) =>
        if blocked d st sb so n || blocked d st db dof n then .wait .scoreboard
        else .go (sramWrite (sramTouch d st sb so n) st db dof (sramRead d st sb so n)) none

/-- FILL with the 8 bytes of s[a], repeated. -/
def fillIssue (st : Nat) (i : Ins) (x : Stall) (d : Dev) : Issue :=
  let n := copyLen i x
  if n = 0 then .go d none
  else
    match localRange (sGet x i.d) n with
    | none => .fault 0x04 ((sGet x i.d).toNat % 2 ^ 32)
    | some (b, off) =>
      if blocked d st b off n then .wait .scoreboard
      else .go (sramWrite d st b off ((List.range n).map fun k =>
        BitVec.ofNat 8 ((sGet x i.a).toNat / 2 ^ (8 * (k % 8))))) none

def execMov (st : Nat) : State → Res := issue "MOV" 0x30 formMov st (pureOp movOp st)
def execLd (st : Nat) : State → Res := issue "LD" 0x32 formLd st (ldIssue st)
def execSt (st : Nat) : State → Res := issue "ST" 0x33 formSt st (stIssue st)
def execCopy (st : Nat) : State → Res := issue "COPY" 0x34 formCopy st (copyIssue st)
def execFill (st : Nat) : State → Res := issue "FILL" 0x35 formCopy st (fillIssue st)

end Sys2Proof.Machine
end

