-- ==== Sys2Proof/Machine/Report.lean ====
section
/-! DEFINITION. Derier's lockstep pairs and the management network (12, R544 to R553): reports, pushes, ARP and ICMP. -/

namespace Sys2Proof.Machine

open Sys2Proof

/-! ### Datagrams (R546 to R548) -/

/-- The management port is linked: Derier has started and STRAP_MGMT_OFF does not hold it down (R545). -/
def mgmtUp (d : Dev) : Bool := d.board.powered && 4 ≤ d.host.step && !d.board.pinsMgmtOff

/-- Reports are sent (R544, R553). -/
def reporting (d : Dev) : Bool := mgmtUp d && d.health.mgmtEnable && !d.health.healthDown

/-- An event record's 32 bytes (R448); PHASE is 0 on the network. -/
def eventBytes (e : Event) (overflow : Bool) : List Byte :=
  toLe 2 e.code ++ toLe 2 e.function ++ toLe 4 e.seqno.toNat ++ toLe 8 e.uptime.toNat ++ toLe 8 e.detail0.toNat ++
    toLe 4 e.detail1.toNat ++ toLe 1 e.module ++ toLe 1 0 ++ toLe 1 (flag overflow) ++ toLe 1 0

/-- The header and records of a datagram. -/
def datagramBody (d : Dev) (kind : Nat) (records : List (List Byte)) : List Byte :=
  toLe 4 0x52504B41 ++ toLe 2 1 ++ toLe 1 kind ++ toLe 1 records.length ++ toLe 8 d.board.serial.toNat ++
    toLe 8 d.host.uptimeMs ++ toLe 4 d.health.reportSeq.toNat ++ toLe 4 0 ++ records.flatten

/-- An address lies in the module's subnet. -/
def inSubnet (h : Health) (a : W32) : Bool := a >>> (32 - h.pfx) == h.addr >>> (32 - h.pfx)

/-- Where a datagram for the collector goes first: the gateway leads out of the subnet. -/
def nextHop (h : Health) : W32 := if inSubnet h h.collector then h.collector else h.gateway

/-- A signed datagram leaves for the collector; it is numbered and counted. -/
def sendDatagram (d : Dev) (kind : Nat) (records : List (List Byte)) : Dev :=
  let body := datagramBody d kind records
  let sig := signature body
  let d := emit (bump d 0x20060) (.datagram kind d.health.listen.toNat d.health.collector
    d.health.collectorPort.toNat (nextHop d.health) (body ++ toLe 2 sig.length ++ sig))
  setHealth d { d.health with reportSeq := d.health.reportSeq + 1 }

/-- Milliseconds since every usable stall last completed a vet run, saturating. -/
def sinceVet (d : Dev) : Nat :=
  ((List.range stallCount).filter fun st => !(stallOf d st).gone).foldl (fun m st =>
    max m (match mget none d.health.vetAt st with
      | some t => min (d.host.uptimeMs - t) (2 ^ 32 - 1)
      | none => 2 ^ 32 - 1)) 0

/-- The summary record. -/
def summaryBytes (d : Dev) : List Byte :=
  toLe 2 (usableStalls d) ++ toLe 2 d.health.watch.length ++ toLe 4 (16 * usableStalls d) ++ toLe 4 d.health.vetVersion ++
    toLe 4 (currentPower d) ++ toLe 4 d.pad.complete.toNat ++ toLe 4 (sinceVet d) ++ toLe 4 (sparesUsed d) ++ toLe 4 0

/-- HEARTBEAT. -/
def execHeartbeat : State → Res :=
  onDev "HEARTBEAT" fun d => if reporting d then some (sendDatagram d 0 [summaryBytes d]) else none

/-- Event records, the first with OVERFLOW when an event was dropped before it. -/
def eventRecords (dropped : Bool) : List Event → List (List Byte)
  | [] => []
  | e :: es => eventBytes e dropped :: eventRecords false es

/-- Up to four of the events that wait are sent. -/
def sendEvents (d : Dev) : Dev :=
  let es := d.health.sendQueue.take 4
  let d' := sendDatagram d 1 (eventRecords d.health.sendOverflow es)
  setHealth d' { d'.health with sendQueue := d.health.sendQueue.drop 4, sendOverflow := false }

/-- EVENT_REPORT (R549). -/
def execEventReport : State → Res :=
  onDev "EVENT_REPORT" fun d => if reporting d ∧ d.health.sendQueue ≠ [] then some (sendEvents d) else none

/-- MGMT_EVENT_DROP (R549): the oldest event that waits. -/
def execMgmtEventDrop : State → Res :=
  onDev "MGMT_EVENT_DROP" fun d =>
    match d.health.sendQueue with
    | [] => none
    | _ :: es => some (bump (setHealth d { d.health with sendQueue := es, sendOverflow := true }) 0x20068)

/-! ### Derier's lockstep (R544) -/

def pairDown (d : Dev) (pair : Nat) : Bool := if pair = 0 then d.health.commandDown else d.health.healthDown

/-- The final report that Derier sends before it resets the module, whichever pair has stopped (R544): the events that wait,
or a summary (log 30). -/
def finalReport (d : Dev) : Dev :=
  if (mgmtUp d && d.health.mgmtEnable) = false then d
  else if d.health.sendQueue = [] then sendDatagram d 0 [summaryBytes d] else sendEvents d

/-- DERIER_MISMATCH: `recent` earlier mismatches, of this pair or of the other, in the last 60 s, restarted since or not
(log 47). -/
def execDerierMismatch (pair recent : Nat) : State → Res :=
  onDev "DERIER_MISMATCH" fun d =>
    if pairDown d pair then none
    else
      let d := bump d 0x20058
      if recent ≠ 0 ∨ pairDown d (1 - pair) then some (moduleReset (finalReport d) (some 5))
      else if pair = 0 then
        some (setHealth d { d.health with commandDown := true, lost := (d.host.cmds.filter fun c => !c.queued).map (·.cid) })
      else some (setHealth d { d.health with healthDown := true })

/-- A command that was in progress when the command pair stopped ends; a stage of it is abandoned. -/
def endLost (d : Dev) (cid : Nat) : Dev :=
  match cmdOf d cid with
  | none => d
  | some c =>
    let d := finish d c (refusedEnds (dOpcode c.desc) 0x09)
    match d.feed.stages.find? fun s => s.cid == some cid with
    | some s => closeStage d { s with results := [(d.pad.index, 0x0C)] } 0x0C
    | none => d

/-- DERIER_RESTART: the pair runs again. -/
def execDerierRestart (pair : Nat) : State → Res :=
  onDerier "DERIER_RESTART" fun d =>
    if pairDown d pair = false then none
    else if pair = 0 then
      let d := setHealth d { d.health with commandDown := false }
      let d := raiseEvent d 0xFFFF 4 0x19 0 1
      let lost := d.health.lost
      some (lost.foldl endLost (setHealth d { d.health with lost := [] }))
    else some (raiseEvent (setHealth d { d.health with healthDown := false }) 0xFFFF 4 0x19 1 1)

/-! ### Pushes (R550) -/

/-- A fragment in the format of R550; others are ignored. -/
def fragmentOk (b : List Byte) : Bool :=
  32 ≤ b.length && fieldAt b 0 4 == 0x48535550 && fieldAt b 4 2 == 1 && fieldAt b 6 2 == 0 && zeroAt b 18 14 &&
    between (fieldAt b 8 4) 64 0x400000 && between (fieldAt b 16 2) 1 1024 && b.length == 32 + fieldAt b 16 2 &&
    fieldAt b 12 4 + fieldAt b 16 2 ≤ fieldAt b 8 4

/-- The partial bundle that a fragment joins: discarded first when its TOTAL differs or 10 s have passed. -/
def partialBundle (h : Health) (total : Nat) (fresh : Bool) : Map (Option Byte) :=
  if fresh ∨ h.pushTotal ≠ total then [] else h.pushBytes

/-- Every byte is held: the bundle is verified and installed or refused, and the result is reported. -/
def pushComplete (d : Dev) (b : List Byte) : Dev :=
  let r := (bundleResult d b).getD 0
  sendDatagram (takeBundle (setHealth d { d.health with pushTotal := 0, pushBytes := [] }) b 1) 2
    [toLe 4 (vVersion b) ++ toLe 1 r ++ List.replicate 27 0]

def takeFragment (d : Dev) (b : List Byte) (fresh : Bool) : Dev :=
  let total := fieldAt b 8 4
  let m := mputs none (partialBundle d.health total fresh) (fieldAt b 12 4) ((b.drop 32).map some)
  if m.length = total then pushComplete d (m.map fun p => p.2.getD 0)
  else setHealth d { d.health with pushTotal := total, pushBytes := m }

/-- A datagram to a port is a push: it reaches the port LISTEN, in the format of R550. The module takes nothing else, on that
port or another (R545). -/
def isPush (d : Dev) (port : Nat) (b : List Byte) : Bool := reporting d && port == d.health.listen.toNat && fragmentOk b

/-- PUSH_FRAGMENT: a UDP datagram to `port`; `fresh` says that 10 s passed without a fragment before this one. -/
def execPushFragment (port : Nat) (bytes : List Byte) (fresh : Bool) : State → Res :=
  alwaysDerier fun d => if isPush d port bytes then takeFragment d bytes fresh else d

/-! ### ARP and ICMP (R545, R553) -/

/-- The port answers a frame for its own address, when that is set. -/
def answersFrame (d : Dev) (f : Frame) : Bool := mgmtUp d && d.health.addr != 0 && f.target == d.health.addr

def execArpRequest (frame : Frame) : State → Res :=
  always fun d => if answersFrame d frame then emit d (.arpReply d.health.addr) else d

def execIcmpEcho (frame : Frame) : State → Res :=
  always fun d => if answersFrame d frame then emit d (.icmpReply frame.payload) else d

end Sys2Proof.Machine
end

