-- ==== Sys2Proof/Machine/Slot.lean ====
section
/-! DEFINITION. The slot instructions (04, R170 to R174; 05, R209 to R215). -/

namespace Sys2Proof.Machine

open Sys2Proof

/-- The buffer and the slot number that a slot instruction names. -/
def slotBuf (i : Ins) : Nat := if bitAt i.mod 0 then 1 else 0
def slotNum (i : Ins) (x : Stall) : Nat := (sGet x i.a).toNat + bitsOf i.imm 15 0

/-- SLOT_RANGE for a run of slots, then the scoreboard. -/
def withSlots (d : Dev) (st : Nat) (i : Ins) (x : Stall) (count : Nat) (k : Nat → Nat → Issue) : Issue :=
  let b := slotBuf i
  let n := slotNum i x
  if slotCount b < n + count then .fault 0x06 (max n (slotCount b) % 2 ^ 32)
  else if blocked d st b (512 * n) (512 * count) then .wait .scoreboard
  else k b n

/-- LD.W (R170, R171). -/
def ldWIssue (st : Nat) (i : Ins) (x : Stall) (d : Dev) : Issue :=
  withSlots d st i x 1 fun b n =>
    if flagOf x b n = false then .wait (.slotW (b == 1) n)
    else
      let d := if bitAt i.mod 2 then d
        else modStall (sramTouch d st b (512 * n) 512) st fun y => pairLoad y i.d (sramRead d st b (512 * n) 512)
      .go (if bitAt i.mod 1 then d else clearFlag st b d n) none

/-- ST.F. -/
def stFIssue (st : Nat) (i : Ins) (x : Stall) (d : Dev) : Issue :=
  withSlots d st i x 1 fun b n =>
    if flagOf x b n then .wait (.slotS (b == 1) n)
    else .go (modStall (sramWrite d st b (512 * n) (pairBytes x i.b)) st fun y => setFlag y b n true) none

/-- Slots named by SLOT.SET and SLOT.CLR. -/
def slotRun (i : Ins) : Nat := bitsOf i.imm 24 16 + 1

def slotSetIssue (st : Nat) (i : Ins) (x : Stall) (d : Dev) : Issue :=
  withSlots d st i x (slotRun i) fun b n =>
    .go (modStall d st fun y => (List.range (slotRun i)).foldl (fun y k => setFlag y b (n + k) true) y) none

/-- SLOT.CLR. The manual gives no order between its clears and the PUT.Fs that they let perform: the slots are cleared from
the lowest up, each waking its PUT.F, so that an operation held behind one and performed into a later slot of the run finds
its flag cleared by the same SLOT.CLR (DESIGN CHOICE, log 20). -/
def slotClrIssue (st : Nat) (i : Ins) (x : Stall) (d : Dev) : Issue :=
  withSlots d st i x (slotRun i) fun b n =>
    .go (((List.range (slotRun i)).map (n + ·)).foldl (clearFlag st b) d) none

def execLdW (st : Nat) : State → Res := issue "LD_W" 0x40 formLdW st (ldWIssue st)
def execStF (st : Nat) : State → Res := issue "ST_F" 0x41 formStF st (stFIssue st)
def execSlotSet (st : Nat) : State → Res := issue "SLOT_SET" 0x42 formSlot st (slotSetIssue st)
def execSlotClr (st : Nat) : State → Res := issue "SLOT_CLR" 0x43 formSlot st (slotClrIssue st)

end Sys2Proof.Machine
end

