-- ==== Sys2Proof/Machine/Dispatch.lean ====
section
/-! DEFINITION. The dispatch: one arm per command, each a direct call of its meaning. -/

namespace Sys2Proof.Machine

open Sys2Proof

def exec (i : Instr) (s : State) : Host.Outcome State Fault Refusal :=
  match i with
  | .cribMvm st => Sys2Proof.Machine.execCribMvm st s
  | .cribBank st => Sys2Proof.Machine.execCribBank st s
  | .cribProbe st => Sys2Proof.Machine.execCribProbe st s
  | .vadd st => Sys2Proof.Machine.execVadd st s
  | .vmul st => Sys2Proof.Machine.execVmul st s
  | .vfma st => Sys2Proof.Machine.execVfma st s
  | .vmax st => Sys2Proof.Machine.execVmax st s
  | .vexp st => Sys2Proof.Machine.execVexp st s
  | .vrsq st => Sys2Proof.Machine.execVrsq st s
  | .vcvt st => Sys2Proof.Machine.execVcvt st s
  | .vred st => Sys2Proof.Machine.execVred st s
  | .vsel st => Sys2Proof.Machine.execVsel st s
  | .vcmp st => Sys2Proof.Machine.execVcmp st s
  | .vld st => Sys2Proof.Machine.execVld st s
  | .vst st => Sys2Proof.Machine.execVst st s
  | .mov st => Sys2Proof.Machine.execMov st s
  | .ld st => Sys2Proof.Machine.execLd st s
  | .st st => Sys2Proof.Machine.execSt st s
  | .copy st => Sys2Proof.Machine.execCopy st s
  | .fill st => Sys2Proof.Machine.execFill st s
  | .ldW st => Sys2Proof.Machine.execLdW st s
  | .stF st => Sys2Proof.Machine.execStF st s
  | .slotSet st => Sys2Proof.Machine.execSlotSet st s
  | .slotClr st => Sys2Proof.Machine.execSlotClr st s
  | .put st => Sys2Proof.Machine.execPut st s
  | .putS st => Sys2Proof.Machine.execPutS st s
  | .putF st => Sys2Proof.Machine.execPutF st s
  | .get st => Sys2Proof.Machine.execGet st s
  | .aaddI32 st => Sys2Proof.Machine.execAaddI32 st s
  | .aaddF32 st => Sys2Proof.Machine.execAaddF32 st s
  | .aaddBf16 st => Sys2Proof.Machine.execAaddBf16 st s
  | .faddI32 st => Sys2Proof.Machine.execFaddI32 st s
  | .faddI64 st => Sys2Proof.Machine.execFaddI64 st s
  | .fenceD st => Sys2Proof.Machine.execFenceD st s
  | .fenceY st => Sys2Proof.Machine.execFenceY st s
  | .fenceP st => Sys2Proof.Machine.execFenceP st s
  | .waitc st => Sys2Proof.Machine.execWaitc st s
  | .attnGo st => Sys2Proof.Machine.execAttnGo st s
  | .b st => Sys2Proof.Machine.execB st s
  | .bc st => Sys2Proof.Machine.execBc st s
  | .loop st => Sys2Proof.Machine.execLoop st s
  | .call st => Sys2Proof.Machine.execCall st s
  | .ret st => Sys2Proof.Machine.execRet st s
  | .yield st => Sys2Proof.Machine.execYield st s
  | .epoch st => Sys2Proof.Machine.execEpoch st s
  | .epochWaitEnd st => Sys2Proof.Machine.execEpochWaitEnd st s
  | .halt st => Sys2Proof.Machine.execHalt st s
  | .routineEnd st => Sys2Proof.Machine.execRoutineEnd st s
  | .drainEnd st => Sys2Proof.Machine.execDrainEnd st s
  | .idleAdopt st => Sys2Proof.Machine.execIdleAdopt st s
  | .routineStart cid st => Sys2Proof.Machine.execRoutineStart cid st s
  | .cribStart st op tick => Sys2Proof.Machine.execCribStart st op tick s
  | .cribBinWrite st op waited => Sys2Proof.Machine.execCribBinWrite st op waited s
  | .sideFetchReturn st op which => Sys2Proof.Machine.execSideFetchReturn st op which s
  | .residue st idx => Sys2Proof.Machine.execResidue st idx s
  | .lockstep st idx => Sys2Proof.Machine.execLockstep st idx s
  | .watchdog st => Sys2Proof.Machine.execWatchdog st s
  | .boundaryLate st => Sys2Proof.Machine.execBoundaryLate st s
  | .slotJam id => Sys2Proof.Machine.execSlotJam id s
  | .putPerform id => Sys2Proof.Machine.execPutPerform id s
  | .putFArrive id => Sys2Proof.Machine.execPutFArrive id s
  | .holdResend src dst => Sys2Proof.Machine.execHoldResend src dst s
  | .getPerform id => Sys2Proof.Machine.execGetPerform id s
  | .atomicPerform id => Sys2Proof.Machine.execAtomicPerform id s
  | .remoteComplete id => Sys2Proof.Machine.execRemoteComplete id s
  | .groomScrub line arisen lastOfPass => Sys2Proof.Machine.execGroomScrub line arisen lastOfPass s
  | .loftScrub stack unit arisen => Sys2Proof.Machine.execLoftScrub stack unit arisen s
  | .referenceRead st crib bank tick => Sys2Proof.Machine.execReferenceRead st crib bank tick s
  | .refit st crib bank corr => Sys2Proof.Machine.execRefit st crib bank corr s
  | .attnJobStart die id => Sys2Proof.Machine.execAttnJobStart die id s
  | .attnJobFinish die id residue => Sys2Proof.Machine.execAttnJobFinish die id residue s
  | .editBatchApply id => Sys2Proof.Machine.execEditBatchApply id s
  | .pageAllocate seq layer => Sys2Proof.Machine.execPageAllocate seq layer s
  | .prefixInsert seq page => Sys2Proof.Machine.execPrefixInsert seq page s
  | .stageStart offer => Sys2Proof.Machine.execStageStart offer s
  | .shardReceived shard bytes => Sys2Proof.Machine.execShardReceived shard bytes s
  | .shardRefetch shard => Sys2Proof.Machine.execShardRefetch shard s
  | .shardTimeout => Sys2Proof.Machine.execShardTimeout s
  | .bankProgramStart placement => Sys2Proof.Machine.execBankProgramStart placement s
  | .bankProgramDone bank weak => Sys2Proof.Machine.execBankProgramDone bank weak s
  | .stageResult module result => Sys2Proof.Machine.execStageResult module result s
  | .identify cid => Sys2Proof.Machine.execIdentify cid s
  | .attest cid => Sys2Proof.Machine.execAttest cid s
  | .ringCreate cid failAt => Sys2Proof.Machine.execRingCreate cid failAt s
  | .ringDestroy cid => Sys2Proof.Machine.execRingDestroy cid s
  | .modelStage cid => Sys2Proof.Machine.execModelStage cid s
  | .keyAdd cid => Sys2Proof.Machine.execKeyAdd cid s
  | .keyRemove cid => Sys2Proof.Machine.execKeyRemove cid s
  | .modelActivate cid othersMatch => Sys2Proof.Machine.execModelActivate cid othersMatch s
  | .modelRetire cid => Sys2Proof.Machine.execModelRetire cid s
  | .adapterLoad cid othersFit => Sys2Proof.Machine.execAdapterLoad cid othersFit s
  | .adapterUnload cid usedElsewhere => Sys2Proof.Machine.execAdapterUnload cid usedElsewhere s
  | .seqOpen cid => Sys2Proof.Machine.execSeqOpen cid s
  | .seqClose cid => Sys2Proof.Machine.execSeqClose cid s
  | .prefixLookup cid => Sys2Proof.Machine.execPrefixLookup cid s
  | .submit cid => Sys2Proof.Machine.execSubmit cid s
  | .submitAbort cid => Sys2Proof.Machine.execSubmitAbort cid s
  | .submitComplete cid => Sys2Proof.Machine.execSubmitComplete cid s
  | .decodeStep cid => Sys2Proof.Machine.execDecodeStep cid s
  | .solve cid => Sys2Proof.Machine.execSolve cid s
  | .modeSetPower cid => Sys2Proof.Machine.execModeSetPower cid s
  | .modeSetCalset cid => Sys2Proof.Machine.execModeSetCalset cid s
  | .modeSetFeed cid => Sys2Proof.Machine.execModeSetFeed cid s
  | .modeSetGroom cid => Sys2Proof.Machine.execModeSetGroom cid s
  | .modeSetQuota cid => Sys2Proof.Machine.execModeSetQuota cid s
  | .telemetryRead cid => Sys2Proof.Machine.execTelemetryRead cid s
  | .telemetryReadClear cid => Sys2Proof.Machine.execTelemetryReadClear cid s
  | .vetLoad cid => Sys2Proof.Machine.execVetLoad cid s
  | .fwUpdateStore cid => Sys2Proof.Machine.execFwUpdateStore cid s
  | .fwUpdateActivate cid => Sys2Proof.Machine.execFwUpdateActivate cid s
  | .paddockJoin cid linksUp busy newest => Sys2Proof.Machine.execPaddockJoin cid linksUp busy newest s
  | .paddockLeave cid busy => Sys2Proof.Machine.execPaddockLeave cid busy s
  | .twinBind cid linkUp layoutSame stallsOk => Sys2Proof.Machine.execTwinBind cid linkUp layoutSame stallsOk s
  | .twinUnbind cid => Sys2Proof.Machine.execTwinUnbind cid s
  | .forwardedCommand lead fn desc data epoch => Sys2Proof.Machine.execForwardedCommand lead fn desc data epoch s
  | .commandFetch ring desc heads data resultOk => Sys2Proof.Machine.execCommandFetch ring desc heads data resultOk s
  | .doorbell fn ring value => Sys2Proof.Machine.execDoorbell fn ring value s
  | .coalesceTimeout ring => Sys2Proof.Machine.execCoalesceTimeout ring s
  | .mboxDoorbell value heads data resultOk => Sys2Proof.Machine.execMboxDoorbell value heads data resultOk s
  | .hsGo value => Sys2Proof.Machine.execHsGo value s
  | .bar2Read offset len => Sys2Proof.Machine.execBar2Read offset len s
  | .bar2Write offset data => Sys2Proof.Machine.execBar2Write offset data s
  | .bar2Resize log2 => Sys2Proof.Machine.execBar2Resize log2 s
  | .registerWrite fn offset width value => Sys2Proof.Machine.execRegisterWrite fn offset width value s
  | .senseReq value firmware => Sys2Proof.Machine.execSenseReq value firmware s
  | .sensePeakClr value => Sys2Proof.Machine.execSensePeakClr value s
  | .mgmtSettingWrite offset width value => Sys2Proof.Machine.execMgmtSettingWrite offset width value s
  | .functionLevelReset fn => Sys2Proof.Machine.execFunctionLevelReset fn s
  | .hotReset => Sys2Proof.Machine.execHotReset s
  | .perstN level => Sys2Proof.Machine.execPerstN level s
  | .codewordLock port => Sys2Proof.Machine.execCodewordLock port s
  | .trainingExchange port peerPort serial => Sys2Proof.Machine.execTrainingExchange port peerPort serial s
  | .trainingTimeout port => Sys2Proof.Machine.execTrainingTimeout port s
  | .linkDown port => Sys2Proof.Machine.execLinkDown port s
  | .linkUp port => Sys2Proof.Machine.execLinkUp port s
  | .packetReceive port pkt => Sys2Proof.Machine.execPacketReceive port pkt s
  | .replayRequest port seq => Sys2Proof.Machine.execReplayRequest port seq s
  | .leadUnreachable => Sys2Proof.Machine.execLeadUnreachable s
  | .leadTakeover => Sys2Proof.Machine.execLeadTakeover s
  | .leadFenced => Sys2Proof.Machine.execLeadFenced s
  | .twinCopyDone => Sys2Proof.Machine.execTwinCopyDone s
  | .epochRequest => Sys2Proof.Machine.execEpochRequest s
  | .epochPost epoch offer => Sys2Proof.Machine.execEpochPost epoch offer s
  | .stallEpochReport st => Sys2Proof.Machine.execStallEpochReport st s
  | .moduleEpochReport module epoch => Sys2Proof.Machine.execModuleEpochReport module epoch s
  | .epochRetire epoch elsewhere => Sys2Proof.Machine.execEpochRetire epoch elsewhere s
  | .epochSlow epoch unit => Sys2Proof.Machine.execEpochSlow epoch unit s
  | .sampleCheck st crib residueOk => Sys2Proof.Machine.execSampleCheck st crib residueOk s
  | .vetProbe st crib bank tick residueOk => Sys2Proof.Machine.execVetProbe st crib bank tick residueOk s
  | .vetRun st failed => Sys2Proof.Machine.execVetRun st failed s
  | .watchPeriod results => Sys2Proof.Machine.execWatchPeriod results s
  | .derierMismatch pair recent => Sys2Proof.Machine.execDerierMismatch pair recent s
  | .derierRestart pair => Sys2Proof.Machine.execDerierRestart pair s
  | .heartbeat => Sys2Proof.Machine.execHeartbeat s
  | .eventReport => Sys2Proof.Machine.execEventReport s
  | .mgmtEventDrop => Sys2Proof.Machine.execMgmtEventDrop s
  | .pushFragment port bytes fresh => Sys2Proof.Machine.execPushFragment port bytes fresh s
  | .arpRequest frame => Sys2Proof.Machine.execArpRequest frame s
  | .icmpEcho frame => Sys2Proof.Machine.execIcmpEcho frame s
  | .senseScan => Sys2Proof.Machine.execSenseScan s
  | .senseConversionStart => Sys2Proof.Machine.execSenseConversionStart s
  | .senseConversionEnd raw => Sys2Proof.Machine.execSenseConversionEnd raw s
  | .calSweep => Sys2Proof.Machine.execCalSweep s
  | .senseWindowEnd facts => Sys2Proof.Machine.execSenseWindowEnd facts s
  | .pllUnlock pll => Sys2Proof.Machine.execPllUnlock pll s
  | .inputOutOfRange millivolts micros => Sys2Proof.Machine.execInputOutOfRange millivolts micros s
  | .resetNAssert nanos => Sys2Proof.Machine.execResetNAssert nanos s
  | .resetNRelease => Sys2Proof.Machine.execResetNRelease s
  | .powerUp facts => Sys2Proof.Machine.execPowerUp facts s
  | .fetchFault st pathError => Sys2Proof.Machine.execFetchFault st pathError s
  | .registerRead fn offset width => Sys2Proof.Machine.execRegisterRead fn offset width s
  | .hostLinkRetrained => Sys2Proof.Machine.execHostLinkRetrained s
  | .twinLost => Sys2Proof.Machine.execTwinLost s
  | .joinLinkTimeout => Sys2Proof.Machine.execJoinLinkTimeout s

end Sys2Proof.Machine
end

