-- ==== Sys2Proof/Machine/Idle.lean ====
section
/-! DEFINITION. What a step does with no command waiting. -/

namespace Sys2Proof.Machine

/-- With no command waiting one millisecond passes (R425, log 2): `HI_UPTIME.MS` counts while the module has power. -/
def tick (s : State) : Res :=
  .next { s with dev := { s.dev with host := { s.dev.host with
    uptimeMs := if s.dev.board.powered then s.dev.host.uptimeMs + 1 else s.dev.host.uptimeMs } } }

end Sys2Proof.Machine
end

