-- ==== Sys2Proof/Safety.lean ====
section
/-! DEFINITION. What counts as a safe run, and the conditions and frames in whose terms claims are stated. -/

namespace Sys2Proof.Machine

open Sys2Proof

/-- The answer is a next state. -/
def Completes (r : Res) : Prop := ∃ s, r = .next s

/-- The answer is no fault. -/
def NoFault (r : Res) : Prop := ∀ f, r ≠ .fault f

/-! ### Issue -/

/-- A stall runs, no EPOCH holds it, and the word at its program counter reads as the instruction given. -/
def AtInstr (d : Dev) (st : Nat) (i : Ins) : Prop :=
  (stallOf d st).mode = .running ∧ epochHeld (stallOf d st) = false ∧ (fetchWord (stallOf d st)).map insOf = some i

/-- The instruction stands at the program counter in a form that the manual allows (R145), and no register that it
names waits for a FADD (R148). -/
def Issues (d : Dev) (st op : Nat) (frm : Ins → Option Form) (i : Ins) : Prop :=
  AtInstr d st i ∧ i.op = op ∧ ∃ fm, frm i = some fm ∧ formOk fm i = true ∧ hazard d st fm i = false

/-- For every state in which the instruction issues and meets `pre`, its command answers a next state that keeps the
queue and meets `post`. -/
def Runs (mk : Nat → Instr) (op : Nat) (frm : Ins → Option Form) (pre : Dev → Nat → Ins → Prop)
    (post : Dev → Nat → Ins → Dev → Prop) : Prop :=
  ∀ s st i, Issues s.dev st op frm i → pre s.dev st i →
    ∃ t, exec (mk st) s = .next t ∧ t.pending = s.pending ∧ post s.dev st i t.dev

/-- A command that answers a next state with `post` wherever `pre` holds. -/
def Answers (c : Instr) (pre : Dev → Prop) (post : Dev → Dev → Prop) : Prop :=
  ∀ s, pre s.dev → ∃ t, exec c s = .next t ∧ t.pending = s.pending ∧ post s.dev t.dev

/-- The instructions that a sequencer fetches: command, opcode (R146) and form. -/
def seqRows : List ((Nat → Instr) × Nat × (Ins → Option Form)) :=
  [(.cribMvm, 0x10, formCribMvm), (.cribBank, 0x11, formCribBank), (.cribProbe, 0x12, formCribProbe),
   (.vadd, 0x20, formVadd), (.vmul, 0x21, formVmul), (.vfma, 0x22, formVadd), (.vmax, 0x23, formVmax),
   (.vexp, 0x24, formVexp), (.vrsq, 0x25, formVrsq), (.vcvt, 0x26, formVcvt), (.vred, 0x27, formVred),
   (.vsel, 0x28, formVsel), (.vcmp, 0x29, formVcmp), (.vld, 0x2A, formVld), (.vst, 0x2B, formVst)] ++
  [(.mov, 0x30, formMov), (.ld, 0x32, formLd), (.st, 0x33, formSt), (.copy, 0x34, formCopy), (.fill, 0x35, formCopy),
   (.ldW, 0x40, formLdW), (.stF, 0x41, formStF), (.slotSet, 0x42, formSlot), (.slotClr, 0x43, formSlot),
   (.put, 0x50, formPut), (.putS, 0x51, formPutS), (.putF, 0x52, formPutF), (.get, 0x53, formPut),
   (.aaddI32, 0x54, formAadd), (.aaddF32, 0x55, formAadd), (.aaddBf16, 0x56, formAadd)] ++
  [(.faddI32, 0x57, formFadd), (.faddI64, 0x58, formFadd), (.fenceD, 0x59, formPlain), (.fenceY, 0x5A, formPlain),
   (.fenceP, 0x5B, formPlain), (.waitc, 0x5C, formWaitc), (.attnGo, 0x60, formAttn), (.b, 0x70, formB),
   (.bc, 0x71, formBc), (.loop, 0x72, formLoop), (.call, 0x73, formB), (.ret, 0x74, formPlain),
   (.yield, 0x75, formPlain), (.epoch, 0x76, formEpoch), (.halt, 0x77, formPlain)]

/-! ### Frames -/

/-- Of the whole module only one stall has changed, and the count of its corrected fetches (R198). -/
def StallOnly (st : Nat) (d e : Dev) : Prop :=
  e = { d with draws := d.draws + 1, stalls := e.stalls, ctr := e.ctr } ∧
    (∀ k, k ≠ st → stallOf e k = stallOf d k) ∧ ∀ o, o ≠ stallReg st 0x28 → ctrOf e o = ctrOf d o

/-- One stall has changed; errors may have been counted and events raised by what it read (R226), which on a member leave
as messages to the lead (R449). -/
def StallReads (st : Nat) (d e : Dev) : Prop :=
  e = { d with draws := d.draws + 1, stalls := e.stalls, ctr := e.ctr, host := e.host, health := e.health,
               pad := e.pad, out := e.out } ∧ ∀ k, k ≠ st → stallOf e k = stallOf d k

/-- The target of a branch: the instruction's index plus the signed immediate, modulo 2⁶⁴ (R184). -/
def branchPlace (x : Stall) (i : Ins) : Nat := (((x.pc : Int) + (BitVec.ofNat 32 i.imm).toInt) % 2 ^ 64).toNat

/-- A byte of a stall's buffer as it stands. -/
def byteOf (x : Stall) (buf off : Nat) : Option Byte := mget none (sramOf x buf).bytes off

/-- The buffers of a stall hold the same bytes, but for a range. -/
def BytesBut (buf off n : Nat) (x y : Stall) : Prop :=
  ∀ b o, b < 3 → ¬ (b = buf ∧ off ≤ o ∧ o < off + n) → byteOf y b o = byteOf x b o

/-- The program counter has moved to `pc` and nothing holds the stall; but for the files named by the update `u`
everything else of it is as before. -/
def Moves (pc : Nat) (u : Stall → Stall → Stall) (x y : Stall) : Prop :=
  y = { u x y with pc := pc, held := none }

/-- One scalar register is written; s0 discards the write (R141). -/
def WritesScalar (n : Nat) (v : W64) (x y : Stall) : Prop :=
  Moves (x.pc + 1) (fun x y => { x with sreg := y.sreg }) x y ∧
    ∀ m, sGet y m = if m = n ∧ n ≠ 0 then v else sGet x m

/-- One vector register is written, lane by lane. -/
def WritesVector (n : Nat) (lane : Nat → W32) (x y : Stall) : Prop :=
  Moves (x.pc + 1) (fun x y => { x with vreg := y.vreg }) x y ∧
    ∀ m k, k < 64 → vLane y m k = if m = n then lane k else vLane x m k

/-- The enable of lane k: an FP64 element is governed by its even lane (R142, R159). -/
def laneOn (i : Ins) (x : Stall) (k : Nat) : Bool := laneMask x i (if insType i = 2 then 2 * (k / 2) else k)

/-- Lane k of a result given by 32-bit lanes, or by FP64 elements of which lane k is one half (R142). -/
def laneWord (i : Ins) (f32 : Nat → W32) (f64 : Nat → Nat) (k : Nat) : W32 :=
  if insType i = 2 then BitVec.ofNat 32 (f64 (k / 2) / 2 ^ (32 * (k % 2))) else f32 k

/-- A lane instruction writes `f` to the enabled lanes of V[D] and nothing else. -/
def LanesOf (st : Nat) (i : Ins) (f32 : Nat → W32) (f64 : Nat → Nat) (d e : Dev) : Prop :=
  StallOnly st d e ∧ WritesVector i.d
    (fun k => if laneOn i (stallOf d st) k then laneWord i f32 f64 k else vLane (stallOf d st) i.d k)
    (stallOf d st) (stallOf e st)

/-- A routine has stopped with a fault (R194): only its stall has changed, and in it only what R194 names; its FADDs that
are not complete write no register from now on (R195). -/
def StopsAt (st code detail : Nat) (d e : Dev) : Prop :=
  StallOnly st (orphanOps d st) e ∧ stallOf e st =
    { stallOf d st with mode := .draining, ending := some .fault, held := none, faultCode := BitVec.ofNat 8 code,
                        faultPc := BitVec.ofNat 12 (stallOf d st).pc, faultDetail := BitVec.ofNat 32 detail }

/-- The stall waits on its instruction and nothing else has changed (R147). -/
def HeldOn (st : Nat) (w : Wait) (d e : Dev) : Prop :=
  StallOnly st d e ∧ (stallOf e st).held.map (·.why) = some w ∧
    stallOf e st = { stallOf d st with held := (stallOf e st).held }

/-- A local range that may be accessed: inside its buffer, aligned, and free of unfinished crib and attention work
(R149, R166, R168). -/
def LocalOk (d : Dev) (st : Nat) (addr : W64) (len align buf off : Nat) : Prop :=
  localRange addr len = some (buf, off) ∧ addr.toNat % align = 0 ∧ blocked d st buf off len = false

/-- What a read may leave of a stall besides what it returns: the place of the last uncorrectable byte (R226), and the lines
recorded for R231 (R527). -/
def readFound (x y : Stall) : Stall :=
  { x with ueOff := y.ueOff, ueBuf := y.ueBuf, ueValid := y.ueValid, trough := { x.trough with remap := y.trough.remap },
           bin := { x.bin with remap := y.bin.remap }, manger := { x.manger with remap := y.manger.remap } }

/-- A stall after a local read: only the files of `u`, the program counter and what a read finds may differ. -/
def ReadMoves (u : Stall → Stall → Stall) (x y : Stall) : Prop := Moves (x.pc + 1) (fun x y => readFound (u x y) y) x y

/-- A stall after a local write of `bs` at an offset of a buffer: those bytes hold it, every other byte is as before, and
beside the buffers only the program counter has moved. -/
def StoresAt (buf off : Nat) (bs : List Byte) (x y : Stall) : Prop :=
  Moves (x.pc + 1) (fun x y => { x with trough := y.trough, bin := y.bin, manger := y.manger }) x y ∧
    (∀ k, k < bs.length → byteOf y buf (off + k) = some (bs.getD k 0)) ∧ BytesBut buf off bs.length x y

/-- Slots n to n + count − 1 of a buffer exist, and no unfinished crib or attention work touches them (R149, R171). -/
def SlotsOk (d : Dev) (st buf n count : Nat) : Prop :=
  n + count ≤ slotCount buf ∧ blocked d st buf (512 * n) (512 * count) = false

/-- A PUT.F waits at a slot of a stall of this module: it has arrived there, and all of it lies in the slot (R209, R213). -/
def WaitsAtSlot (d : Dev) (st buf n id : Nat) (o : RemOp) : Prop :=
  opOf d id = some o ∧ o.id = id ∧ o.op.kind = .putF ∧ gSpace o.op.addr = 0 ∧ gStall o.op.addr = st ∧
    gBuf o.op.addr = buf ∧ o.op.data.length = o.op.len ∧ 0 < o.op.len ∧ 512 * n ≤ gOff o.op.addr ∧
    gOff o.op.addr + o.op.len ≤ 512 * n + 512

/-- A remote operation may issue: no earlier local access of units is pending, and fewer than 64 are outstanding (R52,
R59). -/
def MaySend (d : Dev) (st : Nat) : Prop := accessesPending d st = false ∧ (opsOf d st).length < 64

/-- The operation of a remote instruction as its source holds it (R49): its target, its bytes, its completion counter and
its destination. -/
def opSent (d : Dev) (st : Nat) (i : Ins) (k : RemKind) (addr : W64) (data : List Byte) (len tctr dest : Nat) : RemOp :=
  { id := d.nextId, own := true, dest := dest, ctr := insCtr i, phase := .sent, dead := false, back := [], orphan := false,
    op := { kind := k, addr := addr, data := data, len := len, tctr := tctr, srcModule := d.pad.index, srcStall := st,
            srcId := d.nextId } }

/-- What a remote instruction changes beside the operations: memory, banks and every other stall are as before, and of its
own stall only the program counter has moved. -/
def SendsFrame (st : Nat) (d e : Dev) : Prop :=
  e.mem = d.mem ∧ e.banks = d.banks ∧ e.attn = d.attn ∧ e.nextId = d.nextId + 1 ∧
  (∀ j, j ≠ st → stallOf e j = stallOf d j) ∧ ReadMoves (fun x _ => x) (stallOf d st) (stallOf e st)

/-- The operation is on its way to its home (R49): it has joined the module's operations. -/
def SendsOp (st : Nat) (i : Ins) (k : RemKind) (addr : W64) (data : List Byte) (len tctr dest : Nat) (d e : Dev) : Prop :=
  e.ops = d.ops ++ [opSent d st i k addr data len tctr dest] ∧ SendsFrame st d e

/-- The operation has a home (R37, R46, R61): its stall finds no violation in it, and its module is this one or can be
reached. -/
def HasHome (d : Dev) (k : RemKind) (addr : W64) (len : Nat) : Prop :=
  issueViolation d k addr len = false ∧ (holdsIndex d (gModule addr) = true ∨ usablePorts d (gModule addr) ≠ [])

/-- An operation without one is complete at once (R45): it returns zeros and is counted at its stall (R46). -/
def FailsOp (st : Nat) (i : Ins) (k : RemKind) (len : Nat) (d e : Dev) : Prop :=
  (∃ r ∈ e.ops, r.id = d.nextId ∧ r.own = true ∧ r.phase = .performed ∧ r.op.kind = k ∧ r.ctr = insCtr i ∧
    r.back = List.replicate (if k = .get then len else if isFadd k then elemSize k else 0) 0) ∧
  ctrOf e (stallReg st 0x18) = satAdd (ctrOf d (stallReg st 0x18)) 1 ∧ SendsFrame st d e

/-- No substitution and no retirement waits for a boundary of the stall. -/
def NoSwap (d : Dev) (st : Nat) : Prop := (stallOf d st).pendingSpare = none ∧ (stallOf d st).pendingRetire = false

/-- What a routine boundary of a stall does (R124, R187, R189, R570): the newest posted epoch is adopted with its default
banks and is on its way to be reported, the timer restarts, the pending corrections of the stall's 34 crib-banks become
active, and so does the table entry of its die, with its word of the calibration set that the held epoch names. -/
def Adopts (st : Nat) (d e : Dev) : Prop :=
  let x := stallOf d st
  let y := stallOf e st
  y.lateRaised = false ∧ y.posted = none ∧ y.epoch = x.posted.getD x.epoch ∧
    y.refEntry = mget 0 d.sense.entries (st / 256) ∧
    y.refWord = some (tableWord d.sense (settingsOf d (x.posted.getD x.epoch)).factory (st / 256)
      (mget 0 d.sense.entries (st / 256))) ∧
    (x.posted = none → y.sel = x.sel) ∧
    (∀ n, x.posted = some n → ∀ c, c < 16 → mget none y.sel c = defaultIn d n st c) ∧
    (∀ j, j ≠ st → stallOf e j = stallOf d j) ∧
    ∀ k, bankOf e k =
      if k / 34 = st then { bankOf d k with
        corr := (bankOf d k).pend.getD (bankOf d k).corr, corrUe := (bankOf d k).corrUe && (bankOf d k).pend.isNone
        pend := none }
      else bankOf d k

/-- What a routine boundary may change of a stall without substitution or retirement. -/
def adoptedOf (x y : Stall) : Stall :=
  { x with lateRaised := false, epoch := y.epoch, posted := none, sel := y.sel, refEntry := y.refEntry,
           refWord := y.refWord }

/-- A command has learnt that a routine of it has ended (R192, R195): the stall has left its running ones, with what it
reports. -/
def Learns (st report : Nat) (d e : Dev) : Prop :=
  ∀ cid c, (stallOf d st).owner = some cid → cmdOf d cid = some c →
    ∃ f, cmdOf e cid = some f ∧ f.running = c.running.filter (· != st) ∧ f.ended = c.ended ++ [(st, report)]

/-- The memory of the module, its banks and every stall but one are as before. -/
def SparesOthers (st : Nat) (d e : Dev) : Prop :=
  e.mem = d.mem ∧ e.banks = d.banks ∧ e.attn = d.attn ∧ e.ops = d.ops ∧ ∀ j, j ≠ st → stallOf e j = stallOf d j

/-- A stall whose routine has stopped with a fault at an index (R194). -/
def faulted (x : Stall) (code detail pc : Nat) : Stall :=
  { x with mode := .draining, ending := some .fault, held := none, faultCode := BitVec.ofNat 8 code,
           faultPc := BitVec.ofNat 12 pc, faultDetail := BitVec.ofNat 32 detail }

/-- The DRAM holds the same bytes, but for a list of places. -/
def DramBut (keys : List Nat) (d e : Dev) : Prop := ∀ k, k ∉ keys → mget 0 e.mem.dram k = mget 0 d.mem.dram k

/-- The loft holds the same bytes, but for a list of offsets. -/
def LoftBut (offs : List Nat) (d e : Dev) : Prop := ∀ k, k ∉ offs → mget 0 e.mem.loft k = mget 0 d.mem.loft k

/-- An operation has been performed at its home: this module's own one waits for its notice, with the bytes it returns; of
another module's the notice is sent, and it is gone (R49, R468). -/
def Performed (id : Nat) (o : RemOp) (back : List Byte) (e : Dev) : Prop :=
  opOf e id = if o.own then some { o with phase := .performed, back := back } else none

/-- A write of an operation is mirrored, as one at these DRAM places (R492, R495). -/
def MirrorsDram (d : Dev) (keys : List Nat) : Prop := mirroring d = true ∧ ∃ k ∈ keys, mirroredDram d k = true

/-- A write of an operation is mirrored, as one at these loft offsets. -/
def MirrorsLoft (d : Dev) (offs : List Nat) : Prop := mirroring d = true ∧ ∃ k ∈ offs, mirroredLoft d k = true

/-- An operation has been performed at memory here; one whose write is mirrored waits for the standby (R495). -/
def PerformedAt (mirrors : Prop) (d : Dev) (id : Nat) (o : RemOp) (back : List Byte) (e : Dev) : Prop :=
  (¬ mirrors → Performed id o back e) ∧
    (mirrors → opOf e id = some { o with phase := .mirrored d.pad.twinNext, back := back })

/-- An operation arrives at its home here: at memory, or at a stall that performs it at once, being neither retired, nor shut
to its source, nor behind a waiting operation, nor full at its slot (R213 to R219). -/
def Reaches (d : Dev) (id : Nat) (o : RemOp) : Prop :=
  arriving d id = some o ∧ o.id = id ∧
    (gSpace o.op.addr = 0 → (stallOf d (gStall o.op.addr)).gone = false ∧
      (stallOf d (gStall o.op.addr)).refused.contains (srcNum o) = false ∧ behind d (gStall o.op.addr) o = false ∧
      slotFull d o = false)

/-! ### Commands -/

/-- A fetched command may start (R433, R443 to R445, R544): it has the row's opcode and form, it has not begun, its ring's
order allows it, the command pair runs, and it passes the checks common to every descriptor, for this module. -/
def CmdStarts (d : Dev) (cid op : Nat) (isForm : Cmd → Bool) (c : Cmd) : Prop :=
  cmdOf d cid = some c ∧ dOpcode c.desc = op ∧ isForm c = true ∧ c.begun = false ∧ inOrder d c = true ∧
    d.health.commandDown = false ∧ commonStatus d c = none ∧ isRemote d c = false

/-- No ring waits to become Free, and each ring is listed once. -/
def NoDrain (d : Dev) : Prop :=
  mwf none d.host.rings ∧ ∀ p ∈ d.host.rings, ∀ x, p.2 = some x → x.destroyer = none

/-- The completion record of a command (R436). -/
def recordOf (c : Cmd) (status result value0 value1 sqhead : Nat) : Record :=
  { tag := BitVec.ofNat 32 (dTag c.desc), sqid := if c.ring = mboxRing then 0xFFFF else c.ring, sqhead := sqhead,
    status := status, result := result, value1 := BitVec.ofNat 32 value1, value0 := BitVec.ofNat 64 value0 }

/-- A packet has left toward an end by one of the ports that lead there, or waits at it (R468, R473). -/
def Sent (m : Nat) (body : PacketBody) (d e : Dev) : Prop :=
  usablePorts d m ≠ [] →
    ∃ p ∈ usablePorts d m, (∃ n, Output.packet p n body ∈ e.out) ∨ body ∈ (portOf e p).queue

/-- A message has been sent to an end that can be reached, in one packet or in the pieces that its bytes need (R468). -/
def Tells (m : Nat) (x : Message) (d e : Dev) : Prop :=
  ∃ no, ∀ b ∈ messageBodies m (here d) no x, Sent m b d e

/-- A message has been sent over the twin link, in one packet or in pieces. -/
def TellsTwin (x : Message) (d e : Dev) : Prop :=
  ∃ no, ∀ p, twinPort d = some p → ∀ b ∈ messageBodies e.pad.twinPeer (here d) no x,
    (∃ n, Output.packet p n b ∈ e.out) ∨ b ∈ (portOf e p).queue

/-- The command has ended with its record (R427, R429, R436, R445): it is no longer in progress, and the record stands in
the mailbox, PHASE inverted, or goes to the COMP ring of its SUB ring when that has room and host memory takes it; a
member's answer goes to the lead. -/
def Recorded (c : Cmd) (status result value0 value1 : Nat) (d e : Dev) : Prop :=
  cmdOf e c.cid = none ∧
    (∀ id, c.lead = some id → ∃ bs, Tells 0 (.answer id status result value0 value1 bs) d e) ∧
    (c.lead = none → c.ring = mboxRing →
      e.host.mboxCpl = some (recordOf c status result value0 value1 0, !d.host.mboxPhase)) ∧
    ∀ s x, c.lead = none → c.ring ≠ mboxRing → ringOf d c.ring = some s → ringOf d s.bind = some x → x.type = .comp →
      x.state = .active → ringFull x = false → x.heldRecords = [] → x.failAt ≠ some x.posted →
      Output.record s.bind x.tail x.phase (recordOf c status result value0 value1 s.head) ∈ e.out

/-- The result bytes of a command that ends leave for host memory, no more than it asked for, or go to the lead (R437, R445). -/
def Delivers (c : Cmd) (bs : List Byte) (d e : Dev) : Prop :=
  e.pad.twinOut = [] →
    (c.lead = none → c.ring ≠ noRing → bs.take (dResultLen c.desc) ≠ [] →
      Output.result (BitVec.ofNat 64 (dResult c.desc)) (bs.take (dResultLen c.desc)) d.host.cfg.relaxed ∈ e.out) ∧
    ∀ id, c.lead = some id → ∃ status result value0 value1, Tells 0 (.answer id status result value0 value1 bs) d e

/-- The command waits with its end: for other modules on which it takes place too, or for mirrored writes (R443, R495). -/
def Waits (c : Cmd) (asks : List Nat) (status result value0 value1 : Nat) (e : Dev) : Prop :=
  ∃ f x, cmdOf e c.cid = some f ∧ f.begun = true ∧ f.asks = asks ∧ f.held = some x ∧ x.status = status ∧
    x.result = result ∧ x.value0 = value0 ∧ x.value1 = value1

/-- The command ends: at once, or, while writes that the standby has not performed are under way, with those (R440, R495). -/
def Replied (c : Cmd) (status result value0 value1 : Nat) (d e : Dev) : Prop :=
  (e.pad.twinOut = [] → Recorded c status result value0 value1 d e) ∧
    (e.pad.twinOut ≠ [] → Waits c [] status result value0 value1 e)

/-- The command is done here and ends when it is done on every module (R443): the lead has told the others. -/
def RepliedAll (c : Cmd) (status result value0 value1 : Nat) (d e : Dev) : Prop :=
  (others d = [] → Replied c status result value0 value1 d e) ∧
    (others d ≠ [] → Waits c (others d) status result value0 value1 e ∧ ∀ m ∈ others d,
      Tells m (.command c.cid c.fn c.desc (c.data.map fun _ => c.entries) (begins d c).epoch) d e)

/-- Host memory takes the next record of the command's COMP ring (R431). -/
def RecordFits (d : Dev) (c : Cmd) : Prop :=
  ∀ s x, ringOf d c.ring = some s → ringOf d s.bind = some x → x.failAt ≠ some x.posted

/-- The stalls, cribs, banks, memory and operations of the module are as before. -/
def SparesMachine (d e : Dev) : Prop :=
  e.stalls = d.stalls ∧ e.cribs = d.cribs ∧ e.banks = d.banks ∧ e.mem = d.mem ∧ e.ops = d.ops

/-- The command has begun and waits; it is the same command but for what `u` says. -/
def Begun (c : Cmd) (u : Cmd → Cmd) (d e : Dev) : Prop := cmdOf e c.cid = some (u (begins d c))

/-- Derier has written an image into the record area (R463, R531): of memory only what its bytes read as, which the manual does
not say, and the wear of its regions have changed (R363). -/
def WritesRecords (d e : Dev) : Prop :=
  e.mem = { d.mem with record := [], wear := e.mem.wear } ∧ ∀ r, mget 0 d.mem.wear r ≤ mget 0 e.mem.wear r

/-- The signed datagram that carries records to the collector (R546). -/
def datagramOf (d : Dev) (kind : Nat) (records : List (List Byte)) : Output :=
  let body := datagramBody d kind records
  .datagram kind d.health.listen.toNat d.health.collector d.health.collectorPort.toNat (nextHop d.health)
    (body ++ toLe 2 (signature body).length ++ signature body)

/-- A watch period begins (R537): for each stall it is noted whether it is Idle now, and the rest of the machine is as before. -/
def PeriodBegins (d e : Dev) : Prop :=
  (∀ k, stallOf e k = { stallOf d k with busy := (stallOf d k).mode != .idle }) ∧
    e.cribs = d.cribs ∧ e.banks = d.banks ∧ e.mem = d.mem ∧ e.ops = d.ops

/-- Of the feed only model records have changed. -/
def ModelsOnly (d e : Dev) : Prop := e.feed = { d.feed with models := e.feed.models }

/-- A PREFIX_LOOKUP that nothing refuses (R325): the sequence as it is keyed, and the rows that match its pages in turn. -/
def LookupStarts (d : Dev) (cid : Nat) (c : Cmd) (q r : Seq) (rows : List Prefix) : Prop :=
  let n := c.bytes.length / 128
  let cs := keyBlocks q.nameSpace n [] c.bytes
  CmdStarts d cid 0x22 anyForm c ∧ c.dataFailed = false ∧ c.dataLen = 4 * c.param 36 4 ∧
    openFor d (c.param 32 2) c.fn = true ∧ seqOf d (c.param 32 2) = some q ∧ 1 ≤ c.param 36 4 ∧
    c.param 36 4 ≤ q.maxLen ∧ (∀ l ∈ q.pl, l.length = 0) ∧
    r = { q with chains := cs, toks := [], keyed := 32 * n, chain := cs.getLastD 0 } ∧
    rows = matchRows d r (32 * n / q.tp) 0

/-- Nothing has changed but the model's own count of draws. -/
def Unchanged (d e : Dev) : Prop := e = { d with draws := d.draws + 1 }

/-- One event has been counted at a register (R14) and nothing else has changed. -/
def CountsOnly (reg : Nat) (d e : Dev) : Prop :=
  e = { d with draws := d.draws + 1, ctr := e.ctr } ∧
    ∀ o, ctrOf e o = if o = reg then satAdd (ctrOf d o) 1 else ctrOf d o

/-- The host interface has changed, and nothing else. -/
def HostOnly (d e : Dev) : Prop := e = { d with draws := d.draws + 1, host := e.host }

/-- The host interface has changed, and what has left, or waits to leave, by the ports; nothing else. -/
def HostAndLinks (d e : Dev) : Prop :=
  e = { d with draws := d.draws + 1, host := e.host, out := e.out
               pad := { d.pad with ports := e.pad.ports, messageNo := e.pad.messageNo } }

/-- The same, and records of failed models may be free. -/
def HostModelsAndLinks (d e : Dev) : Prop :=
  e = { d with draws := d.draws + 1, host := e.host, out := e.out, feed := { d.feed with models := e.feed.models }
               pad := { d.pad with ports := e.pad.ports, messageNo := e.pad.messageNo } }

/-- The command ids are all different and the next one is new. -/
abbrev CidsOk (d : Dev) : Prop := (d.host.cmds.map (·.cid)).Nodup ∧ ∀ c ∈ d.host.cmds, c.cid < d.host.nextCid

/-- DRAM, loft, event counters and rings are in canonical form, and the command ids are in order. -/
abbrev Canonical (d : Dev) : Prop := d.mem.wf ∧ mwf 0 d.ctr ∧ mwf none d.host.rings ∧ CidsOk d

/-- A routine that ran, or whose HALT waited, has been stopped with ABORT (R193, R196). -/
def Aborted (st : Nat) (d e : Dev) : Prop :=
  active (stallOf d st) = true →
    (stallOf e st).mode = .draining ∧ (stallOf e st).ending = some .fault ∧ (stallOf e st).faultCode = 0x0F

/-- A command has joined those in progress, with the newest epoch accepted (R457). -/
def Joined (fn ring : Nat) (desc : List Byte) (heads : List (List Byte)) (data : Option (List (List Byte)))
    (resultOk : Bool) (epoch : W32) (lead : Option Nat) (d e : Dev) : Prop :=
  ∃ c, e.host.cmds = d.host.cmds ++ [c] ∧ c.cid = d.host.nextCid ∧ c.fn = fn ∧ c.ring = ring ∧ c.desc = desc ∧
    c.heads = heads ∧ c.data = data ∧ c.resultOk = resultOk ∧ c.epoch = epoch ∧ c.lead = lead ∧
    c.begun = false ∧ c.queued = decide (1024 ≤ inProgress d) ∧ e.host.nextCid = d.host.nextCid + 1

/-- The rows of the command set that take only a command id, with opcode and form, and those that take what other modules or
the host answer beside. -/
def commandRows (fail : Option Nat) (yes : Bool) : List ((Nat → Instr) × Nat × (Cmd → Bool)) :=
  [(.identify, 0x01, anyForm), (.attest, 0x02, anyForm), (fun c => .ringCreate c fail, 0x03, anyForm),
   (.ringDestroy, 0x04, anyForm), (.modelStage, 0x10, stageForm), (.keyAdd, 0x10, fun c => c.param 32 1 == 1),
   (.keyRemove, 0x10, fun c => c.param 32 1 == 2), (fun c => .modelActivate c yes, 0x11, anyForm),
   (.modelRetire, 0x12, anyForm), (fun c => .adapterLoad c yes, 0x13, fun c => c.param 32 1 != 1),
   (fun c => .adapterUnload c yes, 0x13, fun c => c.param 32 1 == 1)] ++
  [(.seqOpen, 0x20, anyForm), (.seqClose, 0x21, anyForm), (.prefixLookup, 0x22, anyForm),
   (.submit, 0x30, fun c => !pAbort c), (.submitAbort, 0x30, pAbort), (.decodeStep, 0x31, anyForm),
   (.solve, 0x32, fun c => c.solve.isNone), (.modeSetPower, 0x40, isMode 0), (.modeSetCalset, 0x40, isMode 1),
   (.modeSetFeed, 0x40, isMode 2), (.modeSetGroom, 0x40, isMode 3), (.modeSetQuota, 0x40, fun c => 4 ≤ mForm c),
   (.telemetryRead, 0x41, fun c => !tClear c), (.telemetryReadClear, 0x41, tClear), (.vetLoad, 0x50, anyForm),
   (.fwUpdateStore, 0x51, fun c => c.param 32 1 != 1), (.fwUpdateActivate, 0x51, fun c => c.param 32 1 == 1)]

/-- A descriptor whose opcode the command set has. -/
def knownOp (b : List Byte) : Prop := (opTable.find? fun t => t.1 == dOpcode b) ≠ none

/-- The module has been reset (R585): it boots, its commands and rings are gone, DRAM reads as after reset, the loft is kept. -/
def ResetWith (record : Option Nat) (d e : Dev) : Prop :=
  e.host.state = .booting ∧ e.host.cmds = [] ∧ e.host.rings = [] ∧ e.mem.dram = [] ∧ e.mem.loft = d.mem.loft ∧
    e.ctr = [] ∧ e.pad = Paddock.reset ∧ e.board.causeRecord = record ∧ ∀ st, (stallOf e st).store = []

/-- An instruction without condition beyond its issue. -/
def anyTime (_d : Dev) (_st : Nat) (_i : Ins) : Prop := True

end Sys2Proof.Machine
end

