-- ==== Sys2Proof/Certificates/Slice0/Obligations.lean ====
section
/-! DEFINITION. The statements for the provers. -/

open Sys2Proof Sys2Proof.Machine

/-! ### Lanes -/

/-- R160, R253 to R256: VADD, VMUL, VFMA and VMAX, with their NEG and MIN forms. -/
def Obligations.LaneArithmeticWritesEnabledLanes : Prop :=
  Runs .vadd 0x20 formVadd anyTime (fun d st i => LanesOf st i
    (fun k =>
      let a := vLane (stallOf d st) i.a k
      let b := vLane (stallOf d st) i.b k
      if insType i = 0 then satAddI a (if insM5 i then negI b else b)
      else BitVec.ofNat 32 (fadd fp32 (insRz i) a.toNat (if insM5 i then fneg fp32 b.toNat else b.toNat)))
    (fun e => fadd fp64 (insRz i) (vF64 (stallOf d st) i.a e)
      (if insM5 i then fneg fp64 (vF64 (stallOf d st) i.b e) else vF64 (stallOf d st) i.b e)) d) ∧
  Runs .vmul 0x21 formVmul anyTime (fun d st i => LanesOf st i
    (fun k =>
      let a := vLane (stallOf d st) i.a k
      let b := vLane (stallOf d st) i.b k
      if insType i = 0 then mulI a b else BitVec.ofNat 32 (fmul fp32 (insRz i) a.toNat b.toNat))
    (fun e => fmul fp64 (insRz i) (vF64 (stallOf d st) i.a e) (vF64 (stallOf d st) i.b e)) d) ∧
  Runs .vfma 0x22 formVadd anyTime (fun d st i => LanesOf st i
    (fun k =>
      let a := vLane (stallOf d st) i.a k
      let b := vLane (stallOf d st) i.b k
      let c := vLane (stallOf d st) i.d k
      if insType i = 0 then fmaI (insM5 i) a b c
      else BitVec.ofNat 32 (ffma fp32 (insRz i) (insM5 i) a.toNat b.toNat c.toNat))
    (fun e => ffma fp64 (insRz i) (insM5 i) (vF64 (stallOf d st) i.a e) (vF64 (stallOf d st) i.b e)
      (vF64 (stallOf d st) i.d e)) d) ∧
  Runs .vmax 0x23 formVmax anyTime (fun d st i => LanesOf st i
    (fun k =>
      let a := vLane (stallOf d st) i.a k
      let b := vLane (stallOf d st) i.b k
      if insType i = 0 then maxI (insM5 i) a b else BitVec.ofNat 32 (fmax fp32 (insM5 i) a.toNat b.toNat))
    (fun e => fmax fp64 (insM5 i) (vF64 (stallOf d st) i.a e) (vF64 (stallOf d st) i.b e)) d)

/-- R160, R161, R250: VEXP, VRSQ and VCVT write the enabled lanes of V[D]; HALF names the half of the 32-bit lanes.
Which of the values within the bound VEXP and VRSQ deliver is a free value (log 6). -/
def Obligations.LaneFunctionsWriteEnabledLanes : Prop :=
  Runs .vexp 0x24 formVexp anyTime (fun d st i => LanesOf st i
    (fun k => BitVec.ofNat 32 (fexp (vLane (stallOf d st) i.a k).toNat)) (fun _ => 0) d) ∧
  Runs .vrsq 0x25 formVrsq anyTime (fun d st i => LanesOf st i
    (fun k =>
      let a := vLane (stallOf d st) i.a k
      BitVec.ofNat 32 (frsq fp32 (Config.rsqPick32 a).toNat a.toNat))
    (fun e =>
      let a := vF64 (stallOf d st) i.a e
      frsq fp64 (Config.rsqPick64 (BitVec.ofNat 64 a)).toNat a) d) ∧
  (∀ half, Runs .vcvt 0x26 formVcvt
    (fun _ _ i => half = (if bitAt i.imm 4 then 32 else 0) ∧ bitsOf i.imm 3 0 ≠ 2)
    (fun d st i => LanesOf st i
      (fun k =>
        let a := vLane (stallOf d st) i.a k
        if insType i = 0 then cvtToI fp32 (insRz i) a.toNat else BitVec.ofNat 32 (cvtFromI fp32 (insRz i) a))
      (fun e =>
        let a := vLane (stallOf d st) i.a (half + e)
        if bitsOf i.imm 3 0 = 0 then cvtFromI fp64 (insRz i) a
        else fround fp64 (insRz i) false (fdecode fp32 a.toNat)) d)) ∧
  (∀ half, Runs .vcvt 0x26 formVcvt
    (fun _ _ i => half = (if bitAt i.imm 4 then 32 else 0) ∧ bitsOf i.imm 3 0 = 2)
    (fun d st i e => StallOnly st d e ∧ WritesVector i.d
      (fun k => if laneMask (stallOf d st) i k = true ∧ half ≤ k ∧ k < half + 32 then
          (let a := vF64 (stallOf d st) i.a (k - half)
           if insType i = 0 then cvtToI fp64 (insRz i) a
           else BitVec.ofNat 32 (fround fp32 (insRz i) false (fdecode fp64 a)))
        else vLane (stallOf d st) i.d k) (stallOf d st) (stallOf e st)))

/-- R160, R162, R163: VSEL takes each lane of V[D] from V[A] or V[B] by its predicate bit, VRED writes its sum or extreme
to S[D], VCMP the comparison bits of the enabled lanes to P[D]. -/
def Obligations.SelectReduceCompare : Prop :=
  Runs .vsel 0x28 formVsel anyTime (fun d st i e =>
    let x := stallOf d st
    StallOnly st d e ∧ WritesVector i.d
      (fun k => if (pGet x (insPred i)).getLsbD (if insType i = 2 then 2 * (k / 2) else k) then vLane x i.a k
        else vLane x i.b k) x (stallOf e st)) ∧
  Runs .vred 0x27 formVred anyTime (fun d st i e =>
    StallOnly st d e ∧ WritesScalar i.d (vredWord i (stallOf d st)) (stallOf d st) (stallOf e st)) ∧
  Runs .vcmp 0x29 formVcmp anyTime (fun d st i e =>
    let x := stallOf d st
    let y := stallOf e st
    StallOnly st d e ∧ Moves (x.pc + 1) (fun x y => { x with preg := y.preg }) x y ∧
      (∀ m, m ≠ i.d → pGet y m = pGet x m) ∧
      ∀ k, k < 64 → (pGet y i.d).getLsbD k =
        if laneOn i x k then condHolds (bitsOf i.imm 2 0) (laneOrder i x k) else (pGet x i.d).getLsbD k)

/-! ### Moves and control -/

/-- R167: MOV: the arithmetic form, operation by operation, with x = S[B] + sext(imm, 32), and the forms between register files;
s0 discards the result (R141).
That MOV.A takes its sum from S[B] is read from the instruction format (log 16). -/
def Obligations.MovWritesItsDestination : Prop :=
  (
    ∀ v : W64 → W64 → W64,
    Runs .mov 0x30 formMov
      (fun _ _ i => bitsOf i.mod 5 4 = 0 ∧ ∀ a x : W64,
        v a x = (match bitsOf i.mod 3 0 with
          | 0 => a + x
          | 1 => a - x
          | 2 => a &&& x
          | 3 => a ||| x
          | 4 => a ^^^ x
          | 5 => BitVec.ofNat 64 (a.toNat * 2 ^ (x.toNat % 64))
          | 6 => BitVec.ofNat 64 (a.toNat / 2 ^ (x.toNat % 64))
          | 7 => BitVec.ofInt 64 (a.toInt / 2 ^ (x.toNat % 64))
          | 8 => a * x
          | 9 => if a.toInt < x.toInt then 1 else 0
          | 10 => if a.toNat < x.toNat then 1 else 0
          | _ => if a = x then 1 else 0))
      (fun d st i e => StallOnly st d e ∧
        WritesScalar i.d (v (sGet (stallOf d st) i.a) (sGet (stallOf d st) i.b + sextImm i 32)) (stallOf d st)
          (stallOf e st))) ∧
  (
    Runs .mov 0x30 formMov (fun _ _ i => bitsOf i.mod 5 4 = 1) (fun d st i e =>
      let x := stallOf d st
      let y := stallOf e st
      let a := sGet x i.a
      let o := bitsOf i.mod 3 0
      StallOnly st d e ∧
      (o = 0 → Moves (x.pc + 1) (fun x y => { x with areg := y.areg }) x y ∧
        ∀ m, aGet y m = if m = i.d then a + (sGet x i.b + sextImm i 32) else aGet x m) ∧
      (o = 1 → Moves (x.pc + 1) (fun x y => { x with preg := y.preg }) x y ∧
        ∀ m, pGet y m = if m = i.d then a else pGet x m) ∧
      (o = 2 → Moves (x.pc + 1) (fun x y => { x with creg := y.creg }) x y ∧
        ∀ m, cGet y m = if m = i.d then BitVec.ofNat 32 a.toNat else cGet x m) ∧
      (o = 3 → WritesVector i.d (fun k => if k = i.imm then BitVec.ofNat 32 a.toNat else vLane x i.d k) x y) ∧
      (o = 4 → WritesVector i.d (fun _ => BitVec.ofNat 32 a.toNat) x y)) ∧
    Runs .mov 0x30 formMov (fun _ _ i => bitsOf i.mod 5 4 = 2) (fun d st i e =>
      let x := stallOf d st
      let o := bitsOf i.mod 3 0
      StallOnly st d e ∧
      (o = 0 → WritesScalar i.d (aGet x i.a) x (stallOf e st)) ∧
      (o = 1 → WritesScalar i.d (pGet x i.a) x (stallOf e st)) ∧
      (o = 2 → WritesScalar i.d ((cGet x i.a).setWidth 64) x (stallOf e st)) ∧
      (o = 3 → WritesScalar i.d ((vLane x i.a i.imm).setWidth 64) x (stallOf e st))))

/-- R184: B, BC and LOOP move the program counter; LOOP counts in S[D]; nothing else changes. The target is the sum modulo
2⁶⁴: an index below 0 has no meaning in R184 (DESIGN CHOICE, log 50). -/
def Obligations.BranchesMoveThePc : Prop :=
  Runs .b 0x70 formB anyTime (fun d st i e =>
    StallOnly st d e ∧ Moves (branchPlace (stallOf d st) i) (fun x _ => x) (stallOf d st) (stallOf e st)) ∧
  (∀ taken : Bool, Runs .bc 0x71 formBc
    (fun d st i =>
      let a := sGet (stallOf d st) i.a
      let b := sGet (stallOf d st) i.b
      let p := pGet (stallOf d st) i.a
      (taken = true ↔ match bitsOf i.mod 2 0 with
        | 0 => a = b
        | 1 => a ≠ b
        | 2 => a.toInt < b.toInt
        | 3 => b.toInt ≤ a.toInt
        | 4 => a.toNat < b.toNat
        | 5 => b.toNat ≤ a.toNat
        | 6 => p ≠ 0
        | _ => p = 0))
    (fun d st i e => StallOnly st d e ∧
      Moves (if taken then branchPlace (stallOf d st) i else (stallOf d st).pc + 1) (fun x _ => x) (stallOf d st)
        (stallOf e st))) ∧
  Runs .loop 0x72 formLoop anyTime (fun d st i e =>
    let x := stallOf d st
    StallOnly st d e ∧
      Moves (if i.d = 0 ∨ sGet x i.d = 1 then x.pc + 1 else branchPlace x i) (fun x y => { x with sreg := y.sreg }) x
        (stallOf e st) ∧
      ∀ m, sGet (stallOf e st) m = if m = i.d ∧ m ≠ 0 then sGet x m - 1 else sGet x m)

/-- R186: the return stack holds 16 entries; a CALL with 16 held and a RET with none stop the routine with STACK (0x0B);
CALL pushes the next index and RET takes the newest; the stack is empty at routine start. The target of CALL is the sum modulo
2⁶⁴, as of a branch (DESIGN CHOICE, log 50). -/
def Obligations.ReturnStackHoldsSixteen : Prop :=
  Runs .call 0x73 formB (fun d st _ => (stallOf d st).rstack.length < 16) (fun d st i e =>
    StallOnly st d e ∧
      Moves (branchPlace (stallOf d st) i) (fun x _ => { x with rstack := (x.pc + 1) :: x.rstack }) (stallOf d st)
        (stallOf e st)) ∧
  Runs .call 0x73 formB (fun d st _ => 16 ≤ (stallOf d st).rstack.length)
    (fun d st _ => StopsAt st 0x0B (stallOf d st).rstack.length d) ∧
  (∀ r rs, Runs .ret 0x74 formPlain (fun d st _ => (stallOf d st).rstack = r :: rs) (fun d st _ e =>
    StallOnly st d e ∧ Moves r (fun x _ => { x with rstack := rs }) (stallOf d st) (stallOf e st))) ∧
  Runs .ret 0x74 formPlain (fun d st _ => (stallOf d st).rstack = []) (fun d st _ => StopsAt st 0x0B 0 d) ∧
  ∀ cid st c, Answers (.routineStart cid st) (fun d => cmdOf d cid = some c ∧ mayStart d c st = true)
    (fun _ e => (stallOf e st).rstack = [])

/-! ### Local memory -/

/-- R157, R158, R168, R247: LD writes S[D] from the bytes at its address, VLD the enabled lanes of V[D]; every byte of every
buffer and every other register is as before. -/
def Obligations.LoadsReadLocalMemory : Prop :=
  ∀ buf off,
  Runs .ld 0x32 formLd
    (fun d st i => LocalOk d st (sGet (stallOf d st) i.a + sextImm i 32) (ldWidth i) (ldWidth i) buf off)
    (fun d st i e => StallReads st d e ∧
      ReadMoves (fun x y => { x with sreg := y.sreg }) (stallOf d st) (stallOf e st) ∧
      ∀ m, sGet (stallOf e st) m =
        if m = i.d ∧ m ≠ 0 then
          (if bitAt i.mod 2 then
            BitVec.ofInt 64 (signedOf (8 * ldWidth i) (leNat (sramRead d st buf off (ldWidth i))))
           else BitVec.ofNat 64 (leNat (sramRead d st buf off (ldWidth i))))
        else sGet (stallOf d st) m) ∧
  Runs .vld 0x2A formVld
    (fun d st i => LocalOk d st (sGet (stallOf d st) i.a + sextImm i 20) (vecBytes (insType i)) (vecAlign (insType i))
      buf off)
    (fun d st i e => StallReads st d e ∧
      ReadMoves (fun x y => { x with vreg := y.vreg }) (stallOf d st) (stallOf e st) ∧
      ∀ m k, k < 64 → vLane (stallOf e st) m k =
        if m = i.d ∧ laneOn i (stallOf d st) k = true then
          widen (insType i) (sramRead d st buf off (vecBytes (insType i))) k
        else vLane (stallOf d st) m k)

/-- R164, R168, R248: ST stores the low bytes of S[B] at its address, VST the narrowed enabled lanes of V[B]; every byte
outside the stored ones and every register is as before. -/
def Obligations.StoresWriteTheirBytesOnly : Prop :=
  ∀ buf off,
  Runs .st 0x33 formSt
    (fun d st i => LocalOk d st (sGet (stallOf d st) i.a + sextImm i 32) (ldWidth i) (ldWidth i) buf off)
    (fun d st i e => StallOnly st d e ∧
      StoresAt buf off (toLe (ldWidth i) (sGet (stallOf d st) i.b).toNat) (stallOf d st) (stallOf e st)) ∧
  Runs .vst 0x2B formVst
    (fun d st i => LocalOk d st (sGet (stallOf d st) i.a + sextImm i 20) (vecBytes (insType i)) (vecAlign (insType i))
      buf off)
    (fun d st i e =>
      let x := stallOf d st
      let y := stallOf e st
      StallOnly st d e ∧
      Moves (x.pc + 1) (fun x y => { x with trough := y.trough, bin := y.bin, manger := y.manger }) x y ∧
      (∀ p ∈ vstStores i x off, byteOf y buf p.1 = some p.2) ∧
      (∀ o, (∀ p ∈ vstStores i x off, p.1 ≠ o) → byteOf y buf o = byteOf x buf o) ∧
      ∀ b o, b < 3 → b ≠ buf → byteOf y b o = byteOf x b o)

/-- R169: COPY reads its whole source before it writes any byte; FILL repeats the 8 bytes of S[A]; a length of 0 does
nothing. -/
def Obligations.CopyAndFill : Prop :=
  (∀ n sb so db dof, Runs .copy 0x34 formCopy
    (fun d st i =>
      let x := stallOf d st
      n = copyLen i x ∧ 0 < n ∧ LocalOk d st (sGet x i.a) n 1 sb so ∧ LocalOk d st (sGet x i.d) n 1 db dof)
    (fun d st _ e => StallReads st d e ∧
      Moves ((stallOf d st).pc + 1)
        (fun x y => { x with trough := y.trough, bin := y.bin, manger := y.manger, ueOff := y.ueOff, ueBuf := y.ueBuf,
                             ueValid := y.ueValid }) (stallOf d st) (stallOf e st) ∧
      (∀ k, k < n → byteOf (stallOf e st) db (dof + k) = some ((sramRead d st sb so n).getD k 0)) ∧
      BytesBut db dof n (stallOf d st) (stallOf e st))) ∧
  (∀ n b off, Runs .fill 0x35 formCopy
    (fun d st i => n = copyLen i (stallOf d st) ∧ 0 < n ∧ LocalOk d st (sGet (stallOf d st) i.d) n 1 b off)
    (fun d st i e => StallOnly st d e ∧
      StoresAt b off ((List.range n).map fun k => BitVec.ofNat 8 ((sGet (stallOf d st) i.a).toNat / 2 ^ (8 * (k % 8))))
        (stallOf d st) (stallOf e st))) ∧
  Runs .copy 0x34 formCopy (fun d st i => copyLen i (stallOf d st) = 0)
    (fun d st _ e => StallOnly st d e ∧ Moves ((stallOf d st).pc + 1) (fun x _ => x) (stallOf d st) (stallOf e st)) ∧
  Runs .fill 0x35 formCopy (fun d st i => copyLen i (stallOf d st) = 0)
    (fun d st _ e => StallOnly st d e ∧ Moves ((stallOf d st).pc + 1) (fun x _ => x) (stallOf d st) (stallOf e st))

/-- R166, R168, R169, R178, R194: a local access outside its buffer stops the routine with LOCAL_RANGE, a misaligned one with
ALIGN; so do the source and the destination of a COPY, the destination of a FILL, the local range of a remote operation, and
the descriptor of an ATTN.GO. COPY checks its source first, and a fault does not wait for what would hold the instruction
(DESIGN CHOICE, logs 16 and 26). -/
def Obligations.LocalAccessFaults : Prop :=
  (
  ∀ addr : W64, ∀ p : (Nat → Instr) × Nat × (Ins → Option Form) × (Ins → Stall → W64) × (Ins → Nat) × (Ins → Nat),
  p ∈ [(Instr.ld, 0x32, formLd, ldAddr, ldWidth, ldWidth), (Instr.st, 0x33, formSt, ldAddr, ldWidth, ldWidth),
    (Instr.vld, 0x2A, formVld, vecAddr, fun i => vecBytes (insType i), fun i => vecAlign (insType i)),
    (Instr.vst, 0x2B, formVst, vecAddr, fun i => vecBytes (insType i), fun i => vecAlign (insType i))] →
  Runs p.1 p.2.1 p.2.2.1
    (fun d st i => addr = p.2.2.2.1 i (stallOf d st) ∧ localRange addr (p.2.2.2.2.1 i) = none)
    (fun d st _ => StopsAt st 0x04 (addr.toNat % 2 ^ 32) d) ∧
  Runs p.1 p.2.1 p.2.2.1
    (fun d st i => addr = p.2.2.2.1 i (stallOf d st) ∧ localRange addr (p.2.2.2.2.1 i) ≠ none ∧
      addr.toNat % p.2.2.2.2.2 i ≠ 0)
    (fun d st _ => StopsAt st 0x05 (addr.toNat % 2 ^ 32) d)) ∧
  (
  ∀ addr : W64, ∀ p : (Nat → Instr) × Nat × (Ins → Option Form) × (Ins → Stall → W64) × (Ins → Stall → Nat) × (Ins → Bool),
  p ∈ [(Instr.copy, 0x34, formCopy, fun i x => sGet x i.a, copyLen, fun _ => true),
    (Instr.fill, 0x35, formCopy, fun i x => sGet x i.d, copyLen, fun _ => true),
    (Instr.put, 0x50, formPut, fun i x => sGet x i.a, fun i _ => bitsOf i.imm 15 0 + 1, fun _ => true),
    (Instr.putS, 0x51, formPutS, fun i x => sGet x i.a, fun i _ => bitsOf i.imm 15 0 + 1, fun i => !bitAt i.imm 25),
    (Instr.putF, 0x52, formPutF, fun i x => sGet x i.a, fun i _ => bitsOf i.imm 15 0 + 1, fun _ => true),
    (Instr.get, 0x53, formPut, fun i x => sGet x i.a, fun i _ => bitsOf i.imm 15 0 + 1, fun _ => true),
    (Instr.attnGo, 0x60, formAttn, fun i x => sGet x i.a + sextImm i 32, fun _ _ => 64, fun _ => true)] →
  Runs p.1 p.2.1 p.2.2.1
    (fun d st i => addr = p.2.2.2.1 i (stallOf d st) ∧ 0 < p.2.2.2.2.1 i (stallOf d st) ∧ p.2.2.2.2.2 i = true ∧
      localRange addr (p.2.2.2.2.1 i (stallOf d st)) = none)
    (fun d st _ => StopsAt st 0x04 (addr.toNat % 2 ^ 32) d)) ∧
  Runs .copy 0x34 formCopy
    (fun d st i =>
      let x := stallOf d st
      0 < copyLen i x ∧ localRange (sGet x i.a) (copyLen i x) ≠ none ∧ localRange (sGet x i.d) (copyLen i x) = none)
    (fun d st i => StopsAt st 0x04 ((sGet (stallOf d st) i.d).toNat % 2 ^ 32) d)

/-! ### Slots -/

/-- R170 to R174: LD.W loads a full slot into a vector pair and, unless KEEP, empties it; ST.F fills an empty slot from a
pair; SLOT.SET and SLOT.CLR set and clear the flags of a run. LD.W waits at an empty slot and ST.F at a full one; a slot beyond
the buffer stops the routine with SLOT_RANGE (R194). R215: where a PUT.F waits at a full slot that an LD.W or a SLOT.CLR
empties, it is performed: the LD.W loads the old bytes, the PUT.F's stand in the slot, and the slot is full again. -/
def Obligations.SlotInstructionsWaitAndTransfer : Prop :=
  (
    ∀ b n,
    Runs .ldW 0x40 formLdW
      (fun d st i =>
        let x := stallOf d st
        b = slotBuf i ∧ n = slotNum i x ∧ SlotsOk d st b n 1 ∧ flagOf x b n = true ∧ x.hold = [])
      (fun d st i e =>
        let x := stallOf d st
        let y := stallOf e st
        StallReads st d e ∧
        ReadMoves (fun x y => { x with vreg := y.vreg, tFlags := y.tFlags, bFlags := y.bFlags }) x y ∧
        flagOf y b n = bitAt i.mod 1 ∧ (∀ c m, c < 2 → ¬ (c = b ∧ m = n) → flagOf y c m = flagOf x c m) ∧
        ∀ v k, k < 64 → vLane y v k =
          if bitAt i.mod 2 = false ∧ (v = i.d ∨ v = i.d + 1) then
            BitVec.ofNat 32 (fieldAt (sramRead d st b (512 * n) 512) (256 * (v - i.d) + 4 * k) 4)
          else vLane x v k) ∧
    Runs .stF 0x41 formStF
      (fun d st i =>
        let x := stallOf d st
        b = slotBuf i ∧ n = slotNum i x ∧ SlotsOk d st b n 1 ∧ flagOf x b n = false)
      (fun d st i e =>
        let x := stallOf d st
        let y := stallOf e st
        StallOnly st d e ∧
        Moves (x.pc + 1)
          (fun x y => { x with trough := y.trough, bin := y.bin, manger := y.manger, tFlags := y.tFlags,
                               bFlags := y.bFlags }) x y ∧
        flagOf y b n = true ∧ (∀ c m, c < 2 → ¬ (c = b ∧ m = n) → flagOf y c m = flagOf x c m) ∧
        (∀ k, k < 512 → byteOf y b (512 * n + k) = some ((pairBytes x i.b).getD k 0)) ∧ BytesBut b (512 * n) 512 x y) ∧
    Runs .slotSet 0x42 formSlot
      (fun d st i => b = slotBuf i ∧ n = slotNum i (stallOf d st) ∧ SlotsOk d st b n (slotRun i))
      (fun d st i e =>
        let x := stallOf d st
        let y := stallOf e st
        StallOnly st d e ∧ Moves (x.pc + 1) (fun x y => { x with tFlags := y.tFlags, bFlags := y.bFlags }) x y ∧
        ∀ c m, c < 2 → flagOf y c m = (if c = b ∧ n ≤ m ∧ m < n + slotRun i then true else flagOf x c m)) ∧
    Runs .slotClr 0x43 formSlot
      (fun d st i => b = slotBuf i ∧ n = slotNum i (stallOf d st) ∧ SlotsOk d st b n (slotRun i) ∧
        (stallOf d st).hold = [])
      (fun d st i e =>
        let x := stallOf d st
        let y := stallOf e st
        StallOnly st d e ∧ Moves (x.pc + 1) (fun x y => { x with tFlags := y.tFlags, bFlags := y.bFlags }) x y ∧
        ∀ c m, c < 2 → flagOf y c m = (if c = b ∧ n ≤ m ∧ m < n + slotRun i then false else flagOf x c m))) ∧
  (
    (∀ b n, Runs .ldW 0x40 formLdW
      (fun d st i => b = slotBuf i ∧ n = slotNum i (stallOf d st) ∧ SlotsOk d st b n 1 ∧
        flagOf (stallOf d st) b n = false)
      (fun d st _ => HeldOn st (.slotW (b == 1) n) d)) ∧
    (∀ b n, Runs .stF 0x41 formStF
      (fun d st i => b = slotBuf i ∧ n = slotNum i (stallOf d st) ∧ SlotsOk d st b n 1 ∧
        flagOf (stallOf d st) b n = true)
      (fun d st _ => HeldOn st (.slotS (b == 1) n) d)) ∧
    ∀ p : (Nat → Instr) × Nat × (Ins → Option Form) × (Ins → Nat),
      p ∈ [(Instr.ldW, 0x40, formLdW, fun _ => 1), (Instr.stF, 0x41, formStF, fun _ => 1),
        (Instr.slotSet, 0x42, formSlot, slotRun), (Instr.slotClr, 0x43, formSlot, slotRun)] →
      ∀ n, Runs p.1 p.2.1 p.2.2.1
        (fun d st i => n = slotNum i (stallOf d st) ∧ slotCount (slotBuf i) < n + p.2.2.2 i)
        (fun d st i => StopsAt st 0x06 (max n (slotCount (slotBuf i)) % 2 ^ 32) d)) ∧
  (
    ∀ b n id o, ∀ p : (Nat → Instr) × Nat × (Ins → Option Form) × (Ins → Nat) × (Ins → Bool) × (Ins → Bool),
    p ∈ [(Instr.ldW, 0x40, formLdW, fun _ => 1, fun i => !bitAt i.mod 1, fun i => !bitAt i.mod 2),
      (Instr.slotClr, 0x43, formSlot, slotRun, fun _ => true, fun _ => false)] →
    Runs p.1 p.2.1 p.2.2.1
      (fun d st i =>
        let x := stallOf d st
        b = slotBuf i ∧ n = slotNum i x ∧ p.2.2.2.1 i = 1 ∧ p.2.2.2.2.1 i = true ∧ SlotsOk d st b n 1 ∧
          flagOf x b n = true ∧ x.hold = [id] ∧ WaitsAtSlot d st b n id o)
      (fun d st i e =>
        let x := stallOf d st
        let y := stallOf e st
        flagOf y b n = true ∧ y.hold = [] ∧ Performed id o [] e ∧ y.pc = x.pc + 1 ∧ y.held = none ∧
          (∀ k, k < o.op.data.length → byteOf y b (gOff o.op.addr + k) = some (o.op.data.getD k 0)) ∧
          BytesBut b (gOff o.op.addr) o.op.data.length x y ∧
          (∀ c m, c < 2 → ¬ (c = b ∧ m = n) → flagOf y c m = flagOf x c m) ∧ y.sreg = x.sreg ∧ y.preg = x.preg ∧
          ∀ v k, k < 64 → vLane y v k =
            if p.2.2.2.2.2 i = true ∧ (v = i.d ∨ v = i.d + 1) then
              BitVec.ofNat 32 (fieldAt (sramRead d st b (512 * n) 512) (256 * (v - i.d) + 4 * k) 4)
            else vLane x v k))

/-! ### Remote operations, fences, counters -/

/-- R49, R50, R51, R53, R175 to R179: each remote instruction completes by sending its operation on its way to its home,
with its target, its bytes and its completion counter. -/
def Obligations.RemoteInstructionsSend : Prop :=
  (∀ buf off, ∀ p ∈ [(Instr.put, 0x50, formPut, RemKind.put), (Instr.putF, 0x52, formPutF, RemKind.putF)],
    Runs p.1 p.2.1 p.2.2.1
      (fun d st i => MaySend d st ∧ LocalOk d st (sGet (stallOf d st) i.a) (bitsOf i.imm 15 0 + 1) 1 buf off ∧
        HasHome d p.2.2.2 (aGet (stallOf d st) i.d + sGet (stallOf d st) i.b) (bitsOf i.imm 15 0 + 1))
      (fun d st i => SendsOp st i p.2.2.2 (aGet (stallOf d st) i.d + sGet (stallOf d st) i.b)
        (sramRead d st buf off (bitsOf i.imm 15 0 + 1)) (bitsOf i.imm 15 0 + 1) 0 0 d)) ∧
  (∀ buf off, Runs .putS 0x51 formPutS
    (fun d st i => bitAt i.imm 25 = false ∧ MaySend d st ∧
      LocalOk d st (sGet (stallOf d st) i.a) (bitsOf i.imm 15 0 + 1) 1 buf off ∧
      HasHome d .putS (aGet (stallOf d st) i.d + sGet (stallOf d st) i.b) (bitsOf i.imm 15 0 + 1))
    (fun d st i => SendsOp st i .putS (aGet (stallOf d st) i.d + sGet (stallOf d st) i.b)
      (sramRead d st buf off (bitsOf i.imm 15 0 + 1)) (bitsOf i.imm 15 0 + 1) (bitsOf i.imm 24 21) 0 d)) ∧
  Runs .putS 0x51 formPutS
    (fun d st i => bitAt i.imm 25 = true ∧ MaySend d st ∧
      HasHome d .putS (aGet (stallOf d st) i.d + sGet (stallOf d st) i.b) 0)
    (fun d st i => SendsOp st i .putS (aGet (stallOf d st) i.d + sGet (stallOf d st) i.b) [] 0 (bitsOf i.imm 24 21) 0
      d) ∧
  (∀ buf off, Runs .get 0x53 formPut
    (fun d st i => MaySend d st ∧ LocalOk d st (sGet (stallOf d st) i.a) (bitsOf i.imm 15 0 + 1) 1 buf off ∧
      HasHome d .get (aGet (stallOf d st) i.d + sGet (stallOf d st) i.b) (bitsOf i.imm 15 0 + 1))
    (fun d st i => SendsOp st i .get (aGet (stallOf d st) i.d + sGet (stallOf d st) i.b) [] (bitsOf i.imm 15 0 + 1) 0
      (buf * 2 ^ 18 + off) d)) ∧
  (∀ p ∈ [(Instr.aaddI32, 0x54, RemKind.aaddI32, 4), (Instr.aaddF32, 0x55, RemKind.aaddF32, 4),
      (Instr.aaddBf16, 0x56, RemKind.aaddBf16, 2)],
    Runs p.1 p.2.1 formAadd
      (fun d st i => MaySend d st ∧ HasHome d p.2.2.1 (aGet (stallOf d st) i.d + sGet (stallOf d st) i.b)
        (p.2.2.2 * (bitsOf i.imm 5 0 + 1)))
      (fun d st i => SendsOp st i p.2.2.1 (aGet (stallOf d st) i.d + sGet (stallOf d st) i.b)
        ((List.range (bitsOf i.imm 5 0 + 1)).flatMap fun j => toLe p.2.2.2 (vLane (stallOf d st) i.a j).toNat)
        (p.2.2.2 * (bitsOf i.imm 5 0 + 1)) 0 0 d)) ∧
  (∀ p ∈ [(Instr.faddI32, 0x57, RemKind.faddI32, 4), (Instr.faddI64, 0x58, RemKind.faddI64, 8)],
    Runs p.1 p.2.1 formFadd
      (fun d st i => MaySend d st ∧ HasHome d p.2.2.1 (aGet (stallOf d st) i.a) p.2.2.2)
      (fun d st i => SendsOp st i p.2.2.1 (aGet (stallOf d st) i.a) (toLe p.2.2.2 (sGet (stallOf d st) i.b).toNat)
        p.2.2.2 0 i.d d))

/-- R45, R46, R61, R179: a remote instruction whose target is a violation that its stall finds, or lies on a module that it
cannot reach, completes without effect: its operation is complete at once, returns zeros, is counted at its stall, and adds
to its completion counter like any other. That an unreachable module, a PUT.S outside space 0x0 and a forbidden space are found
and counted at the issuing stall is DEDUCED (log 22). -/
def Obligations.RemoteViolationsCompleteAtOnce : Prop :=
  ∀ p : (Nat → Instr) × Nat × (Ins → Option Form) × RemKind × (Ins → Stall → W64) × (Ins → Nat) × (Ins → Bool),
  p ∈ [(Instr.put, 0x50, formPut, .put, target, remLen, fun _ => true),
    (Instr.putS, 0x51, formPutS, .putS, target, fun i => if bitAt i.imm 25 then 0 else remLen i,
      fun i => !bitAt i.imm 25),
    (Instr.putF, 0x52, formPutF, .putF, target, remLen, fun _ => true),
    (Instr.get, 0x53, formPut, .get, target, remLen, fun _ => true),
    (Instr.aaddI32, 0x54, formAadd, .aaddI32, target, fun i => 4 * (bitsOf i.imm 5 0 + 1), fun _ => false),
    (Instr.aaddF32, 0x55, formAadd, .aaddF32, target, fun i => 4 * (bitsOf i.imm 5 0 + 1), fun _ => false),
    (Instr.aaddBf16, 0x56, formAadd, .aaddBf16, target, fun i => 2 * (bitsOf i.imm 5 0 + 1), fun _ => false),
    (Instr.faddI32, 0x57, formFadd, .faddI32, fun i x => aGet x i.a, fun _ => 4, fun _ => false),
    (Instr.faddI64, 0x58, formFadd, .faddI64, fun i x => aGet x i.a, fun _ => 8, fun _ => false)] →
  ∀ buf off, Runs p.1 p.2.1 p.2.2.1
    (fun d st i => MaySend d st ∧ ¬ HasHome d p.2.2.2.1 (p.2.2.2.2.1 i (stallOf d st)) (p.2.2.2.2.2.1 i) ∧
      (p.2.2.2.2.2.2 i = true → LocalOk d st (sGet (stallOf d st) i.a) (p.2.2.2.2.2.1 i) 1 buf off))
    (fun d st i e => FailsOp st i p.2.2.2.1 (p.2.2.2.2.2.1 i) d e)

/-- R65, R63: a fence passes when no operation of its scope is outstanding and WAITC when its counter has reached the
value in serial order; otherwise each waits. -/
def Obligations.FencesAndWaitc : Prop :=
  (∀ p : (Nat → Instr) × Nat × (Dev → Nat → RemOp → Prop),
    p ∈ [(Instr.fenceD, 0x59, fun d st o =>
        holdsIndex d (gModule o.op.addr) = true ∧ gSpace o.op.addr = 0 ∧ gDie o.op.addr = st / 256),
      (Instr.fenceY, 0x5A, fun d _ o => holdsIndex d (gModule o.op.addr) = true),
      (Instr.fenceP, 0x5B, fun _ _ _ => True)] →
    Runs p.1 p.2.1 formPlain
      (fun d st _ => ∀ o ∈ d.ops, o.own = true → o.op.srcStall = st → ¬ p.2.2 d st o)
      (fun d st _ e => StallOnly st d e ∧ Moves ((stallOf d st).pc + 1) (fun x _ => x) (stallOf d st) (stallOf e st)) ∧
    Runs p.1 p.2.1 formPlain
      (fun d st _ => ∃ o ∈ d.ops, o.own = true ∧ o.op.srcStall = st ∧ p.2.2 d st o)
      (fun d st _ => HeldOn st .drain d)) ∧
  (∀ gap : W32,
    Runs .waitc 0x5C formWaitc
      (fun d st i => gap = cGet (stallOf d st) i.d - (sGet (stallOf d st) i.a + sextImm i 32).setWidth 32 ∧
        gap.toNat < 2 ^ 31)
      (fun d st _ e => StallOnly st d e ∧ Moves ((stallOf d st).pc + 1) (fun x _ => x) (stallOf d st) (stallOf e st)) ∧
    Runs .waitc 0x5C formWaitc
      (fun d st i => gap = cGet (stallOf d st) i.d - (sGet (stallOf d st) i.a + sextImm i 32).setWidth 32 ∧
        2 ^ 31 ≤ gap.toNat)
      (fun d st _ => HeldOn st .counter d))

/-! ### Routine boundaries and ends -/

/-- R187 to R190: YIELD is a routine boundary before the next instruction; EPOCH reads the held epoch, and with WAIT is a
boundary that waits until the held epoch reaches the value; EPOCH_WAIT_END ends that wait. R87, R140: a stall that is Idle,
or that an EPOCH holds, adopts what waits. R44, R192, R542: a pending retirement takes hold, and the routine ends with
RETIRED. -/
def Obligations.BoundariesAdoptEpochs : Prop :=
  (
    Runs .yield 0x75 formPlain (fun d st _ => NoSwap d st) (fun d st _ e =>
      Adopts st d e ∧ Moves ((stallOf d st).pc + 1) adoptedOf (stallOf d st) (stallOf e st)) ∧
    Runs .epoch 0x76 formEpoch (fun _ _ i => bitAt i.mod 0 = false) (fun d st i e => StallOnly st d e ∧
      WritesScalar i.d ((stallOf d st).epoch.setWidth 64) (stallOf d st) (stallOf e st)) ∧
    (∀ n held : W32,
      Runs .epoch 0x76 formEpoch
        (fun d st i => bitAt i.mod 0 = true ∧ NoSwap d st ∧
          n = (sGet (stallOf d st) i.a + sextImm i 32).setWidth 32 ∧
          held = (stallOf d st).posted.getD (stallOf d st).epoch ∧ (held - n).toNat < 2 ^ 31)
        (fun d st i e => Adopts st d e ∧
          Moves ((stallOf d st).pc + 1) (fun x y => { adoptedOf x y with sreg := y.sreg }) (stallOf d st) (stallOf e st) ∧
          ∀ m, sGet (stallOf e st) m = if m = i.d ∧ m ≠ 0 then held.setWidth 64 else sGet (stallOf d st) m) ∧
      Runs .epoch 0x76 formEpoch
        (fun d st i => bitAt i.mod 0 = true ∧ NoSwap d st ∧
          n = (sGet (stallOf d st) i.a + sextImm i 32).setWidth 32 ∧
          held = (stallOf d st).posted.getD (stallOf d st).epoch ∧ 2 ^ 31 ≤ (held - n).toNat)
        (fun d st i e => Adopts st d e ∧ (stallOf e st).held.map (·.why) = some (.epoch n i.d) ∧
          stallOf e st = { adoptedOf (stallOf d st) (stallOf e st) with held := (stallOf e st).held })) ∧
    ∀ st n dest raised, Answers (.epochWaitEnd st)
      (fun d => (stallOf d st).mode = .running ∧ (stallOf d st).held = some { why := .epoch n dest, raised := raised } ∧
        ((stallOf d st).epoch - n).toNat < 2 ^ 31)
      (fun d e => StallOnly st d e ∧
        WritesScalar dest ((stallOf d st).epoch.setWidth 64) (stallOf d st) (stallOf e st))) ∧
  (
    ∀ st, Answers (.idleAdopt st)
      (fun d => ((stallOf d st).mode = .idle ∨ ((stallOf d st).mode = .running ∧ epochHeld (stallOf d st) = true)) ∧
        NoSwap d st ∧ ((stallOf d st).posted ≠ none ∨ ∃ k, k < 34 ∧ (bankOf d (34 * st + k)).pend ≠ none))
      (fun d e => Adopts st d e ∧ stallOf e st = adoptedOf (stallOf d st) (stallOf e st))) ∧
  (
    Runs .yield 0x75 formPlain
      (fun d st _ => (stallOf d st).pendingSpare = none ∧ (stallOf d st).pendingRetire = true)
      (fun _ st _ e => (stallOf e st).gone = true ∧ (stallOf e st).pendingRetire = false ∧
        (stallOf e st).mode = .draining ∧ (stallOf e st).faultCode = 0x10 ∧ (stallOf e st).hold = []))

/-- R137, R192, R195: HALT drains; ROUTINE_END, when all of the routine is done, and DRAIN_END, when its crib and attention
work is, leave the stall Idle and tell its command how the routine ended.
That the stall is Draining while HALT waits is read from the states of a stall (log 15). -/
def Obligations.RoutinesEnd : Prop :=
  Runs .halt 0x77 formPlain anyTime (fun d st _ e => StallOnly st d e ∧
    stallOf e st = { stallOf d st with mode := .draining, ending := some .halt, held := (stallOf e st).held }) ∧
  (∀ st, Answers (.routineEnd st)
    (fun d => (stallOf d st).mode = .draining ∧ (stallOf d st).ending = some .halt ∧
      accessesPending d st = false ∧ opsOf d st = [])
    (fun d e => SparesOthers st d e ∧ Learns st 0 d e ∧
      stallOf e st = { stallOf d st with mode := .idle, owner := none, ending := none, held := none, busy := false })) ∧
  (∀ st, Answers (.drainEnd st)
    (fun d => (stallOf d st).mode = .draining ∧ (stallOf d st).ending = some .fault ∧
      accessesPending d st = false ∧ (stallOf d st).gone = false ∧ NoSwap d st)
    (fun d e => Learns st (faultWord (stallOf d st)) d e ∧ Adopts st d e ∧ e.mem = d.mem ∧ e.ops = d.ops ∧
      stallOf e st = { adoptedOf (stallOf d st) (stallOf e st) with
        mode := .idle, owner := none, ending := none, held := none, busy := false }))

/-! ### Errors and watchdogs of a stall -/

/-- R165, R185, R193, R195, R197, R198, R274, R527: RESIDUE, LOCKSTEP and a fetch that fails stop the routine with their
fault; its FADDs that are not complete write no register from then on, and nothing else of it, of its memory or of another
stall changes. A residue found when the routine has ended is counted only. R199, R200, R217, R218: each watchdog event counts
in WATCHDOG_COUNT of its stall and is remembered, so that it comes once. That an index out of range gives its low 12 bits in
PC and its low 32 in DETAIL is the model's choice (log 50). -/
def Obligations.DetectedErrorsAndWatchdogs : Prop :=
  (
    (∀ st idx w, Answers (.residue st idx)
      (fun d => active (stallOf d st) = true ∧ idx < 4096 ∧ idx < (stallOf d st).limit ∧
        mget none (stallOf d st).store idx = some w ∧ residueChecked w = true)
      (fun d e => SparesOthers st (orphanOps d st) e ∧
        ctrOf e (stallReg st 0xA0) = satAdd (ctrOf d (stallReg st 0xA0)) 1 ∧
        stallOf e st = faulted (stallOf d st) 0x0D idx (stallOf d st).pc)) ∧
    (∀ st idx w, Answers (.residue st idx)
      (fun d => (stallOf d st).mode = .draining ∧ (stallOf d st).ending ≠ some .halt ∧ idx < 4096 ∧
        idx < (stallOf d st).limit ∧ mget none (stallOf d st).store idx = some w ∧ residueChecked w = true)
      (CountsOnly (stallReg st 0xA0))) ∧
    (∀ st idx, Answers (.lockstep st idx)
      (fun d => active (stallOf d st) = true ∧ idx < 4096)
      (fun d e => SparesOthers st (orphanOps d st) e ∧
        stallOf e st = faulted (stallOf d st) 0x0E idx (stallOf d st).pc)) ∧
    (∀ st pathError, Answers (.fetchFault st pathError)
      (fun d => (stallOf d st).mode = .running ∧ epochHeld (stallOf d st) = false ∧
        (stallOf d st).limit ≤ (stallOf d st).pc)
      (fun d e => SparesOthers st (orphanOps d st) e ∧
        stallOf e st = faulted (stallOf d st) 0x03 (stallOf d st).pc (stallOf d st).pc)) ∧
    (∀ st pathError, Answers (.fetchFault st pathError)
      (fun d => (stallOf d st).mode = .running ∧ epochHeld (stallOf d st) = false ∧
        (stallOf d st).pc < (stallOf d st).limit ∧
        (fetchWord (stallOf d st) = none ∨ (pathError = true ∧ (stallOf d st).held = none)))
      (fun d e => SparesOthers st (orphanOps d st) e ∧
        stallOf e st = faulted (stallOf d st) 0x02 (stallOf d st).pc (stallOf d st).pc)) ∧
    ∀ st w, Answers (.fetchFault st false)
      (fun d => (stallOf d st).mode = .running ∧ epochHeld (stallOf d st) = false ∧
        fetchWord (stallOf d st) = some w ∧ opcodes.contains (insOf w).op = false)
      (fun d e => SparesOthers st (orphanOps d st) e ∧
        stallOf e st = faulted (stallOf d st) 0x01 (w.toNat / 2 ^ 32) (stallOf d st).pc)) ∧
  (
    (∀ st w, Answers (.watchdog st)
      (fun d => (stallOf d st).held = some { why := w, raised := false } ∧ w ≠ .scoreboard ∧ w ≠ .solve)
      (fun d e => SparesOthers st d e ∧
        ctrOf e (stallReg st 0x20) = satAdd (ctrOf d (stallReg st 0x20)) 1 ∧
        stallOf e st = { stallOf d st with held := some { why := w, raised := true } })) ∧
    (∀ st, Answers (.boundaryLate st)
      (fun d => (stallOf d st).mode = .running ∧ (stallOf d st).lateRaised = false ∧ epochHeld (stallOf d st) = false)
      (fun d e => SparesOthers st d e ∧
        ctrOf e (stallReg st 0x20) = satAdd (ctrOf d (stallReg st 0x20)) 1 ∧
        stallOf e st = { stallOf d st with lateRaised := true })) ∧
    ∀ id o, Answers (.slotJam id)
      (fun d => opOf d id = some o ∧ o.phase = .holding ∧ o.op.kind = .putF ∧ behind d (gStall o.op.addr) o = false ∧
        id ∉ (stallOf d (gStall o.op.addr)).jammed)
      (fun d e => SparesOthers (gStall o.op.addr) d e ∧
        ctrOf e (stallReg (gStall o.op.addr) 0x20) = satAdd (ctrOf d (stallReg (gStall o.op.addr) 0x20)) 1 ∧
        stallOf e (gStall o.op.addr) =
          { stallOf d (gStall o.op.addr) with jammed := (stallOf d (gStall o.op.addr)).jammed ++ [id] }))

/-- R138, R188, R452: ROUTINE_START places the image, the arguments in s1 to s8 and the stall's number in s9, and sets the
program counter to the entry; the routine runs for its command. -/
def Obligations.RoutineStartsWithItsArguments : Prop :=
  ∀ cid st c, Answers (.routineStart cid st) (fun d => cmdOf d cid = some c ∧ mayStart d c st = true)
    (fun d e =>
      let x := stallOf d st
      let y := stallOf e st
      y.mode = .running ∧ y.owner = some c.cid ∧ y.pc = pEntry c ∧ y.limit = pImageLen c ∧ y.rstack = [] ∧
      y.held = none ∧ y.faultCode = 0 ∧ y.creg = x.creg ∧ y.sel = x.sel ∧ y.epoch = x.epoch ∧
      y.thresh = BitVec.ofNat 8 (pThresh c) ∧
      (∀ k, 1 ≤ k → k ≤ 8 → sGet y k = BitVec.ofNat 64 (fieldAt c.bytes (8 * (k - 1)) 8)) ∧
      sGet y 9 = BitVec.ofNat 64 (stallNumber d st) ∧
      (∀ k, k < pImageLen c → mget none y.store k = some (BitVec.ofNat 64 (fieldAt (imageBytes c) (8 * k) 8))) ∧
      (∀ k, pImageLen c ≤ k → mget none y.store k = mget none x.store k) ∧
      e.mem = d.mem ∧ e.banks = d.banks ∧ e.ops = d.ops ∧ ∀ j, j ≠ st → stallOf e j = stallOf d j)

/-- R145, R194: an instruction in a form that is not allowed stops its routine with ILLEGAL and its upper word; R148: one
that names a register for which a FADD is outstanding waits. For every fetched instruction. That a predicate or counter field
which its enable bit leaves unused must be 0 is DEDUCED (log 21). -/
def Obligations.IllegalFormsStopAndPendingRegistersHold : Prop :=
  ∀ p ∈ seqRows, ∀ s st w, AtInstr s.dev st (insOf w) → fetchWord (stallOf s.dev st) = some w → (insOf w).op = p.2.1 →
    ((p.2.2 (insOf w) = none ∨ ∃ fm, p.2.2 (insOf w) = some fm ∧ formOk fm (insOf w) = false) →
      ∃ t, exec (p.1 st) s = .next t ∧ t.pending = s.pending ∧ StopsAt st 0x01 (w.toNat / 2 ^ 32) s.dev t.dev) ∧
    ∀ fm, p.2.2 (insOf w) = some fm → formOk fm (insOf w) = true → hazard s.dev st fm (insOf w) = true →
      ∃ t, exec (p.1 st) s = .next t ∧ t.pending = s.pending ∧ HeldOn st .scoreboard s.dev t.dev

/-! ### Cribs -/

/-- R154, R155: CRIB.MVM issues an operation over its mask's cribs in ascending order with the selected banks, under the held
epoch; an empty mask does nothing; CRIB.BANK selects a Live bank on every crib of its mask; CRIB.PROBE (R125, R156) issues
a probe of one bank. Memory and banks are as before. R194: their range and bank faults, the slots of TALL and the tiles of
WIDE taken together; each check stands before the next. -/
def Obligations.CribInstructionsIssueOrFault : Prop :=
  (
    (∀ n t cs, Runs .cribMvm 0x10 formCribMvm
      (fun d st i =>
        let x := stallOf d st
        n = cribSlot i x ∧ t = cribTile i x ∧ cs = (List.range 16).filter (fun c => bitAt (bitsOf i.imm 15 0) c) ∧
        cs ≠ [] ∧ n + (if bitAt i.mod 2 then 2 * cs.length - 1 else 1) ≤ 383 ∧
        t + (if bitAt i.mod 2 then 0 else cs.length - 1) ≤ 31 ∧ (∀ c ∈ cs, mget none x.sel c ≠ none) ∧
        tilesFree d st (bitAt i.mod 0) (t, if bitAt i.mod 2 then 1 else cs.length) = true)
      (fun d st i e =>
        let x := stallOf d st
        e.mem = d.mem ∧ e.banks = d.banks ∧ (∀ j, j ≠ st → stallOf e j = stallOf d j) ∧
        Moves (x.pc + 1) (fun x y => { x with cribOps := y.cribOps }) x (stallOf e st) ∧
        ∃ o, (stallOf e st).cribOps = x.cribOps ++ [o] ∧ o.id = d.nextId ∧ o.probe = false ∧
          o.cribs = cs.map (physOf d st) ∧ o.banks = (cs.map fun c => if mget none x.sel c = some true then 1 else 0) ∧
          o.add = bitAt i.mod 0 ∧ o.clip = bitAt i.mod 1 ∧ o.tall = bitAt i.mod 2 ∧ o.slot = n ∧ o.tile = t ∧
          o.reps = 2 ^ bitsOf i.imm 31 30 ∧ o.epoch = x.epoch ∧ o.started = false)) ∧
    Runs .cribMvm 0x10 formCribMvm (fun _ _ i => bitsOf i.imm 15 0 = 0)
      (fun d st _ e => StallOnly st d e ∧ Moves ((stallOf d st).pc + 1) (fun x _ => x) (stallOf d st) (stallOf e st)) ∧
    (∀ b : Bool, Runs .cribBank 0x11 formCribBank
      (fun d st i => b = bitAt i.mod 0 ∧ ∀ c, c < 16 → bitAt (bitsOf i.imm 15 0) c = true →
        liveIn d (stallOf d st).epoch st c (if b then 1 else 0) = true)
      (fun d st i e => StallOnly st d e ∧
        Moves ((stallOf d st).pc + 1) (fun x y => { x with sel := y.sel }) (stallOf d st) (stallOf e st) ∧
        ∀ c, mget none (stallOf e st).sel c =
          if c < 16 ∧ bitAt (bitsOf i.imm 15 0) c = true then some b else mget none (stallOf d st).sel c)) ∧
    ∀ ph, Runs .cribProbe 0x12 formCribProbe
      (fun d st i => ph = physOf d st (bitsOf i.imm 3 0) ∧ bitsOf i.imm 24 16 ≤ 382 ∧ bitsOf i.imm 29 25 ≤ 30 ∧
        ((bankOf d (bankKey st ph (bitsOf i.mod 0 0))).state = .live ∨
          (bankOf d (bankKey st ph (bitsOf i.mod 0 0))).state = .ready) ∧
        tilesFree d st false (bitsOf i.imm 29 25, 2) = true)
      (fun d st i e =>
        let x := stallOf d st
        e.mem = d.mem ∧ e.banks = d.banks ∧ (∀ j, j ≠ st → stallOf e j = stallOf d j) ∧
        Moves (x.pc + 1) (fun x y => { x with cribOps := y.cribOps }) x (stallOf e st) ∧
        ∃ o, (stallOf e st).cribOps = x.cribOps ++ [o] ∧ o.id = d.nextId ∧ o.probe = true ∧ o.cribs = [ph] ∧
          o.banks = [bitsOf i.mod 0 0] ∧ o.slot = bitsOf i.imm 24 16 ∧ o.tile = bitsOf i.imm 29 25 ∧ o.started = false)) ∧
  (
    (∀ n t cs,
      Runs .cribMvm 0x10 formCribMvm
        (fun d st i => n = cribSlot i (stallOf d st) ∧
          cs = (List.range 16).filter (fun c => bitAt (bitsOf i.imm 15 0) c) ∧ cs ≠ [] ∧
          383 < n + (if bitAt i.mod 2 then 2 * cs.length - 1 else 1))
        (fun d st _ => StopsAt st 0x06 (max n 384 % 2 ^ 32) d) ∧
      Runs .cribMvm 0x10 formCribMvm
        (fun d st i => n = cribSlot i (stallOf d st) ∧ t = cribTile i (stallOf d st) ∧
          cs = (List.range 16).filter (fun c => bitAt (bitsOf i.imm 15 0) c) ∧ cs ≠ [] ∧
          n + (if bitAt i.mod 2 then 2 * cs.length - 1 else 1) ≤ 383 ∧
          31 < t + (if bitAt i.mod 2 then 0 else cs.length - 1))
        (fun d st _ => StopsAt st 0x07 (max t 32 % 2 ^ 32) d) ∧
      ∀ c, Runs .cribMvm 0x10 formCribMvm
        (fun d st i => n = cribSlot i (stallOf d st) ∧ t = cribTile i (stallOf d st) ∧
          cs = (List.range 16).filter (fun c => bitAt (bitsOf i.imm 15 0) c) ∧
          n + (if bitAt i.mod 2 then 2 * cs.length - 1 else 1) ≤ 383 ∧
          t + (if bitAt i.mod 2 then 0 else cs.length - 1) ≤ 31 ∧
          c ∈ cs ∧ mget none (stallOf d st).sel c = none ∧ ∀ b ∈ cs, b < c → mget none (stallOf d st).sel b ≠ none)
        (fun d st _ => StopsAt st 0x08 c d)) ∧
    Runs .cribProbe 0x12 formCribProbe (fun _ _ i => 382 < bitsOf i.imm 24 16)
      (fun d st i => StopsAt st 0x06 (max (bitsOf i.imm 24 16) 384) d) ∧
    Runs .cribProbe 0x12 formCribProbe (fun _ _ i => bitsOf i.imm 24 16 ≤ 382 ∧ 30 < bitsOf i.imm 29 25)
      (fun d st i => StopsAt st 0x07 (max (bitsOf i.imm 29 25) 32) d) ∧
    (∀ ph, Runs .cribProbe 0x12 formCribProbe
      (fun d st i => ph = physOf d st (bitsOf i.imm 3 0) ∧ bitsOf i.imm 24 16 ≤ 382 ∧ bitsOf i.imm 29 25 ≤ 30 ∧
        (bankOf d (bankKey st ph (bitsOf i.mod 0 0))).state ≠ .live ∧
        (bankOf d (bankKey st ph (bitsOf i.mod 0 0))).state ≠ .ready)
      (fun d st i => StopsAt st 0x0A (2 * bitsOf i.imm 3 0 + bitsOf i.mod 0 0) d)) ∧
    (∀ c, Runs .cribBank 0x11 formCribBank
      (fun d st i => c < 16 ∧ bitAt (bitsOf i.imm 15 0) c = true ∧
        liveIn d (stallOf d st).epoch st c (bitsOf i.mod 0 0) = false ∧
        ∀ b, b < c → bitAt (bitsOf i.imm 15 0) b = true →
          liveIn d (stallOf d st).epoch st b (bitsOf i.mod 0 0) = true)
      (fun d st _ => StopsAt st 0x09 c d)))

/-- R92, R110, R577: CRIB_START reads the operation's inputs and takes its converting time from the credit of its cribs. R93,
R94, R222, R266: CRIB_BIN_WRITE sets each output tile, or adds to it with the saturating addition, and every other byte of
the stall's buffers is as before; R120: of the banks only what the farrier has seen of their reference columns changes. R125:
a probe writes its outputs and, in the next tile, its 32 reference outputs. SIDE_FETCH_RETURN takes one awaited read off the
operation, in its turn (R273).
The converter's codes are free values (log 5), the same for an operation from its start on (log 23). -/
def Obligations.CribOperationsStartAndWrite : Prop :=
  (
    ∀ st op tick o, Answers (.cribStart st op tick)
      (fun d => cribOpOf d st op = some o ∧ o.started = false ∧ cribsFree d st o = true ∧ o.cribs.Nodup ∧
        ∀ c ∈ o.cribs, 0 ≤ creditAfter d (cribKey st c) tick)
      (fun d e => e.mem = d.mem ∧ e.banks = d.banks ∧ (∀ j, j ≠ st → stallOf e j = stallOf d j) ∧
        ∃ p, cribOpOf e st op = some p ∧
          p = { o with started := true, inputs := readInputs d st o, seed := d.draws, fetches := p.fetches,
                       sampled := p.sampled } ∧
          ∀ k, k < o.cribs.length → (cribOf e (cribKey st (o.cribs.getD k 0))).credit =
            creditAfter d (cribKey st (o.cribs.getD k 0)) tick - 32 * convTime (convAt d st p k))) ∧
  (
    (∀ st op o, Answers (.cribBinWrite st op 0)
      (fun d => cribOpOf d st op = some o ∧ o.started = true ∧ sideReady d st o = true ∧ o.probe = false ∧
        o.cribs.Nodup)
      (fun d e => e.mem = d.mem ∧ (∀ k, bankOf e k = { bankOf d k with refSeen := (bankOf e k).refSeen }) ∧
        (∀ j, j ≠ st → stallOf e j = stallOf d j) ∧
        (stallOf e st).cribOps = (stallOf d st).cribOps.filter (fun p => p.id != op) ∧
        (stallOf e st).pc = (stallOf d st).pc ∧ (stallOf e st).sreg = (stallOf d st).sreg ∧
        (stallOf e st).vreg = (stallOf d st).vreg ∧
        (∀ w ∈ opWrites d st o, ∀ j b, j < 1024 → b < 4 →
          byteOf (stallOf e st) 1 (4096 * w.1 + 4 * j + b) =
            some ((toLe 4 (if o.add then
              satAddI (BitVec.ofNat 32 (fieldAt (sramRead d st 1 (4096 * w.1) 4096) (4 * j) 4)) (w.2.getD j 0)
              else w.2.getD j 0).toNat).getD b 0)) ∧
        BytesBut 1 (4096 * o.tile) (4096 * (opWrites d st o).length) (stallOf d st) (stallOf e st))) ∧
    (∀ st op o c, Answers (.cribBinWrite st op 0)
      (fun d => cribOpOf d st op = some o ∧ o.started = true ∧ o.probe = true ∧ o.add = false ∧ o.tall = false ∧
        o.cribs = [c])
      (fun d e => e.mem = d.mem ∧ (∀ k, bankOf e k = { bankOf d k with refSeen := (bankOf e k).refSeen }) ∧
        (∀ j, j ≠ st → stallOf e j = stallOf d j) ∧
        (stallOf e st).cribOps = (stallOf d st).cribOps.filter (fun p => p.id != op) ∧
        (stallOf e st).pc = (stallOf d st).pc ∧ (stallOf e st).sreg = (stallOf d st).sreg ∧
        (stallOf e st).vreg = (stallOf d st).vreg ∧
        (∀ j b, j < 1024 → b < 4 → byteOf (stallOf e st) 1 (4096 * o.tile + 4 * j + b) =
          some ((toLe 4 (sat32 (treeOut (convAt d st o 0) j)).toNat).getD b 0)) ∧
        (∀ k b, k < 32 → b < 4 → byteOf (stallOf e st) 1 (4096 * (o.tile + 1) + 4 * k + b) =
          some ((toLe 4 (BitVec.ofInt 32 (refOut (convAt d st o 0) k)).toNat).getD b 0)) ∧
        BytesBut 1 (4096 * o.tile) (4096 + 128) (stallOf d st) (stallOf e st))) ∧
    ∀ st op which o p, Answers (.sideFetchReturn st op which)
      (fun d => cribOpOf d st op = some o ∧ (o.fetches.drop which).head? = some p ∧ sideTurn d st o = true)
      (fun d e => cribOpOf e st op = some { o with fetches := o.fetches.eraseIdx which } ∧ e.mem.dram = d.mem.dram ∧
        e.banks = d.banks ∧ ∀ j, j ≠ st → stallOf e j = stallOf d j))

/-- R120 to R123, R572, R577: REFERENCE_READ takes 512 ns of converting time, and its codes are added to what the farrier has
seen of the bank; a REFIT within the limits is pending for its Ready or Live bank and no other bank changes; one outside them
leaves the bank's corrections as they are. -/
def Obligations.FarrierReadsAndRefits : Prop :=
  (∀ st crib b tick, Answers (.referenceRead st crib b tick)
    (fun d => st < 1024 ∧ crib < 17 ∧ b < 2 ∧
      ((bankOf d (bankKey st crib b)).state = .live ∨
        ((bankOf d (bankKey st crib b)).state = .ready ∧ refitOn d = true)) ∧
      (∀ o ∈ (stallOf d st).cribOps, crib ∉ o.cribs) ∧ 0 ≤ creditAfter d (cribKey st crib) tick)
    (fun d e => e = { d with draws := d.draws + 1, cribs := e.cribs, banks := e.banks } ∧
      (cribOf e (cribKey st crib)).credit = creditAfter d (cribKey st crib) tick - 32 * 512 ∧
      (∀ k, k ≠ cribKey st crib → cribOf e k = cribOf d k) ∧
      (∀ k, k ≠ bankKey st crib b → bankOf e k = bankOf d k) ∧
      ∃ new, bankOf e (bankKey st crib b) = { bankOf d (bankKey st crib b) with
        refSeen := ((bankOf d (bankKey st crib b)).refSeen.filter fun t => d.host.uptimeMs ≤ t.time + 250) ++ new } ∧
        ∀ t ∈ new, t.time = d.host.uptimeMs)) ∧
  (∀ st crib bank corr, Answers (.refit st crib bank corr)
    (fun d => st < 1024 ∧ crib < 17 ∧ bank < 2 ∧ awaitsFit d (bankKey st crib bank) = false ∧
      ((bankOf d (bankKey st crib bank)).state = .live ∨ (bankOf d (bankKey st crib bank)).state = .ready) ∧
      corrOk corr = true)
    (fun d e => e = { d with draws := d.draws + 1, banks := e.banks } ∧
      bankOf e (bankKey st crib bank) =
        { bankOf d (bankKey st crib bank) with pend := some corr, fit := none, refitBad := false } ∧
      ∀ k, k ≠ bankKey st crib bank → bankOf e k = bankOf d k)) ∧
  ∀ st crib bank corr, Answers (.refit st crib bank corr)
    (fun d => st < 1024 ∧ crib < 17 ∧ bank < 2 ∧ awaitsFit d (bankKey st crib bank) = false ∧
      ((bankOf d (bankKey st crib bank)).state = .live ∨ (bankOf d (bankKey st crib bank)).state = .ready) ∧
      corrOk corr = false)
    (fun d e => ∀ k, (bankOf e k).corr = (bankOf d k).corr ∧ (bankOf e k).pend = (bankOf d k).pend)

/-! ### Scrubs -/

/-- R228, R340, R350, R352, R361, R362: a groom of a line in which no upset has arisen keeps its bytes, takes a correctable
error away and counts it; an upset in one symbol of a clean line is corrected, in two symbols detected; a loft scrub that
corrects three bytes or more rewrites the unit. -/
def Obligations.ScrubsKeepBytesAndClearCorrectable : Prop :=
  (∀ stack line last, Answers (.groomScrub (.dram stack line) [] last)
    (fun d => d.mem.groomEnable = true ∧ stack < 8 ∧ line < stackSize / 64)
    (fun d e =>
      let g := lineOf (dramKey stack (64 * line))
      e.mem.dram = d.mem.dram ∧ e.mem.loft = d.mem.loft ∧ e.stalls = d.stalls ∧
      lineErr e g = (if lineErr d g = some .correctable then none else lineErr d g) ∧
      (∀ k, k ≠ g → lineErr e k = lineErr d k) ∧
      (lineErr d g = some .correctable →
        ctrOf e (dramReg stack 0x08) = satAdd (ctrOf d (dramReg stack 0x08)) 1) ∧
      ctrOf e 0x1008 = if last then satAdd (ctrOf d 0x1008) 1 else ctrOf d 0x1008)) ∧
  (∀ stack line a b, Answers (.groomScrub (.dram stack line) [(a, .correctable), (b, .correctable)] false)
    (fun d => d.mem.groomEnable = true ∧ stack < 8 ∧ line < stackSize / 64 ∧ a < 68 ∧ b < 68 ∧
      lineErr d (lineOf (dramKey stack (64 * line))) = none)
    (fun d e =>
      lineErr e (lineOf (dramKey stack (64 * line))) = (if a = b then none else some .uncorrectable) ∧
      (a = b → e.mem.dram = d.mem.dram) ∧ DramBut ((List.range 64).map (dramKey stack (64 * line) + ·)) d e ∧
      e.mem.loft = d.mem.loft ∧ e.stalls = d.stalls ∧
      ctrOf e (dramReg stack 0x08) = satAdd (ctrOf d (dramReg stack 0x08)) (if a = b then 1 else 0) ∧
      ctrOf e (dramReg stack 0x10) = satAdd (ctrOf d (dramReg stack 0x10)) (if a = b then 0 else 1))) ∧
  (∀ st buf line, Answers (.groomScrub (.sram st buf line) [] false)
    (fun d => d.mem.groomEnable = true ∧ buf < 3 ∧ groomed (stallOf d st) buf line = true)
    (fun d e => e.mem = d.mem ∧ (∀ b o, b < 3 → byteOf (stallOf e st) b o = byteOf (stallOf d st) b o) ∧
      (sramOf (stallOf e st) buf).err = scrubbed (sramOf (stallOf d st) buf).err line ∧
      ∀ j, j ≠ st → stallOf e j = stallOf d j)) ∧
  (∀ line, Answers (.groomScrub (.gate line) [] false) (fun d => d.mem.groomEnable = true)
    (fun d e => mget none e.mem.gateErr line =
        (if mget none d.mem.gateErr line = some .correctable then none else mget none d.mem.gateErr line) ∧
      e.mem.dram = d.mem.dram ∧ e.stalls = d.stalls)) ∧
  (∀ stack unit fixed, Answers (.loftScrub stack unit [])
    (fun d =>
      let u := unitOf (loftPlace stack (256 * unit))
      stack < 4 ∧ unitWorn d u = false ∧
        fixed = if unitErr d u = some .correctable then (mget [] d.mem.loftBad u).eraseDups.length else 0)
    (fun d e =>
      let u := unitOf (loftPlace stack (256 * unit))
      (∀ o, mget 0 e.mem.loft o = mget 0 d.mem.loft o) ∧ e.mem.dram = d.mem.dram ∧ e.stalls = d.stalls ∧
      unitErr e u = (if 3 ≤ fixed then none else unitErr d u) ∧
      mget 0 e.mem.wear (regionOf u) = mget 0 d.mem.wear (regionOf u) + if 3 ≤ fixed then 1 else 0)) ∧
  ∀ stack unit, ∀ ps : List Nat, Answers (.loftScrub stack unit (ps.map fun p => (p, .correctable)))
    (fun d => stack < 4 ∧ unitWorn d (unitOf (loftPlace stack (256 * unit))) = false ∧
      unitErr d (unitOf (loftPlace stack (256 * unit))) = none ∧ ps.Nodup ∧ 3 ≤ ps.length ∧ ps.length ≤ 4 ∧
      ∀ p ∈ ps, p < 256)
    (fun d e =>
      let u := unitOf (loftPlace stack (256 * unit))
      (∀ o, mget 0 e.mem.loft o = mget 0 d.mem.loft o) ∧ e.mem.dram = d.mem.dram ∧ e.stalls = d.stalls ∧
      unitErr e u = none ∧ mget 0 e.mem.wear (regionOf u) = mget 0 d.mem.wear (regionOf u) + 1)

/-! ### Remote operations at their homes -/

/-- R49, R61, R209, R211, R495: a PUT writes its bytes at its home, a PUT.S adds one to the target counter with them, a PUT.F
sets the slot's flag with them; every other byte is as before; a write that is mirrored waits for the standby. -/
def Obligations.PutsWriteAtTheirHome : Prop :=
  (∀ id o, Answers (.putPerform id)
    (fun d => Reaches d id o ∧ o.op.kind = .put ∧ (gSpace o.op.addr = 1 ∨ gSpace o.op.addr = 5) ∧
      o.op.data.length = o.op.len ∧ gOff o.op.addr + o.op.len ≤ regionSize o.op.addr)
    (fun d e =>
      let keys := dramKeys o.op.addr (gOff o.op.addr) o.op.len
      dramAt e keys = o.op.data ∧ DramBut keys d e ∧ e.mem.loft = d.mem.loft ∧ e.stalls = d.stalls ∧
      PerformedAt (MirrorsDram d keys) d id o [] e)) ∧
  (∀ id o, Answers (.putPerform id)
    (fun d => Reaches d id o ∧ o.op.kind = .put ∧ gSpace o.op.addr = 2 ∧ o.op.data.length = o.op.len ∧
      gOff o.op.addr + o.op.len ≤ loftSize ∧
      ∀ k, k < o.op.len → mget 0 d.mem.wear (regionOf (unitOf (gOff o.op.addr + k))) + o.op.len < wearBudget)
    (fun d e =>
      let offs := (List.range o.op.len).map (gOff o.op.addr + ·)
      loftAt e offs = o.op.data ∧ LoftBut offs d e ∧ e.mem.dram = d.mem.dram ∧ e.stalls = d.stalls ∧
      PerformedAt (MirrorsLoft d offs) d id o [] e)) ∧
  (∀ id o t, Answers (.putPerform id)
    (fun d => Reaches d id o ∧ (o.op.kind = .put ∨ o.op.kind = .putS) ∧ gSpace o.op.addr = 0 ∧
      gBuf o.op.addr < 3 ∧ t = gStall o.op.addr ∧ o.op.data.length = o.op.len ∧
      gOff o.op.addr + o.op.len ≤ bufSize (gBuf o.op.addr))
    (fun d e => e.mem = d.mem ∧ (∀ j, j ≠ t → stallOf e j = stallOf d j) ∧
      (∀ k, k < o.op.len →
        byteOf (stallOf e t) (gBuf o.op.addr) (gOff o.op.addr + k) = some (o.op.data.getD k 0)) ∧
      BytesBut (gBuf o.op.addr) (gOff o.op.addr) o.op.len (stallOf d t) (stallOf e t) ∧
      (∀ c, cGet (stallOf e t) c =
        if o.op.kind = .putS ∧ c = o.op.tctr then cGet (stallOf d t) c + 1 else cGet (stallOf d t) c) ∧
      (stallOf e t).sreg = (stallOf d t).sreg ∧ (stallOf e t).pc = (stallOf d t).pc ∧ Performed id o [] e)) ∧
  ∀ id o t, Answers (.putFArrive id)
    (fun d => Reaches d id o ∧ o.op.kind = .putF ∧ gSpace o.op.addr = 0 ∧ gBuf o.op.addr < 2 ∧
      t = gStall o.op.addr ∧ 0 < o.op.len ∧ o.op.data.length = o.op.len ∧ gOff o.op.addr + o.op.len ≤ bufSize (gBuf o.op.addr))
    (fun d e => e.mem = d.mem ∧ (∀ j, j ≠ t → stallOf e j = stallOf d j) ∧
      (∀ k, k < o.op.len →
        byteOf (stallOf e t) (gBuf o.op.addr) (gOff o.op.addr + k) = some (o.op.data.getD k 0)) ∧
      BytesBut (gBuf o.op.addr) (gOff o.op.addr) o.op.len (stallOf d t) (stallOf e t) ∧
      flagOf (stallOf e t) (gBuf o.op.addr) (gOff o.op.addr / 512) = true ∧
      (stallOf e t).sreg = (stallOf d t).sreg ∧ (stallOf e t).pc = (stallOf d t).pc ∧ Performed id o [] e)

/-- R213 to R216: a PUT.F that finds its slot full waits in the holding store while it has room and is refused when it has
none; a HOLD_RESEND lets the refused operation arrive again.
How many entries a write of several granules takes is the model's choice (log 20). -/
def Obligations.HoldingStore : Prop :=
  (∀ id o t, Answers (.putFArrive id)
    (fun d => arriving d id = some o ∧ o.id = id ∧ o.op.kind = .putF ∧ t = gStall o.op.addr ∧
      (stallOf d t).gone = false ∧ (stallOf d t).refused.contains (srcNum o) = false ∧ slotFull d o = true ∧
      holdUsed d t + holdEntries o ≤ 16)
    (fun d e => e.mem = d.mem ∧ opOf e id = some { o with phase := .holding } ∧
      stallOf e t = { stallOf d t with hold := (stallOf d t).hold ++ [id] } ∧
      ∀ j, j ≠ t → stallOf e j = stallOf d j)) ∧
  (∀ id o t, Answers (.putFArrive id)
    (fun d => arriving d id = some o ∧ o.id = id ∧ o.op.kind = .putF ∧ t = gStall o.op.addr ∧
      (stallOf d t).gone = false ∧ (stallOf d t).refused.contains (srcNum o) = false ∧ slotFull d o = true ∧
      16 < holdUsed d t + holdEntries o)
    (fun d e => e.mem = d.mem ∧ opOf e id = some { o with phase := .refused } ∧
      ctrOf e (stallReg t 0x60) = satAdd (ctrOf d (stallReg t 0x60)) 1 ∧
      stallOf e t = { stallOf d t with refused := (stallOf d t).refused ++ [srcNum o] } ∧
      ∀ j, j ≠ t → stallOf e j = stallOf d j)) ∧
  ∀ src dst o, Answers (.holdResend src dst)
    (fun d => (stallOf d dst).refused.contains src = true ∧ (stallOf d dst).gone = false ∧
      d.ops.filter (fun o => o.phase == .refused && srcNum o == src && gSpace o.op.addr == 0 &&
        gStall o.op.addr == dst) = [o] ∧ opOf d o.id = some o ∧
      o.op.kind = .putF ∧ gBuf o.op.addr < 2 ∧ behind d dst o = false ∧ slotExists o = true ∧ slotFull d o = false)
    (fun d e => e.mem = d.mem ∧ src ∉ (stallOf e dst).refused ∧
      flagOf (stallOf e dst) (gBuf o.op.addr) (gOff o.op.addr / 512) = true ∧ Performed o.id o [] e)

/-- R43, R49, R51, R53, R56, R495: a GET returns the bytes at its home, zeros from space 0x3; an atomic operation combines each
element with its addend, a FADD returning the old one; what it does not name is as before.
What the loft's record area holds is free (log 31).
At a loft unit whose bytes cannot be trusted, or in a worn region, nothing is written (R57, R347, R364).
That each granule of an atomic operation stands for itself, and that a unit in both those states counts only as dropped, is
the model's choice (log 19). -/
def Obligations.GetsAndAtomicsAtTheirHome : Prop :=
  (∀ id o, Answers (.getPerform id)
    (fun d => Reaches d id o ∧ o.op.kind = .get ∧ (gSpace o.op.addr = 1 ∨ gSpace o.op.addr = 5) ∧
      gOff o.op.addr + o.op.len ≤ regionSize o.op.addr)
    (fun d e => Performed id o (dramAt d (dramKeys o.op.addr (gOff o.op.addr) o.op.len)) e ∧
      e.mem.dram = d.mem.dram ∧ e.mem.loft = d.mem.loft ∧ e.stalls = d.stalls)) ∧
  (∀ id o, Answers (.getPerform id)
    (fun d => Reaches d id o ∧ o.op.kind = .get ∧ gSpace o.op.addr = 3)
    (fun d e => Performed id o (List.replicate o.op.len 0) e ∧ e.mem = d.mem ∧ e.stalls = d.stalls)) ∧
  (∀ id o, Answers (.getPerform id)
    (fun d => Reaches d id o ∧ o.op.kind = .get ∧ gSpace o.op.addr = 2 ∧ gOff o.op.addr + o.op.len ≤ recordBase)
    (fun d e => Performed id o (loftAt d ((List.range o.op.len).map (gOff o.op.addr + ·))) e ∧
      e.mem.dram = d.mem.dram ∧ e.mem.loft = d.mem.loft ∧ e.stalls = d.stalls)) ∧
  (∀ id o t, Answers (.getPerform id)
    (fun d => Reaches d id o ∧ o.op.kind = .get ∧ gSpace o.op.addr = 0 ∧ gBuf o.op.addr < 3 ∧ t = gStall o.op.addr ∧
      gOff o.op.addr + o.op.len ≤ bufSize (gBuf o.op.addr))
    (fun d e => Performed id o (sramRead d t (gBuf o.op.addr) (gOff o.op.addr) o.op.len) e ∧ e.mem = d.mem ∧
      (∀ j, j ≠ t → stallOf e j = stallOf d j) ∧ BytesBut 0 0 0 (stallOf d t) (stallOf e t) ∧
      (stallOf e t).sreg = (stallOf d t).sreg ∧ (stallOf e t).pc = (stallOf d t).pc)) ∧
  (∀ id o t, Answers (.atomicPerform id)
    (fun d => Reaches d id o ∧ isAtomic o.op.kind = true ∧ gSpace o.op.addr = 0 ∧ gBuf o.op.addr < 3 ∧
      t = gStall o.op.addr ∧ o.op.data.length = o.op.len ∧ gOff o.op.addr + o.op.len ≤ bufSize (gBuf o.op.addr))
    (fun d e =>
      let old := sramRead d t (gBuf o.op.addr) (gOff o.op.addr) o.op.len
      e.mem = d.mem ∧ (∀ j, j ≠ t → stallOf e j = stallOf d j) ∧
      BytesBut (gBuf o.op.addr) (gOff o.op.addr) o.op.len (stallOf d t) (stallOf e t) ∧
      (stallOf e t).sreg = (stallOf d t).sreg ∧ (stallOf e t).pc = (stallOf d t).pc ∧
      (∀ j b, j < o.op.len / elemSize o.op.kind → b < elemSize o.op.kind →
        byteOf (stallOf e t) (gBuf o.op.addr) (gOff o.op.addr + elemSize o.op.kind * j + b) =
          some ((toLe (elemSize o.op.kind) (atomicElem o.op.kind (fieldAt old (elemSize o.op.kind * j) (elemSize o.op.kind))
            (fieldAt o.op.data (elemSize o.op.kind * j) (elemSize o.op.kind)))).getD b 0)) ∧
      Performed id o (if isFadd o.op.kind then old else []) e)) ∧
  (∀ id o, Answers (.atomicPerform id)
    (fun d => Reaches d id o ∧ isAtomic o.op.kind = true ∧ (gSpace o.op.addr = 1 ∨ gSpace o.op.addr = 5) ∧
      o.op.data.length = o.op.len ∧ gOff o.op.addr % 2048 + o.op.len ≤ 2048 ∧
      gOff o.op.addr + o.op.len ≤ regionSize o.op.addr ∧
      ∀ k ∈ dramKeys o.op.addr (gOff o.op.addr) o.op.len, lineBad d (lineOf k) = false)
    (fun d e =>
      let keys := dramKeys o.op.addr (gOff o.op.addr) o.op.len
      DramBut keys d e ∧ e.mem.loft = d.mem.loft ∧ e.stalls = d.stalls ∧
      (∀ j b, j < o.op.len / elemSize o.op.kind → b < elemSize o.op.kind →
        (dramAt e keys).getD (elemSize o.op.kind * j + b) 0 =
          (toLe (elemSize o.op.kind) (atomicElem o.op.kind
            (fieldAt (dramAt d keys) (elemSize o.op.kind * j) (elemSize o.op.kind))
            (fieldAt o.op.data (elemSize o.op.kind * j) (elemSize o.op.kind)))).getD b 0) ∧
      PerformedAt (MirrorsDram d keys) d id o (if isFadd o.op.kind then dramAt d keys else []) e)) ∧
  (∀ id o u, Answers (.atomicPerform id)
    (fun d => Reaches d id o ∧ isAtomic o.op.kind = true ∧ gSpace o.op.addr = 2 ∧ o.op.data.length = o.op.len ∧
      0 < o.op.len ∧ gOff o.op.addr % 256 + o.op.len ≤ 256 ∧ gOff o.op.addr + o.op.len ≤ recordBase ∧
      u = unitOf (gOff o.op.addr) ∧ unitWorn d u = false ∧
      (unitErr d u = none ∨ unitErr d u = some .correctable))
    (fun d e =>
      let offs := (List.range o.op.len).map (gOff o.op.addr + ·)
      LoftBut offs d e ∧ e.mem.dram = d.mem.dram ∧ e.stalls = d.stalls ∧
      (∀ j b, j < o.op.len / elemSize o.op.kind → b < elemSize o.op.kind →
        (loftAt e offs).getD (elemSize o.op.kind * j + b) 0 =
          (toLe (elemSize o.op.kind) (atomicElem o.op.kind
            (fieldAt (loftAt d offs) (elemSize o.op.kind * j) (elemSize o.op.kind))
            (fieldAt o.op.data (elemSize o.op.kind * j) (elemSize o.op.kind)))).getD b 0) ∧
      mget 0 e.mem.wear (regionOf u) = mget 0 d.mem.wear (regionOf u) + 1 ∧
      PerformedAt (MirrorsLoft d offs) d id o (if isFadd o.op.kind then loftAt d offs else []) e)) ∧
  ∀ id o u, Answers (.atomicPerform id)
    (fun d => Reaches d id o ∧ isAtomic o.op.kind = true ∧ gSpace o.op.addr = 2 ∧ o.op.data.length = o.op.len ∧
      0 < o.op.len ∧ gOff o.op.addr % 256 + o.op.len ≤ 256 ∧ gOff o.op.addr + o.op.len ≤ recordBase ∧
      u = unitOf (gOff o.op.addr) ∧
      (unitWorn d u = true ∨ unitErr d u = some .uncorrectable ∨ unitErr d u = some .poisoned))
    (fun d e =>
      let offs := (List.range o.op.len).map (gOff o.op.addr + ·)
      let n := loftStack (gOff o.op.addr)
      let bad := unitErr d u = some .uncorrectable ∨ unitErr d u = some .poisoned
      (∀ k, mget 0 e.mem.loft k = mget 0 d.mem.loft k) ∧ e.mem.dram = d.mem.dram ∧ e.mem.wear = d.mem.wear ∧
      e.stalls = d.stalls ∧
      (bad → ctrOf e (loftReg n 0x40) = satAdd (ctrOf d (loftReg n 0x40)) 1) ∧
      (¬ bad → ctrOf e (loftReg n 0x20) = satAdd (ctrOf d (loftReg n 0x20)) 1) ∧
      Performed id o (if isFadd o.op.kind then loftAt d offs else []) e)

/-- R44, R51, R62, R195: REMOTE_COMPLETE ends the operation: a GET's bytes stand in its destination, a FADD's value in its
register unless its routine has stopped with a fault, and one is added to the named completion counter. That a GET's bytes
land at its completion, over whatever has been written there since it was issued, is the model's choice (log 3). -/
def Obligations.CompletionDeliversAndCounts : Prop :=
  ∀ id o st, Answers (.remoteComplete id)
    (fun d => opOf d id = some o ∧ o.id = id ∧ o.own = true ∧ o.phase = .performed ∧ st = o.op.srcStall ∧
      o.dest / 2 ^ 18 < 3)
    (fun d e => opOf e id = none ∧ e.mem = d.mem ∧ e.banks = d.banks ∧ (∀ j, j ≠ st → stallOf e j = stallOf d j) ∧
      (∀ c, cGet (stallOf e st) c = if o.ctr = some c then cGet (stallOf d st) c + 1 else cGet (stallOf d st) c) ∧
      (o.op.kind = .get → (stallOf d st).gone = false →
        (∀ k, k < o.back.length →
          byteOf (stallOf e st) (o.dest / 2 ^ 18) (o.dest % 2 ^ 18 + k) = some (o.back.getD k 0)) ∧
        BytesBut (o.dest / 2 ^ 18) (o.dest % 2 ^ 18) o.back.length (stallOf d st) (stallOf e st) ∧
        (stallOf e st).sreg = (stallOf d st).sreg) ∧
      (isFadd o.op.kind = true → ∀ m, sGet (stallOf e st) m =
        if o.orphan = false ∧ m = o.dest ∧ m ≠ 0 then BitVec.ofNat 64 (leNat o.back) else sGet (stallOf d st) m) ∧
      (o.op.kind ≠ .get ∨ (stallOf d st).gone = true → BytesBut 0 0 0 (stallOf d st) (stallOf e st)) ∧
      (stallOf e st).vreg = (stallOf d st).vreg ∧ (stallOf e st).pc = (stallOf d st).pc)

/-! ### Attention -/

/-- R180 to R183, R306, R307: ATTN.GO reads the 64 descriptor bytes and gives the job to the engine of the stall's die; a
descriptor that fails a check stops the routine with DESCRIPTOR, and a fifth unfinished job waits. -/
def Obligations.AttentionJobsAreIssued : Prop :=
  ∀ buf off b,
  Runs .attnGo 0x60 formAttn
    (fun d st i => LocalOk d st (sGet (stallOf d st) i.a + sextImm i 32) 64 1 buf off ∧
      b = sramRead d st buf off 64 ∧ descFault b = none ∧ (jobsOf d st).length < 4 ∧
      ∀ r ∈ jobTiles b, tileFree d st r = true)
    (fun d st _ e => e.mem = d.mem ∧ e.banks = d.banks ∧ e.ops = d.ops ∧
      (∀ j, j ≠ st → stallOf e j = stallOf d j) ∧ ReadMoves (fun x _ => x) (stallOf d st) (stallOf e st) ∧
      ∃ j, e.attn = { d.attn with jobs := d.attn.jobs ++ [j] } ∧ j.id = d.nextId ∧ j.die = st / 256 ∧ j.stall = st ∧
        j.desc = b ∧ j.epoch = (stallOf d st).epoch ∧ j.started = false) ∧
  (∀ k, Runs .attnGo 0x60 formAttn
    (fun d st i => LocalOk d st (sGet (stallOf d st) i.a + sextImm i 32) 64 1 buf off ∧
      descFault (sramRead d st buf off 64) = some k)
    (fun d st _ => StopsAt st 0x0C k d)) ∧
  Runs .attnGo 0x60 formAttn
    (fun d st i => LocalOk d st (sGet (stallOf d st) i.a + sextImm i 32) 64 1 buf off ∧
      descFault (sramRead d st buf off 64) = none ∧ 4 ≤ (jobsOf d st).length)
    (fun d st _ => HeldOn st .issueLimit d)

/-- R303, R308, R310: a job starts with a snapshot of its list's generation and length; one that fails a check of the engine
ends with its status in its status tile. R309, R312, R315: the finish of a job that attends writes its outputs to its
output tiles and its status; that of one that appends makes its list longer by its positions. The job has ended. R495: an
append that is mirrored leaves LENGTH as it is, and the job waits, until the standby has performed it.
That a job reads its queries and pages, and appends, when it finishes is the model's choice (log 26). -/
def Obligations.AttentionJobsStartAndFinish : Prop :=
  (
    (∀ die id j q, Answers (.attnJobStart die id)
      (fun d => jobOf d id = some j ∧ jobMayStart d die j = true ∧ jobRefusal d die j.desc = none ∧
        seqOf d (jSeq j.desc) = some q)
      (fun d e => e.stalls = d.stalls ∧ e.mem.dram = d.mem.dram ∧ e.banks = d.banks ∧
        ∃ bad, jobOf e id = some { j with
          started := true, gen := (q.list (jLayer j.desc)).gen, len := (q.list (jLayer j.desc)).length
          memErr := bad })) ∧
    ∀ die id j k, Answers (.attnJobStart die id)
      (fun d => jobOf d id = some j ∧ jobMayStart d die j = true ∧ jobRefusal d die j.desc = some k)
      (fun d e => jobOf e id = none ∧ e.banks = d.banks ∧ (∀ n, n ≠ j.stall → stallOf e n = stallOf d n) ∧
        (∀ n, n < 16 → byteOf (stallOf e j.stall) 1 (4096 * jStatTile j.desc + n) =
          some ((toLe 4 k ++ List.replicate 12 0).getD n 0)) ∧
        BytesBut 1 (4096 * jStatTile j.desc) 16 (stallOf d j.stall) (stallOf e j.stall))) ∧
  (
    (∀ die id j q rs outs stat, Answers (.attnJobFinish die id false)
      (fun d => jobOf d id = some j ∧ j.die = die ∧ j.started = true ∧ j.hold = none ∧ j.memErr = false ∧
        j.seq = jSeq j.desc ∧
        seqOf d j.seq = some q ∧ q.closing = false ∧
        jAppend j.desc = false ∧ jScore j.desc = false ∧ jAttend j.desc = true ∧
        (∀ k ∈ jobReadKeys q j, lineBad d (lineOf k) = false) ∧
        rs = attendJob d q j (sramRead d j.stall 0 (512 * jQSlot j.desc) (jNq j.desc * q.hQ * q.dim * queryBytes q.qFmt)) ∧
        outs = rs.flatMap (fun h => h.out.flatMap (toLe 4)) ∧ stat = statusBytes j q 0 rs ∧
        (4096 * jStatTile j.desc + stat.length ≤ 4096 * jOutTile j.desc ∨
          4096 * jOutTile j.desc + outs.length ≤ 4096 * jStatTile j.desc))
      (fun d e => jobOf e id = none ∧ e.mem.dram = d.mem.dram ∧ e.banks = d.banks ∧
        (∀ n, n ≠ j.stall → stallOf e n = stallOf d n) ∧
        (∀ n, n < outs.length → byteOf (stallOf e j.stall) 1 (4096 * jOutTile j.desc + n) = some (outs.getD n 0)) ∧
        (∀ n, n < stat.length → byteOf (stallOf e j.stall) 1 (4096 * jStatTile j.desc + n) = some (stat.getD n 0)) ∧
        (stallOf e j.stall).sreg = (stallOf d j.stall).sreg ∧ (stallOf e j.stall).pc = (stallOf d j.stall).pc)) ∧
    (∀ die id j q, Answers (.attnJobFinish die id false)
      (fun d => jobOf d id = some j ∧ j.die = die ∧ j.started = true ∧ j.hold = none ∧ j.seq = jSeq j.desc ∧
        seqOf d j.seq = some q ∧ mirroring d = false ∧
        q.closing = false ∧ j.layer < q.pl.length ∧ jAppend j.desc = true ∧ jAttend j.desc = false ∧
        jScore j.desc = false ∧ (q.list j.layer).length = jAppendPos j.desc)
      (fun d e => jobOf e id = none ∧ e.banks = d.banks ∧
        ∃ r, seqOf e j.seq = some r ∧ (r.list j.layer).length = jAppendPos j.desc + jNq j.desc ∧
          (r.list j.layer).gen = (q.list j.layer).gen ∧ (r.list j.layer).due = true)) ∧
    ∀ die id j q n residue, Answers (.attnJobFinish die id residue)
      (fun d => jobOf d id = some j ∧ j.id = id ∧ j.die = die ∧ j.started = true ∧ j.hold = none ∧
        seqOf d j.seq = some q ∧ jAppend j.desc = true ∧ (q.list j.layer).length = jAppendPos j.desc ∧
        mirroredBy d (doAppend d j q).1 = some n)
      (fun d e => seqOf e j.seq = some q ∧ e.banks = d.banks ∧
        ∃ bad, jobOf e id = some { j with hold := some (.append n bad residue) }))

/-- R302, R304, R318, R319, R326, R327: an edit batch is applied as one step under the next generation; an allocation, after a
prune, asks for a free page of the sequence's die for every entry that wants one, and marks them; under a budget it evicts
first what `make_room` chooses; a prefix insertion adds a row with REFS 1.
Which free pages are taken, and where a row of page numbers lies, is free (logs 30 and 25); that the batch is requested in
one step with the pages it takes is the model's choice (log 27). -/
def Obligations.SequenceMemoryEdits : Prop :=
  (∀ id b q, Answers (.editBatchApply id)
    (fun d => d.attn.edits.find? (·.id == id) = some b ∧ editMay d b = true ∧ seqOf d b.seq = some q ∧ q.closing = false ∧ b.layer < q.pl.length)
    (fun d e => e.attn.edits = d.attn.edits.filter (fun x => x.id != id) ∧ e.stalls = d.stalls ∧
      ∃ r, seqOf e b.seq = some r ∧ r.list b.layer =
        { gen := (q.list b.layer).gen + 1, length := b.newLen.getD (q.list b.layer).length,
          entries := editEntries ((q.list b.layer).gen + 1) b.sets (q.list b.layer).entries,
          due := (q.list b.layer).due || b.newLen.isSome })) ∧
  (∀ seq layer q want, Answers (.pageAllocate seq layer)
    (fun d => seqOf d seq = some q ∧ q.closing = false ∧ layer < q.layers ∧ layer < q.pl.length ∧
      (q.list layer).due = true ∧ q.budget = 0 ∧ homeSplit d ≤ stackSize ∧
      want = wantedEntries q (q.list layer) (viewEntries d seq layer (q.list layer).entries) ∧
      want.length ≤ freePages (pruneAll d q.die) q.die)
    (fun d e => e.stalls = d.stalls ∧ (∃ r, seqOf e seq = some r ∧ (r.list layer).due = false) ∧
      ∃ sets, e.attn.edits = d.attn.edits ++ (if sets = [] then [] else
          [{ id := d.nextId, seq := seq, layer := layer, sets := sets, newLen := none }]) ∧
        sets.map Prod.fst = want ∧
        ∀ p ∈ sets, ∃ page, p.2 = BitVec.ofNat 32 page ∧ inPool d page = true ∧
          pageTaken (pruneAll d q.die) q.die page = false ∧
          (d.attn.prefixes = [] → pageTaken e q.die page = true))) ∧
  (∀ seq layer q want es room, Answers (.pageAllocate seq layer)
    (fun d => seqOf d seq = some q ∧ q.closing = false ∧ layer < q.layers ∧ layer < q.pl.length ∧
      (q.list layer).due = true ∧ q.budget ≠ 0 ∧ homeSplit d ≤ stackSize ∧
      es = viewEntries d seq layer (q.list layer).entries ∧ want = wantedEntries q (q.list layer) es ∧
      room = makeRoom es (es.filter fun e => isPage e.page).length q.budget
        ((max (q.list layer).length 1 - 1) / q.tp + 1 - q.window) (es.length + want.length + 1) [] want.length ∧
      room.1 ≠ [] ∧ room.2 ≤ freePages (pruneAll d q.die) q.die)
    (fun d e => e.stalls = d.stalls ∧ (∃ r, seqOf e seq = some r ∧ (r.list layer).due = false) ∧
      ∃ sets, e.attn.edits = d.attn.edits ++
          [{ id := d.nextId, seq := seq, layer := layer, newLen := none
             sets := room.1.map (fun n => (n, evictedPage)) ++ sets }] ∧
        sets.map Prod.fst = want.take room.2 ∧
        ∀ p ∈ sets, ∃ page, p.2 = BitVec.ofNat 32 page ∧ inPool d page = true ∧
          pageTaken (pruneAll d q.die) q.die page = false)) ∧
  ∀ seq page q c pl row, Answers (.prefixInsert seq page)
    (fun d => seqOf d seq = some q ∧ pageChain q page = some c ∧ mayInsert d q page = true ∧
      (probePlaces d (chainKey c)).find? (fun pl => (prefixAt d pl).isNone) = some pl ∧
      rowPlace d q.die q.layers = some row)
    (fun d e => e.stalls = d.stalls ∧ e.attn.seqs = d.attn.seqs ∧
      ∃ p, e.attn.prefixes = d.attn.prefixes ++ [p] ∧ p.bucket = pl.1 ∧ p.slot = pl.2 ∧ p.key = chainKey c ∧
        p.check = chainCheck c ∧ p.refs = 1 ∧ p.die = q.die ∧ p.page = page ∧ p.row = row ∧ p.rows = rowPages q page)

/-! ### The weight feed -/

/-- R392, R394, R397, R399, R401, R402: the next stage starts on its manifest, which goes on to the next place of the chain; a
shard that verifies is held in the feed buffer and sent on; one that does not is asked for again; one that a later place asks
for is sent again; and a member that waits in vain reports it. R409: a shard of an adapter goes to its place in the adapter
area too.
Where the feed buffer holds a shard is the model's choice (log 31). -/
def Obligations.StagesTakeTheirShards : Prop :=
  (∀ s b, Answers (.stageStart none)
    (fun d => headStage d = some s ∧ s.started = false ∧ s.ownResult = none ∧ s.adapter = none ∧ s.source ≠ 1 ∧ b = ownManifest d s ∧
      framed b = true ∧ (s.source = 0 → s.cid.isSome = true → hostList b (deliveredLens d s) = true) ∧
      manifestResult d s.keys b false = none ∧
      loftMissing d { s with started := true, manifest := b, shards := stageShards d b s.source false } = false ∧
      ∃ h ∈ stageShards d b s.source false, (h.keep || h.forward) = true)
    (fun d e => e.stalls = d.stalls ∧ e.banks = d.banks ∧ e.ops = d.ops ∧ (s.store = false → e.mem = d.mem) ∧
      (∃ t, headStage e = some t ∧
        t = { s with started := true, manifest := b, shards := stageShards d b s.source false
                     checked := if follower d then s.checked else s.checked ++ [d.pad.index], cleared := t.cleared } ∧
        (follower d = false → (∀ m ∈ stageModules d, m ∈ t.checked) → t.cleared = true)) ∧
      (follower d = true → Tells 0 (.stageChecked s.model) d e) ∧
      ∀ m, nextPlace d = some m → Tells m (.stage { model := s.model, source := s.source, store := s.store
                                                    reuse := s.reuse, keys := s.keys, manifest := b, sender := here d, adapter := none }) d e)) ∧
  (∀ shard bytes s h r off, Answers (.shardReceived shard bytes)
    (fun d => workingStage d = some s ∧ s.adapter = none ∧
      s.shards.find? (fun h => h.index == shard && (h.keep || h.forward) && !h.verified) = some h ∧
      h.codec = 0 ∧ r = (deliveredBytes d s h bytes).2 ∧ r.length = h.stored ∧ shake r 32 = h.hash ∧
      feedRoom d h.stored = some off ∧ off + h.stored ≤ space1Size ∧
      ∃ k ∈ s.shards, k.index ≠ shard ∧ (k.keep || k.forward) = true ∧ k.verified = false)
    (fun d e => e.stalls = d.stalls ∧ e.banks = d.banks ∧ e.ops = d.ops ∧
      dramAt e (space1Keys off h.stored) = r ∧ DramBut (space1Keys off h.stored) d e ∧
      (∃ t, headStage e = some t ∧ t.model = s.model ∧ { h with held := some off, verified := true } ∈ t.shards) ∧
      (s.cid = none → s.source ≠ 2 → Tells s.sender (.shardAck s.model shard (here d)) d e) ∧
      ∀ m, h.forward = true → nextPlace d = some m → Tells m (.shard s.model shard r) d e)) ∧
  (∀ shard bytes s h r off a dst, Answers (.shardReceived shard bytes)
    (fun d => workingStage d = some s ∧ s.adapter = some a ∧ dst = a.base + rawBefore s.manifest shard ∧
      s.shards.find? (fun h => h.index == shard && (h.keep || h.forward) && !h.verified) = some h ∧
      h.codec = 0 ∧ r = (deliveredBytes d s h bytes).2 ∧ r.length = h.stored ∧ shake r 32 = h.hash ∧
      feedRoom d h.stored = some off ∧ dst + h.stored ≤ space1Size ∧
      ∃ k ∈ s.shards, k.index ≠ shard ∧ (k.keep || k.forward) = true ∧ k.verified = false)
    (fun d e => e.stalls = d.stalls ∧ e.banks = d.banks ∧ e.ops = d.ops ∧ dramAt e (space1Keys dst h.stored) = r ∧
      (∃ t, headStage e = some t ∧ ∃ k ∈ t.shards, k.index = shard ∧ k.verified = true) ∧
      ∀ m, h.forward = true → nextPlace d = some m → Tells m (.shard s.model shard r) d e)) ∧
  (∀ shard bytes s h r off, Answers (.shardReceived shard bytes)
    (fun d => workingStage d = some s ∧
      s.shards.find? (fun h => h.index == shard && (h.keep || h.forward) && !h.verified) = some h ∧
      r = (deliveredBytes d s h bytes).2 ∧ ¬ (r.length = h.stored ∧ shake r 32 = h.hash) ∧ h.refetches ≠ 3 ∧
      feedRoom d h.stored = some off)
    (fun d e => e.stalls = d.stalls ∧ e.banks = d.banks ∧ e.ops = d.ops ∧ DramBut [] d e ∧ LoftBut [] d e ∧
      ctrOf e 0x20A0 = satAdd (ctrOf d 0x20A0) 1 ∧ ctrOf e 0x20A8 = satAdd (ctrOf d 0x20A8) 1 ∧
      (∃ t, headStage e = some t ∧ { h with refetches := h.refetches + 1 } ∈ t.shards) ∧
      (s.cid = none → s.source ≠ 2 → Tells s.sender (.shardRequest s.model shard) d e))) ∧
  (∀ shard s m h b, Answers (.shardRefetch shard)
    (fun d => headStage d = some s ∧ nextPlace d = some m ∧
      s.shards.find? (fun h => h.index == shard && h.forward) = some h ∧ heldBytes d h = some b)
    (fun d e => e.stalls = d.stalls ∧ e.banks = d.banks ∧ e.ops = d.ops ∧ DramBut [] d e ∧ e.feed = d.feed ∧
      Tells m (.shard s.model shard b) d e)) ∧
  ∀ s h, Answers .shardTimeout
    (fun d => workingStage d = some s ∧ h ∈ s.shards ∧ (h.keep || h.forward) = true ∧ h.verified = false ∧
      follower d = true)
    (fun d e => e.stalls = d.stalls ∧ e.mem = d.mem ∧ ctrOf e 0x20B0 = satAdd (ctrOf d 0x20B0) 1 ∧
      (∃ t, headStage e = some t ∧ t.model = s.model ∧ t.ownResult = some 8) ∧ Tells 0 (.stageReport s.model 8) d e)

/-- R119, R384 to R389, R394, R397, R403, R542: a placement's bank is claimed in Loading with one more unit of wear and no tag
once every module has passed its checks, and its cells are programmed to the image and the reference columns; it is Ready with
its weak list and tag when programming ends, and Live where an epoch already names it so; a spare's bank with too many weak
slices is Empty and its stall is to retire; the lead notes a module's result, and a member that had not failed reports MEMBER
when the stage has.
That a freshly programmed bank keeps its correction set, and drops one that was to take effect, and that weak slices of
reference columns are not counted, is the model's choice (log 51). -/
def Obligations.BanksAreProgrammed : Prop :=
  (∀ placement s m p data cols raw k, Answers (.bankProgramStart placement)
    (fun d => twinBankOf d placement = none ∧ spareWaiting d placement = none ∧ workingStage d = some s ∧
      modelOf d s.model = some m ∧
      (servedPlacements d m.placements).find? (fun p => p.index == placement && !p.claimed && !p.done) = some p ∧
      s.cleared = true ∧ k = targetKey d p ∧ (bankOf d k).state ≠ .loading ∧ loadingBanks d < programLimit d ∧
      stillFree d p = true ∧ p.scaled = none ∧ groupData d s m.placements p = some data ∧
      groupColumns data p.dstFmt p.cols = some cols ∧
      raw = ((data.find? fun q => q.1.index == p.index).map (·.2)).getD [] ∧ s.reuse = false)
    (fun d e => bankOf e k = { bankOf d k with
        state := .loading, wear := satAdd (bankOf d k).wear 1, tag := 0, weak := [], refWeak := [], refSeen := []
        format := p.dstFmt, forPlacement := some p.index, forSpare := false, fit := none, pend := none, imagePresent := true
        image := mputs 0 [] 0 (imageOf p raw cols), refs := (List.range 32).map refLevels } ∧
      (∀ n, n ≠ k → bankOf e n = bankOf d n) ∧ e.cribs = d.cribs ∧ e.ops = d.ops)) ∧
  (∀ weak k s m p cols ws, Answers (.bankProgramDone k weak)
    (fun d => (bankOf d k).state = .loading ∧ (bankOf d k).forSpare = false ∧ (bankOf d k).forTwin = false ∧
      weak.all weakValid = true ∧ ws = weakSorted (weak.map (weakOf (bankOf d k))) ∧ ws.length ≤ 4096 ∧
      workingStage d = some s ∧ modelOf d s.model = some m ∧
      m.placements.find? (fun p => some p.index == (bankOf d k).forPlacement) = some p ∧
      k = bankKey p.stall (physOf d p.stall p.crib) p.bank ∧ p.scaled = some cols ∧ ∀ r ∈ s.results, r.2 = 0)
    (fun d e => bankOf e k =
        { bankOf d k with
          state := writtenState d (indexKey p.stall p.crib p.bank), weak := ws, tag := tagOf m.digest p, forPlacement := none
          refWeak := (weak.filter fun s => 2048 ≤ s.col).map (·.col) } ∧
      (∀ n, n ≠ k → bankOf e n = bankOf d n) ∧ e.cribs = d.cribs ∧ e.ops = d.ops)) ∧
  (∀ weak st phys b, Answers (.bankProgramDone (bankKey st phys b) weak)
    (fun d => phys < 17 ∧ b < 2 ∧ (bankOf d (bankKey st phys b)).state = .loading ∧ weak.all weakValid = true ∧
      (bankOf d (bankKey st phys b)).forSpare = true ∧
      4096 < (weakSorted (weak.map (weakOf (bankOf d (bankKey st phys b))))).length)
    (fun d e => (bankOf e (bankKey st phys b)).state = .empty ∧ ctrOf e 0x20C0 = satAdd (ctrOf d 0x20C0) 1 ∧
      (stallOf e st).pendingRetire = true ∧ e.mem = d.mem)) ∧
  (∀ module s, Answers (.stageResult module 0)
    (fun d => headStage d = some s ∧ s.started = true ∧ d.pad.role = .lead ∧ module ∈ stageModules d ∧
      module ≠ d.pad.index ∧ (∀ p ∈ s.results, p.1 ≠ module ∧ p.1 ≠ d.pad.index ∧ p.2 = 0) ∧ s.ownResult = none)
    (fun d e => SparesMachine d e ∧ headStage e = some { s with results := s.results ++ [(module, 0)] })) ∧
  ∀ s k, Answers (.stageResult 0 k)
    (fun d => headStage d = some s ∧ s.started = true ∧ follower d = true ∧ k ≠ 0 ∧ k ≠ 0x0C ∧ s.ownResult.getD 0 = 0)
    (fun d e => e.stalls = d.stalls ∧ e.mem = d.mem ∧ Tells 0 (.stageReport s.model 0x0B) d e ∧
      ∀ x ∈ e.feed.stages, x.model ≠ s.model)

/-! ### Commands that report -/

/-- R427, R437, R443, R445: a command whose descriptor fails a common check ends with that status, and one for another module
is forwarded to it with its data, its function and its epoch; for every row of the command set named. R437, R450, R451, R461:
IDENTIFY, ATTEST and TELEMETRY_READ deliver their bytes and complete, with HOST_MEM where host memory does not take them; the
read-and-clear form clears the counters it names and no other.
The order of the checks beyond what the manual states is the model's choice (log 28). -/
def Obligations.ChecksAndReportsOfCommands : Prop :=
  (
    (∀ cid c, Answers (.identify cid) (fun d => CmdStarts d cid 0x01 anyForm c ∧ NoDrain d ∧ c.resultOk = true)
      (fun d e => SparesMachine d e ∧ Replied c 0 0 0 0 d e ∧ Delivers c (identifyBytes d) d e)) ∧
    (∀ cid c, Answers (.identify cid)
      (fun d => CmdStarts d cid 0x01 anyForm c ∧ NoDrain d ∧ d.pad.twinOut = [] ∧ c.resultOk = false ∧ c.lead = none ∧
        c.ring ≠ noRing ∧ dResultLen c.desc ≠ 0)
      (fun d e => SparesMachine d e ∧ Recorded c 0x07 0 0 0 d e)) ∧
    (∀ cid c, Answers (.attest cid)
      (fun d => CmdStarts d cid 0x02 anyForm c ∧ NoDrain d ∧ 3168 ≤ dResultLen c.desc ∧ c.dataLen = 32 ∧
        c.dataFailed = false ∧ c.resultOk = true)
      (fun d e => SparesMachine d e ∧ Replied c 0 0 (attestBytes d c.bytes).length 0 d e ∧
        Delivers c (attestBytes d c.bytes) d e)) ∧
    (∀ cid c, Answers (.telemetryRead cid)
      (fun d => CmdStarts d cid 0x41 (fun c => !tClear c) c ∧ NoDrain d ∧ telemetryRefusal c = none ∧ c.resultOk = true)
      (fun d e => SparesMachine d e ∧ (RecordFits d c → e.ctr = d.ctr) ∧ Replied c 0 0 (tCount c) 0 d e ∧
        Delivers c ((tSlots c).flatMap fun o => toLe 8 (readSlot (putCmd (joins d c) (begins d c)) o).toNat) d e)) ∧
    ∀ cid c, Answers (.telemetryReadClear cid)
      (fun d => CmdStarts d cid 0x41 tClear c ∧ NoDrain d ∧ telemetryRefusal c = none ∧ c.resultOk = true)
      (fun d e => SparesMachine d e ∧ Replied c 0 0 (tCount c) 0 d e ∧
        Delivers c ((tSlots c).flatMap fun o => toLe 8 (readSlot (putCmd (joins d c) (begins d c)) o).toNat) d e ∧
        (RecordFits d c → ∀ o, ctrOf e o = if o ∈ tSlots c ∧ isCounter o = true then 0 else ctrOf d o))) ∧
  (
    ∀ fail yes, ∀ p ∈ commandRows fail yes,
      ∀ cid c k, Answers (p.1 cid)
        (fun d => cmdOf d cid = some c ∧ dOpcode c.desc = p.2.1 ∧ p.2.2 c = true ∧ c.begun = false ∧ c.solve = none ∧
          inOrder d c = true ∧ d.health.commandDown = false ∧ commonStatus d c = some k ∧ NoDrain d)
        (fun d e => SparesMachine d e ∧ e.attn = d.attn ∧ ModelsOnly d e ∧ Replied c k 0 0 (refusedValue1 p.2.1) d e) ∧
      Answers (p.1 cid)
        (fun d => cmdOf d cid = some c ∧ dOpcode c.desc = p.2.1 ∧ p.2.2 c = true ∧ c.begun = false ∧ c.solve = none ∧
          inOrder d c = true ∧ d.health.commandDown = false ∧ commonStatus d c = none ∧ isRemote d c = true)
        (fun d e => SparesMachine d e ∧ e.attn = d.attn ∧ e.feed = d.feed ∧
          Begun c (fun c => { c with remote := true }) d e ∧
          Tells (dModule c.desc)
            (.command c.cid c.fn c.desc (c.data.map fun _ => c.entries) (begins d c).epoch) d e))

/-- R428, R431, R438, R446: RING_CREATE makes an Active ring under a free id; RING_DESTROY frees a ring, and a SUB ring, Active
or in Error, as soon as none of its commands is left, with the number of entries discarded. R447: one that has commands left is
Draining, and their routines, and no others, are stopped with ABORT, reason RING; a COMP ring that a SUB ring names is BUSY.
Which free id is taken is free (log 30). -/
def Obligations.RingsAreCreatedAndDestroyed : Prop :=
  (∀ cid c fail, Answers (.ringCreate cid fail)
    (fun d => CmdStarts d cid 0x03 anyForm c ∧ NoDrain d ∧ ringRefusal d c = none ∧
      mget none d.host.quota c.fn = none ∧ d.host.rings.length < 65536 ∧ RecordFits d c ∧
      (c.ring = mboxRing ∨ c.lead.isSome = true ∨ ∃ s, ringOf d c.ring = some s ∧ ringOf d s.bind ≠ none))
    (fun d e => SparesMachine d e ∧ ∃ r, r < 65536 ∧ ringOf d r = none ∧ ringOf e r = some (newRing c fail) ∧
      (∀ q x, ringOf d q = some x → x.type ≠ .comp → ringOf e q = some x) ∧ Replied c 0 0 r 0 d e)) ∧
  (∀ cid c r x, Answers (.ringDestroy cid)
    (fun d => CmdStarts d cid 0x04 anyForm c ∧ NoDrain d ∧ r = c.param 32 2 ∧ ringOf d r = some x ∧ x.owner = c.fn ∧
      x.state ≠ .draining ∧ c.ring ≠ r ∧ RecordFits d c ∧
      (x.type = .event ∨ (x.type = .comp ∧ ∀ q y, ringOf d q = some y → y.type = .sub → y.bind ≠ r)))
    (fun d e => SparesMachine d e ∧ ringOf e r = none ∧
      (∀ q y, q ≠ r → ringOf d q = some y → y.type ≠ .comp → ringOf e q = some y) ∧
      Replied c 0 0 0 0 d e)) ∧
  (∀ cid c r x, Answers (.ringDestroy cid)
    (fun d => CmdStarts d cid 0x04 anyForm c ∧ NoDrain d ∧ r = c.param 32 2 ∧ ringOf d r = some x ∧ x.owner = c.fn ∧
      x.type = .sub ∧ x.state ≠ .draining ∧ RecordFits d c ∧ recordsHeld d r = false ∧ ∀ y ∈ d.host.cmds, y.ring ≠ r)
    (fun d e => SparesMachine d e ∧ ringOf e r = none ∧
      (∀ q y, q ≠ r → ringOf d q = some y → y.type ≠ .comp → ringOf e q = some y) ∧
      Replied c 0 0 0 ((x.tail + 2 ^ x.sizeLog2 - x.head) % 2 ^ x.sizeLog2) d e)) ∧
  (∀ cid c r x, Answers (.ringDestroy cid)
    (fun d => CmdStarts d cid 0x04 anyForm c ∧ NoDrain d ∧ r = c.param 32 2 ∧ ringOf d r = some x ∧ x.owner = c.fn ∧
      x.type = .sub ∧ x.state ≠ .draining ∧ (d.host.cmds.map (·.cid)).Nodup ∧
      (∃ y ∈ d.host.cmds, y.ring = r ∧ y.cid ≠ cid) ∧
      ∀ y ∈ d.host.cmds, y.ring = r → y.cid ≠ cid → y.onStalls = true → y.begun = true)
    (fun d e => e.mem = d.mem ∧ e.banks = d.banks ∧ Begun c id d e ∧
      (∃ z, ringOf e r = some z ∧ z.state = .draining ∧ z.head = x.tail ∧ z.tail = x.tail ∧
        z.destroyer = some (cid, (x.tail + 2 ^ x.sizeLog2 - x.head) % 2 ^ x.sizeLog2)) ∧
      (∀ y ∈ d.host.cmds, y.ring = r → y.cid ≠ cid → y.onStalls = true → y.remote = false →
        (∃ z, cmdOf e y.cid = some z ∧ z.stopped = true ∧ z.waiting = []) ∧ ∀ st ∈ y.running, Aborted st d e ∧
          (active (stallOf d st) = true → (stallOf e st).faultDetail = 4)) ∧
      ∀ st, (∀ y ∈ d.host.cmds, y.ring = r → st ∉ y.running) → stallOf e st = stallOf d st)) ∧
  ∀ cid c r x, Answers (.ringDestroy cid)
    (fun d => CmdStarts d cid 0x04 anyForm c ∧ NoDrain d ∧ r = c.param 32 2 ∧ ringOf d r = some x ∧ x.owner = c.fn ∧
      x.type = .comp ∧ ∃ q y, ringOf d q = some y ∧ y.type = .sub ∧ y.bind = r)
    (fun d e => SparesMachine d e ∧ ringOf e r ≠ none ∧ Replied c 0x06 0 0 0 d e)

/-! ### Commands of the weight feed -/

/-- R371, R393, R452: MODEL_STAGE makes a record in Staging and queues the stage; KEY_ADD stores a key in a free place;
KEY_REMOVE takes it out; R6, R444: a reserved SOURCE or option is INVALID in these forms too. R409, R410, R443: ADAPTER_LOAD
queues the delivery of an adapter whose checks pass, under a free id and for the lowest free range of the adapter area; the
adapter is loaded, and the command completes, with the last module's result; ADAPTER_UNLOAD frees an adapter that no open
sequence names, and answers BUSY for one that is named. What the lead does on every module completes when every module has
done it.
Which free id is taken is free (log 30). -/
def Obligations.StageKeyAndAdapterCommands : Prop :=
  (
    (∀ cid c src, Answers (.modelStage cid)
      (fun d => CmdStarts d cid 0x10 stageForm c ∧ c.param 32 1 = 0 ∧ src = c.param 33 1 ∧ src < 3 ∧ c.param 34 1 < 4 ∧
        (src = 0 → c.isList = true) ∧ (src = 2 → bitAt (c.param 34 1) 0 = false) ∧
        (src = 1 → dDataLen c.desc = 0 ∧ 8 * homeSplit d ≤ c.param 36 8 ∧ c.param 36 8 < reserveBase d) ∧
        c.dataFailed = false ∧ d.feed.models.length < 64 ∧ d.feed.models.length + d.host.cmds.length < 65535 ∧
        (d.feed.stages.filter (·.adapter.isNone)).length < 9)
      (fun d e => SparesMachine d e ∧ Begun c id d e ∧ ∃ n, modelOf d n = none ∧ modelOf e n = some (newModel n) ∧
        e.feed.stages = d.feed.stages ++
          [newStage d.feed.keys (some c.cid) n src (bitAt (c.param 34 1) 0) (bitAt (c.param 34 1) 1) [] 0])) ∧
    (∀ cid c, Answers (.keyAdd cid)
      (fun d => CmdStarts d cid 0x10 (fun c => c.param 32 1 == 1) c ∧ NoDrain d ∧ c.param 33 1 ≤ 2 ∧ c.param 34 1 < 4 ∧
        c.dataFailed = false ∧
        c.dataLen = 1793 ∧ c.bytes.head? = some falconKeyHeader ∧ keyFor d (keyIdOf c.bytes) = none ∧
        d.feed.keys.length < 16)
      (fun d e => SparesMachine d e ∧ RepliedAll c 0 0 (keyIdOf c.bytes) 0xFFFFFFFF d e ∧
        ∃ n, n < 16 ∧ mget none d.feed.keys n = none ∧ mget none e.feed.keys n = some c.bytes ∧
          ∀ m, m ≠ n → mget none e.feed.keys m = mget none d.feed.keys m)) ∧
    (∀ cid c, Answers (.keyAdd cid)
      (fun d => CmdStarts d cid 0x10 (fun c => c.param 32 1 == 1) c ∧ NoDrain d ∧ (2 < c.param 33 1 ∨ 4 ≤ c.param 34 1))
      (fun d e => SparesMachine d e ∧ ModelsOnly d e ∧ Replied c 0x01 0 0 0xFFFFFFFF d e)) ∧
    (∀ cid c, Answers (.keyRemove cid)
      (fun d => CmdStarts d cid 0x10 (fun c => c.param 32 1 == 2) c ∧ NoDrain d ∧ (2 < c.param 33 1 ∨ 4 ≤ c.param 34 1))
      (fun d e => SparesMachine d e ∧ ModelsOnly d e ∧ Replied c 0x01 0 0 0xFFFFFFFF d e)) ∧
    ∀ cid c n key, Answers (.keyRemove cid)
      (fun d => CmdStarts d cid 0x10 (fun c => c.param 32 1 == 2) c ∧ NoDrain d ∧ c.param 33 1 ≤ 2 ∧ c.param 34 1 < 4 ∧
        mwf none d.feed.keys ∧ mget none d.feed.keys n = some key ∧ keyIdOf key = c.param 44 8 ∧
        ∀ m k, mget none d.feed.keys m = some k → keyIdOf k = c.param 44 8 → m = n)
      (fun d e => SparesMachine d e ∧ RepliedAll c 0 0 (c.param 44 8) 0xFFFFFFFF d e ∧
        ∀ m, mget none e.feed.keys m = if m = n then none else mget none d.feed.keys m)) ∧
  (
    (∀ cid c b t off, Answers (.adapterLoad cid true)
      (fun d => CmdStarts d cid 0x13 (fun c => c.param 32 1 != 1) c ∧ c.param 32 1 = 0 ∧ c.isList = true ∧
        c.param 36 4 ≤ 4096 ∧ c.dataFailed = false ∧ b = (c.entries.head?).getD [] ∧
        t = c.entries.getD (mShards b + 1) [] ∧ (c.param 36 4 ≠ 0 → t.length = 16 * c.param 36 4) ∧
        (∀ k, k < c.param 36 4 → copyOk d (rawTotal b) (copyEntry t k) = true ∧ fieldAt (copyEntry t k) 3 1 = 0) ∧
        adapterResult d b c.entries = none ∧ adapterRoom d b = some off ∧
        d.feed.adapters.length + d.feed.stages.length < 4000)
      (fun d e => SparesMachine d e ∧ Begun c id d e ∧ e.feed.adapters = d.feed.adapters ∧
        ∃ n, 0 < n ∧ n < 4096 ∧ (∀ a ∈ d.feed.adapters, a.id ≠ n) ∧
          (∀ s ∈ d.feed.stages, ∀ a, s.adapter = some a → a.id ≠ n) ∧
          e.feed.stages = d.feed.stages ++
            [adapterStage d c b n off ((List.range (c.param 36 4)).map (copyEntry t))])) ∧
    (∀ module s a c, Answers (.stageResult module 0)
      (fun d => headStage d = some s ∧ s.started = true ∧ s.adapter = some a ∧ d.pad.role = .lead ∧ module ∈ stageModules d ∧
        module ≠ d.pad.index ∧ (∀ p ∈ s.results, p.1 ≠ module ∧ p.2 = 0) ∧
        (∀ m ∈ stageModules d, m ≠ module → ∃ p ∈ s.results, p.1 = m) ∧ (∀ x ∈ d.feed.adapters, x.id ≠ a.id) ∧
        modelOf d s.model = none ∧ s.cid = some c.cid ∧ cmdOf d c.cid = some c ∧ NoDrain d)
      (fun d e => SparesMachine d e ∧ Replied c 0 0 a.id 0 d e ∧ e.feed.adapters = d.feed.adapters ++
          [{ id := a.id, base := a.base, len := rawTotal s.manifest, model := mBaseId s.manifest }] ∧
        ∀ m ∈ stageModules d, m ≠ d.pad.index → Tells m (.stageVerdict s.model 0) d e)) ∧
    (∀ cid c, Answers (.adapterUnload cid false)
      (fun d => CmdStarts d cid 0x13 (fun c => c.param 32 1 == 1) c ∧ NoDrain d ∧
        (∃ a ∈ d.feed.adapters, a.id = c.param 34 2) ∧ adapterUsed d (c.param 34 2) = false)
      (fun d e => SparesMachine d e ∧ RepliedAll c 0 0 (c.param 34 2) 0 d e ∧
        e.feed.adapters = d.feed.adapters.filter (fun a => a.id != c.param 34 2))) ∧
    ∀ cid c used, Answers (.adapterUnload cid used)
      (fun d => CmdStarts d cid 0x13 (fun c => c.param 32 1 == 1) c ∧ NoDrain d ∧
        (∃ a ∈ d.feed.adapters, a.id = c.param 34 2) ∧ (adapterUsed d (c.param 34 2) = true ∨ used = true))
      (fun d e => SparesMachine d e ∧ ModelsOnly d e ∧ Replied c 0x06 0 0 0 d e))

/-- R404, R408, R619: MODEL_ACTIVATE of a staged model whose banks match on every module wants an epoch that activates it and
retires the replaced one, and fails with BANK_BUSY otherwise; MODEL_RETIRE drops a staged model at once and wants an epoch
for an active one. -/
def Obligations.ModelCommandsWantEpochs : Prop :=
  (∀ cid c m, Answers (.modelActivate cid true)
    (fun d => CmdStarts d cid 0x11 anyForm c ∧ modelOf d (c.param 32 2) = some m ∧ m.state = .staged ∧
      isBusy d (c.param 32 2) = false ∧ c.param 34 2 = 0xFFFF ∧ banksMatch d m = true)
    (fun d e => SparesMachine d e ∧ Begun c id d e ∧ (modelOf e (c.param 32 2)).map (·.busy) = some true ∧
      e.pad.wants = d.pad.wants ++ [{ noWant with cid := some c.cid, activate := some (c.param 32 2) }])) ∧
  (∀ cid c m r, Answers (.modelActivate cid true)
    (fun d => CmdStarts d cid 0x11 anyForm c ∧ modelOf d (c.param 32 2) = some m ∧ m.state = .staged ∧
      isBusy d (c.param 32 2) = false ∧ c.param 34 2 ≠ 0xFFFF ∧ modelOf d (c.param 34 2) = some r ∧
      r.state = .active ∧ isBusy d (c.param 34 2) = false ∧ banksMatch d m = true)
    (fun d e => SparesMachine d e ∧ Begun c id d e ∧ (modelOf e (c.param 32 2)).map (·.busy) = some true ∧
      (modelOf e (c.param 34 2)).map (·.state) = some .retiring ∧
      e.pad.wants = d.pad.wants ++
        [{ noWant with cid := some c.cid, activate := some (c.param 32 2), retire := some (c.param 34 2) }])) ∧
  (∀ cid c m others, Answers (.modelActivate cid others)
    (fun d => CmdStarts d cid 0x11 anyForm c ∧ NoDrain d ∧ modelOf d (c.param 32 2) = some m ∧ m.state = .staged ∧
      isBusy d (c.param 32 2) = false ∧ c.param 34 2 = 0xFFFF ∧ (banksMatch d m = false ∨ others = false))
    (fun d e => SparesMachine d e ∧ ModelsOnly d e ∧ e.pad.wants = d.pad.wants ∧ Replied c 0x08 4 0 0 d e)) ∧
  (∀ cid c m, Answers (.modelRetire cid)
    (fun d => CmdStarts d cid 0x12 anyForm c ∧ NoDrain d ∧ modelOf d (c.param 32 2) = some m ∧ m.state = .staged ∧
      isBusy d (c.param 32 2) = false)
    (fun d e => SparesMachine d e ∧ modelOf e (c.param 32 2) = none ∧ RepliedAll c 0 0 0 0 d e)) ∧
  ∀ cid c m, Answers (.modelRetire cid)
    (fun d => CmdStarts d cid 0x12 anyForm c ∧ modelOf d (c.param 32 2) = some m ∧ m.state = .active ∧
      isBusy d (c.param 32 2) = false)
    (fun d e => SparesMachine d e ∧ Begun c id d e ∧
      modelOf e (c.param 32 2) = some { m with state := .retiring, busy := true } ∧
      e.pad.wants = d.pad.wants ++ [{ noWant with cid := some c.cid, retire := some (c.param 32 2) }])

/-! ### Sequences and routines -/

/-- R285, R286, R300, R325, R453: SEQ_OPEN opens a sequence of its function with the shape of its block where the block is in
range and the module has an id, pages and list space for it, and ends with the block's status or NO_RESOURCE otherwise;
SEQ_CLOSE makes it closing with one batch for each list; PREFIX_LOOKUP keys the whole blocks and attaches the rows that the
table has for its first pages, one after another, to every list: it completes with the number of their tokens when the edits
that attach them have taken effect, and waits where an earlier batch stands before them.
That edits are requested and, where nothing stands before them, take effect in one step is the model's choice (log 27). -/
def Obligations.SequenceCommands : Prop :=
  (∀ cid c f n die lists, Answers (.seqOpen cid)
    (fun d => CmdStarts d cid 0x20 anyForm c ∧ NoDrain d ∧ c.dataFailed = false ∧ c.dataLen = 64 ∧
      openRefusal d c.bytes = none ∧ f = pruneAll (putCmd d (begins d c)) (openDie d c.bytes) ∧
      openPlace f c.fn c.bytes = .ok (n, die, lists))
    (fun d e => e.stalls = d.stalls ∧ e.banks = d.banks ∧ e.ops = d.ops ∧ seqOf d n = none ∧
      (∃ pl, seqOf e n = some { newSeq c.fn c.bytes die lists with pl := pl } ∧ pl.length = fieldAt c.bytes 4 2) ∧
      (∀ m, m ≠ n → seqOf e m = seqOf d m) ∧ Replied c 0 0 (n + 2 ^ 16 * die) (openTp c.bytes) d e)) ∧
  (∀ cid c k, Answers (.seqOpen cid)
    (fun d => CmdStarts d cid 0x20 anyForm c ∧ NoDrain d ∧ c.dataFailed = false ∧ c.dataLen = 64 ∧
      openRefusal d c.bytes = some k)
    (fun d e => SparesMachine d e ∧ e.attn = d.attn ∧ Replied c k.1 k.2 0 0 d e)) ∧
  (∀ cid c k, Answers (.seqOpen cid)
    (fun d => CmdStarts d cid 0x20 anyForm c ∧ NoDrain d ∧ c.dataFailed = false ∧ c.dataLen = 64 ∧
      openRefusal d c.bytes = none ∧
      openPlace (pruneAll (putCmd d (begins d c)) (openDie d c.bytes)) c.fn c.bytes = .error k)
    (fun d e => e.stalls = d.stalls ∧ e.banks = d.banks ∧ e.ops = d.ops ∧ e.attn.seqs = d.attn.seqs ∧
      Replied c 0x05 k 0 0 d e)) ∧
  (∀ cid c q, Answers (.seqClose cid)
    (fun d => CmdStarts d cid 0x21 anyForm c ∧ NoDrain d ∧ seqOf d (c.param 32 2) = some q ∧ q.owner = c.fn ∧
      q.closing = false ∧ 0 < q.layers)
    (fun d e => e.stalls = d.stalls ∧ seqOf e (c.param 32 2) = some { q with closing := true } ∧
      e.attn.edits.length = d.attn.edits.length + q.layers ∧ Replied c 0 0 0 0 d e)) ∧
  (∀ cid c q r rows, Answers (.prefixLookup cid)
    (fun d => LookupStarts d cid c q r rows ∧ NoDrain d ∧ (∀ x ∈ d.attn.edits, x.seq ≠ c.param 32 2 ∧ x.id < d.nextId) ∧
      ∀ j ∈ d.attn.jobs, j.seq ≠ c.param 32 2 ∧ fieldAt j.desc 0 2 ≠ c.param 32 2)
    (fun d e => e.stalls = d.stalls ∧ Replied c 0 0 (rows.length * q.tp) 0 d e ∧
      ∃ pl, seqOf e (c.param 32 2) = some { r with attached := rows.length, pl := pl } ∧ pl.length = q.pl.length ∧
        ∀ l, l < q.pl.length → l < q.layers →
          (rows = [] → pl[l]? = q.pl[l]?) ∧
          (rows ≠ [] → ∃ x, pl[l]? = some x ∧ x.gen = (q.list l).gen + 1 ∧ x.length = rows.length * q.tp ∧
            ∀ (n : Nat) p y, rows[n]? = some p → (q.list l).entries[n]? = some y →
              x.entries[n]? = some { y with page := p.rows.getD l nonePage, prev := y.page, changed := x.gen }))) ∧
  ∀ cid c q r rows, Answers (.prefixLookup cid)
    (fun d => LookupStarts d cid c q r rows ∧ rows ≠ [] ∧ 0 < q.layers ∧ (∀ x ∈ d.attn.edits, x.id < d.nextId) ∧
      ∃ x ∈ d.attn.edits, x.seq = c.param 32 2 ∧ x.layer = 0)
    (fun d e => e.stalls = d.stalls ∧ ∃ f x, cmdOf e cid = some f ∧ f.edits ≠ [] ∧ f.held = some x ∧ x.status = 0 ∧
      x.value0 = rows.length * q.tp)

/-- R454 to R458: SUBMIT and DECODE_STEP begin and wait for every stall they name; SUBMIT with ABORT stops the function's
routines on its stalls with ABORT, and completes when those stalls are Idle; SUBMIT_COMPLETE ends a command with the number of
faults and the lowest stall of them, and the bytes that COPY_OUT names leave for host memory.
That a SUBMIT with ABORT completes where a stall it names is retired is the model's choice (log 29). -/
def Obligations.RoutineCommands : Prop :=
  (∀ cid c, Answers (.submit cid)
    (fun d => CmdStarts d cid 0x30 (fun c => !pAbort c) c ∧ submitRefusal c = none ∧ namesRetired d c = false)
    (fun d e => SparesMachine d e ∧ e.attn = d.attn ∧ Begun c (fun c => { c with waiting := pStalls c }) d e)) ∧
  (∀ cid c, Answers (.decodeStep cid)
    (fun d => CmdStarts d cid 0x31 anyForm c ∧ submitRefusal c = none ∧ badEntry d c = none ∧
      namesRetired d c = false)
    (fun d e => e.stalls = d.stalls ∧ e.banks = d.banks ∧ e.mem.loft = d.mem.loft ∧
      Begun c (fun c => { c with waiting := pStalls c }) d e)) ∧
  (∀ cid c, Answers (.submitAbort cid)
    (fun d => CmdStarts d cid 0x30 pAbort c ∧ bitsOf (pFlags c) 7 3 = 0 ∧ pFirst c + pCount c ≤ 1024 ∧
      dDataLen c.desc = 0)
    (fun d e => e.mem = d.mem ∧ e.banks = d.banks ∧
      (∃ n, Begun c (fun c => { c with aborting := some n }) d e) ∧
      (∀ y ∈ d.host.cmds, y.fn = c.fn → y.onStalls = true → y.cid ≠ c.cid →
        ∀ st ∈ y.running, st ∈ pStalls c → active (stallOf d st) = true →
          (stallOf e st).mode = .draining ∧ (stallOf e st).ending = some .fault ∧ (stallOf e st).faultCode = 0x0F) ∧
      ∀ st, st ∉ pStalls c → stallOf e st = stallOf d st)) ∧
  (∀ cid c n, Answers (.submitComplete cid)
    (fun d => cmdOf d cid = some c ∧ c.begun = true ∧ c.remote = false ∧ c.held = none ∧ c.runs = true ∧
      c.aborting = some n ∧ d.health.commandDown = false ∧ NoDrain d ∧
      ∀ st ∈ pStalls c, (stallOf d st).mode = .idle ∨ (stallOf d st).mode = .retired)
    (fun d e => SparesMachine d e ∧ Replied c 0 0 n 0xFFFFFFFF d e)) ∧
  ∀ cid c faults r, Answers (.submitComplete cid)
    (fun d => cmdOf d cid = some c ∧ c.begun = true ∧ c.remote = false ∧ c.held = none ∧ c.runs = true ∧ c.waiting = [] ∧
      c.running = [] ∧ c.aborting = none ∧ c.resultOk = true ∧ d.health.commandDown = false ∧
      NoDrain d ∧ faults = (c.ended.filter fun p => p.2 != 0).map Prod.fst ∧ r = (copyOut d c).2)
    (fun d e => e.stalls = d.stalls ∧ e.banks = d.banks ∧ e.ops = d.ops ∧ DramBut [] d e ∧ LoftBut [] d e ∧
      (pCopyOut c = false → e.mem = d.mem) ∧ Delivers c r.1 d e ∧ ∃ low,
      (faults = [] → low = 0xFFFFFFFF) ∧ (faults ≠ [] → low ∈ faults ∧ ∀ st ∈ faults, low ≤ st) ∧
      Replied c (if c.stopped then 0x09 else if r.2 then 0x0B else 0) (if faults = [] then 0 else 2) faults.length low d e)

/-- R277 to R281, R459: SOLVE begins with its blocks and b, and ends at once where b is zero; its routines start on stalls
that may start one; with all of them running, it ends with x in DRAM when the residual is small enough or the steps are
exhausted, and takes an outer step otherwise: x plus the correction of the inner solve, and the residual of that x.
Where the manual gives no order for a sum, and no method for the least-squares problem, the inner solve is free (log 8). -/
def Obligations.SolveWritesItsVector : Prop :=
  (∀ cid c a bs, Answers (.solve cid)
    (fun d => CmdStarts d cid 0x32 anyForm c ∧ c.solve = none ∧ solveRefusal d c = none ∧ a = solveArgs c.bytes ∧
      bs = tableBlocks d a (((modelOf d a.model).map (·.placements)).getD []) ∧ zeroVec (readVec d a.b a.n) = false ∧
      ∀ st ∈ blockStalls d bs, (stallOf d st).gone = false)
    (fun d e => e.stalls = d.stalls ∧ e.banks = d.banks ∧ DramBut [] d e ∧
      Begun c (fun c => { c with
        waiting := blockStalls d bs
        solve := some { blocks := bs, b := readVec d a.b a.n, x := List.replicate a.n 0, r := readVec d a.b a.n
                        nb := norm2 (readVec d a.b a.n), steps := 0, flat := 0 } }) d e)) ∧
  (∀ cid c a, Answers (.solve cid)
    (fun d => CmdStarts d cid 0x32 anyForm c ∧ c.solve = none ∧ NoDrain d ∧ solveRefusal d c = none ∧
      a = solveArgs c.bytes ∧ zeroVec (readVec d a.b a.n) = true ∧ c.running = [])
    (fun d e => e.stalls = d.stalls ∧ e.banks = d.banks ∧ DramBut (space1Keys a.x (8 * a.n)) d e ∧
      dramAt e (space1Keys a.x (8 * a.n)) = List.replicate (8 * a.n) 0 ∧
      ∃ v, Replied c 0 0 v 0 d e)) ∧
  (∀ cid c s st, Answers (.solve cid)
    (fun d => cmdOf d cid = some c ∧ c.solve = some s ∧ c.begun = true ∧ d.health.commandDown = false ∧
      c.stopped = false ∧ c.ended = [] ∧ (∀ k ∈ c.running, (stallOf d k).mode ≠ .draining) ∧ st ∈ c.waiting ∧
      mayStart d { c with solve := none } st = true)
    (fun d e => e.banks = d.banks ∧ e.mem = d.mem ∧ (stallOf e st).mode = .running ∧ (stallOf e st).owner = some c.cid ∧
      ∃ f, cmdOf e cid = some f ∧ f.solve = some s ∧ st ∈ f.running ∧ st ∉ f.waiting)) ∧
  (∀ cid c a s result, Answers (.solve cid)
    (fun d => cmdOf d cid = some c ∧ c.solve = some s ∧ c.begun = true ∧ d.health.commandDown = false ∧ NoDrain d ∧
      c.stopped = false ∧ c.ended = [] ∧ (∀ k ∈ c.running, (stallOf d k).mode ≠ .draining) ∧ c.waiting = [] ∧
      a = solveArgs c.bytes ∧ s.x.length = a.n ∧ a.x + 8 * a.n ≤ space1Size ∧
      ((result = 0 ∧ fle (norm2 s.r) (fmul fp64 false a.tau s.nb) = true) ∨
        (result = 1 ∧ fle (norm2 s.r) (fmul fp64 false a.tau s.nb) = false ∧ a.steps ≤ s.steps)))
    (fun d e => e.banks = d.banks ∧ (∀ st ∈ c.running, (stallOf e st).mode = .idle) ∧
      (∀ st, st ∉ c.running → stallOf e st = stallOf d st) ∧
      dramAt e (space1Keys a.x (8 * a.n)) = s.x.flatMap (toLe 8) ∧ DramBut (space1Keys a.x (8 * a.n)) d e ∧
      Replied c 0 result (fdiv fp64 (norm2 s.r) s.nb) s.steps d e)) ∧
  ∀ cid c a s x r, Answers (.solve cid)
    (fun d => cmdOf d cid = some c ∧ c.solve = some s ∧ c.begun = true ∧ d.health.commandDown = false ∧
      c.stopped = false ∧ c.ended = [] ∧ (∀ k ∈ c.running, (stallOf d k).mode ≠ .draining) ∧ c.waiting = [] ∧
      a = solveArgs c.bytes ∧ fle (norm2 s.r) (fmul fp64 false a.tau s.nb) = false ∧ s.steps < a.steps ∧
      x = (List.range a.n).map (fun i =>
        fadd fp64 false (s.x.getD i 0) (widen64 (BitVec.ofNat 32 ((solveInner a s.blocks d s.r).2.getD i 0)))) ∧
      r = residual d a s.blocks s.b x ∧ finite64 (norm2 r) = true ∧ fgt (norm2 r) (fmul fp64 false f1000 s.nb) = false ∧
      (s.flat < 2 ∨ fgt (norm2 r) (fmul fp64 false f09 (norm2 s.r)) = false))
    (fun d e => DramBut [] d e ∧ e.mem.loft = d.mem.loft ∧ ∃ flat, cmdOf e cid = some { c with
      solve := some { s with x := x, r := r, flat := flat, steps := s.steps + 1 } })

/-- R445, R460, R571, R572: the forms of MODE_SET, each inside the range of its value; a REFIT while another is in progress is
BUSY, which is the model's choice (log 44), and one for another module is forwarded. -/
def Obligations.ModeSetCommands : Prop :=
  (∀ cid c, Answers (.modeSetPower cid)
    (fun d => CmdStarts d cid 0x40 (isMode 0) c ∧ 500 ≤ mA c ∧ mA c ≤ 1800)
    (fun d e => SparesMachine d e ∧ Begun c id d e ∧ e.pad.wants = d.pad.wants ++
      [{ noWant with cid := some c.cid, target := dModule c.desc, power := some (mA c) }])) ∧
  (∀ cid c, Answers (.modeSetCalset cid) (fun d => CmdStarts d cid 0x40 (isMode 1) c ∧ mA c < 2)
    (fun d e => SparesMachine d e ∧ Begun c id d e ∧ e.pad.wants = d.pad.wants ++
      [{ noWant with cid := some c.cid, target := dModule c.desc, factory := some (mA c == 1) }])) ∧
  (∀ cid c, Answers (.modeSetCalset cid)
    (fun d => CmdStarts d cid 0x40 (isMode 1) c ∧ mA c = 2 ∧ holdsIndex d (dModule c.desc) = true ∧
      ∀ r, d.sense.refits = some r → cmdOf d r.1 = none)
    (fun d e => SparesMachine d e ∧ Begun c id d e ∧
      e.sense = { d.sense with refits := some (c.cid, false, []) })) ∧
  (∀ cid c r, Answers (.modeSetCalset cid)
    (fun d => CmdStarts d cid 0x40 (isMode 1) c ∧ NoDrain d ∧ mA c = 2 ∧ holdsIndex d (dModule c.desc) = true ∧
      d.sense.refits = some r ∧ cmdOf d r.1 ≠ none)
    (fun d e => SparesMachine d e ∧ e.sense = d.sense ∧ Replied c 0x06 0 0 0 d e)) ∧
  (∀ cid c, Answers (.modeSetCalset cid)
    (fun d => CmdStarts d cid 0x40 (isMode 1) c ∧ mA c = 2 ∧ holdsIndex d (dModule c.desc) = false)
    (fun d e => SparesMachine d e ∧ Begun c (fun c => { c with remote := true }) d e ∧
      Tells (dModule c.desc)
        (.command c.cid c.fn c.desc (c.data.map fun _ => c.entries) (begins d c).epoch) d e)) ∧
  (∀ cid c, Answers (.modeSetFeed cid)
    (fun d => CmdStarts d cid 0x40 (isMode 2) c ∧ NoDrain d ∧ 16 ≤ mA c ∧ mA c ≤ 112 ∧ 1 ≤ mB c ∧ mB c ≤ 100)
    (fun d e => SparesMachine d e ∧ e.feed = { d.feed with models := e.feed.models, progPower := mA c, timeout := mB c } ∧
      Replied c 0 0 0 0 d e)) ∧
  (∀ cid c, Answers (.modeSetGroom cid)
    (fun d => CmdStarts d cid 0x40 (isMode 3) c ∧ NoDrain d ∧ mA c < 2 ∧ 4 ≤ mB c ∧ mB c ≤ 60)
    (fun d e => e.stalls = d.stalls ∧ e.mem = { d.mem with groomEnable := mA c == 1, groomPeriod := mB c } ∧
      Replied c 0 0 0 0 d e)) ∧
  (∀ cid c, Answers (.modeSetQuota cid)
    (fun d => CmdStarts d cid 0x40 (fun c => 4 ≤ mForm c) c ∧ NoDrain d ∧ mForm c = 4 ∧ 1 ≤ mA c ∧ mA c ≤ 128)
    (fun d e => SparesMachine d e ∧ Replied c 0 0 0 0 d e ∧
      mget none e.host.quota (mA c) = some (mB c % 2 ^ 16, mB c / 2 ^ 16))) ∧
  ∀ cid c, Answers (.modeSetPower cid)
    (fun d => CmdStarts d cid 0x40 (isMode 0) c ∧ NoDrain d ∧ (mA c < 500 ∨ 1800 < mA c))
    (fun d e => SparesMachine d e ∧ e.pad.wants = d.pad.wants ∧ Replied c 0x02 0 0 0 d e)

/-- R443, R462, R463, R528 to R532: VET_LOAD installs a bundle that verifies and refuses another with its code, on every
module; FW_UPDATE stores an image in the slot that does not run and marks it, refuses another with its code, and its activation
resets the module.
The verdicts on firmware images, and the keys of Plaldo Microsystems, are opaque (log 7). That an image must be of a higher
version than the one that runs, where R462 says installed, and VALUE0 of a refused image are log 45; what an image leaves
of the record area's bytes and wear is log 31. -/
def Obligations.BundlesAndImages : Prop :=
  (∀ cid c, Answers (.vetLoad cid)
    (fun d => CmdStarts d cid 0x50 anyForm c ∧ NoDrain d ∧ c.dataFailed = false ∧ bundleResult d c.bytes = none)
    (fun d e => e.stalls = d.stalls ∧ WritesRecords d e ∧ e.health.bundle = c.bytes ∧
      e.health.vetVersion = vVersion c.bytes ∧ (∀ k, (bankOf e k).probes = 0) ∧
      RepliedAll c 0 0 (vVersion c.bytes) 0 d e)) ∧
  (∀ cid c k, Answers (.vetLoad cid)
    (fun d => CmdStarts d cid 0x50 anyForm c ∧ NoDrain d ∧ c.dataFailed = false ∧ bundleResult d c.bytes = some k)
    (fun d e => SparesMachine d e ∧ e.health.bundle = d.health.bundle ∧
      e.health.vetVersion = d.health.vetVersion ∧ RepliedAll c 0x08 k (vVersion c.bytes) 0 d e)) ∧
  (∀ cid c v, Answers (.fwUpdateStore cid)
    (fun d => CmdStarts d cid 0x51 (fun c => c.param 32 1 != 1) c ∧ NoDrain d ∧ c.param 32 1 = 0 ∧
      c.dataFailed = false ∧ Config.fwVersion c.bytes = some v ∧ Config.fwSigned c.bytes = true ∧
      runningVersion d < v)
    (fun d e => e.stalls = d.stalls ∧ e.cribs = d.cribs ∧ e.banks = d.banks ∧ e.ops = d.ops ∧ WritesRecords d e ∧
      Replied c 0 0 v 0 d e ∧ markedVersion e = v ∧
      e.board.marked = !d.board.runs ∧ runningVersion e = runningVersion d)) ∧
  (∀ cid c k, Answers (.fwUpdateStore cid)
    (fun d => CmdStarts d cid 0x51 (fun c => c.param 32 1 != 1) c ∧ NoDrain d ∧ c.param 32 1 = 0 ∧
      c.dataFailed = false ∧ firmwareResult d c.bytes = some k)
    (fun d e => SparesMachine d e ∧ e.board = d.board ∧ Replied c 0x08 k ((Config.fwVersion c.bytes).getD 0) 0 d e)) ∧
  ∀ cid c, Answers (.fwUpdateActivate cid) (fun d => CmdStarts d cid 0x51 (fun c => c.param 32 1 == 1) c)
    (fun d e => e.host.state = .booting ∧ e.host.cmds = [] ∧ e.host.rings = [] ∧ e.board.causeRecord = some 4 ∧
      e.board.marked = d.board.marked ∧ e.mem.dram = [] ∧ e.mem.loft = d.mem.loft ∧ e.pad = Paddock.reset)

/-! ### The register window -/

/-- R14: an event counter has 32 bits and saturates at its all-ones value; a write of all ones clears it, a write of any
other value leaves it, and nothing else changes. -/
def Obligations.EventCountersSaturateAndClear : Prop :=
  ∀ off, isCounter off = true →
    (∀ d n, (ctrOf (bumpBy d off n) off).toNat = min ((ctrOf d off).toNat + n) (2 ^ 32 - 1) ∧
      ∀ o, o ≠ off → ctrOf (bumpBy d off n) o = ctrOf d o) ∧
    (∀ d, readSlot d off = (ctrOf d off).setWidth 64) ∧
    ∀ v : W32, Answers (.registerWrite 0 off 4 (v.setWidth 64)) (fun d => answers d off = true) (fun d e =>
      e = { d with draws := d.draws + 1, ctr := e.ctr } ∧
      ctrOf e off = (if v = BitVec.allOnes 32 then 0 else ctrOf d off) ∧ ∀ o, o ≠ off → ctrOf e o = ctrOf d o)

/-- R391, R417 to R419, R422 to R425, R558, R593, R552, R553: reads and writes of BAR0 registers, by the function that makes
them: a read returns the slot's part, and one of the mailbox's RESULT frees a record that failed under its command; a
misaligned access is counted and does nothing; a VF's write of the register window does nothing; the mailbox, the layout and
BAR2_BASE take what is written; SENSE_REQ starts a conversion or is counted; SENSE_PEAK_CLR marks its channels; the
management settings take values in range only; a write of the upper half of the slot of HS_GO, MBOX_DOORBELL or SENSE_REQ
reaches no field. BAR2 reads and writes space 0x1.
That Derier's record of a setting may take the place of bytes written to the record area is the model's choice (log 31). -/
def Obligations.HostAccessesReachRegistersAndMemory : Prop :=
  (∀ fn off width, Answers (.registerRead fn off width)
    (fun _ => (width = 4 ∨ width = 8) ∧ off % width = 0 ∧ readsResult fn off = false)
    (fun d e => e = { d with
      draws := d.draws + 1
      out := d.out ++ [.readData (accessPart (bar0Slot d fn (off / 8 * 8)) off width)] })) ∧
  (∀ off width, Answers (.registerRead 0 off width)
    (fun _ => (width = 4 ∨ width = 8) ∧ off % width = 0 ∧ readsResult 0 off = true)
    (fun d e => HostModelsAndLinks d e ∧ e.host = d.host ∧
      e.feed.models = d.feed.models.filter (fun m => !m.reply.any fun p => p.1 == mboxRing) ∧
      (∃ o, e.out = o ++ [.readData (accessPart (bar0Slot d 0 (off / 8 * 8)) off width)]) ∧
      (d.pad.role ≠ .lead → e.pad = d.pad ∧
        e.out = d.out ++ [.readData (accessPart (bar0Slot d 0 (off / 8 * 8)) off width)]))) ∧
  (∀ fn off width, Answers (.registerRead fn off width)
    (fun _ => ¬ ((width = 4 ∨ width = 8) ∧ off % width = 0) ∧ off < 0x1080000)
    (fun d e => e = { d with draws := d.draws + 1, ctr := e.ctr, out := d.out ++ [.readData 0] } ∧
      ∀ o, ctrOf e o = if o = 0xC0 then satAdd (ctrOf d o) 1 else ctrOf d o)) ∧
  (∀ fn off width v, Answers (.registerWrite fn off width v)
    (fun _ => fn ≠ 0 ∧ off < 0x1000000 ∧ (width = 4 ∨ width = 8) ∧ off % width = 0) Unchanged) ∧
  (∀ fn off width v, Answers (.registerWrite fn off width v)
    (fun _ => ¬ ((width = 4 ∨ width = 8) ∧ off % width = 0) ∧ off < 0x1080000) (CountsOnly 0xC0)) ∧
  (∀ off v, Answers (.registerWrite 0 off 4 v) (fun _ => off = 0x2C ∨ off = 0x84 ∨ off = 0x10004) Unchanged) ∧
  (∀ v, Answers (.registerWrite 0 0x18 8 v) (fun _ => True)
    (fun d e => e = { d with draws := d.draws + 1, host := { d.host with hsLayout := v } })) ∧
  (∀ k v, Answers (.registerWrite 0 (0x40 + 8 * k) 8 v) (fun _ => k < 8)
    (fun d e => e = { d with draws := d.draws + 1, host := { d.host with mboxDesc := e.host.mboxDesc } } ∧
      ∀ j, mget 0 e.host.mboxDesc j = if j = k then v else mget 0 d.host.mboxDesc j)) ∧
  (∀ v : W64, Answers (.registerWrite 0 0xA8 8 v) (fun _ => True)
    (fun d e => e = { d with
      draws := d.draws + 1
      host := { d.host with
        bar2Base := if v.toNat % 2 ^ 40 % 2 ^ d.host.bar2Log2 = 0 then v.toNat % 2 ^ 40 else d.host.bar2Base } })) ∧
  (∀ v : W32, Answers (.senseReq v false)
    (fun d => windowOpen d = true ∧ d.sense.adc = none ∧ d.sense.waiting = [])
    (fun d e => e = { d with
      draws := d.draws + 1
      sense := { d.sense with adc := some { who := .host, channel := v.toNat % 64, dac := v.extractLsb' 16 12 } } })) ∧
  (∀ v firmware, Answers (.senseReq v firmware)
    (fun d => windowOpen d = true ∧ (d.sense.adc ≠ none ∨ d.sense.waiting ≠ [] ∨ firmware = true))
    (CountsOnly 0x10010)) ∧
  (∀ v : W64, Answers (.sensePeakClr v) (fun d => windowOpen d = true)
    (fun d e => e = { d with draws := d.draws + 1, sense := { d.sense with peakClr := e.sense.peakClr } } ∧
      ∀ n, mget false e.sense.peakClr n = (v.getLsbD n || mget false d.sense.peakClr n))) ∧
  (∀ v : W64, Answers (.mgmtSettingWrite 0x20100 8 v) (fun d => windowOpen d = true)
    (fun d e => e = { d with
      draws := d.draws + 1
      mem := { d.mem with record := [] }
      health := if 1 ≤ v.toNat / 256 % 64 ∧ v.toNat / 256 % 64 ≤ 60 then
          { d.health with mgmtEnable := v.getLsbD 0, heartbeat := v.toNat / 256 % 64 }
        else d.health })) ∧
  (∀ v : W64, Answers (.mgmtSettingWrite 0x20120 8 v) (fun d => windowOpen d = true)
    (fun d e => e = { d with
      draws := d.draws + 1
      mem := { d.mem with record := [] }
      health := { d.health with collector := v.setWidth 32, collectorPort := v.extractLsb' 32 16,
                                listen := v.extractLsb' 48 16 } })) ∧
  (∀ off len, Answers (.bar2Read off len)
    (fun d => off < 2 ^ d.host.bar2Log2 ∧ windowOpen d = true ∧ d.host.bar2Base + off + len ≤ space1Size)
    (fun d e => e.mem.dram = d.mem.dram ∧ e.mem.loft = d.mem.loft ∧ e.stalls = d.stalls ∧
      Output.bar2 (dramAt d (space1Keys (d.host.bar2Base + off) len))
        ((linesOf (space1Keys (d.host.bar2Base + off) len)).any (lineBad d)) ∈ e.out)) ∧
  (∀ off bs, Answers (.bar2Write off bs)
    (fun d => off < 2 ^ d.host.bar2Log2 ∧ windowOpen d = true ∧ d.host.bar2Base + off + bs.length ≤ space1Size)
    (fun d e => dramAt e (space1Keys (d.host.bar2Base + off) bs.length) = bs ∧
      DramBut (space1Keys (d.host.bar2Base + off) bs.length) d e ∧ e.mem.loft = d.mem.loft ∧ e.stalls = d.stalls)) ∧
  (∀ off bs, Answers (.bar2Write off bs)
    (fun d => off < 2 ^ d.host.bar2Log2 ∧ (windowOpen d = false ∨ space1Size < d.host.bar2Base + off + bs.length))
    (CountsOnly 0xC0)) ∧
  ∀ k, Answers (.bar2Resize k) (fun _ => 30 ≤ k ∧ k ≤ 39)
    (fun d e => e = { d with draws := d.draws + 1, host := { d.host with bar2Log2 := k, bar2Base := 0 } })

/-! ### Rings, doorbells, the mailbox, the handshake -/

/-- R426, R427, R430 to R433, R445, R446: a fetch takes the descriptor at the ring's head; a host memory error stops the
ring; a ring doorbell moves its index or is dropped and counted; the coalescing timeout sends the vector; the mailbox takes
one PF command at a time, and like a ring doorbell is ignored in STATE Failed (R591); a member or a standby takes its lead's
command, and a module alone the plan; HS_GO checks the layout, fixes it with the number of buckets and zeroes the prefix table.
That FAIL reads 0 after a handshake that passes (log 41), and that a module standing alone takes its plan as a forwarded
command (log 36), is the model's choice. Which epoch a command carries while sixteen are outstanding is read from two
rules together (log 37). -/
def Obligations.CommandsArriveThroughRingsAndMailbox : Prop :=
  (∀ r b heads data ok x, Answers (.commandFetch r (some b) heads data ok)
    (fun d => ringOf d r = some x ∧ fetchable d x = true ∧ fetchTurn d x = true ∧ inProgress d < 1024 ∧
      d.health.commandDown = false ∧ b.length = 64 ∧ knownOp b ∧ CidsOk d)
    (fun d e => HostAndLinks d e ∧ (d.pad.role ≠ .lead → HostOnly d e) ∧
      Joined x.owner r b heads data ok (acceptedEpoch d) none d e ∧
      ringOf e r = some { x with head := (x.head + 1) % 2 ^ x.sizeLog2, passed := 0 })) ∧
  (∀ r heads data ok x, Answers (.commandFetch r none heads data ok)
    (fun d => ringOf d r = some x ∧ fetchable d x = true ∧ fetchTurn d x = true ∧ inProgress d < 1024 ∧
      d.health.commandDown = false)
    (fun d e => SparesMachine d e ∧ e.host.cmds = d.host.cmds ∧ (ringOf e r).map (·.state) = some .error)) ∧
  (∀ fn r v x, Answers (.doorbell fn r v)
    (fun d => ringOf d r = some x ∧ d.host.state ≠ .failed ∧ x.owner = fn ∧ x.state = .active ∧ d.host.serving = true ∧
      x.type = .sub ∧
      v.toNat % 2 ^ 16 < 2 ^ x.sizeLog2)
    (fun d e => HostOnly d e ∧ e.host.cmds = d.host.cmds ∧ ringOf e r = some { x with tail := v.toNat % 2 ^ 16 } ∧
      ∀ q, q ≠ r → ringOf e q = ringOf d q)) ∧
  (∀ fn r v x, Answers (.doorbell fn r v)
    (fun d => ringOf d r = some x ∧ d.host.state ≠ .failed ∧ x.owner = fn ∧ x.state = .active ∧ d.host.serving = true ∧
      x.type ≠ .sub ∧ x.heldRecords = [] ∧ v.toNat % 2 ^ 16 < 2 ^ x.sizeLog2 ∧ NoDrain d)
    (fun d e => HostModelsAndLinks d e ∧ ringOf e r = some { x with head := v.toNat % 2 ^ 16 } ∧
      ∀ q, q ≠ r → ringOf e q = ringOf d q)) ∧
  (∀ fn r v, Answers (.doorbell fn r v)
    (fun d => d.host.state ≠ .failed ∧
      (d.host.serving = false ∨ ∀ x, ringOf d r = some x → x.owner ≠ fn ∨ x.state ≠ .active))
    (CountsOnly 0xB0)) ∧
  (∀ fn r v, Answers (.doorbell fn r v) (fun d => d.host.state = .failed) Unchanged) ∧
  (∀ r x, Answers (.coalesceTimeout r)
    (fun d => ringOf d r = some x ∧ x.type = .comp ∧ x.state = .active ∧ x.unsignalled ≠ 0 ∧
      (msixWord d (4 * (x.owner * 1024 + x.vector) + 3)).getLsbD 0 = false)
    (fun d e => SparesMachine d e ∧ ringOf e r = some { x with unsignalled := 0 } ∧
      (∀ q, q ≠ r → ringOf e q = ringOf d q) ∧
      ∃ a w, e.out = d.out ++ [Output.msix x.owner x.vector a w])) ∧
  (∀ v heads data ok, Answers (.mboxDoorbell v heads data ok)
    (fun d => v.getLsbD 0 = true ∧ d.host.state ≠ .failed ∧ (∀ c ∈ d.host.cmds, c.ring ≠ mboxRing) ∧
      d.host.serving = true ∧ knownOp (mboxBytes d) ∧ CidsOk d)
    (fun d e => HostModelsAndLinks d e ∧
      Joined 0 mboxRing (mboxBytes d) heads data ok (acceptedEpoch d) none d e)) ∧
  (∀ v heads data ok, Answers (.mboxDoorbell v heads data ok)
    (fun d => v.getLsbD 0 = true ∧ d.host.state ≠ .failed ∧
      ((∃ c ∈ d.host.cmds, c.ring = mboxRing) ∨ d.host.serving = false))
    (CountsOnly 0xB0)) ∧
  (∀ v heads data ok, Answers (.mboxDoorbell v heads data ok)
    (fun d => v.getLsbD 0 = false ∨ d.host.state = .failed) Unchanged) ∧
  (∀ lead fn desc data n, Answers (.forwardedCommand lead fn desc data n)
    (fun d => desc.length = 64 ∧
      (follower d = true ∨ (d.pad.role = .alone ∧ dOpcode desc = 0x60 ∧ fieldAt desc 32 1 = 0)))
    (fun d e => e = { d with draws := d.draws + 1, host := e.host
                             pad := { d.pad with guests := d.pad.guests.filter fun g => g.cid != lead } } ∧
      Joined fn noRing desc [] data true n (some lead) d e)) ∧
  (∀ v : W64, Answers (.hsGo v)
    (fun d => v.getLsbD 0 = true ∧ d.host.state = .handshake ∧ layoutOk d.host.hsLayout.toNat d.host.hsNb = true)
    (fun d e => e.host = { d.host with state := .running, fail := 0, nbLog2 := d.host.hsNb } ∧
      e.mem.layout = (d.host.hsLayout &&& layoutMask) ∧ e.stalls = d.stalls ∧ e.mem.loft = d.mem.loft ∧
      e.attn.prefixes = [] ∧
      ∀ k, mget 0 e.mem.dram k =
        if reserveBase e ≤ space1Off k ∧ space1Off k < reserveBase e + 2 ^ d.host.hsNb * 128 then 0
        else mget 0 d.mem.dram k)) ∧
  (∀ v : W64, Answers (.hsGo v)
    (fun d => v.getLsbD 0 = true ∧ d.host.state = .handshake ∧ layoutOk d.host.hsLayout.toNat d.host.hsNb = false)
    (fun d e => e = { d with draws := d.draws + 1, host := { d.host with fail := 1 } })) ∧
  ∀ v : W64, Answers (.hsGo v) (fun d => v.getLsbD 0 = false ∨ d.host.state ≠ .handshake) Unchanged

/-- R414, R464, R465, R606: a reset of a function frees its rings, closes its sequences, and stops its routines, here and on
every member; on a member or a standby it touches no command of the lead's functions; losing the host link does so for every
function; PERST_N low is a hot reset, and its release lets the link train; a retrained link serves again.
That a stopped command is kept without its ring until its routines have drained is the model's choice (log 32). -/
def Obligations.FunctionAndLinkResets : Prop :=
  (∀ fn, Answers (.functionLevelReset fn)
    (fun d => fn ≠ 0 ∧ follower d = false ∧ (d.host.cmds.map (·.cid)).Nodup)
    (fun d e => e.mem.loft = d.mem.loft ∧ e.board = d.board ∧
      (∀ r x, ringOf e r = some x → x.owner ≠ fn) ∧
      (∀ id q, seqOf e id = some q → q.owner = fn → q.closing = true) ∧
      (∀ c ∈ e.host.cmds, c.fn = fn → c.ring = noRing ∧ c.stopped = true ∧ c.waiting = []) ∧
      (∀ c ∈ d.host.cmds, c.fn = fn → c.begun = true → c.onStalls = true → c.remote = false →
        ∀ st ∈ c.running, Aborted st d e) ∧
      ∀ m ∈ others d, Tells m (.resetFn fn 0x02) d e)) ∧
  (∀ fn, Answers (.functionLevelReset fn) (fun d => fn ≠ 0 ∧ follower d = true)
    (fun d e => SparesMachine d e ∧ e.attn = d.attn ∧ e.host.cmds = d.host.cmds)) ∧
  Answers (.functionLevelReset 0) (fun _ => True)
    (fun d e => e.mem.loft = d.mem.loft ∧ e.board = d.board ∧ e.host.cfg.vfEnable = false ∧
      (follower d = false → ∀ r x, ringOf e r = some x → 129 ≤ x.owner)) ∧
  Answers .hotReset (fun d => (d.host.cmds.map (·.cid)).Nodup)
    (fun d e => e.mem.loft = d.mem.loft ∧ e.board = d.board ∧ e.host.linkUp = false ∧ e.host.state = d.host.state ∧
      (follower d = false → (∀ r x, ringOf e r = some x → 129 ≤ x.owner) ∧
        ∀ c ∈ d.host.cmds, c.fn < 129 → c.begun = true → c.onStalls = true → c.remote = false →
          ∀ st ∈ c.running, Aborted st d e)) ∧
  Answers (.perstN false) (fun d => d.board.perstLow = false)
    (fun d e => e.board = { d.board with perstLow := true } ∧ e.host.linkUp = false ∧ e.host.state = d.host.state ∧
      (follower d = false → ∀ r x, ringOf e r = some x → 129 ≤ x.owner)) ∧
  Answers (.perstN false) (fun d => d.board.perstLow = true)
    (fun d e => e = { mirrorState d with draws := d.draws + 1 }) ∧
  Answers (.perstN true) (fun d => d.board.powered = true ∧ d.host.state = .booting ∧ d.host.step = 6)
    (fun d e => e.board = { d.board with perstLow := false } ∧
      e.host = { d.host with state := .handshake, step := 8, linkUp := true } ∧
      e.sense = { d.sense with lock := d.sense.lock ||| 0x40 } ∧ SparesMachine d e ∧ e.feed = d.feed) ∧
  Answers .hostLinkRetrained
    (fun d => d.host.linkUp = false ∧ d.board.powered = true ∧ d.board.perstLow = false ∧ d.host.state ≠ .booting)
    (fun d e => e = { d with
      draws := d.draws + 1
      host := { d.host with linkUp := true }
      sense := { d.sense with lock := d.sense.lock ||| 0x40 } })

/-! ### Ports and packets -/

/-- R468 to R474: a port trains, comes Up with what the far end says, and goes Down, counted; the lead routes a link that is Up
again, and a member tells the lead of it; a packet is checked, acknowledged and delivered in sequence order, or discarded with
a request for replay; an operation or a message for another end goes on toward it; a replay sends the packet and all later ones
again.
R506: the codewords that were corrected are counted. That a member tells the lead of a link by a message (log 53), and that
the lead routes both ends of it (log 14), is the model's choice. -/
def Obligations.PortsTrainAndPacketsArriveInOrder : Prop :=
  (∀ p, Answers (.codewordLock p) (fun d => (portOf d p).state = .down ∧ d.board.powered = true)
    (fun d e => e = { d with draws := d.draws + 1, pad := { d.pad with ports := e.pad.ports },
                             sense := { d.sense with lock := d.sense.lock ||| (if p < 8 then 0x80 else 0x100) } } ∧
      portOf e p = { portOf d p with state := .training } ∧ ∀ q, q ≠ p → portOf e q = portOf d q)) ∧
  (∀ p far serial, Answers (.trainingExchange p far serial) (fun d => (portOf d p).state = .training)
    (fun d e => e = { d with draws := d.draws + 1, pad := { d.pad with ports := e.pad.ports } } ∧
      portOf e p =
        { portOf d p with state := .up, peerPort := far, serial := serial, peerIndex := peerIndexOf d serial } ∧
      ∀ q, q ≠ p → portOf e q = portOf d q)) ∧
  (∀ p, ∀ c ∈ [Instr.linkDown p, Instr.trainingTimeout p], Answers c
    (fun d => p < 16 ∧ (if c = .linkDown p then (portOf d p).state ≠ .down else (portOf d p).state = .training))
    (fun d e => (portOf e p).state = .down ∧ (portOf e p).routed = false ∧
      ctrOf e (portReg p 0x28) = satAdd (ctrOf d (portReg p 0x28)) 1)) ∧
  (∀ p far, Answers (.linkUp p)
    (fun d => (portOf d p).state = .up ∧ (portOf d p).routed = false ∧ d.pad.role = .lead ∧
      farEnd d (ownEnd d) p = some far)
    (fun d e => SparesMachine d e ∧ (portOf e p).state = .up ∧ (portOf e p).routed = true)) ∧
  (∀ p, Answers (.linkUp p)
    (fun d => (portOf d p).state = .up ∧ (portOf d p).routed = false ∧ follower d = true ∧
      farEnd d (ownEnd d) p ≠ none)
    (fun d e => SparesMachine d e ∧ (portOf e p).routed = false ∧ Tells 0 (.portUp p) d e)) ∧
  (∀ p pkt, Answers (.packetReceive p pkt)
    (fun d => (portOf d p).state = .up ∧ pkt.crcOk = false ∧ pkt.fecCorrected = 0)
    (fun d e => e = { mirrorState (emit (bump d (portReg p 0x18)) (.packet p pkt.seq (.replay (portOf d p).rxSeq))) with
      draws := d.draws + 1 })) ∧
  (∀ p seq op, Answers (.packetReceive p { seq := seq, crcOk := true, fecOk := true, fecCorrected := 0
                                           body := .request op 0 })
    (fun d => (portOf d p).state = .up ∧ seq = (portOf d p).rxSeq ∧ holdsIndex d (gModule op.addr) = true ∧
      pieceCount (opBytes op) = 1)
    (fun d e => (portOf e p).rxSeq = (seq + 1) % 4096 ∧ Output.packet p seq (.ack seq) ∈ e.out ∧
      e.stalls = d.stalls ∧ e.mem = d.mem ∧
      ∃ o, e.ops = d.ops ++ [o] ∧ o.op = op ∧ o.own = false ∧ o.phase = .sent)) ∧
  (∀ p seq op piece, Answers (.packetReceive p { seq := seq, crcOk := true, fecOk := true, fecCorrected := 0
                                                 body := .request op piece })
    (fun d => (portOf d p).state = .up ∧ seq = (portOf d p).rxSeq ∧ holdsIndex d (gModule op.addr) = true ∧
      1 < pieceCount (opBytes op) ∧
      ∀ x ∈ d.pad.parts, ¬ (x.kind = .request ∧ x.module = op.srcModule ∧ x.id = op.srcId))
    (fun d e => (portOf e p).rxSeq = (seq + 1) % 4096 ∧ Output.packet p seq (.ack seq) ∈ e.out ∧
      SparesMachine d e ∧ ∃ x ∈ e.pad.parts, x.kind = .request ∧ x.module = op.srcModule ∧ x.id = op.srcId ∧
        mget [] x.got piece = op.data)) ∧
  (∀ p seq op piece, Answers (.packetReceive p { seq := seq, crcOk := true, fecOk := true, fecCorrected := 0
                                                 body := .request op piece })
    (fun d => (portOf d p).state = .up ∧ seq = (portOf d p).rxSeq ∧ holdsIndex d (gModule op.addr) = false ∧
      usablePorts d (gModule op.addr) ≠ [])
    (fun d e => SparesMachine d e ∧ Sent (gModule op.addr) (.request op piece) d e)) ∧
  (∀ p seq op back o, Answers (.packetReceive p { seq := seq, crcOk := true, fecOk := true, fecCorrected := 0
                                                  body := .reply op 0 back })
    (fun d => (portOf d p).state = .up ∧ seq = (portOf d p).rxSeq ∧ holdsIndex d op.srcModule = true ∧
      pieceCount (if op.kind = .get then op.len else if isFadd op.kind then elemSize op.kind else 0) = 1 ∧
      opOf d op.srcId = some o ∧ o.own = true ∧ o.phase = .sent ∧ o.dead = false)
    (fun d e => (portOf e p).rxSeq = (seq + 1) % 4096 ∧
      opOf e op.srcId = some { o with phase := .performed, back := back } ∧ e.stalls = d.stalls ∧ e.mem = d.mem)) ∧
  (∀ p seq dst src m, Answers (.packetReceive p { seq := seq, crcOk := true, fecOk := true, fecCorrected := 0
                                                  body := .message dst src m })
    (fun d => (portOf d p).state = .up ∧ seq = (portOf d p).rxSeq ∧ dst ≠ here d)
    (fun d e => SparesMachine d e ∧ Sent dst (.message dst src m) d e)) ∧
  (∀ p seq body n, Answers (.packetReceive p { seq := seq, crcOk := true, fecOk := true, fecCorrected := n
                                               body := body })
    (fun d => (portOf d p).state = .up ∧ isControl body = false ∧ seq ≠ (portOf d p).rxSeq ∧
      ((portOf d p).rxSeq + 4096 - seq) % 4096 ≤ 1024)
    (fun d e => e = { mirrorState (emit (if n = 0 then d else bumpBy d (portReg p 0x20) n) (.packet p seq (.ack seq))) with
      draws := d.draws + 1 })) ∧
  (∀ p pkt seq, Answers (.packetReceive p pkt)
    (fun d => (portOf d p).state = .up ∧ pkt = { seq := pkt.seq, crcOk := true, fecOk := true, fecCorrected := 0
                                                 body := .ack seq } ∧
      (∃ u ∈ (portOf d p).unacked, u.1 = seq) ∧ (portOf d p).queue = [])
    (fun d e => e = { mirrorState (setPort d p { portOf d p with
        unacked := ((portOf d p).unacked.dropWhile fun u => u.1 != seq).drop 1, replays := 0 }) with
      draws := d.draws + 1 })) ∧
  (∀ p seq again, Answers (.replayRequest p seq)
    (fun d => (portOf d p).state = .up ∧ again = (portOf d p).unacked.dropWhile (fun u => u.1 != seq) ∧ again ≠ [] ∧
      (portOf d p).replays < 8)
    (fun d e => (∀ u ∈ again, Output.packet p u.1 u.2 ∈ e.out) ∧
      (portOf e p).replays = (portOf d p).replays + 1 ∧ SparesMachine d e ∧
      ∀ o, ctrOf e o = if o = portReg p 0x10 then satAdd (ctrOf d o) again.length else ctrOf d o)) ∧
  ∀ p seq, Answers (.replayRequest p seq)
    (fun d => p < 16 ∧ (portOf d p).state = .up ∧ (∃ u ∈ (portOf d p).unacked, u.1 = seq) ∧
      8 ≤ (portOf d p).replays)
    (fun _ e => (portOf e p).state = .down)

/-! ### The paddock -/

/-- R443, R444, R472 to R481, R493 to R499: PADDOCK_JOIN makes this module the lead when the plan passes, and goes to every end
of it; it waits while a link trains, is refused for a plan that breaks a rule, and ends when a link stays down; LEAVE makes the
module Alone; TWIN_BIND begins a copy, which holds every mirrored byte and bank, or is refused; the copy's end puts the binding
in step; the standby performs a mirrored write and says so, upon which the operation is performed; UNBIND ends the binding.
What the model chose of the plan's routes and of an UNBIND of nothing is log 36; the messages of a binding are log 40. -/
def Obligations.PaddocksAndTwinsAreFormed : Prop :=
  (∀ cid newest c, Answers (.paddockJoin cid true false newest)
    (fun d => CmdStarts d cid 0x60 (fun c => c.param 32 1 != 1) c ∧ c.param 32 1 = 0 ∧ c.lead = none ∧
      c.dataFailed = false ∧ 16 ≤ c.bytes.length ∧ 1 ≤ planModules c.bytes ∧ planModules c.bytes ≤ 64 ∧
      planStandbys c.bytes ≤ 16 ∧ planLinks c.bytes ≤ 640 ∧ c.dataLen = planLen c.bytes ∧
      c.bytes.length = planLen c.bytes ∧ planReserved c.bytes = false ∧ planRange c.bytes = true ∧
      planBad d.board.serial c.bytes = false ∧ wrongPeer d c.bytes = false ∧ ownLinksUp d c.bytes = true ∧
      moduleBusy d c.cid true = false)
    (fun d e => SparesMachine d e ∧ Begun c id d e ∧ e.pad.role = .lead ∧ e.pad.index = 0 ∧ e.pad.chain = 0 ∧
      e.pad.size = planModules c.bytes ∧ e.pad.modules = modulesOf c.bytes ∧ e.pad.standbys = standbysOf c.bytes ∧
      e.pad.wants = d.pad.wants ++ [{ noWant with
        cid := some c.cid, base := some (newestOf d.pad.requested newest), noBanks := true }] ∧
      ∀ m ∈ planEnds e,
        Tells m (.command c.cid c.fn c.desc (some [c.bytes ++ keyTable d]) (begins d c).epoch) e e)) ∧
  (∀ cid busy newest c, Answers (.paddockJoin cid false busy newest)
    (fun d => CmdStarts d cid 0x60 (fun c => c.param 32 1 != 1) c ∧ c.param 32 1 = 0 ∧ c.lead = none ∧
      c.dataFailed = false ∧ 16 ≤ c.bytes.length ∧ 1 ≤ planModules c.bytes ∧ planModules c.bytes ≤ 64 ∧
      planStandbys c.bytes ≤ 16 ∧ planLinks c.bytes ≤ 640 ∧ c.dataLen = planLen c.bytes ∧
      c.bytes.length = planLen c.bytes ∧ planReserved c.bytes = false ∧ planRange c.bytes = true ∧
      planBad d.board.serial c.bytes = false ∧ wrongPeer d c.bytes = false)
    (fun d e => SparesMachine d e ∧ cmdOf e cid = some { begins d c with begun := false } ∧
      e.pad.joining = some c.cid ∧ e.pad.role = d.pad.role ∧ e.pad.modules = d.pad.modules ∧
      e.pad.wants = d.pad.wants)) ∧
  (∀ cid linksUp busy newest c, Answers (.paddockJoin cid linksUp busy newest)
    (fun d => CmdStarts d cid 0x60 (fun c => c.param 32 1 != 1) c ∧ NoDrain d ∧ c.param 32 1 = 0 ∧ c.lead = none ∧
      c.dataFailed = false ∧ 16 ≤ c.bytes.length ∧ 1 ≤ planModules c.bytes ∧ planModules c.bytes ≤ 64 ∧
      planStandbys c.bytes ≤ 16 ∧ planLinks c.bytes ≤ 640 ∧ c.dataLen = planLen c.bytes ∧
      c.bytes.length = planLen c.bytes ∧ planReserved c.bytes = false ∧ planRange c.bytes = true ∧
      planBad d.board.serial c.bytes = true)
    (fun d e => SparesMachine d e ∧ e.pad.role = d.pad.role ∧ e.pad.modules = d.pad.modules ∧
      e.pad.wants = d.pad.wants ∧ Replied c 0x02 1 0 0 d e)) ∧
  (∀ c, Answers .joinLinkTimeout
    (fun d => d.pad.joining = some c.cid ∧ cmdOf d c.cid = some c ∧ c.lead = none ∧ NoDrain d)
    (fun d e => SparesMachine d e ∧ e.pad.joining = none ∧ e.pad.role = d.pad.role ∧
      e.pad.modules = d.pad.modules ∧ Replied c 0x08 2 0 0 d e)) ∧
  (∀ cid linksUp busy newest c id, ∀ plan : List Byte, Answers (.paddockJoin cid linksUp busy newest)
    (fun d => CmdStarts d cid 0x60 (fun c => c.param 32 1 != 1) c ∧ c.param 32 1 = 0 ∧ c.lead = some id ∧
      plan = c.bytes.take (planLen c.bytes) ∧ ∀ m ∈ modulesOf plan, m.1 ≠ d.board.serial)
    (fun d e => SparesMachine d e ∧ e.host.serving = false ∧ (∀ r, ringOf e r = none) ∧ e.pad.role = .standby ∧
      e.pad.index = 0 ∧ e.pad.modules = modulesOf plan ∧ e.pad.standbys = standbysOf plan ∧
      e.feed.keys = sentKeys (c.bytes.drop plan.length) ∧
      (e.pad.twinOut = [] → Tells 0 (.answer id 0 0 (planModules plan) 0 []) e e))) ∧
  (∀ cid linksUp busy newest c id m, ∀ plan : List Byte, Answers (.paddockJoin cid linksUp busy newest)
    (fun d => CmdStarts d cid 0x60 (fun c => c.param 32 1 != 1) c ∧ c.param 32 1 = 0 ∧ c.lead = some id ∧
      plan = c.bytes.take (planLen c.bytes) ∧ (modulesOf plan).find? (fun m => m.1 == d.board.serial) = some m)
    (fun d e => SparesMachine d e ∧ e.host.serving = false ∧ (∀ r, ringOf e r = none) ∧ e.pad.role = .member ∧
      e.pad.index = m.2.1 ∧ e.pad.chain = m.2.2 ∧ e.pad.modules = modulesOf plan ∧
      e.feed.keys = sentKeys (c.bytes.drop plan.length) ∧
      (e.pad.twinOut = [] → Tells 0 (.answer id 0 0 (planModules plan) 0 []) e e))) ∧
  (∀ cid c, Answers (.paddockLeave cid false)
    (fun d => CmdStarts d cid 0x60 (fun c => c.param 32 1 == 1) c ∧ NoDrain d ∧ c.lead = none ∧ dDataLen c.desc = 0 ∧
      moduleBusy d c.cid false = false ∧ (∀ j ∈ d.attn.jobs, j.hold = none) ∧
      ∀ y ∈ d.host.cmds, y.held = none ∧ y.awaits = none)
    (fun d e => e.stalls = d.stalls ∧ e.cribs = d.cribs ∧ e.mem = d.mem ∧ e.pad.role = .alone ∧ e.pad.index = 0 ∧
      e.pad.modules = [] ∧ e.pad.requested = d.pad.requested ∧
      e.pad.epochs.map (·.num) = d.pad.epochs.map (·.num) ∧ e.pad.twin = .unbound ∧ e.host.serving = true ∧
      (∀ m ∈ planEnds d, Tells m (.command c.cid c.fn c.desc none (begins d c).epoch) d e) ∧
      Recorded c 0 0 1 0 d e)) ∧
  (∀ cid c m entry, ∀ mir : W32, Answers (.twinBind cid true true true)
    (fun d => CmdStarts d cid 0x61 (fun c => c.param 32 1 != 1) c ∧ c.param 32 1 = 0 ∧ c.param 36 4 < 16 ∧
      c.lead = none ∧ m = c.param 33 1 ∧ entry = c.param 34 1 ∧ mir = BitVec.ofNat 32 (c.param 36 4) ∧
      bindRefusal d c true true true = none)
    (fun d e => e.stalls = d.stalls ∧ e.banks = d.banks ∧ DramBut [] d e ∧ LoftBut [] d e ∧ Begun c id d e ∧
      e.pad.bindings = d.pad.bindings ++ [{ index := m, entry := entry, state := .copying, cmd := some c.cid }] ∧
      (∀ k ∈ (64 + entry) :: [m].filter (· != d.pad.index),
        Tells k (.command c.cid c.fn c.desc (c.data.map fun _ => c.entries) (begins d c).epoch) d e) ∧
      (d.pad.role ≠ .standby → m = d.pad.index → e.pad.twin = .copying ∧ e.pad.twinPeer = 64 + entry ∧
        e.pad.mirror = mir ∧ ∃ dram loft banks, TellsTwin (.twinCopy mir dram loft banks) d e ∧
          (∀ k, mirroredDram e k = true → mget 0 d.mem.dram k ≠ 0 → (k, mget 0 d.mem.dram k) ∈ dram) ∧
          (∀ o, mirroredLoft e o = true → mget 0 d.mem.loft o ≠ 0 → (o, mget 0 d.mem.loft o) ∈ loft) ∧
          (mir.getLsbD 0 = true → ∀ p ∈ bankStates d, p.2.1 = .ready ∨ p.2.1 = .live →
            ∃ t ∈ banks, t.key = p.1 ∧ t.image = (bankOf d (livePhys d p.1)).image)))) ∧
  (∀ cid linkUp same ok c id, Answers (.twinBind cid linkUp same ok)
    (fun d => CmdStarts d cid 0x61 (fun c => c.param 32 1 != 1) c ∧ NoDrain d ∧ c.param 32 1 = 0 ∧
      c.param 36 4 < 16 ∧ c.lead = some id ∧ d.pad.role = .standby ∧ d.pad.twin ≠ .copying)
    (fun d e => SparesMachine d e ∧ e.pad.twin = .copying ∧ e.pad.twinPeer = c.param 33 1 ∧
      e.pad.mirror = BitVec.ofNat 32 (c.param 36 4) ∧ Replied c 0 0 0 0 d e)) ∧
  (∀ cid linkUp same ok c k, Answers (.twinBind cid linkUp same ok)
    (fun d => CmdStarts d cid 0x61 (fun c => c.param 32 1 != 1) c ∧ NoDrain d ∧ c.param 32 1 = 0 ∧
      c.param 36 4 < 16 ∧ c.lead = none ∧ bindRefusal d c linkUp same ok = some k)
    (fun d e => SparesMachine d e ∧ e.pad.bindings = d.pad.bindings ∧ e.pad.twin = d.pad.twin ∧
      Replied c 0x08 k 0 0 d e)) ∧
  (∀ c b, Answers .twinCopyDone
    (fun d => d.pad.twin = .copying ∧ mirroring d = true ∧ d.pad.twinReady = true ∧ follower d = false ∧
      bindingOf d d.pad.index = some b ∧ b.state = .copying ∧ b.cmd = some c.cid ∧ cmdOf d c.cid = some c ∧
      c.lead = none ∧ NoDrain d)
    (fun d e => SparesMachine d e ∧ e.pad.twin = .inStep ∧ TellsTwin .twinInStep d e ∧
      (bindingOf e d.pad.index).map (·.state) = some .inStep ∧ Replied c 0 0 0 0 d e)) ∧
  Answers .twinCopyDone
    (fun d => d.pad.twin = .copying ∧ mirroring d = true ∧ d.pad.twinReady = true ∧ follower d = true)
    (fun d e => SparesMachine d e ∧ e.pad.twin = .inStep ∧ TellsTwin .twinInStep d e ∧ Tells 0 .twinInStep d e) ∧
  (∀ p seq dst src n obs, Answers (.packetReceive p { seq := seq, crcOk := true, fecOk := true, fecCorrected := 0
                                                      body := .message dst src (.twinWrite n false obs) })
    (fun d => (portOf d p).state = .up ∧ seq = (portOf d p).rxSeq ∧ d.pad.role = .standby ∧ here d = dst ∧
      (obs.map Prod.fst).Nodup)
    (fun d e => e.stalls = d.stalls ∧ e.banks = d.banks ∧ LoftBut [] d e ∧ DramBut (obs.map Prod.fst) d e ∧
      (∀ q ∈ obs, mget 0 e.mem.dram q.1 = q.2) ∧ TellsTwin (.twinDone n) d e)) ∧
  (∀ p seq dst src n, Answers (.packetReceive p { seq := seq, crcOk := true, fecOk := true, fecCorrected := 0
                                                  body := .message dst src (.twinDone n) })
    (fun d => (portOf d p).state = .up ∧ seq = (portOf d p).rxSeq ∧ here d = dst ∧ (d.ops.map (·.id)).Nodup ∧
      ∀ j ∈ d.attn.jobs, j.hold = none)
    (fun d e => e.stalls = d.stalls ∧ e.mem = d.mem ∧ e.banks = d.banks ∧
      e.pad.twinOut.all (fun k => n < k) = true ∧
      ∀ o ∈ d.ops, ∀ k, o.phase = .mirrored k → if k ≤ n then Performed o.id o o.back e else opOf e o.id = some o)) ∧
  ∀ cid c b, Answers (.twinUnbind cid)
    (fun d => CmdStarts d cid 0x61 (fun c => c.param 32 1 == 1) c ∧ NoDrain d ∧ c.param 36 4 < 16 ∧ c.lead = none ∧
      bindingOf d (c.param 33 1) = some b ∧ b.state ≠ .serving ∧ b.cmd = none ∧ (∀ j ∈ d.attn.jobs, j.hold = none) ∧
      ∀ y ∈ d.host.cmds, y.held = none ∧ y.awaits = none)
    (fun d e => e.stalls = d.stalls ∧ e.mem = d.mem ∧
      e.pad.bindings = d.pad.bindings.filter (fun x => x.index != c.param 33 1) ∧
      (c.param 33 1 = d.pad.index → e.pad.twin = .unbound ∧ e.pad.mirror = 0) ∧ Replied c 0 0 0 0 d e)

/-- R481, R499, R501, R503, R504: a member that loses its lead stops its routines, holds no bank Live and is Alone; a lead whose
twin is lost goes on, and so does the twin's side; the lead's twin that loses it, with more than half of the members it reaches,
takes its index; a lead cut off from its twin and from more than half of its members stops and serves no command.
When an index counts as unreachable on a module is DEDUCED (log 35). That the binding is Serving from the start of the takeover
(log 40), and that stopped commands are kept without their ring until their routines have drained (log 32), is the model's
choice. -/
def Obligations.LossesOfLeadAndTwin : Prop :=
  Answers .leadUnreachable (fun d => d.pad.role = .member ∧ reaches d 0 = false)
    (fun d e => e.pad.role = .alone ∧ e.host.serving = true ∧ (∀ st, Aborted st d e) ∧
      (∀ k, (bankOf e k).state ≠ .live) ∧
      (∀ id q, seqOf e id = some q → q.closing = true) ∧ e.mem.loft = d.mem.loft) ∧
  Answers .twinLost (fun d => d.pad.role = .lead ∧ leadTwinDown d = true ∧ ∀ j ∈ d.attn.jobs, j.hold = none)
    (fun d e => e.pad.twin = .lost ∧ e.stalls = d.stalls ∧ e.mem = d.mem ∧ e.banks = d.banks ∧ e.pad.twinOut = [] ∧
      ∀ b, bindingOf e d.pad.index = some b → b.counts = false) ∧
  Answers .twinLost (fun d => d.pad.role = .standby ∧ leadTwinDown d = true)
    (fun d e => e.pad.twin = .lost ∧ e.stalls = d.stalls ∧ e.mem = d.mem ∧ e.pad.role = .standby) ∧
  Answers .leadTakeover
    (fun d => d.pad.role = .standby ∧ d.pad.twinPeer = 0 ∧ d.pad.twin = .inStep ∧ twinPortUp d = false ∧
      leadIsGone d = true)
    (fun d e => e.pad.role = .lead ∧ e.pad.index = 0 ∧ e.pad.chain = 0 ∧ e.host.serving = true ∧
      (∀ c ∈ e.host.cmds, c.ring = noRing ∧ c.stopped = true) ∧ (∀ st, Aborted st d e) ∧
      (∀ b ∈ e.pad.bindings, b.index = 0 → b.state = .serving) ∧
      e.pad.wants = d.pad.wants ++ [{ noWant with target := 0, takeover := some (0, ownEntry d) }]) ∧
  Answers .leadFenced
    (fun d => d.pad.role = .lead ∧ leadTwinDown d = true ∧ d.pad.modules.length - 1 < 2 * (cutOff d).length ∧
      ∀ j ∈ d.attn.jobs, j.hold = none)
    (fun d e => e.host.serving = false ∧ e.pad.fenced = true ∧ e.host.cmds = [] ∧ e.pad.wants = [] ∧
      (∀ st, Aborted st d e) ∧ e.mem.dram = d.mem.dram ∧ (d.feed.stages = [] → e.banks = d.banks))

/-! ### Epochs -/

/-- R482 to R490: the lead numbers the oldest wanted epoch one after the newest and requests it of every module; a posted epoch
reaches every stall that may take it; a stall reports what it holds, a member's report goes to its lead; an epoch that every
unit and module has reported, the lead's last member too, completes and ends its command, and the lead tells every module; the oldest epoch that is not in use retires; a late epoch is
reported once.
How a member learns of an epoch is the model's choice (log 36). -/
def Obligations.EpochsAreRequestedPostedAndRetired : Prop :=
  (∀ w ws num, Answers .epochRequest
    (fun d => follower d = false ∧ d.pad.wants = w :: ws ∧ (openEpochs d).length < 16 ∧
      num = w.base.getD d.pad.requested + 1)
    (fun d e => e.pad.wants = ws ∧ e.pad.requested = num ∧ e.stalls = d.stalls ∧ e.mem = d.mem ∧
      (∀ cid c, w.cid = some cid → cmdOf d cid = some c → cmdOf e cid = some { c with awaits := some num }) ∧
      (d.pad.role = .lead → ∀ m ∈ stageModules d, m ≠ d.pad.index →
        Tells m (.epochRequest num { w.offer with fits := [] }) d e) ∧
      ∃ x, e.pad.epochs = d.pad.epochs ++ [x] ∧ x.num = num ∧ x.complete = false ∧ x.reports = [] ∧
        x.set = applyWant d w.offer (settingsOf d d.pad.requested) ∧ x.activates = w.activate ∧
        x.retires = w.retire ∧ x.takeover = w.takeover ∧
        ∀ k ∈ x.set.live.map Prod.fst, (bankOf d (livePhys d k)).state = .ready →
          (bankOf e (livePhys d k)).state = .live)) ∧
  (∀ n offer, Answers (.epochPost n offer)
    (fun d => (epochOf d n).isSome = true ∧ ∃ st, st < 1024 ∧ mayPost d n st = true)
    (fun d e => e.mem = d.mem ∧ e.pad.epochs = d.pad.epochs ∧
      (∀ st, stallOf e st = { stallOf d st with posted := (stallOf e st).posted }) ∧
      (∀ st, st < 1024 → (stallOf e st).posted = if mayPost d n st then some n else (stallOf d st).posted) ∧
      ∀ k, bankOf e k = { bankOf d k with pend := (bankOf e k).pend, fit := (bankOf e k).fit })) ∧
  (∀ n o, Answers (.epochPost n (some o))
    (fun d => follower d = true ∧ epochOf d n = none ∧ reached n d.pad.requested = true ∧
      reached d.pad.limiterPosted n = false)
    (fun d e => e.mem = d.mem ∧ e.pad.requested = n ∧ e.pad.limiterPosted = n ∧ e.pad.farrierPosted = n ∧
      ∃ x, e.pad.epochs = d.pad.epochs ++ [x] ∧ x.num = n ∧
        x.set = applyWant d { o with fits := [] } (settingsOf d d.pad.requested) ∧ x.complete = false)) ∧
  (∀ st, Answers (.stallEpochReport st)
    (fun d => (stallOf d st).gone = false ∧ (stallOf d st).reported ≠ (stallOf d st).epoch)
    (fun d e => e.mem = d.mem ∧ e.banks = d.banks ∧ e.pad.epochs = d.pad.epochs ∧
      stallOf e st = { stallOf d st with reported := (stallOf d st).epoch } ∧
      ∀ k, k ≠ st → stallOf e k = stallOf d k)) ∧
  (∀ n x, Answers (.moduleEpochReport 0 n)
    (fun d => d.pad.role = .alone ∧ d.pad.index = 0 ∧ epochOf d n = some x ∧ x.moduleDone = false ∧
      openEpochs d = [x] ∧ unitsReported d n = true ∧ stageModules d = [0] ∧ d.pad.twinOut = [])
    (fun d e => e.mem = d.mem ∧ e.stalls = d.stalls ∧ e.pad.complete = n ∧
      (epochOf e n).map (·.complete) = some true ∧ ∀ c ∈ e.host.cmds, c.awaits ≠ some n)) ∧
  (∀ n x, ∀ m : Nat, Answers (.moduleEpochReport m n)
    (fun d => d.pad.role = .lead ∧ epochOf d n = some x ∧ openEpochs d = [x] ∧ m ≠ d.pad.index ∧ m ∈ stageModules d ∧
      m ∉ x.reports ∧ (∀ k ∈ stageModules d, k = m ∨ k ∈ x.reports ∨ countsFor d n k = false) ∧ d.pad.twinOut = [])
    (fun d e => e.mem = d.mem ∧ e.stalls = d.stalls ∧ e.pad.complete = n ∧
      (epochOf e n).map (·.complete) = some true ∧ (∀ c ∈ e.host.cmds, c.awaits ≠ some n) ∧
      ∀ k ∈ stageModules d, k ≠ d.pad.index → Tells k (.epochComplete n) d e)) ∧
  (∀ n x, ∀ m : Nat, Answers (.moduleEpochReport m n)
    (fun d => m = here d ∧ follower d = true ∧ epochOf d n = some x ∧ x.moduleDone = false ∧ unitsReported d n = true)
    (fun d e => SparesMachine d e ∧ epochOf e n = some { x with moduleDone := true } ∧
      e.pad.complete = d.pad.complete ∧ Tells 0 (.epochReport n) d e)) ∧
  (∀ n elsewhere x rest, Answers (.epochRetire n elsewhere)
    (fun d => d.pad.epochs = x :: rest ∧ x.num = n ∧ d.pad.complete ≠ n ∧ reached d.pad.complete n = true ∧
      epochInUse d n = false ∧ ∀ m ∈ elsewhere, m = here d ∨ countsFor d n m = false)
    (fun d e => e.pad.epochs = rest ∧ e.pad.requested = d.pad.requested ∧ e.pad.complete = d.pad.complete ∧
      e.stalls = d.stalls ∧ e.mem = d.mem ∧
      ∀ k, (bankOf e k).state = (bankOf d k).state ∨
        ((bankOf d k).state = .live ∧ (bankOf e k).state = .ready))) ∧
  ∀ n unit x, Answers (.epochSlow n unit)
    (fun d => epochOf d n = some x ∧ x.complete = false ∧ x.slow = false ∧ follower d = false)
    (fun d e => SparesMachine d e ∧ epochOf e n = some { x with slow := true } ∧ e.pad.complete = d.pad.complete)

/-! ### Health -/

/-- R515 to R526, R533 to R543: a sample that passes marks its bank, one whose own arithmetic fails makes the stall suspect; a
probe counts and marks its bank; a vet run is dated; a watch entry counts failing periods, and its third failure retires the
crib to the spare or its stall; 600 clean periods free it.
That a unit which enters the list has failed in that period is log 18; what the engine does where no bundle is installed, and
that the checks of a probe rest on verdicts given with it, is log 30; that a crib at three failures whose substitution was
dropped is retired anew is log 41. -/
def Obligations.VetEngineJudgesAndWatches : Prop :=
  (∀ st crib s, Answers (.sampleCheck st crib true)
    (fun d => sampleOf d st crib = some s ∧ d.health.healthDown = false ∧ retiredUnit d st crib = false ∧
      s.stall = st ∧ s.crib = crib ∧
      outputsOk (dropSample d s) st crib s.bank s.inputs s.splits s.reps (fun j => s.outs.getD j 0)
        ((List.range 64).map (64 * (s.number % 16) + ·)) = true)
    (fun d e => e.stalls = d.stalls ∧ e.mem.dram = d.mem.dram ∧ ctrOf e 0x20018 = satAdd (ctrOf d 0x20018) 1 ∧
      e.health.samples = d.health.samples.erase s ∧ e.health.watch = d.health.watch ∧
      bankOf e (bankKey st crib s.bank) =
        { bankOf d (bankKey st crib s.bank) with lastPass := d.host.uptimeMs })) ∧
  (∀ st crib s, Answers (.sampleCheck st crib false)
    (fun d => sampleOf d st crib = some s ∧ d.health.healthDown = false ∧ retiredUnit d st crib = false ∧
      s.stall = st ∧ s.crib = crib)
    (fun d e => e.stalls = d.stalls ∧ e.mem.dram = d.mem.dram ∧ e.banks = d.banks ∧
      ctrOf e 0x20038 = satAdd (ctrOf d 0x20038) 1 ∧ e.health.samples = d.health.samples.erase s ∧
      (cribOf e (cribKey st crib)).unsampled = 4095)) ∧
  (∀ st crib b tick residueOk, Answers (.vetProbe st crib b tick residueOk)
    (fun d => d.health.probe = true ∧ d.health.healthDown = false ∧
      ((bankOf d (bankKey st crib b)).state = .ready ∨ (bankOf d (bankKey st crib b)).state = .live) ∧
      cribInUse d st crib = false ∧ mvmWaits d st crib = false ∧ retiredUnit d st crib = false ∧
      0 ≤ creditAfter d (cribKey st crib) tick ∧
      referenceOk d (bankOf d (bankKey st crib b)) = true ∧ canSweep d st crib b = false)
    (fun d e => e.stalls = d.stalls ∧ e.mem = d.mem ∧ ctrOf e 0x20028 = satAdd (ctrOf d 0x20028) 1 ∧
      ctrOf e 0x20030 = ctrOf d 0x20030 ∧
      bankOf e (bankKey st crib b) = { bankOf d (bankKey st crib b) with
        lastPass := d.host.uptimeMs, probes := (bankOf d (bankKey st crib b)).probes + 1 })) ∧
  (∀ st crib b tick residueOk, Answers (.vetProbe st crib b tick residueOk)
    (fun d => d.health.probe = true ∧ d.health.healthDown = false ∧
      ((bankOf d (bankKey st crib b)).state = .ready ∨ (bankOf d (bankKey st crib b)).state = .live) ∧
      cribInUse d st crib = false ∧ mvmWaits d st crib = false ∧ retiredUnit d st crib = false ∧
      0 ≤ creditAfter d (cribKey st crib) tick ∧
      referenceOk d (bankOf d (bankKey st crib b)) = false ∧ canSweep d st crib b = false)
    (fun d e => e.stalls = d.stalls ∧ e.mem = d.mem ∧ ctrOf e 0x20030 = satAdd (ctrOf d 0x20030) 1 ∧
      (bankOf e (bankKey st crib b)).probes = (bankOf d (bankKey st crib b)).probes + 1 ∧
      (d.health.watch = [] → servedIndex (stallOf d st) crib < 16 →
        watchAt e 0 = some { kind := 0, unit := st, crib := servedIndex (stallOf d st) crib,
                             fails := 0, clean := 0, failedNow := true }) ∧
      (16 ≤ servedIndex (stallOf d st) crib → e.health = d.health))) ∧
  (∀ st crib b tick k, ∀ ok : Bool, Answers (.vetProbe st crib b tick true)
    (fun d => d.health.probe = true ∧ d.health.healthDown = false ∧
      ((bankOf d (bankKey st crib b)).state = .ready ∨ (bankOf d (bankKey st crib b)).state = .live) ∧
      cribInUse d st crib = false ∧ mvmWaits d st crib = false ∧ retiredUnit d st crib = false ∧
      0 ≤ creditAfter d (cribKey st crib) tick ∧
      canSweep d st crib b = true ∧ k = (bankOf d (bankKey st crib b)).probes % d.health.patterns ∧
      ok = outputsOk d st crib b (patternOf d k) (convSplits (probeConv d st crib b k)) 1
        (treeOut (probeConv d st crib b k)) (List.range 1024))
    (fun d e => (∀ j, j ≠ st → stallOf e j = stallOf d j) ∧ e.mem.dram = d.mem.dram ∧
      ctrOf e 0x20028 = satAdd (ctrOf d 0x20028) 1 ∧
      (bankOf e (bankKey st crib b)).probes = (bankOf d (bankKey st crib b)).probes + 1 ∧
      (ok = true → (bankOf e (bankKey st crib b)).lastPass = d.host.uptimeMs) ∧
      (ok = false → ctrOf e 0x20030 = satAdd (ctrOf d 0x20030) 1) ∧
      (cribOf e (cribKey st crib)).credit =
        creditAfter d (cribKey st crib) tick - 32 * convTime (probeConv d st crib b k))) ∧
  (∀ st, Answers (.vetRun st []) (fun d => canVet d st = true)
    (fun d e => SparesMachine d e ∧ ctrOf e 0x20040 = satAdd (ctrOf d 0x20040) 1 ∧
      ∀ k, mget none e.health.vetAt k = if k = st then some d.host.uptimeMs else mget none d.health.vetAt k)) ∧
  (∀ st n, Answers (.vetRun st [n]) (fun d => canVet d st = true ∧ n < vTests d.health.bundle)
    (fun d e => SparesMachine d e ∧ ctrOf e 0x20040 = satAdd (ctrOf d 0x20040) 1 ∧
      ctrOf e 0x20048 = satAdd (ctrOf d 0x20048) 1)) ∧
  (∀ n w, Answers (.watchPeriod [])
    (fun d => d.health.healthDown = false ∧ d.health.watch = [(n, some w)] ∧ w.kind = 0 ∧ d.health.probe = true ∧
      w.failedNow = true ∧ w.fails < 2)
    (fun d e => PeriodBegins d e ∧
      watchAt e n = some { w with fails := w.fails + 1, clean := 0, failedNow := false })) ∧
  (∀ n w, Answers (.watchPeriod [])
    (fun d => d.health.healthDown = false ∧ d.health.watch = [(n, some w)] ∧ w.kind = 0 ∧ d.health.probe = true ∧
      w.failedNow = true ∧ w.fails = 2 ∧ (stallOf d w.unit).pendingRetire = false ∧ (stallOf d w.unit).gone = false)
    (fun d e => (watchAt e n).map (·.fails) = some 3 ∧
      ((stallOf d w.unit).spareIndex = none → (stallOf d w.unit).pendingSpare = none →
        (stallOf e w.unit).pendingSpare = some w.crib) ∧
      ((stallOf d w.unit).spareIndex ≠ none → (stallOf e w.unit).pendingRetire = true ∨
        (stallOf d w.unit).pendingSpare = some w.crib))) ∧
  (∀ n w, Answers (.watchPeriod [])
    (fun d => d.health.healthDown = false ∧ d.health.watch = [(n, some w)] ∧ w.kind = 0 ∧ d.health.probe = true ∧
      3 ≤ w.fails ∧ (stallOf d w.unit).pendingRetire = false ∧ (stallOf d w.unit).gone = false ∧
      (stallOf d w.unit).spareIndex = none ∧ (stallOf d w.unit).pendingSpare = none)
    (fun d e => watchAt e n = some { w with failedNow := false } ∧ (stallOf e w.unit).pendingSpare = some w.crib)) ∧
  ∀ n w, Answers (.watchPeriod [(n, [])])
    (fun d => d.health.healthDown = false ∧ d.health.watch = [(n, some w)] ∧ d.health.waitingWatch = [] ∧
      w.kind = 0 ∧ d.health.probe = true ∧ w.failedNow = false ∧ w.fails < 3 ∧
      ∀ b ∈ [0, 1], ∀ x, x = bankOf d (bankKey w.unit (physOf d w.unit w.crib) b) →
        (x.state ≠ .ready ∧ x.state ≠ .live) ∨
          (referenceOk d x = true ∧ canSweep d w.unit (physOf d w.unit w.crib) b = false))
    (fun d e => (∀ k, stallOf e k = { stallOf d k with busy := (stallOf d k).mode != .idle }) ∧ e.mem = d.mem ∧ e.ops = d.ops ∧
      watchAt e n = if w.clean + 1 < 600 then some { w with clean := w.clean + 1 } else none)

/-- R544 to R553: a first mismatch stops its pair, a second resets the module; a restarted pair runs and what was lost with
it has ended; heartbeats and events leave as datagrams, numbered and counted; a dropped event is counted and marked; a pushed
bundle whose last fragment has come is installed or refused, and its result is reported; the port answers ARP and ICMP for
its own address only. That mismatches in both pairs count within the 60 s too, and what a final report holds, are logs 47 and
30; what a new image leaves of the record area is log 31. -/
def Obligations.DerierPairsAndManagementPort : Prop :=
  (Answers (.derierMismatch 0 0) (fun d => d.health.commandDown = false ∧ d.health.healthDown = false)
    (fun d e => e = { d with
      draws := d.draws + 1
      ctr := e.ctr
      health := { d.health with commandDown := true, lost := (d.host.cmds.filter fun c => !c.queued).map (·.cid) } } ∧
      ctrOf e 0x20058 = satAdd (ctrOf d 0x20058) 1)) ∧
  (∀ pair, Answers (.derierMismatch pair 0)
    (fun d => pair ≠ 0 ∧ d.health.commandDown = false ∧ d.health.healthDown = false)
    (fun d e => e = { d with draws := d.draws + 1, ctr := e.ctr, health := { d.health with healthDown := true } } ∧
      ctrOf e 0x20058 = satAdd (ctrOf d 0x20058) 1)) ∧
  (∀ pair recent, Answers (.derierMismatch pair recent)
    (fun d => pairDown d pair = false ∧ (recent ≠ 0 ∨ pairDown d (1 - pair) = true))
    (fun d e => ResetWith (some 5) d e ∧
      (mgmtUp d = true → d.health.mgmtEnable = true → e.health.reportSeq = d.health.reportSeq + 1 ∧
        e.out = d.out ++ [if d.health.sendQueue = [] then datagramOf d 0 [summaryBytes d]
          else datagramOf d 1 (eventRecords d.health.sendOverflow (d.health.sendQueue.take 4))]))) ∧
  (∀ pair, Answers (.derierRestart pair)
    (fun d => d.pad.twinOut = [] ∧ if pair = 0 then d.health.commandDown = true else d.health.healthDown = true)
    (fun d e => e.stalls = d.stalls ∧ e.mem = d.mem ∧
      (pair = 0 → e.health.commandDown = false ∧ e.health.lost = [] ∧ ∀ cid ∈ d.health.lost, cmdOf e cid = none) ∧
      (pair ≠ 0 → e.health.healthDown = false ∧ e.host.cmds = d.host.cmds))) ∧
  (Answers .heartbeat (fun d => reporting d = true)
    (fun d e => SparesMachine d e ∧ e.health = { d.health with reportSeq := d.health.reportSeq + 1 } ∧
      e.out = d.out ++ [datagramOf d 0 [summaryBytes d]] ∧
      ∀ o, ctrOf e o = if o = 0x20060 then satAdd (ctrOf d o) 1 else ctrOf d o)) ∧
  (Answers .eventReport (fun d => reporting d = true ∧ d.health.sendQueue ≠ [])
    (fun d e => SparesMachine d e ∧
      e.health = { d.health with
        reportSeq := d.health.reportSeq + 1, sendQueue := d.health.sendQueue.drop 4, sendOverflow := false } ∧
      e.out = d.out ++ [datagramOf d 1 (eventRecords d.health.sendOverflow (d.health.sendQueue.take 4))] ∧
      ∀ o, ctrOf e o = if o = 0x20060 then satAdd (ctrOf d o) 1 else ctrOf d o)) ∧
  (∀ x xs, Answers .mgmtEventDrop (fun d => d.health.sendQueue = x :: xs)
    (fun d e => e = { d with
      draws := d.draws + 1
      ctr := e.ctr
      health := { d.health with sendQueue := xs, sendOverflow := true } } ∧
      ∀ o, ctrOf e o = if o = 0x20068 then satAdd (ctrOf d o) 1 else ctrOf d o)) ∧
  (∀ port bs fresh, Answers (.pushFragment port bs fresh)
    (fun d => reporting d = false ∨ port ≠ d.health.listen.toNat ∨ fragmentOk bs = false)
    (fun d e => e = { mirrorState d with draws := d.draws + 1 })) ∧
  (∀ port bs fresh m, Answers (.pushFragment port bs fresh)
    (fun d => isPush d port bs = true ∧
      m = mputs none (if fresh = true ∨ d.health.pushTotal ≠ fieldAt bs 8 4 then [] else d.health.pushBytes)
        (fieldAt bs 12 4) ((bs.drop 32).map some) ∧ m.length ≠ fieldAt bs 8 4)
    (fun d e => e = { mirrorState (setHealth d { d.health with pushTotal := fieldAt bs 8 4, pushBytes := m }) with
      draws := d.draws + 1 })) ∧
  (∀ port bs fresh m whole, Answers (.pushFragment port bs fresh)
    (fun d => isPush d port bs = true ∧
      m = mputs none (if fresh = true ∨ d.health.pushTotal ≠ fieldAt bs 8 4 then [] else d.health.pushBytes)
        (fieldAt bs 12 4) ((bs.drop 32).map some) ∧ m.length = fieldAt bs 8 4 ∧ whole = m.map fun p => p.2.getD 0)
    (fun d e => e.stalls = d.stalls ∧ e.health.pushTotal = 0 ∧ e.health.pushBytes = [] ∧
      datagramOf d 2 [toLe 4 (vVersion whole) ++ toLe 1 ((bundleResult d whole).getD 0) ++ List.replicate 27 0] ∈ e.out ∧
      (bundleResult d whole = none → WritesRecords d e ∧ e.health.bundle = whole ∧ e.health.vetVersion = vVersion whole ∧
        ∀ k, (bankOf e k).probes = 0) ∧
      (bundleResult d whole ≠ none → e.mem = d.mem ∧ e.health.bundle = d.health.bundle ∧
        e.health.vetVersion = d.health.vetVersion ∧ e.banks = d.banks))) ∧
  (∀ f, Answers (.arpRequest f) (fun d => mgmtUp d = true ∧ d.health.addr ≠ 0 ∧ f.target = d.health.addr)
    (fun d e => e = { d with draws := d.draws + 1, out := d.out ++ [.arpReply d.health.addr] })) ∧
  (∀ f, Answers (.icmpEcho f) (fun d => mgmtUp d = true ∧ d.health.addr ≠ 0 ∧ f.target = d.health.addr)
    (fun d e => e = { d with draws := d.draws + 1, out := d.out ++ [.icmpReply f.payload] })) ∧
  ∀ f, ∀ c ∈ [Instr.arpRequest f, Instr.icmpEcho f],
    Answers c (fun d => mgmtUp d = false ∨ d.health.addr = 0 ∨ f.target ≠ d.health.addr) Unchanged

/-! ### Sense, power, resets -/

/-- R555 to R562, R568: a scan requests its channels; the idle ADC takes the first request; a conversion's corrected code
goes to its channel's accumulator, to the window's check, or to the sweep; a sweep requests 64 conversions, at once or behind an
injected conversion, and the last of them gives corrections and tables that wait for a window's end, or for the epoch of the
REFIT that they are of. The fits and tables that a sweep gives are free values (log 33). -/
def Obligations.ConversionsAreRequestedAndAccumulated : Prop :=
  (Answers .senseScan (fun d => sensing d = true ∧ d.health.healthDown = false)
    (fun d e => e = { d with
      draws := d.draws + 1
      sense := { d.sense with waiting := e.sense.waiting, checksAsked := true } } ∧
      e.sense.waiting.length = d.sense.waiting.length + 63 + (if d.sense.checksAsked then 0 else 4) ∧
      ∀ n, n < 63 → { who := .thermal, channel := n, dac := 0 : Request } ∈ e.sense.waiting)) ∧
  (∀ r rs, Answers .senseConversionStart (fun d => d.sense.adc = none ∧ d.sense.waiting = r :: rs)
    (fun d e => e = { d with draws := d.draws + 1, sense := { d.sense with adc := some r, waiting := rs } })) ∧
  (∀ raw n dac c, Answers (.senseConversionEnd raw)
    (fun d => d.sense.adc = some { who := .thermal, channel := n, dac := dac } ∧ c = corrected d.sense n raw)
    (fun d e => e = { d with
      draws := d.draws + 1
      sense := { d.sense with
        adc := none, live := e.sense.live, peakMin := e.sense.peakMin, peakMax := e.sense.peakMax
        peakClr := e.sense.peakClr } } ∧
      (mget none d.sense.live n = none → mget none e.sense.live n = some { sum := c, count := 1, mn := c, mx := c }) ∧
      (∀ a, mget none d.sense.live n = some a → mget none e.sense.live n =
        some { sum := a.sum + c, count := a.count + 1, mn := min a.mn c, mx := max a.mx c }) ∧
      ∀ m, m ≠ n → mget none e.sense.live m = mget none d.sense.live m)) ∧
  (∀ raw n dac, Answers (.senseConversionEnd raw)
    (fun d => d.sense.adc = some { who := .check, channel := n, dac := dac })
    (fun d e => e = { d with
      draws := d.draws + 1
      sense := { d.sense with adc := none, checks := d.sense.checks ++ [corrected d.sense n raw] } })) ∧
  (∀ raw n dac, Answers (.senseConversionEnd raw)
    (fun d => d.sense.adc = some { who := .sweep, channel := n, dac := dac } ∧ d.sense.sweepCodes.length < 63)
    (fun d e => e = { d with
      draws := d.draws + 1
      sense := { d.sense with adc := none, sweepCodes := d.sense.sweepCodes ++ [corrected d.sense n raw] } })) ∧
  (∀ raw n dac, Answers (.senseConversionEnd raw)
    (fun d => d.sense.adc = some { who := .sweep, channel := n, dac := dac } ∧ d.sense.sweepCodes.length = 63 ∧
      d.sense.refits = none ∧ d.sense.sweepRefit = false)
    (fun d e => SparesMachine d e ∧ e.sense.adc = none ∧ e.sense.sweeping = false ∧ e.sense.corr = d.sense.corr ∧
      e.sense.pendCorr.length = 64 ∧ (e.sense.pendTables.map (·.length)) = some 14 ∧
      e.sense.tables = d.sense.tables ∧ e.sense.pllBias = d.sense.pllBias ∧ e.sense.sweepMeans = groupMeans d.sense ∧
      e.sense.calCount = satAdd d.sense.calCount 1 ∧
      e.sense.calLastMs = BitVec.ofNat 64 d.host.uptimeMs)) ∧
  (∀ raw n dac cid l k c, Answers (.senseConversionEnd raw)
    (fun d => d.sense.adc = some { who := .sweep, channel := n, dac := dac } ∧ d.sense.sweepCodes.length = 63 ∧
      d.sense.sweepRefit = true ∧ d.sense.refits = some (cid, false, l) ∧ cmdOf d cid = some c ∧
      (∃ b, (k, b) ∈ d.banks ∧ (b.state = .ready ∨ b.state = .live)) ∧ ∀ f ∈ l, f.1 ≠ k)
    (fun d e => SparesMachine d e ∧ e.sense.adc = none ∧ e.sense.sweeping = false ∧ e.sense.corr = d.sense.corr ∧
      e.sense.pendCorr = d.sense.pendCorr ∧ e.sense.pendTables = d.sense.pendTables ∧ e.sense.heldCorr.length = 64 ∧
      (e.sense.heldTables.map (·.length)) = some 14 ∧ e.sense.refits = some (cid, true, l))) ∧
  (Answers .calSweep
    (fun d => sensing d = true ∧ d.sense.sweeping = false ∧ d.sense.sweepWaiting = false ∧ sweepDue d = true ∧
      d.sense.adc = none)
    (fun d e => SparesMachine d e ∧ e.sense.sweeping = true ∧ e.sense.sweepCodes = [] ∧
      e.sense.sweepRefit = refitSweep d ∧ e.sense.waiting.length = d.sense.waiting.length + 64)) ∧
  ∀ dac, Answers .calSweep
    (fun d => sensing d = true ∧ d.sense.sweeping = false ∧ d.sense.sweepWaiting = false ∧ sweepDue d = true ∧
      d.sense.adc = some { who := .host, channel := 63, dac := dac })
    (fun d e => e = { d with
      draws := d.draws + 1, sense := { d.sense with sweepRefit := refitSweep d, sweepWaiting := true } })

/-- R560 to R562, R569, R574 to R583: a window's end latches and clears the accumulators and lets the farrier take its posted
epoch and the corrections that waited, or trips the module; every crib's credit has risen at the duty of the window that
ends; before the thermal loop runs a window is counted and latched only; a DRAM stack at its trip level trips the module, and
what comes back is as after reset. -/
def Obligations.WindowEndsLatchOrTrip : Prop :=
  (∀ facts, Answers (.senseWindowEnd facts) (fun d => sensing d = true)
    (fun d e => e.mem.loft = d.mem.loft ∧
      ((e.board.tripped = true ∧ e.board.powered = false ∧ e.host.state = .booting) ∨
      (e.sense.window = d.sense.window + 1 ∧ e.sense.live = [] ∧ e.sense.checks = [] ∧
        e.pad.farrierEpoch = d.pad.farrierPosted ∧ e.sense.pendCorr = [] ∧ e.sense.pendTables = none ∧
        e.sense.pllBias.length = 10 ∧ e.stalls = d.stalls ∧ e.mem = d.mem ∧ e.banks = d.banks)))) ∧
  (∀ facts, Answers (.senseWindowEnd facts)
    (fun d => d.board.powered = true ∧ sensing d = false)
    (fun d e => e = { d with
        draws := d.draws + 1, cribs := e.cribs
        sense := { d.sense with acc := e.sense.acc, live := [], window := d.sense.window + 1 } })) ∧
  (∀ facts, Answers (.senseWindowEnd facts)
    (fun d => d.board.powered = true ∧ (d.cribs.map Prod.fst).Nodup)
    (fun d e => e.board.powered = false ∨
      ∀ k, (cribOf e k).credit = creditAfter d k 1250000 ∧ (cribOf e k).tick = 0)) ∧
  (∀ facts, Answers (.senseWindowEnd facts)
    (fun d => sensing d = true ∧ ∃ k v, k < 8 ∧ facts.dramTemps[k]? = some v ∧ 12160 ≤ v)
    (fun d e => ResetWith (some 2) d e ∧ e.board.tripped = true ∧ e.board.powered = false ∧
      e.board.tripRecord ≠ none)) ∧
  ∀ facts, Answers (.senseWindowEnd facts) (fun d => sensing d = true ∧ d.sense.adcFail = true)
    (fun d e => e.sense.duty = d.sense.duty ∧ e.sense.gate = d.sense.gate ∨ e.board.powered = false)

/-- R584, R588 to R591, R603 to R606, R616: a lost clock resets the module, loses the host link or takes its ports down; an
input out of range removes power; RESET_N resets or removes it; after a trip only RESET_N or the input starts the module
again; POWER_UP fits every bank that has a valid tag and runs to the handshake, or stops at the step that fails.
The fits and table entries are what the facts of a power-up say, and so is which of two releases was last where no command
says it (log 34); a pulse of RESET_N between 1 and 10 µs may reset the module or not (log 41). -/
def Obligations.PowerClocksAndResets : Prop :=
  (∀ pll, Answers (.pllUnlock pll)
    (fun d => d.board.powered = true ∧ d.sense.lock.getLsbD pll = true ∧ pll ≠ 6 ∧ pll ≠ 7 ∧ pll ≠ 8)
    (fun d e => ResetWith (some 3) d e ∧ e.board.unlockRaise = true ∧ e.sense.lastUnlock = 1 + pll)) ∧
  (Answers (.pllUnlock 6) (fun d => d.board.powered = true ∧ d.sense.lock.getLsbD 6 = true)
    (fun d e => e.host.linkUp = false ∧ e.host.state = d.host.state ∧ e.sense.lastUnlock = 7 ∧
      e.sense.lock.getLsbD 6 = false)) ∧
  (∀ p, p < 16 → Answers (.pllUnlock (7 + p / 8))
    (fun d => d.board.powered = true ∧ d.sense.lock.getLsbD (7 + p / 8) = true)
    (fun _ e => (portOf e p).state = .down)) ∧
  (∀ mv us, Answers (.inputOutOfRange mv us)
    (fun _ => mv ≤ 65000 ∧ (us ≤ 5 ∨ (52000 ≤ mv ∧ mv ≤ 58000))) Unchanged) ∧
  (∀ mv us, Answers (.inputOutOfRange mv us) (fun _ => (mv < 52000 ∨ (58000 < mv ∧ mv ≤ 65000)) ∧ 5 < us)
    (fun d e => ResetWith d.board.causeRecord d e ∧ e.board.powered = false ∧ e.board.inputValid = false ∧
      e.board.tripped = false)) ∧
  (∀ ns, Answers (.resetNAssert ns) (fun _ => ns < 1000) Unchanged) ∧
  (∀ ns, Answers (.resetNAssert ns) (fun _ => 10000 ≤ ns)
    (fun d e => ResetWith d.board.causeRecord d e ∧ e.board.powered = false ∧ e.board.resetLow = true)) ∧
  (∀ ns, Answers (.resetNAssert ns) (fun _ => 1000 ≤ ns ∧ ns < 10000)
    (fun d e => Unchanged d e ∨ (ResetWith d.board.causeRecord d e ∧ e.board.powered = d.board.powered ∧ e.board.cause = 1))) ∧
  (Answers .resetNRelease (fun d => d.board.resetLow = true)
    (fun d e => e = { d with
      draws := d.draws + 1
      board := { d.board with resetLow := false, tripped := false, cause := e.board.cause } } ∧
      (e.board.cause = 1 ∨ (d.board.inputValid = false ∧ e.board.cause = 0)))) ∧
  (∀ facts s, s.dev.board.resetLow = true ∨ s.dev.board.tripped = true →
    exec (.powerUp facts) s = .refused (.notEnabled "POWER_UP")) ∧
  (∀ facts other, Answers (.powerUp facts)
    (fun d => d.board.resetLow = false ∧ d.board.tripped = false ∧ d.board.powered = false ∧ d.board.perstLow = false ∧
      bootImage facts = some other ∧ facts.memoryOk = true ∧ facts.calibrationOk = true ∧
      facts.banksOk = true ∧ (d.banks.map Prod.fst).Nodup)
    (fun d e => e.host.state = .handshake ∧ e.host.step = 8 ∧ e.host.linkUp = true ∧ e.board.powered = true ∧
      e.board.image = other ∧ e.board.pinsMgmtOff = facts.straps.getLsbD 3 ∧ e.board.tripRecord = none ∧
      e.mem = d.mem ∧
      (∀ st, stallOf e st =
        { stallOf d st with side := (stallOf e st).side, sideErr := (stallOf e st).sideErr }) ∧
      (∀ k, k < 7 → mget 0 e.sense.entries k = facts.entries.getD k 0 % 64) ∧
      e.sense.pllBand.length = 10 ∧ e.sense.pllBias.length = 10 ∧ e.sense.tables.length = 14 ∧
      ∀ k, ((tagValid (bankOf d k).tag = false → (bankOf e k).state = .empty) ∧
        (tagValid (bankOf d k).tag = true → ∀ c, factFit facts k = some c →
          (bankOf e k).state = .ready ∧ (bankOf e k).corr = c) ∧
        (tagValid (bankOf d k).tag = true → factFit facts k = none →
          (bankOf e k).state = .stale ∧ (bankOf e k).corr = (bankOf d k).corr)))) ∧
  ∀ facts, Answers (.powerUp facts)
    (fun d => d.board.resetLow = false ∧ d.board.tripped = false ∧ d.board.powered = false ∧
      (bootImage facts = none ∨ facts.memoryOk = false ∨ facts.calibrationOk = false ∨ facts.banksOk = false))
    (fun d e => e.host.state = .failed ∧ e.host.linkUp = !d.board.perstLow ∧
      (e.host.step, e.host.fail) =
        (if bootImage facts = none then (3, 2) else if facts.memoryOk = false then (4, 3)
        else if facts.calibrationOk = false then (5, 4) else (6, 4)))

/-! ### int32 accumulation -/

/-- R253, R254: int32 addition and multiplication on the three sentinels and on normal values. -/
def Obligations.SentinelArithmetic : Prop :=
  (∀ a b, (a = conf ∨ b = conf → satAddI a b = conf) ∧
    (a = psat → b = nsat → satAddI a b = conf ∧ satAddI b a = conf) ∧
    (a = psat → b = psat ∨ isNormal b = true → satAddI a b = psat ∧ satAddI b a = psat) ∧
    (a = nsat → b = nsat ∨ isNormal b = true → satAddI a b = nsat ∧ satAddI b a = nsat) ∧
    (isNormal a = true → isNormal b = true →
      (2 ^ 31 - 2 < a.toInt + b.toInt → satAddI a b = psat) ∧
      (a.toInt + b.toInt < -(2 ^ 31) + 2 → satAddI a b = nsat) ∧
      (-(2 ^ 31) + 2 ≤ a.toInt + b.toInt → a.toInt + b.toInt ≤ 2 ^ 31 - 2 →
        (satAddI a b).toInt = a.toInt + b.toInt ∧ isNormal (satAddI a b) = true))) ∧
  (∀ a, (isNormal a = true → (negI a).toInt = -a.toInt) ∧ negI psat = nsat ∧ negI nsat = psat ∧ negI conf = conf) ∧
  ∀ a b, (a = conf ∨ b = conf → mulI a b = conf) ∧
    (a = psat ∨ a = nsat → b = 0 → mulI a b = conf ∧ mulI b a = conf) ∧
    (a = psat ∨ a = nsat → b ≠ conf → b ≠ 0 →
      (mulI a b = if (a = psat ∧ 0 < b.toInt) ∨ (a = nsat ∧ b.toInt < 0) then psat else nsat) ∧
      mulI b a = mulI a b) ∧
    (isNormal a = true → isNormal b = true → mulI a b =
      if 2 ^ 31 - 2 < a.toInt * b.toInt then psat else if a.toInt * b.toInt < -(2 ^ 31) + 2 then nsat
      else BitVec.ofInt 32 (a.toInt * b.toInt))

/-! ### The machine -/

/-- A step takes the command at the front of the queue and runs it with the queue's rest. -/
def Obligations.StepRunsTheFrontCommand : Prop :=
  ∀ c rest d, step { pending := c :: rest, dev := d } = exec c { pending := rest, dev := d }

/-- A command touches the queue in no case and faults exactly where the input passes its absolute maximum ratings (R3, R616);
with none waiting a millisecond passes (log 2: the model's choice). -/
def Obligations.CommandsKeepTheQueueAndOnlyRatingsFault : Prop :=
  (∀ c s t, exec c s = .next t → t.pending = s.pending) ∧
  (∀ c s f, exec c s = .fault f ↔ f = .outsideRatings ∧ ∃ mv us, c = .inputOutOfRange mv us ∧
    (72000 < mv ∨ (65000 < mv ∧ 10000 < us))) ∧
  ∀ d, step { pending := [], dev := d } = .next { pending := [], dev := { d with host := { d.host with
    uptimeMs := if d.board.powered then d.host.uptimeMs + 1 else d.host.uptimeMs } } }

/-- Every step keeps DRAM, loft, event counters and rings in canonical form, and the ids of the commands in progress different
and below the next one. -/
def Obligations.StepsKeepMemoryCanonicalAndIdsNew : Prop :=
  ∀ s t, Canonical s.dev → step s = .next t → Canonical t.dev

/-- R576, R566, R579: every step keeps the limiter's controls within their limits: the duty from 16 to 256, the gate from 4
to 16. -/
def Obligations.StepsKeepTheLimiterInRange : Prop :=
  ∀ s t, (16 ≤ s.dev.sense.duty ∧ s.dev.sense.duty ≤ 256) ∧ (4 ≤ s.dev.sense.gate ∧ s.dev.sense.gate ≤ 16) →
    step s = .next t →
    (16 ≤ t.dev.sense.duty ∧ t.dev.sense.duty ≤ 256) ∧ (4 ≤ t.dev.sense.gate ∧ t.dev.sense.gate ≤ 16)

/-- R26, R139, R236, R357, R367, R411, R425, R482, R571, R576: what the manual says of the state after reset, and that the
invariants hold in it. -/
def Obligations.ResetLeavesTheModuleBooting : Prop :=
  State.reset.pending = [] ∧ Canonical State.reset.dev ∧
  readSlot State.reset.dev 0x08 = 1 ∧ readSlot State.reset.dev 0x10 = 0 ∧
  readSlot State.reset.dev 0x18 = 0x0000040008040228 ∧ readSlot State.reset.dev 0x20 = 0x14 ∧
  readSlot State.reset.dev 0x1000 = 0x801 ∧ readSlot State.reset.dev 0x1010 = 0x0000040008040228 ∧
  readSlot State.reset.dev 0x2000 = 0x1470 ∧
  (∀ st, st < 1024 → (stallOf State.reset.dev st).mode = .idle ∧ (stallOf State.reset.dev st).thresh = 0x80 ∧
    (∀ k, cGet (stallOf State.reset.dev st) k = 0) ∧ (∀ b n, flagOf (stallOf State.reset.dev st) b n = false)) ∧
  (∀ off, ctrOf State.reset.dev off = 0) ∧ (∀ k, (bankOf State.reset.dev k).state ≠ .live) ∧
  settingsOf State.reset.dev 0 = { power := 1500, live := [], dflt := [], factory := false } ∧
  State.reset.dev.sense.duty = 256 ∧ State.reset.dev.sense.gate = 16 ∧ State.reset.dev.pad.role = .alone
end

