-- ==== Sys2Proof/Laws/Map.lean ====
section
/-! SUPPORT. Laws of the sparse maps: read after write, and the canonical form that every write keeps. -/

namespace Sys2Proof.Machine

open Sys2Proof

variable {α : Type}

@[simp] theorem mget_nil (d : α) (i : Nat) : mget d [] i = d := rfl

theorem mget_mdel_self (d : α) (m : Map α) (i : Nat) : mget d (mdel m i) i = d := by
  induction m with
  | nil => rfl
  | cons p m ih =>
    obtain ⟨k, v⟩ := p
    by_cases h : k = i
    · simpa [mdel, h] using ih
    · simpa [mdel, mget, h] using ih

theorem mget_mdel_ne (d : α) (m : Map α) {i j : Nat} (h : j ≠ i) : mget d (mdel m i) j = mget d m j := by
  induction m with
  | nil => rfl
  | cons p m ih =>
    obtain ⟨k, v⟩ := p
    by_cases hk : k = i
    · subst hk
      have : ¬ k = j := fun e => h e.symm
      simpa [mdel, mget, this] using ih
    · by_cases hj : k = j
      · simp [mdel, mget, hj, h]
      · simpa [mdel, mget, hk, hj] using ih

theorem mget_mins_self (d : α) (m : Map α) (i : Nat) (v : α) (h : ∀ p ∈ m, p.1 ≠ i) : mget d (mins m i v) i = v := by
  induction m with
  | nil => simp [mins, mget]
  | cons p m ih =>
    obtain ⟨k, w⟩ := p
    have hk : ¬ k = i := h (k, w) (by simp)
    by_cases hl : i < k
    · simp [mins, mget, hl]
    · simp only [mins, hl, if_false, mget, hk]
      exact ih fun p hp => h p (by simp [hp])

theorem mget_mins_ne (d : α) (m : Map α) {i j : Nat} (v : α) (h : j ≠ i) : mget d (mins m i v) j = mget d m j := by
  have hij : ¬ i = j := fun e => h e.symm
  induction m with
  | nil => simp [mins, mget, hij]
  | cons p m ih =>
    obtain ⟨k, w⟩ := p
    by_cases hl : i < k
    · simp [mins, mget, hl, hij]
    · simp only [mins, hl, if_false, mget, ih]

theorem key_of_mem_mdel {m : Map α} {i : Nat} {p : Nat × α} (h : p ∈ mdel m i) : p.1 ≠ i := by
  simpa [mdel] using (List.mem_filter.mp h).2

/-- Read after write. -/
@[simp] theorem mget_mput_self [DecidableEq α] (d : α) (m : Map α) (i : Nat) (v : α) : mget d (mput d m i v) i = v := by
  unfold mput
  split
  · next h => rw [mget_mdel_self, h]
  · exact mget_mins_self d _ i v fun _ hp => key_of_mem_mdel hp

/-- A write leaves every other key alone. -/
theorem mget_mput_ne [DecidableEq α] (d : α) (m : Map α) {i j : Nat} (v : α) (h : j ≠ i) :
    mget d (mput d m i v) j = mget d m j := by
  unfold mput
  split
  · exact mget_mdel_ne d m h
  · rw [mget_mins_ne d _ v h, mget_mdel_ne d m h]

theorem mget_mput [DecidableEq α] (d : α) (m : Map α) (i j : Nat) (v : α) :
    mget d (mput d m i v) j = if j = i then v else mget d m j := by
  split
  · next h => rw [h, mget_mput_self]
  · next h => exact mget_mput_ne d m v h

/-! ### The canonical form -/

@[simp] theorem mwf_nil [DecidableEq α] (d : α) : mwf d ([] : Map α) := ⟨List.Pairwise.nil, by simp⟩

theorem mem_mins {m : Map α} {i : Nat} {v : α} {p : Nat × α} : p ∈ mins m i v ↔ p = (i, v) ∨ p ∈ m := by
  induction m with
  | nil => simp [mins]
  | cons q m ih =>
    obtain ⟨k, w⟩ := q
    by_cases hl : i < k
    · simp [mins, hl]
    · simp only [mins, hl, if_false, List.mem_cons, ih]
      exact or_left_comm

theorem mwf_mdel [DecidableEq α] {d : α} {m : Map α} (h : mwf d m) (i : Nat) : mwf d (mdel m i) :=
  ⟨h.1.sublist List.filter_sublist, fun p hp => h.2 p (List.mem_filter.mp hp).1⟩

theorem mins_rising {m : Map α} (h : m.Pairwise fun p q => p.1 < q.1) {i : Nat} (hi : ∀ p ∈ m, p.1 ≠ i) (v : α) :
    (mins m i v).Pairwise fun p q => p.1 < q.1 := by
  induction m with
  | nil => simp [mins]
  | cons q m ih =>
    obtain ⟨k, w⟩ := q
    obtain ⟨hq, hm⟩ := List.pairwise_cons.mp h
    by_cases hl : i < k
    · simp only [mins, hl, if_true]
      refine List.pairwise_cons.mpr ⟨fun p hp => ?_, h⟩
      rcases List.mem_cons.mp hp with rfl | hp
      · exact hl
      · exact Nat.lt_trans hl (hq p hp)
    · simp only [mins, hl, if_false]
      refine List.pairwise_cons.mpr ⟨fun p hp => ?_, ih hm fun p hp => hi p (by simp [hp])⟩
      have hk : k ≠ i := hi (k, w) (by simp)
      rcases mem_mins.mp hp with rfl | hp
      · simp only
        omega
      · exact hq p hp

/-- A write keeps the canonical form. -/
theorem mwf_mput [DecidableEq α] {d : α} {m : Map α} (h : mwf d m) (i : Nat) (v : α) : mwf d (mput d m i v) := by
  unfold mput
  have hd := mwf_mdel h i
  split
  · exact hd
  · next hv =>
    refine ⟨mins_rising hd.1 (fun _ hp => key_of_mem_mdel hp) v, fun p hp => ?_⟩
    rcases mem_mins.mp hp with rfl | hp
    · exact hv
    · exact hd.2 p hp

/-- Consecutive writes keep it. -/
theorem mwf_mputs [DecidableEq α] {d : α} (l : List α) : ∀ {m : Map α} (a : Nat), mwf d m → mwf d (mputs d m a l) := by
  induction l with
  | nil => intro m a h; exact h
  | cons v vs ih => intro m a h; exact ih (a + 1) (mwf_mput h a v)

/-- Consecutive writes leave what lies outside them alone. -/
theorem mget_mputs_outside [DecidableEq α] (d : α) (l : List α) :
    ∀ (m : Map α) (a j : Nat), j < a ∨ a + l.length ≤ j → mget d (mputs d m a l) j = mget d m j := by
  induction l with
  | nil => intro m a j _; rfl
  | cons v vs ih =>
    intro m a j h
    simp only [List.length_cons] at h
    rw [mputs, ih _ _ _ (by omega), mget_mput_ne d m v (by omega)]

/-- Consecutive writes read back. -/
theorem mget_mputs_inside [DecidableEq α] (d : α) (l : List α) :
    ∀ (m : Map α) (a k : Nat), (h : k < l.length) → mget d (mputs d m a l) (a + k) = l[k] := by
  induction l with
  | nil => intro m a k h; simp at h
  | cons v vs ih =>
    intro m a k h
    cases k with
    | zero =>
      rw [mputs, mget_mputs_outside d vs _ _ _ (by omega)]
      simp
    | succ k =>
      rw [mputs, show a + (k + 1) = a + 1 + k by omega, ih _ _ _ (by simpa using h)]
      simp

end Sys2Proof.Machine
end

