-- ==== Sys2Proof/Laws/State.lean ====
section
/-! SUPPORT. One lemma per field per update of the module's state, and reads after writes of its units. -/

namespace Sys2Proof.Machine

open Sys2Proof

variable (d : Dev)

/-! ### setStall -/

@[simp] theorem setStall_draws (st : Nat) (x : Stall) : (setStall d st x).draws = d.draws := rfl
@[simp] theorem setStall_cribs (st : Nat) (x : Stall) : (setStall d st x).cribs = d.cribs := rfl
@[simp] theorem setStall_banks (st : Nat) (x : Stall) : (setStall d st x).banks = d.banks := rfl
@[simp] theorem setStall_ops (st : Nat) (x : Stall) : (setStall d st x).ops = d.ops := rfl
@[simp] theorem setStall_nextId (st : Nat) (x : Stall) : (setStall d st x).nextId = d.nextId := rfl
@[simp] theorem setStall_ctr (st : Nat) (x : Stall) : (setStall d st x).ctr = d.ctr := rfl
@[simp] theorem setStall_mem (st : Nat) (x : Stall) : (setStall d st x).mem = d.mem := rfl
@[simp] theorem setStall_attn (st : Nat) (x : Stall) : (setStall d st x).attn = d.attn := rfl
@[simp] theorem setStall_feed (st : Nat) (x : Stall) : (setStall d st x).feed = d.feed := rfl
@[simp] theorem setStall_host (st : Nat) (x : Stall) : (setStall d st x).host = d.host := rfl
@[simp] theorem setStall_pad (st : Nat) (x : Stall) : (setStall d st x).pad = d.pad := rfl
@[simp] theorem setStall_health (st : Nat) (x : Stall) : (setStall d st x).health = d.health := rfl
@[simp] theorem setStall_sense (st : Nat) (x : Stall) : (setStall d st x).sense = d.sense := rfl
@[simp] theorem setStall_board (st : Nat) (x : Stall) : (setStall d st x).board = d.board := rfl
@[simp] theorem setStall_out (st : Nat) (x : Stall) : (setStall d st x).out = d.out := rfl

/-! ### modStall -/

@[simp] theorem modStall_draws (st : Nat) (f : Stall → Stall) : (modStall d st f).draws = d.draws := rfl
@[simp] theorem modStall_cribs (st : Nat) (f : Stall → Stall) : (modStall d st f).cribs = d.cribs := rfl
@[simp] theorem modStall_banks (st : Nat) (f : Stall → Stall) : (modStall d st f).banks = d.banks := rfl
@[simp] theorem modStall_ops (st : Nat) (f : Stall → Stall) : (modStall d st f).ops = d.ops := rfl
@[simp] theorem modStall_nextId (st : Nat) (f : Stall → Stall) : (modStall d st f).nextId = d.nextId := rfl
@[simp] theorem modStall_ctr (st : Nat) (f : Stall → Stall) : (modStall d st f).ctr = d.ctr := rfl
@[simp] theorem modStall_mem (st : Nat) (f : Stall → Stall) : (modStall d st f).mem = d.mem := rfl
@[simp] theorem modStall_attn (st : Nat) (f : Stall → Stall) : (modStall d st f).attn = d.attn := rfl
@[simp] theorem modStall_feed (st : Nat) (f : Stall → Stall) : (modStall d st f).feed = d.feed := rfl
@[simp] theorem modStall_host (st : Nat) (f : Stall → Stall) : (modStall d st f).host = d.host := rfl
@[simp] theorem modStall_pad (st : Nat) (f : Stall → Stall) : (modStall d st f).pad = d.pad := rfl
@[simp] theorem modStall_health (st : Nat) (f : Stall → Stall) : (modStall d st f).health = d.health := rfl
@[simp] theorem modStall_sense (st : Nat) (f : Stall → Stall) : (modStall d st f).sense = d.sense := rfl
@[simp] theorem modStall_board (st : Nat) (f : Stall → Stall) : (modStall d st f).board = d.board := rfl
@[simp] theorem modStall_out (st : Nat) (f : Stall → Stall) : (modStall d st f).out = d.out := rfl

/-! ### setBank -/

@[simp] theorem setBank_draws (k : Nat) (x : Bank) : (setBank d k x).draws = d.draws := rfl
@[simp] theorem setBank_stalls (k : Nat) (x : Bank) : (setBank d k x).stalls = d.stalls := rfl
@[simp] theorem setBank_cribs (k : Nat) (x : Bank) : (setBank d k x).cribs = d.cribs := rfl
@[simp] theorem setBank_ops (k : Nat) (x : Bank) : (setBank d k x).ops = d.ops := rfl
@[simp] theorem setBank_nextId (k : Nat) (x : Bank) : (setBank d k x).nextId = d.nextId := rfl
@[simp] theorem setBank_ctr (k : Nat) (x : Bank) : (setBank d k x).ctr = d.ctr := rfl
@[simp] theorem setBank_mem (k : Nat) (x : Bank) : (setBank d k x).mem = d.mem := rfl
@[simp] theorem setBank_attn (k : Nat) (x : Bank) : (setBank d k x).attn = d.attn := rfl
@[simp] theorem setBank_feed (k : Nat) (x : Bank) : (setBank d k x).feed = d.feed := rfl
@[simp] theorem setBank_host (k : Nat) (x : Bank) : (setBank d k x).host = d.host := rfl
@[simp] theorem setBank_pad (k : Nat) (x : Bank) : (setBank d k x).pad = d.pad := rfl
@[simp] theorem setBank_health (k : Nat) (x : Bank) : (setBank d k x).health = d.health := rfl
@[simp] theorem setBank_sense (k : Nat) (x : Bank) : (setBank d k x).sense = d.sense := rfl
@[simp] theorem setBank_board (k : Nat) (x : Bank) : (setBank d k x).board = d.board := rfl
@[simp] theorem setBank_out (k : Nat) (x : Bank) : (setBank d k x).out = d.out := rfl

/-! ### modBank -/

@[simp] theorem modBank_draws (k : Nat) (f : Bank → Bank) : (modBank d k f).draws = d.draws := rfl
@[simp] theorem modBank_stalls (k : Nat) (f : Bank → Bank) : (modBank d k f).stalls = d.stalls := rfl
@[simp] theorem modBank_cribs (k : Nat) (f : Bank → Bank) : (modBank d k f).cribs = d.cribs := rfl
@[simp] theorem modBank_ops (k : Nat) (f : Bank → Bank) : (modBank d k f).ops = d.ops := rfl
@[simp] theorem modBank_nextId (k : Nat) (f : Bank → Bank) : (modBank d k f).nextId = d.nextId := rfl
@[simp] theorem modBank_ctr (k : Nat) (f : Bank → Bank) : (modBank d k f).ctr = d.ctr := rfl
@[simp] theorem modBank_mem (k : Nat) (f : Bank → Bank) : (modBank d k f).mem = d.mem := rfl
@[simp] theorem modBank_attn (k : Nat) (f : Bank → Bank) : (modBank d k f).attn = d.attn := rfl
@[simp] theorem modBank_feed (k : Nat) (f : Bank → Bank) : (modBank d k f).feed = d.feed := rfl
@[simp] theorem modBank_host (k : Nat) (f : Bank → Bank) : (modBank d k f).host = d.host := rfl
@[simp] theorem modBank_pad (k : Nat) (f : Bank → Bank) : (modBank d k f).pad = d.pad := rfl
@[simp] theorem modBank_health (k : Nat) (f : Bank → Bank) : (modBank d k f).health = d.health := rfl
@[simp] theorem modBank_sense (k : Nat) (f : Bank → Bank) : (modBank d k f).sense = d.sense := rfl
@[simp] theorem modBank_board (k : Nat) (f : Bank → Bank) : (modBank d k f).board = d.board := rfl
@[simp] theorem modBank_out (k : Nat) (f : Bank → Bank) : (modBank d k f).out = d.out := rfl

/-! ### setCrib -/

@[simp] theorem setCrib_draws (k : Nat) (x : Crib) : (setCrib d k x).draws = d.draws := rfl
@[simp] theorem setCrib_stalls (k : Nat) (x : Crib) : (setCrib d k x).stalls = d.stalls := rfl
@[simp] theorem setCrib_banks (k : Nat) (x : Crib) : (setCrib d k x).banks = d.banks := rfl
@[simp] theorem setCrib_ops (k : Nat) (x : Crib) : (setCrib d k x).ops = d.ops := rfl
@[simp] theorem setCrib_nextId (k : Nat) (x : Crib) : (setCrib d k x).nextId = d.nextId := rfl
@[simp] theorem setCrib_ctr (k : Nat) (x : Crib) : (setCrib d k x).ctr = d.ctr := rfl
@[simp] theorem setCrib_mem (k : Nat) (x : Crib) : (setCrib d k x).mem = d.mem := rfl
@[simp] theorem setCrib_attn (k : Nat) (x : Crib) : (setCrib d k x).attn = d.attn := rfl
@[simp] theorem setCrib_feed (k : Nat) (x : Crib) : (setCrib d k x).feed = d.feed := rfl
@[simp] theorem setCrib_host (k : Nat) (x : Crib) : (setCrib d k x).host = d.host := rfl
@[simp] theorem setCrib_pad (k : Nat) (x : Crib) : (setCrib d k x).pad = d.pad := rfl
@[simp] theorem setCrib_health (k : Nat) (x : Crib) : (setCrib d k x).health = d.health := rfl
@[simp] theorem setCrib_sense (k : Nat) (x : Crib) : (setCrib d k x).sense = d.sense := rfl
@[simp] theorem setCrib_board (k : Nat) (x : Crib) : (setCrib d k x).board = d.board := rfl
@[simp] theorem setCrib_out (k : Nat) (x : Crib) : (setCrib d k x).out = d.out := rfl

/-! ### bumpBy -/

@[simp] theorem bumpBy_draws (o n : Nat) : (bumpBy d o n).draws = d.draws := rfl
@[simp] theorem bumpBy_stalls (o n : Nat) : (bumpBy d o n).stalls = d.stalls := rfl
@[simp] theorem bumpBy_cribs (o n : Nat) : (bumpBy d o n).cribs = d.cribs := rfl
@[simp] theorem bumpBy_banks (o n : Nat) : (bumpBy d o n).banks = d.banks := rfl
@[simp] theorem bumpBy_ops (o n : Nat) : (bumpBy d o n).ops = d.ops := rfl
@[simp] theorem bumpBy_nextId (o n : Nat) : (bumpBy d o n).nextId = d.nextId := rfl
@[simp] theorem bumpBy_mem (o n : Nat) : (bumpBy d o n).mem = d.mem := rfl
@[simp] theorem bumpBy_attn (o n : Nat) : (bumpBy d o n).attn = d.attn := rfl
@[simp] theorem bumpBy_feed (o n : Nat) : (bumpBy d o n).feed = d.feed := rfl
@[simp] theorem bumpBy_host (o n : Nat) : (bumpBy d o n).host = d.host := rfl
@[simp] theorem bumpBy_pad (o n : Nat) : (bumpBy d o n).pad = d.pad := rfl
@[simp] theorem bumpBy_health (o n : Nat) : (bumpBy d o n).health = d.health := rfl
@[simp] theorem bumpBy_sense (o n : Nat) : (bumpBy d o n).sense = d.sense := rfl
@[simp] theorem bumpBy_board (o n : Nat) : (bumpBy d o n).board = d.board := rfl
@[simp] theorem bumpBy_out (o n : Nat) : (bumpBy d o n).out = d.out := rfl

/-! ### bump -/

@[simp] theorem bump_draws (o : Nat) : (bump d o).draws = d.draws := rfl
@[simp] theorem bump_stalls (o : Nat) : (bump d o).stalls = d.stalls := rfl
@[simp] theorem bump_cribs (o : Nat) : (bump d o).cribs = d.cribs := rfl
@[simp] theorem bump_banks (o : Nat) : (bump d o).banks = d.banks := rfl
@[simp] theorem bump_ops (o : Nat) : (bump d o).ops = d.ops := rfl
@[simp] theorem bump_nextId (o : Nat) : (bump d o).nextId = d.nextId := rfl
@[simp] theorem bump_mem (o : Nat) : (bump d o).mem = d.mem := rfl
@[simp] theorem bump_attn (o : Nat) : (bump d o).attn = d.attn := rfl
@[simp] theorem bump_feed (o : Nat) : (bump d o).feed = d.feed := rfl
@[simp] theorem bump_host (o : Nat) : (bump d o).host = d.host := rfl
@[simp] theorem bump_pad (o : Nat) : (bump d o).pad = d.pad := rfl
@[simp] theorem bump_health (o : Nat) : (bump d o).health = d.health := rfl
@[simp] theorem bump_sense (o : Nat) : (bump d o).sense = d.sense := rfl
@[simp] theorem bump_board (o : Nat) : (bump d o).board = d.board := rfl
@[simp] theorem bump_out (o : Nat) : (bump d o).out = d.out := rfl

/-! ### clearCtr -/

@[simp] theorem clearCtr_draws (o : Nat) : (clearCtr d o).draws = d.draws := rfl
@[simp] theorem clearCtr_stalls (o : Nat) : (clearCtr d o).stalls = d.stalls := rfl
@[simp] theorem clearCtr_cribs (o : Nat) : (clearCtr d o).cribs = d.cribs := rfl
@[simp] theorem clearCtr_banks (o : Nat) : (clearCtr d o).banks = d.banks := rfl
@[simp] theorem clearCtr_ops (o : Nat) : (clearCtr d o).ops = d.ops := rfl
@[simp] theorem clearCtr_nextId (o : Nat) : (clearCtr d o).nextId = d.nextId := rfl
@[simp] theorem clearCtr_mem (o : Nat) : (clearCtr d o).mem = d.mem := rfl
@[simp] theorem clearCtr_attn (o : Nat) : (clearCtr d o).attn = d.attn := rfl
@[simp] theorem clearCtr_feed (o : Nat) : (clearCtr d o).feed = d.feed := rfl
@[simp] theorem clearCtr_host (o : Nat) : (clearCtr d o).host = d.host := rfl
@[simp] theorem clearCtr_pad (o : Nat) : (clearCtr d o).pad = d.pad := rfl
@[simp] theorem clearCtr_health (o : Nat) : (clearCtr d o).health = d.health := rfl
@[simp] theorem clearCtr_sense (o : Nat) : (clearCtr d o).sense = d.sense := rfl
@[simp] theorem clearCtr_board (o : Nat) : (clearCtr d o).board = d.board := rfl
@[simp] theorem clearCtr_out (o : Nat) : (clearCtr d o).out = d.out := rfl

/-! ### setRing -/

@[simp] theorem setRing_draws (r : Nat) (x : Option Ring) : (setRing d r x).draws = d.draws := rfl
@[simp] theorem setRing_stalls (r : Nat) (x : Option Ring) : (setRing d r x).stalls = d.stalls := rfl
@[simp] theorem setRing_cribs (r : Nat) (x : Option Ring) : (setRing d r x).cribs = d.cribs := rfl
@[simp] theorem setRing_banks (r : Nat) (x : Option Ring) : (setRing d r x).banks = d.banks := rfl
@[simp] theorem setRing_ops (r : Nat) (x : Option Ring) : (setRing d r x).ops = d.ops := rfl
@[simp] theorem setRing_nextId (r : Nat) (x : Option Ring) : (setRing d r x).nextId = d.nextId := rfl
@[simp] theorem setRing_ctr (r : Nat) (x : Option Ring) : (setRing d r x).ctr = d.ctr := rfl
@[simp] theorem setRing_mem (r : Nat) (x : Option Ring) : (setRing d r x).mem = d.mem := rfl
@[simp] theorem setRing_attn (r : Nat) (x : Option Ring) : (setRing d r x).attn = d.attn := rfl
@[simp] theorem setRing_feed (r : Nat) (x : Option Ring) : (setRing d r x).feed = d.feed := rfl
@[simp] theorem setRing_pad (r : Nat) (x : Option Ring) : (setRing d r x).pad = d.pad := rfl
@[simp] theorem setRing_health (r : Nat) (x : Option Ring) : (setRing d r x).health = d.health := rfl
@[simp] theorem setRing_sense (r : Nat) (x : Option Ring) : (setRing d r x).sense = d.sense := rfl
@[simp] theorem setRing_board (r : Nat) (x : Option Ring) : (setRing d r x).board = d.board := rfl
@[simp] theorem setRing_out (r : Nat) (x : Option Ring) : (setRing d r x).out = d.out := rfl

/-! ### emit -/

@[simp] theorem emit_draws (o : Output) : (emit d o).draws = d.draws := rfl
@[simp] theorem emit_stalls (o : Output) : (emit d o).stalls = d.stalls := rfl
@[simp] theorem emit_cribs (o : Output) : (emit d o).cribs = d.cribs := rfl
@[simp] theorem emit_banks (o : Output) : (emit d o).banks = d.banks := rfl
@[simp] theorem emit_ops (o : Output) : (emit d o).ops = d.ops := rfl
@[simp] theorem emit_nextId (o : Output) : (emit d o).nextId = d.nextId := rfl
@[simp] theorem emit_ctr (o : Output) : (emit d o).ctr = d.ctr := rfl
@[simp] theorem emit_mem (o : Output) : (emit d o).mem = d.mem := rfl
@[simp] theorem emit_attn (o : Output) : (emit d o).attn = d.attn := rfl
@[simp] theorem emit_feed (o : Output) : (emit d o).feed = d.feed := rfl
@[simp] theorem emit_host (o : Output) : (emit d o).host = d.host := rfl
@[simp] theorem emit_pad (o : Output) : (emit d o).pad = d.pad := rfl
@[simp] theorem emit_health (o : Output) : (emit d o).health = d.health := rfl
@[simp] theorem emit_sense (o : Output) : (emit d o).sense = d.sense := rfl
@[simp] theorem emit_board (o : Output) : (emit d o).board = d.board := rfl

/-! ### setMem -/

@[simp] theorem setMem_draws (m : Memory) : (setMem d m).draws = d.draws := rfl
@[simp] theorem setMem_stalls (m : Memory) : (setMem d m).stalls = d.stalls := rfl
@[simp] theorem setMem_cribs (m : Memory) : (setMem d m).cribs = d.cribs := rfl
@[simp] theorem setMem_banks (m : Memory) : (setMem d m).banks = d.banks := rfl
@[simp] theorem setMem_ops (m : Memory) : (setMem d m).ops = d.ops := rfl
@[simp] theorem setMem_nextId (m : Memory) : (setMem d m).nextId = d.nextId := rfl
@[simp] theorem setMem_ctr (m : Memory) : (setMem d m).ctr = d.ctr := rfl
@[simp] theorem setMem_attn (m : Memory) : (setMem d m).attn = d.attn := rfl
@[simp] theorem setMem_feed (m : Memory) : (setMem d m).feed = d.feed := rfl
@[simp] theorem setMem_host (m : Memory) : (setMem d m).host = d.host := rfl
@[simp] theorem setMem_pad (m : Memory) : (setMem d m).pad = d.pad := rfl
@[simp] theorem setMem_health (m : Memory) : (setMem d m).health = d.health := rfl
@[simp] theorem setMem_sense (m : Memory) : (setMem d m).sense = d.sense := rfl
@[simp] theorem setMem_board (m : Memory) : (setMem d m).board = d.board := rfl
@[simp] theorem setMem_out (m : Memory) : (setMem d m).out = d.out := rfl

/-! ### sramWrite -/

@[simp] theorem sramWrite_draws (st buf off : Nat) (bs : List Byte) : (sramWrite d st buf off bs).draws = d.draws := rfl
@[simp] theorem sramWrite_cribs (st buf off : Nat) (bs : List Byte) : (sramWrite d st buf off bs).cribs = d.cribs := rfl
@[simp] theorem sramWrite_banks (st buf off : Nat) (bs : List Byte) : (sramWrite d st buf off bs).banks = d.banks := rfl
@[simp] theorem sramWrite_ops (st buf off : Nat) (bs : List Byte) : (sramWrite d st buf off bs).ops = d.ops := rfl
@[simp] theorem sramWrite_nextId (st buf off : Nat) (bs : List Byte) : (sramWrite d st buf off bs).nextId = d.nextId := rfl
@[simp] theorem sramWrite_ctr (st buf off : Nat) (bs : List Byte) : (sramWrite d st buf off bs).ctr = d.ctr := rfl
@[simp] theorem sramWrite_mem (st buf off : Nat) (bs : List Byte) : (sramWrite d st buf off bs).mem = d.mem := rfl
@[simp] theorem sramWrite_attn (st buf off : Nat) (bs : List Byte) : (sramWrite d st buf off bs).attn = d.attn := rfl
@[simp] theorem sramWrite_feed (st buf off : Nat) (bs : List Byte) : (sramWrite d st buf off bs).feed = d.feed := rfl
@[simp] theorem sramWrite_host (st buf off : Nat) (bs : List Byte) : (sramWrite d st buf off bs).host = d.host := rfl
@[simp] theorem sramWrite_pad (st buf off : Nat) (bs : List Byte) : (sramWrite d st buf off bs).pad = d.pad := rfl
@[simp] theorem sramWrite_health (st buf off : Nat) (bs : List Byte) : (sramWrite d st buf off bs).health = d.health := rfl
@[simp] theorem sramWrite_sense (st buf off : Nat) (bs : List Byte) : (sramWrite d st buf off bs).sense = d.sense := rfl
@[simp] theorem sramWrite_board (st buf off : Nat) (bs : List Byte) : (sramWrite d st buf off bs).board = d.board := rfl
@[simp] theorem sramWrite_out (st buf off : Nat) (bs : List Byte) : (sramWrite d st buf off bs).out = d.out := rfl

/-! ### setPort -/

@[simp] theorem setPort_draws (p : Nat) (x : Port) : (setPort d p x).draws = d.draws := rfl
@[simp] theorem setPort_stalls (p : Nat) (x : Port) : (setPort d p x).stalls = d.stalls := rfl
@[simp] theorem setPort_cribs (p : Nat) (x : Port) : (setPort d p x).cribs = d.cribs := rfl
@[simp] theorem setPort_banks (p : Nat) (x : Port) : (setPort d p x).banks = d.banks := rfl
@[simp] theorem setPort_ops (p : Nat) (x : Port) : (setPort d p x).ops = d.ops := rfl
@[simp] theorem setPort_nextId (p : Nat) (x : Port) : (setPort d p x).nextId = d.nextId := rfl
@[simp] theorem setPort_ctr (p : Nat) (x : Port) : (setPort d p x).ctr = d.ctr := rfl
@[simp] theorem setPort_mem (p : Nat) (x : Port) : (setPort d p x).mem = d.mem := rfl
@[simp] theorem setPort_attn (p : Nat) (x : Port) : (setPort d p x).attn = d.attn := rfl
@[simp] theorem setPort_feed (p : Nat) (x : Port) : (setPort d p x).feed = d.feed := rfl
@[simp] theorem setPort_host (p : Nat) (x : Port) : (setPort d p x).host = d.host := rfl
@[simp] theorem setPort_health (p : Nat) (x : Port) : (setPort d p x).health = d.health := rfl
@[simp] theorem setPort_sense (p : Nat) (x : Port) : (setPort d p x).sense = d.sense := rfl
@[simp] theorem setPort_board (p : Nat) (x : Port) : (setPort d p x).board = d.board := rfl
@[simp] theorem setPort_out (p : Nat) (x : Port) : (setPort d p x).out = d.out := rfl

/-! ### setOps -/

@[simp] theorem setOps_draws (l : List RemOp) : (setOps d l).draws = d.draws := rfl
@[simp] theorem setOps_stalls (l : List RemOp) : (setOps d l).stalls = d.stalls := rfl
@[simp] theorem setOps_cribs (l : List RemOp) : (setOps d l).cribs = d.cribs := rfl
@[simp] theorem setOps_banks (l : List RemOp) : (setOps d l).banks = d.banks := rfl
@[simp] theorem setOps_nextId (l : List RemOp) : (setOps d l).nextId = d.nextId := rfl
@[simp] theorem setOps_ctr (l : List RemOp) : (setOps d l).ctr = d.ctr := rfl
@[simp] theorem setOps_mem (l : List RemOp) : (setOps d l).mem = d.mem := rfl
@[simp] theorem setOps_attn (l : List RemOp) : (setOps d l).attn = d.attn := rfl
@[simp] theorem setOps_feed (l : List RemOp) : (setOps d l).feed = d.feed := rfl
@[simp] theorem setOps_host (l : List RemOp) : (setOps d l).host = d.host := rfl
@[simp] theorem setOps_pad (l : List RemOp) : (setOps d l).pad = d.pad := rfl
@[simp] theorem setOps_health (l : List RemOp) : (setOps d l).health = d.health := rfl
@[simp] theorem setOps_sense (l : List RemOp) : (setOps d l).sense = d.sense := rfl
@[simp] theorem setOps_board (l : List RemOp) : (setOps d l).board = d.board := rfl
@[simp] theorem setOps_out (l : List RemOp) : (setOps d l).out = d.out := rfl

/-! ### putOp -/

@[simp] theorem putOp_draws (o : RemOp) : (putOp d o).draws = d.draws := rfl
@[simp] theorem putOp_stalls (o : RemOp) : (putOp d o).stalls = d.stalls := rfl
@[simp] theorem putOp_cribs (o : RemOp) : (putOp d o).cribs = d.cribs := rfl
@[simp] theorem putOp_banks (o : RemOp) : (putOp d o).banks = d.banks := rfl
@[simp] theorem putOp_nextId (o : RemOp) : (putOp d o).nextId = d.nextId := rfl
@[simp] theorem putOp_ctr (o : RemOp) : (putOp d o).ctr = d.ctr := rfl
@[simp] theorem putOp_mem (o : RemOp) : (putOp d o).mem = d.mem := rfl
@[simp] theorem putOp_attn (o : RemOp) : (putOp d o).attn = d.attn := rfl
@[simp] theorem putOp_feed (o : RemOp) : (putOp d o).feed = d.feed := rfl
@[simp] theorem putOp_host (o : RemOp) : (putOp d o).host = d.host := rfl
@[simp] theorem putOp_pad (o : RemOp) : (putOp d o).pad = d.pad := rfl
@[simp] theorem putOp_health (o : RemOp) : (putOp d o).health = d.health := rfl
@[simp] theorem putOp_sense (o : RemOp) : (putOp d o).sense = d.sense := rfl
@[simp] theorem putOp_board (o : RemOp) : (putOp d o).board = d.board := rfl
@[simp] theorem putOp_out (o : RemOp) : (putOp d o).out = d.out := rfl

/-! ### dropOp -/

@[simp] theorem dropOp_draws (id : Nat) : (dropOp d id).draws = d.draws := rfl
@[simp] theorem dropOp_stalls (id : Nat) : (dropOp d id).stalls = d.stalls := rfl
@[simp] theorem dropOp_cribs (id : Nat) : (dropOp d id).cribs = d.cribs := rfl
@[simp] theorem dropOp_banks (id : Nat) : (dropOp d id).banks = d.banks := rfl
@[simp] theorem dropOp_nextId (id : Nat) : (dropOp d id).nextId = d.nextId := rfl
@[simp] theorem dropOp_ctr (id : Nat) : (dropOp d id).ctr = d.ctr := rfl
@[simp] theorem dropOp_mem (id : Nat) : (dropOp d id).mem = d.mem := rfl
@[simp] theorem dropOp_attn (id : Nat) : (dropOp d id).attn = d.attn := rfl
@[simp] theorem dropOp_feed (id : Nat) : (dropOp d id).feed = d.feed := rfl
@[simp] theorem dropOp_host (id : Nat) : (dropOp d id).host = d.host := rfl
@[simp] theorem dropOp_pad (id : Nat) : (dropOp d id).pad = d.pad := rfl
@[simp] theorem dropOp_health (id : Nat) : (dropOp d id).health = d.health := rfl
@[simp] theorem dropOp_sense (id : Nat) : (dropOp d id).sense = d.sense := rfl
@[simp] theorem dropOp_board (id : Nat) : (dropOp d id).board = d.board := rfl
@[simp] theorem dropOp_out (id : Nat) : (dropOp d id).out = d.out := rfl

/-! ### addCounter -/

@[simp] theorem addCounter_draws (st k : Nat) : (addCounter d st k).draws = d.draws := rfl
@[simp] theorem addCounter_cribs (st k : Nat) : (addCounter d st k).cribs = d.cribs := rfl
@[simp] theorem addCounter_banks (st k : Nat) : (addCounter d st k).banks = d.banks := rfl
@[simp] theorem addCounter_ops (st k : Nat) : (addCounter d st k).ops = d.ops := rfl
@[simp] theorem addCounter_nextId (st k : Nat) : (addCounter d st k).nextId = d.nextId := rfl
@[simp] theorem addCounter_ctr (st k : Nat) : (addCounter d st k).ctr = d.ctr := rfl
@[simp] theorem addCounter_mem (st k : Nat) : (addCounter d st k).mem = d.mem := rfl
@[simp] theorem addCounter_attn (st k : Nat) : (addCounter d st k).attn = d.attn := rfl
@[simp] theorem addCounter_feed (st k : Nat) : (addCounter d st k).feed = d.feed := rfl
@[simp] theorem addCounter_host (st k : Nat) : (addCounter d st k).host = d.host := rfl
@[simp] theorem addCounter_pad (st k : Nat) : (addCounter d st k).pad = d.pad := rfl
@[simp] theorem addCounter_health (st k : Nat) : (addCounter d st k).health = d.health := rfl
@[simp] theorem addCounter_sense (st k : Nat) : (addCounter d st k).sense = d.sense := rfl
@[simp] theorem addCounter_board (st k : Nat) : (addCounter d st k).board = d.board := rfl
@[simp] theorem addCounter_out (st k : Nat) : (addCounter d st k).out = d.out := rfl

/-! ### countViol -/

@[simp] theorem countViol_draws (st : Nat) : (countViol d st).draws = d.draws := rfl
@[simp] theorem countViol_stalls (st : Nat) : (countViol d st).stalls = d.stalls := rfl
@[simp] theorem countViol_cribs (st : Nat) : (countViol d st).cribs = d.cribs := rfl
@[simp] theorem countViol_banks (st : Nat) : (countViol d st).banks = d.banks := rfl
@[simp] theorem countViol_ops (st : Nat) : (countViol d st).ops = d.ops := rfl
@[simp] theorem countViol_nextId (st : Nat) : (countViol d st).nextId = d.nextId := rfl
@[simp] theorem countViol_mem (st : Nat) : (countViol d st).mem = d.mem := rfl
@[simp] theorem countViol_attn (st : Nat) : (countViol d st).attn = d.attn := rfl
@[simp] theorem countViol_feed (st : Nat) : (countViol d st).feed = d.feed := rfl
@[simp] theorem countViol_host (st : Nat) : (countViol d st).host = d.host := rfl
@[simp] theorem countViol_pad (st : Nat) : (countViol d st).pad = d.pad := rfl
@[simp] theorem countViol_health (st : Nat) : (countViol d st).health = d.health := rfl
@[simp] theorem countViol_sense (st : Nat) : (countViol d st).sense = d.sense := rfl
@[simp] theorem countViol_board (st : Nat) : (countViol d st).board = d.board := rfl
@[simp] theorem countViol_out (st : Nat) : (countViol d st).out = d.out := rfl

/-! ### setWatch -/

@[simp] theorem setWatch_draws (n : Nat) (w : Option Watch) : (setWatch d n w).draws = d.draws := rfl
@[simp] theorem setWatch_stalls (n : Nat) (w : Option Watch) : (setWatch d n w).stalls = d.stalls := rfl
@[simp] theorem setWatch_cribs (n : Nat) (w : Option Watch) : (setWatch d n w).cribs = d.cribs := rfl
@[simp] theorem setWatch_banks (n : Nat) (w : Option Watch) : (setWatch d n w).banks = d.banks := rfl
@[simp] theorem setWatch_ops (n : Nat) (w : Option Watch) : (setWatch d n w).ops = d.ops := rfl
@[simp] theorem setWatch_nextId (n : Nat) (w : Option Watch) : (setWatch d n w).nextId = d.nextId := rfl
@[simp] theorem setWatch_ctr (n : Nat) (w : Option Watch) : (setWatch d n w).ctr = d.ctr := rfl
@[simp] theorem setWatch_mem (n : Nat) (w : Option Watch) : (setWatch d n w).mem = d.mem := rfl
@[simp] theorem setWatch_attn (n : Nat) (w : Option Watch) : (setWatch d n w).attn = d.attn := rfl
@[simp] theorem setWatch_feed (n : Nat) (w : Option Watch) : (setWatch d n w).feed = d.feed := rfl
@[simp] theorem setWatch_host (n : Nat) (w : Option Watch) : (setWatch d n w).host = d.host := rfl
@[simp] theorem setWatch_pad (n : Nat) (w : Option Watch) : (setWatch d n w).pad = d.pad := rfl
@[simp] theorem setWatch_sense (n : Nat) (w : Option Watch) : (setWatch d n w).sense = d.sense := rfl
@[simp] theorem setWatch_board (n : Nat) (w : Option Watch) : (setWatch d n w).board = d.board := rfl
@[simp] theorem setWatch_out (n : Nat) (w : Option Watch) : (setWatch d n w).out = d.out := rfl

/-! ### orphanOps -/

@[simp] theorem orphanOps_draws (st : Nat) : (orphanOps d st).draws = d.draws := rfl
@[simp] theorem orphanOps_stalls (st : Nat) : (orphanOps d st).stalls = d.stalls := rfl
@[simp] theorem orphanOps_cribs (st : Nat) : (orphanOps d st).cribs = d.cribs := rfl
@[simp] theorem orphanOps_banks (st : Nat) : (orphanOps d st).banks = d.banks := rfl
@[simp] theorem orphanOps_nextId (st : Nat) : (orphanOps d st).nextId = d.nextId := rfl
@[simp] theorem orphanOps_ctr (st : Nat) : (orphanOps d st).ctr = d.ctr := rfl
@[simp] theorem orphanOps_mem (st : Nat) : (orphanOps d st).mem = d.mem := rfl
@[simp] theorem orphanOps_attn (st : Nat) : (orphanOps d st).attn = d.attn := rfl
@[simp] theorem orphanOps_feed (st : Nat) : (orphanOps d st).feed = d.feed := rfl
@[simp] theorem orphanOps_host (st : Nat) : (orphanOps d st).host = d.host := rfl
@[simp] theorem orphanOps_pad (st : Nat) : (orphanOps d st).pad = d.pad := rfl
@[simp] theorem orphanOps_health (st : Nat) : (orphanOps d st).health = d.health := rfl
@[simp] theorem orphanOps_sense (st : Nat) : (orphanOps d st).sense = d.sense := rfl
@[simp] theorem orphanOps_board (st : Nat) : (orphanOps d st).board = d.board := rfl
@[simp] theorem orphanOps_out (st : Nat) : (orphanOps d st).out = d.out := rfl

/-! ### stopStall -/

@[simp] theorem stopStall_draws (st code detail pc : Nat) : (stopStall d st code detail pc).draws = d.draws := rfl
@[simp] theorem stopStall_cribs (st code detail pc : Nat) : (stopStall d st code detail pc).cribs = d.cribs := rfl
@[simp] theorem stopStall_banks (st code detail pc : Nat) : (stopStall d st code detail pc).banks = d.banks := rfl
@[simp] theorem stopStall_nextId (st code detail pc : Nat) : (stopStall d st code detail pc).nextId = d.nextId := rfl
@[simp] theorem stopStall_ctr (st code detail pc : Nat) : (stopStall d st code detail pc).ctr = d.ctr := rfl
@[simp] theorem stopStall_mem (st code detail pc : Nat) : (stopStall d st code detail pc).mem = d.mem := rfl
@[simp] theorem stopStall_attn (st code detail pc : Nat) : (stopStall d st code detail pc).attn = d.attn := rfl
@[simp] theorem stopStall_feed (st code detail pc : Nat) : (stopStall d st code detail pc).feed = d.feed := rfl
@[simp] theorem stopStall_host (st code detail pc : Nat) : (stopStall d st code detail pc).host = d.host := rfl
@[simp] theorem stopStall_pad (st code detail pc : Nat) : (stopStall d st code detail pc).pad = d.pad := rfl
@[simp] theorem stopStall_health (st code detail pc : Nat) : (stopStall d st code detail pc).health = d.health := rfl
@[simp] theorem stopStall_sense (st code detail pc : Nat) : (stopStall d st code detail pc).sense = d.sense := rfl
@[simp] theorem stopStall_board (st code detail pc : Nat) : (stopStall d st code detail pc).board = d.board := rfl
@[simp] theorem stopStall_out (st code detail pc : Nat) : (stopStall d st code detail pc).out = d.out := rfl

/-! ### stopNow -/

@[simp] theorem stopNow_draws (st code detail : Nat) : (stopNow d st code detail).draws = d.draws := rfl
@[simp] theorem stopNow_cribs (st code detail : Nat) : (stopNow d st code detail).cribs = d.cribs := rfl
@[simp] theorem stopNow_banks (st code detail : Nat) : (stopNow d st code detail).banks = d.banks := rfl
@[simp] theorem stopNow_nextId (st code detail : Nat) : (stopNow d st code detail).nextId = d.nextId := rfl
@[simp] theorem stopNow_ctr (st code detail : Nat) : (stopNow d st code detail).ctr = d.ctr := rfl
@[simp] theorem stopNow_mem (st code detail : Nat) : (stopNow d st code detail).mem = d.mem := rfl
@[simp] theorem stopNow_attn (st code detail : Nat) : (stopNow d st code detail).attn = d.attn := rfl
@[simp] theorem stopNow_feed (st code detail : Nat) : (stopNow d st code detail).feed = d.feed := rfl
@[simp] theorem stopNow_host (st code detail : Nat) : (stopNow d st code detail).host = d.host := rfl
@[simp] theorem stopNow_pad (st code detail : Nat) : (stopNow d st code detail).pad = d.pad := rfl
@[simp] theorem stopNow_health (st code detail : Nat) : (stopNow d st code detail).health = d.health := rfl
@[simp] theorem stopNow_sense (st code detail : Nat) : (stopNow d st code detail).sense = d.sense := rfl
@[simp] theorem stopNow_board (st code detail : Nat) : (stopNow d st code detail).board = d.board := rfl
@[simp] theorem stopNow_out (st code detail : Nat) : (stopNow d st code detail).out = d.out := rfl

/-! ### holdOn -/

@[simp] theorem holdOn_draws (st : Nat) (w : Wait) : (holdOn d st w).draws = d.draws := rfl
@[simp] theorem holdOn_cribs (st : Nat) (w : Wait) : (holdOn d st w).cribs = d.cribs := rfl
@[simp] theorem holdOn_banks (st : Nat) (w : Wait) : (holdOn d st w).banks = d.banks := rfl
@[simp] theorem holdOn_ops (st : Nat) (w : Wait) : (holdOn d st w).ops = d.ops := rfl
@[simp] theorem holdOn_nextId (st : Nat) (w : Wait) : (holdOn d st w).nextId = d.nextId := rfl
@[simp] theorem holdOn_ctr (st : Nat) (w : Wait) : (holdOn d st w).ctr = d.ctr := rfl
@[simp] theorem holdOn_mem (st : Nat) (w : Wait) : (holdOn d st w).mem = d.mem := rfl
@[simp] theorem holdOn_attn (st : Nat) (w : Wait) : (holdOn d st w).attn = d.attn := rfl
@[simp] theorem holdOn_feed (st : Nat) (w : Wait) : (holdOn d st w).feed = d.feed := rfl
@[simp] theorem holdOn_host (st : Nat) (w : Wait) : (holdOn d st w).host = d.host := rfl
@[simp] theorem holdOn_pad (st : Nat) (w : Wait) : (holdOn d st w).pad = d.pad := rfl
@[simp] theorem holdOn_health (st : Nat) (w : Wait) : (holdOn d st w).health = d.health := rfl
@[simp] theorem holdOn_sense (st : Nat) (w : Wait) : (holdOn d st w).sense = d.sense := rfl
@[simp] theorem holdOn_board (st : Nat) (w : Wait) : (holdOn d st w).board = d.board := rfl
@[simp] theorem holdOn_out (st : Nat) (w : Wait) : (holdOn d st w).out = d.out := rfl

/-! ### advance -/

@[simp] theorem advance_draws (st pc : Nat) : (advance d st pc).draws = d.draws := rfl
@[simp] theorem advance_cribs (st pc : Nat) : (advance d st pc).cribs = d.cribs := rfl
@[simp] theorem advance_banks (st pc : Nat) : (advance d st pc).banks = d.banks := rfl
@[simp] theorem advance_ops (st pc : Nat) : (advance d st pc).ops = d.ops := rfl
@[simp] theorem advance_nextId (st pc : Nat) : (advance d st pc).nextId = d.nextId := rfl
@[simp] theorem advance_ctr (st pc : Nat) : (advance d st pc).ctr = d.ctr := rfl
@[simp] theorem advance_mem (st pc : Nat) : (advance d st pc).mem = d.mem := rfl
@[simp] theorem advance_attn (st pc : Nat) : (advance d st pc).attn = d.attn := rfl
@[simp] theorem advance_feed (st pc : Nat) : (advance d st pc).feed = d.feed := rfl
@[simp] theorem advance_host (st pc : Nat) : (advance d st pc).host = d.host := rfl
@[simp] theorem advance_pad (st pc : Nat) : (advance d st pc).pad = d.pad := rfl
@[simp] theorem advance_health (st pc : Nat) : (advance d st pc).health = d.health := rfl
@[simp] theorem advance_sense (st pc : Nat) : (advance d st pc).sense = d.sense := rfl
@[simp] theorem advance_board (st pc : Nat) : (advance d st pc).board = d.board := rfl
@[simp] theorem advance_out (st pc : Nat) : (advance d st pc).out = d.out := rfl

/-! ### setCmds -/

@[simp] theorem setCmds_draws (l : List Cmd) : (setCmds d l).draws = d.draws := rfl
@[simp] theorem setCmds_stalls (l : List Cmd) : (setCmds d l).stalls = d.stalls := rfl
@[simp] theorem setCmds_cribs (l : List Cmd) : (setCmds d l).cribs = d.cribs := rfl
@[simp] theorem setCmds_banks (l : List Cmd) : (setCmds d l).banks = d.banks := rfl
@[simp] theorem setCmds_ops (l : List Cmd) : (setCmds d l).ops = d.ops := rfl
@[simp] theorem setCmds_nextId (l : List Cmd) : (setCmds d l).nextId = d.nextId := rfl
@[simp] theorem setCmds_ctr (l : List Cmd) : (setCmds d l).ctr = d.ctr := rfl
@[simp] theorem setCmds_mem (l : List Cmd) : (setCmds d l).mem = d.mem := rfl
@[simp] theorem setCmds_attn (l : List Cmd) : (setCmds d l).attn = d.attn := rfl
@[simp] theorem setCmds_feed (l : List Cmd) : (setCmds d l).feed = d.feed := rfl
@[simp] theorem setCmds_pad (l : List Cmd) : (setCmds d l).pad = d.pad := rfl
@[simp] theorem setCmds_health (l : List Cmd) : (setCmds d l).health = d.health := rfl
@[simp] theorem setCmds_sense (l : List Cmd) : (setCmds d l).sense = d.sense := rfl
@[simp] theorem setCmds_board (l : List Cmd) : (setCmds d l).board = d.board := rfl
@[simp] theorem setCmds_out (l : List Cmd) : (setCmds d l).out = d.out := rfl

/-! ### putCmd -/

@[simp] theorem putCmd_draws (c : Cmd) : (putCmd d c).draws = d.draws := rfl
@[simp] theorem putCmd_stalls (c : Cmd) : (putCmd d c).stalls = d.stalls := rfl
@[simp] theorem putCmd_cribs (c : Cmd) : (putCmd d c).cribs = d.cribs := rfl
@[simp] theorem putCmd_banks (c : Cmd) : (putCmd d c).banks = d.banks := rfl
@[simp] theorem putCmd_ops (c : Cmd) : (putCmd d c).ops = d.ops := rfl
@[simp] theorem putCmd_nextId (c : Cmd) : (putCmd d c).nextId = d.nextId := rfl
@[simp] theorem putCmd_ctr (c : Cmd) : (putCmd d c).ctr = d.ctr := rfl
@[simp] theorem putCmd_mem (c : Cmd) : (putCmd d c).mem = d.mem := rfl
@[simp] theorem putCmd_attn (c : Cmd) : (putCmd d c).attn = d.attn := rfl
@[simp] theorem putCmd_feed (c : Cmd) : (putCmd d c).feed = d.feed := rfl
@[simp] theorem putCmd_pad (c : Cmd) : (putCmd d c).pad = d.pad := rfl
@[simp] theorem putCmd_health (c : Cmd) : (putCmd d c).health = d.health := rfl
@[simp] theorem putCmd_sense (c : Cmd) : (putCmd d c).sense = d.sense := rfl
@[simp] theorem putCmd_board (c : Cmd) : (putCmd d c).board = d.board := rfl
@[simp] theorem putCmd_out (c : Cmd) : (putCmd d c).out = d.out := rfl

/-! ### setSeq -/

@[simp] theorem setSeq_draws (id : Nat) (q : Option Seq) : (setSeq d id q).draws = d.draws := rfl
@[simp] theorem setSeq_stalls (id : Nat) (q : Option Seq) : (setSeq d id q).stalls = d.stalls := rfl
@[simp] theorem setSeq_cribs (id : Nat) (q : Option Seq) : (setSeq d id q).cribs = d.cribs := rfl
@[simp] theorem setSeq_banks (id : Nat) (q : Option Seq) : (setSeq d id q).banks = d.banks := rfl
@[simp] theorem setSeq_ops (id : Nat) (q : Option Seq) : (setSeq d id q).ops = d.ops := rfl
@[simp] theorem setSeq_nextId (id : Nat) (q : Option Seq) : (setSeq d id q).nextId = d.nextId := rfl
@[simp] theorem setSeq_ctr (id : Nat) (q : Option Seq) : (setSeq d id q).ctr = d.ctr := rfl
@[simp] theorem setSeq_mem (id : Nat) (q : Option Seq) : (setSeq d id q).mem = d.mem := rfl
@[simp] theorem setSeq_feed (id : Nat) (q : Option Seq) : (setSeq d id q).feed = d.feed := rfl
@[simp] theorem setSeq_host (id : Nat) (q : Option Seq) : (setSeq d id q).host = d.host := rfl
@[simp] theorem setSeq_pad (id : Nat) (q : Option Seq) : (setSeq d id q).pad = d.pad := rfl
@[simp] theorem setSeq_health (id : Nat) (q : Option Seq) : (setSeq d id q).health = d.health := rfl
@[simp] theorem setSeq_sense (id : Nat) (q : Option Seq) : (setSeq d id q).sense = d.sense := rfl
@[simp] theorem setSeq_board (id : Nat) (q : Option Seq) : (setSeq d id q).board = d.board := rfl
@[simp] theorem setSeq_out (id : Nat) (q : Option Seq) : (setSeq d id q).out = d.out := rfl

/-! ### Reads after writes -/

theorem stallOf_setStall (st k : Nat) (x : Stall) : stallOf (setStall d st x) k = if k = st then x else stallOf d k :=
  mget_mput ..

@[simp] theorem stallOf_setStall_self (st : Nat) (x : Stall) : stallOf (setStall d st x) st = x := mget_mput_self ..

theorem stallOf_setStall_ne {st k : Nat} (x : Stall) (h : k ≠ st) : stallOf (setStall d st x) k = stallOf d k :=
  mget_mput_ne _ _ _ h

@[simp] theorem stallOf_modStall_self (st : Nat) (f : Stall → Stall) :
    stallOf (modStall d st f) st = f (stallOf d st) := mget_mput_self ..

theorem stallOf_modStall_ne {st k : Nat} (f : Stall → Stall) (h : k ≠ st) :
    stallOf (modStall d st f) k = stallOf d k := mget_mput_ne _ _ _ h

theorem stallOf_congr {d e : Dev} (h : e.stalls = d.stalls) (k : Nat) : stallOf e k = stallOf d k := by
  simp [stallOf, h]

@[simp] theorem stallOf_bumpBy (o n k : Nat) : stallOf (bumpBy d o n) k = stallOf d k := rfl
@[simp] theorem stallOf_bump (o k : Nat) : stallOf (bump d o) k = stallOf d k := rfl
@[simp] theorem stallOf_setOps (l : List RemOp) (k : Nat) : stallOf (setOps d l) k = stallOf d k := rfl
@[simp] theorem stallOf_orphanOps (st k : Nat) : stallOf (orphanOps d st) k = stallOf d k := rfl
@[simp] theorem stallOf_putOp (o : RemOp) (k : Nat) : stallOf (putOp d o) k = stallOf d k := rfl
@[simp] theorem stallOf_setMem (m : Memory) (k : Nat) : stallOf (setMem d m) k = stallOf d k := rfl
@[simp] theorem stallOf_emit (o : Output) (k : Nat) : stallOf (emit d o) k = stallOf d k := rfl
@[simp] theorem stallOf_setRing (r : Nat) (x : Option Ring) (k : Nat) : stallOf (setRing d r x) k = stallOf d k := rfl

@[simp] theorem bankOf_setBank_self (k : Nat) (x : Bank) : bankOf (setBank d k x) k = x := mget_mput_self ..

theorem bankOf_setBank_ne {k j : Nat} (x : Bank) (h : j ≠ k) : bankOf (setBank d k x) j = bankOf d j :=
  mget_mput_ne _ _ _ h

@[simp] theorem cribOf_setCrib_self (k : Nat) (x : Crib) : cribOf (setCrib d k x) k = x := mget_mput_self ..

theorem cribOf_setCrib_ne {k j : Nat} (x : Crib) (h : j ≠ k) : cribOf (setCrib d k x) j = cribOf d j :=
  mget_mput_ne _ _ _ h

@[simp] theorem ringOf_setRing_self (r : Nat) (x : Option Ring) : ringOf (setRing d r x) r = x := mget_mput_self ..

theorem ringOf_setRing_ne {r q : Nat} (x : Option Ring) (h : q ≠ r) : ringOf (setRing d r x) q = ringOf d q :=
  mget_mput_ne _ _ _ h

@[simp] theorem seqOf_setSeq_self (id : Nat) (q : Option Seq) : seqOf (setSeq d id q) id = q := mget_mput_self ..

theorem seqOf_setSeq_ne {id j : Nat} (q : Option Seq) (h : j ≠ id) : seqOf (setSeq d id q) j = seqOf d j :=
  mget_mput_ne _ _ _ h

@[simp] theorem portOf_setPort_self (p : Nat) (x : Port) : portOf (setPort d p x) p = x := mget_mput_self ..

theorem portOf_setPort_ne {p q : Nat} (x : Port) (h : q ≠ p) : portOf (setPort d p x) q = portOf d q :=
  mget_mput_ne _ _ _ h

/-- A counter counted, saturating (R14); every other one as before. -/
theorem ctrOf_bumpBy (o n k : Nat) : ctrOf (bumpBy d o n) k = if k = o then satAdd (ctrOf d o) n else ctrOf d k :=
  mget_mput ..

/-! ### Registers of a stall (R141) -/

variable (x : Stall)

@[simp] theorem sGet_zero : sGet x 0 = 0 := rfl

@[simp] theorem sSet_zero (v : W64) : sSet x 0 v = x := rfl

/-- A scalar register reads what was written, and s0 zero. -/
theorem sGet_sSet (n m : Nat) (v : W64) : sGet (sSet x n v) m = if m = n then (if n = 0 then 0 else v) else sGet x m := by
  unfold sGet sSet
  by_cases hn : n = 0
  · subst hn
    by_cases hm : m = 0 <;> simp [hm]
  · by_cases hm : m = 0
    · subst hm
      simp [Ne.symm hn]
    · simp only [hn, hm, if_false]
      exact mget_mput ..

theorem sSet_fields (n : Nat) (v : W64) : sSet x n v = { x with sreg := (sSet x n v).sreg } := by
  unfold sSet
  split <;> rfl

theorem aGet_aSet (n m : Nat) (v : W64) : aGet (aSet x n v) m = if m = n then v else aGet x m := mget_mput ..
theorem pGet_pSet (n m : Nat) (v : W64) : pGet (pSet x n v) m = if m = n then v else pGet x m := mget_mput ..
theorem cGet_cSet (n m : Nat) (v : W32) : cGet (cSet x n v) m = if m = n then v else cGet x m := mget_mput ..

/-- The vector file after a masked write of one register's lanes, key by key. -/
theorem mget_lanes (base : Nat) (mask : Nat → Bool) (f : Nat → W32) :
    ∀ (n : Nat) (m : Map W32) (k : Nat),
      mget 0 ((List.range n).foldl (fun m k => if mask k then mput 0 m (base + k) (f k) else m) m) k =
        if base ≤ k ∧ k < base + n ∧ mask (k - base) then f (k - base) else mget 0 m k := by
  intro n
  induction n with
  | zero =>
    intro m k
    have : ¬ (base ≤ k ∧ k < base + 0) := by omega
    simp only [← and_assoc, this, false_and, if_false, List.range_zero, List.foldl_nil]
  | succ n ih =>
    intro m k
    rw [List.range_succ, List.foldl_append, List.foldl_cons, List.foldl_nil]
    by_cases hk : k = base + n
    · subst hk
      by_cases hm : mask n
      · simp [hm]
      · simp only [hm, Bool.false_eq_true, if_false]
        rw [ih]
        simp [hm]
    · have hc : (base ≤ k ∧ k < base + (n + 1)) ↔ (base ≤ k ∧ k < base + n) := by omega
      by_cases hm : mask n
      · simp only [hm, if_true]
        rw [mget_mput_ne _ _ _ hk, ih]
        simp only [← and_assoc, hc]
      · simp only [hm, Bool.false_eq_true, if_false]
        rw [ih]
        simp only [← and_assoc, hc]

/-- Lane k of register m after a masked write of register n. -/
theorem vLane_vSet (n m k : Nat) (hk : k < 64) (mask : Nat → Bool) (f : Nat → W32) :
    vLane (vSet x n mask f) m k = if m = n ∧ mask k then f k else vLane x m k := by
  unfold vLane vSet
  rw [mget_lanes]
  by_cases hm : m = n
  · subst hm
    have : 64 * m ≤ 64 * m + k ∧ 64 * m + k < 64 * m + 64 := by omega
    simp [this.1, this.2]
  · have : ¬ (64 * n ≤ 64 * m + k ∧ 64 * m + k < 64 * n + 64) := by omega
    simp only [← and_assoc, this, false_and, if_false, hm]

/-- A bit of a number is a Bool of its own: what a fill flag reads after it is written. -/
theorem flagOf_setFlag_self (buf slot : Nat) (v : Bool) : flagOf (setFlag x buf slot v) buf slot = v := by
  unfold flagOf setFlag
  split <;> simp

end Sys2Proof.Machine
end

