-- ==== Sys2Proof/Laws/Frames.lean ====
section
/-! SUPPORT. What a message, an event and a read of memory may change: one lemma for each operation that others share, to be
cited in place of unfolding it. -/

namespace Sys2Proof.Machine

open Sys2Proof

/-- Only counters, the host interface, what Derier is to report, the paddock and the outputs have changed: what an event or a
message may change. -/
def Reports (d e : Dev) : Prop :=
  e = { d with ctr := e.ctr, host := e.host, health := e.health, pad := e.pad, out := e.out }

/-- Beside what an event may change only the stalls have. -/
def ReportsOfStalls (d e : Dev) : Prop :=
  e = { d with ctr := e.ctr, host := e.host, health := e.health, pad := e.pad, out := e.out, stalls := e.stalls }

theorem Reports.refl (d : Dev) : Reports d d := rfl

theorem Reports.trans {d e f : Dev} (h : Reports d e) (g : Reports e f) : Reports d f := by
  unfold Reports at *
  rw [h] at g
  exact g

theorem Reports.ofStalls {d e : Dev} (h : Reports d e) : ReportsOfStalls d e := by
  unfold Reports ReportsOfStalls at *
  rw [h]

theorem ReportsOfStalls.trans {d e f : Dev} (h : ReportsOfStalls d e) (g : ReportsOfStalls e f) : ReportsOfStalls d f := by
  unfold ReportsOfStalls at *
  rw [h] at g
  exact g

/-- The module outside what an event may change is as before. -/
theorem Reports.machine {d e : Dev} (h : Reports d e) : e.stalls = d.stalls ∧ e.cribs = d.cribs ∧ e.banks = d.banks ∧
    e.mem = d.mem ∧ e.ops = d.ops ∧ e.attn = d.attn ∧ e.feed = d.feed ∧ e.sense = d.sense ∧ e.board = d.board ∧
    e.nextId = d.nextId ∧ e.draws = d.draws := by
  unfold Reports at h
  rw [h]
  exact ⟨rfl, rfl, rfl, rfl, rfl, rfl, rfl, rfl, rfl, rfl, rfl⟩

/-- A fold of steps that report reports. -/
theorem reports_foldl {α : Type} {f : Dev → α → Dev} (hf : ∀ d a, Reports d (f d a)) :
    ∀ (l : List α) (d : Dev), Reports d (l.foldl f d)
  | [], d => Reports.refl d
  | a :: l, d => (hf d a).trans (reports_foldl hf l (f d a))

theorem reportsOfStalls_foldl {α : Type} {f : Dev → α → Dev} (hf : ∀ d a, ReportsOfStalls d (f d a)) :
    ∀ (l : List α) (d : Dev), ReportsOfStalls d (l.foldl f d)
  | [], _ => rfl
  | a :: l, d => (hf d a).trans (reportsOfStalls_foldl hf l (f d a))

/-! ### Messages (R468) -/

theorem reports_sendPacket (d : Dev) (p : Nat) (b : PacketBody) : Reports d (sendPacket d p b) := by
  unfold sendPacket
  dsimp only
  split <;> rfl

theorem reports_sendTo (d : Dev) (m st a : Nat) (b : PacketBody) : Reports d (sendTo d m st a b) := by
  unfold sendTo
  split
  · exact Reports.refl d
  · exact reports_sendPacket ..
  · exact reports_sendPacket ..

theorem reports_sendWhole (d : Dev) (dst : Nat) (x : Message) {f : Dev → PacketBody → Dev} (hf : ∀ d b, Reports d (f d b)) :
    Reports d (sendWhole d dst x f) := by
  unfold sendWhole
  dsimp only
  split
  · exact reports_foldl hf _ _
  · refine Reports.trans ?_ (reports_foldl hf _ _)
    rfl

theorem reports_sendMsg (d : Dev) (m : Nat) (x : Message) : Reports d (sendMsg d m x) :=
  reports_sendWhole _ _ _ fun _ b => reports_sendTo _ _ _ _ b

theorem reports_sendTwin (d : Dev) (x : Message) : Reports d (sendTwin d x) := by
  unfold sendTwin
  split
  · exact reports_sendWhole _ _ _ fun _ b => reports_sendPacket _ _ b
  · exact Reports.refl d

theorem reports_mirrorOut (d : Dev) (loft : Bool) (obs : List (Nat × Byte)) : Reports d (mirrorOut d loft obs) := by
  unfold mirrorOut
  dsimp only
  generalize List.filter _ obs = hit
  split
  · refine Reports.trans ?_ (reports_sendTwin _ _)
    split <;> rfl
  · exact Reports.refl d

/-! ### Events (R448, R449) -/

theorem reports_sendMsix (d : Dev) (fn v : Nat) : Reports d (sendMsix d fn v) := by
  unfold sendMsix
  dsimp only
  split <;> rfl

theorem reports_eventToRing (e : Event) (p : Dev × List (Nat × Nat)) (r : Nat) : Reports p.1 (eventToRing e p r).1 := by
  unfold eventToRing
  split
  · exact Reports.refl _
  · split
    · rfl
    · split
      · rfl
      · refine Reports.trans ?_ (reports_sendMsix _ _ _)
        rfl

theorem reports_writeEvent (d : Dev) (cls : Nat) (e : Event) : Reports d (writeEvent d cls e).1 := by
  have key : ∀ (l : List Nat) (p : Dev × List (Nat × Nat)), Reports p.1 (l.foldl (eventToRing e) p).1 := by
    intro l
    induction l with
    | nil => exact fun _ => Reports.refl _
    | cons r l ih => exact fun p => (reports_eventToRing e p r).trans (ih _)
  unfold writeEvent
  dsimp only
  generalize takers d _ cls = ts
  split
  · rfl
  · exact key ts (d, [])

theorem reports_passEvent (d : Dev) (cls : Nat) (e : Event) : Reports d (passEvent d cls e).1 := by
  unfold passEvent
  split
  · split
    · rfl
    · exact reports_sendMsg _ _ _
  · exact reports_writeEvent d cls e

theorem reports_raiseOne (d : Dev) (q : Raised) : Reports d (raiseOne d q).1 := by
  unfold raiseOne
  refine Reports.trans ?_ (reports_passEvent _ _ _)
  split <;> rfl

theorem reports_raiseAll : ∀ (n : Nat) (d : Dev) (l : List Raised), Reports d (raiseAll n d l)
  | 0, d, _ => Reports.refl d
  | _ + 1, d, [] => Reports.refl d
  | n + 1, d, q :: _ => (reports_raiseOne d q).trans (reports_raiseAll n _ _)

theorem reports_raiseEvent (d : Dev) (fn cls code a b : Nat) : Reports d (raiseEvent d fn cls code a b) :=
  reports_raiseAll _ _ _

/-! ### Reads of the stall buffers (R226, R231) -/

theorem reportsOfStalls_bufUe (d : Dev) (st buf off : Nat) : ReportsOfStalls d (bufUe st buf d off) :=
  ReportsOfStalls.trans (e := modStall (bump d (stallReg st 0x70)) st fun x =>
    { x with ueOff := BitVec.ofNat 18 off, ueBuf := BitVec.ofNat 2 buf, ueValid := true }) rfl
    (reports_raiseEvent ..).ofStalls

theorem reportsOfStalls_sramFailing (d : Dev) (st buf line : Nat) (holds : Bool) :
    ReportsOfStalls d (sramFailing d st buf line holds) := by
  unfold sramFailing
  dsimp only
  split
  · rfl
  · split
    · rfl
    · exact (reports_raiseEvent ..).ofStalls

/-- What a read of a range of a buffer may change. -/
theorem reportsOfStalls_sramTouch (d : Dev) (st buf off n : Nat) : ReportsOfStalls d (sramTouch d st buf off n) := by
  unfold sramTouch
  dsimp only
  refine ReportsOfStalls.trans ?_ (reportsOfStalls_foldl (fun _ l => reportsOfStalls_sramFailing ..) _ _)
  refine ReportsOfStalls.trans ?_ (reportsOfStalls_foldl (fun _ o => reportsOfStalls_bufUe ..) _ _)
  split <;> rfl

end Sys2Proof.Machine
end

