-- ==== Sys2Proof/Laws/Memory.lean ====
section
/-! SUPPORT. Every memory operation keeps the canonical form of DRAM, the loft, the counters and the rings, and what a
write of DRAM bytes leaves. -/

namespace Sys2Proof.Machine

open Sys2Proof

/-! ### What the canonical form rests on -/

/-- Two states that agree on DRAM, loft, counters, rings and commands are canonical together. -/
theorem canonical_of_eq {d e : Dev} (h : Canonical d) (hm : e.mem.dram = d.mem.dram) (hl : e.mem.loft = d.mem.loft)
    (hc : e.ctr = d.ctr) (hr : e.host.rings = d.host.rings) (hs : e.host.cmds = d.host.cmds)
    (hn : e.host.nextCid = d.host.nextCid) : Canonical e := by
  obtain ⟨⟨h1, h2⟩, h3, h4, h5, h6⟩ := h
  refine ⟨⟨?_, ?_⟩, ?_, ?_, ?_, ?_⟩
  · rw [hm]; exact h1
  · rw [hl]; exact h2
  · rw [hc]; exact h3
  · rw [hr]; exact h4
  · rw [hs]; exact h5
  · rw [hs, hn]; exact h6

/-- A fold keeps what each of its steps keeps. -/
theorem foldl_keeps {α : Type} {P : Dev → Prop} {f : Dev → α → Dev} (hf : ∀ d a, P d → P (f d a)) :
    ∀ (l : List α) (d : Dev), P d → P (l.foldl f d)
  | [], _, h => h
  | a :: l, d, h => foldl_keeps hf l (f d a) (hf d a h)

/-! ### Stores -/

theorem mwf_dramStore {m : Map Byte} : ∀ (l : List (Nat × Byte)), mwf 0 m → mwf 0 (dramStore m l) := by
  intro l
  induction l generalizing m with
  | nil => intro h; exact h
  | cons p l ih => intro h; exact ih (mwf_mput h p.1 p.2)

theorem mwf_filter {α : Type} [DecidableEq α] {d : α} {m : Map α} (h : mwf d m) (f : Nat × α → Bool) :
    mwf d (m.filter f) :=
  ⟨h.1.sublist List.filter_sublist, fun p hp => h.2 p (List.mem_filter.mp hp).1⟩

theorem mwf_upsetBytes {m : Map Byte} (draw base : Nat) (lost keys : List Nat) (h : mwf 0 m) :
    mwf 0 (upsetBytes m draw base lost keys) := by
  unfold upsetBytes
  induction lost generalizing m with
  | nil => exact h
  | cons p us ih =>
    apply ih
    dsimp only
    split
    · exact mwf_mput h _ _
    · exact h

/-- A byte of memory after a store: the last one stored at its key, or as before. -/
theorem mget_dramStore_outside (l : List (Nat × Byte)) : ∀ (m : Map Byte) (k : Nat), (∀ p ∈ l, p.1 ≠ k) →
    mget 0 (dramStore m l) k = mget 0 m k := by
  induction l with
  | nil => intro m k _; rfl
  | cons p l ih =>
    intro m k h
    have hp : k ≠ p.1 := fun e => h p (List.mem_cons_self ..) e.symm
    show mget 0 (dramStore (mput 0 m p.1 p.2) l) k = _
    rw [ih _ k fun q hq => h q (List.mem_cons_of_mem _ hq), mget_mput_ne 0 m p.2 hp]

theorem mget_dramStore_inside (l : List (Nat × Byte)) : ∀ (m : Map Byte), (l.map (·.1)).Nodup → ∀ p ∈ l,
    mget 0 (dramStore m l) p.1 = p.2 := by
  induction l with
  | nil => intro m _ p hp; cases hp
  | cons q l ih =>
    intro m hn p hp
    obtain ⟨hq, hl⟩ := List.nodup_cons.mp (List.map_cons .. ▸ hn)
    rcases List.mem_cons.mp hp with rfl | hp
    · show mget 0 (dramStore (mput 0 m p.1 p.2) l) p.1 = _
      rw [mget_dramStore_outside l _ _ fun r hr e => hq (List.mem_map.mpr ⟨r, hr, e⟩)]
      exact mget_mput_self 0 m p.1 p.2
    · exact ih _ hl p hp

/-! ### Counters, rings, events -/

theorem canonical_bumpBy {d : Dev} (off n : Nat) (h : Canonical d) : Canonical (bumpBy d off n) :=
  ⟨h.1, mwf_mput h.2.1 _ _, h.2.2⟩

theorem canonical_bump {d : Dev} (off : Nat) (h : Canonical d) : Canonical (bump d off) := canonical_bumpBy off 1 h

theorem canonical_clearCtr {d : Dev} (off : Nat) (h : Canonical d) : Canonical (clearCtr d off) :=
  ⟨h.1, mwf_mput h.2.1 off 0, h.2.2⟩

theorem canonical_setRing {d : Dev} (r : Nat) (x : Option Ring) (h : Canonical d) : Canonical (setRing d r x) :=
  ⟨h.1, h.2.1, mwf_mput h.2.2.1 _ _, h.2.2.2⟩

theorem canonical_emit {d : Dev} (o : Output) (h : Canonical d) : Canonical (emit d o) := h

theorem canonical_setStall {d : Dev} (st : Nat) (x : Stall) (h : Canonical d) : Canonical (setStall d st x) := h

theorem canonical_modStall {d : Dev} (st : Nat) (f : Stall → Stall) (h : Canonical d) : Canonical (modStall d st f) := h

theorem canonical_setBank {d : Dev} (k : Nat) (x : Bank) (h : Canonical d) : Canonical (setBank d k x) := h

theorem canonical_setCrib {d : Dev} (k : Nat) (x : Crib) (h : Canonical d) : Canonical (setCrib d k x) := h

theorem canonical_sendMsix {d : Dev} (fn v : Nat) (h : Canonical d) : Canonical (sendMsix d fn v) := by
  unfold sendMsix
  dsimp only
  split <;> exact h

/-! Packets, messages and what the paddock's state holds change nothing of it. -/

theorem canonical_setPad {d : Dev} (p : Paddock) (h : Canonical d) : Canonical (setPad d p) := h

theorem canonical_sendPacket {d : Dev} (p : Nat) (b : PacketBody) (h : Canonical d) : Canonical (sendPacket d p b) := by
  unfold sendPacket
  dsimp only
  split <;> exact h

theorem canonical_sendTo {d : Dev} (m st a : Nat) (b : PacketBody) (h : Canonical d) : Canonical (sendTo d m st a b) := by
  unfold sendTo
  split
  · exact h
  · exact canonical_sendPacket _ _ h
  · exact canonical_sendPacket _ _ h

/-- However many packets a message takes, it leaves what its sender leaves. -/
theorem canonical_sendWhole {d : Dev} (dst : Nat) (x : Message) {f : Dev → PacketBody → Dev}
    (hf : ∀ d b, Canonical d → Canonical (f d b)) (h : Canonical d) : Canonical (sendWhole d dst x f) := by
  unfold sendWhole
  dsimp only
  refine foldl_keeps (P := Canonical) hf _ _ ?_
  split
  · exact h
  · exact canonical_setPad _ h

theorem canonical_sendMsg {d : Dev} (m : Nat) (x : Message) (h : Canonical d) : Canonical (sendMsg d m x) :=
  canonical_sendWhole _ _ (fun _ b => canonical_sendTo _ _ _ b) h

theorem canonical_sendTwin {d : Dev} (x : Message) (h : Canonical d) : Canonical (sendTwin d x) := by
  unfold sendTwin
  split
  · exact canonical_sendWhole _ _ (fun _ b => canonical_sendPacket _ b) h
  · exact h

theorem canonical_eventToRing (e : Event) (p : Dev × List (Nat × Nat)) (r : Nat) (h : Canonical p.1) :
    Canonical (eventToRing e p r).1 := by
  unfold eventToRing
  split
  · exact h
  · split
    · exact canonical_bump _ (canonical_setRing _ _ h)
    · split
      · exact canonical_setRing _ _ h
      · exact canonical_sendMsix _ _ (canonical_emit _ (canonical_setRing _ _ h))

theorem canonical_writeEvent {d : Dev} (cls : Nat) (e : Event) (h : Canonical d) : Canonical (writeEvent d cls e).1 := by
  have key : ∀ (l : List Nat) (p : Dev × List (Nat × Nat)), Canonical p.1 → Canonical (l.foldl (eventToRing e) p).1 := by
    intro l
    induction l with
    | nil => exact fun _ h => h
    | cons r l ih => exact fun p h => ih _ (canonical_eventToRing e p r h)
  unfold writeEvent
  dsimp only
  generalize takers d _ cls = ts
  split
  · exact canonical_bump _ h
  · exact key ts (d, []) h

theorem canonical_passEvent {d : Dev} (cls : Nat) (e : Event) (h : Canonical d) : Canonical (passEvent d cls e).1 := by
  unfold passEvent
  split
  · split
    · exact canonical_bump _ h
    · exact canonical_sendMsg _ _ h
  · exact canonical_writeEvent cls e h

theorem canonical_raiseOne {d : Dev} (q : Raised) (h : Canonical d) : Canonical (raiseOne d q).1 := by
  unfold raiseOne
  refine canonical_passEvent _ _ ?_
  split <;> exact h

theorem canonical_raiseAll : ∀ (n : Nat) (d : Dev) (l : List Raised), Canonical d → Canonical (raiseAll n d l)
  | 0, _, _, h => h
  | _ + 1, _, [], h => h
  | n + 1, _, q :: _, h => canonical_raiseAll n _ _ (canonical_raiseOne q h)

theorem canonical_raiseEvent {d : Dev} (fn cls code a b : Nat) (h : Canonical d) :
    Canonical (raiseEvent d fn cls code a b) := canonical_raiseAll _ _ _ h

theorem canonical_takeEvent {d : Dev} (cls : Nat) (e : Event) (h : Canonical d) : Canonical (takeEvent d cls e) :=
  canonical_raiseAll _ _ _ (canonical_writeEvent cls e h)

theorem canonical_ringError {d : Dev} (r reason : Nat) (h : Canonical d) : Canonical (ringError d r reason) := by
  unfold ringError
  split
  · exact h
  · dsimp only
    have h1 := canonical_raiseEvent ‹Ring›.owner 3 7 r reason (canonical_setRing r (some { ‹Ring› with state := .error }) h)
    split
    · refine foldl_keeps (P := Canonical) (fun d p h => ?_) _ _ h1
      split
      · exact canonical_raiseEvent _ _ _ _ _ (canonical_setRing _ _ h)
      · exact h
    · exact h1

/-! ### Buffers -/

theorem canonical_bufUe {d : Dev} (st buf off : Nat) (h : Canonical d) : Canonical (bufUe st buf d off) :=
  canonical_raiseEvent _ _ _ _ _ (canonical_modStall _ _ (canonical_bump _ h))

theorem canonical_sramFailing {d : Dev} (st buf line : Nat) (holds : Bool) (h : Canonical d) :
    Canonical (sramFailing d st buf line holds) := by
  unfold sramFailing
  dsimp only
  split
  · exact h
  · split
    · exact canonical_modStall _ _ h
    · exact canonical_raiseEvent _ _ _ _ _ h

theorem canonical_storeUe {d : Dev} (st : Nat) (h : Canonical d) : Canonical (storeUe d st) :=
  canonical_raiseEvent _ _ _ _ _ h

theorem canonical_sramTouch {d : Dev} (st buf off n : Nat) (h : Canonical d) : Canonical (sramTouch d st buf off n) := by
  unfold sramTouch
  dsimp only
  refine foldl_keeps (P := Canonical) (fun _ l => canonical_sramFailing st buf l false) _ _ ?_
  refine foldl_keeps (P := Canonical) (fun _ o => canonical_bufUe st buf o) _ _ ?_
  split
  · exact h
  · exact canonical_bumpBy _ _ h

theorem canonical_sramWrite {d : Dev} (st buf off : Nat) (bs : List Byte) (h : Canonical d) :
    Canonical (sramWrite d st buf off bs) := h

/-! ### DRAM -/

theorem canonical_dramTouch {d : Dev} (line : Nat) (h : Canonical d) : Canonical (dramTouch d line) := by
  unfold dramTouch
  dsimp only
  split
  · exact h
  · exact canonical_of_eq (canonical_bump (dramReg (stackOf (64 * line)) 0x08) h) rfl rfl rfl rfl rfl rfl
  · exact canonical_raiseEvent _ _ _ _ _
      (canonical_of_eq (canonical_bump (dramReg (stackOf (64 * line)) 0x10) h) rfl rfl rfl rfl rfl rfl)
  · exact canonical_bump _ h

theorem canonical_dramTouchAll {d : Dev} (keys : List Nat) (h : Canonical d) : Canonical (dramTouchAll d keys) :=
  foldl_keeps (P := Canonical) (fun _ l => canonical_dramTouch l) _ _ h

theorem canonical_dramLineWrite {d : Dev} (keys : List Nat) (line : Nat) (h : Canonical d) :
    Canonical (dramLineWrite keys d line) := by
  unfold dramLineWrite
  split
  · exact canonical_of_eq h rfl rfl rfl rfl rfl rfl
  · dsimp only
    split
    · exact canonical_of_eq (canonical_dramTouch line h) rfl rfl rfl rfl rfl rfl
    · exact canonical_dramTouch line h

theorem canonical_dramWrite {d : Dev} (kbs : List (Nat × Byte)) (h : Canonical d) : Canonical (dramWrite d kbs) := by
  unfold dramWrite
  dsimp only
  have h1 := foldl_keeps (P := Canonical) (fun _ l => canonical_dramLineWrite (kbs.map (·.1)) l)
    (linesOf (kbs.map (·.1))) d h
  exact ⟨⟨mwf_dramStore kbs h1.1.1, h1.1.2⟩, h1.2⟩

theorem canonical_mirrorOut {d : Dev} (loft : Bool) (obs : List (Nat × Byte)) (h : Canonical d) :
    Canonical (mirrorOut d loft obs) := by
  unfold mirrorOut
  dsimp only
  generalize obs.filter _ = hit
  by_cases hm : mirroring d = true ∧ hit ≠ []
  · rw [if_pos hm]
    refine canonical_sendTwin _ (canonical_setPad _ ?_)
    split
    · exact canonical_bump _ h
    · exact h
  · rw [if_neg hm]; exact h

theorem canonical_mirrorState {d : Dev} (h : Canonical d) : Canonical (mirrorState d) := by
  unfold mirrorState
  split
  · split
    · exact h
    · exact canonical_sendTwin _ (canonical_setPad _ h)
  · exact h

theorem canonical_derWrite {d : Dev} (off : Nat) (bs : List Byte) (h : Canonical d) : Canonical (derWrite d off bs) :=
  canonical_mirrorOut _ _ (canonical_dramWrite _ h)

theorem canonical_engWrite {d : Dev} (die off : Nat) (bs : List Byte) (h : Canonical d) :
    Canonical (engWrite d die off bs) := canonical_mirrorOut _ _ (canonical_dramWrite _ h)

/-! ### The loft -/

theorem canonical_loftTouch {d : Dev} (unit : Nat) (h : Canonical d) : Canonical (loftTouch d unit) := by
  unfold loftTouch
  dsimp only
  split
  · exact h
  · exact canonical_bump _ h
  · exact canonical_raiseEvent _ _ _ _ _
      (canonical_of_eq (canonical_bump (loftReg (loftStack (256 * unit)) 0x10) h) rfl rfl rfl rfl rfl rfl)
  · exact canonical_bump _ h

theorem canonical_loftTouchAll {d : Dev} (offs : List Nat) (h : Canonical d) : Canonical (loftTouchAll d offs) :=
  foldl_keeps (P := Canonical) (fun _ l => canonical_loftTouch l) _ _ h

theorem canonical_loftWorn {d : Dev} (unit : Nat) (h : Canonical d) : Canonical (loftWorn d unit) := by
  unfold loftWorn
  dsimp only
  split
  · exact canonical_bump _ h
  · exact canonical_raiseEvent _ _ _ _ _
      (canonical_of_eq (canonical_bump (loftReg (loftStack (256 * unit)) 0x20) h) rfl rfl rfl rfl rfl rfl)

theorem canonical_loftUnitWrite {d : Dev} (obs : List (Nat × Byte)) (unit : Nat) (h : Canonical d) :
    Canonical (loftUnitWrite obs d unit) := by
  unfold loftUnitWrite
  split
  · exact canonical_loftWorn unit h
  · dsimp only
    split <;> rename_i hw
    · exact ⟨⟨h.1.1, mwf_dramStore _ h.1.2⟩, h.2⟩
    · have h1 := canonical_loftTouch unit h
      exact ⟨⟨h1.1.1, mwf_dramStore _ h1.1.2⟩, h1.2⟩

theorem canonical_loftWrite {d : Dev} (obs : List (Nat × Byte)) (h : Canonical d) : Canonical (loftWrite d obs) :=
  foldl_keeps (P := Canonical) (fun _ u => canonical_loftUnitWrite obs u) _ _ h

theorem canonical_memWrite {d : Dev} (a : W64) (bs : List Byte) (h : Canonical d) : Canonical (memWrite d a bs) := by
  unfold memWrite
  dsimp only
  split
  · exact canonical_mirrorOut _ _ (canonical_loftWrite _ h)
  · exact canonical_mirrorOut _ _ (canonical_dramWrite _ h)

theorem canonical_memRead {d : Dev} (a : W64) (n : Nat) (h : Canonical d) : Canonical (memRead d a n).1 := by
  unfold memRead
  dsimp only
  split
  · exact h
  · split
    · exact canonical_loftTouchAll _ h
    · exact canonical_dramTouchAll _ h

/-! ### The groom, the handshake, module reset -/

theorem canonical_dramFailing {d : Dev} (stack line : Nat) (holds : Bool) (h : Canonical d) :
    Canonical (dramFailing d stack line holds) := by
  unfold dramFailing
  dsimp only
  split
  · exact h
  · split
    · exact canonical_of_eq h rfl rfl rfl rfl rfl rfl
    · exact canonical_raiseEvent _ _ _ _ _ h

theorem canonical_zeroPrefixTable {d : Dev} (h : Canonical d) : Canonical (zeroPrefixTable d) :=
  ⟨⟨mwf_filter h.1.1 _, h.1.2⟩, h.2⟩

/-- A module reset leaves the canonical form whatever it finds in DRAM; the loft is kept. -/
theorem canonical_moduleReset {d : Dev} (r : Option Nat) (h : Canonical d) : Canonical (moduleReset d r) :=
  ⟨⟨mwf_nil 0, h.1.2⟩, mwf_nil 0, mwf_nil none, List.nodup_nil, by intro c hc; cases hc⟩

/-! ### Commands -/

theorem canonical_putCmd {d : Dev} (c : Cmd) (h : Canonical d) : Canonical (putCmd d c) := by
  obtain ⟨h1, h2, h3, h4, h5⟩ := h
  have e : (putCmd d c).host.cmds.map (·.cid) = d.host.cmds.map (·.cid) := by
    show (d.host.cmds.map fun x => if x.cid = c.cid then c else x).map (·.cid) = _
    rw [List.map_map]
    apply List.map_congr_left
    intro x _
    show (if x.cid = c.cid then c else x).cid = x.cid
    split
    · next hx => exact hx.symm
    · rfl
  refine ⟨h1, h2, h3, ?_, ?_⟩
  · rw [e]; exact h4
  · intro x hx
    have : x.cid ∈ d.host.cmds.map (·.cid) := e ▸ List.mem_map.mpr ⟨x, hx, rfl⟩
    obtain ⟨y, hy, hxy⟩ := List.mem_map.mp this
    show x.cid < d.host.nextCid
    rw [← hxy]
    exact h5 y hy

theorem canonical_dropCmd {d : Dev} (cid : Nat) (h : Canonical d) : Canonical (dropCmd d cid) :=
  ⟨h.1, h.2.1, h.2.2.1, h.2.2.2.1.sublist (List.filter_sublist.map (fun c : Cmd => c.cid)),
    fun c hc => h.2.2.2.2 c (List.mem_filter.mp hc).1⟩

theorem canonical_addCmd {d : Dev} (fn ring : Nat) (desc : List Byte) (heads : List (List Byte))
    (data : Option (List (List Byte))) (ok : Bool) (n : W32) (lead : Option Nat) (h : Canonical d) :
    Canonical (addCmd d fn ring desc heads data ok n lead) := by
  obtain ⟨h1, h2, h3, h4, h5⟩ := h
  refine ⟨h1, h2, h3, ?_, ?_⟩
  · show ((d.host.cmds ++ [_]).map (fun c : Cmd => c.cid)).Nodup
    rw [List.map_append, List.nodup_append]
    refine ⟨h4, by simp, ?_⟩
    intro a ha b hb
    obtain ⟨c, hc, rfl⟩ := List.mem_map.mp ha
    rw [List.mem_map] at hb
    obtain ⟨y, hy, rfl⟩ := hb
    rw [List.mem_singleton] at hy
    subst hy
    exact Nat.ne_of_lt (h5 c hc)
  · intro c hc
    rcases List.mem_append.mp hc with hc | hc
    · exact Nat.lt_succ_of_lt (h5 c hc)
    · rw [List.mem_singleton] at hc
      subst hc
      exact Nat.lt_succ_self _

end Sys2Proof.Machine
end

