-- ==== Sys2Proof/Laws/Sequencer.lean ====
section
/-! SUPPORT. What the shared operations of the sequencer do: the fetch, the issue, a stop, a hold. -/

namespace Sys2Proof.Machine

open Sys2Proof

/-- The fetch counts corrected bytes and does nothing else (R198). -/
theorem fetchTouch_eq (d : Dev) (st : Nat) : fetchTouch d st = { d with ctr := (fetchTouch d st).ctr } := by
  unfold fetchTouch
  simp only
  split <;> rfl

@[simp] theorem fetchTouch_stallOf (d : Dev) (st k : Nat) : stallOf (fetchTouch d st) k = stallOf d k := by
  rw [fetchTouch_eq]; rfl

@[simp] theorem fetchTouch_draws (d : Dev) (st : Nat) : (fetchTouch d st).draws = d.draws := by rw [fetchTouch_eq]

theorem fetchTouch_ctrOf (d : Dev) (st : Nat) {o : Nat} (h : o ≠ stallReg st 0x28) :
    ctrOf (fetchTouch d st) o = ctrOf d o := by
  unfold fetchTouch
  simp only
  split
  · rw [ctrOf_bumpBy, if_neg h]
  · rfl

@[simp] theorem hazard_fetchTouch (d : Dev) (st k : Nat) (fm : Form) (i : Ins) :
    hazard (fetchTouch d st) k fm i = hazard d k fm i := by
  rw [fetchTouch_eq]; rfl

/-- What an issue leaves, by its answer. -/
def issued (d : Dev) (st pc : Nat) : Issue → Dev
  | .fault c det => stopStall d st c det pc
  | .wait w => holdOn d st w
  | .go e nx => advance e st (nx.getD (pc + 1))
  | .stay e => e

/-- The one spec lemma of `issue`: an instruction that issues answers a next state, and which. -/
theorem issue_runs {name : String} {op st : Nat} {frm : Ins → Option Form} {f : Ins → Stall → Dev → Issue} {s : State}
    {i : Ins} (h : Issues s.dev st op frm i) :
    let r := issued (fetchTouch s.dev st) st (stallOf s.dev st).pc (f i (stallOf s.dev st) (fetchTouch s.dev st))
    issue name op frm st f s = .next { s with dev := { r with draws := r.draws + 1 } } := by
  obtain ⟨⟨h1, h2, h3⟩, h4, fm, h5, h6, h7⟩ := h
  obtain ⟨w, hw, hi⟩ := Option.map_eq_some_iff.mp h3
  unfold issue onDev issueDev
  simp only [h1, h2, hw, hi, h4, h5, h6, hazard_fetchTouch, h7]
  cases f i (stallOf s.dev st) (fetchTouch s.dev st) <;> simp [issued]

/-- An instruction in a form that is not allowed stops its routine (R145, R194). -/
theorem issue_illegal {name : String} {op st : Nat} {frm : Ins → Option Form} {f : Ins → Stall → Dev → Issue} {s : State}
    {w : W64} (h1 : (stallOf s.dev st).mode = .running) (h2 : epochHeld (stallOf s.dev st) = false)
    (h3 : fetchWord (stallOf s.dev st) = some w) (h4 : (insOf w).op = op)
    (h5 : (frm (insOf w)).all (fun fm => !formOk fm (insOf w)) = true) :
    issue name op frm st f s = .next { s with dev :=
      { stopStall (fetchTouch s.dev st) st 0x01 (w.toNat / 2 ^ 32) (stallOf s.dev st).pc with
        draws := s.dev.draws + 1 } } := by
  unfold issue onDev issueDev
  simp only [h1, h2, h3, h4]
  cases hf : frm (insOf w) with
  | none => simp
  | some fm =>
    have : formOk fm (insOf w) = false := by simpa [hf] using h5
    simp [this]

/-- An instruction that names a register a FADD will write waits (R148). -/
theorem issue_hazard {name : String} {op st : Nat} {frm : Ins → Option Form} {f : Ins → Stall → Dev → Issue} {s : State}
    {i : Ins} {fm : Form} (h : AtInstr s.dev st i) (h4 : i.op = op) (h5 : frm i = some fm) (h6 : formOk fm i = true)
    (h7 : hazard s.dev st fm i = true) :
    issue name op frm st f s = .next { s with dev :=
      { holdOn (fetchTouch s.dev st) st .scoreboard with draws := s.dev.draws + 1 } } := by
  obtain ⟨h1, h2, h3⟩ := h
  obtain ⟨w, hw, hi⟩ := Option.map_eq_some_iff.mp h3
  unfold issue onDev issueDev
  simp [h1, h2, hw, hi, h4, h5, h6, h7]

/-- A change of the stall after its fetch changes nothing else. -/
theorem stallOnly_modStall (d : Dev) (st : Nat) (f : Stall → Stall) :
    StallOnly st d { modStall (fetchTouch d st) st f with draws := d.draws + 1 } := by
  refine ⟨?_, fun k hk => ?_, fun o ho => fetchTouch_ctrOf _ _ ho⟩
  · simp only [modStall, setStall]
    rw [fetchTouch_eq]
  · show stallOf (modStall (fetchTouch d st) st f) k = _
    rw [stallOf_modStall_ne _ _ hk, fetchTouch_stallOf]

/-- What a stopped routine leaves. -/
theorem stopsAt_stopStall (d : Dev) (st code detail : Nat) :
    StopsAt st code detail d
      { stopStall (fetchTouch d st) st code detail (stallOf d st).pc with draws := d.draws + 1 } := by
  have hf : orphanOps (fetchTouch d st) st = fetchTouch (orphanOps d st) st := by
    have e : stallOf (orphanOps d st) st = stallOf d st := rfl
    unfold fetchTouch
    rw [e]
    dsimp only
    split <;> rfl
  refine ⟨?_, ?_⟩
  · rw [stopStall, hf]
    exact stallOnly_modStall (orphanOps d st) st _
  show stallOf (stopStall (fetchTouch d st) st code detail (stallOf d st).pc) st = _
  simp [stopStall]

/-- What a hold leaves. -/
theorem heldOn_holdOn (d : Dev) (st : Nat) (w : Wait) :
    HeldOn st w d { holdOn (fetchTouch d st) st w with draws := d.draws + 1 } := by
  have h : stallOf { holdOn (fetchTouch d st) st w with draws := d.draws + 1 } st =
      { stallOf d st with held := some { why := w, raised := match (stallOf d st).held with
        | some h => h.why == w && h.raised
        | none => false } } := by
    show stallOf (holdOn (fetchTouch d st) st w) st = _
    cases hh : (stallOf d st).held <;> simp only [holdOn, stallOf_modStall_self, fetchTouch_stallOf, hh]
  exact ⟨stallOnly_modStall .., by rw [h]; rfl, by rw [h]⟩

/-- The one spec lemma of an instruction that only changes its stall. -/
theorem pureOp_runs {name : String} {op st : Nat} {frm : Ins → Option Form} {f : Ins → Stall → Stall} {s : State}
    {i : Ins} (h : Issues s.dev st op frm i) :
    ∃ t, issue name op frm st (pureOp f st) s = .next t ∧ t.pending = s.pending ∧ StallOnly st s.dev t.dev ∧
      stallOf t.dev st = { f i (stallOf s.dev st) with held := none, pc := (stallOf s.dev st).pc + 1 } := by
  refine ⟨_, issue_runs h, rfl, ?_, ?_⟩
  · refine ⟨?_, fun k hk => ?_, fun o ho => fetchTouch_ctrOf _ _ ho⟩
    · simp only [pureOp, issued, advance, modStall, setStall]
      rw [fetchTouch_eq]
    · show stallOf (advance (modStall (fetchTouch s.dev st) st (f i)) st _) k = _
      rw [advance, stallOf_modStall_ne _ _ hk, stallOf_modStall_ne _ _ hk, fetchTouch_stallOf]
  · show stallOf (advance (modStall (fetchTouch s.dev st) st (f i)) st _) st = _
    simp [advance]

end Sys2Proof.Machine
end

