-- ==== Sys2Proof/WellFormed.lean ====
section
/-! DEFINITION. Well-formed commands: the numbers that name units lie in the ranges the manual gives them. -/

namespace Sys2Proof

/-- A stall index (R20, R38). -/
def okStall (st : Nat) : Bool := st < 1024
/-- A crib index, and a physical crib with the spare (R24, R421). -/
def okCrib (c : Nat) : Bool := c < 16
def okPhys (c : Nat) : Bool := c < 17
def okBank (b : Nat) : Bool := b < 2
/-- A bank key, (17 · stall + physical crib) · 2 + bank. -/
def okBankKey (k : Nat) : Bool := k < 34816
def okDie (d : Nat) : Bool := d < 4
def okPort (p : Nat) : Bool := p < 16
/-- A function: the PF 0, a VF 1 to 128 (R448). -/
def okFn (f : Nat) : Bool := f < 129
def okRing (r : Nat) : Bool := r < 65536
def okSeq (q : Nat) : Bool := q < 65536
def okModule (m : Nat) : Bool := m < 64
/-- A link packet's sequence number (R468). -/
def okLinkSeq (q : Nat) : Bool := q < 4096
/-- An 8 ns period of a sense window (R560, R577). -/
def okTick (t : Nat) : Bool := t < 1250000

/-- A groomed line names a line of its memory (R39, R203, R350). -/
def okLine : GroomLine → Bool
  | .dram stack line => stack < 8 && line < 0x50000000
  | .sram st buf line => st < 1024 && (if buf = 0 then line < 3072 else if buf = 1 then line < 2048
      else if buf = 2 then line < 1024 else if buf = 3 then line < 512 else buf == 4 && line < 544)
  | .correction st bank => st < 1024 && bank < 34
  | .gate _ => true

/-- The entries of a data list, 16 bytes each (R435). -/
def okHeads (l : List (List Byte)) : Bool := l.all fun h => h.length == 16
/-- An end of messages: a module index, or 64 plus a standby entry (R476). -/
def okEnd (e : Nat) : Bool := e < 80
/-- A packet carries at most 512 bytes of an operation (R468). -/
def okBody : PacketBody → Bool
  | .request op _ => op.data.length ≤ 512
  | .reply _ _ data => data.length ≤ 512
  | .returned _ => true
  | .ack seq => okLinkSeq seq
  | .replay seq => okLinkSeq seq
  | .message dst src _ => okEnd dst && okEnd src
  | .piece dst src _ _ _ data => okEnd dst && okEnd src && data.length ≤ 512
  | .undelivered dst src => okEnd dst && okEnd src

/-- Whether every unit a command names exists. -/
def wellFormed : Instr → Bool
  | .cribMvm st => okStall st
  | .cribBank st => okStall st
  | .cribProbe st => okStall st
  | .vadd st => okStall st
  | .vmul st => okStall st
  | .vfma st => okStall st
  | .vmax st => okStall st
  | .vexp st => okStall st
  | .vrsq st => okStall st
  | .vcvt st => okStall st
  | .vred st => okStall st
  | .vsel st => okStall st
  | .vcmp st => okStall st
  | .vld st => okStall st
  | .vst st => okStall st
  | .mov st => okStall st
  | .ld st => okStall st
  | .st st => okStall st
  | .copy st => okStall st
  | .fill st => okStall st
  | .ldW st => okStall st
  | .stF st => okStall st
  | .slotSet st => okStall st
  | .slotClr st => okStall st
  | .put st => okStall st
  | .putS st => okStall st
  | .putF st => okStall st
  | .get st => okStall st
  | .aaddI32 st => okStall st
  | .aaddF32 st => okStall st
  | .aaddBf16 st => okStall st
  | .faddI32 st => okStall st
  | .faddI64 st => okStall st
  | .fenceD st => okStall st
  | .fenceY st => okStall st
  | .fenceP st => okStall st
  | .waitc st => okStall st
  | .attnGo st => okStall st
  | .b st => okStall st
  | .bc st => okStall st
  | .loop st => okStall st
  | .call st => okStall st
  | .ret st => okStall st
  | .yield st => okStall st
  | .epoch st => okStall st
  | .epochWaitEnd st => okStall st
  | .halt st => okStall st
  | .routineEnd st => okStall st
  | .drainEnd st => okStall st
  | .idleAdopt st => okStall st
  | .routineStart _ st => okStall st
  | .cribStart st _ tick => okStall st && okTick tick
  | .cribBinWrite st _ _ => okStall st
  | .sideFetchReturn st _ _ => okStall st
  | .residue st idx => okStall st && idx < 4096
  | .lockstep st idx => okStall st && idx < 4096
  | .watchdog st => okStall st
  | .boundaryLate st => okStall st
  | .slotJam _ => true
  | .putPerform _ => true
  | .putFArrive _ => true
  | .holdResend src dst => src < 65536 && okStall dst
  | .getPerform _ => true
  | .atomicPerform _ => true
  | .remoteComplete _ => true
  | .groomScrub line _ _ => okLine line
  | .loftScrub stack unit _ => stack < 4 && unit < 0x100000000
  | .referenceRead st crib bank tick => okStall st && okPhys crib && okBank bank && okTick tick
  | .refit st crib bank _ => okStall st && okPhys crib && okBank bank
  | .attnJobStart die _ => okDie die
  | .attnJobFinish die _ _ => okDie die
  | .editBatchApply _ => true
  | .pageAllocate seq layer => okSeq seq && layer < 256
  | .prefixInsert seq _ => okSeq seq
  | .stageStart _ => true
  | .shardReceived _ _ => true
  | .shardRefetch _ => true
  | .shardTimeout => true
  | .bankProgramStart _ => true
  | .bankProgramDone bank _ => okBankKey bank
  | .stageResult module _ => okEnd module
  | .identify _ => true
  | .attest _ => true
  | .ringCreate _ _ => true
  | .ringDestroy _ => true
  | .modelStage _ => true
  | .keyAdd _ => true
  | .keyRemove _ => true
  | .modelActivate _ _ => true
  | .modelRetire _ => true
  | .adapterLoad _ _ => true
  | .adapterUnload _ _ => true
  | .seqOpen _ => true
  | .seqClose _ => true
  | .prefixLookup _ => true
  | .submit _ => true
  | .submitAbort _ => true
  | .submitComplete _ => true
  | .decodeStep _ => true
  | .solve _ => true
  | .modeSetPower _ => true
  | .modeSetCalset _ => true
  | .modeSetFeed _ => true
  | .modeSetGroom _ => true
  | .modeSetQuota _ => true
  | .telemetryRead _ => true
  | .telemetryReadClear _ => true
  | .vetLoad _ => true
  | .fwUpdateStore _ => true
  | .fwUpdateActivate _ => true
  | .paddockJoin _ _ _ _ => true
  | .paddockLeave _ _ => true
  | .twinBind _ _ _ _ => true
  | .twinUnbind _ => true
  | .forwardedCommand _ fn desc _ _ => okFn fn && desc.length == 64
  | .commandFetch ring desc heads _ _ => okRing ring && (desc.all fun b => b.length == 64) && okHeads heads
  | .doorbell fn ring _ => okFn fn && okRing ring
  | .coalesceTimeout ring => okRing ring
  | .mboxDoorbell _ heads _ _ => okHeads heads
  | .hsGo _ => true
  | .bar2Read _ _ => true
  | .bar2Write _ _ => true
  | .bar2Resize log2 => 30 ≤ log2 && log2 ≤ 39
  | .registerWrite fn _ _ _ => okFn fn
  | .senseReq _ _ => true
  | .sensePeakClr _ => true
  | .mgmtSettingWrite _ _ _ => true
  | .functionLevelReset fn => okFn fn
  | .hotReset => true
  | .perstN _ => true
  | .codewordLock port => okPort port
  | .trainingExchange port peerPort _ => okPort port && okPort peerPort
  | .trainingTimeout port => okPort port
  | .linkDown port => okPort port
  | .linkUp port => okPort port
  | .packetReceive port pkt => okPort port && okLinkSeq pkt.seq && okBody pkt.body
  | .replayRequest port seq => okPort port && okLinkSeq seq
  | .leadUnreachable => true
  | .leadTakeover => true
  | .leadFenced => true
  | .twinCopyDone => true
  | .epochRequest => true
  | .epochPost _ _ => true
  | .stallEpochReport st => okStall st
  | .moduleEpochReport module _ => okEnd module
  | .epochRetire _ elsewhere => elsewhere.all okEnd
  | .epochSlow _ _ => true
  | .sampleCheck st crib _ => okStall st && okPhys crib
  | .vetProbe st crib bank tick _ => okStall st && okPhys crib && okBank bank && okTick tick
  | .vetRun st _ => okStall st
  | .watchPeriod _ => true
  | .derierMismatch pair _ => pair < 2
  | .derierRestart pair => pair < 2
  | .heartbeat => true
  | .eventReport => true
  | .mgmtEventDrop => true
  | .pushFragment port _ _ => port < 65536
  | .arpRequest _ => true
  | .icmpEcho _ => true
  | .senseScan => true
  | .senseConversionStart => true
  | .senseConversionEnd _ => true
  | .calSweep => true
  | .senseWindowEnd _ => true
  | .pllUnlock pll => pll < 10
  | .inputOutOfRange _ _ => true
  | .resetNAssert _ => true
  | .resetNRelease => true
  | .powerUp _ => true
  | .fetchFault st _ => okStall st
  | .registerRead fn _ _ => okFn fn
  | .hostLinkRetrained => true
  | .twinLost => true
  | .joinLinkTimeout => true

end Sys2Proof
end

