-- ==== Sys2Proof/Tests/Slice0.lean ====
section
/-! SUPPORT. Tests of single commands against the manual's own words, and for every statement with hypotheses a state and
operands that meet them. -/

set_option Elab.async false

namespace Sys2Proof.Tests

open Sys2Proof Sys2Proof.Machine

/-! ### Builders -/

/-- An instruction word of R144: opcode 63:56, D 55:50, A 49:44, B 43:38, MOD 37:32, IMM 31:0. -/
def word (op m dd a b imm : Nat) : W64 :=
  BitVec.ofNat 64 (op * 2 ^ 56 + dd * 2 ^ 50 + a * 2 ^ 44 + b * 2 ^ 38 + m * 2 ^ 32 + imm)

/-- Stall 0 running with one word at index 0, and otherwise as `f` says. -/
def runs (w : W64) (f : Stall → Stall) : Dev :=
  { Dev.reset with stalls := [(0, f { Stall.reset with mode := .running, limit := 4, store := [(0, some w)] })] }

/-- The conditions of an issue, as one Boolean. -/
def issuesB (d : Dev) (st op : Nat) (frm : Ins → Option Form) (i : Ins) : Bool :=
  (stallOf d st).mode == .running && !epochHeld (stallOf d st) && (fetchWord (stallOf d st)).map insOf == some i &&
    i.op == op && match frm i with
      | some fm => formOk fm i && !hazard d st fm i
      | none => false

theorem issues_of {d : Dev} {st op : Nat} {frm : Ins → Option Form} {i : Ins} (h : issuesB d st op frm i = true) :
    Issues d st op frm i := by
  simp only [issuesB, Bool.and_eq_true, beq_iff_eq, Bool.not_eq_true'] at h
  obtain ⟨⟨⟨⟨h1, h2⟩, h3⟩, h4⟩, h5⟩ := h
  refine ⟨⟨h1, h2, h3⟩, h4, ?_⟩
  split at h5
  · next fm e =>
    simp only [Bool.and_eq_true, Bool.not_eq_true'] at h5
    exact ⟨fm, e, h5.1, h5.2⟩
  · cases h5

/-- An instruction issues in stall 0 of a module and meets a condition. -/
abbrev ShownIn (d : Dev) (op : Nat) (frm : Ins → Option Form) (pre : Dev → Nat → Ins → Prop) (w : W64) : Prop :=
  Issues d 0 op frm (insOf w) ∧ pre d 0 (insOf w)

abbrev Shown (op : Nat) (frm : Ins → Option Form) (pre : Dev → Nat → Ins → Prop) (w : W64) (f : Stall → Stall) : Prop :=
  ShownIn (runs w f) op frm pre w

/-- The module after a command. -/
def after (c : Instr) (d : Dev) : Option Dev :=
  match exec c { pending := [], dev := d } with
  | .next s => some s.dev
  | _ => none

/-- What is seen of the module after a command. -/
def seen {α : Type} (c : Instr) (d : Dev) (f : Dev → α) : Option α := (after c d).map f

/-- What is seen of stall 0 after its instruction. -/
def seenAt {α : Type} (c : Nat → Instr) (w : W64) (f : Stall → Stall) (g : Stall → α) : Option α :=
  seen (c 0) (runs w f) fun d => g (stallOf d 0)

def bytesAt (x : Stall) (buf off n : Nat) : List (Option Byte) := (List.range n).map fun k => byteOf x buf (off + k)

/-- A stall with bytes stored from an offset of a buffer. -/
def put (buf off : Nat) (bs : List Byte) (x : Stall) : Stall := setSram x buf (sramPut (sramOf x buf) off bs)

/-- Bytes with fields (offset, length, value) set, zero elsewhere. -/
def block (n : Nat) (fs : List (Nat × Nat × Nat)) : List Byte :=
  fs.foldl (fun b f => b.take f.1 ++ toLe f.2.1 f.2.2 ++ b.drop (f.1 + f.2.1)) (List.replicate n 0)

/-- Command 7 of the PF's mailbox with descriptor fields and data. -/
def command (fs : List (Nat × Nat × Nat)) (data : Option (List (List Byte))) : Cmd :=
  { cid := 7, fn := 0, ring := mboxRing, desc := block 64 fs, heads := [], data := data, resultOk := true, queued := false,
    epoch := 0, begun := false, waiting := [], running := [], ended := [], awaits := none, remote := false, lead := none,
    edits := [], asks := [], held := none, stopped := false, aborting := none, solve := none }

/-- A serving module with one command fetched. -/
def hosting (c : Cmd) (d : Dev) : Dev :=
  { d with host := { d.host with state := .running, linkUp := true, cmds := [c], nextCid := 8 } }

/-! ### Lane instructions -/

theorem witness_lane_arithmetic :
    Shown 0x20 formVadd anyTime (word 0x20 0 1 2 3 0) id ∧ Shown 0x21 formVmul anyTime (word 0x21 2 1 2 3 0) id ∧
    Shown 0x22 formVadd anyTime (word 0x22 1 1 2 3 0) id ∧ Shown 0x23 formVmax anyTime (word 0x23 0x20 31 2 3 0) id :=
  ⟨⟨issues_of (by decide +kernel), trivial⟩, ⟨issues_of (by decide +kernel), trivial⟩,
   ⟨issues_of (by decide +kernel), trivial⟩, ⟨issues_of (by decide +kernel), trivial⟩⟩

theorem witness_lane_functions :
    Shown 0x24 formVexp anyTime (word 0x24 1 1 2 0 0) id ∧ Shown 0x25 formVrsq anyTime (word 0x25 2 1 2 0 0) id ∧
    Shown 0x26 formVcvt (fun _ _ i => 32 = (if bitAt i.imm 4 then 32 else 0) ∧ bitsOf i.imm 3 0 ≠ 2)
      (word 0x26 2 1 2 0 0x10) id ∧
    Shown 0x26 formVcvt (fun _ _ i => 0 = (if bitAt i.imm 4 then 32 else 0) ∧ bitsOf i.imm 3 0 = 2)
      (word 0x26 0 1 2 0 2) id :=
  ⟨⟨issues_of (by decide +kernel), trivial⟩, ⟨issues_of (by decide +kernel), trivial⟩,
   ⟨issues_of (by decide +kernel), by decide +kernel⟩, ⟨issues_of (by decide +kernel), by decide +kernel⟩⟩

theorem witness_select_reduce_compare :
    Shown 0x28 formVsel anyTime (word 0x28 0 1 2 3 0x07000000) id ∧
    Shown 0x27 formVred anyTime (word 0x27 0 4 2 0 0) id ∧ Shown 0x29 formVcmp anyTime (word 0x29 0 7 2 3 5) id :=
  ⟨⟨issues_of (by decide +kernel), trivial⟩, ⟨issues_of (by decide +kernel), trivial⟩,
   ⟨issues_of (by decide +kernel), trivial⟩⟩

/-- R253: the largest normal value plus one is positive saturation. -/
theorem test_vadd_saturates : seenAt .vadd (word 0x20 0 1 2 3 0) (fun x => { x with vreg := [(128, 0x7FFFFFFE), (192, 1)] })
    (fun x => vLane x 1 0) = some 0x7FFFFFFF := by decide +kernel

/-- R253: with NEG, 3 − 5; a lane that the predicate disables keeps its value (R159). -/
theorem test_vadd_neg_masked : seenAt .vadd (word 0x20 0x20 1 2 3 0x08000000)
    (fun x => { x with vreg := [(65, 9), (128, 3), (129, 3), (192, 5), (193, 5)], preg := [(0, 1)] })
    (fun x => (vLane x 1 0, vLane x 1 1, x.pc)) = some (0xFFFFFFFE, 9, 1) := by decide +kernel

/-- R160: 1.5 · 2.0 = 3.0 in FP32. -/
theorem test_vmul_f32 : seenAt .vmul (word 0x21 1 1 2 3 0)
    (fun x => { x with vreg := [(128, 0x3FC00000), (192, 0x40000000)] }) (fun x => vLane x 1 0) = some 0x40400000 := by
  decide +kernel

/-- R254: a confused operand gives a confused product. -/
theorem test_vmul_confused : seenAt .vmul (word 0x21 0 1 2 3 0)
    (fun x => { x with vreg := [(128, 0x80000000), (192, 2)] }) (fun x => vLane x 1 0) = some 0x80000000 := by decide +kernel

/-- R160: 10 − 2 · 3 with NEG. -/
theorem test_vfma_neg : seenAt .vfma (word 0x22 0x20 1 2 3 0)
    (fun x => { x with vreg := [(64, 10), (128, 2), (192, 3)] }) (fun x => vLane x 1 0) = some 4 := by decide +kernel

/-- R160: the lesser of −1 and 1 with MIN. -/
theorem test_vmax_min : seenAt .vmax (word 0x23 0x20 1 2 3 0)
    (fun x => { x with vreg := [(128, 0xFFFFFFFF), (192, 1)] }) (fun x => vLane x 1 0) = some 0xFFFFFFFF := by decide +kernel

/-- R161: 2 as int32 is 2.0 in FP64, lanes 0 and 1 of the destination. -/
theorem test_vcvt_i32_f64 : seenAt .vcvt (word 0x26 2 1 2 0 0) (fun x => { x with vreg := [(128, 2)] })
    (fun x => (vLane x 1 0, vLane x 1 1)) = some (0, 0x40000000) := by decide +kernel

/-- R250: 3.5 in FP32 is 4 as int32 to nearest even, 3 towards zero. -/
theorem test_vcvt_f32_i32 : seenAt .vcvt (word 0x26 0x00 1 2 0 1) (fun x => { x with vreg := [(128, 0x40600000)] })
    (fun x => vLane x 1 0) = some 4 := by decide +kernel

/-- R162: the sum of the enabled lanes 0 and 3. -/
theorem test_vred_sum : seenAt .vred (word 0x27 0 4 2 0 0x08000000)
    (fun x => { x with vreg := [(128, 7), (129, 100), (131, 0xFFFFFFFE)], preg := [(0, 9)] })
    (fun x => sGet x 4) = some 5 := by decide +kernel

/-- R160: lane 0 from A, lane 1 from B. -/
theorem test_vsel : seenAt .vsel (word 0x28 0 1 2 3 0x07000000)
    (fun x => { x with vreg := [(128, 5), (129, 6), (192, 7), (193, 8)], preg := [(7, 1)] })
    (fun x => (vLane x 1 0, vLane x 1 1)) = some (5, 8) := by decide +kernel

/-- R163: condition LT of −1 and 0 holds in lane 0 only, all other lanes being equal. -/
theorem test_vcmp_lt : seenAt .vcmp (word 0x29 0 7 2 3 2)
    (fun x => { x with vreg := [(128, 0xFFFFFFFF)] }) (fun x => pGet x 7) = some 1 := by decide +kernel

/-! ### Moves and branches -/

theorem witness_mov_arith :
    Shown 0x30 formMov (fun _ _ i => bitsOf i.mod 5 4 = 0 ∧ bitsOf i.mod 3 0 = 0) (word 0x30 0 1 2 3 0xFFFFFFFF) id ∧
    Shown 0x30 formMov (fun _ _ i => bitsOf i.mod 5 4 = 0 ∧ bitsOf i.mod 3 0 = 11) (word 0x30 11 0 2 3 0) id ∧
    (∀ a x : W64, (fun a x : W64 => if a = x then (1 : W64) else 0) a x = match (11 : Nat) with
      | 0 => a + x
      | _ => if a = x then 1 else 0) :=
  ⟨⟨issues_of (by decide +kernel), by decide +kernel⟩, ⟨issues_of (by decide +kernel), by decide +kernel⟩,
   fun _ _ => rfl⟩

theorem witness_mov_files :
    Shown 0x30 formMov (fun _ _ i => bitsOf i.mod 5 4 = 1 ∧ bitsOf i.mod 3 0 = 0) (word 0x30 0x10 15 2 3 4) id ∧
    Shown 0x30 formMov (fun _ _ i => bitsOf i.mod 5 4 = 1 ∧ bitsOf i.mod 3 0 = 3) (word 0x30 0x13 31 2 0 63) id ∧
    Shown 0x30 formMov (fun _ _ i => bitsOf i.mod 5 4 = 1 ∧ bitsOf i.mod 3 0 = 4) (word 0x30 0x14 31 2 0 0) id ∧
    Shown 0x30 formMov (fun _ _ i => bitsOf i.mod 5 4 = 2 ∧ bitsOf i.mod 3 0 = 3) (word 0x30 0x23 0 2 0 63) id :=
  ⟨⟨issues_of (by decide +kernel), by decide +kernel⟩, ⟨issues_of (by decide +kernel), by decide +kernel⟩,
   ⟨issues_of (by decide +kernel), by decide +kernel⟩, ⟨issues_of (by decide +kernel), by decide +kernel⟩⟩

/-- R167: an arithmetic shift right by 4 + 64, taken modulo 64. -/
theorem test_mov_asr : seenAt .mov (word 0x30 7 1 2 3 64) (fun x => { x with sreg := [(2, 0x8000000000000000), (3, 4)] })
    (fun x => sGet x 1) = some 0xF800000000000000 := by decide +kernel

/-- R141: s0 reads zero after a write. -/
theorem test_mov_s0 : seenAt .mov (word 0x30 0 0 2 3 0) (fun x => { x with sreg := [(2, 5)] })
    (fun x => (sGet x 0, x.pc)) = some (0, 1) := by decide +kernel

theorem witness_branches :
    Shown 0x70 formB anyTime (word 0x70 0 0 0 0 0xFFFFFFFF) id ∧
    Shown 0x71 formBc (fun d st i => (true = true ↔ sGet (stallOf d st) i.a = sGet (stallOf d st) i.b) ∧
      bitsOf i.mod 2 0 = 0) (word 0x71 0 0 2 3 2) id ∧
    Shown 0x71 formBc (fun d st i => (false = true ↔ pGet (stallOf d st) i.a ≠ 0) ∧ bitsOf i.mod 2 0 = 6)
      (word 0x71 6 0 7 0 2) id ∧
    Shown 0x72 formLoop anyTime (word 0x72 0 1 0 0 2) id :=
  ⟨⟨issues_of (by decide +kernel), trivial⟩, ⟨issues_of (by decide +kernel), by decide +kernel⟩,
   ⟨issues_of (by decide +kernel), by decide +kernel⟩, ⟨issues_of (by decide +kernel), trivial⟩⟩

/-- R184: a branch by −1 from index 3. -/
theorem test_b_back : seenAt .b (word 0x70 0 0 0 0 0xFFFFFFFF)
    (fun x => { x with pc := 3, store := [(3, some (word 0x70 0 0 0 0 0xFFFFFFFF))] }) (·.pc) = some 2 := by decide +kernel

/-- R184: −1 is below 0 as signed numbers. -/
theorem test_bc_lt : seenAt .bc (word 0x71 2 0 2 3 7) (fun x => { x with sreg := [(2, 0xFFFFFFFFFFFFFFFF)] })
    (·.pc) = some 7 := by decide +kernel

/-- R184: and not below it as unsigned ones. -/
theorem test_bc_ltu : seenAt .bc (word 0x71 4 0 2 3 7) (fun x => { x with sreg := [(2, 0xFFFFFFFFFFFFFFFF)] })
    (·.pc) = some 1 := by decide +kernel

/-- R184: LOOP from 1 falls through with the register at 0, from 0 wraps and branches. -/
theorem test_loop_ends : seenAt .loop (word 0x72 0 1 0 0 2) (fun x => { x with sreg := [(1, 1)] })
    (fun x => (x.pc, sGet x 1)) = some (1, 0) := by decide +kernel

theorem test_loop_wraps : seenAt .loop (word 0x72 0 1 0 0 2) id (fun x => (x.pc, sGet x 1)) =
    some (2, 0xFFFFFFFFFFFFFFFF) := by decide +kernel

theorem witness_return_stack :
    Shown 0x73 formB (fun d st _ => (stallOf d st).rstack.length < 16) (word 0x73 0 0 0 0 2)
      (fun x => { x with rstack := List.replicate 15 1 }) ∧
    Shown 0x73 formB (fun d st _ => 16 ≤ (stallOf d st).rstack.length) (word 0x73 0 0 0 0 2)
      (fun x => { x with rstack := List.replicate 16 1 }) ∧
    Shown 0x74 formPlain (fun d st _ => (stallOf d st).rstack = 7 :: [8]) (word 0x74 0 0 0 0 0)
      (fun x => { x with rstack := [7, 8] }) ∧
    Shown 0x74 formPlain (fun d st _ => (stallOf d st).rstack = []) (word 0x74 0 0 0 0 0) id :=
  ⟨⟨issues_of (by decide +kernel), by decide +kernel⟩, ⟨issues_of (by decide +kernel), by decide +kernel⟩,
   ⟨issues_of (by decide +kernel), by decide +kernel⟩, ⟨issues_of (by decide +kernel), by decide +kernel⟩⟩

/-- R186: the seventeenth CALL stops the routine with STACK. -/
theorem test_call_full : seenAt .call (word 0x73 0 0 0 0 2) (fun x => { x with rstack := List.replicate 16 1 })
    (fun x => (x.mode, x.faultCode, x.rstack.length)) = some (.draining, 0x0B, 16) := by decide +kernel

theorem test_call_pushes : seenAt .call (word 0x73 0 0 0 0 2) id (fun x => (x.pc, x.rstack)) = some (2, [1]) := by
  decide +kernel

theorem test_ret : seenAt .ret (word 0x74 0 0 0 0 0) (fun x => { x with rstack := [7, 8] })
    (fun x => (x.pc, x.rstack)) = some (7, [8]) := by decide +kernel

/-! ### Local memory -/

theorem witness_loads :
    Shown 0x32 formLd (fun d st i =>
      LocalOk d st (sGet (stallOf d st) i.a + sextImm i 32) (ldWidth i) (ldWidth i) 2 0xFFF8) (word 0x32 3 1 2 0 0xFFFFFFF8)
      (fun x => { x with sreg := [(2, 0x90000)] }) ∧
    Shown 0x2A formVld (fun d st i =>
      LocalOk d st (sGet (stallOf d st) i.a + sextImm i 20) (vecBytes (insType i)) (vecAlign (insType i)) 0 0)
      (word 0x2A 0 1 2 0 0) id :=
  ⟨⟨issues_of (by decide +kernel), by delta LocalOk; decide +kernel⟩,
   ⟨issues_of (by decide +kernel), by delta LocalOk; decide +kernel⟩⟩

theorem witness_stores :
    Shown 0x33 formSt (fun d st i =>
      LocalOk d st (sGet (stallOf d st) i.a + sextImm i 32) (ldWidth i) (ldWidth i) 1 0x1FFFF) (word 0x33 0 0 0 3 0x5FFFF) id ∧
    Shown 0x2B formVst (fun d st i =>
      LocalOk d st (sGet (stallOf d st) i.a + sextImm i 20) (vecBytes (insType i)) (vecAlign (insType i)) 0 0x2FFDE)
      (word 0x2B 11 0 2 3 0x2FFDE) id :=
  ⟨⟨issues_of (by decide +kernel), by delta LocalOk; decide +kernel⟩,
   ⟨issues_of (by decide +kernel), by delta LocalOk; decide +kernel⟩⟩

theorem witness_copy_fill :
    Shown 0x34 formCopy (fun d st i => 2 = copyLen i (stallOf d st) ∧ 0 < 2 ∧
      LocalOk d st (sGet (stallOf d st) i.a) 2 1 0 0 ∧ LocalOk d st (sGet (stallOf d st) i.d) 2 1 2 0xFFFE)
      (word 0x34 0 1 2 0 2) (fun x => { x with sreg := [(1, 0x8FFFE)] }) ∧
    Shown 0x35 formCopy (fun d st i => 9 = copyLen i (stallOf d st) ∧ 0 < 9 ∧
      LocalOk d st (sGet (stallOf d st) i.d) 9 1 1 0) (word 0x35 0 1 2 0 9) (fun x => { x with sreg := [(1, 0x40000)] }) ∧
    Shown 0x34 formCopy (fun d st i => copyLen i (stallOf d st) = 0) (word 0x34 0 1 2 3 0) id ∧
    Shown 0x35 formCopy (fun d st i => copyLen i (stallOf d st) = 0) (word 0x35 0 1 2 3 0) id :=
  ⟨⟨issues_of (by decide +kernel), by delta LocalOk; decide +kernel⟩,
   ⟨issues_of (by decide +kernel), by delta LocalOk; decide +kernel⟩,
   ⟨issues_of (by decide +kernel), by decide +kernel⟩, ⟨issues_of (by decide +kernel), by decide +kernel⟩⟩

theorem witness_local_faults :
    Shown 0x32 formLd (fun d st i => 0xFFFFFFFF = ldAddr i (stallOf d st) ∧ localRange 0xFFFFFFFF (ldWidth i) = none)
      (word 0x32 2 1 2 0 0xFFFFFFFF) (fun x => { x with sreg := [(2, 0x100000000)] }) ∧
    Shown 0x32 formLd (fun d st i => 2 = ldAddr i (stallOf d st) ∧ localRange 2 (ldWidth i) ≠ none ∧
      (2 : W64).toNat % ldWidth i ≠ 0) (word 0x32 2 1 2 0 2) id ∧
    Shown 0x33 formSt (fun d st i => 0x8FFFF = ldAddr i (stallOf d st) ∧ localRange 0x8FFFF (ldWidth i) = none)
      (word 0x33 1 0 2 1 0x8FFFF) id ∧
    Shown 0x33 formSt (fun d st i => 1 = ldAddr i (stallOf d st) ∧ localRange 1 (ldWidth i) ≠ none ∧
      (1 : W64).toNat % ldWidth i ≠ 0) (word 0x33 1 0 2 1 1) id ∧
    Shown 0x2A formVld (fun d st i => 0x2FF01 = vecAddr i (stallOf d st) ∧ localRange 0x2FF01 (vecBytes (insType i)) = none)
      (word 0x2A 0 1 2 0 0x2FF01) id ∧
    Shown 0x2A formVld (fun d st i => 4 = vecAddr i (stallOf d st) ∧ localRange 4 (vecBytes (insType i)) ≠ none ∧
      (4 : W64).toNat % vecAlign (insType i) ≠ 0) (word 0x2A 2 1 2 0 4) id ∧
    Shown 0x2B formVst (fun d st i => 0xC0000 = vecAddr i (stallOf d st) ∧ localRange 0xC0000 (vecBytes (insType i)) = none)
      (word 0x2B 0 0 2 1 0) (fun x => { x with sreg := [(2, 0xC0000)] }) ∧
    Shown 0x2B formVst (fun d st i => 1 = vecAddr i (stallOf d st) ∧ localRange 1 (vecBytes (insType i)) ≠ none ∧
      (1 : W64).toNat % vecAlign (insType i) ≠ 0) (word 0x2B 11 0 2 1 1) id :=
  ⟨⟨issues_of (by decide +kernel), by decide +kernel⟩, ⟨issues_of (by decide +kernel), by decide +kernel⟩,
   ⟨issues_of (by decide +kernel), by decide +kernel⟩, ⟨issues_of (by decide +kernel), by decide +kernel⟩,
   ⟨issues_of (by decide +kernel), by decide +kernel⟩, ⟨issues_of (by decide +kernel), by decide +kernel⟩,
   ⟨issues_of (by decide +kernel), by decide +kernel⟩, ⟨issues_of (by decide +kernel), by decide +kernel⟩⟩

/-- An instruction that issues with a local range outside every buffer. -/
abbrev OutsideAt (op : Nat) (frm : Ins → Option Form) (at_ : Ins → Stall → W64) (len : Ins → Stall → Nat) (reads : Ins → Bool)
    (w : W64) : Prop :=
  Shown op frm (fun d st i => 0xC0000 = at_ i (stallOf d st) ∧ 0 < len i (stallOf d st) ∧ reads i = true ∧
    localRange 0xC0000 (len i (stallOf d st)) = none) w (fun x => { x with sreg := [(2, 0xC0000)] })

theorem witness_local_ranges :
    OutsideAt 0x34 formCopy (fun i x => sGet x i.a) copyLen (fun _ => true) (word 0x34 0 1 2 0 3) ∧
    OutsideAt 0x35 formCopy (fun i x => sGet x i.d) copyLen (fun _ => true) (word 0x35 0 2 1 0 9) ∧
    OutsideAt 0x50 formPut (fun i x => sGet x i.a) (fun i _ => bitsOf i.imm 15 0 + 1) (fun _ => true) (word 0x50 0 1 2 3 0) ∧
    OutsideAt 0x51 formPutS (fun i x => sGet x i.a) (fun i _ => bitsOf i.imm 15 0 + 1) (fun i => !bitAt i.imm 25)
      (word 0x51 0 0 2 3 0) ∧
    OutsideAt 0x52 formPutF (fun i x => sGet x i.a) (fun i _ => bitsOf i.imm 15 0 + 1) (fun _ => true)
      (word 0x52 0 0 2 3 511) ∧
    OutsideAt 0x53 formPut (fun i x => sGet x i.a) (fun i _ => bitsOf i.imm 15 0 + 1) (fun _ => true) (word 0x53 0 0 2 3 0) ∧
    OutsideAt 0x60 formAttn (fun i x => sGet x i.a + sextImm i 32) (fun _ _ => 64) (fun _ => true) (word 0x60 0 0 2 0 0) ∧
    Shown 0x34 formCopy (fun d st i =>
      let x := stallOf d st
      0 < copyLen i x ∧ localRange (sGet x i.a) (copyLen i x) ≠ none ∧ localRange (sGet x i.d) (copyLen i x) = none)
      (word 0x34 0 1 2 0 3) (fun x => { x with sreg := [(1, 0xC0000)] }) := by
  refine ⟨?_, ?_, ?_, ?_, ?_, ?_, ?_, ?_⟩ <;> exact ⟨issues_of (by decide +kernel), by decide +kernel⟩

/-- R168: two bytes 0x34 0x92 read little-endian and sign-extended. -/
theorem test_ld_signed : seenAt .ld (word 0x32 5 1 2 0 0x40010) (put 1 0x10 [0x34, 0x92]) (fun x => sGet x 1) =
    some 0xFFFFFFFFFFFF9234 := by decide +kernel

theorem test_ld_align : seenAt .ld (word 0x32 1 1 2 0 0x40011) id (fun x => (x.mode, x.faultCode, x.faultDetail)) =
    some (.draining, 5, 0x40011) := by decide +kernel

/-- R168: the low two bytes, little-endian, and no byte after them. -/
theorem test_st : seenAt .st (word 0x33 1 0 0 3 0x80000) (fun x => { x with sreg := [(3, 0x12345678)] })
    (fun x => bytesAt x 2 0 3) = some [some 0x78, some 0x56, none] := by decide +kernel

/-- R247: an int8 element is sign-extended to its lane. -/
theorem test_vld_i8 : seenAt .vld (word 0x2A 7 1 2 0 0) (put 0 0 (List.replicate 64 0xFF)) (fun x => vLane x 1 63) =
    some 0xFFFFFFFF := by decide +kernel

/-- R248: 1.0 in FP32 narrows to 0x3F80 in BF16; the second lane is disabled and its bytes are not written. -/
theorem test_vst_bf16 : seenAt .vst (word 0x2B 3 0 2 3 0x08000000)
    (fun x => { x with vreg := [(192, 0x3F800000), (193, 0x3F800000)], preg := [(0, 1)] })
    (fun x => bytesAt x 0 0 4) = some [some 0x80, some 0x3F, none, none] := by decide +kernel

/-- R169: an overlapping COPY reads its source first. -/
theorem test_copy_overlap : seenAt .copy (word 0x34 0 1 2 0 3) (fun x => put 0 0 [1, 2, 3] { x with sreg := [(1, 1)] })
    (fun x => bytesAt x 0 0 4) = some [some 1, some 1, some 2, some 3] := by decide +kernel

/-- R169: the ninth byte repeats the first. -/
theorem test_fill : seenAt .fill (word 0x35 0 1 2 0 9) (fun x => { x with sreg := [(1, 0x40000), (2, 0x0807060504030201)] })
    (fun x => bytesAt x 1 7 3) = some [some 8, some 1, none] := by decide +kernel

/-! ### Slots -/

theorem witness_slots :
    Shown 0x40 formLdW (fun d st i => 1 = slotBuf i ∧ 255 = slotNum i (stallOf d st) ∧ SlotsOk d st 1 255 1 ∧
      flagOf (stallOf d st) 1 255 = true ∧ (stallOf d st).hold = []) (word 0x40 1 30 2 0 255)
      (fun x => { x with bFlags := [(255, true)] }) ∧
    Shown 0x41 formStF (fun d st i => 0 = slotBuf i ∧ 383 = slotNum i (stallOf d st) ∧ SlotsOk d st 0 383 1 ∧
      flagOf (stallOf d st) 0 383 = false) (word 0x41 0 0 2 4 383) id ∧
    Shown 0x42 formSlot (fun d st i => 0 = slotBuf i ∧ 0 = slotNum i (stallOf d st) ∧ SlotsOk d st 0 0 (slotRun i))
      (word 0x42 0 0 2 0 0x017F0000) id ∧
    Shown 0x43 formSlot (fun d st i => 1 = slotBuf i ∧ 255 = slotNum i (stallOf d st) ∧ SlotsOk d st 1 255 (slotRun i) ∧
      (stallOf d st).hold = []) (word 0x43 1 0 2 0 255) id ∧
    Shown 0x40 formLdW (fun d st i => 0 = slotBuf i ∧ 1 = slotNum i (stallOf d st) ∧ SlotsOk d st 0 1 1 ∧
      flagOf (stallOf d st) 0 1 = false) (word 0x40 0 0 2 0 1) id ∧
    Shown 0x41 formStF (fun d st i => 0 = slotBuf i ∧ 1 = slotNum i (stallOf d st) ∧ SlotsOk d st 0 1 1 ∧
      flagOf (stallOf d st) 0 1 = true) (word 0x41 0 0 2 4 1) (fun x => { x with tFlags := [(1, true)] }) :=
  ⟨⟨issues_of (by decide +kernel), by delta SlotsOk; decide +kernel⟩,
   ⟨issues_of (by decide +kernel), by delta SlotsOk; decide +kernel⟩,
   ⟨issues_of (by decide +kernel), by delta SlotsOk; decide +kernel⟩,
   ⟨issues_of (by decide +kernel), by delta SlotsOk; decide +kernel⟩,
   ⟨issues_of (by decide +kernel), by delta SlotsOk; decide +kernel⟩,
   ⟨issues_of (by decide +kernel), by delta SlotsOk; decide +kernel⟩⟩

theorem witness_slot_range :
    Shown 0x40 formLdW (fun d st i => 384 = slotNum i (stallOf d st) ∧ slotCount (slotBuf i) < 384 + 1)
      (word 0x40 0 0 2 0 384) id ∧
    Shown 0x41 formStF (fun d st i => 256 = slotNum i (stallOf d st) ∧ slotCount (slotBuf i) < 256 + 1)
      (word 0x41 1 0 2 4 256) id ∧
    Shown 0x42 formSlot (fun d st i => 1 = slotNum i (stallOf d st) ∧ slotCount (slotBuf i) < 1 + slotRun i)
      (word 0x42 0 0 2 0 0x017F0001) id ∧
    Shown 0x43 formSlot (fun d st i => 1 = slotNum i (stallOf d st) ∧ slotCount (slotBuf i) < 1 + slotRun i)
      (word 0x43 1 0 2 0 0x00FF0001) id :=
  ⟨⟨issues_of (by decide +kernel), by decide +kernel⟩, ⟨issues_of (by decide +kernel), by decide +kernel⟩,
   ⟨issues_of (by decide +kernel), by decide +kernel⟩, ⟨issues_of (by decide +kernel), by decide +kernel⟩⟩

/-- R143, R170: a pair takes its 512 bytes little-endian, 256 to each register. -/
theorem test_ldW_pair : (let x := pairLoad Stall.reset 2 ([0x11, 0x22] ++ List.replicate 254 0 ++ [0x33])
    (vLane x 2 0, vLane x 3 0)) = (0x2211, 0x33) := by decide +kernel

theorem test_ldW_waits : seenAt .ldW (word 0x40 0 2 0 0 1) id (fun x => (x.pc, x.held.map (·.why))) =
    some (0, some (.slotW false 1)) := by decide +kernel

theorem test_stF : seenAt .stF (word 0x41 1 0 0 2 3) (fun x => { x with vreg := [(128, 0x2211)] })
    (fun x => (bytesAt x 1 1536 2, flagOf x 1 3)) = some ([some 0x11, some 0x22], true) := by decide +kernel

theorem test_slotSet : seenAt .slotSet (word 0x42 0 0 0 0 0x00010005) id
    (fun x => [4, 5, 6, 7].map (flagOf x 0)) = some [false, true, true, false] := by decide +kernel

theorem test_slotClr : seenAt .slotClr (word 0x43 0 0 0 0 0x00010005) (fun x => { x with tFlags := [(5, true), (6, true), (7, true)] })
    (·.tFlags) = some [(7, true)] := by decide +kernel

/-! ### Remote operations, fences and counters -/

/-- A global address of module 0 in spaces 0x1, 0x2, 0x3, and in a stall's buffer (R38). -/
def spaceAddr (space off : Nat) : W64 := BitVec.ofNat 64 (2 ^ 54 * space + off)
def stallAddr (st buf off : Nat) : W64 := BitVec.ofNat 64 (2 ^ 44 * st + 2 ^ 42 * buf + off)

/-- Operation 5 of stall `src`, on its way to a home in this module. -/
def opTo (kind : RemKind) (addr : W64) (data : List Byte) (len src : Nat) : RemOp :=
  { id := 5, op := { kind := kind, addr := addr, data := data, len := len, tctr := 15, srcModule := 0, srcStall := src,
                     srcId := 5 },
    own := true, dest := 0, ctr := none, phase := .sent, dead := false, back := [], orphan := false }

def withOps (ops : List RemOp) (d : Dev) : Dev := { d with ops := ops, nextId := 6 }

/-- A module with one stall that is not as after reset. -/
def oneStall (st : Nat) (f : Stall → Stall) : Dev := { Dev.reset with stalls := [(st, f Stall.reset)] }

theorem witness_remote_data :
    Shown 0x50 formPut (fun d st i => MaySend d st ∧
      LocalOk d st (sGet (stallOf d st) i.a) (bitsOf i.imm 15 0 + 1) 1 0 0 ∧
      HasHome d .put (aGet (stallOf d st) i.d + sGet (stallOf d st) i.b) (bitsOf i.imm 15 0 + 1))
      (word 0x50 0 15 2 3 0x1FFFFF) (fun x => { x with areg := [(15, spaceAddr 1 0x9FFFFF0000)] }) ∧
    Shown 0x52 formPutF (fun d st i => MaySend d st ∧
      LocalOk d st (sGet (stallOf d st) i.a) (bitsOf i.imm 15 0 + 1) 1 1 0x1FE00 ∧
      HasHome d .putF (aGet (stallOf d st) i.d + sGet (stallOf d st) i.b) (bitsOf i.imm 15 0 + 1))
      (word 0x52 0 0 2 3 511) (fun x => { x with sreg := [(2, 0x5FE00)], areg := [(0, stallAddr 1023 1 0x1FE00)] }) ∧
    Shown 0x51 formPutS (fun d st i => bitAt i.imm 25 = false ∧ MaySend d st ∧
      LocalOk d st (sGet (stallOf d st) i.a) (bitsOf i.imm 15 0 + 1) 1 0 0 ∧
      HasHome d .putS (aGet (stallOf d st) i.d + sGet (stallOf d st) i.b) (bitsOf i.imm 15 0 + 1))
      (word 0x51 0 0 2 3 0x1E00000) id ∧
    Shown 0x51 formPutS (fun d st i => bitAt i.imm 25 = true ∧ MaySend d st ∧
      HasHome d .putS (aGet (stallOf d st) i.d + sGet (stallOf d st) i.b) 0) (word 0x51 0 0 0 3 0x2000000) id ∧
    Shown 0x53 formPut (fun d st i => MaySend d st ∧
      LocalOk d st (sGet (stallOf d st) i.a) (bitsOf i.imm 15 0 + 1) 1 2 0xFFFF ∧
      HasHome d .get (aGet (stallOf d st) i.d + sGet (stallOf d st) i.b) (bitsOf i.imm 15 0 + 1))
      (word 0x53 0 0 2 3 0) (fun x => { x with sreg := [(2, 0x8FFFF)], areg := [(0, spaceAddr 2 0x3FFFFFFFFFF)] }) :=
  ⟨⟨issues_of (by decide +kernel), by delta MaySend LocalOk HasHome; decide +kernel⟩,
   ⟨issues_of (by decide +kernel), by delta MaySend LocalOk HasHome; decide +kernel⟩,
   ⟨issues_of (by decide +kernel), by delta MaySend LocalOk HasHome; decide +kernel⟩,
   ⟨issues_of (by decide +kernel), by delta MaySend HasHome; decide +kernel⟩,
   ⟨issues_of (by decide +kernel), by delta MaySend LocalOk HasHome; decide +kernel⟩⟩

/-- A stall whose a0 and a1 name DRAM. -/
def atDram (x : Stall) : Stall := { x with areg := [(0, spaceAddr 1 0), (1, spaceAddr 1 0)] }

theorem witness_remote_atomic :
    Shown 0x54 formAadd (fun d st i => MaySend d st ∧
      HasHome d .aaddI32 (aGet (stallOf d st) i.d + sGet (stallOf d st) i.b) (4 * (bitsOf i.imm 5 0 + 1)))
      (word 0x54 0 1 2 3 63) atDram ∧
    Shown 0x55 formAadd (fun d st i => MaySend d st ∧
      HasHome d .aaddF32 (aGet (stallOf d st) i.d + sGet (stallOf d st) i.b) (4 * (bitsOf i.imm 5 0 + 1)))
      (word 0x55 0 1 2 3 0) atDram ∧
    Shown 0x56 formAadd (fun d st i => MaySend d st ∧
      HasHome d .aaddBf16 (aGet (stallOf d st) i.d + sGet (stallOf d st) i.b) (2 * (bitsOf i.imm 5 0 + 1)))
      (word 0x56 0 1 2 3 0) atDram ∧
    ShownIn { runs (word 0x57 0 1 1 3 0) atDram with ops := List.replicate 63 (opTo .put 0 [] 1 0) } 0x57 formFadd
      (fun d st i => MaySend d st ∧ HasHome d .faddI32 (aGet (stallOf d st) i.a) 4) (word 0x57 0 1 1 3 0) ∧
    Shown 0x58 formFadd (fun d st i => MaySend d st ∧ HasHome d .faddI64 (aGet (stallOf d st) i.a) 8)
      (word 0x58 0 0 1 3 0) atDram :=
  ⟨⟨issues_of (by decide +kernel), by delta MaySend HasHome; decide +kernel⟩,
   ⟨issues_of (by decide +kernel), by delta MaySend HasHome; decide +kernel⟩,
   ⟨issues_of (by decide +kernel), by delta MaySend HasHome; decide +kernel⟩,
   ⟨issues_of (by decide +kernel), by delta MaySend HasHome; decide +kernel⟩,
   ⟨issues_of (by decide +kernel), by delta MaySend HasHome; decide +kernel⟩⟩

/-- A stall whose a0 and a1 name a module that the paddock does not have. -/
def atNowhere (x : Stall) : Stall := { x with areg := [(0, 0xFC00000000000000), (1, 0xFC00000000000000)] }

/-- A remote instruction of a stall that finds no home for it. -/
abbrev Homeless (op : Nat) (frm : Ins → Option Form) (k : RemKind) (addr : Ins → Stall → W64) (len : Ins → Nat)
    (reads : Bool) (w : W64) : Prop :=
  Shown op frm (fun d st i => MaySend d st ∧ ¬ HasHome d k (addr i (stallOf d st)) (len i) ∧
    (reads = true → LocalOk d st (sGet (stallOf d st) i.a) (len i) 1 0 0)) w atNowhere

theorem witness_remote_violations :
    Homeless 0x50 formPut .put target remLen true (word 0x50 0 1 2 3 0) ∧
    Homeless 0x51 formPutS .putS target (fun i => if bitAt i.imm 25 then 0 else remLen i) true (word 0x51 0 1 2 3 0) ∧
    Homeless 0x51 formPutS .putS target (fun i => if bitAt i.imm 25 then 0 else remLen i) false
      (word 0x51 0 1 0 3 0x2000000) ∧
    Homeless 0x52 formPutF .putF target remLen true (word 0x52 0 1 2 3 0) ∧
    Homeless 0x53 formPut .get target remLen true (word 0x53 0 1 2 3 0) ∧
    Homeless 0x54 formAadd .aaddI32 target (fun i => 4 * (bitsOf i.imm 5 0 + 1)) false (word 0x54 0 1 2 3 0) ∧
    Homeless 0x55 formAadd .aaddF32 target (fun i => 4 * (bitsOf i.imm 5 0 + 1)) false (word 0x55 0 1 2 3 0) ∧
    Homeless 0x56 formAadd .aaddBf16 target (fun i => 2 * (bitsOf i.imm 5 0 + 1)) false (word 0x56 0 1 2 3 0) ∧
    Homeless 0x57 formFadd .faddI32 (fun i x => aGet x i.a) (fun _ => 4) false (word 0x57 0 0 1 3 0) ∧
    Homeless 0x58 formFadd .faddI64 (fun i x => aGet x i.a) (fun _ => 8) false (word 0x58 0 0 1 3 0) := by
  refine ⟨?_, ?_, ?_, ?_, ?_, ?_, ?_, ?_, ?_, ?_⟩ <;>
    exact ⟨issues_of (by decide +kernel), by delta MaySend LocalOk HasHome; decide +kernel⟩

/-- The operations sent: target, length, destination, completion counter (16 for none), and bytes. -/
def sentOps (c : Nat → Instr) (w : W64) (f : Stall → Stall) : Option (List (List Nat × List Byte)) :=
  seen (c 0) (runs w f) fun d => d.ops.map fun o => ([o.op.addr.toNat, o.op.len, o.dest, o.ctr.getD 16], o.op.data)

/-- R175, R177: target a[d] + s[b], one byte, counter 3. -/
theorem test_put : sentOps .put (word 0x50 0 1 2 3 0x00130000)
    (fun x => put 0 0 [0xAB] { x with areg := [(1, spaceAddr 1 0x1000)], sreg := [(3, 8)] }) =
    some [([(spaceAddr 1 0x1008).toNat, 1, 0, 3], [0xAB])] := by decide +kernel

theorem test_putS_without_data : sentOps .putS (word 0x51 0 1 0 0 0x02200000)
    (fun x => { x with areg := [(1, stallAddr 1 0 0)] }) = some [([(stallAddr 1 0 0).toNat, 0, 0, 16], [])] := by decide +kernel

theorem test_putF : sentOps .putF (word 0x52 0 1 2 0 0)
    (fun x => put 0 0 [0xCD] { x with areg := [(1, stallAddr 1 1 512)] }) =
    some [([(stallAddr 1 1 512).toNat, 1, 0, 16], [0xCD])] := by decide +kernel

theorem test_get : sentOps .get (word 0x53 0 1 2 0 7)
    (fun x => { x with areg := [(1, spaceAddr 1 0)], sreg := [(2, 0x40010)] }) =
    some [([(spaceAddr 1 0).toNat, 8, 0x40010, 16], [])] := by decide +kernel

/-- R175: two lanes, four bytes each. -/
theorem test_aaddI32 : sentOps .aaddI32 (word 0x54 0 1 2 0 1)
    (fun x => { x with areg := [(1, spaceAddr 1 0)], vreg := [(128, 5), (129, 0x100)] }) =
    some [([(spaceAddr 1 0).toNat, 8, 0, 16], [5, 0, 0, 0, 0, 1, 0, 0])] := by decide +kernel

theorem test_aaddF32 : sentOps .aaddF32 (word 0x55 0 1 2 0 0)
    (fun x => { x with areg := [(1, spaceAddr 1 0)], vreg := [(128, 0x3F800000)] }) =
    some [([(spaceAddr 1 0).toNat, 4, 0, 16], [0, 0, 0x80, 0x3F])] := by decide +kernel

/-- R175: a BF16 addend is the low half of its lane. -/
theorem test_aaddBf16 : sentOps .aaddBf16 (word 0x56 0 1 2 0 0)
    (fun x => { x with areg := [(1, spaceAddr 1 0)], vreg := [(128, 0x11113F80)] }) =
    some [([(spaceAddr 1 0).toNat, 2, 0, 16], [0x80, 0x3F])] := by decide +kernel

theorem test_faddI32 : sentOps .faddI32 (word 0x57 0 4 1 3 0)
    (fun x => { x with areg := [(1, spaceAddr 1 0)], sreg := [(3, 0x100000002)] }) =
    some [([(spaceAddr 1 0).toNat, 4, 4, 16], [2, 0, 0, 0])] := by decide +kernel

theorem test_faddI64 : sentOps .faddI64 (word 0x58 0 4 1 3 0)
    (fun x => { x with areg := [(1, spaceAddr 1 0)], sreg := [(3, 0x100000002)] }) =
    some [([(spaceAddr 1 0).toNat, 8, 4, 16], [2, 0, 0, 0, 1, 0, 0, 0])] := by decide +kernel

theorem witness_fences :
    ShownIn { runs (word 0x59 0 0 0 0 0) id with ops := [opTo .put (spaceAddr 1 0) [] 1 0] } 0x59 formPlain
      (fun d st _ => ∀ o ∈ d.ops, o.own = true → o.op.srcStall = st → ¬ (holdsIndex d (gModule o.op.addr) = true ∧
        gSpace o.op.addr = 0 ∧ gDie o.op.addr = st / 256)) (word 0x59 0 0 0 0 0) ∧
    ShownIn { runs (word 0x59 0 0 0 0 0) id with ops := [opTo .put (stallAddr 255 0 0) [] 1 0] } 0x59 formPlain
      (fun d st _ => ∃ o ∈ d.ops, o.own = true ∧ o.op.srcStall = st ∧ (holdsIndex d (gModule o.op.addr) = true ∧
        gSpace o.op.addr = 0 ∧ gDie o.op.addr = st / 256)) (word 0x59 0 0 0 0 0) ∧
    ShownIn { runs (word 0x5A 0 0 0 0 0) id with ops := [opTo .put 0xFC00000000000000 [] 1 0] } 0x5A formPlain
      (fun d st _ => ∀ o ∈ d.ops, o.own = true → o.op.srcStall = st → ¬ holdsIndex d (gModule o.op.addr) = true)
      (word 0x5A 0 0 0 0 0) ∧
    ShownIn { runs (word 0x5A 0 0 0 0 0) id with ops := [opTo .put (spaceAddr 1 0) [] 1 0] } 0x5A formPlain
      (fun d st _ => ∃ o ∈ d.ops, o.own = true ∧ o.op.srcStall = st ∧ holdsIndex d (gModule o.op.addr) = true)
      (word 0x5A 0 0 0 0 0) ∧
    ShownIn { runs (word 0x5B 0 0 0 0 0) id with ops := [opTo .put 0 [] 1 1] } 0x5B formPlain
      (fun d st _ => ∀ o ∈ d.ops, o.own = true → o.op.srcStall = st → ¬ True) (word 0x5B 0 0 0 0 0) ∧
    ShownIn { runs (word 0x5B 0 0 0 0 0) id with ops := [opTo .put 0xFC00000000000000 [] 1 0] } 0x5B formPlain
      (fun d st _ => ∃ o ∈ d.ops, o.own = true ∧ o.op.srcStall = st ∧ True) (word 0x5B 0 0 0 0 0) :=
  ⟨⟨issues_of (by decide +kernel), by decide +kernel⟩, ⟨issues_of (by decide +kernel), by decide +kernel⟩,
   ⟨issues_of (by decide +kernel), by decide +kernel⟩, ⟨issues_of (by decide +kernel), by decide +kernel⟩,
   ⟨issues_of (by decide +kernel), by decide +kernel⟩, ⟨issues_of (by decide +kernel), by decide +kernel⟩⟩

/-- The gap at both ends of the serial order (R63). -/
theorem witness_waitc :
    Shown 0x5C formWaitc (fun d st i =>
      0x7FFFFFFF = cGet (stallOf d st) i.d - (sGet (stallOf d st) i.a + sextImm i 32).setWidth 32 ∧
        (0x7FFFFFFF : W32).toNat < 2 ^ 31) (word 0x5C 0 15 2 0 0) (fun x => { x with creg := [(15, 0x7FFFFFFF)] }) ∧
    Shown 0x5C formWaitc (fun d st i =>
      0x80000000 = cGet (stallOf d st) i.d - (sGet (stallOf d st) i.a + sextImm i 32).setWidth 32 ∧
        2 ^ 31 ≤ (0x80000000 : W32).toNat) (word 0x5C 0 15 2 0 0) (fun x => { x with creg := [(15, 0x80000000)] }) :=
  ⟨⟨issues_of (by decide +kernel), by decide +kernel⟩, ⟨issues_of (by decide +kernel), by decide +kernel⟩⟩

theorem test_fenceD_passes : seen (.fenceD 0) { runs (word 0x59 0 0 0 0 0) id with ops := [opTo .put (spaceAddr 1 0) [] 1 0] }
    (fun d => (stallOf d 0).pc) = some 1 := by decide +kernel

theorem test_fenceY_waits : seen (.fenceY 0) { runs (word 0x5A 0 0 0 0 0) id with ops := [opTo .put (spaceAddr 1 0) [] 1 0] }
    (fun d => (stallOf d 0).held.map (·.why)) = some (some .drain) := by decide +kernel

theorem test_fenceP_waits : seen (.fenceP 0)
    { runs (word 0x5B 0 0 0 0 0) id with ops := [opTo .put 0xFC00000000000000 [] 1 0] }
    (fun d => (stallOf d 0).held.map (·.why)) = some (some .drain) := by decide +kernel

/-- R63: the counter has wrapped past the value. -/
theorem test_waitc_wraps : seenAt .waitc (word 0x5C 0 1 0 0 0xFFFFFFFF) (fun x => { x with creg := [(1, 2)] }) (·.pc) =
    some 1 := by decide +kernel

/-! ### Routine boundaries, ends and errors -/

theorem witness_boundaries :
    Shown 0x75 formPlain (fun d st _ => NoSwap d st) (word 0x75 0 0 0 0 0) (fun x => { x with posted := some 5 }) ∧
    Shown 0x76 formEpoch (fun _ _ i => bitAt i.mod 0 = false) (word 0x76 0 1 0 0 0) id ∧
    Shown 0x76 formEpoch (fun d st i => bitAt i.mod 0 = true ∧ NoSwap d st ∧
      6 = (sGet (stallOf d st) i.a + sextImm i 32).setWidth 32 ∧
      (0x80000005 : W32) = (stallOf d st).posted.getD (stallOf d st).epoch ∧
      ((0x80000005 : W32) - 6).toNat < 2 ^ 31) (word 0x76 1 1 2 0 6) (fun x => { x with posted := some 0x80000005 }) ∧
    Shown 0x76 formEpoch (fun d st i => bitAt i.mod 0 = true ∧ NoSwap d st ∧
      5 = (sGet (stallOf d st) i.a + sextImm i 32).setWidth 32 ∧
      (0x80000005 : W32) = (stallOf d st).posted.getD (stallOf d st).epoch ∧
      2 ^ 31 ≤ ((0x80000005 : W32) - 5).toNat) (word 0x76 1 1 2 0 5) (fun x => { x with posted := some 0x80000005 }) ∧
    Shown 0x75 formPlain (fun d st _ => (stallOf d st).pendingSpare = none ∧ (stallOf d st).pendingRetire = true)
      (word 0x75 0 0 0 0 0) (fun x => { x with pendingRetire := true }) :=
  ⟨⟨issues_of (by decide +kernel), by delta NoSwap; decide +kernel⟩, ⟨issues_of (by decide +kernel), by decide +kernel⟩,
   ⟨issues_of (by decide +kernel), by delta NoSwap; decide +kernel⟩,
   ⟨issues_of (by decide +kernel), by delta NoSwap; decide +kernel⟩, ⟨issues_of (by decide +kernel), by decide +kernel⟩⟩

/-- Stall 0 running, held by EPOCH with WAIT for epoch 3 into s1. -/
def epochHeldStall (x : Stall) : Stall := { x with mode := .running, held := some { why := .epoch 3 1, raised := true } }

theorem witness_epoch_waits :
    (let d := oneStall 0 fun x => { epochHeldStall x with epoch := 3 }
     (stallOf d 0).mode = .running ∧ (stallOf d 0).held = some { why := .epoch 3 1, raised := true } ∧
      ((stallOf d 0).epoch - 3).toNat < 2 ^ 31) ∧
    (let d := oneStall 0 fun x => { x with posted := some 1 }
     ((stallOf d 0).mode = .idle ∨ ((stallOf d 0).mode = .running ∧ epochHeld (stallOf d 0) = true)) ∧ NoSwap d 0 ∧
      ((stallOf d 0).posted ≠ none ∨ ∃ k, k < 34 ∧ (bankOf d (34 * 0 + k)).pend ≠ none)) ∧
    (let d := { oneStall 0 epochHeldStall with banks := [(33, { Bank.reset with pend := some { off := [], gain := [] } })] }
     ((stallOf d 0).mode = .idle ∨ ((stallOf d 0).mode = .running ∧ epochHeld (stallOf d 0) = true)) ∧ NoSwap d 0 ∧
      ((stallOf d 0).posted ≠ none ∨ ∃ k, k < 34 ∧ (bankOf d (34 * 0 + k)).pend ≠ none)) :=
  ⟨by decide +kernel, ⟨by decide +kernel, by delta NoSwap; decide +kernel, .inl (by decide +kernel)⟩,
   ⟨by decide +kernel, by delta NoSwap; decide +kernel, .inr ⟨33, by decide +kernel, by decide +kernel⟩⟩⟩

theorem test_yield_adopts : seenAt .yield (word 0x75 0 0 0 0 0) (fun x => { x with posted := some 5 })
    (fun x => (x.pc, x.epoch, x.posted)) = some (1, 5, none) := by decide +kernel

theorem test_epoch_reads : seenAt .epoch (word 0x76 0 1 0 0 0) (fun x => { x with epoch := 9, posted := some 10 })
    (fun x => (sGet x 1, x.epoch)) = some (9, 9) := by decide +kernel

theorem test_epochWaitEnd : seen (.epochWaitEnd 0) (oneStall 0 fun x => { epochHeldStall x with epoch := 3 })
    (fun d => (sGet (stallOf d 0) 1, (stallOf d 0).pc, (stallOf d 0).held)) = some (3, 1, none) := by decide +kernel

theorem test_idleAdopt : seen (.idleAdopt 0) (oneStall 0 fun x => { x with posted := some 1 })
    (fun d => (stallOf d 0).epoch) = some 1 := by decide +kernel

theorem witness_ends :
    Shown 0x77 formPlain anyTime (word 0x77 0 0 0 0 0) id ∧
    (let d := oneStall 0 fun x => { x with mode := .draining, ending := some .halt }
     (stallOf d 0).mode = .draining ∧ (stallOf d 0).ending = some .halt ∧ accessesPending d 0 = false ∧ opsOf d 0 = []) ∧
    (let d := withOps [opTo .put (spaceAddr 1 0) [] 1 0] (oneStall 0 fun x => { x with mode := .draining, ending := some .fault })
     (stallOf d 0).mode = .draining ∧ (stallOf d 0).ending = some .fault ∧ accessesPending d 0 = false ∧
      (stallOf d 0).gone = false ∧ NoSwap d 0) :=
  ⟨⟨issues_of (by decide +kernel), trivial⟩, by decide +kernel, by delta NoSwap; decide +kernel⟩

theorem test_halt : seenAt .halt (word 0x77 0 0 0 0 0) id (fun x => (x.mode, x.ending, x.pc)) =
    some (.draining, some .halt, 0) := by decide +kernel

theorem test_routineEnd : seen (.routineEnd 0) (oneStall 0 fun x => { x with mode := .draining, ending := some .halt })
    (fun d => (stallOf d 0).mode) = some .idle := by decide +kernel

theorem test_drainEnd : seen (.drainEnd 0) (withOps [opTo .faddI32 (spaceAddr 1 0) [] 4 0]
    (oneStall 0 fun x => { x with mode := .draining, ending := some .fault, posted := some 4 }))
    (fun d => ((stallOf d 0).mode, (stallOf d 0).epoch)) = some (.idle, 4) := by decide +kernel

/-- A stall that has issued nothing yet. -/
def running0 (f : Stall → Stall) : Dev := oneStall 0 fun x => f { x with mode := .running }

/-- A VADD at index 3, behind the program counter. -/
def vadd3 (x : Stall) : Stall := { x with limit := 4, store := [(3, some (word 0x20 0 1 2 3 0))], pc := 5 }

theorem witness_errors :
    (let x := stallOf (running0 vadd3) 0
     active x = true ∧ 3 < 4096 ∧ 3 < x.limit ∧ mget none x.store 3 = some (word 0x20 0 1 2 3 0) ∧
      residueChecked (word 0x20 0 1 2 3 0) = true) ∧
    (let x := stallOf (oneStall 0 fun x => { vadd3 x with mode := .draining, ending := some .fault }) 0
     x.mode = .draining ∧ x.ending ≠ some .halt ∧ 3 < 4096 ∧ 3 < x.limit ∧
      mget none x.store 3 = some (word 0x20 0 1 2 3 0) ∧ residueChecked (word 0x20 0 1 2 3 0) = true) ∧
    (active (stallOf (running0 id) 0) = true ∧ 4095 < 4096) ∧
    (let x := stallOf (running0 id) 0
     x.mode = .running ∧ epochHeld x = false ∧ x.limit ≤ x.pc) ∧
    (let x := stallOf (running0 fun x => { x with limit := 1 }) 0
     x.mode = .running ∧ epochHeld x = false ∧ x.pc < x.limit ∧ fetchWord x = none) ∧
    (let x := stallOf (runs (word 0x7F 0 0 0 0 0) id) 0
     x.mode = .running ∧ epochHeld x = false ∧ x.pc < x.limit ∧ fetchWord x ≠ none ∧ x.held = none) ∧
    (let x := stallOf (runs (word 0x7F 0 0 0 0 0) id) 0
     x.mode = .running ∧ epochHeld x = false ∧ fetchWord x = some (word 0x7F 0 0 0 0 0) ∧
      opcodes.contains (insOf (word 0x7F 0 0 0 0 0)).op = false) ∧
    (let x := stallOf (running0 fun x => { x with held := some { why := .counter, raised := false } }) 0
     x.held = some { why := .counter, raised := false } ∧ Wait.counter ≠ .scoreboard ∧ Wait.counter ≠ .solve) ∧
    (let x := stallOf (running0 id) 0
     x.mode = .running ∧ x.lateRaised = false ∧ epochHeld x = false) ∧
    (let o := { opTo .putF (stallAddr 1 1 0) [1] 1 0 with phase := .holding }
     let d := withOps [o] (oneStall 1 fun x => { x with hold := [5] })
     opOf d 5 = some o ∧ o.phase = .holding ∧ o.op.kind = .putF ∧ behind d (gStall o.op.addr) o = false ∧
      5 ∉ (stallOf d (gStall o.op.addr)).jammed) := by decide +kernel

/-- R194, R274: RESIDUE is 0x0D, with the index of the instruction whose residue failed. -/
theorem test_residue : seen (.residue 0 3) (running0 vadd3)
    (fun d => ((stallOf d 0).faultCode, (stallOf d 0).faultDetail, ctrOf d (stallReg 0 0xA0))) = some (0x0D, 3, 1) := by
  decide +kernel

/-- R194, R197: DETAIL is the index at the mismatch, PC the first instruction that was not issued. -/
theorem test_lockstep : seen (.lockstep 0 2) (running0 fun x => { x with pc := 3 })
    (fun d => ((stallOf d 0).faultCode, (stallOf d 0).faultPc, (stallOf d 0).faultDetail)) = some (0x0E, 3, 2) := by
  decide +kernel

/-- R195: from the fault on, an operation that is not complete writes no register. -/
theorem test_fault_orphans : seen (.lockstep 0 2) (withOps [opTo .faddI32 (spaceAddr 1 0) [] 4 0] (running0 id))
    (fun d => d.ops.map (·.orphan)) = some [true] := by decide +kernel

/-- R145: opcode 0x7F is none of R146. -/
theorem test_fetchFault : seen (.fetchFault 0 false) (runs (word 0x7F 0 0 0 0 0) id)
    (fun d => ((stallOf d 0).faultCode, (stallOf d 0).faultDetail)) = some (1, 0x7F000000) := by decide +kernel

theorem test_watchdog : seen (.watchdog 0) (running0 fun x => { x with held := some { why := .counter, raised := false } })
    (fun d => ((stallOf d 0).held.map (·.raised), ctrOf d (stallReg 0 0x20))) = some (some true, 1) := by decide +kernel

theorem test_boundaryLate : seen (.boundaryLate 0) (running0 id)
    (fun d => ((stallOf d 0).lateRaised, ctrOf d (stallReg 0 0x20))) = some (true, 1) := by decide +kernel

theorem test_slotJam : seen (.slotJam 5) (withOps [{ opTo .putF (stallAddr 1 1 0) [1] 1 0 with phase := .holding }]
    (oneStall 1 fun x => { x with hold := [5] })) (fun d => (stallOf d 1).jammed) = some [5] := by decide +kernel

/-- A form refused by its type, one refused by a field, and one that names a register a FADD will write. -/
theorem witness_illegal_and_pending :
    ((Instr.vadd, 0x20, formVadd) ∈ seqRows ∧ (Instr.mov, 0x30, formMov) ∈ seqRows) ∧
    (let w := word 0x20 3 1 2 3 0
     AtInstr (runs w id) 0 (insOf w) ∧ fetchWord (stallOf (runs w id) 0) = some w ∧ formVadd (insOf w) = none) ∧
    (let w := word 0x20 0 32 2 3 0
     AtInstr (runs w id) 0 (insOf w) ∧ fetchWord (stallOf (runs w id) 0) = some w ∧
      ∃ fm, formVadd (insOf w) = some fm ∧ formOk fm (insOf w) = false) ∧
    (let w := word 0x30 0 1 2 3 0
     let d := withOps [{ opTo .faddI32 (spaceAddr 1 0) [] 4 0 with dest := 2 }] (runs w id)
     AtInstr d 0 (insOf w) ∧ fetchWord (stallOf d 0) = some w ∧
      ∃ fm, formMov (insOf w) = some fm ∧ formOk fm (insOf w) = true ∧ hazard d 0 fm (insOf w) = true) :=
  ⟨⟨by simp [seqRows], by simp [seqRows]⟩, ⟨by delta AtInstr; decide +kernel, by decide +kernel, by decide +kernel⟩,
   ⟨by delta AtInstr; decide +kernel, by decide +kernel, _, rfl, by decide +kernel⟩,
   ⟨by delta AtInstr; decide +kernel, by decide +kernel, _, rfl, by decide +kernel, by decide +kernel⟩⟩

/-! ### Cribs -/

/-- Selections of all sixteen cribs. -/
def selAll (x : Stall) : Stall := { x with sel := (List.range 16).map fun c => (c, some false) }

theorem witness_crib_issue :
    Shown 0x10 formCribMvm (fun d st i =>
      let x := stallOf d st
      let cs := (List.range 16).filter (fun c => bitAt (bitsOf i.imm 15 0) c)
      382 = cribSlot i x ∧ 16 = cribTile i x ∧ cs ≠ [] ∧
        382 + (if bitAt i.mod 2 then 2 * cs.length - 1 else 1) ≤ 383 ∧
        16 + (if bitAt i.mod 2 then 0 else cs.length - 1) ≤ 31 ∧ (∀ c ∈ cs, mget none x.sel c ≠ none) ∧
        tilesFree d st (bitAt i.mod 0) (16, if bitAt i.mod 2 then 1 else cs.length) = true)
      (word 0x10 0 0 0 0 (0xFFFF + 382 * 2 ^ 16 + 16 * 2 ^ 25)) selAll ∧
    Shown 0x10 formCribMvm (fun d st i =>
      let x := stallOf d st
      let cs := (List.range 16).filter (fun c => bitAt (bitsOf i.imm 15 0) c)
      352 = cribSlot i x ∧ 31 = cribTile i x ∧ cs ≠ [] ∧
        352 + (if bitAt i.mod 2 then 2 * cs.length - 1 else 1) ≤ 383 ∧
        31 + (if bitAt i.mod 2 then 0 else cs.length - 1) ≤ 31 ∧ (∀ c ∈ cs, mget none x.sel c ≠ none) ∧
        tilesFree d st (bitAt i.mod 0) (31, if bitAt i.mod 2 then 1 else cs.length) = true)
      (word 0x10 4 0 0 0 (0xFFFF + 352 * 2 ^ 16 + 31 * 2 ^ 25)) selAll ∧
    Shown 0x10 formCribMvm (fun _ _ i => bitsOf i.imm 15 0 = 0) (word 0x10 0 0 0 0 0) id ∧
    ShownIn { runs (word 0x11 1 0 0 0 0x8000) id with pad := { Paddock.reset with
        epochs := [{ Epoch.reset with set := { Settings.reset with live := [(31, true)] } }] } } 0x11 formCribBank
      (fun d st i => true = bitAt i.mod 0 ∧ ∀ c, c < 16 → bitAt (bitsOf i.imm 15 0) c = true →
        liveIn d (stallOf d st).epoch st c 1 = true) (word 0x11 1 0 0 0 0x8000) ∧
    ShownIn { runs (word 0x12 0 0 0 0 (15 + 382 * 2 ^ 16 + 30 * 2 ^ 25)) id with
        banks := [(30, { Bank.reset with state := .ready })] } 0x12 formCribProbe
      (fun d st i => 15 = physOf d st (bitsOf i.imm 3 0) ∧ bitsOf i.imm 24 16 ≤ 382 ∧ bitsOf i.imm 29 25 ≤ 30 ∧
        ((bankOf d (bankKey st 15 (bitsOf i.mod 0 0))).state = .live ∨
          (bankOf d (bankKey st 15 (bitsOf i.mod 0 0))).state = .ready) ∧
        tilesFree d st false (bitsOf i.imm 29 25, 2) = true) (word 0x12 0 0 0 0 (15 + 382 * 2 ^ 16 + 30 * 2 ^ 25)) :=
  ⟨⟨issues_of (by decide +kernel), by decide +kernel⟩, ⟨issues_of (by decide +kernel), by decide +kernel⟩,
   ⟨issues_of (by decide +kernel), by decide +kernel⟩, ⟨issues_of (by decide +kernel), by decide +kernel⟩,
   ⟨issues_of (by decide +kernel), by decide +kernel⟩⟩

/-- The cribs that an instruction names. -/
abbrev chosen (i : Ins) : List Nat := (List.range 16).filter fun c => bitAt (bitsOf i.imm 15 0) c

theorem witness_crib_faults :
    Shown 0x10 formCribMvm (fun d st i => 353 = cribSlot i (stallOf d st) ∧ chosen i ≠ [] ∧
      383 < 353 + (if bitAt i.mod 2 then 2 * (chosen i).length - 1 else 1)) (word 0x10 4 0 0 0 (0xFFFF + 353 * 2 ^ 16)) id ∧
    Shown 0x10 formCribMvm (fun d st i => 352 = cribSlot i (stallOf d st) ∧ 17 = cribTile i (stallOf d st) ∧ chosen i ≠ [] ∧
      352 + (if bitAt i.mod 2 then 2 * (chosen i).length - 1 else 1) ≤ 383 ∧
      31 < 17 + (if bitAt i.mod 2 then 0 else (chosen i).length - 1))
      (word 0x10 0 0 0 0 (0xFFFF + 352 * 2 ^ 16 + 17 * 2 ^ 25)) id ∧
    Shown 0x10 formCribMvm (fun d st i => 0 = cribSlot i (stallOf d st) ∧ 0 = cribTile i (stallOf d st) ∧
      0 + (if bitAt i.mod 2 then 2 * (chosen i).length - 1 else 1) ≤ 383 ∧
      0 + (if bitAt i.mod 2 then 0 else (chosen i).length - 1) ≤ 31 ∧
      15 ∈ chosen i ∧ mget none (stallOf d st).sel 15 = none ∧ ∀ b ∈ chosen i, b < 15 → mget none (stallOf d st).sel b ≠ none)
      (word 0x10 0 0 0 0 0xC000) (fun x => { x with sel := [(14, some true)] }) ∧
    Shown 0x12 formCribProbe (fun _ _ i => 382 < bitsOf i.imm 24 16) (word 0x12 0 0 0 0 (383 * 2 ^ 16)) id ∧
    Shown 0x12 formCribProbe (fun _ _ i => bitsOf i.imm 24 16 ≤ 382 ∧ 30 < bitsOf i.imm 29 25)
      (word 0x12 0 0 0 0 (382 * 2 ^ 16 + 31 * 2 ^ 25)) id ∧
    Shown 0x12 formCribProbe (fun d st i => 15 = physOf d st (bitsOf i.imm 3 0) ∧ bitsOf i.imm 24 16 ≤ 382 ∧
      bitsOf i.imm 29 25 ≤ 30 ∧ (bankOf d (bankKey st 15 (bitsOf i.mod 0 0))).state ≠ .live ∧
      (bankOf d (bankKey st 15 (bitsOf i.mod 0 0))).state ≠ .ready) (word 0x12 1 0 0 0 15) id ∧
    Shown 0x11 formCribBank (fun d st i => 15 < 16 ∧ bitAt (bitsOf i.imm 15 0) 15 = true ∧
      liveIn d (stallOf d st).epoch st 15 (bitsOf i.mod 0 0) = false ∧
      ∀ b, b < 15 → bitAt (bitsOf i.imm 15 0) b = true → liveIn d (stallOf d st).epoch st b (bitsOf i.mod 0 0) = true)
      (word 0x11 0 0 0 0 0x8000) id := by
  refine ⟨?_, ?_, ?_, ?_, ?_, ?_, ?_⟩ <;> exact ⟨issues_of (by decide +kernel), by decide +kernel⟩

/-- An operation of one crib on slot 0 and tile 2. -/
def cribOp0 : CribOp :=
  { id := 3, probe := false, cribs := [0], banks := [0], add := false, clip := false, tall := false, slot := 0,
    tile := 2, reps := 1, epoch := 0, corrs := [{ off := [], gain := [] }], ref := 0, started := false, inputs := [], seed := 0,
    fetches := [], sampled := [] }

def withCribOp (o : CribOp) : Dev := oneStall 0 fun x => { x with cribOps := [o] }

theorem witness_crib_operations :
    (let d := withCribOp cribOp0
     cribOpOf d 0 3 = some cribOp0 ∧ cribOp0.started = false ∧ cribsFree d 0 cribOp0 = true ∧ cribOp0.cribs.Nodup ∧
      ∀ c ∈ cribOp0.cribs, 0 ≤ creditAfter d (cribKey 0 c) 0) ∧
    (let o := { cribOp0 with started := true, inputs := [[]] }
     let d := withCribOp o
     cribOpOf d 0 3 = some o ∧ o.started = true ∧ sideReady d 0 o = true ∧ o.probe = false ∧ o.cribs.Nodup) ∧
    (let o := { cribOp0 with started := true, probe := true, inputs := [[]] }
     cribOpOf (withCribOp o) 0 3 = some o ∧ o.started = true ∧ o.probe = true ∧ o.add = false ∧ o.tall = false ∧
      o.cribs = [0]) ∧
    (let o := { cribOp0 with started := true, fetches := [(0, 9), (0, 1024)] }
     let d := withCribOp o
     cribOpOf d 0 3 = some o ∧ (o.fetches.drop 1).head? = some (0, 1024) ∧ sideTurn d 0 o = true) := by decide +kernel

theorem test_cribMvm : seenAt .cribMvm (word 0x10 1 0 0 0 (3 + 4 * 2 ^ 16 + 5 * 2 ^ 25 + 2 ^ 30)) selAll
    (fun x => x.cribOps.map fun o => (o.add, [o.cribs, [o.slot, o.tile, o.reps, x.pc]])) =
    some [(true, [[0, 1], [4, 5, 2, 1]])] := by decide +kernel

/-- R154: no bank of crib 1 is selected: BANK_NONE, with the crib. -/
theorem test_cribMvm_none : seenAt .cribMvm (word 0x10 0 0 0 0 2) id (fun x => (x.faultCode, x.faultDetail)) =
    some (8, 1) := by decide +kernel

theorem test_cribBank_not_live : seenAt .cribBank (word 0x11 0 0 0 0 0x8000) id (fun x => (x.faultCode, x.faultDetail)) =
    some (9, 15) := by decide +kernel

theorem test_cribProbe_empty : seenAt .cribProbe (word 0x12 1 0 0 0 2) id (fun x => (x.faultCode, x.faultDetail)) =
    some (0x0A, 5) := by decide +kernel

theorem test_sideFetchReturn : seen (.sideFetchReturn 0 3 1)
    (withCribOp { cribOp0 with started := true, fetches := [(0, 9), (0, 1024)] })
    (fun d => (cribOpOf d 0 3).map (·.fetches)) = some (some [(0, 9)]) := by decide +kernel

/-- One bank of stall 0's crib 0, bank 0. -/
def withBank (b : Bank) : Dev := { Dev.reset with banks := [(0, b)] }

theorem witness_farrier :
    (let d := withBank { Bank.reset with state := .live }
     0 < 1024 ∧ 0 < 17 ∧ 0 < 2 ∧ (bankOf d (bankKey 0 0 0)).state = .live ∧ (∀ o ∈ (stallOf d 0).cribOps, 0 ∉ o.cribs) ∧
      0 ≤ creditAfter d (cribKey 0 0) 1) ∧
    (let d := hosting (command [(0, 1, 0x40)] none) { withBank { Bank.reset with state := .ready } with
       sense := { Sense.reset with refits := some (7, false, []) } }
     (bankOf d (bankKey 0 0 0)).state = .ready ∧ refitOn d = true) ∧
    (let d := withBank { Bank.reset with state := .live }
     0 < 1024 ∧ 0 < 17 ∧ 0 < 2 ∧ awaitsFit d (bankKey 0 0 0) = false ∧ (bankOf d (bankKey 0 0 0)).state = .live ∧
      corrOk { off := [(0, 64), (1, -64)], gain := [(0, 0xA000), (1, 0x7800)] } = true ∧
      corrOk { off := [(0, 65)], gain := [] } = false ∧ corrOk { off := [], gain := [(0, 0x77FF)] } = false) := by
  decide +kernel

/-- R577: 512 ns are 16,384 thirty-seconds. -/
theorem test_referenceRead : seen (.referenceRead 0 0 0 0) (withBank { Bank.reset with state := .live })
    (fun d => (cribOf d 0).credit) = some (147456 - 16384) := by decide +kernel

theorem test_refit_limits : seen (.refit 0 0 0 { off := [(0, 65)], gain := [] }) (withBank { Bank.reset with state := .live })
    (fun d => ((bankOf d 0).pend, (bankOf d 0).refitBad)) = some (none, true) := by decide +kernel

/-! ### Scrubs -/

theorem witness_scrubs :
    (let d := Dev.reset
     d.mem.groomEnable = true ∧ 7 < 8 ∧ 0x4FFFFFFF < stackSize / 64 ∧ 0 < 68 ∧ 67 < 68 ∧
      lineErr d (lineOf (dramKey 7 (64 * 0x4FFFFFFF))) = none) ∧
    (let d := oneStall 0 (put 1 64 (List.replicate 64 0))
     d.mem.groomEnable = true ∧ 1 < 3 ∧ groomed (stallOf d 0) 1 1 = true) ∧
    (3 < 4 ∧ unitWorn Dev.reset (unitOf (loftPlace 3 (256 * 15))) = false ∧
      unitErr Dev.reset (unitOf (loftPlace 3 (256 * 15))) = none ∧ [0, 1, 255].Nodup ∧ 3 ≤ [0, 1, 255].length ∧
      [0, 1, 255].length ≤ 4 ∧ ∀ p ∈ [0, 1, 255], p < 256) := by decide +kernel

theorem test_groomScrub_dram : seen (.groomScrub (.dram 0 0) [] true)
    { Dev.reset with mem := { Memory.reset with dram := [(1, 0xAA)], dramErr := [(0, some .correctable)] } }
    (fun d => (lineErr d 0, d.mem.dram, ctrOf d (dramReg 0 0x08), ctrOf d 0x1008)) =
    some (none, [(1, 0xAA)], 1, 1) := by decide +kernel

/-- R340: errors in two symbols of a line are detected, two in one symbol corrected. -/
theorem test_groomScrub_symbols : [5, 4].map (fun b => seen
    (.groomScrub (.dram 0 0) [(4, .correctable), (b, .correctable)] false) Dev.reset fun d => lineErr d 0) =
    [some (some .uncorrectable), some none] := by decide +kernel

/-- R362: three corrected bytes rewrite the unit, two do not. -/
theorem test_loftScrub : [2, 3].map (fun n => seen (.loftScrub 0 0 ((List.range n).map fun k => (k, .correctable)))
    Dev.reset fun d => unitErr d 0) = [some (some .correctable), some none] := by decide +kernel

/-! ### Remote operations at their homes -/

theorem witness_puts_memory :
    (let o := opTo .put (spaceAddr 1 0x9FFFFFFFFF) [0xAB] 1 0
     Reaches (withOps [o] Dev.reset) 5 o ∧ o.op.kind = .put ∧ (gSpace o.op.addr = 1 ∨ gSpace o.op.addr = 5) ∧
      o.op.data.length = o.op.len ∧ gOff o.op.addr + o.op.len ≤ regionSize o.op.addr) ∧
    (let o := opTo .put (spaceAddr 2 0x3FFFFFFFFFF) [0xAB] 1 0
     let d := withOps [o] Dev.reset
     Reaches d 5 o ∧ o.op.kind = .put ∧ gSpace o.op.addr = 2 ∧ o.op.data.length = o.op.len ∧
      gOff o.op.addr + o.op.len ≤ loftSize ∧
      ∀ k, k < o.op.len → mget 0 d.mem.wear (regionOf (unitOf (gOff o.op.addr + k))) + o.op.len < wearBudget) :=
  ⟨by delta Reaches; decide +kernel, by delta Reaches; decide +kernel⟩

theorem witness_puts_stalls :
    (let o := opTo .putS (stallAddr 1023 2 0xFFFF) [0xAB] 1 0
     Reaches (withOps [o] Dev.reset) 5 o ∧ (o.op.kind = .put ∨ o.op.kind = .putS) ∧ gSpace o.op.addr = 0 ∧
      gBuf o.op.addr < 3 ∧ 1023 = gStall o.op.addr ∧ o.op.data.length = o.op.len ∧
      gOff o.op.addr + o.op.len ≤ bufSize (gBuf o.op.addr)) ∧
    (let o := opTo .putF (stallAddr 1 1 0x1FE00) [0xAB] 1 0
     Reaches (withOps [o] Dev.reset) 5 o ∧ o.op.kind = .putF ∧ gSpace o.op.addr = 0 ∧ gBuf o.op.addr < 2 ∧
      1 = gStall o.op.addr ∧ o.op.data.length = o.op.len ∧ gOff o.op.addr + o.op.len ≤ bufSize (gBuf o.op.addr)) :=
  ⟨by delta Reaches; decide +kernel, by delta Reaches; decide +kernel⟩

/-- A PUT.F that finds slot 1 of stall 1's bin full, and a holding store that is full. -/
def fullSlot (hold : List Nat) : Dev :=
  withOps [opTo .putF (stallAddr 1 1 512) [0xAB] 1 0, { opTo .putF (stallAddr 1 1 0) [1] 8192 7 with
      id := 2, phase := .holding
      op := { kind := .putF, addr := stallAddr 1 1 0, data := List.replicate 8192 0, len := 8192, tctr := 0, srcModule := 0
              srcStall := 7, srcId := 2 } }]
    (oneStall 1 fun x => { x with bFlags := [(1, true)], hold := hold })

theorem witness_holding_store :
    (let o := opTo .putF (stallAddr 1 1 512) [0xAB] 1 0
     let d := fullSlot []
     arriving d 5 = some o ∧ o.id = 5 ∧ o.op.kind = .putF ∧ 1 = gStall o.op.addr ∧ (stallOf d 1).gone = false ∧
      (stallOf d 1).refused.contains (srcNum o) = false ∧ slotFull d o = true ∧ holdUsed d 1 + holdEntries o ≤ 16) ∧
    (let o := opTo .putF (stallAddr 1 1 512) [0xAB] 1 0
     let d := fullSlot [2]
     arriving d 5 = some o ∧ o.id = 5 ∧ o.op.kind = .putF ∧ 1 = gStall o.op.addr ∧ (stallOf d 1).gone = false ∧
      (stallOf d 1).refused.contains (srcNum o) = false ∧ slotFull d o = true ∧ 16 < holdUsed d 1 + holdEntries o) ∧
    (let o := { opTo .putF (stallAddr 1 1 512) [0xAB] 1 0 with phase := .refused }
     let d := withOps [o] (oneStall 1 fun x => { x with refused := [0] })
     (stallOf d 1).refused.contains 0 = true ∧ (stallOf d 1).gone = false ∧
      d.ops.filter (fun o => o.phase == .refused && srcNum o == 0 && gSpace o.op.addr == 0 &&
        gStall o.op.addr == 1) = [o] ∧ opOf d o.id = some o ∧ o.op.kind = .putF ∧ o.own = true ∧ gBuf o.op.addr < 2 ∧
      behind d 1 o = false ∧ slotFull d o = false) := by decide +kernel

/-- A slot that an instruction empties and at which a PUT.F waits: slot 1 of stall 0's bin. -/
def awaited (w : W64) : Dev :=
  { runs w (fun x => { x with bFlags := [(1, true)], hold := [5] }) with
    ops := [{ opTo .putF (stallAddr 0 1 512) [0xAB] 1 0 with phase := .holding }], nextId := 6 }

theorem witness_slot_with_waiting_put :
    (let o := { opTo .putF (stallAddr 0 1 512) [0xAB] 1 0 with phase := .holding }
     ShownIn (awaited (word 0x40 1 2 0 0 1)) 0x40 formLdW (fun d st i =>
       let x := stallOf d st
       1 = slotBuf i ∧ 1 = slotNum i x ∧ (1 : Nat) = 1 ∧ (!bitAt i.mod 1) = true ∧ SlotsOk d st 1 1 1 ∧
        flagOf x 1 1 = true ∧ x.hold = [5] ∧ WaitsAtSlot d st 1 1 5 o) (word 0x40 1 2 0 0 1)) ∧
    (let o := { opTo .putF (stallAddr 0 1 512) [0xAB] 1 0 with phase := .holding }
     ShownIn (awaited (word 0x43 1 0 0 0 1)) 0x43 formSlot (fun d st i =>
       let x := stallOf d st
       1 = slotBuf i ∧ 1 = slotNum i x ∧ slotRun i = 1 ∧ true = true ∧ SlotsOk d st 1 1 1 ∧
        flagOf x 1 1 = true ∧ x.hold = [5] ∧ WaitsAtSlot d st 1 1 5 o) (word 0x43 1 0 0 0 1)) :=
  ⟨⟨issues_of (by decide +kernel), by delta SlotsOk WaitsAtSlot; decide +kernel⟩,
   ⟨issues_of (by decide +kernel), by delta SlotsOk WaitsAtSlot; decide +kernel⟩⟩

/-- R215: the waiting PUT.F's byte stands in the slot, and the slot is full again. -/
theorem test_slotClr_wakes : seen (.slotClr 0) (awaited (word 0x43 1 0 0 0 1))
    (fun d => (bytesAt (stallOf d 0) 1 512 1, flagOf (stallOf d 0) 1 1, (stallOf d 0).hold)) =
    some ([some 0xAB], true, []) := by decide +kernel

theorem witness_gets_atomics :
    (let o := opTo .get (BitVec.ofNat 64 (5 * 2 ^ 54 + 3 * 2 ^ 52 + 0x27FFFFFFFF)) [] 1 0
     Reaches (withOps [o] Dev.reset) 5 o ∧ o.op.kind = .get ∧ (gSpace o.op.addr = 1 ∨ gSpace o.op.addr = 5) ∧
      gOff o.op.addr + o.op.len ≤ regionSize o.op.addr) ∧
    (let o := opTo .get (spaceAddr 3 0) [] 4 0
     Reaches (withOps [o] Dev.reset) 5 o ∧ o.op.kind = .get ∧ gSpace o.op.addr = 3) ∧
    (let o := opTo .faddI64 (spaceAddr 1 2040) [1, 0, 0, 0, 0, 0, 0, 0] 8 0
     let d := withOps [o] Dev.reset
     Reaches d 5 o ∧ isAtomic o.op.kind = true ∧ (gSpace o.op.addr = 1 ∨ gSpace o.op.addr = 5) ∧
      o.op.data.length = o.op.len ∧ gOff o.op.addr % 2048 + o.op.len ≤ 2048 ∧
      gOff o.op.addr + o.op.len ≤ regionSize o.op.addr ∧
      ∀ k ∈ dramKeys o.op.addr (gOff o.op.addr) o.op.len, lineBad d (lineOf k) = false) := by
  delta Reaches; decide +kernel

theorem witness_gets_atomics_elsewhere :
    (let o := opTo .get (spaceAddr 2 (recordBase - 1)) [] 1 0
     Reaches (withOps [o] Dev.reset) 5 o ∧ o.op.kind = .get ∧ gSpace o.op.addr = 2 ∧
      gOff o.op.addr + o.op.len ≤ recordBase) ∧
    (let o := opTo .get (stallAddr 1023 2 0xFFFF) [] 1 0
     Reaches (withOps [o] Dev.reset) 5 o ∧ o.op.kind = .get ∧ gSpace o.op.addr = 0 ∧ gBuf o.op.addr < 3 ∧
      1023 = gStall o.op.addr ∧ gOff o.op.addr + o.op.len ≤ bufSize (gBuf o.op.addr)) ∧
    (let o := opTo .aaddI32 (stallAddr 2 1 0x1FFFC) [1, 0, 0, 0] 4 0
     Reaches (withOps [o] Dev.reset) 5 o ∧ isAtomic o.op.kind = true ∧ gSpace o.op.addr = 0 ∧ gBuf o.op.addr < 3 ∧
      2 = gStall o.op.addr ∧ o.op.data.length = o.op.len ∧ gOff o.op.addr + o.op.len ≤ bufSize (gBuf o.op.addr)) ∧
    (let o := opTo .aaddI32 (spaceAddr 2 252) [1, 0, 0, 0] 4 0
     let d := withOps [o] Dev.reset
     Reaches d 5 o ∧ isAtomic o.op.kind = true ∧ gSpace o.op.addr = 2 ∧ o.op.data.length = o.op.len ∧
      0 < o.op.len ∧ gOff o.op.addr % 256 + o.op.len ≤ 256 ∧ gOff o.op.addr + o.op.len ≤ recordBase ∧
      0 = unitOf (gOff o.op.addr) ∧ unitWorn d 0 = false ∧
      (unitErr d 0 = none ∨ unitErr d 0 = some .correctable)) ∧
    (let o := opTo .aaddI32 (spaceAddr 2 252) [1, 0, 0, 0] 4 0
     let d := { withOps [o] Dev.reset with mem := { Memory.reset with wear := [(regionOf 0, wearBudget)] } }
     Reaches d 5 o ∧ isAtomic o.op.kind = true ∧ gSpace o.op.addr = 2 ∧ o.op.data.length = o.op.len ∧
      0 < o.op.len ∧ gOff o.op.addr % 256 + o.op.len ≤ 256 ∧ gOff o.op.addr + o.op.len ≤ recordBase ∧
      0 = unitOf (gOff o.op.addr) ∧
      (unitWorn d 0 = true ∨ unitErr d 0 = some .uncorrectable ∨ unitErr d 0 = some .poisoned)) := by
  refine ⟨?_, ?_, ?_, ?_, ?_⟩ <;> delta Reaches <;> decide +kernel

theorem witness_completion :
    (let o := { opTo .get (spaceAddr 1 0) [] 1 0 with phase := .performed, dest := 2 * 2 ^ 18, ctr := some 15, back := [7] }
     let d := withOps [o] Dev.reset
     opOf d 5 = some o ∧ o.id = 5 ∧ o.own = true ∧ o.phase = .performed ∧ 0 = o.op.srcStall ∧ o.orphan = false ∧
      (stallOf d 0).gone = false ∧ o.dest / 2 ^ 18 < 3) ∧
    (let o := { opTo .faddI32 (spaceAddr 1 0) [] 4 0 with phase := .performed, dest := 31, back := [7, 0, 0, 0] }
     let d := withOps [o] Dev.reset
     opOf d 5 = some o ∧ o.id = 5 ∧ o.own = true ∧ o.phase = .performed ∧ 0 = o.op.srcStall ∧ o.orphan = false ∧
      (stallOf d 0).gone = false ∧ o.dest / 2 ^ 18 < 3) := by decide +kernel

/-- R39: granule 1 of space 0x1 lies in stack 1. -/
theorem test_putPerform_dram : seen (.putPerform 5) (withOps [opTo .put (spaceAddr 1 2047) [0xAB, 0xCD] 2 0] Dev.reset)
    (fun d => d.mem.dram) = some [(2047, 0xAB), (0x1400000000, 0xCD)] := by decide +kernel

/-- R49: the signal of a PUT.S adds one to its target counter. -/
theorem test_putPerform_signal : seen (.putPerform 5) (withOps [opTo .putS (stallAddr 1 2 4) [0xAB] 1 0] Dev.reset)
    (fun d => (bytesAt (stallOf d 1) 2 4 1, cGet (stallOf d 1) 15)) = some ([some 0xAB], 1) := by decide +kernel

theorem test_putFArrive : seen (.putFArrive 5) (withOps [opTo .putF (stallAddr 1 1 512) [0xAB] 1 0] Dev.reset)
    (fun d => (bytesAt (stallOf d 1) 1 512 1, flagOf (stallOf d 1) 1 1)) = some ([some 0xAB], true) := by decide +kernel

theorem test_putFArrive_held : seen (.putFArrive 5)
    (withOps [opTo .putF (stallAddr 1 1 512) [0xAB] 1 0] (oneStall 1 fun x => { x with bFlags := [(1, true)] }))
    (fun d => ((stallOf d 1).hold, d.ops.map (·.phase))) = some ([5], [.holding]) := by decide +kernel

theorem test_holdResend : seen (.holdResend 0 1)
    (withOps [{ opTo .putF (stallAddr 1 1 512) [0xAB] 1 0 with phase := .refused }] (oneStall 1 fun x => { x with refused := [0] }))
    (fun d => ((stallOf d 1).refused, flagOf (stallOf d 1) 1 1)) = some ([], true) := by decide +kernel

theorem test_getPerform : seen (.getPerform 5)
    { withOps [opTo .get (spaceAddr 1 0) [] 2 0] Dev.reset with mem := { Memory.reset with dram := [(1, 0x5A)] } }
    (fun d => d.ops.map (·.back)) = some [[0, 0x5A]] := by decide +kernel

/-- R56: FADD_I32 wraps and returns the old element. -/
theorem test_atomicPerform : seen (.atomicPerform 5)
    { withOps [opTo .faddI32 (spaceAddr 1 0) [1, 0, 0, 0] 4 0] Dev.reset with
      mem := { Memory.reset with dram := [(0, 0xFF), (1, 0xFF), (2, 0xFF), (3, 0xFF)] } }
    (fun d => (d.mem.dram, d.ops.map (·.back))) = some ([], [[0xFF, 0xFF, 0xFF, 0xFF]]) := by decide +kernel

theorem test_remoteComplete : seen (.remoteComplete 5)
    (withOps [{ opTo .faddI32 (spaceAddr 1 0) [] 4 0 with
      phase := .performed, dest := 31, ctr := some 15, back := [7, 0, 0, 0] }] Dev.reset)
    (fun d => (sGet (stallOf d 0) 31, cGet (stallOf d 0) 15, d.ops)) = some (7, 1, []) := by decide +kernel

/-! ### Attention -/

/-- A job that attends with one query: query slot 0, output tile 0, status tile 1, keys 0 to LENGTH. -/
def attendDesc : List Byte := block 64 [(3, 1, 1), (4, 1, 1), (6, 1, 1), (7, 1, 1), (10, 2, 1), (28, 4, 0xFFFFFFFF)]

/-- A job that appends one position from slot 0. -/
def appendDesc : List Byte := block 64 [(3, 1, 2), (4, 1, 1), (14, 2, 1)]

def job0 (desc : List Byte) (started : Bool) : Job :=
  { id := 9, die := 0, stall := 0, desc := desc, epoch := 0, started := started, seq := 0, layer := 0, gen := 1, len := 0,
    memErr := false, hold := none }

/-- A sequence of one layer, one head of 64, E4M3 keys with BF16 queries: pages of 512 positions. -/
def seq0 : Seq :=
  { owner := 0, closing := false, die := 0, layers := 1, hKv := 1, hQ := 1, dim := 64, kvFmt := 0, qFmt := 0, tpLog2 := 9,
    headroom := 1, maxLen := 512, budget := 0, window := 1, decay := 0, adapter := 0, pubFlag := false, lists := listBase,
    stride := 128, reserve := 0, nameSpace := List.replicate 16 0, chain := 0, keyed := 0, chains := [], toks := [],
    attached := 0, pl := [{ freshList 1 with due := true }] }

def attending (q : Option Seq) (jobs : List Job) (edits : List Edit) : Dev :=
  { Dev.reset with attn := { Attn.reset with seqs := [(0, q)], jobs := jobs, edits := edits }, nextId := 20 }

theorem witness_attn_issue :
    Shown 0x60 formAttn (fun d st i => LocalOk d st (sGet (stallOf d st) i.a + sextImm i 32) 64 1 2 0xFFC0 ∧
      attendDesc = sramRead d st 2 0xFFC0 64 ∧ descFault attendDesc = none ∧ (jobsOf d st).length < 4 ∧
      ∀ r ∈ jobTiles attendDesc, tileFree d st r = true) (word 0x60 0 0 2 0 0x8FFC0) (put 2 0xFFC0 attendDesc) ∧
    Shown 0x60 formAttn (fun d st i => LocalOk d st (sGet (stallOf d st) i.a + sextImm i 32) 64 1 2 0 ∧
      descFault (sramRead d st 2 0 64) = some 3) (word 0x60 0 0 2 0 0x80000) (put 2 0 (List.replicate 64 0)) ∧
    ShownIn { runs (word 0x60 0 0 2 0 0x80000) (put 2 0 attendDesc) with
        attn := { Attn.reset with jobs := List.replicate 4 (job0 appendDesc false) } } 0x60 formAttn
      (fun d st i => LocalOk d st (sGet (stallOf d st) i.a + sextImm i 32) 64 1 2 0 ∧
        descFault (sramRead d st 2 0 64) = none ∧ 4 ≤ (jobsOf d st).length) (word 0x60 0 0 2 0 0x80000) :=
  ⟨⟨issues_of (by decide +kernel), by delta LocalOk; decide +kernel⟩,
   ⟨issues_of (by decide +kernel), by delta LocalOk; decide +kernel⟩,
   ⟨issues_of (by decide +kernel), by delta LocalOk; decide +kernel⟩⟩

theorem witness_attn_start :
    (let d := attending (some seq0) [job0 attendDesc false] []
     let j := job0 attendDesc false
     jobOf d 9 = some j ∧ jobMayStart d 0 j = true ∧ jobRefusal d 0 j.desc = none ∧ seqOf d (jSeq j.desc) = some seq0) ∧
    (let d := attending none [job0 attendDesc false] []
     let j := job0 attendDesc false
     jobOf d 9 = some j ∧ jobMayStart d 0 j = true ∧ jobRefusal d 0 j.desc = some 1) := by decide +kernel

theorem witness_attn_finish :
    (let j := job0 attendDesc true
     let d := attending (some seq0) [j] []
     let rs := attendJob d seq0 j
       (sramRead d j.stall 0 (512 * jQSlot j.desc) (jNq j.desc * seq0.hQ * seq0.dim * queryBytes seq0.qFmt))
     let outs := rs.flatMap fun h => h.out.flatMap (toLe 4)
     jobOf d 9 = some j ∧ j.die = 0 ∧ j.started = true ∧ j.hold = none ∧ j.memErr = false ∧ j.seq = jSeq j.desc ∧
      seqOf d j.seq = some seq0 ∧ seq0.closing = false ∧ jAppend j.desc = false ∧ jScore j.desc = false ∧
      jAttend j.desc = true ∧ (∀ k ∈ jobReadKeys seq0 j, lineBad d (lineOf k) = false) ∧
      4096 * jOutTile j.desc + outs.length ≤ 4096 * jStatTile j.desc) ∧
    (let j := job0 appendDesc true
     let d := attending (some seq0) [j] []
     jobOf d 9 = some j ∧ j.die = 0 ∧ j.started = true ∧ j.hold = none ∧ j.seq = jSeq j.desc ∧ seqOf d j.seq = some seq0 ∧
      mirroring d = false ∧ seq0.closing = false ∧ j.layer < seq0.pl.length ∧ jAppend j.desc = true ∧
      jAttend j.desc = false ∧ jScore j.desc = false ∧ (seq0.list j.layer).length = jAppendPos j.desc) := by decide +kernel

/-- A sequence whose one list has a page. -/
def seqPaged : Seq :=
  { seq0 with pl := [{ freshList 1 with entries := [{ page := 5, prev := nonePage, changed := 0, score := 0 }] }] }

/-- A module that mirrors its sequences into a standby in step; its first list has a page for the appended position. -/
def mirroredAppend : Dev :=
  let d := attending (some seqPaged) [job0 appendDesc true] []
  { d with stalls := [(0, put 0 0 (List.replicate 512 0) Stall.reset)]
           pad := { d.pad with
             twin := .inStep, twinPeer := 64, mirror := 14
             ports := [(1, { Port.reset with twin := true, queue := [.message 64 0 .stopAll] })] } }

theorem witness_mirrored_append :
    let j := job0 appendDesc true
    jobOf mirroredAppend 9 = some j ∧ j.id = 9 ∧ j.die = 0 ∧ j.started = true ∧ j.hold = none ∧
      seqOf mirroredAppend j.seq = some seqPaged ∧ jAppend j.desc = true ∧
      (seqPaged.list j.layer).length = jAppendPos j.desc ∧
      mirroredBy mirroredAppend (doAppend mirroredAppend j seqPaged).1 = some 1 := by
  decide +kernel

/-- R307: bytes 36 to 63 are reserved, and the fault names the first that is not zero. -/
theorem test_attnGo_reserved : seenAt .attnGo (word 0x60 0 0 2 0 0x80000) (put 2 0 (block 64 [(3, 1, 1), (40, 1, 1)]))
    (fun x => (x.faultCode, x.faultDetail)) = some (0x0C, 40) := by decide +kernel

theorem test_attnJobStart : seen (.attnJobStart 0 9) (attending (some seq0) [job0 attendDesc false] [])
    (fun d => d.attn.jobs.map fun j => (j.started, j.gen, j.len)) = some [(true, 1, 0)] := by decide +kernel

/-- R308: no such sequence: status 1 in the status tile. -/
theorem test_attnJobStart_refused : seen (.attnJobStart 0 9) (attending none [job0 attendDesc false] [])
    (fun d => (d.attn.jobs, bytesAt (stallOf d 0) 1 4096 2)) = some ([], [some 1, some 0]) := by decide +kernel

/-! ### Sequence memory -/

def edit0 : Edit := { id := 3, seq := 0, layer := 0, sets := [(0, 5)], newLen := none }

/-- A published sequence with its first page of 32 positions whole and keyed (R326). -/
def seqPub : Seq :=
  { seq0 with hKv := 4, hQ := 4, dim := 256, tpLog2 := 5, pubFlag := true, keyed := 32, chains := [77], chain := 77
              pl := [{ gen := 2, length := 32, due := false
                       entries := [{ page := 5, prev := nonePage, changed := 2, score := 0 }] }] }

/-- A sequence of pages of 16 positions that holds three, which is its budget, and is about to need a fourth. -/
def seqBudget : Seq :=
  { seq0 with tpLog2 := 4, maxLen := 64, budget := 3
              pl := [{ gen := 1, length := 48, due := true
                       entries := [{ page := 5, prev := nonePage, changed := 0, score := 0 },
                         { page := 6, prev := nonePage, changed := 0, score := 0 },
                         { page := 7, prev := nonePage, changed := 0, score := 0 },
                         { page := nonePage, prev := nonePage, changed := 0, score := 0 }] }] }

/-- R319: the page of the lowest score before the window makes room, never page 0. -/
theorem test_makeRoom : makeRoom (seqBudget.list 0).entries 3 3 2 9 [] 1 = ([1], 1) := by decide +kernel

theorem witness_sequence_memory :
    (let d := attending (some seq0) [] [edit0]
     d.attn.edits.find? (·.id == 3) = some edit0 ∧ editMay d edit0 = true ∧ seqOf d edit0.seq = some seq0 ∧
      seq0.closing = false ∧ edit0.layer < seq0.pl.length) ∧
    (let d := attending (some seq0) [] []
     seqOf d 0 = some seq0 ∧ seq0.closing = false ∧ 0 < seq0.layers ∧ 0 < seq0.pl.length ∧ (seq0.list 0).due = true ∧
      seq0.budget = 0 ∧ d.attn.prefixes = [] ∧
      [0] = wantedEntries seq0 (seq0.list 0) (viewEntries d 0 0 (seq0.list 0).entries) ∧
      [0].length ≤ freePages (pruneAll d seq0.die) seq0.die ∧ 0 < seq0.layers ∧ homeSplit d ≤ stackSize) ∧
    (let d := attending (some seqBudget) [] []
     let es := viewEntries d 0 0 (seqBudget.list 0).entries
     let want := wantedEntries seqBudget (seqBudget.list 0) es
     let room := makeRoom es (es.filter fun e => isPage e.page).length seqBudget.budget
        ((max (seqBudget.list 0).length 1 - 1) / seqBudget.tp + 1 - seqBudget.window) (es.length + want.length + 1) [] want.length
     seqOf d 0 = some seqBudget ∧ seqBudget.closing = false ∧ 0 < seqBudget.layers ∧ 0 < seqBudget.pl.length ∧
      (seqBudget.list 0).due = true ∧ seqBudget.budget ≠ 0 ∧ homeSplit d ≤ stackSize ∧ room.1 ≠ [] ∧
      room.2 ≤ freePages (pruneAll d seqBudget.die) seqBudget.die) ∧
    (let d := attending (some seqPub) [] []
     seqOf d 0 = some seqPub ∧ pageChain seqPub 0 = some 77 ∧ mayInsert d seqPub 0 = true ∧
      (probePlaces d (chainKey 77)).find? (fun pl => (prefixAt d pl).isNone) = some (77, 0)) := by decide +kernel

/-- A row finds a place, whichever it is. -/
theorem witness_row_place : ∃ row, rowPlace (attending (some seqPub) [] []) seqPub.die seqPub.layers = some row := by
  unfold rowPlace
  dsimp only
  split
  · exact ⟨_, rfl⟩
  · exact Option.isSome_iff_exists.1 (by decide +kernel)

/-- R302: the entry's old value stays for earlier walks, under the next generation. -/
theorem test_editBatchApply : seen (.editBatchApply 3) (attending (some seq0) [] [edit0])
    (fun d => (seqOf d 0).map fun q => ((q.list 0).gen, (q.list 0).entries.map fun e => (e.page, e.prev, e.changed))) =
    some (some (2, [(5, 0xFFFFFFFE, 2)])) := by decide +kernel

/-! ### Signatures -/

/-- The low bits, high first, of a magnitude below 128, and the end of an empty unary part. -/
def codeBits (v : Int) : List Bool :=
  decide (v < 0) :: ((List.range 7).map fun k => (BitVec.ofNat 7 v.natAbs).getLsbD (6 - k)) ++ [true]

def packBits (l : List Bool) (n : Nat) : List Byte :=
  (List.range n).map fun k => BitVec.ofNat 8 (natOfBits ((l.drop (8 * k)).take 8))

theorem natOfBits_low : ∀ n, n < 128 →
    natOfBits ((List.range 7).map fun k => (BitVec.ofNat 7 n).getLsbD (6 - k)) = n := by decide +kernel

theorem byteBits : ∀ a b c d e f g h : Bool, (List.range 8).map
    (fun k => (BitVec.ofNat 8 (natOfBits [a, b, c, d, e, f, g, h])).getLsbD (7 - k)) = [a, b, c, d, e, f, g, h] := by
  decide +kernel

theorem bitsOfBytes_packBits : ∀ (n : Nat) (l : List Bool), l.length = 8 * n → bitsOfBytes (packBits l n) = l := by
  intro n
  induction n with
  | zero => intro l h; obtain rfl := List.eq_nil_of_length_eq_zero (by simpa using h); rfl
  | succ n ih =>
    intro l h
    match l, h with
    | a :: b :: c :: d :: e :: f :: g :: i :: l, h =>
      have hl : l.length = 8 * n := by simp only [List.length_cons] at h; omega
      have e2 : packBits (a :: b :: c :: d :: e :: f :: g :: i :: l) (n + 1) =
          BitVec.ofNat 8 (natOfBits [a, b, c, d, e, f, g, i]) :: packBits l n := by
        simp [packBits, List.range_succ_eq_map, Nat.mul_add]
      rw [e2, bitsOfBytes, List.flatMap_cons, byteBits, ← bitsOfBytes, ih l hl]
      rfl

theorem decompress_code (v : Int) (h : v.natAbs < 128) (n : Nat) (r : List Bool) :
    decompress (n + 1) (codeBits v ++ r) = (decompress n r).map (v :: ·) := by
  have e1 : (codeBits v ++ r).drop 8 = true :: r := rfl
  have e2 : ((codeBits v ++ r).drop 1).take 7 = (List.range 7).map fun k => (BitVec.ofNat 7 v.natAbs).getLsbD (6 - k) := rfl
  have e3 : (codeBits v ++ r).headD false = decide (v < 0) := rfl
  simp only [decompress, e1, unaryPart, e2, natOfBits_low _ h, e3]
  have k : ¬ ((decide (v < 0) = true ∧ 128 * 0 + v.natAbs = 0) ∨ 2048 ≤ 128 * 0 + v.natAbs) := by
    simp only [decide_eq_true_eq]; omega
  rw [if_neg k]
  congr 2
  funext x
  congr 1
  by_cases hv : v < 0
  · simp only [hv, decide_true, if_true]; omega
  · simp only [hv, decide_false, Bool.false_eq_true, if_false]; omega

theorem decompress_codes : ∀ s : List Int, (∀ v ∈ s, v.natAbs < 128) → decompress s.length (s.flatMap codeBits) = some s
  | [], _ => rfl
  | v :: s, h => by
    rw [List.flatMap_cons, List.length_cons, decompress_code v (h v (by simp)),
      decompress_codes s fun x hx => h x (by simp [hx])]
    rfl

/-- The public key of the constant polynomial 110. -/
def key110 : List Byte := [0x0A, 0x01, 0xB8] ++ List.replicate 1790 0

/-- The multiple of 110 nearest to a residue. -/
def near110 (c : Nat) : Int := (centred c + 55) / 110

def sigVector (msg : List Byte) : List Int :=
  (List.range 1024).map fun i => near110 ((hashToPoint (List.replicate 40 0) msg).getD i 0)

/-- A signature of a message for the key of 110, under a salt of zeros. -/
def sig110 (msg : List Byte) : List Byte :=
  0x3A :: List.replicate 40 0 ++ packBits ((sigVector msg).flatMap codeBits) 1152

theorem near110_spec (c : Nat) : (near110 c).natAbs ≤ 56 ∧ (centred ((c : Int) - 110 * near110 c)).natAbs ≤ 55 := by
  unfold near110 centred falconQ
  dsimp only
  split <;> split <;> omega

theorem polyMul_const : ∀ (s : List Int) (k : Nat) (A B : List Int), A.length = k → B.length = s.length →
    polyMul s (List.replicate k 0 ++ 110 :: List.replicate (s.length - 1) 0) (A ++ B) =
      A ++ (B.zip s).map fun p => p.1 + p.2 * 110
  | [], k, A, B, _, hB => by
    obtain rfl := List.eq_nil_of_length_eq_zero hB; rfl
  | a :: s, k, A, b :: B, hA, hB => by
    have hB : B.length = s.length := by simpa using hB
    rw [polyMul]
    split
    · next h =>
      have z : ∀ x ∈ a :: s, x = 0 := by simpa using h
      congr 1
      have : ∀ (B : List Int) (s : List Int), B.length = s.length → (∀ x ∈ s, x = 0) →
          B = (B.zip s).map fun p => p.1 + p.2 * 110 := by
        intro B
        induction B with
        | nil => intro s _ _; rfl
        | cons b B ih =>
          intro s hl hz
          match s, hl with
          | c :: s, hl =>
            simp only [List.zip_cons_cons, List.map_cons, hz c (by simp), Int.zero_mul, Int.add_zero]
            rw [← ih s (by simpa using hl) fun x hx => hz x (by simp [hx])]
      exact this (b :: B) (a :: s) (by simpa using hB) z
    · next h =>
      have e1 : ((A ++ b :: B).zip (List.replicate k 0 ++ 110 :: List.replicate ((a :: s).length - 1) 0)).map
          (fun p => p.1 + a * p.2) = (A ++ [b + a * 110]) ++ B := by
        rw [List.zip_append (by simp [hA])]
        have r : ∀ (l : List Int) (n : Nat), l.length = n → (l.zip (List.replicate n 0)).map (fun p => p.1 + a * p.2) = l := by
          intro l
          induction l with
          | nil => intro n _; simp
          | cons x l ih =>
            intro n hn
            match n, hn with
            | n + 1, hn =>
              simp only [List.replicate_succ, List.zip_cons_cons, List.map_cons, Int.mul_zero, Int.add_zero]
              rw [ih n (by simpa using hn)]
        simp only [List.map_append, List.zip_cons_cons, List.map_cons, List.length_cons, Nat.add_sub_cancel,
          r A k hA, r B s.length hB, List.append_assoc, List.cons_append, List.nil_append]
      rw [e1]
      match s, B, hB with
      | [], [], _ => simp [polyMul]
      | c :: s, B, hB =>
        have e2 : timesX (List.replicate k 0 ++ 110 :: List.replicate ((a :: c :: s).length - 1) 0) =
            List.replicate (k + 1) 0 ++ 110 :: List.replicate ((c :: s).length - 1) 0 := by
          have : List.replicate k (0 : Int) ++ 110 :: List.replicate ((a :: c :: s).length - 1) 0 =
              (List.replicate k 0 ++ 110 :: List.replicate s.length 0) ++ [0] := by
            simp [List.replicate_succ']
          rw [this, timesX, List.dropLast_concat, List.getLastD_concat]
          simp [List.replicate_succ]
        rw [e2, polyMul_const (c :: s) (k + 1) (A ++ [b + a * 110]) B (by simp [hA]) hB]
        simp

theorem normSq_le (n : Nat) : ∀ l : List Int, (∀ v ∈ l, v.natAbs ≤ n) → normSq l ≤ n * n * l.length
  | [], _ => by simp [normSq]
  | v :: l, h => by
    have h1 := normSq_le n l fun x hx => h x (by simp [hx])
    have h2 : (v * v).toNat ≤ n * n := by
      rw [← Int.natAbs_mul_self, Int.toNat_natCast]
      exact Nat.mul_le_mul (h v (by simp)) (h v (by simp))
    simp only [normSq, List.map_cons, List.sum_cons, List.length_cons, Nat.mul_add, Nat.mul_one] at h1 ⊢
    omega

theorem falconKey_110 : falconKey key110 = some (110 :: List.replicate 1023 0) := by decide +kernel

theorem sigVector_length (msg : List Byte) : (sigVector msg).length = 1024 := by simp [sigVector]

/-- Every message has a signature that verifies. -/
theorem falconOk_110 (msg : List Byte) : falconOk key110 msg (sig110 msg) = true := by
  have hs : ∀ v ∈ sigVector msg, v.natAbs ≤ 56 := by
    intro v hv
    obtain ⟨i, _, rfl⟩ := List.mem_map.1 hv
    exact (near110_spec _).1
  have hd : decompress 1024 (bitsOfBytes ((sig110 msg).drop 41)) = some (sigVector msg) := by
    have e : (sig110 msg).drop 41 = packBits ((sigVector msg).flatMap codeBits) 1152 := by
      simp [sig110]
    have hl : ((sigVector msg).flatMap codeBits).length = 8 * 1152 := by
      rw [List.length_flatMap]
      have : (sigVector msg).map (fun v => (codeBits v).length) = List.replicate 1024 9 := by
        rw [← sigVector_length msg, ← List.map_const']
        exact List.map_congr_left fun v _ => by simp [codeBits]
      rw [this, List.sum_replicate_nat]
    have := decompress_codes (sigVector msg) fun v hv => Nat.lt_of_le_of_lt (hs v hv) (by decide)
    rw [sigVector_length] at this
    rw [e, bitsOfBytes_packBits _ _ hl, this]
  have hp : polyMul (sigVector msg) ((110 :: List.replicate 1023 0).map Int.ofNat)
      ((110 :: List.replicate 1023 0).map fun _ => 0) = (sigVector msg).map fun v => v * 110 := by
    have := polyMul_const (sigVector msg) 0 [] (List.replicate 1024 0) rfl (by rw [sigVector_length, List.length_replicate])
    rw [sigVector_length] at this
    simp only [List.map_cons, List.map_replicate, List.replicate_zero, List.nil_append] at this ⊢
    rw [show ((0 : Int) :: List.replicate 1023 0) = List.replicate 1024 0 from rfl]
    refine Eq.trans this ?_
    have z : ∀ s : List Int, ((List.replicate s.length (0 : Int)).zip s).map (fun p => p.1 + p.2 * 110) = s.map fun v => v * 110 := by
      intro s
      induction s with
      | nil => rfl
      | cons x s ih => simp [List.replicate_succ, ih]
    rw [← sigVector_length msg]
    exact z _
  have h40 : slice (sig110 msg) 1 40 = List.replicate 40 0 := by simp [slice, sig110]
  have hn : sigNorm (110 :: List.replicate 1023 0) (hashToPoint (List.replicate 40 0) msg) (sigVector msg) ≤ falconBound := by
    unfold sigNorm
    rw [hp]
    have n1 := normSq_le 56 (sigVector msg) hs
    rw [sigVector_length] at n1
    let pt := hashToPoint (List.replicate 40 0) msg
    have n2 := normSq_le 55 ((pt.zip ((sigVector msg).map fun v => v * 110)).map fun v => centred ((v.1 : Int) - v.2)) (by
      intro v hv
      obtain ⟨p, hp, rfl⟩ := List.mem_map.1 hv
      obtain ⟨i, hi, rfl⟩ := List.mem_iff_getElem.1 hp
      simp only [List.getElem_zip, List.getElem_map, sigVector, List.getElem_range]
      have hc : i < pt.length := by simp at hi; omega
      have : pt.getD i 0 = pt[i] := by simp [hc]
      show (centred ((pt[i] : Int) - near110 (pt.getD i 0) * 110)).natAbs ≤ 55
      rw [this, Int.mul_comm]
      exact (near110_spec _).2)
    have n3 : ((pt.zip ((sigVector msg).map fun v => v * 110)).map fun v => centred ((v.1 : Int) - v.2)).length ≤ 1024 := by
      simp only [List.length_map, List.length_zip, sigVector_length]; omega
    show normSq ((pt.zip _).map _) + normSq (sigVector msg) ≤ falconBound
    unfold falconBound
    omega
  simp only [falconOk, falconKey_110, hd, h40, Bool.and_eq_true, beq_iff_eq, decide_eq_true_eq]
  refine ⟨⟨rfl, ?_⟩, hn⟩
  simp [sig110]

/-! ### The weight feed -/

theorem leNat_toLe : ∀ n v, leNat (toLe n v) = v % 256 ^ n := by
  intro n
  induction n with
  | zero => intro v; simp [toLe, leNat, Nat.mod_one]
  | succ n ih =>
    intro v
    have e := Nat.mod_mul (a := 256) (b := 256 ^ n) (x := v)
    simp only [toLe, leNat, ih, BitVec.toNat_ofNat, Nat.pow_succ', e]

/-- The signed part of a manifest of one W4 weight on stall 0, crib 0, bank 0, from one E4M3 shard: header, shard table,
placement table. The KEY_ID and the HASH are those of the key and of the shard. -/
def shard0 : List Byte := [0x38]

def signedOf (key hash : Nat) : List Byte :=
  toLe 4 0x464D4B41 ++ toLe 2 1 ++ toLe 2 0 ++ toLe 8 1449 ++ toLe 16 99 ++ toLe 8 key ++ toLe 4 1 ++
    toLe 4 1 ++ toLe 8 128 ++ toLe 8 192 ++ List.replicate 32 0 ++ toLe 8 256 ++ toLe 2 1193 ++ List.replicate 22 0 ++
    (toLe 4 0 ++ List.replicate 4 0 ++ toLe 8 1 ++ toLe 8 1 ++ toLe 32 hash ++ List.replicate 8 0) ++
    (List.replicate 4 0 ++ [2, 1, 0, 0] ++ List.replicate 12 0 ++ toLe 2 1 ++ toLe 2 1 ++ List.replicate 8 0 ++
      toLe 4 0xFFFFFFFF ++ toLe 8 (2 * 2 ^ 42) ++ List.replicate 20 0)

def signed0 : List Byte := signedOf (keyIdOf key110) (shake shard0 32)
def manifest0 : List Byte := signed0 ++ sig110 signed0

def stage0 (started : Bool) (shards : List Shard) : Stage :=
  { cid := none, model := 1, source := 0, store := false, reuse := false, sender := 0, started := started,
    manifest := manifest0, shards := shards, results := [], ownResult := none, checked := [], cleared := started,
    keys := [(0, some key110)], adapter := none }

def feeding (s : Stage) (ms : List Model) : Dev := { Dev.reset with feed := { Feed.reset with stages := [s], models := ms } }

theorem leNat_lt : ∀ l : List Byte, leNat l < 256 ^ l.length
  | [] => by simp [leNat]
  | b :: l => by
    have := leNat_lt l
    have := b.isLt
    simp only [leNat, List.length_cons, Nat.pow_succ]
    omega

theorem shake_lt (b : List Byte) (n : Nat) : shake b n < 256 ^ n :=
  Nat.lt_of_lt_of_le (leNat_lt _) (Nat.pow_le_pow_right (by decide) (by simp [shakeBytes]))

theorem toLe_length (n v : Nat) : (toLe n v).length = n := by
  induction n generalizing v with
  | zero => rfl
  | succ n ih => simp [toLe, ih]

/-- A field that stands after `a` in some bytes. -/
theorem fieldAt_after (a b : List Byte) (n v k : Nat) (h : a.length = k) : fieldAt (a ++ (toLe n v ++ b)) k n = v % 256 ^ n := by
  rw [fieldAt, slice, List.drop_left' h, List.take_left' (toLe_length n v), leNat_toLe]

theorem signedOf_key (key hash : Nat) (sig : List Byte) : mKeyId (signedOf key hash ++ sig) = key % 256 ^ 8 := by
  unfold signedOf
  repeat rw [List.append_assoc]
  exact fieldAt_after (toLe 4 0x464D4B41 ++ toLe 2 1 ++ toLe 2 0 ++ toLe 8 1449 ++ toLe 16 99) _ 8 key 32 rfl

theorem manifest0_key : mKeyId manifest0 = keyIdOf key110 :=
  (signedOf_key _ _ _).trans (Nat.mod_eq_of_lt (shake_lt key110 8))

theorem manifest0_keyIn : keyIn (stage0 false []).keys (mKeyId manifest0) = some key110 := by
  simp [manifest0_key, keyIn, stage0]

theorem sig110_length (m : List Byte) : (sig110 m).length = 1193 := by simp [sig110, packBits]

theorem manifest0_signed : falconOk key110 (manifest0.take (mSigOffset manifest0))
    (slice manifest0 (mSigOffset manifest0) (mSigLength manifest0)) = true := by
  have e1 : mSigOffset manifest0 = 256 := by decide +kernel
  have e2 : mSigLength manifest0 = 1193 := by decide +kernel
  have e3 : signed0.length = 256 := by decide +kernel
  rw [e1, e2, slice, manifest0, List.take_left' e3, List.drop_left' e3, List.take_of_length_le (Nat.le_of_eq (sig110_length _))]
  exact falconOk_110 signed0

/-- Shards 0 and 1 of a running stage, 1 still to come. -/
def h0 (fwd : Bool) (held : Option Nat) : Shard :=
  { index := 0, codec := 0, stored := 1, raw := 1, hash := shake shard0 32, held := held, verified := held.isSome,
    refetches := 0, keep := true, forward := fwd, acks := [] }
def h1 : Shard :=
  { index := 1, codec := 0, stored := 1, raw := 1, hash := 0, held := none, verified := false, refetches := 0, keep := true,
    forward := false, acks := [] }

theorem manifest0_framed : framed manifest0 = true := by decide +kernel

theorem manifest0_passes : manifestResult (feeding (stage0 false []) [newModel 1]) (stage0 false []).keys manifest0 false = none := by
  rw [manifestResult, manifest0_keyIn]
  dsimp only [Option.orElse]
  rw [manifest0_signed, if_neg (by decide)]
  decide +kernel

/-- R409: a stage that delivers adapter 5 to the byte 64 of space 0x1. -/
def adapterFeed : Stage := { stage0 true [h0 true none, h1] with adapter := some { id := 5, base := 64, copies := [] } }

theorem witness_adapter_shard :
    let s := adapterFeed
    let d := feeding s []
    workingStage d = some s ∧ s.adapter = some { id := 5, base := 64, copies := [] } ∧ 64 = 64 + rawBefore s.manifest 0 ∧
      s.shards.find? (fun h => h.index == 0 && (h.keep || h.forward) && !h.verified) = some (h0 true none) ∧
      (h0 true none).codec = 0 ∧ shard0 = (deliveredBytes d s (h0 true none) shard0).2 ∧
      shard0.length = (h0 true none).stored ∧ shake shard0 32 = (h0 true none).hash ∧
      feedRoom d (h0 true none).stored = some (feedBase d) ∧ 64 + (h0 true none).stored ≤ space1Size ∧
      ∃ k ∈ s.shards, k.index ≠ 0 ∧ (k.keep || k.forward) = true ∧ k.verified = false :=
  ⟨rfl, rfl, rfl, rfl, rfl, rfl, rfl, rfl, by decide +kernel, by decide +kernel, h1, by simp [adapterFeed, stage0], by decide,
   rfl, rfl⟩

theorem witness_stage_start :
    let s := stage0 false []
    let d := feeding s [newModel 1]
    headStage d = some s ∧ s.started = false ∧ s.ownResult = none ∧ s.adapter = none ∧ s.source ≠ 1 ∧
      manifest0 = ownManifest d s ∧
      framed manifest0 = true ∧
      (s.source = 0 → s.cid.isSome = true → hostList manifest0 (deliveredLens d s) = true) ∧
      manifestResult d s.keys manifest0 false = none ∧
      loftMissing d { s with started := true, manifest := manifest0, shards := stageShards d manifest0 s.source false } = false ∧
      ∃ h ∈ stageShards d manifest0 s.source false, (h.keep || h.forward) = true :=
  ⟨rfl, rfl, rfl, rfl, by decide, rfl, manifest0_framed, fun _ e => (by cases e), manifest0_passes, by decide +kernel,
   by decide +kernel⟩

/-- The lead of a paddock of two. -/
def leading (d : Dev) : Dev := { d with pad := { Paddock.reset with role := .lead, size := 2, modules := [(0, 0, 0), (1, 1, 1)] } }

/-- A member of it, of index 1. -/
def member (d : Dev) : Dev :=
  { d with pad := { Paddock.reset with role := .member, size := 2, index := 1, chain := 1, modules := [(0, 0, 0), (1, 1, 1)] } }

theorem witness_shards :
    (let s := stage0 true [h0 true none, h1]
     let d := feeding s [newModel 1]
     workingStage d = some s ∧ s.adapter = none ∧
      s.shards.find? (fun h => h.index == 0 && (h.keep || h.forward) && !h.verified) = some (h0 true none) ∧
      (h0 true none).codec = 0 ∧ shard0 = (deliveredBytes d s (h0 true none) shard0).2 ∧
      shard0.length = (h0 true none).stored ∧ shake shard0 32 = (h0 true none).hash ∧
      feedRoom d (h0 true none).stored = some (feedBase d) ∧ feedBase d + (h0 true none).stored ≤ space1Size ∧
      ∃ k ∈ s.shards, k.index ≠ 0 ∧ (k.keep || k.forward) = true ∧ k.verified = false) ∧
    (let s := stage0 true [h0 true none, h1]
     let d := feeding s [newModel 1]
     workingStage d = some s ∧
      s.shards.find? (fun h => h.index == 0 && (h.keep || h.forward) && !h.verified) = some (h0 true none) ∧
      [1, 2] = (deliveredBytes d s (h0 true none) [1, 2]).2 ∧
      ¬ ([1, 2].length = (h0 true none).stored ∧ shake [1, 2] 32 = (h0 true none).hash) ∧
      (h0 true none).refetches ≠ 3 ∧ feedRoom d (h0 true none).stored = some (feedBase d)) ∧
    (let s := stage0 true [h0 true (some 0)]
     let d := leading (feeding s [newModel 1])
     headStage d = some s ∧ nextPlace d = some 1 ∧
      s.shards.find? (fun h => h.index == 0 && h.forward) = some (h0 true (some 0)) ∧
      heldBytes d (h0 true (some 0)) = some [0]) ∧
    (let s := stage0 true [h0 false none]
     let d := member (feeding s [newModel 1])
     workingStage d = some s ∧ h0 false none ∈ s.shards ∧ ((h0 false none).keep || (h0 false none).forward) = true ∧
      (h0 false none).verified = false ∧ follower d = true) :=
  ⟨⟨rfl, rfl, rfl, rfl, rfl, rfl, rfl, by decide +kernel, by decide +kernel, h1, by simp [stage0], by decide, rfl, rfl⟩,
   ⟨rfl, rfl, rfl, by intro e; exact absurd e.1 (by decide), by decide, by decide +kernel⟩,
   ⟨rfl, by decide +kernel, rfl, by decide +kernel⟩, ⟨rfl, by simp [stage0], rfl, rfl, rfl⟩⟩

/-- The placement of the manifest, its model, and a stage that holds its shard at the first byte of space 0x1. -/
def placement0 : Placement := placementOf manifest0 0
def model0 (p : Placement) : Model :=
  { id := 1, state := .staging, modelId := 99, digest := 7, placements := [p], busy := false, reply := none }
def held0 : Stage := stage0 true [h0 false (some 0)]

def programming (p : Placement) (b : Bank) : Dev :=
  { feeding held0 [model0 p] with banks := [(0, b)], mem := { Memory.reset with dram := [(0, 0x38)] } }

/-- The columns of the placement's group: 1.0 is the largest magnitude of its column. -/
theorem columns0 : ∃ cols, groupColumns [(placement0, shard0)] placement0.dstFmt placement0.cols = some cols :=
  Option.isSome_iff_exists.1 (by decide +kernel)

theorem witness_bank_program :
    (∃ cols raw, let d := programming placement0 { Bank.reset with wear := 1 }
     twinBankOf d 0 = none ∧ spareWaiting d 0 = none ∧ workingStage d = some held0 ∧
      modelOf d held0.model = some (model0 placement0) ∧
      (servedPlacements d (model0 placement0).placements).find? (fun p => p.index == 0 && !p.claimed && !p.done) =
        some placement0 ∧ held0.cleared = true ∧ 0 = targetKey d placement0 ∧ (bankOf d 0).state ≠ .loading ∧
      loadingBanks d < programLimit d ∧ stillFree d placement0 = true ∧ placement0.scaled = none ∧
      groupData d held0 (model0 placement0).placements placement0 = some [(placement0, shard0)] ∧
      groupColumns [(placement0, shard0)] placement0.dstFmt placement0.cols = some cols ∧
      raw = (([(placement0, shard0)].find? fun q => q.1.index == placement0.index).map (·.2)).getD [] ∧
      held0.reuse = false) ∧
    (let p := { placement0 with scaled := some [], claimed := true }
     let d := programming p { Bank.reset with state := .loading, forPlacement := some 0 }
     (bankOf d 0).state = .loading ∧ (bankOf d 0).forSpare = false ∧ (bankOf d 0).forTwin = false ∧
      [({ row := 1, col := 3, measured := 7499 } : WeakSlice)].all weakValid = true ∧
      (weakSorted ([({ row := 1, col := 3, measured := 7499 } : WeakSlice)].map (weakOf (bankOf d 0)))).length ≤ 4096 ∧
      workingStage d = some held0 ∧ modelOf d held0.model = some (model0 p) ∧
      (model0 p).placements.find? (fun p => some p.index == (bankOf d 0).forPlacement) = some p ∧
      0 = bankKey p.stall (physOf d p.stall p.crib) p.bank ∧ p.scaled = some [] ∧ ∀ r ∈ held0.results, r.2 = 0) := by
  obtain ⟨cols, h⟩ := columns0
  refine ⟨⟨cols, _, by decide +kernel, by decide +kernel, rfl, rfl, rfl, rfl, by decide +kernel, by decide +kernel,
      by decide +kernel, by decide +kernel, rfl, ?_, h, rfl, rfl⟩,
    by decide +kernel, by decide +kernel, by decide +kernel, by decide +kernel, by decide +kernel, rfl, rfl, rfl,
      by decide +kernel, rfl, by simp [held0, stage0]⟩
  rfl

/-- 4,097 different weak slices. -/
def manyWeak : List WeakSlice := (List.range 4097).map fun k => { row := k / 2048, col := k % 2048, measured := 1000 }

theorem weakInsert_length (w : WeakEntry) : ∀ l, (weakInsert w l).length = l.length + 1
  | [] => rfl
  | x :: xs => by simp only [weakInsert]; split <;> simp [weakInsert_length w xs]

theorem weakInserts_length : ∀ (ws l : List WeakEntry), (ws.foldl (fun l w => weakInsert w l) l).length = l.length + ws.length
  | [], l => by simp
  | w :: ws, l => by rw [List.foldl_cons, weakInserts_length ws, weakInsert_length]; simp; omega

theorem manyWeak_length (b : Bank) : (weakSorted (manyWeak.map (weakOf b))).length = 4097 := by
  have e : (manyWeak.map (weakOf b)).filter (fun w => w.col < 2048) = manyWeak.map (weakOf b) := by
    rw [List.filter_eq_self]
    intro w h
    obtain ⟨s, hs, rfl⟩ := List.mem_map.1 h
    obtain ⟨k, -, rfl⟩ := List.mem_map.1 hs
    exact decide_eq_true (Nat.mod_lt k (by decide : 0 < 2048))
  rw [weakSorted, e, weakInserts_length]
  simp [manyWeak]

theorem manyWeak_valid : manyWeak.all weakValid = true := by
  rw [List.all_eq_true]
  intro w h
  obtain ⟨k, hk, rfl⟩ := List.mem_map.1 h
  have := List.mem_range.1 hk
  simp [weakValid]
  omega

theorem witness_weak_limit :
    let d := { Dev.reset with banks := [(32, { Bank.reset with state := .loading, forSpare := true })] }
    (16 : Nat) < 17 ∧ (0 : Nat) < 2 ∧ (bankOf d (bankKey 0 16 0)).state = .loading ∧ manyWeak.all weakValid = true ∧
      (bankOf d (bankKey 0 16 0)).forSpare = true ∧
      4096 < (weakSorted (manyWeak.map (weakOf (bankOf d (bankKey 0 16 0))))).length :=
  ⟨(by decide : 16 < 17), (by decide : 0 < 2), by decide +kernel, manyWeak_valid, by decide +kernel, by rw [manyWeak_length]; decide⟩

theorem witness_stage_result :
    let s := stage0 true []
    let d := leading (feeding s [newModel 1])
    headStage d = some s ∧ s.started = true ∧ d.pad.role = .lead ∧ 1 ∈ stageModules d ∧ 1 ≠ d.pad.index ∧
      (∀ p ∈ s.results, p.1 ≠ 1 ∧ p.1 ≠ d.pad.index ∧ p.2 = 0) ∧ s.ownResult = none :=
  ⟨rfl, rfl, rfl, by decide +kernel, by decide, by simp [stage0], rfl⟩

theorem witness_stage_member :
    let s := stage0 true []
    let d := member (feeding s [newModel 1])
    headStage d = some s ∧ s.started = true ∧ follower d = true ∧ 2 ≠ 0 ∧ 2 ≠ 0x0C ∧ s.ownResult.getD 0 = 0 :=
  ⟨rfl, rfl, rfl, by decide, by decide, rfl⟩

/-- R403: a member that reported OK reports MEMBER when the stage fails elsewhere, and its stage is closed. -/
theorem test_stageResult_member : seen (.stageResult 0 2) (member (feeding { stage0 true [] with ownResult := some 0 }
    [newModel 1])) (fun d => d.feed.stages.length) = some 0 := by decide +kernel

/-- R342, R402: the held shard is read again, and a correctable error of its line is corrected and counted. -/
theorem test_shardRefetch : seen (.shardRefetch 0) (let d := leading (feeding (stage0 true [h0 true (some 0)]) [newModel 1])
    { d with mem := { Memory.reset with dramErr := [(0, some .correctable)] } })
    (fun d => (lineErr d 0, ctrOf d (dramReg 0 0x08))) = some (none, 1) := by decide +kernel

/-- R402: a member that waits in vain counts it and ends with code 8. -/
theorem test_shardTimeout : seen .shardTimeout (member (feeding (stage0 true [h0 false none]) [newModel 1]))
    (fun d => ((headStage d).bind (·.ownResult), ctrOf d 0x20B0)) = some (some 8, 1) := by decide +kernel

/-- R400: a shard of the wrong length is asked for again. -/
theorem test_shardReceived_short : seen (.shardReceived 0 [1, 2]) (feeding (stage0 true [h0 true none, h1]) [newModel 1])
    (fun d => ((headStage d).map fun s => s.shards.map (·.refetches), ctrOf d 0x20A8)) = some (some [1, 0], 1) := by
  decide +kernel

/-- R265: intended 7 and measured 5.5 is a difference of 1.5, which rounds away from zero, and so does its opposite. -/
theorem test_weak_rounds : [7000 - 5500, 5500 - 7000, 499, -499].map roundAway = [2, -2, 0, 0] := by decide

/-- R386: the weak list in ascending order of row and column, without reference columns. -/
theorem test_bankProgramDone_list : weakSorted [{ row := 2, col := 0, delta := 1 }, { row := 1, col := 9, delta := 2 },
    { row := 1, col := 2050, delta := 3 }, { row := 1, col := 3, delta := 4 }] =
    [{ row := 1, col := 3, delta := 4 }, { row := 1, col := 9, delta := 2 }, { row := 2, col := 0, delta := 1 }] := by
  decide +kernel

theorem test_stageResult : seen (.stageResult 1 0) (leading (feeding (stage0 true []) [newModel 1]))
    (fun d => (headStage d).map (·.results)) = some (some [(1, 0)]) := by decide +kernel

/-! ### Commands -/

theorem starts_of {c : Cmd} {d : Dev} {op : Nat} {frm : Cmd → Bool} (h : dOpcode c.desc = op ∧ frm c = true ∧
    c.begun = false ∧ inOrder (hosting c d) c = true ∧ d.health.commandDown = false ∧
    commonStatus (hosting c d) c = none ∧ isRemote (hosting c d) c = false) (e : c.cid = 7) :
    CmdStarts (hosting c d) 7 op frm c := by
  refine ⟨?_, h⟩
  simp [cmdOf, hosting, e]

theorem noDrain_of {d : Dev} (h : mwf none d.host.rings)
    (g : (d.host.rings.all fun p => p.2.all fun x => x.destroyer.isNone) = true) : NoDrain d := by
  refine ⟨h, fun p hp x hx => ?_⟩
  have e := List.all_eq_true.1 g p hp
  rw [hx] at e
  simpa using e

/-- Status, result and VALUE0 of the record in the mailbox. -/
def reply (c : Instr) (d : Dev) : Option (Option (Nat × Nat × W64)) :=
  seen c d fun d => d.host.mboxCpl.map fun p => (p.1.status, p.1.result, p.1.value0)

def identifyCmd : Cmd := command [(0, 1, 1), (20, 4, 64), (24, 8, 0x1000)] none
def attestCmd : Cmd := command [(0, 1, 2), (16, 4, 32), (20, 4, 3168)] (some [List.replicate 32 0])
def telemetryCmd (flags off count : Nat) : Cmd :=
  command [(0, 1, 0x41), (20, 4, 4096), (32, 1, flags), (36, 4, off), (40, 2, count)] none

theorem witness_reports :
    (CmdStarts (hosting identifyCmd Dev.reset) 7 0x01 anyForm identifyCmd ∧ NoDrain (hosting identifyCmd Dev.reset) ∧
      identifyCmd.resultOk = true) ∧
    (let c := { identifyCmd with resultOk := false }
     let d := hosting c Dev.reset
     CmdStarts d 7 0x01 anyForm c ∧ NoDrain d ∧ d.pad.twinOut = [] ∧ c.resultOk = false ∧ c.lead = none ∧
      c.ring ≠ noRing ∧ dResultLen c.desc ≠ 0) ∧
    (CmdStarts (hosting attestCmd Dev.reset) 7 0x02 anyForm attestCmd ∧ NoDrain (hosting attestCmd Dev.reset) ∧
      3168 ≤ dResultLen attestCmd.desc ∧ attestCmd.dataLen = 32 ∧ attestCmd.dataFailed = false ∧
      attestCmd.resultOk = true) ∧
    (let c := telemetryCmd 0 0xFFF000 512
     CmdStarts (hosting c Dev.reset) 7 0x41 (fun c => !tClear c) c ∧ NoDrain (hosting c Dev.reset) ∧
      telemetryRefusal c = none ∧ c.resultOk = true) ∧
    (let c := telemetryCmd 1 0xB0 1
     CmdStarts (hosting c Dev.reset) 7 0x41 tClear c ∧ NoDrain (hosting c Dev.reset) ∧ telemetryRefusal c = none ∧
      c.resultOk = true) :=
  ⟨⟨by delta CmdStarts; decide +kernel, noDrain_of (by decide) rfl, rfl⟩,
   ⟨by delta CmdStarts; decide +kernel, noDrain_of (by decide) rfl, by decide +kernel⟩,
   ⟨by delta CmdStarts; decide +kernel, noDrain_of (by decide) rfl, by decide +kernel⟩,
   ⟨by delta CmdStarts; decide +kernel, noDrain_of (by decide) rfl, by decide +kernel⟩,
   ⟨by delta CmdStarts; decide +kernel, noDrain_of (by decide) rfl, by decide +kernel⟩⟩

/-- The PF's command of a row, with a reserved byte that is set; a VF's MODEL_STAGE; and a command for another module. -/
theorem witness_common_checks :
    (let c := command [(0, 1, 0x03), (3, 1, 1)] none
     let d := hosting c Dev.reset
     cmdOf d 7 = some c ∧ dOpcode c.desc = 0x03 ∧ anyForm c = true ∧ c.begun = false ∧ c.solve = none ∧
      inOrder d c = true ∧ d.health.commandDown = false ∧ commonStatus d c = some 0x01 ∧ NoDrain d) ∧
    (let c := { command [(0, 1, 0x10)] none with fn := 128 }
     let d := hosting c Dev.reset
     cmdOf d 7 = some c ∧ dOpcode c.desc = 0x10 ∧ stageForm c = true ∧ c.begun = false ∧ c.solve = none ∧
      inOrder d c = true ∧ d.health.commandDown = false ∧ commonStatus d c = some 0x03 ∧ NoDrain d) ∧
    (let c := command [(0, 1, 0x01), (2, 1, 1)] none
     let d := hosting c (leading Dev.reset)
     cmdOf d 7 = some c ∧ dOpcode c.desc = 0x01 ∧ anyForm c = true ∧ c.begun = false ∧ c.solve = none ∧
      inOrder d c = true ∧ d.health.commandDown = false ∧ commonStatus d c = none ∧ isRemote d c = true) ∧
    (Instr.identify, 0x01, anyForm) ∈ commandRows none true :=
  ⟨⟨by decide, by decide +kernel, rfl, rfl, rfl, by decide, rfl, by decide +kernel, noDrain_of (by decide) rfl⟩,
   ⟨by decide, by decide +kernel, by decide +kernel, rfl, rfl, by decide, rfl, by decide +kernel, noDrain_of (by decide) rfl⟩,
   by decide +kernel, by simp [commandRows]⟩

theorem test_identify_denied : reply (.modelRetire 7) (hosting { command [(0, 1, 0x12)] none with fn := 5 } Dev.reset) =
    some (some (3, 0, 0)) := by decide +kernel

/-- R450: the module's result bytes go to the address in the descriptor. -/
theorem test_identify : seen (.identify 7) (hosting identifyCmd Dev.reset) (fun d => d.out.map fun o => match o with
    | .result a bs _ => (a, bs.length)
    | _ => (0, 0)) = some [(0x1000, 64)] := by decide +kernel

theorem test_attest_short : reply (.attest 7) (hosting (command [(0, 1, 2), (16, 4, 32), (20, 4, 3167)]
    (some [List.replicate 32 0])) Dev.reset) = some (some (2, 0, 0)) := by decide +kernel

/-- R461: the DOORBELL_DROPPED counter read, and read and cleared. -/
theorem test_telemetry : [0, 1].map (fun k => seen (if k = 0 then .telemetryRead 7 else .telemetryReadClear 7)
    (hosting (telemetryCmd k 0xB0 1) { Dev.reset with ctr := [(0xB0, 3)] })
    fun d => (d.ctr, (d.host.mboxCpl.map fun p => p.1.status) == some 0)) = [some ([(0xB0, 3)], true), some ([], true)] := by
  decide +kernel

/-! ### Rings -/

def ring0 (type : RingType) : Ring :=
  { type := type, state := .active, owner := 0, sizeLog2 := 4, priority := 0, vector := 0, bind := 2, base := 0x1000,
    coalCount := 0, coalUsec := 0, mask := 1, head := 0, tail := 0, phase := true, unsignalled := 0, overflow := false,
    heldRecords := [], passed := 0, destroyer := none, posted := 0, failAt := none }

def withRings (rs : Map (Option Ring)) (d : Dev) : Dev := { d with host := { d.host with rings := rs } }

def createCmd (type sizeLog2 : Nat) : Cmd :=
  command [(0, 1, 3), (32, 1, type), (33, 1, sizeLog2), (40, 8, 0x10000)] none

def destroyCmd (r : Nat) : Cmd := command [(0, 1, 4), (32, 2, r)] none

theorem witness_rings :
    (let c := createCmd 1 16
     let d := hosting c Dev.reset
     CmdStarts d 7 0x03 anyForm c ∧ NoDrain d ∧ ringRefusal d c = none ∧ mget none d.host.quota c.fn = none ∧
      d.host.rings.length < 65536 ∧ RecordFits d c ∧
      (c.ring = mboxRing ∨ c.lead.isSome = true ∨ ∃ s, ringOf d c.ring = some s ∧ ringOf d s.bind ≠ none)) ∧
    (let c := destroyCmd 1
     let d := hosting c (withRings [(1, some (ring0 .event))] Dev.reset)
     CmdStarts d 7 0x04 anyForm c ∧ NoDrain d ∧ 1 = c.param 32 2 ∧ ringOf d 1 = some (ring0 .event) ∧
      (ring0 .event).owner = c.fn ∧ (ring0 .event).state ≠ .draining ∧ c.ring ≠ 1 ∧ RecordFits d c ∧
      ((ring0 .event).type = .event ∨ ((ring0 .event).type = .comp ∧
        ∀ q y, ringOf d q = some y → y.type = .sub → y.bind ≠ 1))) ∧
    (let c := destroyCmd 2
     let d := hosting c (withRings [(2, some (ring0 .comp))] Dev.reset)
     CmdStarts d 7 0x04 anyForm c ∧ NoDrain d ∧ 2 = c.param 32 2 ∧ ringOf d 2 = some (ring0 .comp) ∧
      (ring0 .comp).owner = c.fn ∧ (ring0 .comp).state ≠ .draining ∧ c.ring ≠ 2 ∧ RecordFits d c ∧
      ((ring0 .comp).type = .event ∨ ((ring0 .comp).type = .comp ∧
        ∀ q y, ringOf d q = some y → y.type = .sub → y.bind ≠ 2))) ∧
    (let c := destroyCmd 1
     let x := { ring0 .sub with head := 15, tail := 3, state := .error }
     let d := hosting c (withRings [(1, some x), (2, some (ring0 .comp))] Dev.reset)
     CmdStarts d 7 0x04 anyForm c ∧ NoDrain d ∧ 1 = c.param 32 2 ∧ ringOf d 1 = some x ∧ x.owner = c.fn ∧
      x.type = .sub ∧ x.state ≠ .draining ∧ RecordFits d c ∧ recordsHeld d 1 = false ∧ ∀ y ∈ d.host.cmds, y.ring ≠ 1) :=
  ⟨⟨by delta CmdStarts; decide +kernel, noDrain_of (by decide) rfl, by decide +kernel, rfl, by decide,
     (fun s x h => by cases h), .inl rfl⟩,
   ⟨by delta CmdStarts; decide +kernel, noDrain_of (by decide) rfl, by decide +kernel, by decide +kernel, rfl, by decide,
     by decide, (fun s x h => by cases h), .inl rfl⟩,
   ⟨by delta CmdStarts; decide +kernel, noDrain_of (by decide) rfl, by decide +kernel, by decide +kernel, rfl, by decide,
     by decide, (fun s x h => by cases h), .inr ⟨rfl, fun q y h t => by
       simp only [ringOf, hosting, withRings, mget] at h
       split at h
       · cases h; cases t
       · cases h⟩⟩,
   ⟨by delta CmdStarts; decide +kernel, noDrain_of (by decide) rfl, by decide +kernel, by decide +kernel, rfl, rfl, by decide,
     (fun s x h => by cases h), by decide +kernel, by decide +kernel⟩⟩

/-- A command of ring 1 in progress on stall 0, beside the destruction of that ring. -/
def ringBusy (c : Cmd) : Dev :=
  let d := hosting c (withRings [(1, some (ring0 .sub)), (2, some (ring0 .comp))]
    (oneStall 0 fun x => { x with mode := .running }))
  { d with host := { d.host with cmds := [c, { command [(0, 1, 0x30), (34, 2, 1), (38, 2, 1), (40, 1, 0x80)] none with
    cid := 6, ring := 1, begun := true, running := [0] }] } }

theorem witness_ring_draining :
    (let c := destroyCmd 1
     let d := ringBusy c
     CmdStarts d 7 0x04 anyForm c ∧ NoDrain d ∧ 1 = c.param 32 2 ∧ ringOf d 1 = some (ring0 .sub) ∧
      (ring0 .sub).owner = c.fn ∧ (ring0 .sub).type = .sub ∧ (ring0 .sub).state ≠ .draining ∧
      (d.host.cmds.map (·.cid)).Nodup ∧ (∃ y ∈ d.host.cmds, y.ring = 1 ∧ y.cid ≠ 7) ∧
      (∀ y ∈ d.host.cmds, y.ring = 1 → y.cid ≠ 7 → y.onStalls = true → y.begun = true) ∧
      ∃ y ∈ d.host.cmds, y.ring = 1 ∧ y.onStalls = true ∧ 0 ∈ y.running ∧ active (stallOf d 0) = true) ∧
    (let c := destroyCmd 2
     let d := hosting c (withRings [(1, some (ring0 .sub)), (2, some (ring0 .comp))] Dev.reset)
     CmdStarts d 7 0x04 anyForm c ∧ NoDrain d ∧ 2 = c.param 32 2 ∧ ringOf d 2 = some (ring0 .comp) ∧
      (ring0 .comp).owner = c.fn ∧ (ring0 .comp).type = .comp ∧ ∃ q y, ringOf d q = some y ∧ y.type = .sub ∧ y.bind = 2) :=
  ⟨⟨by delta CmdStarts; decide +kernel, noDrain_of (by decide) rfl, by decide +kernel⟩,
   ⟨by delta CmdStarts; decide +kernel, noDrain_of (by decide) rfl, by decide +kernel, by decide +kernel, rfl, rfl,
    1, ring0 .sub, by decide +kernel, rfl, rfl⟩⟩

/-- R447: the routine of the ring's command is stopped with ABORT, reason RING, and the ring waits for it. -/
theorem test_ringDestroy_draining : seen (.ringDestroy 7) (ringBusy (destroyCmd 1))
    (fun d => ((ringOf d 1).map (·.state), (stallOf d 0).faultCode, (stallOf d 0).faultDetail)) =
    some (some .draining, 0x0F, 4) := by decide +kernel

/-- R428: a size of 2³ entries is below the range. -/
theorem test_ringCreate_size : reply (.ringCreate 7 none) (hosting (createCmd 1 3) Dev.reset) = some (some (2, 0, 0)) := by
  decide +kernel

/-- R446: four entries between head 15 and tail 3 are discarded. -/
theorem test_ringDestroy : seen (.ringDestroy 7)
    (hosting (destroyCmd 1) (withRings [(1, some { ring0 .sub with head := 15, tail := 3 }), (2, some (ring0 .comp))] Dev.reset))
    (fun d => ((ringOf d 1).isNone, d.host.mboxCpl.map fun p => p.1.value1)) = some (true, some 4) := by decide +kernel

/-! ### Commands of the feed -/

def stageCmd (source options off : Nat) (data : Option (List (List Byte))) : Cmd :=
  command [(0, 1, 0x10), (1, 1, if source = 0 then 1 else 0), (33, 1, source), (34, 1, options), (36, 8, off)] data
def keyCmd : Cmd := command [(0, 1, 0x10), (16, 4, 1793), (32, 1, 1)] (some [key110])
def removeCmd : Cmd := command [(0, 1, 0x10), (32, 1, 2), (44, 8, keyIdOf key110)] none

theorem block_last (n off w v : Nat) (fs : List (Nat × Nat × Nat)) : block n (fs ++ [(off, w, v)]) =
    (block n fs).take off ++ (toLe w v ++ (block n fs).drop (off + w)) := by
  simp [block, List.foldl_append]

theorem removeCmd_key : removeCmd.param 44 8 = keyIdOf key110 := by
  have e : removeCmd.desc = block 64 ([(0, 1, 0x10), (32, 1, 2)] ++ [(44, 8, keyIdOf key110)]) := rfl
  rw [Cmd.param, e, block_last, fieldAt_after _ _ _ _ _ (by decide +kernel)]
  exact Nat.mod_eq_of_lt (shake_lt key110 8)

theorem witness_stage_and_keys :
    (let c := stageCmd 0 3 0 (some [manifest0, shard0])
     let d := hosting c Dev.reset
     CmdStarts d 7 0x10 stageForm c ∧ c.param 32 1 = 0 ∧ 0 = c.param 33 1 ∧ 0 < 3 ∧ c.param 34 1 < 4 ∧
      (0 = 0 → c.isList = true) ∧ (0 = 2 → bitAt (c.param 34 1) 0 = false) ∧
      (0 = 1 → dDataLen c.desc = 0 ∧ 8 * homeSplit d ≤ c.param 36 8 ∧ c.param 36 8 < reserveBase d) ∧
      c.dataFailed = false ∧ d.feed.models.length < 64 ∧ d.feed.models.length + d.host.cmds.length < 65535 ∧
      (d.feed.stages.filter (·.adapter.isNone)).length < 9) ∧
    (let c := stageCmd 1 2 (8 * homeSplit Dev.reset) none
     let d := hosting c Dev.reset
     CmdStarts d 7 0x10 stageForm c ∧ c.param 32 1 = 0 ∧ 1 = c.param 33 1 ∧ 1 < 3 ∧ c.param 34 1 < 4 ∧
      (1 = 0 → c.isList = true) ∧ (1 = 2 → bitAt (c.param 34 1) 0 = false) ∧
      (1 = 1 → dDataLen c.desc = 0 ∧ 8 * homeSplit d ≤ c.param 36 8 ∧ c.param 36 8 < reserveBase d) ∧
      c.dataFailed = false ∧ d.feed.models.length < 64 ∧ d.feed.models.length + d.host.cmds.length < 65535 ∧
      (d.feed.stages.filter (·.adapter.isNone)).length < 9) ∧
    (let d := hosting keyCmd Dev.reset
     CmdStarts d 7 0x10 (fun c => c.param 32 1 == 1) keyCmd ∧ NoDrain d ∧ keyCmd.param 33 1 ≤ 2 ∧ keyCmd.param 34 1 < 4 ∧ keyCmd.dataFailed = false ∧
      keyCmd.dataLen = 1793 ∧ keyCmd.bytes.head? = some falconKeyHeader ∧ keyFor d (keyIdOf keyCmd.bytes) = none ∧
      d.feed.keys.length < 16) ∧
    (let d := hosting removeCmd { Dev.reset with feed := { Feed.reset with keys := [(15, some key110)] } }
     CmdStarts d 7 0x10 (fun c => c.param 32 1 == 2) removeCmd ∧ NoDrain d ∧ removeCmd.param 33 1 ≤ 2 ∧ removeCmd.param 34 1 < 4 ∧ mwf none d.feed.keys ∧
      mget none d.feed.keys 15 = some key110 ∧ keyIdOf key110 = removeCmd.param 44 8 ∧
      ∀ m k, mget none d.feed.keys m = some k → keyIdOf k = removeCmd.param 44 8 → m = 15) := by
  refine ⟨⟨starts_of (by decide +kernel) rfl, by decide +kernel⟩, ⟨starts_of (by decide +kernel) rfl, by decide +kernel⟩,
    ⟨starts_of (by decide +kernel) rfl, noDrain_of (by decide) rfl, by decide +kernel, by decide +kernel, by decide +kernel,
      by decide +kernel, rfl, rfl, by decide⟩,
    ⟨starts_of (by decide +kernel) rfl, noDrain_of (by decide) rfl, by decide +kernel, by decide +kernel, by decide, rfl,
      removeCmd_key.symm, ?_⟩⟩
  intro m k h _
  simp only [hosting, mget] at h
  split at h
  · exact Eq.symm ‹_›
  · cases h

/-- A reserved SOURCE of KEY_ADD, and a reserved option of KEY_REMOVE. -/
def keySourceCmd : Cmd := command [(0, 1, 0x10), (32, 1, 1), (33, 1, 3)] none
def keyOptionCmd : Cmd := command [(0, 1, 0x10), (32, 1, 2), (34, 1, 4)] none

theorem witness_key_forms :
    (CmdStarts (hosting keySourceCmd Dev.reset) 7 0x10 (fun c => c.param 32 1 == 1) keySourceCmd ∧
      NoDrain (hosting keySourceCmd Dev.reset) ∧ (2 < keySourceCmd.param 33 1 ∨ 4 ≤ keySourceCmd.param 34 1)) ∧
    (CmdStarts (hosting keyOptionCmd Dev.reset) 7 0x10 (fun c => c.param 32 1 == 2) keyOptionCmd ∧
      NoDrain (hosting keyOptionCmd Dev.reset) ∧ (2 < keyOptionCmd.param 33 1 ∨ 4 ≤ keyOptionCmd.param 34 1)) :=
  ⟨⟨starts_of (by decide +kernel) rfl, noDrain_of (by decide) rfl, by decide +kernel⟩,
   ⟨starts_of (by decide +kernel) rfl, noDrain_of (by decide) rfl, by decide +kernel⟩⟩

/-- R6, R444: SOURCE 3 is reserved in KEY_ADD, and option bit 2 in KEY_REMOVE. -/
theorem test_key_reserved : [reply (.keyAdd 7) (hosting keySourceCmd Dev.reset),
    reply (.keyRemove 7) (hosting keyOptionCmd Dev.reset)] = [some (some (1, 0, 0)), some (some (1, 0, 0))] := by decide +kernel

/-- The signed part of an adapter's manifest: flags bit 0, base model 99, one shard, no placement. -/
def entryOf (hash : Nat) : List Byte :=
  (toLe 4 0 ++ List.replicate 4 0 ++ toLe 8 1 ++ toLe 8 1) ++ (toLe 32 hash ++ List.replicate 8 0)

def adapterOf (key : Nat) : List Byte :=
  (toLe 4 0x464D4B41 ++ toLe 2 1 ++ toLe 2 0 ++ toLe 8 1385 ++ toLe 16 0) ++ (toLe 8 key ++ (toLe 4 1 ++ toLe 4 0 ++
    toLe 8 128 ++ toLe 8 0 ++ toLe 8 0 ++ toLe 4 0 ++ toLe 4 1 ++ toLe 16 99 ++ toLe 8 192 ++ toLe 2 1193 ++
    List.replicate 22 0))

def adapterSigned : List Byte := adapterOf (keyIdOf key110) ++ entryOf (shake shard0 32)
def adapterManifest : List Byte := adapterSigned ++ sig110 adapterSigned

def adapterCmd : Cmd := command [(0, 1, 0x13), (1, 1, 1)] (some [adapterManifest, shard0])

def adapterDev : Dev := hosting adapterCmd { Dev.reset with
  feed := { Feed.reset with keys := [(0, some key110)], models := [{ newModel 1 with state := .staged, modelId := 99 }] } }

theorem adapterManifest_key : mKeyId adapterManifest = keyIdOf key110 := by
  rw [mKeyId, adapterManifest, adapterSigned, adapterOf]
  repeat rw [List.append_assoc]
  rw [← List.append_assoc, ← List.append_assoc, ← List.append_assoc, ← List.append_assoc,
    fieldAt_after _ _ 8 (keyIdOf key110) 32 rfl]
  exact Nat.mod_eq_of_lt (shake_lt key110 8)

theorem adapterManifest_signed : falconOk key110 (adapterManifest.take (mSigOffset adapterManifest))
    (slice adapterManifest (mSigOffset adapterManifest) (mSigLength adapterManifest)) = true := by
  have e1 : mSigOffset adapterManifest = 192 := by decide +kernel
  have e2 : mSigLength adapterManifest = 1193 := by decide +kernel
  have e3 : adapterSigned.length = 192 := by decide +kernel
  rw [e1, e2, slice, adapterManifest, List.take_left' e3, List.drop_left' e3,
    List.take_of_length_le (Nat.le_of_eq (sig110_length _))]
  exact falconOk_110 adapterSigned

theorem adapterManifest_passes : manifestResult adapterDev [] adapterManifest true = none := by
  have hk : keyFor adapterDev (mKeyId adapterManifest) = some key110 := by
    simp [adapterManifest_key, keyFor, keyIn, adapterDev, hosting]
  rw [manifestResult, hk]
  dsimp only [Option.orElse, keyIn, List.findSome?]
  rw [adapterManifest_signed, if_neg (by decide)]
  decide +kernel

theorem adapterManifest_framed : framed adapterManifest = true := by decide +kernel

theorem witness_adapter_load :
    let c := adapterCmd
    let d := adapterDev
    CmdStarts d 7 0x13 (fun c => c.param 32 1 != 1) c ∧ c.param 32 1 = 0 ∧ c.isList = true ∧
      c.param 36 4 ≤ 4096 ∧ c.dataFailed = false ∧ adapterManifest = (c.entries.head?).getD [] ∧
      [] = c.entries.getD (mShards adapterManifest + 1) [] ∧
      (c.param 36 4 ≠ 0 → ([] : List Byte).length = 16 * c.param 36 4) ∧
      (∀ k, k < c.param 36 4 → copyOk d (rawTotal adapterManifest) (copyEntry [] k) = true ∧ fieldAt (copyEntry [] k) 3 1 = 0) ∧
      adapterResult d adapterManifest c.entries = none ∧ adapterRoom d adapterManifest = some (adapterBase d) ∧
      d.feed.adapters.length + d.feed.stages.length < 4000 := by
  refine ⟨starts_of (by decide +kernel) rfl, by decide +kernel, by decide +kernel,
    by decide +kernel, by decide +kernel, rfl, by decide +kernel, by decide +kernel, by decide +kernel, ?_,
    by decide +kernel, by decide +kernel⟩
  have f : hostList adapterManifest (([adapterManifest, shard0].take (mShards adapterManifest + 1)).map (·.length)) = true := by
    decide +kernel
  show adapterResult adapterDev adapterManifest [adapterManifest, shard0] = none
  rw [adapterResult, adapterManifest_framed, f, if_neg (by decide)]
  exact adapterManifest_passes

/-- The stage of adapter 5 on a lead, with its base in the adapter area, after every module but 1 has reported. -/
def adapterEnd0 (d : Dev) : Stage :=
  { stage0 true [] with cid := some 7, model := 0x10005, results := [(0, 0)], ownResult := some 0
                        adapter := some { id := 5, base := adapterBase d, copies := [] } }

theorem witness_adapter_result :
    let d := hosting adapterCmd (leading (feeding (adapterEnd0 Dev.reset) []))
    let s := adapterEnd0 Dev.reset
    headStage d = some s ∧ s.started = true ∧ s.adapter = some { id := 5, base := adapterBase Dev.reset, copies := [] } ∧
      d.pad.role = .lead ∧ 1 ∈ stageModules d ∧ 1 ≠ d.pad.index ∧ (∀ p ∈ s.results, p.1 ≠ 1 ∧ p.2 = 0) ∧
      (∀ m ∈ stageModules d, m ≠ 1 → ∃ p ∈ s.results, p.1 = m) ∧ (∀ x ∈ d.feed.adapters, x.id ≠ 5) ∧
      modelOf d s.model = none ∧ s.cid = some adapterCmd.cid ∧ cmdOf d adapterCmd.cid = some adapterCmd ∧ NoDrain d :=
  ⟨rfl, rfl, rfl, rfl, by decide +kernel, by decide, by simp [adapterEnd0, stage0], by decide +kernel, by decide +kernel,
   by decide +kernel, rfl, rfl, noDrain_of (by decide) rfl⟩

def unloadCmd : Cmd := command [(0, 1, 0x13), (32, 1, 1), (34, 2, 4095)] none

def unloading (q : Option Seq) : Dev := hosting unloadCmd { attending q [] [] with
  feed := { Feed.reset with adapters := [{ id := 4095, base := 0, len := 1, model := 99 }] } }

theorem witness_adapter_unload :
    (let d := unloading none
     CmdStarts d 7 0x13 (fun c => c.param 32 1 == 1) unloadCmd ∧ NoDrain d ∧
      (∃ a ∈ d.feed.adapters, a.id = unloadCmd.param 34 2) ∧ adapterUsed d (unloadCmd.param 34 2) = false) ∧
    (let d := unloading (some { seq0 with adapter := 4095 })
     CmdStarts d 7 0x13 (fun c => c.param 32 1 == 1) unloadCmd ∧ NoDrain d ∧
      (∃ a ∈ d.feed.adapters, a.id = unloadCmd.param 34 2) ∧
      (adapterUsed d (unloadCmd.param 34 2) = true ∨ false = true)) ∧
    (let d := unloading none
     CmdStarts d 7 0x13 (fun c => c.param 32 1 == 1) unloadCmd ∧ NoDrain d ∧
      (∃ a ∈ d.feed.adapters, a.id = unloadCmd.param 34 2) ∧
      (adapterUsed d (unloadCmd.param 34 2) = true ∨ true = true)) :=
  ⟨⟨by delta CmdStarts; decide +kernel, noDrain_of (by decide) rfl, by decide +kernel⟩,
   ⟨by delta CmdStarts; decide +kernel, noDrain_of (by decide) rfl, by decide +kernel⟩,
   ⟨by delta CmdStarts; decide +kernel, noDrain_of (by decide) rfl, by decide +kernel⟩⟩

theorem test_modelStage_list : reply (.modelStage 7) (hosting (command [(0, 1, 0x10)] none) Dev.reset) =
    some (some (2, 0, 0)) := by decide +kernel

theorem test_keyAdd_length : reply (.keyAdd 7) (hosting (command [(0, 1, 0x10), (16, 4, 1792), (32, 1, 1)] (some [])) Dev.reset) =
    some (some (2, 0, 0)) := by decide +kernel

theorem test_keyRemove_absent : reply (.keyRemove 7) (hosting (command [(0, 1, 0x10), (32, 1, 2)] none) Dev.reset) =
    some (some (4, 0, 0)) := by decide +kernel

theorem test_adapterLoad_framing : reply (.adapterLoad 7 true) (hosting (command [(0, 1, 0x13), (1, 1, 1)] (some [[1]])) Dev.reset) =
    some (some (8, 3, 0)) := by decide +kernel

theorem test_adapterUnload_busy : reply (.adapterUnload 7 false) (unloading (some { seq0 with adapter := 4095 })) =
    some (some (6, 0, 0)) := by decide +kernel

/-- Model 1 staged on stall 0 with its bank Ready under its tag, and model 2 active. -/
def modelled (c : Cmd) : Dev := hosting c { Dev.reset with
  feed := { Feed.reset with models := [{ model0 placement0 with state := .staged }, { newModel 2 with state := .active }] }
  banks := [(0, { Bank.reset with state := .ready, tag := tagOf 7 placement0 })] }

def activateCmd (replaced : Nat) : Cmd := command [(0, 1, 0x11), (32, 2, 1), (34, 2, replaced)] none
def retireCmd (id : Nat) : Cmd := command [(0, 1, 0x12), (32, 2, id)] none

theorem witness_model_commands :
    (let c := activateCmd 0xFFFF
     let d := modelled c
     let m := { model0 placement0 with state := .staged }
     CmdStarts d 7 0x11 anyForm c ∧ modelOf d (c.param 32 2) = some m ∧ m.state = .staged ∧
      isBusy d (c.param 32 2) = false ∧ c.param 34 2 = 0xFFFF ∧ banksMatch d m = true) ∧
    (let c := activateCmd 2
     let d := modelled c
     let m := { model0 placement0 with state := .staged }
     let r := { newModel 2 with state := .active }
     CmdStarts d 7 0x11 anyForm c ∧ modelOf d (c.param 32 2) = some m ∧ m.state = .staged ∧
      isBusy d (c.param 32 2) = false ∧ c.param 34 2 ≠ 0xFFFF ∧ modelOf d (c.param 34 2) = some r ∧ r.state = .active ∧
      isBusy d (c.param 34 2) = false ∧ banksMatch d m = true) ∧
    (let c := activateCmd 0xFFFF
     let d := { modelled c with banks := [] }
     let m := { model0 placement0 with state := .staged }
     CmdStarts d 7 0x11 anyForm c ∧ NoDrain d ∧ modelOf d (c.param 32 2) = some m ∧ m.state = .staged ∧
      isBusy d (c.param 32 2) = false ∧ c.param 34 2 = 0xFFFF ∧ (banksMatch d m = false ∨ true = false)) ∧
    (let c := activateCmd 0xFFFF
     let d := modelled c
     let m := { model0 placement0 with state := .staged }
     CmdStarts d 7 0x11 anyForm c ∧ NoDrain d ∧ modelOf d (c.param 32 2) = some m ∧ m.state = .staged ∧
      isBusy d (c.param 32 2) = false ∧ c.param 34 2 = 0xFFFF ∧ (banksMatch d m = false ∨ false = false)) ∧
    (let c := retireCmd 1
     let d := modelled c
     let m := { model0 placement0 with state := .staged }
     CmdStarts d 7 0x12 anyForm c ∧ NoDrain d ∧ modelOf d (c.param 32 2) = some m ∧ m.state = .staged ∧
      isBusy d (c.param 32 2) = false) ∧
    (let c := retireCmd 2
     let d := modelled c
     let m := { newModel 2 with state := .active }
     CmdStarts d 7 0x12 anyForm c ∧ modelOf d (c.param 32 2) = some m ∧ m.state = .active ∧
      isBusy d (c.param 32 2) = false) :=
  ⟨⟨by delta CmdStarts; decide +kernel, by decide +kernel⟩, ⟨by delta CmdStarts; decide +kernel, by decide +kernel⟩,
   ⟨by delta CmdStarts; decide +kernel, noDrain_of (by decide) rfl, by decide +kernel⟩,
   ⟨by delta CmdStarts; decide +kernel, noDrain_of (by decide) rfl, by decide +kernel⟩,
   ⟨by delta CmdStarts; decide +kernel, noDrain_of (by decide) rfl, by decide +kernel⟩,
   ⟨by delta CmdStarts; decide +kernel, by decide +kernel⟩⟩

theorem test_modelActivate_state : reply (.modelActivate 7 true) (modelled (command [(0, 1, 0x11), (32, 2, 2), (34, 2, 0xFFFF)] none)) =
    some (some (8, 0x0F, 0)) := by decide +kernel

theorem test_modelActivate_wants : seen (.modelActivate 7 true) (modelled (activateCmd 2))
    (fun d => d.pad.wants.map fun w => (w.activate, w.retire)) = some [(some 1, some 2)] := by decide +kernel

theorem test_modelRetire : seen (.modelRetire 7) (modelled (retireCmd 1)) (fun d => d.feed.models.map (·.id)) = some [2] := by
  decide +kernel

/-! ### Sequences -/

/-- A SEQ_OPEN block: die 0, headroom 1, one layer, one head of 64, window 1, MAXLEN 512, and what `fs` sets. -/
def openBlock (fs : List (Nat × Nat × Nat)) : List Byte :=
  block 64 ([(3, 1, 1), (4, 2, 1), (6, 1, 1), (8, 2, 64), (10, 2, 1), (12, 4, 512)] ++ fs)

def openCmd (fs : List (Nat × Nat × Nat)) : Cmd := command [(0, 1, 0x20), (16, 4, 64)] (some [openBlock fs])
def closeCmd : Cmd := command [(0, 1, 0x21), (32, 2, 0)] none
def lookupCmd : Cmd := command [(0, 1, 0x22), (16, 4, 4), (36, 4, 1)] (some [[7, 0, 0, 0]])

/-- In a module with no sequence every id is free, and the model's free number is the one taken. -/
theorem freeId_first (d : Dev) (h : d.attn.seqs = []) (g : d.attn.jobs = []) (n : Nat) :
    freeId d 3 65536 n (fun k => (seqOf d k).isNone && jobsNaming d k == []) = some (Config.freeNat d.draws 3 % 65536) := by
  simp [freeId, seqOf, jobsNaming, h, g, mget]

/-- The module as SEQ_OPEN has begun and pruned it. -/
def opening (fs : List (Nat × Nat × Nat)) (d : Dev) (c : Cmd) : Dev :=
  pruneAll (putCmd (hosting c d) (begins (hosting c d) c)) (openDie (hosting c d) (openCmd fs).bytes)

theorem openPlace_first : openPlace (opening [] Dev.reset (openCmd [])) (openCmd []).fn (openCmd []).bytes =
    .ok (Config.freeNat (opening [] Dev.reset (openCmd [])).draws 3 % 65536, 0, listBase) := by
  have e : openDie (opening [] Dev.reset (openCmd [])) (openCmd []).bytes = 0 := by decide +kernel
  have q : mget none (opening [] Dev.reset (openCmd [])).host.quota (openCmd []).fn = none := by decide +kernel
  have f : ¬ freePages (opening [] Dev.reset (openCmd [])) 0 < fieldAt (openCmd []).bytes 4 2 := by decide +kernel
  have l : lowestRange (listRanges (opening [] Dev.reset (openCmd [])) 0) listBase
      (listEnd (opening [] Dev.reset (openCmd [])))
      (fieldAt (openCmd []).bytes 4 2 * strideOf (fieldAt (openCmd []).bytes 12 4 / openTp (openCmd []).bytes)) =
      some listBase := by decide +kernel
  unfold openPlace
  simp only [e, q, freeId_first _ (show (opening [] Dev.reset (openCmd [])).attn.seqs = [] by decide +kernel)
    (show (opening [] Dev.reset (openCmd [])).attn.jobs = [] by decide +kernel), f, l, if_false, Bool.false_eq_true]

/-- A VF whose quota is no sequence at all. -/
def quotaCmd : Cmd := { openCmd [] with fn := 128 }
def quotaDev : Dev := { Dev.reset with host := { HostIf.reset with quota := [(128, some (0, 0))] } }

theorem openPlace_quota : openPlace (opening [] quotaDev quotaCmd) quotaCmd.fn quotaCmd.bytes = .error 5 := by
  have q : mget none (opening [] quotaDev quotaCmd).host.quota quotaCmd.fn = some (0, 0) := by decide +kernel
  unfold openPlace
  simp only [q, freeId_first _ (show (opening [] quotaDev quotaCmd).attn.seqs = [] by decide +kernel)
    (show (opening [] quotaDev quotaCmd).attn.jobs = [] by decide +kernel)]
  rfl

theorem witness_sequence_commands :
    (∃ f, let c := openCmd []
     let d := hosting c Dev.reset
     CmdStarts d 7 0x20 anyForm c ∧ NoDrain d ∧ c.dataFailed = false ∧ c.dataLen = 64 ∧
      openRefusal d c.bytes = none ∧ f = pruneAll (putCmd d (begins d c)) (openDie d c.bytes) ∧
      openPlace f c.fn c.bytes = .ok (Config.freeNat f.draws 3 % 65536, 0, listBase)) ∧
    (let c := openCmd [(6, 1, 17)]
     let d := hosting c Dev.reset
     CmdStarts d 7 0x20 anyForm c ∧ NoDrain d ∧ c.dataFailed = false ∧ c.dataLen = 64 ∧
      openRefusal d c.bytes = some (2, 1)) ∧
    (let c := quotaCmd
     let d := hosting c quotaDev
     CmdStarts d 7 0x20 anyForm c ∧ NoDrain d ∧ c.dataFailed = false ∧ c.dataLen = 64 ∧
      openRefusal d c.bytes = none ∧
      openPlace (pruneAll (putCmd d (begins d c)) (openDie d c.bytes)) c.fn c.bytes = .error 5) ∧
    (let c := closeCmd
     let d := hosting c (attending (some seq0) [] [])
     CmdStarts d 7 0x21 anyForm c ∧ NoDrain d ∧ seqOf d (c.param 32 2) = some seq0 ∧ seq0.owner = c.fn ∧
      seq0.closing = false ∧ 0 < seq0.layers) ∧
    (let c := lookupCmd
     let d := hosting c (attending (some seq0) [] [])
     CmdStarts d 7 0x22 anyForm c ∧ NoDrain d ∧ c.dataFailed = false ∧ c.dataLen = 4 * c.param 36 4 ∧
      openFor d (c.param 32 2) c.fn = true ∧ seqOf d (c.param 32 2) = some seq0 ∧ 1 ≤ c.param 36 4 ∧
      c.param 36 4 ≤ seq0.maxLen ∧ ∀ l ∈ seq0.pl, l.length = 0) :=
  ⟨⟨_, starts_of (by decide +kernel) rfl, noDrain_of (by decide) rfl, by decide +kernel, by decide +kernel,
     by decide +kernel, rfl, openPlace_first⟩,
   ⟨starts_of (by decide +kernel) rfl, noDrain_of (by decide) rfl, by decide +kernel⟩,
   ⟨starts_of (by decide +kernel) rfl, noDrain_of (by decide) rfl, by decide +kernel, by decide +kernel,
     by decide +kernel, openPlace_quota⟩,
   ⟨starts_of (by decide +kernel) rfl, noDrain_of (by decide) rfl, by decide +kernel⟩,
   ⟨starts_of (by decide +kernel) rfl, noDrain_of (by decide) rfl, by decide +kernel⟩⟩

/-- A sequence of pages of 32 positions with nothing in its list, and a look-up of 32 tokens in it. -/
def seqNew : Seq := { seq0 with tpLog2 := 5, pl := [{ freshList 1 with
  entries := [{ page := nonePage, prev := nonePage, changed := 0, score := 0 }] }] }

def lookupPage : Cmd := command [(0, 1, 0x22), (16, 4, 128), (36, 4, 32)] (some [List.replicate 128 0])

/-- The chain value of the page that the look-up names. -/
def pageKey : Nat := (keyBlocks seqNew.nameSpace 1 [] (List.replicate 128 0)).getLastD 0

def row0 : Prefix :=
  { bucket := pageKey % 2 ^ 20, slot := 0, key := chainKey pageKey, check := chainCheck pageKey, refs := 0, die := 0
    tpLog2 := 5, layers := 1, page := 0, row := 0, rows := [9], parent := none, used := 0 }

def looking (edits : List Edit) : Dev :=
  let d := attending (some seqNew) [] edits
  hosting lookupPage { d with attn := { d.attn with prefixes := [row0] } }

/-- The sequence keyed by the look-up. -/
def seqKeyed : Seq := { seqNew with chains := [pageKey], toks := [], keyed := 32, chain := pageKey }

theorem witness_lookup_matches :
    (LookupStarts (looking []) 7 lookupPage seqNew seqKeyed [row0] ∧ NoDrain (looking []) ∧
      (∀ x ∈ (looking []).attn.edits, x.seq ≠ lookupPage.param 32 2 ∧ x.id < (looking []).nextId) ∧
      ∀ j ∈ (looking []).attn.jobs, j.seq ≠ lookupPage.param 32 2 ∧ fieldAt j.desc 0 2 ≠ lookupPage.param 32 2) ∧
    (let d := looking [{ edit0 with sets := [] }]
     LookupStarts d 7 lookupPage seqNew seqKeyed [row0] ∧ [row0] ≠ [] ∧ 0 < seqNew.layers ∧
      (∀ x ∈ d.attn.edits, x.id < d.nextId) ∧ ∃ x ∈ d.attn.edits, x.seq = lookupPage.param 32 2 ∧ x.layer = 0) :=
  ⟨⟨by delta LookupStarts CmdStarts; decide +kernel, noDrain_of (by decide) rfl, by decide +kernel⟩,
   by delta LookupStarts CmdStarts; decide +kernel, by decide +kernel⟩

/-- R325: the matched page is attached and its 32 tokens are the answer. -/
theorem test_prefixLookup_match : reply (.prefixLookup 7) (looking []) = some (some (0, 0, 32)) ∧
    seen (.prefixLookup 7) (looking []) (fun d => (seqOf d 0).map fun q => ((q.list 0).length, (q.list 0).entries.map (·.page)))
      = some (some (32, [9])) := by decide +kernel

/-- R453: the refusals of the block: 17 key heads; a MAXLEN that is no multiple of TP; INT8 keys with E4M3 queries. -/
theorem test_seqOpen_refusals : [[(6, 1, 17)], [(12, 4, 513)], [(1, 1, 1), (2, 1, 1)]].map
    (fun fs => reply (.seqOpen 7) (hosting (openCmd fs) Dev.reset)) =
    [some (some (2, 1, 0)), some (some (2, 1, 0)), some (some (2, 3, 0))] := by decide +kernel

theorem test_seqClose : (reply (.seqClose 7) (hosting closeCmd (attending (some seq0) [] [])),
    seen (.seqClose 7) (hosting closeCmd (attending (some seq0) [] [])) fun d => (seqOf d 0).map (·.closing),
    reply (.seqClose 7) (hosting closeCmd (attending (some { seq0 with owner := 1 }) [] []))) =
    (some (some (0, 0, 0)), some (some true), some (some (4, 0, 0))) := by decide +kernel

theorem test_prefixLookup : reply (.prefixLookup 7) (hosting lookupCmd (attending (some seq0) [] [])) =
    some (some (0, 0, 0)) := by decide +kernel

/-! ### Routines of commands -/

/-- 64 bytes of arguments, the first of them 5, and an image of one HALT. -/
def routineData : List Byte := block 64 [(0, 8, 5)] ++ toLe 8 (word 0x77 0 0 0 0 0).toNat

/-- SUBMIT to `n` stalls from `first`, with flags. -/
def submitCmd (first n flags : Nat) : Cmd :=
  command [(0, 1, 0x30), (16, 4, 72), (32, 2, first), (34, 2, n), (38, 2, 1), (40, 1, 0x80), (41, 1, flags)]
    (some [routineData])

/-- DECODE_STEP of one entry, sequence 0 and token 7. -/
def decodeCmd : Cmd :=
  command [(0, 1, 0x31), (16, 4, 80), (34, 2, 1), (38, 2, 1), (40, 1, 0x80), (42, 2, 1), (52, 8, 0x1000)]
    (some [block 64 [] ++ [0, 0, 0, 0, 7, 0, 0, 0] ++ toLe 8 (word 0x77 0 0 0 0 0).toNat])

def abortCmd : Cmd := command [(0, 1, 0x30), (34, 2, 1024), (38, 2, 1), (40, 1, 0x80), (41, 1, 2)] none

/-- A command in progress on stall 0 that an abort finds. -/
def otherCmd : Cmd := { submitCmd 0 1 0 with cid := 6, begun := true, running := [0] }

/-- A SUBMIT that has begun and waits for the last stall. -/
def startingCmd (st : Nat) : Cmd := { submitCmd st 1 0 with begun := true, waiting := [st] }

theorem witness_routine_start :
    (let d := hosting (startingCmd 1023) Dev.reset
     cmdOf d 7 = some (startingCmd 1023) ∧ mayStart d (startingCmd 1023) 1023 = true) ∧
    (let d := hosting (startingCmd 0) Dev.reset
     cmdOf d 7 = some (startingCmd 0) ∧ mayStart d (startingCmd 0) 0 = true) :=
  ⟨⟨by decide +kernel, by decide +kernel⟩, by decide +kernel, by decide +kernel⟩

theorem witness_routine_commands :
    (let c := submitCmd 1023 1 1
     let d := hosting c Dev.reset
     CmdStarts d 7 0x30 (fun c => !pAbort c) c ∧ submitRefusal c = none ∧ namesRetired d c = false) ∧
    (let c := decodeCmd
     let d := hosting c (attending (some seq0) [] [])
     CmdStarts d 7 0x31 anyForm c ∧ submitRefusal c = none ∧ badEntry d c = none ∧ namesRetired d c = false) ∧
    (let c := abortCmd
     let d := { oneStall 0 (fun x => { x with mode := .running }) with
       host := { HostIf.reset with state := .running, cmds := [otherCmd, c], nextCid := 8 } }
     CmdStarts d 7 0x30 pAbort c ∧ bitsOf (pFlags c) 7 3 = 0 ∧ pFirst c + pCount c ≤ 1024 ∧ dDataLen c.desc = 0 ∧
      otherCmd ∈ d.host.cmds ∧ otherCmd.fn = c.fn ∧ otherCmd.onStalls = true ∧
      otherCmd.cid ≠ c.cid ∧ 0 ∈ otherCmd.running ∧ 0 ∈ pStalls c ∧ active (stallOf d 0) = true) ∧
    (let c := { abortCmd with begun := true, aborting := some 3 }
     let d := hosting c Dev.reset
     cmdOf d 7 = some c ∧ c.begun = true ∧ c.remote = false ∧ c.held = none ∧ c.runs = true ∧
      c.aborting = some 3 ∧ d.health.commandDown = false ∧ NoDrain d ∧
      ∀ st ∈ pStalls c, (stallOf d st).mode = .idle ∨ (stallOf d st).mode = .retired) ∧
    (let c := { submitCmd 0 2 0 with begun := true, ended := [(1, 0x0F), (0, 0)] }
     let d := hosting c Dev.reset
     cmdOf d 7 = some c ∧ c.begun = true ∧ c.remote = false ∧ c.held = none ∧ c.runs = true ∧ c.waiting = [] ∧
      c.running = [] ∧ c.aborting = none ∧ c.resultOk = true ∧ d.health.commandDown = false ∧
      NoDrain d ∧ [1] = (c.ended.filter fun p => p.2 != 0).map Prod.fst ∧ ([], false) = (copyOut d c).2) :=
  ⟨⟨starts_of (by decide +kernel) rfl, by decide +kernel⟩, ⟨starts_of (by decide +kernel) rfl, by decide +kernel⟩,
   ⟨by delta CmdStarts; decide +kernel, by decide +kernel⟩,
   ⟨by decide +kernel, rfl, rfl, rfl, by decide +kernel, rfl, rfl, noDrain_of (by decide) rfl, fun _ _ => .inl rfl⟩,
   ⟨by decide +kernel, by decide +kernel, rfl, rfl, by decide +kernel, rfl, rfl, rfl, rfl, rfl,
     noDrain_of (by decide) rfl, by decide, by decide +kernel⟩⟩

/-- A SUBMIT with COPY_OUT of two bytes at offset 16 of space 0x1, whose routine has ended. -/
def copyingCmd : Cmd :=
  { command [(0, 1, 0x30), (16, 4, 72), (20, 4, 2), (24, 8, 0x1000), (34, 2, 1), (38, 2, 1), (40, 1, 0x80), (41, 1, 4), (44, 8, 16)]
      (some [routineData]) with begun := true, ended := [(0, 0)] }

def copying : Dev := hosting copyingCmd { Dev.reset with mem := { Memory.reset with dram := [(16, 0xAB), (17, 0xCD)] } }

theorem witness_copy_out :
    cmdOf copying 7 = some copyingCmd ∧ copyingCmd.begun = true ∧ copyingCmd.remote = false ∧ copyingCmd.held = none ∧
      copyingCmd.runs = true ∧ copyingCmd.waiting = [] ∧ copyingCmd.running = [] ∧ copyingCmd.aborting = none ∧
      copyingCmd.resultOk = true ∧ copying.health.commandDown = false ∧ NoDrain copying ∧
      ([] : List Nat) = (copyingCmd.ended.filter fun p => p.2 != 0).map Prod.fst ∧
      ([0xAB, 0xCD], false) = (copyOut copying copyingCmd).2 :=
  ⟨by decide +kernel, rfl, rfl, rfl, by decide +kernel, rfl, rfl, rfl, rfl, rfl, noDrain_of (by decide) rfl, by decide,
   by decide +kernel⟩

/-- R457: the bytes leave for the result address. -/
theorem test_copy_out : seen (.submitComplete 7) copying (fun d => d.out.map fun o => match o with
    | .result a bs _ => (a, bs)
    | _ => (0, [])) = some [(0x1000, [0xAB, 0xCD])] := by decide +kernel

/-- The image of one word, the limit, and the program counter at the entry. -/
theorem test_routineStart : seen (.routineStart 7 1023) (hosting (startingCmd 1023) Dev.reset)
    (fun d => let x := stallOf d 1023
      (x.limit, x.pc, fetchWord x)) = some (1, 0, some (word 0x77 0 0 0 0 0)) := by decide +kernel

/-- R454: an entry index that is not below the image's length. -/
theorem test_submit_entry : reply (.submit 7) (hosting (command [(0, 1, 0x30), (16, 4, 72), (34, 2, 1), (36, 2, 1), (38, 2, 1),
    (40, 1, 0x80)] (some [routineData])) Dev.reset) = some (some (2, 0, 0)) := by decide +kernel

/-- R458: a batch entry whose sequence is not open. -/
theorem test_decodeStep_sequence : reply (.decodeStep 7) (hosting decodeCmd Dev.reset) = some (some (4, 0, 0)) := by
  decide +kernel

theorem test_submitAbort : seen (.submitAbort 7) { oneStall 0 (fun x => { x with mode := .running, owner := some 6 }) with
      host := { HostIf.reset with state := .running, cmds := [otherCmd, abortCmd], nextCid := 8 } }
    (fun d => ((stallOf d 0).mode == .draining, (stallOf d 0).faultCode == 0x0F,
      (cmdOf d 7).bind (·.aborting) == some 1)) = some (true, true, true) := by decide +kernel

/-- R455: two faults, the lower stall in VALUE1. -/
theorem test_submitComplete : seen (.submitComplete 7) (hosting
    { submitCmd 0 3 0 with begun := true, ended := [(2, 4), (0, 0), (1, 0x0F)] } Dev.reset)
    (fun d => d.host.mboxCpl.map fun p => (p.1.status, p.1.result, p.1.value0, p.1.value1)) =
    some (some (0, 2, 2, 1)) := by decide +kernel

/-! ### SOLVE, MODE_SET, bundles and images -/

/-- A SOLVE of one block row and no block, one step. -/
def solveCmd (n : Nat) : Cmd := command [(0, 1, 0x32), (16, 4, 64)]
  (some [block 64 [(4, 4, n), (12, 4, 1), (16, 1, 1), (17, 1, 1), (40, 8, 0x10000), (48, 8, 0x20000)]])

/-- Model 0 is Active, and the first element of b is 1.0. -/
def solving (c : Cmd) : Dev :=
  hosting c { Dev.reset with
    feed := { Feed.reset with models := [{ newModel 0 with state := .active }] }
    mem := { Memory.reset with dram := [(0x2006, 0xF0), (0x2007, 0x3F)] } }

def solveArgs0 : SolveArgs := solveArgs (solveCmd 1024).bytes

/-- 1.0 and −0.0 in FP64. -/
def one64 : Nat := 0x3FF0000000000000

/-- A SOLVE under way: b and the residual are 1.0 in one element, and two steps have made little progress. -/
def run0 (steps flat : Nat) : SolveRun :=
  { blocks := [], b := [one64], x := List.replicate 1024 0, r := [one64], nb := one64, steps := steps, flat := flat }

def solveRunning (waiting running : List Nat) (s : SolveRun) : Cmd :=
  { solveCmd 1024 with begun := true, waiting := waiting, running := running, solve := some s }

theorem witness_solve_begins :
    (∃ a bs, let c := solveCmd 1024
     let d := solving c
     CmdStarts d 7 0x32 anyForm c ∧ c.solve = none ∧ solveRefusal d c = none ∧ a = solveArgs c.bytes ∧
      bs = tableBlocks d a (((modelOf d a.model).map (·.placements)).getD []) ∧ zeroVec (readVec d a.b a.n) = false ∧
      ∀ st ∈ blockStalls d bs, (stallOf d st).gone = false) ∧
    (∃ a, let c := solveCmd 1024
     let d := { solving c with mem := Memory.reset }
     CmdStarts d 7 0x32 anyForm c ∧ c.solve = none ∧ NoDrain d ∧ solveRefusal d c = none ∧
      a = solveArgs c.bytes ∧ zeroVec (readVec d a.b a.n) = true ∧ c.running = []) ∧
    (let c := solveRunning [0] [] (run0 0 0)
     let d := solving c
     cmdOf d 7 = some c ∧ c.solve = some (run0 0 0) ∧ c.begun = true ∧ d.health.commandDown = false ∧
      c.stopped = false ∧ c.ended = [] ∧ (∀ k ∈ c.running, (stallOf d k).mode ≠ .draining) ∧ 0 ∈ c.waiting ∧
      mayStart d { c with solve := none } 0 = true) :=
  ⟨⟨_, _, starts_of (by decide +kernel) rfl, rfl, by decide +kernel, rfl, rfl, by decide +kernel, by decide +kernel⟩,
   ⟨_, by delta CmdStarts; decide +kernel, rfl, noDrain_of (by decide) rfl, by decide +kernel, rfl, by decide +kernel, rfl⟩,
   by decide +kernel, rfl, rfl, rfl, rfl, rfl, by simp [solveRunning], by decide, by decide +kernel⟩

/-- The last step: a residual of nothing, or one that stays and no step left. -/
theorem witness_solve_ends :
    (let s := { run0 1 0 with r := [] }
     let c := solveRunning [] [0] s
     let d := solving c
     cmdOf d 7 = some c ∧ c.solve = some s ∧ c.begun = true ∧ d.health.commandDown = false ∧ NoDrain d ∧
      c.stopped = false ∧ c.ended = [] ∧ (∀ k ∈ c.running, (stallOf d k).mode ≠ .draining) ∧ c.waiting = [] ∧
      s.x.length = solveArgs0.n ∧ solveArgs0.x + 8 * solveArgs0.n ≤ space1Size ∧
      fle (norm2 s.r) (fmul fp64 false solveArgs0.tau s.nb) = true) ∧
    (let s := run0 1 0
     let c := solveRunning [] [0] s
     let d := solving c
     cmdOf d 7 = some c ∧ c.solve = some s ∧ NoDrain d ∧ c.waiting = [] ∧
      (∀ k ∈ c.running, (stallOf d k).mode ≠ .draining) ∧ s.x.length = solveArgs0.n ∧
      fle (norm2 s.r) (fmul fp64 false solveArgs0.tau s.nb) = false ∧ solveArgs0.steps ≤ s.steps) :=
  ⟨⟨by decide +kernel, rfl, rfl, rfl, noDrain_of (by decide) rfl, rfl, rfl, by decide +kernel, rfl, by decide +kernel,
     by decide +kernel, by decide +kernel⟩,
   by decide +kernel, rfl, noDrain_of (by decide) rfl, rfl, by decide +kernel, by decide +kernel, by decide +kernel,
   by decide +kernel⟩

/-- Without blocks the residual is b. -/
theorem residual_without_blocks (d : Dev) (x : Vec) : Machine.residual d solveArgs0 [] [one64] x = one64 :: List.replicate 1023 0 := by
  have e : ∀ i, rowDot d solveArgs0 [] x i = 0 := fun i => by simp [rowDot]
  unfold Machine.residual
  simp only [e]
  decide +kernel

theorem norm_of_b : norm2 (one64 :: List.replicate 1023 0) = one64 := by
  have z : ∀ n, (List.replicate n 0).foldl (fun s v => fadd fp64 false s (fmul fp64 false v v)) one64 = one64 := by
    intro n
    induction n with
    | zero => rfl
    | succ n ih =>
      have e : fadd fp64 false one64 (fmul fp64 false 0 0) = one64 := by decide +kernel
      rw [List.replicate_succ, List.foldl_cons, e, ih]
  have f : fadd fp64 false 0 (fmul fp64 false one64 one64) = one64 := by decide +kernel
  rw [norm2, List.foldl_cons, f, z]
  decide +kernel

/-- An outer step whose blocks are none, so that its residual is b. -/
theorem witness_solve_step :
    ∃ x r, let c := solveRunning [] [0] (run0 0 1)
     let d := solving c
     cmdOf d 7 = some c ∧ c.solve = some (run0 0 1) ∧ c.begun = true ∧ d.health.commandDown = false ∧
      c.stopped = false ∧ c.ended = [] ∧ (∀ k ∈ c.running, (stallOf d k).mode ≠ .draining) ∧ c.waiting = [] ∧
      solveArgs0 = solveArgs c.bytes ∧ fle (norm2 (run0 0 1).r) (fmul fp64 false solveArgs0.tau (run0 0 1).nb) = false ∧
      (run0 0 1).steps < solveArgs0.steps ∧
      x = (List.range solveArgs0.n).map (fun i => fadd fp64 false ((run0 0 1).x.getD i 0)
        (widen64 (BitVec.ofNat 32 ((solveInner solveArgs0 (run0 0 1).blocks d (run0 0 1).r).2.getD i 0)))) ∧
      r = Machine.residual d solveArgs0 (run0 0 1).blocks (run0 0 1).b x ∧ finite64 (norm2 r) = true ∧
      fgt (norm2 r) (fmul fp64 false f1000 (run0 0 1).nb) = false ∧
      ((run0 0 1).flat < 2 ∨ fgt (norm2 r) (fmul fp64 false f09 (norm2 (run0 0 1).r)) = false) := by
  refine ⟨_, _, by decide +kernel, rfl, rfl, rfl, rfl, rfl, by decide +kernel, rfl, rfl, by decide +kernel, by decide +kernel,
    rfl, rfl, ?_, ?_, .inl (by decide +kernel)⟩
  · show finite64 (norm2 (Machine.residual _ solveArgs0 [] [one64] _)) = true
    rw [residual_without_blocks, norm_of_b]
    decide +kernel
  · show fgt (norm2 (Machine.residual _ solveArgs0 [] [one64] _)) (fmul fp64 false f1000 one64) = false
    rw [residual_without_blocks, norm_of_b]
    decide +kernel

theorem test_solve_n : [1000, 1024].map (fun n => solveRefusal (solving (solveCmd n)) (solveCmd n)) = [some 2, none] := by
  decide +kernel

def modeCmd (form a b : Nat) : Cmd := command [(0, 1, 0x40), (32, 1, form), (36, 4, a), (40, 4, b)] none
def moded (form a b : Nat) : Dev := hosting (modeCmd form a b) Dev.reset

theorem witness_mode_set :
    (CmdStarts (moded 0 500 0) 7 0x40 (isMode 0) (modeCmd 0 500 0) ∧ 500 ≤ mA (modeCmd 0 500 0) ∧
      mA (modeCmd 0 500 0) ≤ 1800) ∧
    (CmdStarts (moded 1 1 0) 7 0x40 (isMode 1) (modeCmd 1 1 0) ∧ mA (modeCmd 1 1 0) < 2) ∧
    (CmdStarts (moded 1 2 0) 7 0x40 (isMode 1) (modeCmd 1 2 0) ∧ mA (modeCmd 1 2 0) = 2 ∧
      holdsIndex (moded 1 2 0) (dModule (modeCmd 1 2 0).desc) = true ∧
      ∀ r, (moded 1 2 0).sense.refits = some r → cmdOf (moded 1 2 0) r.1 = none) ∧
    (let d := { moded 1 2 0 with sense := { Sense.reset with refits := some (7, false, []) } }
     CmdStarts d 7 0x40 (isMode 1) (modeCmd 1 2 0) ∧ NoDrain d ∧ mA (modeCmd 1 2 0) = 2 ∧
      holdsIndex d (dModule (modeCmd 1 2 0).desc) = true ∧ d.sense.refits = some (7, false, []) ∧ cmdOf d 7 ≠ none) ∧
    (let c := command [(0, 1, 0x40), (2, 1, 1), (32, 1, 1), (36, 4, 2)] none
     let d := hosting c (leading Dev.reset)
     CmdStarts d 7 0x40 (isMode 1) c ∧ mA c = 2 ∧ holdsIndex d (dModule c.desc) = false) ∧
    (CmdStarts (moded 2 16 100) 7 0x40 (isMode 2) (modeCmd 2 16 100) ∧ NoDrain (moded 2 16 100) ∧
      16 ≤ mA (modeCmd 2 16 100) ∧ mA (modeCmd 2 16 100) ≤ 112 ∧ 1 ≤ mB (modeCmd 2 16 100) ∧
      mB (modeCmd 2 16 100) ≤ 100) ∧
    (CmdStarts (moded 3 1 60) 7 0x40 (isMode 3) (modeCmd 3 1 60) ∧ NoDrain (moded 3 1 60) ∧ mA (modeCmd 3 1 60) < 2 ∧
      4 ≤ mB (modeCmd 3 1 60) ∧ mB (modeCmd 3 1 60) ≤ 60) ∧
    (CmdStarts (moded 4 128 0x20003) 7 0x40 (fun c => 4 ≤ mForm c) (modeCmd 4 128 0x20003) ∧
      NoDrain (moded 4 128 0x20003) ∧ mForm (modeCmd 4 128 0x20003) = 4 ∧ 1 ≤ mA (modeCmd 4 128 0x20003) ∧
      mA (modeCmd 4 128 0x20003) ≤ 128) ∧
    (CmdStarts (moded 0 1801 0) 7 0x40 (isMode 0) (modeCmd 0 1801 0) ∧ NoDrain (moded 0 1801 0) ∧
      (mA (modeCmd 0 1801 0) < 500 ∨ 1800 < mA (modeCmd 0 1801 0))) :=
  ⟨⟨starts_of (by decide +kernel) rfl, by decide +kernel⟩, ⟨starts_of (by decide +kernel) rfl, by decide +kernel⟩,
   ⟨starts_of (by decide +kernel) rfl, by decide +kernel, by decide +kernel, fun r h => by cases h⟩,
   ⟨by delta CmdStarts; decide +kernel, noDrain_of (by decide) rfl, by decide +kernel⟩,
   ⟨starts_of (by decide +kernel) rfl, by decide +kernel⟩,
   ⟨starts_of (by decide +kernel) rfl, noDrain_of (by decide) rfl, by decide +kernel⟩,
   ⟨starts_of (by decide +kernel) rfl, noDrain_of (by decide) rfl, by decide +kernel⟩,
   ⟨starts_of (by decide +kernel) rfl, noDrain_of (by decide) rfl, by decide +kernel⟩,
   ⟨starts_of (by decide +kernel) rfl, noDrain_of (by decide) rfl, by decide +kernel⟩⟩

theorem test_modeSetPower : [499, 500, 1800, 1801].map (fun w => (reply (.modeSetPower 7) (moded 0 w 0)).bind
    fun r => r.map (·.1)) = [some 2, none, none, some 2] := by decide +kernel

theorem test_modeSetCalset : seen (.modeSetCalset 7) (moded 1 0 0) (fun d => d.pad.wants.map (·.factory)) =
    some [some false] := by decide +kernel

theorem test_modeSetFeed : [15, 16, 112, 113].map (fun a => (reply (.modeSetFeed 7) (moded 2 a 1)).bind
    fun r => r.map (·.1)) = [some 2, some 0, some 0, some 2] := by decide +kernel

theorem test_modeSetGroom : [3, 4, 60, 61].map (fun b => (reply (.modeSetGroom 7) (moded 3 0 b)).bind
    fun r => r.map (·.1)) = [some 2, some 0, some 0, some 2] := by decide +kernel

/-- R460: the quota of a VF, and a form past the last. -/
theorem test_modeSetQuota : [(4, 1), (4, 0), (4, 129), (5, 1)].map (fun p => (reply (.modeSetQuota 7) (moded p.1 p.2 0)).bind
    fun r => r.map (·.1)) = [some 0, some 2, some 2, some 1] := by decide +kernel

/-- A bundle of one pattern block and one empty test, with a signature of one byte. -/
def bundle0 : List Byte :=
  block 64 [(0, 4, 0x5445564B), (4, 2, 1), (6, 1, 1), (7, 1, 1), (8, 4, 2), (12, 4, 1105), (16, 1, 16), (18, 2, 1),
    (20, 4, 1088), (24, 4, 1), (28, 4, 1104), (32, 2, 1)] ++ List.replicate 1024 0 ++ List.replicate 16 0 ++ [0xEE]

def vetCmd (b : List Byte) : Cmd := command [(0, 1, 0x50), (16, 4, b.length)] (some [b])
def imageCmd (form : Nat) (b : List Byte) : Cmd := command [(0, 1, 0x51), (16, 4, b.length), (32, 1, form)] (some [b])

/-- The verdicts on signatures and images are opaque (log 7): the witness takes those it needs as hypotheses. -/
theorem witness_bundles_and_images (h : falconOk Config.vendorKey (bundle0.take 1104) [0xEE] = true) (v : Nat)
    (hv : Config.fwVersion [1] = some v) (hs : Config.fwSigned [1] = true) (hn : 1 < v) :
    (let c := vetCmd bundle0
     let d := hosting c Dev.reset
     CmdStarts d 7 0x50 anyForm c ∧ NoDrain d ∧ c.dataFailed = false ∧ bundleResult d c.bytes = none) ∧
    (let c := vetCmd [1]
     let d := hosting c Dev.reset
     CmdStarts d 7 0x50 anyForm c ∧ NoDrain d ∧ c.dataFailed = false ∧ bundleResult d c.bytes = some 3) ∧
    (let c := imageCmd 0 [1]
     let d := hosting c Dev.reset
     CmdStarts d 7 0x51 (fun c => c.param 32 1 != 1) c ∧ NoDrain d ∧ c.param 32 1 = 0 ∧ c.dataFailed = false ∧
      Config.fwVersion c.bytes = some v ∧ Config.fwSigned c.bytes = true ∧ runningVersion d < v) ∧
    (let c := imageCmd 1 []
     let d := hosting c Dev.reset
     CmdStarts d 7 0x51 (fun c => c.param 32 1 == 1) c) := by
  refine ⟨⟨starts_of (by decide +kernel) rfl, noDrain_of (by decide) rfl, by decide +kernel, ?_⟩,
    ⟨starts_of (by decide +kernel) rfl, noDrain_of (by decide) rfl, by decide +kernel, by decide +kernel⟩,
    ⟨starts_of (by decide +kernel) rfl, noDrain_of (by decide) rfl, by decide +kernel, by decide +kernel, hv, hs, hn⟩,
    starts_of (by decide +kernel) rfl⟩
  have e : (vetCmd bundle0).bytes = bundle0 := by decide +kernel
  have o : vSigOffset bundle0 = 1104 := by decide +kernel
  have l : slice bundle0 1104 (vSigLength bundle0) = [0xEE] := by decide +kernel
  have k : bundleOk bundle0 (hosting (vetCmd bundle0) Dev.reset).board.stepping = true := by decide +kernel
  have w : ¬ vVersion bundle0 ≤ (hosting (vetCmd bundle0) Dev.reset).health.vetVersion := by decide +kernel
  unfold bundleResult
  rw [e, k, o, l, h, if_neg (by decide), if_neg (by decide), if_neg w]

theorem witness_image_refused (h : Config.fwVersion [2] = none) :
    let c := imageCmd 0 [2]
    let d := hosting c Dev.reset
    CmdStarts d 7 0x51 (fun c => c.param 32 1 != 1) c ∧ NoDrain d ∧ c.param 32 1 = 0 ∧ c.dataFailed = false ∧
      firmwareResult d c.bytes = some 3 := by
  refine ⟨starts_of (by decide +kernel) rfl, noDrain_of (by decide) rfl, by decide +kernel, by decide +kernel, ?_⟩
  have e : (imageCmd 0 [2]).bytes = [2] := by decide +kernel
  simp only [firmwareResult, e, h]

theorem test_vetLoad_format : reply (.vetLoad 7) (hosting (vetCmd [1]) Dev.reset) = some (some (8, 3, 0)) := by
  decide +kernel

/-- R528: a bundle whose length field is wrong is not well formed. -/
theorem test_bundleOk : (bundleOk bundle0 0, bundleOk (bundle0 ++ [0]) 0, bundleOk bundle0 1) = (true, false, false) := by
  decide +kernel

theorem test_fwUpdateStore_form : reply (.fwUpdateStore 7) (hosting (imageCmd 2 [1]) Dev.reset) = some (some (1, 0, 0)) := by
  decide +kernel

theorem test_fwUpdateActivate : seen (.fwUpdateActivate 7) (hosting (imageCmd 1 []) Dev.reset)
    (fun d => (d.host.state, d.board.causeRecord)) = some (.booting, some 4) := by decide +kernel

/-! ### The register window -/

/-- A module that serves its host, with the host interface as `f` says. -/
def served (f : HostIf → HostIf) : Dev := { Dev.reset with host := f { HostIf.reset with state := .running, linkUp := true } }

theorem witness_event_counters : isCounter 0xB0 = true ∧ answers Dev.reset 0xB0 = true ∧
    isCounter 0x7FF020 = true ∧ answers (served id) 0x7FF020 = true := by decide +kernel

/-- R14: a saturated counter stays; a write of all ones clears it and another write does not. -/
theorem test_counter : (ctrOf (bumpBy { Dev.reset with ctr := [(0xB0, 0xFFFFFFFE)] } 0xB0 5) 0xB0,
    [0xFFFFFFFF, 0xFFFFFFFE].map fun v => seen (.registerWrite 0 0xB0 4 v) { Dev.reset with ctr := [(0xB0, 3)] } (·.ctr)) =
    (0xFFFFFFFF, [some [], some [(0xB0, 3)]]) := by decide +kernel

theorem witness_host_accesses :
    ((8 = 4 ∨ 8 = 8) ∧ 0x10 % 8 = 0 ∧ readsResult 0 0x10 = false) ∧
    ((4 = 4 ∨ 4 = 8) ∧ 0x94 % 4 = 0 ∧ readsResult 0 0x94 = true) ∧ (0x10004 = 0x2C ∨ 0x10004 = 0x84 ∨ 0x10004 = 0x10004) ∧ (¬ ((4 = 4 ∨ 4 = 8) ∧ 0x107FFFE % 4 = 0) ∧ 0x107FFFE < 0x1080000) ∧
    (128 ≠ 0 ∧ 0xFFFFF8 < 0x1000000 ∧ (8 = 4 ∨ 8 = 8) ∧ 0xFFFFF8 % 8 = 0) ∧
    (let d := served id
     windowOpen d = true ∧ d.sense.adc = none ∧ d.sense.waiting = []) ∧
    (let d := { served id with sense := { Sense.reset with waiting := [{ who := .thermal, channel := 0, dac := 0 }] } }
     windowOpen d = true ∧ (d.sense.adc ≠ none ∨ d.sense.waiting ≠ [] ∨ false = true)) ∧
    (0xFFFFFFFFF < 2 ^ (served id).host.bar2Log2 ∧ windowOpen (served id) = true ∧
      (served id).host.bar2Base + 0xFFFFFFFFF + 1 ≤ space1Size) ∧
    (let d := served fun h => { h with bar2Base := 0x9000000000 }
     0xFFFFFFFFF < 2 ^ d.host.bar2Log2 ∧ (windowOpen d = false ∨ space1Size < d.host.bar2Base + 0xFFFFFFFFF + [1, 2].length)) ∧
    (0 : Nat) < 8 ∧ (7 : Nat) < 8 ∧ (30 ≤ 30 ∧ 30 ≤ 39) ∧ (30 ≤ 39 ∧ 39 ≤ 39) := by decide +kernel

/-- R391: a read of RESULT frees a record that has failed under the mailbox's command. -/
theorem test_result_frees : seen (.registerRead 0 0x90 8) { served id with
      feed := { Feed.reset with models := [{ newModel 1 with state := .failed, reply := some (mboxRing, 0) }] } }
    (fun d => (readsResult 0 0x90, d.feed.models.length)) = some (true, 0) := by decide +kernel

/-- R425 and R418: HI_STATUS after reset; the upper half of HS_LAYOUT by a read of 4 bytes; a VF reads zero. -/
theorem test_registerRead : [(0, 0x08, 8), (0, 0x1C, 4), (1, 0x08, 8)].map
    (fun p => seen (.registerRead p.1 p.2.1 p.2.2) Dev.reset (·.out)) =
    [some [.readData 1], some [.readData 0x400], some [.readData 0]] := by decide +kernel

theorem test_registerWrite_misaligned : seen (.registerWrite 0 0x12 4 7) Dev.reset (·.ctr) = some [(0xC0, 1)] := by
  decide +kernel

/-- R422: a BAR2_BASE that is no multiple of the window is ignored. -/
theorem test_bar2Base : [0x1000000000, 0x40000000].map
    (fun v => seen (.registerWrite 0 0xA8 8 v) Dev.reset (·.host.bar2Base)) = [some 0x1000000000, some 0] := by
  decide +kernel

/-- R558: bits 27:16 are the DAC's code. -/
theorem test_senseReq : seen (.senseReq 0x0ABC003F false) (served id)
    (fun d => d.sense.adc.map fun r => (r.channel, r.dac)) = some (some (63, 0xABC)) := by decide +kernel

theorem test_sensePeakClr : seen (.sensePeakClr 0x8000000000000001) (served id)
    (fun d => [0, 1, 63].map (mget false d.sense.peakClr)) = some [true, false, true] := by decide +kernel

/-- R418 and R595: the upper half of the slot of SENSE_REQ or HS_GO takes a write of 4 bytes and reaches no field. -/
theorem test_upper_half : [0x10004, 0x2C].map (fun o => seen (.registerWrite 0 o 4 1) { served id with
      host := { HostIf.reset with state := .handshake } } fun d => (d.ctr, d.host.state, d.sense.adc.isNone)) =
    [some ([], .handshake, true), some ([], .handshake, true)] := by decide +kernel

/-- R553: a heartbeat of 61 seconds is out of range. -/
theorem test_mgmtSettingWrite : [61, 60].map
    (fun v => seen (.mgmtSettingWrite 0x20100 8 (BitVec.ofNat 64 (256 * v + 1))) (served id) (·.health.heartbeat)) =
    [some 10, some 60] := by decide +kernel

/-- R423: a write of the BAR2 window lands in space 0x1, and a read of it returns it. -/
theorem test_bar2 : (seen (.bar2Write 0x800 [7]) (served id) (·.mem.dram) == some [(stackSize, 7)],
    seen (.bar2Read 0x800 1) { served id with mem := { Memory.reset with dram := [(stackSize, 7)] } }
      fun d => d.out == [.bar2 [7] false]) = (true, some true) := by decide +kernel

theorem test_bar2Resize : seen (.bar2Resize 30) (served fun h => { h with bar2Base := 0x1000000000 })
    (fun d => (d.host.bar2Log2, d.host.bar2Base)) = some (30, 0) := by decide +kernel

/-! ### Rings, doorbells, the mailbox, the handshake -/

/-- SUB ring 1 bound to COMP ring 2, with one entry at its last slot. -/
def fetching : Dev := served fun h => { h with
  rings := [(1, some { ring0 .sub with head := 15, tail := 0 }), (2, some (ring0 .comp))] }

def nopDesc : List Byte := block 64 [(0, 1, 1)]

theorem witness_commands_arrive :
    (let x := { ring0 .sub with head := 15, tail := 0 }
     ringOf fetching 1 = some x ∧ fetchable fetching x = true ∧ fetchTurn fetching x = true ∧
      inProgress fetching < 1024 ∧ fetching.health.commandDown = false ∧ nopDesc.length = 64 ∧ knownOp nopDesc ∧
      CidsOk fetching) ∧
    (ringOf fetching 1 = some { ring0 .sub with head := 15, tail := 0 } ∧ (ring0 .sub).owner = 0 ∧
      (ring0 .sub).state = .active ∧ fetching.host.serving = true ∧ (15 : W64).toNat % 2 ^ 16 < 2 ^ (ring0 .sub).sizeLog2) ∧
    (ringOf fetching 2 = some (ring0 .comp) ∧ (ring0 .comp).owner = 0 ∧ (ring0 .comp).state = .active ∧
      fetching.host.serving = true ∧ (ring0 .comp).type ≠ .sub ∧ (ring0 .comp).heldRecords = [] ∧
      (15 : W64).toNat % 2 ^ 16 < 2 ^ (ring0 .comp).sizeLog2) ∧
    ((served fun h => { h with serving := false }).host.serving = false ∧
      ringOf fetching 2 = some (ring0 .comp) ∧ ((ring0 .comp).owner ≠ 5 ∨ (ring0 .comp).state ≠ .active)) ∧
    (fetching.host.state ≠ .failed ∧ (served fun h => { h with state := .failed }).host.state = .failed) ∧
    (let x := { ring0 .comp with unsignalled := 1 }
     let d := served fun h => { h with rings := [(2, some x)], msix := [(3, 0)] }
     ringOf d 2 = some x ∧ x.type = .comp ∧ x.state = .active ∧ x.unsignalled ≠ 0 ∧
      (msixWord d (4 * (x.owner * 1024 + x.vector) + 3)).getLsbD 0 = false) ∧
    (let d := served fun h => { h with mboxDesc := [(0, 1)] }
     (1 : W64).getLsbD 0 = true ∧ (∀ c ∈ d.host.cmds, c.ring ≠ mboxRing) ∧ d.host.serving = true ∧
      knownOp (mboxBytes d) ∧ CidsOk d) ∧
    (let d := hosting identifyCmd Dev.reset
     (1 : W64).getLsbD 0 = true ∧ ((∃ c ∈ d.host.cmds, c.ring = mboxRing) ∨ d.host.serving = false)) ∧
    (2 : W64).getLsbD 0 = false ∧
    (let d := member (served id)
     nopDesc.length = 64 ∧
      (follower d = true ∨ (d.pad.role = .alone ∧ dOpcode nopDesc = 0x60 ∧ fieldAt nopDesc 32 1 = 0))) ∧
    (let b := block 64 [(0, 1, 0x60)]
     let d := served id
     b.length = 64 ∧ (follower d = true ∨ (d.pad.role = .alone ∧ dOpcode b = 0x60 ∧ fieldAt b 32 1 = 0))) ∧
    (let d := { Dev.reset with host := { HostIf.reset with state := .handshake } }
     (1 : W64).getLsbD 0 = true ∧ d.host.state = .handshake ∧ layoutOk d.host.hsLayout.toNat d.host.hsNb = true) ∧
    (let d := { Dev.reset with host := { HostIf.reset with state := .handshake, hsLayout := 0x0000040008040209 } }
     (1 : W64).getLsbD 0 = true ∧ d.host.state = .handshake ∧ layoutOk d.host.hsLayout.toNat d.host.hsNb = false) :=
  ⟨by delta knownOp; decide +kernel, by decide +kernel, by decide +kernel, by decide +kernel, by decide +kernel,
   by decide +kernel, by delta knownOp; decide +kernel, by decide +kernel, by decide, by decide +kernel, by decide +kernel,
   by decide +kernel, by decide +kernel⟩

theorem noDrain_fetching : NoDrain fetching := noDrain_of (by decide) rfl

/-- R431 and R436: the head wraps, and the fetched command is the ring owner's. -/
theorem test_commandFetch : seen (.commandFetch 1 (some nopDesc) [] none true) fetching
    (fun d => ((ringOf d 1).map (·.head), d.host.cmds.map fun c => (c.fn, c.ring))) = some (some 0, [(0, 1)]) := by
  decide +kernel

theorem test_commandFetch_error : seen (.commandFetch 1 none [] none true) fetching (fun d => (ringOf d 1).map (·.state)) =
    some (some .error) := by decide +kernel

/-- R430: an index past the ring stops it; a VF's doorbell of another's ring is counted. -/
theorem test_doorbell : ([15, 16].map fun v => seen (.doorbell 0 1 v) fetching fun d => (ringOf d 1).map fun x => (x.state, x.tail)) =
    [some (some (.active, 15)), some (some (.error, 0))] ∧
    seen (.doorbell 5 1 3) fetching (fun d => (d.ctr, (ringOf d 1).map (·.tail))) = some ([(0xB0, 1)], some 0) := by
  decide +kernel

theorem test_coalesceTimeout : seen (.coalesceTimeout 2)
    (served fun h => { h with rings := [(2, some { ring0 .comp with unsignalled := 1 })], msix := [(1, 0x10), (2, 9), (3, 0)] })
    (fun d => d.out) = some [.msix 0 0 0x1000000000 9] := by decide +kernel

theorem test_mboxDoorbell : seen (.mboxDoorbell 1 [] none true) (served fun h => { h with mboxDesc := [(0, 1)] })
    (fun d => d.host.cmds.map fun c => (c.cid, dOpcode c.desc)) = some [(0, 1)] := by decide +kernel

/-- R591: a module that has failed serves no command. -/
theorem test_doorbells_failed : [Instr.mboxDoorbell 1 [] none true, .doorbell 0 1 15].map (fun c => seen c
    { fetching with host := { fetching.host with state := .failed } } fun d => (d.host.cmds.length, d.ctr,
      (ringOf d 1).map (·.tail))) = [some (0, [], some 0), some (0, [], some 0)] := by decide +kernel

theorem test_forwardedCommand : seen (.forwardedCommand 4 128 nopDesc none 9)
    (member (served id)) (fun d => d.host.cmds.map fun c => (c.lead, c.fn, c.epoch)) = some [(some 4, 128, 9)] := by decide +kernel

/-- R426: the first layout check that fails leaves FAIL 1; the layout of reset passes. -/
theorem test_hsGo : [0x0000040008040228, 0x0000040008040209].map
    (fun v => seen (.hsGo 1) { Dev.reset with host := { HostIf.reset with state := .handshake, hsLayout := v } }
      fun d => (d.host.state, d.host.fail)) = [some (.running, 0), some (.handshake, 1)] := by decide +kernel

/-- Function 5 with a ring, a sequence and a command whose routine runs on stall 0. -/
def ownedBy5 : Dev :=
  { oneStall 0 (fun x => { x with mode := .running, owner := some 7 }) with
    host := { HostIf.reset with
      state := .running, linkUp := true, rings := [(1, some { ring0 .event with owner := 5 })]
      cmds := [{ submitCmd 0 1 0 with fn := 5, begun := true, running := [0] }], nextCid := 8 }
    attn := { Attn.reset with seqs := [(0, some { seq0 with owner := 5 })] } }

theorem witness_function_and_link_resets :
    (5 ≠ 0 ∧ follower ownedBy5 = false ∧ (ownedBy5.host.cmds.map (·.cid)).Nodup ∧
      (∃ c ∈ ownedBy5.host.cmds, c.fn = 5 ∧ c.begun = true ∧ c.onStalls = true ∧ c.remote = false ∧ 0 ∈ c.running)) ∧
    (5 ≠ 0 ∧ follower (member Dev.reset) = true) ∧
    Dev.reset.board.perstLow = false ∧
    (let d := { Dev.reset with board := { Board.reset with perstLow := true }, host := { HostIf.reset with step := 6 } }
     d.board.perstLow = true ∧ d.board.powered = true ∧ d.host.state = .booting ∧ d.host.step = 6) ∧
    (let d := served fun h => { h with linkUp := false }
     d.host.linkUp = false ∧ d.board.powered = true ∧ d.board.perstLow = false ∧ d.host.state ≠ .booting) := by
  decide +kernel

theorem test_functionLevelReset : seen (.functionLevelReset 5) ownedBy5 (fun d =>
    ((ringOf d 1).isNone, (seqOf d 0).map (·.closing), (stallOf d 0).mode)) = some (true, some true, .draining) := by
  decide +kernel

theorem test_hotReset : seen .hotReset ownedBy5 (fun d => ((ringOf d 1).isNone, d.host.linkUp, (stallOf d 0).faultDetail)) =
    some (true, false, 3) := by decide +kernel

theorem test_perstN : seen (.perstN true)
    { Dev.reset with board := { Board.reset with perstLow := true }, host := { HostIf.reset with step := 6 } }
    (fun d => (d.host.state, d.host.step)) = some (.handshake, 8) := by decide +kernel

theorem test_hostLinkRetrained : seen .hostLinkRetrained (served fun h => { h with linkUp := false })
    (fun d => (d.host.linkUp, d.sense.lock)) = some (true, 0x40) := by decide +kernel

/-! ### Ports and packets -/

def withPort (p : Nat) (x : Port) : Dev := { served id with pad := { Paddock.reset with ports := [(p, x)] } }
def upPort : Port := { Port.reset with state := .up }

def netPut : NetOp := (opTo .put (spaceAddr 1 0) [7] 1 0).op

/-- The same operation to module 1. -/
def farPut : NetOp := { netPut with addr := spaceAddr 1 0 ||| (1 <<< 58) }

/-- Port 0 Up with the packets 4,095 and 0 unacknowledged. -/
def sending : Dev := withPort 0 { upPort with unacked := [(4095, .request netPut 0), (0, .message 1 0 .stopAll)] }

/-- A module of a plan of two whose serial numbers are 0 and 5, its own 0, joined by port 2 here and port 3 there. -/
def linked (role : Role) (index : Nat) : Dev :=
  { withPort 2 upPort with pad := { (withPort 2 upPort).pad with
      role := role, index := index, modules := [(0, index, index), (5, 1 - index, 1 - index)]
      hops := [(1 - index, [2])]
      links := [{ endA := index, portA := 2, endB := 1 - index, portB := 3, twin := false }] } }

/-- A module that reaches module 1 by port 2. -/
def relaying : Dev := { withPort 2 upPort with pad := { Paddock.reset with
  hops := [(1, [2])], ports := [(2, { upPort with routed := true })] } }

theorem witness_ports_train :
    ((portOf Dev.reset 15).state = .down ∧ Dev.reset.board.powered = true) ∧
    (portOf (withPort 15 { Port.reset with state := .training }) 15).state = .training ∧
    (15 < 16 ∧ (portOf (withPort 15 upPort) 15).state ≠ .down) ∧
    (let d := linked .lead 0
     (portOf d 2).state = .up ∧ (portOf d 2).routed = false ∧ d.pad.role = .lead ∧ farEnd d (ownEnd d) 2 = some (1, 3)) ∧
    (let d := linked .member 1
     (portOf d 2).state = .up ∧ (portOf d 2).routed = false ∧ follower d = true ∧ farEnd d (ownEnd d) 2 ≠ none) := by
  decide +kernel

theorem witness_packets :
    (let d := withPort 15 upPort
     (portOf d 15).state = .up ∧ 0 = (portOf d 15).rxSeq ∧ holdsIndex d (gModule netPut.addr) = true ∧
      pieceCount (opBytes netPut) = 1) ∧
    (let d := withPort 15 upPort
     let op := { netPut with len := 513 }
     (portOf d 15).state = .up ∧ 0 = (portOf d 15).rxSeq ∧ holdsIndex d (gModule op.addr) = true ∧
      1 < pieceCount (opBytes op) ∧
      ∀ x ∈ d.pad.parts, ¬ (x.kind = .request ∧ x.module = op.srcModule ∧ x.id = op.srcId)) ∧
    ((portOf relaying 2).state = .up ∧ 0 = (portOf relaying 2).rxSeq ∧ holdsIndex relaying (gModule farPut.addr) = false ∧
      usablePorts relaying (gModule farPut.addr) ≠ [] ∧ 1 ≠ here relaying) ∧
    (let d := { withPort 15 { upPort with rxSeq := 4095 } with
       ops := [{ id := 5, op := netPut, own := true, dest := 0, ctr := none, phase := .sent, dead := false, back := [],
                 orphan := false }] }
     (portOf d 15).state = .up ∧ 4095 = (portOf d 15).rxSeq ∧ holdsIndex d netPut.srcModule = true ∧
      pieceCount (if netPut.kind = .get then netPut.len else if isFadd netPut.kind then elemSize netPut.kind else 0) = 1 ∧
      ∃ o, opOf d netPut.srcId = some o ∧ o.own = true ∧ o.phase = .sent ∧ o.dead = false) ∧
    (let d := withPort 15 { upPort with rxSeq := 1000 }
     (portOf d 15).state = .up ∧ isControl (.request netPut 0) = false ∧ 4072 ≠ (portOf d 15).rxSeq ∧
      ((portOf d 15).rxSeq + 4096 - 4072) % 4096 ≤ 1024) ∧
    ((portOf (withPort 15 upPort) 15).state = .up ∧
      ({ seq := 3, crcOk := false, fecOk := true, fecCorrected := 0, body := .request netPut 0 } : Packet).crcOk = false) ∧
    ((portOf relaying 2).state = .up ∧ 0 = (portOf relaying 2).rxSeq ∧ 1 ≠ here relaying) ∧
    ((portOf sending 0).state = .up ∧ (∃ u ∈ (portOf sending 0).unacked, u.1 = 4095) ∧ (portOf sending 0).queue = []) ∧
    ((portOf sending 0).unacked.dropWhile (fun u => u.1 != 0) ≠ [] ∧ (portOf sending 0).replays < 8) ∧
    (let d := withPort 0 { upPort with unacked := [(0, .request netPut 0)], replays := 8 }
     (portOf d 0).state = .up ∧ (∃ u ∈ (portOf d 0).unacked, u.1 = 0) ∧ 8 ≤ (portOf d 0).replays) := by
  refine ⟨by decide +kernel, by decide +kernel, by decide +kernel, ⟨rfl, rfl, rfl, by decide +kernel, _, rfl, rfl, rfl, rfl⟩,
    by decide +kernel, by decide +kernel, by decide +kernel, by decide +kernel, by decide +kernel, by decide +kernel⟩

theorem test_training : (seen (.codewordLock 9) Dev.reset (fun d => ((portOf d 9).state, d.sense.lock)),
    seen (.trainingExchange 9 3 5) (withPort 9 { Port.reset with state := .training })
      (fun d => ((portOf d 9).state, (portOf d 9).peerPort))) = (some (.training, 0x100), some (.up, 3)) := by decide +kernel

theorem test_ports_down : [Instr.linkDown 9, .trainingTimeout 9].map
    (fun c => seen c (withPort 9 { Port.reset with state := .training }) fun d => ((portOf d 9).state, ctrOf d 0x30268)) =
    [some (.down, 1), some (.down, 1)] := by decide +kernel

/-- R471: the lead includes the port again. -/
theorem test_linkUp : seen (.linkUp 2) (linked .lead 0) (fun d => (portOf d 2).routed) = some true := by decide +kernel

/-- R468: the expected packet is delivered; an older one is only acknowledged; a later one is asked for again. -/
theorem test_packetReceive : [1000, 999, 1001].map
    (fun n => seen (.packetReceive 0 { seq := n, crcOk := true, fecOk := true, fecCorrected := 0
                                       body := .request netPut 0 })
      (withPort 0 { upPort with rxSeq := 1000 }) fun d => (d.out == [.packet 0 n (.ack n)], d.ops.length)) =
    [some (true, 1), some (true, 0), some (false, 0)] := by decide +kernel

/-- R506: every codeword of the packet that was corrected counts. -/
theorem test_fec_count : seen (.packetReceive 0 { seq := 999, crcOk := true, fecOk := true, fecCorrected := 3
                                                  body := .request netPut 0 })
    (withPort 0 { upPort with rxSeq := 1000 }) (fun d => ctrOf d 0x30020) = some 3 := by decide +kernel

/-- R473: a module that is not the operation's home sends it on. -/
theorem test_relay : seen (.packetReceive 2 { seq := 0, crcOk := true, fecOk := true, fecCorrected := 0
                                              body := .request farPut 0 }) relaying
    (fun d => (d.out.contains (.packet 2 0 (.request farPut 0)), d.ops.length)) = some (true, 0) := by decide +kernel

theorem test_replayRequest : seen (.replayRequest 0 0) sending (fun d => (d.out, ctrOf d 0x30010)) =
    some ([.packet 0 0 (.message 1 0 .stopAll)], 1) := by decide +kernel

/-! ### The paddock -/

/-- A plan of two modules, one standby, a paddock link and a twin link; this module's serial number is 0. -/
def plan0 : List Byte :=
  block 80 [(0, 1, 2), (1, 1, 1), (2, 2, 2), (32, 8, 0x11), (40, 1, 1), (41, 1, 1), (48, 8, 0x22),
    (66, 1, 1), (72, 1, 0), (73, 1, 1), (74, 1, 64), (76, 1, 1)]

/-- The same plan with the member's serial number that of the lead. -/
def badPlan : List Byte := (plan0.take 32) ++ toLe 8 0 ++ plan0.drop 40

def joinCmd (b : List Byte) : Cmd := command [(0, 1, 0x60), (16, 4, 80)] (some [b])

/-- Both of the plan's links of this module trained. -/
def joining (b : List Byte) : Dev := hosting (joinCmd b) { Dev.reset with
  pad := { Paddock.reset with ports := [(0, { upPort with serial := 0x11 }), (1, { upPort with serial := 0x22 })] } }

/-- The plan as the lead sends it to the module of a serial number. -/
def sentTo (serial : W64) : Dev := hosting { joinCmd plan0 with lead := some 4 } { Dev.reset with
  board := { Board.reset with serial := serial } }

theorem witness_paddock_join :
    (let c := joinCmd plan0
     let d := joining plan0
     CmdStarts d 7 0x60 (fun c => c.param 32 1 != 1) c ∧ c.param 32 1 = 0 ∧ c.lead = none ∧
      c.dataFailed = false ∧ 16 ≤ c.bytes.length ∧ 1 ≤ planModules c.bytes ∧ planModules c.bytes ≤ 64 ∧
      planStandbys c.bytes ≤ 16 ∧ planLinks c.bytes ≤ 640 ∧ c.dataLen = planLen c.bytes ∧
      c.bytes.length = planLen c.bytes ∧ planReserved c.bytes = false ∧ planRange c.bytes = true ∧
      planBad d.board.serial c.bytes = false ∧ wrongPeer d c.bytes = false ∧ ownLinksUp d c.bytes = true ∧
      moduleBusy d c.cid true = false) ∧
    (let c := joinCmd plan0
     let d := { joining plan0 with pad := Paddock.reset }
     CmdStarts d 7 0x60 (fun c => c.param 32 1 != 1) c ∧ c.param 32 1 = 0 ∧ c.lead = none ∧
      c.dataFailed = false ∧ c.dataLen = planLen c.bytes ∧ c.bytes.length = planLen c.bytes ∧ planReserved c.bytes = false ∧
      planRange c.bytes = true ∧ planBad d.board.serial c.bytes = false ∧ wrongPeer d c.bytes = false) ∧
    (let c := joinCmd badPlan
     let d := joining badPlan
     CmdStarts d 7 0x60 (fun c => c.param 32 1 != 1) c ∧ NoDrain d ∧ c.param 32 1 = 0 ∧ c.lead = none ∧
      c.dataFailed = false ∧ 16 ≤ c.bytes.length ∧ 1 ≤ planModules c.bytes ∧ planModules c.bytes ≤ 64 ∧
      planStandbys c.bytes ≤ 16 ∧ planLinks c.bytes ≤ 640 ∧ c.dataLen = planLen c.bytes ∧
      c.bytes.length = planLen c.bytes ∧ planReserved c.bytes = false ∧ planRange c.bytes = true ∧
      planBad d.board.serial c.bytes = true) ∧
    (let c := joinCmd plan0
     let d := { joining plan0 with pad := { Paddock.reset with joining := some 7 } }
     d.pad.joining = some c.cid ∧ cmdOf d c.cid = some c ∧ c.lead = none ∧ NoDrain d) ∧
    (let c := { joinCmd plan0 with lead := some 4 }
     let d := sentTo 0x22
     CmdStarts d 7 0x60 (fun c => c.param 32 1 != 1) c ∧ c.param 32 1 = 0 ∧ c.lead = some 4 ∧
      plan0 = c.bytes.take (planLen c.bytes) ∧ ∀ m ∈ modulesOf plan0, m.1 ≠ d.board.serial) ∧
    (let c := { joinCmd plan0 with lead := some 4 }
     let d := sentTo 0x11
     CmdStarts d 7 0x60 (fun c => c.param 32 1 != 1) c ∧ c.param 32 1 = 0 ∧ c.lead = some 4 ∧
      plan0 = c.bytes.take (planLen c.bytes) ∧ (modulesOf plan0).find? (fun m => m.1 == d.board.serial) = some (0x11, 1, 1)) :=
  ⟨⟨starts_of (by decide +kernel) rfl, by decide +kernel⟩, ⟨by delta CmdStarts; decide +kernel, by decide +kernel⟩,
   ⟨starts_of (by decide +kernel) rfl, noDrain_of (by decide) rfl, by decide +kernel⟩,
   ⟨by decide +kernel, by decide +kernel, rfl, noDrain_of (by decide) rfl⟩,
   ⟨starts_of (by decide +kernel) rfl, by decide +kernel⟩, starts_of (by decide +kernel) rfl, by decide +kernel⟩

def leaveCmd : Cmd := command [(0, 1, 0x60), (32, 1, 1)] none

/-- The lead of the plan, its twin link Up. -/
def leadOf (c : Cmd) (f : Paddock → Paddock) : Dev := hosting c { Dev.reset with pad := f { Paddock.reset with
  role := .lead, size := 2, modules := modulesOf plan0, standbys := standbysOf plan0, links := planLinkList plan0
  ports := [(1, { upPort with twin := true })] } }

def bindCmd (form : Nat) : Cmd := command [(0, 1, 0x61), (32, 1, form)] none

def binding0 (state : TwinState) (cmd : Option Nat) : Binding := { index := 0, entry := 0, state := state, cmd := cmd }

/-- The lead, copying to its twin, which holds the copy. -/
def copied : Dev := leadOf { bindCmd 0 with begun := true } fun p =>
  { p with twin := .copying, twinPeer := 64, twinReady := true, bindings := [binding0 .copying (some 7)] }

/-- A member that copies to its twin, which holds the copy. -/
def copiedMember : Dev := { served id with pad := { Paddock.reset with
  role := .member, index := 1, twin := .copying, twinPeer := 64, twinReady := true } }

theorem witness_twins :
    (let d := leadOf leaveCmd id
     CmdStarts d 7 0x60 (fun c => c.param 32 1 == 1) leaveCmd ∧ NoDrain d ∧ leaveCmd.lead = none ∧
      dDataLen leaveCmd.desc = 0 ∧ moduleBusy d leaveCmd.cid false = false ∧ (∀ j ∈ d.attn.jobs, j.hold = none) ∧
      ∀ y ∈ d.host.cmds, y.held = none ∧ y.awaits = none) ∧
    (let c := bindCmd 0
     let d := leadOf c id
     CmdStarts d 7 0x61 (fun c => c.param 32 1 != 1) c ∧ NoDrain d ∧ c.param 32 1 = 0 ∧ c.param 36 4 < 16 ∧
      c.lead = none ∧ bindRefusal d c true true true = none ∧ bindRefusal d c true true false = some 4) ∧
    (let c := { bindCmd 0 with lead := some 4 }
     let d := hosting c { Dev.reset with pad := { Paddock.reset with role := .standby } }
     CmdStarts d 7 0x61 (fun c => c.param 32 1 != 1) c ∧ NoDrain d ∧ c.param 32 1 = 0 ∧ c.param 36 4 < 16 ∧
      c.lead = some 4 ∧ d.pad.role = .standby ∧ d.pad.twin ≠ .copying) ∧
    (let c := { bindCmd 0 with begun := true }
     copied.pad.twin = .copying ∧ mirroring copied = true ∧ copied.pad.twinReady = true ∧ follower copied = false ∧
      bindingOf copied copied.pad.index = some (binding0 .copying (some 7)) ∧ cmdOf copied c.cid = some c ∧ c.cid = 7 ∧
      c.lead = none ∧ NoDrain copied) ∧
    (copiedMember.pad.twin = .copying ∧ mirroring copiedMember = true ∧ copiedMember.pad.twinReady = true ∧
      follower copiedMember = true) ∧
    (let c := bindCmd 1
     let d := leadOf c fun p => { p with twin := .lost, bindings := [binding0 .lost none] }
     CmdStarts d 7 0x61 (fun c => c.param 32 1 == 1) c ∧ NoDrain d ∧ c.param 36 4 < 16 ∧ c.lead = none ∧
      bindingOf d (c.param 33 1) = some (binding0 .lost none) ∧ (binding0 .lost none).state ≠ .serving ∧
      (binding0 .lost none).cmd = none ∧ (∀ j ∈ d.attn.jobs, j.hold = none) ∧ ∀ y ∈ d.host.cmds, y.held = none ∧ y.awaits = none) :=
  ⟨⟨starts_of (by decide +kernel) rfl, noDrain_of (by decide) rfl, by decide +kernel⟩,
   ⟨starts_of (by decide +kernel) rfl, noDrain_of (by decide) rfl, by decide +kernel⟩,
   ⟨starts_of (by decide +kernel) rfl, noDrain_of (by decide) rfl, by decide +kernel⟩,
   ⟨rfl, by decide +kernel, rfl, by decide +kernel, by decide +kernel, by decide +kernel, rfl, rfl, noDrain_of (by decide) rfl⟩,
   by decide +kernel, starts_of (by decide +kernel) rfl, noDrain_of (by decide) rfl, by decide +kernel⟩

/-- A standby bound in step to index 0, whose twin link is not Up; the member that it reaches has lost index 0. -/
def standingBy : Dev :=
  { served id with
    board := { Board.reset with serial := 0x22 }
    pad := { Paddock.reset with
      role := .standby, twin := .inStep, modules := modulesOf plan0, standbys := standbysOf plan0
      bindings := [binding0 .inStep none], hops := [(1, [0])], ports := [(0, { upPort with routed := true })]
      links := [{ endA := 0, portA := 0, endB := 1, portB := 0, twin := false },
                { endA := 1, portA := 2, endB := 64, portB := 0, twin := false },
                { endA := 0, portA := 1, endB := 64, portB := 1, twin := true }]
      leadGone := [1] } }

/-- The protected module, one write of two not yet performed by its standby. -/
def mirroringOps : Dev := { copiedMember with
  pad := { copiedMember.pad with twin := .inStep, twinOut := [3, 4], ports := [(1, { upPort with twin := true })] }
  ops := [{ opTo .put (spaceAddr 1 0) [7] 1 0 with id := 1, phase := .mirrored 3 },
          { opTo .put (spaceAddr 1 0) [8] 1 0 with id := 2, phase := .mirrored 4 }] }

theorem witness_mirrored_writes :
    ((portOf standingBy 0).state = .up ∧ 0 = (portOf standingBy 0).rxSeq ∧ standingBy.pad.role = .standby ∧
      here standingBy = 64 ∧ ([(64, 7), (65, 0)].map (Prod.fst : Nat × Byte → Nat)).Nodup) ∧
    ((portOf mirroringOps 1).state = .up ∧ 0 = (portOf mirroringOps 1).rxSeq ∧ here mirroringOps = 1 ∧
      (mirroringOps.ops.map (·.id)).Nodup ∧ ∀ j ∈ mirroringOps.attn.jobs, j.hold = none) := by decide +kernel

theorem test_paddockJoin : seen (.paddockJoin 7 true false []) (joining plan0)
    (fun d => (d.pad.role == .lead, mget [] d.pad.hops 1, d.pad.wants.map (·.base))) =
    some (true, [0], [some 0]) := by decide +kernel

/-- R477: no serial number twice, and no two modules more than three hops apart. -/
theorem test_planBad : (planBad 0 plan0, planBad 0 badPlan, planBad 1 plan0, planBad 0 (plan0.set 2 0)) =
    (false, true, true, true) := by decide +kernel

theorem test_joinLinkTimeout : reply .joinLinkTimeout { joining plan0 with pad := { Paddock.reset with joining := some 7 } } =
    some (some (8, 2, 0)) := by decide +kernel

theorem test_paddockLeave : seen (.paddockLeave 7 false) (leadOf leaveCmd id)
    (fun d => (d.pad.role, d.pad.modules.length)) = some (.alone, 0) := by decide +kernel

theorem test_twinBind : seen (.twinBind 7 true true true) (leadOf (bindCmd 0) id) (fun d => (d.pad.twin, d.pad.twinPeer)) =
    some (.copying, 64) := by decide +kernel

theorem test_twinCopyDone : seen .twinCopyDone copied (fun d => (d.pad.twin, d.host.cmds.length)) = some (.inStep, 0) := by
  decide +kernel

theorem test_twinUnbind : reply (.twinUnbind 7) (leadOf (bindCmd 1) id) = some (some (2, 0, 0)) := by decide +kernel

/-- R495: the operation whose write the standby has performed is performed; the later one waits on. -/
theorem test_twinDone : seen (.packetReceive 1 { seq := 0, crcOk := true, fecOk := true, fecCorrected := 0
                                                 body := .message 1 64 (.twinDone 3) }) mirroringOps
    (fun d => (d.ops.map fun o => (o.id, o.phase), d.pad.twinOut)) =
    some ([(1, .performed), (2, .mirrored 4)], [4]) := by decide +kernel

def cutLead : Dev := leadOf leaveCmd fun p => { p with twin := .inStep, twinPeer := 64, ports := [] }

/-- Member 2 of a chain 0 – 1 – 2, whose own port is Up, and which knows that port 0 of module 1 is Down (R474). -/
def cutRelay : Dev := { served id with pad := { Paddock.reset with
  role := .member, index := 2, size := 3, modules := [(1, 0, 0), (2, 1, 1), (0, 2, 2)], hops := [(0, [0]), (1, [0])]
  ports := [(0, { upPort with routed := true })], downs := [(1, 0)]
  links := [{ endA := 0, portA := 0, endB := 1, portB := 0, twin := false },
            { endA := 1, portA := 1, endB := 2, portB := 0, twin := false }] } }

theorem witness_losses :
    (let d := { served id with pad := { Paddock.reset with role := .member, index := 1, modules := modulesOf plan0 } }
     d.pad.role = .member ∧ reaches d 0 = false) ∧
    (cutRelay.pad.role = .member ∧ usablePorts cutRelay 0 = [0] ∧ reaches cutRelay 0 = false) ∧
    (cutLead.pad.role = .lead ∧ leadTwinDown cutLead = true ∧ (∀ j ∈ cutLead.attn.jobs, j.hold = none) ∧
      cutLead.pad.modules.length - 1 < 2 * (cutOff cutLead).length) ∧
    (standingBy.pad.role = .standby ∧ leadTwinDown standingBy = true ∧ standingBy.pad.twinPeer = 0 ∧
      standingBy.pad.twin = .inStep ∧ twinPortUp standingBy = false ∧ leadIsGone standingBy = true) := by decide +kernel

theorem test_leadUnreachable : seen .leadUnreachable
    { oneStall 0 (fun x => { x with mode := .running }) with
      pad := { Paddock.reset with role := .member, index := 1, modules := modulesOf plan0 } }
    (fun d => (d.pad.role, (stallOf d 0).faultDetail)) = some (.alone, 3) := by decide +kernel

theorem test_twinLost : seen .twinLost cutLead (·.pad.twin) = some .lost := by decide +kernel

theorem test_leadTakeover : seen .leadTakeover standingBy
    (fun d => (d.pad.role, d.pad.bindings.map (·.state), d.pad.modules.map (·.1))) =
    some (.lead, [.serving], [0x22, 0x11]) := by decide +kernel

theorem test_leadFenced : seen .leadFenced cutLead (fun d => (d.host.serving, d.host.cmds.length)) = some (false, 0) := by
  decide +kernel

/-! ### Epochs -/

def epochAt (n : W32) : Epoch := { Epoch.reset with num := n, reports := [], moduleDone := false, complete := false }

def withEpochs (es : List Epoch) : Dev := { served id with pad := { Paddock.reset with epochs := es } }

def offer0 : EpochOffer := ({ noWant with power := some 600 } : Want).offer

/-- Epoch 2³² − 1 is older than epoch 0, which every stall has reported. -/
theorem witness_epochs :
    (let w : Want := { noWant with power := some 600 }
     let d := { served id with pad := { Paddock.reset with wants := [w] } }
     follower d = false ∧ d.pad.wants = [w] ∧ (openEpochs d).length < 16 ∧ (1 : W32) = w.base.getD d.pad.requested + 1) ∧
    (let d := withEpochs [Epoch.reset, epochAt 1]
     (epochOf d 1).isSome = true ∧ ∃ st, st < 1024 ∧ mayPost d 1 st = true) ∧
    (let d := { served id with pad := { Paddock.reset with role := .member } }
     follower d = true ∧ epochOf d 1 = none ∧ reached 1 d.pad.requested = true ∧ reached d.pad.limiterPosted 1 = false) ∧
    (let d := oneStall 1023 fun x => { x with epoch := 1 }
     (stallOf d 1023).gone = false ∧ (stallOf d 1023).reported ≠ (stallOf d 1023).epoch) ∧
    (let d := withEpochs [epochAt 0xFFFFFFFF]
     d.pad.role = .alone ∧ d.pad.index = 0 ∧ epochOf d 0xFFFFFFFF = some (epochAt 0xFFFFFFFF) ∧
      (epochAt 0xFFFFFFFF).moduleDone = false ∧ openEpochs d = [epochAt 0xFFFFFFFF] ∧
      unitsReported d 0xFFFFFFFF = true ∧ stageModules d = [0] ∧ d.pad.twinOut = []) ∧
    (let d := { withEpochs [epochAt 0xFFFFFFFF] with
       pad := { Paddock.reset with epochs := [epochAt 0xFFFFFFFF], role := .member, index := 1 } }
     1 = here d ∧ follower d = true ∧ epochOf d 0xFFFFFFFF = some (epochAt 0xFFFFFFFF) ∧
      (epochAt 0xFFFFFFFF).moduleDone = false ∧ unitsReported d 0xFFFFFFFF = true) ∧
    (let x := { Epoch.reset with num := 0xFFFFFFFF }
     let d := withEpochs [x, Epoch.reset]
     d.pad.epochs = [x, Epoch.reset] ∧ d.pad.complete ≠ 0xFFFFFFFF ∧ reached d.pad.complete 0xFFFFFFFF = true ∧
      epochInUse d 0xFFFFFFFF = false ∧ ∀ m ∈ [here d, 5], m = here d ∨ countsFor d 0xFFFFFFFF m = false) ∧
    (let d := withEpochs [Epoch.reset, epochAt 1]
     epochOf d 1 = some (epochAt 1) ∧ (epochAt 1).complete = false ∧ (epochAt 1).slow = false ∧ follower d = false) := by
  refine ⟨by decide +kernel, ⟨by decide +kernel, 1023, by decide +kernel⟩, by decide +kernel, by decide +kernel,
    by decide +kernel, by decide +kernel, by decide +kernel, by decide +kernel⟩

/-- A lead that has reported its newest epoch itself and waits for its one member. -/
def awaitingMember : Dev :=
  let d := leading (served id)
  { d with pad := { d.pad with epochs := [{ epochAt 1 with reports := [0], moduleDone := true }], requested := 1 } }

theorem witness_lead_completes :
    awaitingMember.pad.role = .lead ∧
      epochOf awaitingMember 1 = some { epochAt 1 with reports := [0], moduleDone := true } ∧
      openEpochs awaitingMember = [{ epochAt 1 with reports := [0], moduleDone := true }] ∧ 1 ≠ awaitingMember.pad.index ∧
      1 ∈ stageModules awaitingMember ∧ 1 ∉ ([0] : List Nat) ∧
      (∀ k ∈ stageModules awaitingMember, k = 1 ∨ k ∈ ([0] : List Nat) ∨ countsFor awaitingMember 1 k = false) ∧
      awaitingMember.pad.twinOut = [] := by decide +kernel

theorem test_epochRequest : seen .epochRequest
    { served id with pad := { Paddock.reset with wants := [{ noWant with power := some 600 }], requested := 0xFFFFFFFF } }
    (fun d => (d.pad.requested, (settingsOf d 0).power)) = some (0, 1500) := by decide +kernel

theorem test_stallEpochReport : seen (.stallEpochReport 3) (oneStall 3 fun x => { x with epoch := 1 })
    (fun d => (stallOf d 3).reported) = some 1 := by decide +kernel

theorem test_moduleEpochReport : seen (.moduleEpochReport 0 0xFFFFFFFF) (withEpochs [epochAt 0xFFFFFFFF])
    (fun d => d.pad.epochs.map (·.complete)) = some [true] := by decide +kernel

theorem test_epochRetire : seen (.epochRetire 0xFFFFFFFF [])
    (withEpochs [{ Epoch.reset with num := 0xFFFFFFFF }, Epoch.reset]) (fun d => d.pad.epochs.map (·.num)) = some [0] := by
  decide +kernel

theorem test_epochSlow : seen (.epochSlow 1 0) (withEpochs [Epoch.reset, epochAt 1]) (fun d => d.pad.epochs.map (·.slow)) =
    some [false, true] := by decide +kernel

/-! ### Health -/

/-- A kept sample of stall 0's crib 0: inputs of zero and outputs of zero. -/
def sample0 : Sample :=
  { stall := 0, crib := 0, bank := 0, number := 15, inputs := [], outs := [], reps := 1, splits := [] }

/-- A module with a bundle installed and health as `f` says. -/
def vetting (f : Health → Health) : Dev :=
  { served id with health := f { Health.reset with vetVersion := 2, bundle := bundle0, patterns := 1, runUs := 1 } }

/-- With inputs of zero nothing is expected of an output of a bank with no weak slice. -/
theorem expected_zero {d : Dev} {st phys b : Nat} (h : (bankOf d (bankKey st phys b)).weak = []) (j : Nat) :
    expected d st phys b [] j = 0 := by
  unfold expected
  generalize List.range 1024 = l
  simp [h]

/-- With inputs of zero no phase is converted. -/
theorem termSums_zero (d : Dev) (st phys b j : Nat) (sp : List (Nat × Nat)) : termSums d st phys b [] sp j = (0, 0, 0) := by
  have c : ∀ g p, converted [] g p = false := by
    intro g p
    simp [converted, nibble]
  have n : ∀ l : List Nat, (l.flatMap fun _ => ([] : List (Nat × Int × Nat × Bool))) = [] := by
    intro l
    induction l with
    | nil => rfl
    | cons x xs ih => simp
  simp [termSums, c, n]

theorem witness_samples :
    (let d := vetting fun h => { h with samples := [sample0] }
     sampleOf d 0 0 = some sample0 ∧ d.health.healthDown = false ∧ retiredUnit d 0 0 = false ∧ sample0.stall = 0 ∧
      sample0.crib = 0 ∧
      outputsOk (dropSample d sample0) 0 0 sample0.bank sample0.inputs sample0.splits sample0.reps
        (fun j => sample0.outs.getD j 0) ((List.range 64).map (64 * (sample0.number % 16) + ·)) = true) := by
  refine ⟨by decide +kernel, rfl, by decide +kernel, rfl, rfl, ?_⟩
  unfold outputsOk
  rw [if_neg (by decide), List.all_eq_true]
  intro j _
  rw [show sample0.inputs = [] from rfl, expected_zero (by decide +kernel), termSums_zero]
  simp [sample0, withinT]

/-- Bank 0 of stall 1023's crib 15 is Ready, with no image. -/
def probing : Dev := { served id with banks := [(34 * 1023 + 30, { Bank.reset with state := .ready })] }

/-- The same bank, its latest fit outside the limits. -/
def probingBad : Dev := { served id with banks := [(34 * 1023 + 30, { Bank.reset with state := .ready, refitBad := true })] }

def watch0 (fails clean : Nat) (failedNow : Bool) : Watch :=
  { kind := 0, unit := 3, crib := 5, fails := fails, clean := clean, failedNow := failedNow }

def watching (w : Watch) : Dev := vetting fun h => { h with watch := [(7, some w)] }

/-- The same bank with an image, and a bundle installed. -/
def sweeping : Dev := { vetting id with
  banks := [(34 * 1023 + 30, { Bank.reset with state := .ready, imagePresent := true })] }

/-- Bank 0 of stall 1023's crib 15 can be probed. -/
def probes (d : Dev) : Prop :=
  d.health.probe = true ∧ d.health.healthDown = false ∧
    ((bankOf d (bankKey 1023 15 0)).state = .ready ∨ (bankOf d (bankKey 1023 15 0)).state = .live) ∧
    cribInUse d 1023 15 = false ∧ mvmWaits d 1023 15 = false ∧ retiredUnit d 1023 15 = false ∧ 0 ≤ creditAfter d (cribKey 1023 15) 0

theorem witness_vet_engine :
    (probes probing ∧ referenceOk probing (bankOf probing (bankKey 1023 15 0)) = true ∧ canSweep probing 1023 15 0 = false) ∧
    (probes probingBad ∧ referenceOk probingBad (bankOf probingBad (bankKey 1023 15 0)) = false ∧
      canSweep probingBad 1023 15 0 = false ∧ probingBad.health.watch = [] ∧
      servedIndex (stallOf probingBad 1023) 15 < 16 ∧ 16 ≤ servedIndex (stallOf probingBad 1023) 16) ∧
    (probes sweeping ∧ canSweep sweeping 1023 15 0 = true ∧
      0 = (bankOf sweeping (bankKey 1023 15 0)).probes % sweeping.health.patterns) ∧
    (canVet (vetting id) 1023 = true ∧ 0 < vTests (vetting id).health.bundle) ∧
    (let d := watching (watch0 1 0 true)
     d.health.healthDown = false ∧ d.health.watch = [(7, some (watch0 1 0 true))] ∧ d.health.probe = true) ∧
    (let d := watching (watch0 2 0 true)
     (stallOf d 3).spareIndex = none ∧ (stallOf d 3).pendingSpare = none ∧ (stallOf d 3).pendingRetire = false ∧
      (stallOf d 3).gone = false) ∧
    (let d := watching (watch0 3 0 false)
     3 ≤ (watch0 3 0 false).fails ∧ d.health.probe = true ∧ (stallOf d 3).pendingRetire = false ∧ (stallOf d 3).gone = false ∧
      (stallOf d 3).spareIndex = none ∧ (stallOf d 3).pendingSpare = none) ∧
    (let d := watching (watch0 2 599 false)
     d.health.waitingWatch = [] ∧ (watch0 2 599 false).kind = 0 ∧ d.health.probe = true ∧
      ∀ b ∈ [0, 1], (bankOf d (bankKey 3 (physOf d 3 5) b)).state ≠ .ready ∧
        (bankOf d (bankKey 3 (physOf d 3 5) b)).state ≠ .live) := by
  unfold probes
  decide +kernel

theorem test_vetProbe : seen (.vetProbe 1023 15 0 0 true) probingBad
    (fun d => (ctrOf d 0x20028, ctrOf d 0x20030, d.health.watch.length)) = some (1, 1, 1) := by decide +kernel

/-- R527, R551: a spare that serves no index enters the list as no crib. -/
theorem test_vetProbe_spare : seen (.vetProbe 1023 16 0 0 true)
    { served id with banks := [(34 * 1023 + 32, { Bank.reset with state := .ready, refitBad := true })] }
    (fun d => (ctrOf d 0x20028, ctrOf d 0x20030, d.health.watch.length)) = some (1, 1, 0) := by decide +kernel

theorem test_vetRun : seen (.vetRun 1023 [0]) (vetting id)
    (fun d => (ctrOf d 0x20040, ctrOf d 0x20048)) = some (1, 1) := by decide +kernel

/-- R538: the 600th clean period ends the entry; the third failing one retires the crib to the spare. -/
theorem test_watchPeriod : (seen (.watchPeriod [(7, [])]) (watching (watch0 2 599 false)) fun d => d.health.watch.length,
    seen (.watchPeriod []) (watching (watch0 2 0 true)) fun d => (stallOf d 3).pendingSpare) =
    (some 0, some (some 5)) := by decide +kernel

/-! ### Lockstep and the management port -/

/-- A module that reports, at an address. -/
def reporter (f : Health → Health) : Dev :=
  { served (fun h => { h with step := 8 }) with health := f { Health.reset with mgmtEnable := true, addr := 0x0A000001 } }

def event0 : Event := { code := 0x30, function := 0, seqno := 1, uptime := 0, detail0 := 0, detail1 := 0, module := 0 }

/-- A fragment of one byte of a bundle of 64. -/
def fragment0 : List Byte := block 33 [(0, 4, 0x48535550), (4, 2, 1), (8, 4, 64), (12, 4, 63), (16, 2, 1), (32, 1, 9)]

/-- A fragment that is a whole bundle of 64 bytes. -/
def wholePush : List Byte := block 96 [(0, 4, 0x48535550), (4, 2, 1), (8, 4, 64), (16, 2, 64), (32, 1, 9)]

theorem witness_derier_pairs :
    (Dev.reset.health.commandDown = false ∧ Dev.reset.health.healthDown = false ∧ 1 ≠ 0) ∧
    (let d := { Dev.reset with health := { Health.reset with commandDown := true } }
     d.pad.twinOut = [] ∧ d.health.commandDown = true) ∧
    (let d := { Dev.reset with health := { Health.reset with healthDown := true } }
     d.pad.twinOut = [] ∧ d.health.healthDown = true) ∧
    (let d := reporter fun h => { h with sendQueue := [event0] }
     reporting d = true ∧ d.health.sendQueue = [event0]) ∧
    (reporting Dev.reset = false ∨ 5 ≠ Dev.reset.health.listen.toNat ∨ fragmentOk fragment0 = false) ∧
    (pairDown { Dev.reset with health := { Health.reset with healthDown := true } } 0 = false ∧
      (0 ≠ 0 ∨ pairDown { Dev.reset with health := { Health.reset with healthDown := true } } (1 - 0) = true)) ∧
    (isPush (reporter id) 0 fragment0 = true ∧ (mputs none [] (fieldAt fragment0 12 4) ((fragment0.drop 32).map some)).length ≠
      fieldAt fragment0 8 4) ∧
    (isPush (reporter id) 0 wholePush = true ∧ (mputs none [] (fieldAt wholePush 12 4) ((wholePush.drop 32).map some)).length =
      fieldAt wholePush 8 4) ∧
    (mgmtUp (reporter id) = true ∧ (reporter id).health.addr ≠ 0 ∧ mgmtUp Dev.reset = false) := by decide +kernel

theorem test_derierMismatch : ([(0, 0), (1, 0), (0, 1)].map fun p => seen (.derierMismatch p.1 p.2) Dev.reset fun d =>
    (d.health.commandDown, d.health.healthDown)) = [some (true, false), some (false, true), some (false, false)] ∧
    seen (.derierMismatch 1 2) Dev.reset (·.board.causeRecord) = some (some 5) := by decide +kernel

/-- R544: the command that was in progress has ended ABORTED. -/
theorem test_derierRestart : reply (.derierRestart 0)
    (hosting identifyCmd { Dev.reset with health := { Health.reset with commandDown := true, lost := [7] } }) =
    some (some (9, 0, 0)) := by decide +kernel

theorem test_reports : [Instr.heartbeat, .eventReport].map
    (fun c => seen c (reporter fun h => { h with sendQueue := List.replicate 5 event0 }) fun d =>
      (d.health.sendQueue.length, ctrOf d 0x20060)) = [some (5, 1), some (1, 1)] := by decide +kernel

/-- R546: a collector outside the subnet is reached through the gateway. -/
theorem test_nextHop : [(0x0A0000FF, 24), (0x0A000101, 24), (0x0A000101, 16)].map (fun p => nextHop { Health.reset with
    addr := 0x0A000001, pfx := p.2, gateway := 0x0A0000FE, collector := p.1 }) = [0x0A0000FF, 0x0A0000FE, 0x0A000101] := by
  decide +kernel

theorem test_mgmtEventDrop : seen .mgmtEventDrop (reporter fun h => { h with sendQueue := [event0] })
    (fun d => (d.health.sendQueue.length, d.health.sendOverflow, ctrOf d 0x20068)) = some (0, true, 1) := by decide +kernel

theorem test_pushFragment : seen (.pushFragment 0 fragment0 false) (reporter id)
    (fun d => (d.health.pushTotal, d.health.pushBytes)) = some (64, [(63, some 9)]) := by decide +kernel

/-- R550: a datagram to another port than LISTEN is no push. -/
theorem test_pushFragment_port : seen (.pushFragment 7 fragment0 false) (reporter id)
    (fun d => (d.health.pushTotal, d.health.pushBytes)) = some (0, []) := by decide +kernel

/-- R552: the last fragment of a bundle that does not verify: a report leaves, and the bundle is none. -/
theorem test_pushFragment_whole : seen (.pushFragment 0 wholePush false) (reporter id)
    (fun d => (d.health.pushBytes, d.out.length, d.health.vetVersion)) = some ([], 1, 0) := by decide +kernel

theorem test_frames : [0x0A000001, 0x0A000002].flatMap (fun a => [Instr.arpRequest { target := a, payload := [] },
      .icmpEcho { target := a, payload := [5] }].map fun c => seen c (reporter id) (·.out)) =
    [some [.arpReply 0x0A000001], some [.icmpReply [5]], some [], some []] := by decide +kernel

/-! ### Sense, power, resets -/

/-- A module past step 5 of its power-up, with the sense block as `f` says. -/
def sensed (f : Sense → Sense) : Dev := { served (fun h => { h with step := 8 }) with sense := f Sense.reset }

def converting (who : Requester) (n : Nat) : Dev := sensed fun s => { s with adc := some { who := who, channel := n, dac := 0 } }

/-- The last conversion of a sweep runs. -/
def sweepEnding : Dev := sensed fun s =>
  { s with adc := some { who := .sweep, channel := 63, dac := 0 }, sweepCodes := List.replicate 63 0, sweeping := true }

/-- The same, of the REFIT that command 7 is. -/
def refitEnding : Dev := hosting (modeCmd 1 2 0) { sweepEnding with
  banks := [(5, { Bank.reset with state := .live })]
  sense := { sweepEnding.sense with sweepRefit := true, refits := some (7, false, []) } }

/-- Ten seconds after the last sweep. -/
def sweepNow (adc : Option Request) : Dev :=
  { served (fun h => { h with step := 8, uptimeMs := 10000 }) with sense := { Sense.reset with adc := adc } }

theorem witness_sweeps :
    (let r : Request := { who := .host, channel := 63, dac := 5 }
     sensing (sweepNow (some r)) = true ∧ (sweepNow (some r)).sense.adc = some r ∧ sweepDue (sweepNow (some r)) = true) ∧
    (refitEnding.sense.sweepCodes.length = 63 ∧ refitEnding.sense.sweepRefit = true ∧
      refitEnding.sense.refits = some (7, false, []) ∧ cmdOf refitEnding 7 = some (modeCmd 1 2 0) ∧
      refitEnding.banks = [(5, { Bank.reset with state := .live })]) :=
  ⟨by decide +kernel, rfl, rfl, rfl, rfl, rfl⟩

theorem witness_conversions :
    (sensing (sensed id) = true ∧ (sensed id).health.healthDown = false ∧ (sweepNow none).sense.sweeping = false ∧
      (sweepNow none).sense.sweepWaiting = false ∧ (sweepNow none).sense.adc = none ∧ sweepDue (sweepNow none) = true) ∧
    (let r : Request := { who := .thermal, channel := 0, dac := 0 }
     (sensed fun s => { s with waiting := [r] }).sense.adc = none ∧ (sensed fun s => { s with waiting := [r] }).sense.waiting = [r]) ∧
    (converting .thermal 62).sense.adc = some { who := .thermal, channel := 62, dac := 0 } ∧
    (converting .check 63).sense.adc = some { who := .check, channel := 63, dac := 0 } ∧
    ((converting .sweep 63).sense.adc = some { who := .sweep, channel := 63, dac := 0 } ∧
      (converting .sweep 63).sense.sweepCodes.length < 63) ∧
    sweepEnding.sense.adc = some { who := .sweep, channel := 63, dac := 0 } ∧ sweepEnding.sense.sweepCodes.length = 63 ∧
    sweepEnding.sense.refits = none ∧ sweepEnding.sense.sweepRefit = false := by decide +kernel

/-- R557: 63 channels and, once a window, four check conversions. -/
theorem test_senseScan : seen .senseScan (sensed id) (fun d => d.sense.waiting.length) = some 67 ∧
    seen .senseScan (sensed fun s => { s with checksAsked := true }) (fun d => d.sense.waiting.length) = some 63 := by
  decide +kernel

theorem test_senseConversionStart : seen .senseConversionStart
    (sensed fun s => { s with waiting := [{ who := .thermal, channel := 5, dac := 0 }] })
    (fun d => (d.sense.adc.map (·.channel), d.sense.waiting.length)) = some (some 5, 0) := by decide +kernel

/-- R555: (raw − offset) · gain / 32,768, to nearest even, held in the channel's range. -/
theorem test_senseConversionEnd : [(3 : Int), 65535, -65535].map
    (fun raw => seen (.senseConversionEnd raw) { converting .thermal 0 with
      sense := { (converting .thermal 0).sense with corr := [(0, 0, 0x4000)] } } fun d => (mget none d.sense.live 0).map (·.sum)) =
    [some (some 2), some (some 32767), some (some (-32768))] := by decide +kernel

theorem test_calSweep : seen .calSweep (sweepNow none) (fun d => (d.sense.sweeping, d.sense.waiting.length)) =
    some (true, 64) := by decide +kernel

/-- R571: the last conversion of a REFIT's sweep gives corrections that are held for its epoch. -/
theorem test_refit_sweep : seen (.senseConversionEnd 0) refitEnding (fun d => (d.sense.heldCorr.length, d.sense.pendCorr.length,
    d.sense.refits.map (·.2.1))) = some (64, 0, some true) := by decide +kernel

theorem witness_window_ends :
    (let facts : WindowFacts := { dramTemps := [0, 0, 0, 0, 0, 0, 0, 12160] }
     sensing (sensed id) = true ∧ 7 < 8 ∧ facts.dramTemps[7]? = some 12160 ∧ 12160 ≤ (12160 : Int)) ∧
    (sensing (sensed fun s => { s with adcFail := true }) = true ∧
      (sensed fun s => { s with adcFail := true }).sense.adcFail = true) ∧
    (Dev.reset.board.powered = true ∧ sensing Dev.reset = false ∧ (Dev.reset.cribs.map Prod.fst).Nodup) := by decide +kernel

/-- R560: windows count from module reset; R577: a credit rises at the duty of the window that ends. -/
theorem test_window_counts : seen (.senseWindowEnd { dramTemps := [] })
    { Dev.reset with cribs := [(0, { Crib.reset with credit := -320000000, tick := 1250000 - 1000 })] }
    (fun d => (d.sense.window, (cribOf d 0).credit, (cribOf d 0).tick)) = some (1, -320000000 + 256000, 0) := by decide +kernel

/-- R583: a DRAM stack at its trip level shuts the module down; one below does not. -/
theorem test_senseWindowEnd : [12160, 12159].map (fun v => seen (.senseWindowEnd { dramTemps := [v] }) (sensed id)
    fun d => (d.board.tripped, d.board.powered)) = [some (true, false), some (false, true)] := by decide +kernel

def goodFacts : PowerUpFacts :=
  { markedImageOk := true, otherImageOk := true, memoryOk := true, calibrationOk := true, banksOk := true, straps := 8,
    fits := [], senseCorr := [], entries := [] }

/-- A module without power whose input has become valid. -/
def unpowered : Dev := { Dev.reset with board := { Board.reset with powered := false } }

/-- A bank tag of VERSION 1 whose digest is not zero, and one whose digest is. -/
def tag1 : BitVec 256 := BitVec.ofNat 256 (2 ^ 232 + 5)
def tag0 : BitVec 256 := BitVec.ofNat 256 (2 ^ 232)

/-- R387: VERSION 1 and a DIGEST that is not zero. -/
theorem test_tagValid : [tag1, tag0, 5].map tagValid = [true, false, false] := by decide +kernel

/-- R130: a bank with a valid tag is Ready with its fit or Stale without one; a bank without is Empty. -/
theorem test_powerUp_fits : seen (.powerUp { goodFacts with fits := [(6, none)] })
    { unpowered with banks := [(5, { Bank.reset with tag := tag1 }), (6, { Bank.reset with tag := tag1 }),
        (7, { Bank.reset with tag := tag0, state := .ready })] }
    (fun d => [5, 6, 7].map fun k => (bankOf d k).state) = some [.ready, .stale, .empty] := by decide +kernel

theorem witness_power :
    (let d := sensed fun s => { s with lock := 0x3FF }
     d.board.powered = true ∧ d.sense.lock.getLsbD 0 = true ∧ d.sense.lock.getLsbD 9 = true ∧ d.sense.lock.getLsbD 6 = true ∧
      d.sense.lock.getLsbD (7 + 15 / 8) = true) ∧
    (65000 ≤ 65000 ∧ ((5 ≤ 5 : Prop) ∨ (52000 ≤ 65000 ∧ 65000 ≤ 58000))) ∧
    ((51999 < 52000 ∨ (58000 < 51999 ∧ 51999 ≤ 65000)) ∧ 5 < 6) ∧ (999 < 1000 ∧ 10000 ≤ 10000) ∧
    ({ Dev.reset with board := { Board.reset with resetLow := true } } : Dev).board.resetLow = true ∧
    (unpowered.board.resetLow = false ∧ unpowered.board.tripped = false ∧ unpowered.board.powered = false ∧
      unpowered.board.perstLow = false ∧ bootImage goodFacts = some false ∧ goodFacts.memoryOk = true ∧
      goodFacts.calibrationOk = true ∧ goodFacts.banksOk = true ∧ (unpowered.banks.map Prod.fst).Nodup) ∧
    bootImage { goodFacts with markedImageOk := false, otherImageOk := false } = none := by decide +kernel

/-- A pulse of RESET_N between 1 and 10 µs, and its release while the input is out of range. -/
theorem witness_short_pulse :
    (1000 ≤ 1000 ∧ 1000 < 10000) ∧
    (let d : Dev := { Dev.reset with board := { Board.reset with resetLow := true, inputValid := false } }
     d.board.resetLow = true ∧ d.board.inputValid = false) := by decide +kernel

theorem test_pllUnlock : [0, 6, 9].map (fun n => seen (.pllUnlock n) (sensed fun s => { s with lock := 0x3FF })
    fun d => (d.host.state, d.host.linkUp)) = [some (.booting, false), some (.running, false), some (.booting, false)] := by
  decide +kernel

/-- R616 and R605: beyond the ratings the machine stops; out of range past 5 µs it loses its power. -/
theorem test_inputOutOfRange_ratings :
    exec (.inputOutOfRange 72001 1) { pending := [], dev := Dev.reset } = .fault .outsideRatings ∧
    exec (.inputOutOfRange 65001 10001) { pending := [], dev := Dev.reset } = .fault .outsideRatings := ⟨rfl, rfl⟩

theorem test_inputOutOfRange : [(65001, 10000), (51999, 5), (58001, 6)].map
    (fun p => seen (.inputOutOfRange p.1 p.2) Dev.reset (·.board.powered)) = [some false, some true, some false] := by
  decide +kernel

theorem test_resetN : (seen (.resetNAssert 10000) Dev.reset fun d => (d.board.powered, d.board.resetLow),
    seen .resetNRelease { Dev.reset with board := { Board.reset with resetLow := true } } fun d => (d.board.resetLow, d.board.cause)) =
    (some (false, true), some (false, 1)) := by decide +kernel

/-- R589 to R591: to the handshake; and FAIL 2, 3, 4 and 4 at steps 3 to 6. -/
theorem test_powerUp : [goodFacts, { goodFacts with markedImageOk := false, otherImageOk := false },
      { goodFacts with memoryOk := false }, { goodFacts with calibrationOk := false },
      { goodFacts with banksOk := false }].map
    (fun f => seen (.powerUp f) Dev.reset fun d => (d.host.step, d.host.fail)) =
    [some (8, 0), some (3, 2), some (4, 3), some (5, 4), some (6, 4)] := by decide +kernel

theorem test_powerUp_refused : exec (.powerUp goodFacts)
    { pending := [], dev := { Dev.reset with board := { Board.reset with tripped := true } } } =
      .refused (.notEnabled "POWER_UP") := rfl

/-! ### int32 accumulation -/

/-- Each clause of R253 and R254 at a boundary: the largest normal sum, one above it, one below the least, the sentinels, and
the products that pass each end. -/
theorem witness_sentinels :
    (isNormal 0x7FFFFFFE = true ∧ isNormal 0x80000002 = true ∧ isNormal 0 = true ∧ psat ≠ conf ∧ nsat ≠ conf) ∧
    ((satAddI 0x7FFFFFFD 1).toInt = 2 ^ 31 - 2 ∧ satAddI 0x7FFFFFFE 1 = psat ∧ satAddI 0x80000002 0xFFFFFFFF = nsat) ∧
    (satAddI psat nsat = conf ∧ satAddI psat 0x80000002 = psat ∧ satAddI nsat nsat = nsat ∧ satAddI conf 0 = conf) ∧
    (mulI psat 0 = conf ∧ mulI psat nsat = nsat ∧ mulI nsat 0xFFFFFFFF = psat ∧ mulI 0x8000 0x10000 = psat ∧
      mulI 0x8000 0xFFFF0000 = nsat ∧ negI psat = nsat) := by decide +kernel

/-! ### The machine -/

theorem witness_machine :
    (∃ t, exec .resetNRelease { pending := [], dev := { Dev.reset with board := { Board.reset with resetLow := true } } } =
      .next t) ∧
    (72000 < 72001 ∨ (65000 < 72001 ∧ 10000 < 1)) ∧ (72000 < 65001 ∨ (65000 < 65001 ∧ 10000 < 10001)) :=
  ⟨⟨_, rfl⟩, by decide⟩

/-- The state after reset meets the invariants, and a step leads on from it. -/
theorem witness_invariants :
    (Canonical State.reset.dev ∧ (16 ≤ State.reset.dev.sense.duty ∧ State.reset.dev.sense.duty ≤ 256) ∧
      (4 ≤ State.reset.dev.sense.gate ∧ State.reset.dev.sense.gate ≤ 16)) ∧
    ∃ t, step { State.reset with pending := [.powerUp goodFacts] } = .next t :=
  ⟨by delta Canonical; decide +kernel, _, rfl⟩

/-- A VADD V1, V2, V3 and a HALT read as R144 and R146 say, and 0xFF is no opcode. -/
theorem test_words : ((insOf 0x200420C000000000).op, [(insOf 0x200420C000000000).d, (insOf 0x200420C000000000).a,
    (insOf 0x200420C000000000).b], (insOf 0x7700000000000000).op, opcodes.contains (insOf 0xFF00000000000000).op) =
    (0x20, [1, 2, 3], 0x77, false) := by decide +kernel

/-! ### Well-formed commands -/

/-- One ill-formed command for each check of `wellFormed`, refused by it. -/
theorem test_ill_formed : ([.vadd 1024, .cribMvm 1024, .residue 0 4096, .holdResend 65536 0, .holdResend 0 1024,
    .groomScrub (.dram 8 0) [] false, .groomScrub (.dram 0 0x50000000) [] false, .groomScrub (.sram 0 0 3072) [] false,
    .groomScrub (.sram 0 1 2048) [] false, .groomScrub (.sram 0 2 1024) [] false, .groomScrub (.sram 0 3 512) [] false,
    .groomScrub (.sram 0 5 0) [] false, .groomScrub (.sram 1024 0 0) [] false, .loftScrub 4 0 [], .loftScrub 0 0x100000000 []] :
      List Instr).all (fun c => !wellFormed c) = true ∧
    ([.pageAllocate 65536 0, .pageAllocate 0 256, .attnJobStart 4 0, .bankProgramDone 34816 [], .stageResult 80 0,
      .lockstep 0 4096, .mboxDoorbell 1 [[]] none true,
      .packetReceive 0 { seq := 0, crcOk := true, fecOk := true, fecCorrected := 0, body := .ack 4096 },
      .packetReceive 0 { seq := 0, crcOk := true, fecOk := true, fecCorrected := 0, body := .message 80 0 .stopAll },
      .packetReceive 0 { seq := 0, crcOk := true, fecOk := true, fecCorrected := 0
                         body := .request { netPut with data := List.replicate 513 0 } 0 }, .commandFetch 65536 none [] none true, .commandFetch 0 (some []) [] none true, .doorbell 129 0 0, .doorbell 0 65536 0, .bar2Resize 29, .bar2Resize 40,
      .registerRead 129 0 8, .functionLevelReset 129, .forwardedCommand 0 0 [] none 0, .codewordLock 16,
      .cribStart 0 0 1250000, .referenceRead 0 0 0 1250000, .pushFragment 65536 [] false,
      .groomScrub (.sram 0 4 544) [] false, .groomScrub (.correction 1024 0) [] false, .groomScrub (.correction 0 34) [] false,
      .packetReceive 0 { seq := 0, crcOk := true, fecOk := true, fecCorrected := 0
                         body := .piece 0 1 0 0 .stopAll (List.replicate 513 0) },
      .trainingExchange 0 16 0, .replayRequest 0 4096, .moduleEpochReport 80 0, .sampleCheck 0 17 true,
      .vetProbe 0 0 2 0 true, .epochRetire 0 [80], .derierMismatch 2 0, .pllUnlock 10] : List Instr).all (fun c => !wellFormed c) = true := by
  decide +kernel

theorem test_well_formed : ([.vadd 1023, .bar2Resize 30, .bar2Resize 39, .stageResult 79 0, .doorbell 128 65535 0, .pllUnlock 9,
    .sampleCheck 1023 16 true, .forwardedCommand 0 128 nopDesc none 0, .epochRetire 0 [0, 79],
    .cribStart 1023 0 1249999, .groomScrub (.sram 1023 4 543) [] true, .groomScrub (.correction 1023 33) [] true,
    .pushFragment 65535 [] true] : List Instr).all wellFormed = true := by decide +kernel

end Sys2Proof.Tests
end

section
/-! The event counters and their register slots (R14): how a count adds, what clears a counter, and what the PF's write of its
slot does. -/

namespace Sys2Proof.Machine

open Sys2Proof

/-! ### Counts -/

/-- A count adds up to the all-ones value and stays there. -/
theorem satAdd_toNat (c : W32) (n : Nat) : (satAdd c n).toNat = min (c.toNat + n) (2 ^ 32 - 1) := by
  rw [satAdd, BitVec.toNat_ofNat, Nat.mod_eq_of_lt (by omega)]

/-- A counter cleared; every other one as before. -/
theorem ctrOf_clearCtr (d : Dev) (o k : Nat) : ctrOf (clearCtr d o) k = if k = o then 0 else ctrOf d k :=
  mget_mput 0 d.ctr o k 0

/-! ### Where the counters stand -/

/-- Every event counter fills the low half of an aligned slot of the register window (R418, R419). -/
theorem isCounter_place {off : Nat} (h : isCounter off = true) : off % 8 = 0 ∧ off < 0x1000000 := by
  simp only [isCounter, stallCounter, List.contains_iff_mem, List.mem_cons, List.not_mem_nil, or_false, Bool.or_eq_true,
    Bool.and_eq_true, decide_eq_true_eq, beq_iff_eq] at h
  rcases h with (((((h | h) | h) | h) | h) | h) | h <;> omega

/-- The slot that holds a counter is named by the counter's own offset. -/
theorem isCounter_slot {off : Nat} (h : isCounter off = true) : off / 8 * 8 = off :=
  Nat.div_mul_cancel (Nat.dvd_of_mod_eq_zero (isCounter_place h).1)

/-- A register whose write has a row of its own is no event counter. -/
theorem isCounter_of_ownRow {off : Nat} (h : ownRow off = true) : isCounter off = false := by
  rw [ownRow, List.contains_iff_mem] at h
  revert off
  decide

theorem ownRow_of_isCounter {off : Nat} (h : isCounter off = true) : ownRow off = false :=
  Bool.eq_false_iff.mpr fun ho => absurd h (Bool.eq_false_iff.mp (isCounter_of_ownRow ho))

/-! ### Reads and writes of a counter's slot -/

/-- A read of a counter's slot returns the count. -/
theorem readSlot_counter {off : Nat} (h : isCounter off = true) (d : Dev) :
    readSlot d off = (ctrOf d off).setWidth 64 := by
  rw [readSlot, regAt, if_pos h, Option.getD_some, BitVec.ofNat_toNat]

/-- Of a word's 64 bits the low 32 decide whether a counter is cleared. -/
theorem allOnes_setWidth (v : W32) : allOnes (v.setWidth 64) = true ↔ v = BitVec.allOnes 32 := by
  rw [allOnes, BitVec.setWidth_setWidth_of_le _ (by decide), BitVec.setWidth_eq, beq_iff_eq]

/-- A write of a counter's slot clears it where all ones are written, and else does nothing. -/
theorem writeSlot_counter {off : Nat} (h : isCounter off = true) (d : Dev) (width : Nat) (value : W64) :
    writeSlot d off width value = if allOnes value then clearCtr d off else d := by
  simp only [writeSlot, isCounter_slot h, h, (isCounter_place h).1, if_true, true_and]

/-- The PF's 4-byte write of a counter that answers is a write of its slot. -/
theorem bar0Write_counter {off : Nat} (h : isCounter off = true) {d : Dev} (ha : answers d off = true) (value : W64) :
    bar0Write d 0 off 4 value = some (if allOnes value then clearCtr d off else d) := by
  simp [bar0Write, (isCounter_place h).2, ha, isCounter_slot h, ownRow_of_isCounter h, writeSlot_counter h]

/-- The one spec lemma of REGISTER_WRITE at a counter. -/
theorem registerWrite_counter {off : Nat} (h : isCounter off = true) {s : State} (ha : answers s.dev off = true)
    (value : W64) :
    exec (.registerWrite 0 off 4 value) s = .next { s with dev :=
      { (if allOnes value then clearCtr s.dev off else s.dev) with draws := s.dev.draws + 1 } } := by
  have hg : goodAccess off 4 = true := by
    have := (isCounter_place h).1
    simp only [goodAccess, beq_self_eq_true, Bool.true_or, Bool.true_and, beq_iff_eq]
    omega
  show execRegisterWrite 0 off 4 value s = _
  simp only [execRegisterWrite, onDev, hg, if_true, bar0Write_counter h ha]
  split <;> rfl

/-- Settles O42: counts saturate by `satAdd_toNat`, and the PF's write of a counter's slot either clears that counter or
leaves the module as it is, by `registerWrite_counter`. -/
theorem eventCountersSaturateAndClear : Obligations.EventCountersSaturateAndClear := by
  intro off hoff
  refine ⟨fun d n => ⟨?_, fun o ho => ?_⟩, readSlot_counter hoff, fun v s ha => ?_⟩
  · rw [ctrOf_bumpBy, if_pos rfl, satAdd_toNat]
  · rw [ctrOf_bumpBy, if_neg ho]
  · refine ⟨_, registerWrite_counter hoff ha _, rfl, ?_⟩
    simp only [allOnes_setWidth]
    split
    · exact ⟨rfl, (ctrOf_clearCtr ..).trans (if_pos rfl), fun o ho => (ctrOf_clearCtr ..).trans (if_neg ho)⟩
    · exact ⟨rfl, rfl, fun _ _ => rfl⟩

end Sys2Proof.Machine
end

section
/-! int32 arithmetic with its sentinels (R251 to R254): which codes are normal, what `sat32` gives on each side of its range,
and a rule of sum and product for each kind of operand. -/

namespace Sys2Proof.Machine

open Sys2Proof

variable {a b : W32}

/-! ### Normal values and sentinels -/

@[simp] theorem psat_toInt : psat.toInt = 2 ^ 31 - 1 := by decide

@[simp] theorem nsat_toInt : nsat.toInt = -(2 ^ 31) := by decide

@[simp] theorem conf_toInt : conf.toInt = -(2 ^ 31) + 1 := by decide

@[simp] theorem psat_ne_nsat : psat ≠ nsat := by decide

@[simp] theorem psat_ne_conf : psat ≠ conf := by decide

@[simp] theorem nsat_ne_conf : nsat ≠ conf := by decide

theorem isNormal_iff : isNormal a = true ↔ a ≠ psat ∧ a ≠ nsat ∧ a ≠ conf := by
  simp [isNormal, and_assoc]

/-- The normal values are the codes strictly between conflict and +saturated (R251). -/
theorem isNormal_iff_toInt : isNormal a = true ↔ -(2 ^ 31) + 2 ≤ a.toInt ∧ a.toInt ≤ 2 ^ 31 - 2 := by
  have hlow := a.le_toInt
  have hhigh := a.toInt_lt
  simp only [isNormal_iff, ne_eq, ← BitVec.toInt_inj, psat_toInt, nsat_toInt, conf_toInt]
  omega

theorem toInt_pos_iff (h : b ≠ 0) : 0 < b.toInt ↔ 0 ≤ b.toInt := by
  have hb : b.toInt ≠ 0 := fun h0 => h (BitVec.eq_of_toInt_eq h0)
  omega

/-! ### `sat32` (R252) -/

theorem sat32_above {v : Int} (h : 2 ^ 31 - 2 < v) : sat32 v = psat := if_pos h

theorem sat32_below {v : Int} (h : v < -(2 ^ 31) + 2) : sat32 v = nsat := by
  rw [sat32, if_neg (by omega), if_pos h]

theorem sat32_toInt {v : Int} (hlow : -(2 ^ 31) + 2 ≤ v) (hhigh : v ≤ 2 ^ 31 - 2) : (sat32 v).toInt = v := by
  rw [sat32, if_neg (by omega), if_neg (by omega), BitVec.toInt_ofInt_eq_self (by decide) (by omega) (by omega)]

theorem isNormal_sat32 {v : Int} (hlow : -(2 ^ 31) + 2 ≤ v) (hhigh : v ≤ 2 ^ 31 - 2) : isNormal (sat32 v) = true := by
  rw [isNormal_iff_toInt, sat32_toInt hlow hhigh]
  exact ⟨hlow, hhigh⟩

/-! ### Sums and negation (R253) -/

theorem satAddI_comm (a b : W32) : satAddI a b = satAddI b a := by
  simp only [satAddI, or_comm, and_comm, Int.add_comm]

theorem satAddI_conf (h : a = conf ∨ b = conf) : satAddI a b = conf := if_pos h

theorem satAddI_psat_nsat : satAddI psat nsat = conf := by decide

theorem satAddI_psat (h : b = psat ∨ isNormal b = true) : satAddI psat b = psat := by
  rcases h with rfl | hb
  · decide
  · obtain ⟨-, hnsat, hconf⟩ := isNormal_iff.mp hb
    simp [satAddI, hnsat, hconf]

theorem satAddI_nsat (h : b = nsat ∨ isNormal b = true) : satAddI nsat b = nsat := by
  rcases h with rfl | hb
  · decide
  · obtain ⟨hpsat, -, hconf⟩ := isNormal_iff.mp hb
    simp [satAddI, hpsat, hconf, psat_ne_nsat.symm]

theorem satAddI_normal (ha : isNormal a = true) (hb : isNormal b = true) : satAddI a b = sat32 (a.toInt + b.toInt) := by
  obtain ⟨hap, han, hac⟩ := isNormal_iff.mp ha
  obtain ⟨hbp, hbn, hbc⟩ := isNormal_iff.mp hb
  simp [satAddI, hap, han, hac, hbp, hbn, hbc]

/-- The integer that has no negation in 32 bits is -saturated, so a normal value is negated exactly. -/
theorem negI_toInt (h : isNormal a = true) : (negI a).toInt = -a.toInt := by
  obtain ⟨hpsat, hnsat, hconf⟩ := isNormal_iff.mp h
  rw [negI, if_neg hpsat, if_neg hnsat, if_neg hconf, BitVec.toInt_neg_of_ne_intMin hnsat]

/-! ### Products (R254) -/

theorem mulI_comm (a b : W32) : mulI a b = mulI b a := by
  simp only [mulI, or_comm, Bool.and_comm, Int.mul_comm, eq_comm]

theorem mulI_conf (h : a = conf ∨ b = conf) : mulI a b = conf := if_pos h

theorem mulI_normal (ha : isNormal a = true) (hb : isNormal b = true) : mulI a b = sat32 (a.toInt * b.toInt) := by
  obtain ⟨-, -, hac⟩ := isNormal_iff.mp ha
  obtain ⟨-, -, hbc⟩ := isNormal_iff.mp hb
  simp [mulI, hac, hbc, ha, hb]

theorem mulI_saturated_zero (h : a = psat ∨ a = nsat) : mulI a 0 = conf := by
  rcases h with rfl | rfl <;> decide

theorem mulI_sentinel (ha : isNormal a = false) (ha0 : a ≠ 0) (hac : a ≠ conf) (hbc : b ≠ conf) (hb0 : b ≠ 0) :
    mulI a b = if (a.toInt < 0) = (b.toInt < 0) then psat else nsat := by
  rw [mulI, if_neg (not_or.mpr ⟨hac, hbc⟩), if_neg (by simp [ha]), if_neg (not_or.mpr ⟨ha0, hb0⟩)]

theorem mulI_psat (hbc : b ≠ conf) (hb0 : b ≠ 0) : mulI psat b = if 0 < b.toInt then psat else nsat := by
  rw [mulI_sentinel (by decide) (by decide) (by decide) hbc hb0]
  simp [toInt_pos_iff hb0]

theorem mulI_nsat (hbc : b ≠ conf) (hb0 : b ≠ 0) : mulI nsat b = if b.toInt < 0 then psat else nsat := by
  rw [mulI_sentinel (by decide) (by decide) (by decide) hbc hb0]
  simp

/-- The sign rule of a saturated factor, in the one form O55 has for both. -/
theorem mulI_saturated (h : a = psat ∨ a = nsat) (hbc : b ≠ conf) (hb0 : b ≠ 0) :
    mulI a b = if (a = psat ∧ 0 < b.toInt) ∨ (a = nsat ∧ b.toInt < 0) then psat else nsat := by
  rcases h with rfl | rfl
  · simp [mulI_psat hbc hb0]
  · simp [mulI_nsat hbc hb0, psat_ne_nsat.symm]

/-! ### The obligation -/

/-- Settles O55, clause by clause from the rules of sum, negation and product; the swapped forms are by commutativity. -/
theorem sentinelArithmetic : Obligations.SentinelArithmetic := by
  refine ⟨fun a b => ⟨satAddI_conf, ?_, ?_, ?_, fun ha hb => ?_⟩, fun a => ⟨negI_toInt, rfl, rfl, rfl⟩,
    fun a b => ⟨mulI_conf, ?_, fun ha hbc hb0 => ⟨mulI_saturated ha hbc hb0, mulI_comm b a⟩, mulI_normal⟩⟩
  · rintro rfl rfl
    exact ⟨satAddI_psat_nsat, (satAddI_comm ..).trans satAddI_psat_nsat⟩
  · rintro rfl hb
    exact ⟨satAddI_psat hb, (satAddI_comm ..).trans (satAddI_psat hb)⟩
  · rintro rfl hb
    exact ⟨satAddI_nsat hb, (satAddI_comm ..).trans (satAddI_nsat hb)⟩
  · rw [satAddI_normal ha hb]
    exact ⟨sat32_above, sat32_below, fun hlow hhigh => ⟨sat32_toInt hlow hhigh, isNormal_sat32 hlow hhigh⟩⟩
  · rintro ha rfl
    exact ⟨mulI_saturated_zero ha, (mulI_comm ..).trans (mulI_saturated_zero ha)⟩

end Sys2Proof.Machine
end


section
/-! What every step keeps (O58, O59): the canonical form of the memories with the order of the command ids, and the ranges of the
limiter's controls. `Keeps b d` says that `d` holds of the two what `b` does; each operation of the model has one lemma, whose
proof follows the branches of its definition. -/

namespace Sys2Proof.Machine

open Sys2Proof

-- One proof after another: side by side, these many proofs want more threads than the memory limit leaves room for.
set_option Elab.async false

/-- The limiter's controls lie in their ranges (R576, R579). -/
abbrev LimiterOk (s : Sense) : Prop := (16 ≤ s.duty ∧ s.duty ≤ 256) ∧ (4 ≤ s.gate ∧ s.gate ≤ 16)

/-- What holds of `d` of the two invariants holds of `e`. -/
structure Keeps (d e : Dev) : Prop where
  canonical : Canonical d → Canonical e
  limiter : LimiterOk d.sense → LimiterOk e.sense

variable {b d : Dev}

theorem Keeps.refl (d : Dev) : Keeps d d := ⟨id, id⟩
theorem Keeps.trans {d e f : Dev} (h : Keeps d e) (g : Keeps e f) : Keeps d f :=
  ⟨fun x => g.1 (h.1 x), fun x => g.2 (h.2 x)⟩

/-- A fold keeps what each of its steps keeps. -/
theorem keeps_foldl {α : Type} {f : Dev → α → Dev} {l : List α} (hf : ∀ d a, Keeps b d → Keeps b (f d a)) (h : Keeps b d) :
    Keeps b (l.foldl f d) := foldl_keeps (P := Keeps b) hf l d h

theorem keeps_foldl_fst {α β : Type} {f : Dev × β → α → Dev × β} {l : List α} {p : Dev × β}
    (hf : ∀ p a, Keeps b p.1 → Keeps b (f p a).1) (h : Keeps b p.1) : Keeps b (l.foldl f p).1 := by
  induction l generalizing p with
  | nil => exact h
  | cons a l ih => exact ih (hf p a h)

/-- What may come of it keeps the invariants. -/
def OptKeeps (b : Dev) (o : Option Dev) : Prop := ∀ e, o = some e → Keeps b e

/-- An issue keeps the invariants where it has an effect. -/
def IssueKeeps (b : Dev) : Issue → Prop
  | .go e _ => Keeps b e
  | .stay e => Keeps b e
  | _ => True

theorem keeps_of_some {o : Option Dev} (e : o = some d) (h : OptKeeps b o) : Keeps b d := h d e
theorem keeps_of_pair {β : Type} {p : Dev × β} {x : β} (e : p = (d, x)) (h : Keeps b p.1) : Keeps b d := by subst e; exact h
theorem keeps_of_go {r : Issue} {n} (e : r = .go d n) (h : IssueKeeps b r) : Keeps b d := by subst e; exact h
theorem keeps_of_stay {r : Issue} (e : r = .stay d) (h : IssueKeeps b r) : Keeps b d := by subst e; exact h
theorem keeps_ite {c : Prop} [Decidable c] {e : Dev} (h : Keeps b d) (g : Keeps b e) : Keeps b (if c then d else e) := by
  split
  · exact h
  · exact g
theorem keeps_pair {β : Type} {x : β} (h : Keeps b d) : Keeps b (d, x).1 := h
theorem optKeeps_none : OptKeeps b none := by simp [OptKeeps]
theorem optKeeps_some (h : Keeps b d) : OptKeeps b (some d) := by simpa [OptKeeps]
theorem optKeeps_ite {c : Prop} [Decidable c] {o p : Option Dev} (h : OptKeeps b o) (g : OptKeeps b p) :
    OptKeeps b (if c then o else p) := by
  split
  · exact h
  · exact g
theorem issueKeeps_ite {c : Prop} [Decidable c] {r s : Issue} (h : IssueKeeps b r) (g : IssueKeeps b s) :
    IssueKeeps b (if c then r else s) := by
  split
  · exact h
  · exact g
theorem issueKeeps_go {n} (h : Keeps b d) : IssueKeeps b (.go d n) := h
theorem issueKeeps_stay (h : Keeps b d) : IssueKeeps b (.stay d) := h
theorem issueKeeps_fault {c e} : IssueKeeps b (.fault c e) := trivial
theorem issueKeeps_wait {w} : IssueKeeps b (.wait w) := trivial

/-- The ids are in order where no command has changed its id. -/
theorem cidsOk_of_sublist {l : List Cmd} (hl : (l.map (·.cid)).Sublist (d.host.cmds.map (·.cid))) (h : CidsOk d) :
    CidsOk (setCmds d l) := by
  refine ⟨h.1.sublist hl, fun c hc => ?_⟩
  obtain ⟨x, hx, he⟩ := List.mem_map.mp (hl.subset (List.mem_map_of_mem hc))
  have hlt : x.cid < d.host.nextCid := h.2 x hx
  rwa [he] at hlt

theorem cidsOk_map {f : Cmd → Cmd} (hf : ∀ c, (f c).cid = c.cid) : CidsOk d → CidsOk (setCmds d (d.host.cmds.map f)) :=
  cidsOk_of_sublist (by simp [List.map_map, Function.comp_def, hf])

theorem cidsOk_mapFilter {p : Cmd → Bool} {f : Cmd → Cmd} (hf : ∀ c, (f c).cid = c.cid) :
    CidsOk d → CidsOk (setCmds d ((d.host.cmds.filter p).map f)) :=
  cidsOk_of_sublist (by simpa [List.map_map, Function.comp_def, hf] using List.filter_sublist.map _)

/-- A window's step of the limiter leaves its controls in their ranges (R579). -/
theorem limiterOk_limiterWindow {s : Sense} {p : Ratio} {l : Nat} (h : LimiterOk s) : LimiterOk (limiterWindow s p l) := by
  obtain ⟨⟨h1, h2⟩, h3, h4⟩ := h
  unfold limiterWindow
  split
  · split
    · exact ⟨⟨le_max_left .., by simp only; omega⟩, h3, h4⟩
    · split
      · exact ⟨⟨h1, h2⟩, by simp only; omega, by simp only; omega⟩
      · exact ⟨⟨h1, h2⟩, h3, h4⟩
  · split
    · split
      · exact ⟨⟨h1, h2⟩, by simp only; omega, by simp only; omega⟩
      · exact ⟨⟨by simp only; omega, min_le_left ..⟩, h3, h4⟩
    · exact ⟨⟨h1, h2⟩, h3, h4⟩

/-! ### The operations that write what the invariants speak of -/

section
variable (h : Keeps b d)
include h

theorem keeps_frame {dr st cr ba op ni an fe pa he bo ou dErr dBad dFail dRemap dUe lErr lBad lUe rec wear worn
    wi ge groom per lay hstate hstep hfail up hl nb nbl md mc mp b2 b2l seqno mx mxp quota link srv cfg}
    {s : Sense} (hs : s.duty = d.sense.duty := by rfl) (hg : s.gate = d.sense.gate := by rfl) :
    Keeps b { d with
      draws := dr, stalls := st, cribs := cr, banks := ba, ops := op, nextId := ni, attn := an, feed := fe, pad := pa
      health := he, board := bo, out := ou, sense := s
      mem := { d.mem with
        dramErr := dErr, dramBad := dBad, dramFailing := dFail, dramRemap := dRemap, dramUe := dUe, loftErr := lErr
        loftBad := lBad, loftUe := lUe, record := rec, wear := wear, wornSent := worn, wearIndex := wi, gateErr := ge
        groomEnable := groom, groomPeriod := per, layout := lay }
      host := { d.host with
        state := hstate, step := hstep, fail := hfail, uptimeMs := up, hsLayout := hl, hsNb := nb, nbLog2 := nbl
        mboxDesc := md, mboxCpl := mc, mboxPhase := mp, bar2Base := b2, bar2Log2 := b2l, seqno := seqno, msix := mx
        msixPending := mxp, quota := quota, linkUp := link, serving := srv, cfg := cfg } } :=
  ⟨fun x => h.1 x, fun x => by simpa only [LimiterOk, hs, hg] using h.2 x⟩

theorem keeps_withServing {x} : Keeps b { d with host := { d.host with serving := x } } := keeps_frame h
theorem keeps_withAttn {a} : Keeps b { d with attn := a } := keeps_frame h
theorem keeps_bumpBy {o n} : Keeps b (bumpBy d o n) := ⟨fun x => canonical_bumpBy _ _ (h.1 x), h.2⟩
theorem keeps_bumpUnless {c : Prop} [Decidable c] {o n} : Keeps b (if c then d else bumpBy d o n) :=
  keeps_ite h (keeps_bumpBy h)
theorem keeps_clearCtr {o} : Keeps b (clearCtr d o) := ⟨fun x => canonical_clearCtr _ (h.1 x), h.2⟩
theorem keeps_setRing {r x} : Keeps b (setRing d r x) := ⟨fun y => canonical_setRing _ _ (h.1 y), h.2⟩
theorem keeps_putCmd {c} : Keeps b (putCmd d c) := ⟨fun x => canonical_putCmd _ (h.1 x), h.2⟩
theorem keeps_dropCmd {c} : Keeps b (dropCmd d c) := ⟨fun x => canonical_dropCmd _ (h.1 x), h.2⟩
theorem keeps_addCmd {fn ring desc heads data ok n lead} : Keeps b (addCmd d fn ring desc heads data ok n lead) :=
  ⟨fun x => canonical_addCmd _ _ _ _ _ _ _ _ (h.1 x), h.2⟩
theorem keeps_zeroPrefixTable : Keeps b (zeroPrefixTable d) := ⟨fun x => canonical_zeroPrefixTable (h.1 x), h.2⟩
theorem keeps_moduleReset {r} : Keeps b (moduleReset d r) := by
  refine ⟨fun x => canonical_moduleReset r (h.1 x), fun _ => ?_⟩
  rw [LimiterOk, show (moduleReset d r).sense.duty = 256 from rfl, show (moduleReset d r).sense.gate = 16 from rfl]
  decide
theorem keeps_setMem {m} (hm : d.mem.wf → m.wf) : Keeps b (setMem d m) :=
  ⟨fun x => ⟨hm (h.1 x).1, (h.1 x).2⟩, h.2⟩
theorem keeps_setSense {s} (hs : LimiterOk d.sense → LimiterOk s) : Keeps b (setSense d s) := ⟨h.1, fun x => hs (h.2 x)⟩
theorem keeps_setCmds {l} (hl : CidsOk d → CidsOk (setCmds d l)) : Keeps b (setCmds d l) :=
  ⟨fun x => ⟨(h.1 x).1, (h.1 x).2.1, (h.1 x).2.2.1, hl (h.1 x).2.2.2⟩, h.2⟩

/-! ### Ops -/

theorem keeps_setStall {st x} : Keeps b (setStall d st x) := keeps_frame h
theorem keeps_modStall {st f} : Keeps b (modStall d st f) := keeps_setStall h
theorem keeps_setBank {k x} : Keeps b (setBank d k x) := keeps_frame h
theorem keeps_modBank {k f} : Keeps b (modBank d k f) := keeps_setBank h
theorem keeps_setCrib {k x} : Keeps b (setCrib d k x) := keeps_frame h
theorem keeps_bump {off} : Keeps b (bump d off) := keeps_bumpBy h
theorem keeps_emit {o} : Keeps b (emit d o) := keeps_frame h
theorem keeps_setPad {p} : Keeps b (setPad d p) := keeps_frame h
theorem keeps_setPort {p x} : Keeps b (setPort d p x) := keeps_frame h
theorem keeps_sendPacket {p body} : Keeps b (sendPacket d p body) := by
  unfold sendPacket
  dsimp only
  refine keeps_ite ?_ ?_
  · exact keeps_emit (keeps_setPort h)
  · exact keeps_setPort h
theorem keeps_sendTo {m stall addr body} : Keeps b (sendTo d m stall addr body) := by
  unfold sendTo
  split
  · exact h
  · exact keeps_sendPacket h
  · exact keeps_sendPacket h
theorem keeps_sendWhole {dst m f} (hf : ∀ d a, Keeps b d → Keeps b (f d a)) : Keeps b (sendWhole d dst m f) := by
  unfold sendWhole
  refine keeps_foldl hf ?_
  refine keeps_ite ?_ ?_
  · exact h
  · exact keeps_setPad h
theorem keeps_sendMsg {dst m} : Keeps b (sendMsg d dst m) := keeps_sendWhole h fun _ _ h => keeps_sendTo h
theorem keeps_sendTwin {m} : Keeps b (sendTwin d m) := by
  unfold sendTwin
  split
  · exact keeps_sendWhole h fun _ _ h => keeps_sendPacket h
  · exact h
theorem keeps_sendMsix {fn vector} : Keeps b (sendMsix d fn vector) := by
  unfold sendMsix
  dsimp only
  refine keeps_ite ?_ ?_
  · exact keeps_frame h
  · exact keeps_emit (keeps_frame h)
omit h in
theorem keeps_eventToRing {e p r} (h : Keeps b p.1) : Keeps b (eventToRing e p r).1 := by
  unfold eventToRing
  split
  · exact h
  · split
    · exact keeps_bump (keeps_setRing h)
    · split
      · exact keeps_setRing h
      · exact keeps_sendMsix (keeps_emit (keeps_setRing h))
theorem keeps_writeEvent {cls e} : Keeps b (writeEvent d cls e).1 := by
  unfold writeEvent
  dsimp only
  split
  · split
    · exact keeps_bump h
    · exact keeps_foldl_fst (fun _ _ h => keeps_eventToRing h) h
  · split
    · exact keeps_bump h
    · exact keeps_foldl_fst (fun _ _ h => keeps_eventToRing h) h
theorem keeps_passEvent {cls e} : Keeps b (passEvent d cls e).1 := by
  unfold passEvent
  split
  · split
    · exact keeps_bump h
    · exact keeps_sendMsg h
  · exact keeps_writeEvent h
theorem keeps_raiseOne {q} : Keeps b (raiseOne d q).1 := by
  unfold raiseOne
  refine keeps_passEvent ?_
  split <;> exact keeps_frame h
theorem keeps_raiseAll {n l} : Keeps b (raiseAll n d l) := by
  induction n generalizing d l with
  | zero => exact h
  | succ n ih =>
    cases l with
    | nil => exact h
    | cons q l => exact ih (keeps_raiseOne h)
theorem keeps_raiseEvent {fn cls code det0 det1} : Keeps b (raiseEvent d fn cls code det0 det1) := keeps_raiseAll h
theorem keeps_takeEvent {cls e} : Keeps b (takeEvent d cls e) := keeps_raiseAll (keeps_writeEvent h)
theorem keeps_ringError {r reason} : Keeps b (ringError d r reason) := by
  unfold ringError
  split
  · exact h
  · split
    · refine keeps_foldl (fun d a h => ?_) (keeps_raiseEvent (keeps_setRing h))
      split
      · exact keeps_raiseEvent (keeps_setRing h)
      · exact h
    · exact keeps_raiseEvent (keeps_setRing h)
theorem keeps_sramFailing {st buf line holds} : Keeps b (sramFailing d st buf line holds) := by
  unfold sramFailing
  dsimp only
  refine keeps_ite ?_ ?_
  · exact h
  · split
    · exact keeps_modStall h
    · exact keeps_raiseEvent h
theorem keeps_bufUe {st buf off} : Keeps b (bufUe st buf d off) := keeps_raiseEvent (keeps_modStall (keeps_bump h))
theorem keeps_sramTouch {st buf off n} : Keeps b (sramTouch d st buf off n) := by
  unfold sramTouch
  refine keeps_foldl (fun d a h => ?_) ?_
  · exact keeps_sramFailing h
  · refine keeps_foldl (fun d a h => ?_) ?_
    · exact keeps_bufUe h
    · refine keeps_ite ?_ ?_
      · exact h
      · exact keeps_bumpBy h
theorem keeps_storeUe {st} : Keeps b (storeUe d st) := keeps_raiseEvent h
theorem keeps_countViol {st} : Keeps b (countViol d st) := keeps_bump h
theorem keeps_sramWrite {st buf off bs} : Keeps b (sramWrite d st buf off bs) := keeps_modStall h
theorem keeps_feedSramWrite {st buf off bs} : Keeps b (feedSramWrite d st buf off bs) := by
  unfold feedSramWrite
  refine keeps_ite ?_ ?_
  · exact keeps_countViol h
  · exact keeps_sramWrite h
theorem keeps_unitSramRead {st buf off n} : Keeps b (unitSramRead d st buf off n).1 := by
  unfold unitSramRead
  split
  · exact keeps_countViol h
  · exact keeps_sramTouch h
theorem keeps_dramTouch {line} : Keeps b (dramTouch d line) := by
  unfold dramTouch
  split
  · exact h
  · exact keeps_frame (keeps_bump h)
  · exact keeps_raiseEvent (keeps_frame (keeps_bump h))
  · exact keeps_bump h
theorem keeps_dramLineWrite {keys line} : Keeps b (dramLineWrite keys d line) := by
  unfold dramLineWrite
  dsimp only
  refine keeps_ite ?_ ?_
  · exact keeps_frame h
  · refine keeps_ite ?_ ?_
    · exact keeps_frame (keeps_dramTouch h)
    · exact keeps_dramTouch h
theorem keeps_dramWrite {kbs} : Keeps b (dramWrite d kbs) :=
  keeps_setMem (keeps_foldl (fun _ _ h => keeps_dramLineWrite h) h) fun hm => ⟨mwf_dramStore kbs hm.1, hm.2⟩
theorem keeps_dramTouchAll {keys} : Keeps b (dramTouchAll d keys) := keeps_foldl (fun _ _ h => keeps_dramTouch h) h
theorem keeps_loftTouch {unit} : Keeps b (loftTouch d unit) := by
  unfold loftTouch
  split
  · exact h
  · exact keeps_bump h
  · exact keeps_raiseEvent (keeps_frame (keeps_bump h))
  · exact keeps_bump h
theorem keeps_ownRecords : Keeps b (ownRecords d) := keeps_frame h
theorem keeps_loftWorn {unit} : Keeps b (loftWorn d unit) := by
  unfold loftWorn
  dsimp only
  refine keeps_ite ?_ ?_
  · exact keeps_bump h
  · exact keeps_raiseEvent (keeps_frame (keeps_bump h))
theorem keeps_loftUnitWrite {obs unit} : Keeps b (loftUnitWrite obs d unit) := by
  unfold loftUnitWrite
  refine keeps_ite ?_ ?_
  · exact keeps_loftWorn h
  · refine keeps_setMem ?_ fun hm => ⟨hm.1, mwf_dramStore _ hm.2⟩
    refine keeps_ite ?_ ?_
    · exact h
    · exact keeps_loftTouch h
theorem keeps_loftWrite {obs} : Keeps b (loftWrite d obs) := keeps_foldl (fun _ _ h => keeps_loftUnitWrite h) h
theorem keeps_loftTouchAll {offs} : Keeps b (loftTouchAll d offs) := keeps_foldl (fun _ _ h => keeps_loftTouch h) h
theorem keeps_mirrorOut {loft obs} : Keeps b (mirrorOut d loft obs) := by
  unfold mirrorOut
  dsimp only
  split
  · split
    · refine keeps_sendTwin ?_
      refine keeps_setPad ?_
      split
      · exact keeps_bump h
      · exact h
    · exact h
  · split
    · refine keeps_sendTwin ?_
      refine keeps_setPad ?_
      split
      · exact keeps_bump h
      · exact h
    · exact h

/-! ### Units -/

theorem keeps_setOps {l} : Keeps b (setOps d l) := keeps_frame h
theorem keeps_putOp {o} : Keeps b (putOp d o) := keeps_setOps h
theorem keeps_dropOp {id} : Keeps b (dropOp d id) := keeps_setOps h
theorem keeps_sendRequest {o} : Keeps b (sendRequest d o) := keeps_foldl (fun _ _ h => keeps_sendTo h) h
theorem keeps_sendReply {o back} : Keeps b (sendReply d o back) := keeps_foldl (fun _ _ h => keeps_sendTo h) h
theorem keeps_performed {o back} : Keeps b (performed d o back) := by
  unfold performed
  refine keeps_ite ?_ ?_
  · exact keeps_putOp h
  · exact keeps_sendReply (keeps_dropOp h)
theorem keeps_settle {before o back} : Keeps b (settle before d o back) := by
  unfold settle
  refine keeps_ite ?_ ?_
  · exact keeps_putOp h
  · exact keeps_performed h
theorem keeps_performedZero {o} : Keeps b (performedZero d o) := keeps_performed h
theorem keeps_addCounter {st k} : Keeps b (addCounter d st k) := keeps_modStall h
theorem keeps_setWatch {n w} : Keeps b (setWatch d n w) := keeps_frame h
theorem keeps_watchEnter {w} : Keeps b (watchEnter d w) := by
  unfold watchEnter
  split
  · dsimp only
    refine keeps_ite ?_ ?_
    · exact keeps_raiseEvent (keeps_raiseEvent (keeps_bump (keeps_setWatch h)))
    · exact keeps_raiseEvent (keeps_bump (keeps_setWatch h))
  · exact keeps_frame h
theorem keeps_unitFails {kind unit crib} : Keeps b (unitFails d kind unit crib) := by
  unfold unitFails
  split
  · split
    · exact keeps_setWatch h
    · exact h
  · exact keeps_watchEnter h
theorem keeps_watchFree {n} : Keeps b (watchFree d n) := by
  unfold watchFree
  dsimp only
  split
  · exact keeps_setWatch h
  · exact keeps_watchEnter (keeps_frame (keeps_setWatch h))
theorem keeps_watchLeave {n} : Keeps b (watchLeave d n) := by
  unfold watchLeave
  split
  · exact h
  · exact keeps_watchFree (keeps_raiseEvent h)
theorem keeps_digitalSuspect {st cause index} : Keeps b (digitalSuspect d st cause index) :=
  keeps_unitFails (keeps_raiseEvent (keeps_bump h))
theorem keeps_cribFails {st crib bank check lastPass} : Keeps b (cribFails d st crib bank check lastPass) := by
  unfold cribFails
  refine keeps_ite ?_ ?_
  · exact h
  · exact keeps_unitFails (keeps_raiseEvent h)
theorem keeps_mirrorState : Keeps b (mirrorState d) := by
  unfold mirrorState
  refine keeps_ite ?_ ?_
  · refine keeps_ite ?_ ?_
    · exact h
    · exact keeps_sendTwin (keeps_setPad h)
  · exact h
theorem keeps_orphanOps {st} : Keeps b (orphanOps d st) := keeps_setOps h
theorem keeps_stopStall {st code detail pc} : Keeps b (stopStall d st code detail pc) :=
  keeps_modStall (keeps_orphanOps h)
theorem keeps_stopNow {st code detail} : Keeps b (stopNow d st code detail) := keeps_stopStall h
theorem keeps_holdViol {st id} : Keeps b (holdViol st d id) := by
  unfold holdViol
  split
  · exact keeps_countViol (keeps_performedZero h)
  · exact h
theorem keeps_retireStall {st} : Keeps b (retireStall d st) := by
  unfold retireStall
  extract_lets x stopped emptied gone freed told
  have h1 : Keeps b stopped := keeps_ite (keeps_modStall h) (keeps_ite (keeps_stopNow h) h)
  have h2 : Keeps b emptied := keeps_foldl (fun _ _ h => keeps_holdViol h) h1
  have h3 : Keeps b gone := keeps_modStall h2
  have h4 : Keeps b freed := by
    dsimp only [freed]
    split
    · exact keeps_watchFree h3
    · exact h3
  have h5 : Keeps b told := keeps_raiseEvent h4
  exact keeps_ite (keeps_raiseEvent h5) h5
theorem keeps_takeBank {st crib bs} : Keeps b (takeBank st crib d bs) := by
  unfold takeBank
  dsimp only
  refine keeps_ite ?_ ?_
  · exact keeps_setBank h
  · exact h
theorem keeps_substitute {st crib} : Keeps b (substitute d st crib) := by
  unfold substitute
  dsimp only
  split
  · exact keeps_watchLeave (keeps_raiseEvent (keeps_modStall (keeps_foldl (fun _ _ h => keeps_takeBank h) h)))
  · exact keeps_raiseEvent (keeps_modStall (keeps_foldl (fun _ _ h => keeps_takeBank h) h))
theorem keeps_adopt {st} : Keeps b (adopt d st) := by
  unfold adopt
  split
  · exact h
  · exact keeps_modStall h
theorem keeps_takeCorrections {st} : Keeps b (takeCorrections d st) := by
  unfold takeCorrections
  refine keeps_foldl (fun d a h => ?_) h
  split
  · exact keeps_modBank h
  · exact h
theorem keeps_takeRetirement {st} : Keeps b (takeRetirement d st) := by
  unfold takeRetirement
  dsimp only
  split
  · split
    · split
      · exact keeps_retireStall h
      · exact h
    · split
      · exact keeps_retireStall (keeps_substitute h)
      · exact keeps_substitute h
  · split
    · exact keeps_retireStall h
    · exact h
theorem keeps_takeReference {st} : Keeps b (takeReference d st) := keeps_modStall h
theorem keeps_boundary {st} : Keeps b (boundary d st) :=
  keeps_modStall (keeps_takeRetirement (keeps_takeReference (keeps_takeCorrections (keeps_adopt h))))

/-! ### Home -/

theorem keeps_countBeyond {a len} : Keeps b (countBeyond d a len) := by
  unfold countBeyond
  refine keeps_ite ?_ ?_
  · exact h
  · refine keeps_ite ?_ ?_
    · exact keeps_countViol h
    · split <;> exact keeps_bump h
theorem keeps_memWrite {a bs} : Keeps b (memWrite d a bs) := by
  unfold memWrite
  refine keeps_ite ?_ ?_
  · exact keeps_mirrorOut (keeps_loftWrite h)
  · exact keeps_mirrorOut (keeps_dramWrite h)
theorem keeps_memRead {a len} : Keeps b (memRead d a len).1 := by
  unfold memRead
  split
  · exact h
  · split
    · exact keeps_loftTouchAll h
    · exact keeps_dramTouchAll h
theorem keeps_atomicDram {k a add p} : Keeps b (atomicDram k a add d p) := by
  have h1 := keeps_dramTouchAll h (keys := dramKeys a (gOff a + p.1) p.2)
  unfold atomicDram
  dsimp only
  refine keeps_ite ?_ ?_
  · exact keeps_bump h1
  · refine keeps_mirrorOut (keeps_setMem h1 fun hm => ?_)
    exact ⟨mwf_dramStore _ hm.1, hm.2⟩
theorem keeps_atomicLoft {k a add p} : Keeps b (atomicLoft k a add d p) := by
  have h1 := keeps_loftTouchAll h (offs := (List.range p.2).map fun j => gOff a + p.1 + j)
  unfold atomicLoft
  dsimp only
  refine keeps_ite ?_ ?_
  · exact keeps_bump h1
  · refine keeps_ite ?_ ?_
    · exact keeps_foldl (fun _ _ h => keeps_loftWorn h) h1
    · refine keeps_mirrorOut (keeps_setMem h1 fun hm => ?_)
      exact ⟨hm.1, mwf_dramStore _ hm.2⟩
theorem keeps_memAtomic {a k add} : Keeps b (memAtomic d a k add).1 := by
  unfold memAtomic
  split
  · exact keeps_foldl (fun _ _ h => keeps_atomicLoft h) h
  · exact keeps_foldl (fun _ _ h => keeps_atomicDram h) h
theorem keeps_performAtStall {o} : Keeps b (performAtStall d o) := by
  unfold performAtStall
  split
  · exact keeps_performed (keeps_sramTouch (keeps_countBeyond h))
  · exact keeps_performed (keeps_sramWrite (keeps_countBeyond h))
  · exact keeps_performed (keeps_addCounter (keeps_sramWrite (keeps_countBeyond h)))
  · exact keeps_performed (keeps_modStall (keeps_sramWrite (keeps_countBeyond h)))
  · exact keeps_performed (keeps_sramWrite (keeps_sramTouch (keeps_countBeyond h)))
theorem keeps_refuse {t o} : Keeps b (refuse d t o) := by
  unfold refuse
  exact keeps_modStall (keeps_bump (keeps_putOp h))
theorem keeps_arrive {o} : Keeps b (arrive d o) := by
  unfold arrive
  dsimp only
  refine keeps_ite ?_ ?_
  · exact keeps_countViol (keeps_performedZero h)
  · refine keeps_ite ?_ ?_
    · exact keeps_refuse h
    · refine keeps_ite ?_ ?_
      · refine keeps_ite ?_ ?_
        · exact keeps_modStall (keeps_putOp h)
        · exact keeps_refuse h
      · exact keeps_performAtStall h
theorem keeps_release {t o} : Keeps b (release d t o) := keeps_performAtStall (keeps_modStall h)
theorem keeps_drainHeld {t src n} : Keeps b (drainHeld t src n d) := by
  induction n generalizing d with
  | zero => exact h
  | succ n ih =>
    unfold drainHeld
    split
    · exact h
    · refine keeps_ite ?_ ?_
      · exact h
      · exact ih (keeps_release h)
theorem keeps_wakeSlot {t buf slot} : Keeps b (wakeSlot t buf slot d) := by
  unfold wakeSlot
  split
  · exact h
  · dsimp only
    refine keeps_ite ?_ ?_
    · exact keeps_drainHeld (keeps_release h)
    · exact keeps_release h
theorem keeps_clearFlag {t buf slot} : Keeps b (clearFlag t buf d slot) := by
  unfold clearFlag
  refine keeps_ite ?_ ?_
  · exact keeps_wakeSlot (keeps_modStall h)
  · exact h
theorem keeps_performPut {o} : Keeps b (performPut d o) := by
  unfold performPut
  refine keeps_ite ?_ ?_
  · exact keeps_arrive h
  · exact keeps_settle (keeps_memWrite (keeps_countBeyond h))
theorem keeps_performGet {o} : Keeps b (performGet d o) := by
  unfold performGet
  refine keeps_ite ?_ ?_
  · exact keeps_arrive h
  · refine keeps_performed ?_
    refine keeps_memRead ?_
    refine keeps_ite ?_ ?_
    · exact h
    · exact keeps_countBeyond h
theorem keeps_performAtomic {o} : Keeps b (performAtomic d o) := by
  unfold performAtomic
  refine keeps_ite ?_ ?_
  · exact keeps_arrive h
  · exact keeps_settle (keeps_memAtomic (keeps_countBeyond h))

/-! ### SeqMem -/

theorem keeps_engWrite {die off bs} : Keeps b (engWrite d die off bs) := keeps_mirrorOut (keeps_dramWrite h)
theorem keeps_engWritePart {die off bs ks} : Keeps b (engWritePart d die off bs ks) := keeps_mirrorOut (keeps_dramWrite h)
theorem keeps_derWrite {off bs} : Keeps b (derWrite d off bs) := keeps_mirrorOut (keeps_dramWrite h)
theorem keeps_setSeq {id q} : Keeps b (setSeq d id q) := keeps_frame h
theorem keeps_putSeq {id q} : Keeps b (putSeq d id q) := keeps_engWrite (keeps_setSeq h)
theorem keeps_putSeqPart {id q ks} : Keeps b (putSeqPart d id q ks) := keeps_engWritePart (keeps_setSeq h)
theorem keeps_putList {id l x ks} : Keeps b (putList d id l x ks) := by
  unfold putList
  split
  · exact h
  · exact keeps_engWritePart (keeps_setSeq h)
theorem keeps_openList {id l x} : Keeps b (openList d id l x) := by
  unfold openList
  split
  · exact h
  · exact keeps_engWrite (keeps_setSeq h)
theorem keeps_markPage {die page v} : Keeps b (markPage d die page v) := keeps_frame h
theorem keeps_takePages {die n} : Keeps b (takePages die n d).1 := by
  induction n generalizing d with
  | zero => exact h
  | succ n ih =>
    unfold takePages
    split
    · exact h
    · exact ih (keeps_markPage h)
theorem keeps_releasePage {die page} : Keeps b (releasePage die page d) := by
  unfold releasePage
  dsimp only
  refine keeps_ite ?_ ?_
  · exact keeps_bump h
  · exact keeps_markPage (keeps_bump h)
theorem keeps_retireGens : Keeps b (retireGens d) := keeps_foldl (fun _ _ h => keeps_releasePage h) (keeps_frame h)
theorem keeps_readBuckets {key hit} : Keeps b (readBuckets d key hit) := keeps_dramTouchAll h
theorem keeps_readRows {q n k} : Keeps b (readRows q n k d) := by
  induction n generalizing d k with
  | zero => exact h
  | succ n ih =>
    unfold readRows
    split
    · exact h
    · dsimp only
      split
      · exact keeps_readBuckets h
      · exact ih (keeps_dramTouchAll (keeps_readBuckets h))
theorem keeps_putPrefix {p} : Keeps b (putPrefix d p) := keeps_derWrite (keeps_frame h)
theorem keeps_dropPrefix {p} : Keeps b (dropPrefix d p) :=
  keeps_foldl (fun _ _ h => keeps_releasePage h) (keeps_derWrite (keeps_frame h))
theorem keeps_prune {die n} : Keeps b (prune die n d) := by
  induction n generalizing d with
  | zero => exact h
  | succ n ih =>
    unfold prune
    refine keeps_ite ?_ ?_
    · exact h
    · split
      · exact h
      · exact ih (keeps_foldl (fun _ _ h => keeps_dropPrefix h) (keeps_dropPrefix h))
theorem keeps_pruneAll {die} : Keeps b (pruneAll d die) := keeps_prune h
theorem keeps_dropRefs {before after} : Keeps b (dropRefs before after d) :=
  keeps_foldl (fun _ _ h => keeps_putPrefix h) h
theorem keeps_applyEdit {e} : Keeps b (applyEdit d e) := by
  unfold applyEdit
  dsimp only
  split
  · exact keeps_frame h
  · refine keeps_retireGens ?_
    refine keeps_dropRefs ?_
    refine keeps_ite ?_ ?_
    · exact keeps_frame (keeps_putList (keeps_frame h))
    · exact keeps_bumpBy (keeps_frame (keeps_putList (keeps_frame h)))
theorem keeps_applyPrune {e} : Keeps b (applyPrune d e) := by
  unfold applyPrune
  split
  · exact keeps_applyEdit h
  · exact keeps_pruneAll (keeps_applyEdit h)
theorem keeps_addEdit {seq layer sets newLen} : Keeps b (addEdit d seq layer sets newLen) := keeps_frame h
theorem keeps_tryFree {id} : Keeps b (tryFree d id) := by
  unfold tryFree
  split
  · exact h
  · refine keeps_ite ?_ ?_
    · exact keeps_setSeq (keeps_engWrite h)
    · exact h
theorem keeps_retireLists : Keeps b (retireLists d) := keeps_foldl (fun _ _ h => keeps_tryFree h) (keeps_retireGens h)

/-! ### Sequencer -/

theorem keeps_fetchTouch {st} : Keeps b (fetchTouch d st) := by
  unfold fetchTouch
  dsimp only
  refine keeps_ite ?_ ?_
  · exact keeps_bumpBy h
  · exact h
theorem keeps_holdOn {st w} : Keeps b (holdOn d st w) := keeps_modStall h
theorem keeps_advance {st pc} : Keeps b (advance d st pc) := keeps_modStall h
theorem issueKeeps_pureOp {f st i x} : IssueKeeps b (pureOp f st i x d) := keeps_modStall h
omit h in
theorem issueKeeps_withLocal {st addr len align k} (hk : ∀ buf off, IssueKeeps b (k buf off)) :
    IssueKeeps b (withLocal d st addr len align k) := by
  unfold withLocal
  split
  · trivial
  · refine issueKeeps_ite ?_ ?_
    · trivial
    · refine issueKeeps_ite ?_ ?_
      · trivial
      · exact hk _ _
theorem keeps_launch {st o dest ctr} : Keeps b (launch d st o dest ctr) := by
  unfold launch
  dsimp only
  refine keeps_ite ?_ ?_
  · exact keeps_performedZero (keeps_countViol (keeps_frame h))
  · refine keeps_ite ?_ ?_
    · exact keeps_frame h
    · exact keeps_sendRequest (keeps_frame h)
theorem issueKeeps_remoteOp {st o dest ctr} : IssueKeeps b (remoteOp d st o dest ctr) := by
  unfold remoteOp
  refine issueKeeps_ite ?_ ?_
  · exact issueKeeps_wait
  · refine issueKeeps_ite ?_ ?_
    · exact issueKeeps_wait
    · exact issueKeeps_go (keeps_launch h)

/-! ### Attention -/

theorem keeps_addJob {st bs epoch} : Keeps b (addJob d st bs epoch) := keeps_bump (keeps_frame h)
theorem issueKeeps_attnIssue {st i x} : IssueKeeps b (attnIssue st i x d) := by
  unfold attnIssue
  dsimp only
  refine issueKeeps_withLocal fun _ _ => ?_
  split
  · exact issueKeeps_fault
  · refine issueKeeps_ite ?_ ?_
    · exact issueKeeps_wait
    · refine issueKeeps_ite ?_ ?_
      · exact issueKeeps_wait
      · exact issueKeeps_go (keeps_addJob (keeps_sramTouch h))
theorem keeps_binPut {st tile off bs} : Keeps b (binPut d st tile off bs) := keeps_sramWrite h
theorem keeps_endJob {j} : Keeps b (endJob d j) := keeps_tryFree (keeps_retireGens (keeps_frame h))
theorem keeps_refuseJob {j status} : Keeps b (refuseJob d j status) := keeps_endJob (keeps_binPut (keeps_bump h))
theorem keeps_startJob {die j} : Keeps b (startJob d die j) := by
  unfold startJob
  dsimp only
  split
  · exact keeps_refuseJob (keeps_frame (keeps_dramTouchAll h))
  · split <;> exact keeps_frame (keeps_dramTouchAll h)
omit h in
theorem keeps_appendHead {q page t r vh src} (h : Keeps b r.1) : Keeps b (appendHead q page t r vh src).1 := by
  unfold appendHead
  have h1 : Keeps b (dramTouchAll (if q.kvFmt = 1 ∧ t = 0 then engWrite r.1 q.die (scaleOff page vh.1 vh.2)
      (toLe 4 (int8Scale q.headroom ((List.range q.dim).map fun i => fdecode bf16 (fieldAt src (2 * i) 2)))) else r.1)
      (if q.kvFmt = 1 ∧ t ≠ 0 then homeKeys q.die (scaleOff page vh.1 vh.2) 4 else [])) :=
    keeps_dramTouchAll (keeps_ite (keeps_engWrite h) h)
  exact keeps_ite (keeps_engWrite h1) (keeps_bumpBy (keeps_engWrite h1))
omit h in
theorem keeps_appendPos {q es g nq src p0 r j} (h : Keeps b r.1) : Keeps b (appendPos q es g nq src p0 r j).1 := by
  unfold appendPos
  exact keeps_foldl_fst (fun _ _ h => keeps_appendHead h) h
theorem keeps_doAppend {j q} : Keeps b (doAppend d j q).1 :=
  keeps_foldl_fst (fun _ _ h => keeps_appendPos h) (keeps_sramTouch h)
theorem keeps_setLength {j} : Keeps b (setLength d j) := by
  unfold setLength
  split
  · exact h
  · exact keeps_putList h
theorem keeps_updateScores {j rs} : Keeps b (updateScores d j rs) := by
  unfold updateScores
  split
  · exact h
  · exact keeps_putList h
theorem keeps_engineFails {die} : Keeps b (engineFails d die) := keeps_raiseEvent (keeps_unitFails h)
theorem keeps_jobResults {j q} : Keeps b (jobResults d j q).1 := by
  unfold jobResults
  split
  · exact h
  · exact keeps_dramTouchAll (keeps_sramTouch h)
theorem keeps_holdJob {id hd} : Keeps b (holdJob d id hd) := keeps_frame h
theorem keeps_tellJob {j tile} : Keeps b (tellJob d j tile) := keeps_endJob (keeps_binPut h)
theorem keeps_attendFinish {j failed residue} : Keeps b (attendFinish d j failed residue) := by
  unfold attendFinish
  split
  · exact keeps_endJob h
  · extract_lets lengthened q r bad rs scored attended marked failing tile
    have h1 : Keeps b lengthened := keeps_ite (keeps_setLength h) h
    have h2 : Keeps b scored := keeps_ite (keeps_updateScores (keeps_jobResults h1)) (keeps_jobResults h1)
    have h3 : Keeps b attended := keeps_ite (keeps_binPut h2) h2
    have h4 : Keeps b marked := keeps_ite (keeps_bump h3) h3
    have h5 : Keeps b failing := keeps_ite (keeps_engineFails (keeps_bump h4)) h4
    split
    · exact keeps_holdJob h5
    · exact keeps_tellJob h5
theorem keeps_finishJob {j residue} : Keeps b (finishJob d j residue) := by
  unfold finishJob
  dsimp only
  split
  · exact keeps_endJob h
  · split
    · split
      · exact keeps_refuseJob h
      · split
        · exact keeps_holdJob (keeps_doAppend h)
        · exact keeps_attendFinish (keeps_doAppend h)
    · exact keeps_attendFinish h
theorem keeps_releaseJob {f j} : Keeps b (releaseJob f d j) := by
  unfold releaseJob
  split
  · refine keeps_ite ?_ ?_
    · exact keeps_attendFinish h
    · exact h
  · refine keeps_ite ?_ ?_
    · exact keeps_tellJob h
    · exact h
  · exact h
theorem keeps_releaseJobs {f} : Keeps b (releaseJobs d f) := keeps_foldl (fun _ _ h => keeps_releaseJob h) h

/-! ### Crib -/

theorem keeps_countMvm {st phys} : Keeps b (countMvm st d phys) := keeps_setCrib h
theorem keeps_addCribOp {st o} : Keeps b (addCribOp d st o) := keeps_frame (keeps_modStall h)
theorem issueKeeps_cribMvmIssue {st i x} : IssueKeeps b (cribMvmIssue st i x d) := by
  unfold cribMvmIssue
  extract_lets n t cs k tall add ph bs o
  refine issueKeeps_ite (issueKeeps_go h) (issueKeeps_ite issueKeeps_fault (issueKeeps_ite issueKeeps_fault ?_))
  split
  · exact issueKeeps_fault
  · exact issueKeeps_ite issueKeeps_wait (issueKeeps_go (keeps_addCribOp (keeps_foldl (fun _ _ h => keeps_countMvm h) h)))
theorem issueKeeps_cribBankIssue {st i x} : IssueKeeps b (cribBankIssue st i x d) := by
  unfold cribBankIssue
  dsimp only
  split
  · exact issueKeeps_fault
  · exact issueKeeps_go (keeps_modStall h)
theorem issueKeeps_cribProbeIssue {st i x} : IssueKeeps b (cribProbeIssue st i x d) := by
  unfold cribProbeIssue
  dsimp only
  refine issueKeeps_ite ?_ ?_
  · exact issueKeeps_fault
  · refine issueKeeps_ite ?_ ?_
    · exact issueKeeps_fault
    · refine issueKeeps_ite ?_ ?_
      · exact issueKeeps_fault
      · refine issueKeeps_ite ?_ ?_
        · exact issueKeeps_wait
        · exact issueKeeps_go (keeps_addCribOp h)
theorem keeps_seeRefs {c key} : Keeps b (seeRefs c d key) := keeps_modBank h
theorem keeps_loadSide {st phys bs ws} : Keeps b (loadSide d st phys bs ws) := by
  unfold loadSide
  exact keeps_modStall h
theorem keeps_setCribOp {st o} : Keeps b (setCribOp d st o) := keeps_modStall h
theorem keeps_charge32 {tick ns key} : Keeps b (charge32 tick ns d key) := keeps_setCrib h
theorem keeps_endCredits : Keeps b (endCredits d) := keeps_frame h
theorem keeps_touchInputs {st o} : Keeps b (touchInputs d st o) := keeps_foldl (fun _ _ h => keeps_sramTouch h) h
theorem keeps_takeSample {st id phys} : Keeps b (takeSample st id phys d) := by
  unfold takeSample
  exact keeps_modStall (keeps_setCrib h)
theorem keeps_settleSamples {st o} : Keeps b (settleSamples st o d) :=
  keeps_foldl (fun _ _ h => keeps_takeSample h) (keeps_setCribOp h)
theorem keeps_writeTile {st add tile outs} : Keeps b (writeTile st add d tile outs) := by
  unfold writeTile
  refine keeps_ite ?_ ?_
  · exact keeps_sramWrite (keeps_sramTouch h)
  · exact keeps_sramWrite h
theorem keeps_keepSample {st o k} : Keeps b (keepSample st o d k) := by
  unfold keepSample
  dsimp only
  refine keeps_ite ?_ ?_
  · exact h
  · exact keeps_frame (keeps_setCrib h)
theorem keeps_touchPins {st o k} : Keeps b (touchPins st o d k) := keeps_foldl (fun _ _ h => keeps_sramTouch h) h
theorem keeps_touchSide {st o k} : Keeps b (touchSide st o d k) := by
  unfold touchSide
  dsimp only
  refine keeps_ite ?_ ?_
  · exact keeps_storeUe h
  · exact h
theorem keeps_touchCorr {st key} : Keeps b (touchCorr st d key) := by
  unfold touchCorr
  refine keeps_ite ?_ ?_
  · exact keeps_storeUe h
  · exact h
theorem keeps_mvmCounts {d₀ st o waited} : Keeps b (mvmCounts d₀ st o waited d) := by
  unfold mvmCounts
  exact keeps_foldl (fun _ _ h => keeps_seeRefs h) (keeps_foldl (fun _ _ h => keeps_keepSample h)
    (keeps_bumpUnless (keeps_bumpUnless (keeps_bumpUnless (keeps_bumpUnless h)))))
theorem keeps_binWrite {st o waited} : Keeps b (binWrite d st o waited) := by
  unfold binWrite
  have h1 : Keeps b (if o.probe then d else (List.range o.cribs.length).foldl (touchSide st o)
      ((List.range o.cribs.length).foldl (touchPins st o) d)) :=
    keeps_ite h (keeps_foldl (fun _ _ h => keeps_touchSide h) (keeps_foldl (fun _ _ h => keeps_touchPins h) h))
  have h2 : Keeps b ((opWrites d st o).foldl (fun e w => writeTile st o.add e w.1 w.2) ((List.range o.cribs.length).foldl
      (fun e k => touchCorr st e (bankKey st (o.cribs.getD k 0) (o.banks.getD k 0))) _)) :=
    keeps_foldl (fun _ _ h => keeps_writeTile h) (keeps_foldl (fun _ _ h => keeps_touchCorr h) h1)
  exact keeps_modStall (keeps_mvmCounts (keeps_ite (keeps_sramWrite h2) h2))
theorem keeps_readReference {st crib bs} : Keeps b (readReference st crib bs d) := keeps_seeRefs h

/-! ### Routine -/

theorem keeps_modCmd {cid f} (hf : ∀ c, (f c).cid = c.cid := by exact fun _ => rfl) : Keeps b (modCmd d cid f) := by
  refine keeps_setCmds h (cidsOk_map fun x => ?_)
  split
  · exact hf x
  · rfl
theorem keeps_routineEnded {st fault} : Keeps b (routineEnded d st fault) := by
  unfold routineEnded
  refine keeps_modStall ?_
  split
  · split
    · exact keeps_putCmd h
    · exact h
  · exact h
theorem keeps_abortStall {reason st} : Keeps b (abortStall reason d st) := by
  unfold abortStall
  refine keeps_ite ?_ ?_
  · exact keeps_stopNow h
  · exact h
theorem keeps_watchdogEvent {st kind buf slot index} : Keeps b (watchdogEvent d st kind buf slot index) :=
  keeps_raiseEvent (keeps_bump h)

/-! ### Command -/

theorem keeps_tellAll {m} : Keeps b (tellAll d m) := by
  unfold tellAll
  refine keeps_ite ?_ ?_
  · exact keeps_foldl (fun _ _ h => keeps_sendMsg h) h
  · exact h
theorem keeps_holdAway {c f} : Keeps b (holdAway d c f) := keeps_foldl (fun _ _ h => keeps_sendMsg h) h
theorem keeps_freeAway {c} : Keeps b (freeAway d c) := keeps_foldl (fun _ _ h => keeps_sendMsg h) h
theorem keeps_coalesce {r x} : Keeps b (coalesce d r x) := by
  unfold coalesce
  refine keeps_ite ?_ ?_
  · exact keeps_sendMsix (keeps_setRing h)
  · exact keeps_setRing h
theorem keeps_writeRecord {r x rc} : Keeps b (writeRecord d r x rc) := by
  unfold writeRecord
  refine keeps_ite ?_ ?_
  · exact keeps_ringError (keeps_setRing h)
  · exact keeps_coalesce (keeps_emit h)
theorem keeps_postRecord {r rc} : Keeps b (postRecord d r rc) := by
  unfold postRecord
  split
  · exact h
  · refine keeps_ite ?_ ?_
    · exact h
    · refine keeps_ite ?_ ?_
      · exact keeps_setRing h
      · exact keeps_writeRecord h
theorem keeps_flushHeld {r n} : Keeps b (flushHeld r n d) := by
  induction n generalizing d with
  | zero => exact h
  | succ n ih =>
    unfold flushHeld
    split
    · exact h
    · split
      · exact h
      · split
        · exact h
        · exact ih (keeps_writeRecord h)
theorem keeps_postMailbox {rc} : Keeps b (postMailbox d rc) := keeps_sendMsix (keeps_frame h)
theorem keeps_setModels {l} : Keeps b (setModels d l) := keeps_frame h
theorem keeps_freeFailed {f} : Keeps b (freeFailed d f) := keeps_foldl (fun _ _ h => keeps_tellAll h) (keeps_setModels h)
theorem keeps_noteReply {c} : Keeps b (noteReply d c) := by
  unfold noteReply
  split
  · exact keeps_setModels h
  · exact keeps_freeFailed h
theorem keeps_freeRing {r} : Keeps b (freeRing d r) := keeps_freeFailed (keeps_setRing h)
theorem keeps_endNow {c e} : Keeps b (endNow d c e) := by
  unfold endNow
  extract_lets replied bs lost sent rc
  have h1 : Keeps b replied := keeps_noteReply (keeps_dropCmd (keeps_freeAway h))
  split
  · exact keeps_sendMsg h1
  · have h2 : Keeps b sent := keeps_ite h1 (keeps_emit h1)
    refine keeps_ite (keeps_postMailbox h2) ?_
    split
    · exact h2
    · exact keeps_postRecord h2
theorem keeps_endCmd {c e} : Keeps b (endCmd d c e) := by
  unfold endCmd
  refine keeps_ite ?_ ?_
  · exact keeps_endNow h
  · exact keeps_modCmd h
theorem keeps_drained {r} : Keeps b (drained d r) := by
  unfold drained
  split
  · exact h
  · split
    · exact h
    · split
      · refine keeps_freeRing ?_
        split
        · exact keeps_endCmd h
        · exact h
      · exact h
theorem keeps_drainRings : Keeps b (drainRings d) :=
  keeps_foldl (fun _ _ h => keeps_foldl (fun _ _ h => keeps_drained h) h) h
theorem keeps_finish {c e} : Keeps b (finish d c e) := keeps_drainRings (keeps_endCmd h)
theorem keeps_tell {c m} : Keeps b (tell c d m) := keeps_sendMsg h
theorem keeps_forward {c} : Keeps b (forward d c) := keeps_tell (keeps_putCmd h)
theorem keeps_toMembers {c} : Keeps b (toMembers d c) := keeps_foldl (fun _ _ h => keeps_tell h) h
theorem keeps_finishAll {c e} : Keeps b (finishAll d c e) := by
  unfold finishAll
  refine keeps_ite ?_ ?_
  · exact keeps_finish h
  · exact keeps_modCmd (keeps_toMembers h)
theorem keeps_joins {c} : Keeps b (joins d c) := by
  unfold joins
  refine keeps_ite ?_ ?_
  · exact keeps_holdAway h
  · exact h
theorem keeps_endReserved {cid} : Keeps b (endReserved d cid) := by
  unfold endReserved
  split
  · exact h
  · refine keeps_ite ?_ ?_
    · exact keeps_finish h
    · exact h
theorem keeps_holdNew {cid} : Keeps b (holdNew d cid) := by
  unfold holdNew
  split
  · exact h
  · refine keeps_ite ?_ ?_
    · exact h
    · exact keeps_holdAway h
theorem keeps_passOthers {r} : Keeps b (passOthers d r) := keeps_foldl (fun _ _ h => keeps_setRing h) h
theorem keeps_dropDoorbell : Keeps b (dropDoorbell d) := keeps_bump h
theorem keeps_ringDoorbell {fn ring value} : Keeps b (ringDoorbell d fn ring value) := by
  unfold ringDoorbell
  split
  · split
    · exact h
    · exact keeps_dropDoorbell h
  · dsimp only
    split
    · exact h
    · split
      · exact keeps_dropDoorbell h
      · split
        · exact keeps_ringError h
        · split
          · exact keeps_setRing h
          · exact keeps_drainRings (keeps_flushHeld (keeps_freeFailed (keeps_setRing h)))
theorem keeps_dropGuest {cid} : Keeps b (dropGuest d cid) := keeps_setPad h
theorem keeps_ringCreate {failAt c} : Keeps b (ringCreate failAt d c) := by
  unfold ringCreate
  dsimp only
  split
  · exact keeps_finish h
  · split
    · exact keeps_finish h
    · split
      · split
        · exact keeps_finish h
        · exact keeps_finish (keeps_setRing h)
      · split
        · exact keeps_finish h
        · exact keeps_finish (keeps_setRing h)
theorem keeps_stopRoutines {reason c} : Keeps b (stopRoutines reason d c) := by
  unfold stopRoutines
  split
  · exact h
  · exact keeps_foldl (fun _ _ h => keeps_abortStall h) (keeps_putCmd h)
theorem keeps_stopCmd {reason c} : Keeps b (stopCmd reason d c) := by
  unfold stopCmd
  refine keeps_ite ?_ ?_
  · exact keeps_sendMsg h
  · refine keeps_ite ?_ ?_
    · exact keeps_stopRoutines h
    · exact keeps_endCmd h
theorem keeps_ringDestroy {c} : Keeps b (ringDestroy d c) := by
  unfold ringDestroy
  dsimp only
  split
  · exact keeps_finish h
  · refine keeps_ite ?_ ?_
    · exact keeps_finish h
    · refine keeps_ite ?_ ?_
      · exact keeps_finish h
      · refine keeps_ite ?_ ?_
        · exact keeps_drainRings (keeps_foldl (fun _ _ h => keeps_stopCmd h) (keeps_setRing h))
        · exact keeps_finish (keeps_freeRing h)

/-! ### Sequences -/

theorem keeps_editNow {seq layer sets newLen} : Keeps b (editNow d seq layer sets newLen) := by
  unfold editNow
  dsimp only
  split
  · split
    · exact keeps_applyEdit (keeps_addEdit h)
    · exact keeps_addEdit h
  · exact keeps_addEdit h
theorem keeps_openSeq {id q} : Keeps b (openSeq d id q) :=
  keeps_pruneAll (keeps_foldl (fun _ _ h => keeps_editNow h) (keeps_takePages (keeps_foldl (fun _ _ h => keeps_openList
  h) (keeps_putSeq h))))
theorem keeps_seqOpenDev {c} : Keeps b (seqOpenDev d c) := by
  unfold seqOpenDev
  dsimp only
  split
  · exact keeps_finish h
  · split
    · exact keeps_finish h
    · split
      · exact keeps_finish h
      · split
        · exact keeps_finish (keeps_pruneAll h)
        · exact keeps_finish (keeps_openSeq (keeps_pruneAll h))
theorem keeps_closeSeq {id} : Keeps b (closeSeq d id) := by
  unfold closeSeq
  split
  · exact h
  · refine keeps_ite ?_ ?_
    · exact h
    · dsimp only
      refine keeps_tryFree (keeps_pruneAll (keeps_foldl (fun _ _ h => keeps_addEdit h) ?_))
      exact keeps_withAttn (keeps_putSeqPart h)
theorem keeps_seqCloseDev {c} : Keeps b (seqCloseDev d c) := by
  unfold seqCloseDev
  refine keeps_ite ?_ ?_
  · exact keeps_finish (keeps_closeSeq h)
  · exact keeps_finish h
theorem keeps_attachRows {id q rows} : Keeps b (attachRows d id q rows) := by
  unfold attachRows
  refine keeps_ite ?_ ?_
  · exact keeps_frame (keeps_foldl (fun _ _ h => keeps_putPrefix h) h)
  · exact keeps_foldl (fun _ _ h => keeps_editNow h) (keeps_frame (keeps_foldl (fun _ _ h => keeps_putPrefix h) h))
theorem keeps_lookupSeq {id q toks} : Keeps b (lookupSeq d id q toks).1 :=
  keeps_attachRows (keeps_putSeqPart (keeps_readRows h))
theorem keeps_endAfter {c edits e} : Keeps b (endAfter d c edits e) := by
  unfold endAfter
  refine keeps_ite ?_ ?_
  · exact keeps_finish h
  · exact keeps_modCmd h
theorem keeps_editApplied {id} : Keeps b (editApplied d id) := by
  unfold editApplied
  dsimp only
  refine keeps_foldl (fun d a h => ?_) h
  refine keeps_ite ?_ ?_
  · exact keeps_finish (keeps_putCmd h)
  · exact keeps_putCmd h
theorem keeps_prefixLookupDev {c} : Keeps b (prefixLookupDev d c) := by
  unfold prefixLookupDev
  dsimp only
  refine keeps_ite ?_ ?_
  · exact keeps_finish h
  · refine keeps_ite ?_ ?_
    · exact keeps_finish h
    · refine keeps_ite ?_ ?_
      · exact keeps_finish h
      · split
        · exact keeps_finish h
        · refine keeps_ite ?_ ?_
          · exact keeps_finish h
          · refine keeps_ite ?_ ?_
            · exact keeps_finish h
            · exact keeps_endAfter (keeps_lookupSeq h)

/-! ### Feed -/

theorem keeps_setFeed {f} : Keeps b (setFeed d f) := keeps_frame h
theorem keeps_putModel {m} : Keeps b (putModel d m) := keeps_setFeed h
theorem keeps_dropModel {id} : Keeps b (dropModel d id) := keeps_setFeed h
theorem keeps_putStage {s} : Keeps b (putStage d s) := keeps_setFeed h
theorem keeps_abandonBanks : Keeps b (abandonBanks d) := keeps_frame h
theorem keeps_failRecord {s} : Keeps b (failRecord d s) := by
  unfold failRecord
  dsimp only
  split
  · exact h
  · split
    · exact keeps_putModel h
    · split
      · split
        · exact keeps_dropModel h
        · exact keeps_putModel h
      · exact keeps_tellAll (keeps_dropModel h)
theorem keeps_takeFreed {id} : Keeps b (takeFreed d id) := by
  unfold takeFreed
  split
  · exact h
  · refine keeps_ite ?_ ?_
    · exact keeps_dropModel h
    · exact keeps_putModel h
theorem keeps_loadAdapter {s a} : Keeps b (loadAdapter d s a) := by
  unfold loadAdapter
  refine keeps_ite ?_ ?_
  · exact h
  · exact keeps_setFeed h
theorem keeps_closeStage {s code} : Keeps b (closeStage d s code) := by
  unfold closeStage
  extract_lets left feed queued recorded loaded told
  have h1 : Keeps b left := keeps_ite h (keeps_abandonBanks h)
  have h2 : Keeps b queued := keeps_setFeed h1
  have h3 : Keeps b recorded := by
    dsimp only [recorded]
    split
    · exact keeps_ite (keeps_putModel h2) (keeps_failRecord h2)
    · exact h2
  have h4 : Keeps b loaded := by
    dsimp only [loaded]
    split
    · exact keeps_ite (keeps_loadAdapter h3) h3
    · exact h3
  have h5 : Keeps b told := keeps_ite (keeps_tellAll h4) h4
  split
  · exact keeps_finish h5
  · exact h5
theorem keeps_noteResult {s m code} : Keeps b (noteResult d s m code) := by
  unfold noteResult
  dsimp only
  split
  · split
    · exact keeps_closeStage (keeps_tellAll (keeps_putStage h))
    · exact keeps_tellAll (keeps_putStage h)
  · split
    · exact keeps_closeStage (keeps_putStage h)
    · exact keeps_putStage h
theorem keeps_ownEnds {s code} : Keeps b (ownEnds d s code) := by
  unfold ownEnds
  dsimp only
  split
  · split
    · exact keeps_sendMsg (keeps_putStage (keeps_putStage h))
    · exact keeps_noteResult (keeps_putStage h)
  · split
    · exact keeps_sendMsg (keeps_putStage (keeps_abandonBanks (keeps_putStage h)))
    · exact keeps_noteResult (keeps_abandonBanks (keeps_putStage h))
theorem keeps_storeLoft {hash bs} : Keeps b (storeLoft d hash bs) := by
  unfold storeLoft
  refine keeps_ite ?_ ?_
  · exact h
  · split
    · exact h
    · exact keeps_setFeed (keeps_loftWrite h)
theorem keeps_copyPart {bytes e} : Keeps b (copyPart bytes d e) := by
  unfold copyPart
  refine keeps_ite ?_ ?_
  · exact keeps_feedSramWrite h
  · exact h
theorem keeps_copyParts {s} : Keeps b (copyParts d s) := by
  unfold copyParts
  split
  · exact h
  · refine keeps_ite ?_ ?_
    · exact h
    · exact keeps_foldl (fun _ _ h => keeps_copyPart h) (keeps_dramTouchAll h)
theorem keeps_checkStage {model} : Keeps b (checkStage d model) := by
  unfold checkStage
  split
  · exact h
  · refine keeps_ite ?_ ?_
    · exact keeps_ownEnds (keeps_copyParts h)
    · exact h
theorem keeps_clearStage {model} : Keeps b (clearStage d model) := by
  unfold clearStage
  split
  · exact h
  · refine keeps_ite ?_ ?_
    · exact keeps_tellAll (keeps_putStage h)
    · exact h
theorem keeps_passedChecks {s} : Keeps b (passedChecks d s) := by
  unfold passedChecks
  refine keeps_ite ?_ ?_
  · exact keeps_sendMsg h
  · exact keeps_clearStage (keeps_putStage h)
theorem keeps_passManifest {s} : Keeps b (passManifest d s) := by
  unfold passManifest
  split
  · exact h
  · exact keeps_sendMsg h
theorem keeps_startStage {s bs} : Keeps b (startStage d s bs) := by
  unfold startStage
  extract_lets begun passed lens listed put named stored
  have h1 : Keeps b passed := keeps_passManifest (keeps_putStage h)
  refine keeps_ite (keeps_ownEnds h1) ?_
  split
  · exact keeps_ownEnds h1
  · have h2 : Keeps b put := keeps_putStage h1
    have h3 : Keeps b named := by
      dsimp only [named]
      split
      · exact keeps_putModel h2
      · exact h2
    have h4 : Keeps b stored := keeps_ite (keeps_storeLoft h3) h3
    exact keeps_ite (keeps_ownEnds h1) (keeps_checkStage (keeps_passedChecks h4))
theorem keeps_deliveredBytes {s hd arrived} : Keeps b (deliveredBytes d s hd arrived).1 := by
  unfold deliveredBytes
  split
  · split
    · exact h
    · exact keeps_loftTouchAll h
  · split
    · exact h
    · split
      · exact h
      · exact keeps_dramTouchAll h
theorem keeps_heldTouch {hd} : Keeps b (heldTouch d hd) := by
  unfold heldTouch
  split
  · exact keeps_dramTouchAll h
  · exact h
theorem keeps_putShard {s hd} : Keeps b (putShard d s hd) := keeps_putStage h
theorem keeps_releaseShards {model} : Keeps b (releaseShards d model) := by
  unfold releaseShards
  split
  · exact h
  · exact keeps_putStage h
theorem keeps_takeAckOf {model index place} : Keeps b (takeAckOf d model index place) := by
  unfold takeAckOf
  split
  · exact h
  · split
    · exact h
    · refine keeps_releaseShards ?_
      split
      · exact keeps_putShard h
      · exact keeps_sendMsg (keeps_putShard h)
theorem keeps_placeShard {s hd bs} : Keeps b (placeShard d s hd bs) := by
  unfold placeShard
  split
  · exact h
  · exact keeps_releaseShards (keeps_derWrite h)
theorem keeps_takeShard {s hd bs off} : Keeps b (takeShard d s hd bs off) := by
  unfold takeShard
  extract_lets held put kept acked passed
  have h1 : Keeps b put := keeps_putShard (keeps_derWrite h)
  have h2 : Keeps b kept := keeps_ite (keeps_storeLoft h1) h1
  have h3 : Keeps b acked := keeps_ite h2 (keeps_sendMsg h2)
  have h4 : Keeps b passed := by
    dsimp only [passed]
    split
    · exact keeps_ite (keeps_sendMsg h3) h3
    · exact h3
  split
  · exact keeps_ite (keeps_ownEnds h4) (keeps_checkStage (keeps_placeShard h4))
  · exact h4
theorem keeps_shardArrives {s hd bs off} : Keeps b (shardArrives d s hd bs off) := by
  unfold shardArrives
  refine keeps_ite ?_ ?_
  · exact keeps_takeShard h
  · refine keeps_ite ?_ ?_
    · exact keeps_ownEnds (keeps_bump h)
    · refine keeps_ite ?_ ?_
      · exact keeps_putShard (keeps_bump (keeps_bump h))
      · exact keeps_sendMsg (keeps_putShard (keeps_bump (keeps_bump h)))
theorem keeps_dropSamples {st phys bank} : Keeps b (dropSamples d st phys bank) := keeps_frame h
theorem keeps_claimBank {st phys crib bank format forPl spare} : Keeps b (claimBank d st phys crib bank format forPl
    spare) := keeps_dropSamples (keeps_loadSide (keeps_modStall (keeps_modBank h)))
theorem keeps_writeBankImage {st phys bank img} : Keeps b (writeBankImage d st phys bank img) := by
  unfold writeBankImage
  exact keeps_modBank (keeps_dramWrite h)
theorem keeps_writeWeak {st phys bank ws} : Keeps b (writeWeak d st phys bank ws) := by
  unfold writeWeak
  exact keeps_modBank (keeps_loadSide (keeps_dramWrite h))
theorem keeps_writePin {st crib bank img pin} : Keeps b (writePin st crib bank img d pin) := by
  unfold writePin
  dsimp only
  split
  · exact keeps_feedSramWrite h
  · exact keeps_modStall (keeps_feedSramWrite h)
theorem keeps_writeScales {a bs} : Keeps b (writeScales d a bs) := by
  unfold writeScales
  refine keeps_ite ?_ ?_
  · exact keeps_feedSramWrite h
  · exact keeps_memWrite h
theorem keeps_putPlacement {m p} : Keeps b (putPlacement d m p) := keeps_putModel h
theorem keeps_completeBank {m p ws cols} : Keeps b (completeBank d m p ws cols) := by
  unfold completeBank
  exact keeps_checkStage (keeps_releaseShards (keeps_putPlacement (keeps_modBank (keeps_writeScales (keeps_foldl
    (fun _ _ h => keeps_writePin h) (keeps_writeWeak h))))))
theorem keeps_beginGroup {m p cols} : Keeps b (beginGroup d m p cols) := keeps_putModel h
theorem keeps_placeBank {s m p raw cols} : Keeps b (placeBank d s m p raw cols) := by
  unfold placeBank
  dsimp only
  refine keeps_ite ?_ ?_
  · exact keeps_completeBank (keeps_modBank (keeps_dramWrite (keeps_dropSamples (keeps_modStall h))))
  · exact keeps_releaseShards (keeps_putPlacement (keeps_writeBankImage (keeps_claimBank h)))
theorem optKeeps_startPlacement {s m p} : OptKeeps b (startPlacement d s m p) := by
  have ht (qs : List Placement) :
      Keeps b ((s.shards.filter fun h => qs.any fun q => q.shard == h.index).foldl heldTouch d) :=
    keeps_foldl (fun _ _ h => keeps_heldTouch h) h
  unfold startPlacement
  dsimp only
  split
  · intro e he
    obtain ⟨raw, -, rfl⟩ := Option.map_eq_some_iff.mp he
    exact keeps_placeBank (ht _)
  · intro e he
    obtain ⟨data, -, rfl⟩ := Option.map_eq_some_iff.mp he
    split
    · exact keeps_ownEnds (ht _)
    · exact keeps_placeBank (keeps_beginGroup (ht _))
theorem keeps_startTwinBank {t} : Keeps b (startTwinBank d t) := by
  unfold startTwinBank
  exact keeps_modBank (keeps_writeBankImage (keeps_claimBank h))
theorem keeps_startSpare {st crib bs} : Keeps b (startSpare d st crib bs) :=
  keeps_writeBankImage (keeps_claimBank (keeps_dramTouchAll h))
theorem keeps_writePins {st image pins} : Keeps b (writePins d st image pins) :=
  keeps_foldl (fun _ _ h => keeps_modStall (keeps_feedSramWrite h)) h
theorem keeps_completeSpare {st crib bank ws} : Keeps b (completeSpare d st crib bank ws) := by
  unfold completeSpare
  exact keeps_modBank (keeps_foldl (fun _ _ h => keeps_writeScales h) (keeps_writePins (keeps_writeWeak h)))
theorem keeps_checkCopy : Keeps b (checkCopy d) := by
  unfold checkCopy
  refine keeps_ite ?_ ?_
  · exact keeps_sendTwin h
  · exact h
theorem keeps_completeTwin {t ws} : Keeps b (completeTwin d t ws) :=
  keeps_checkCopy (keeps_setPad (keeps_modBank (keeps_foldl (fun _ _ h => keeps_writeScales h) (keeps_writePins
  (keeps_writeWeak h)))))
theorem keeps_programFails {st phys bank} : Keeps b (programFails d st phys bank) := by
  unfold programFails
  dsimp only
  refine keeps_ite ?_ ?_
  · exact keeps_modStall (keeps_cribFails (keeps_modBank (keeps_bump h)))
  · refine keeps_ite ?_ ?_
    · exact keeps_checkCopy (keeps_setPad (keeps_cribFails (keeps_modBank (keeps_bump h))))
    · split
      · exact keeps_ownEnds (keeps_cribFails (keeps_modBank (keeps_bump h)))
      · exact keeps_cribFails (keeps_modBank (keeps_bump h))
theorem keeps_modelStageDev {c} : Keeps b (modelStageDev d c) := by
  unfold modelStageDev
  dsimp only
  refine keeps_ite ?_ ?_
  · exact keeps_finish h
  · refine keeps_ite ?_ ?_
    · exact keeps_finish h
    · refine keeps_ite ?_ ?_
      · exact keeps_finish h
      · refine keeps_ite ?_ ?_
        · exact keeps_finish h
        · refine keeps_ite ?_ ?_
          · exact keeps_finish h
          · split
            · exact keeps_finish h
            · exact keeps_setFeed h
theorem keeps_keyAddDev {c} : Keeps b (keyAddDev d c) := by
  unfold keyAddDev
  dsimp only
  refine keeps_ite ?_ ?_
  · exact keeps_finish h
  · refine keeps_ite ?_ ?_
    · exact keeps_finish h
    · refine keeps_ite ?_ ?_
      · exact keeps_finish h
      · refine keeps_ite ?_ ?_
        · exact keeps_finish h
        · split
          · exact keeps_finish h
          · exact keeps_finishAll (keeps_setFeed h)
theorem keeps_keyRemoveDev {c} : Keeps b (keyRemoveDev d c) := by
  unfold keyRemoveDev
  dsimp only
  refine keeps_ite ?_ ?_
  · exact keeps_finish h
  · split
    · exact keeps_finish h
    · exact keeps_finishAll (keeps_setFeed h)
theorem keeps_addWant {w} : Keeps b (addWant d w) := keeps_frame h
theorem keeps_markBusy {id v} : Keeps b (markBusy d id v) := by
  unfold markBusy
  split
  · exact keeps_putModel h
  · exact h
theorem keeps_setModelState {id s} : Keeps b (setModelState d id s) := by
  unfold setModelState
  split
  · exact keeps_putModel h
  · exact h
theorem keeps_modelActivateDev {othersMatch c} : Keeps b (modelActivateDev othersMatch d c) := by
  unfold modelActivateDev
  dsimp only
  refine keeps_ite ?_ ?_
  · exact keeps_finish h
  · split
    · exact keeps_finish h
    · refine keeps_ite ?_ ?_
      · exact keeps_finish h
      · refine keeps_ite ?_ ?_
        · exact keeps_finish h
        · refine keeps_ite ?_ ?_
          · exact keeps_finish h
          · refine keeps_addWant ?_
            refine keeps_ite ?_ ?_
            · exact keeps_setModelState (keeps_markBusy (keeps_tellAll (keeps_markBusy h)))
            · exact keeps_tellAll (keeps_markBusy h)
theorem keeps_modelRetireDev {c} : Keeps b (modelRetireDev d c) := by
  unfold modelRetireDev
  dsimp only
  split
  · exact keeps_finish h
  · split
    · exact keeps_finish h
    · split
      · split
        · exact keeps_finish (keeps_closeStage h)
        · exact keeps_finish (keeps_dropModel h)
      · exact keeps_finishAll (keeps_dropModel h)
      · exact keeps_addWant (keeps_setModelState (keeps_markBusy h))
      · exact keeps_finish h
theorem keeps_queueAdapter {c bs copies fit} : Keeps b (queueAdapter d c bs copies fit) := by
  unfold queueAdapter
  cases adapterId d with
  | none => exact keeps_finish h
  | some id =>
    cases adapterRoom d bs with
    | none => exact keeps_finish h
    | some off =>
      dsimp only
      refine keeps_ite ?_ ?_
      · exact keeps_finish h
      · exact keeps_setFeed h
theorem keeps_adapterLoadDev {othersFit c} : Keeps b (adapterLoadDev othersFit d c) := by
  unfold adapterLoadDev
  dsimp only
  refine keeps_ite ?_ ?_
  · exact keeps_finish h
  · refine keeps_ite ?_ ?_
    · exact keeps_finish h
    · refine keeps_ite ?_ ?_
      · exact keeps_finish h
      · split
        · exact keeps_finish h
        · refine keeps_ite ?_ ?_
          · exact keeps_finish h
          · refine keeps_ite ?_ ?_
            · exact keeps_finish h
            · exact keeps_queueAdapter h
theorem keeps_adapterUnloadDev {usedElsewhere c} : Keeps b (adapterUnloadDev usedElsewhere d c) := by
  unfold adapterUnloadDev
  dsimp only
  refine keeps_ite ?_ ?_
  · exact keeps_finish h
  · refine keeps_ite ?_ ?_
    · exact keeps_finish h
    · exact keeps_finishAll (keeps_setFeed h)

/-! ### Submit -/

theorem keeps_keyToken {id tok} : Keeps b (keyToken d id tok) := by
  unfold keyToken
  dsimp only
  split
  · exact h
  · split <;> exact keeps_putSeqPart h
theorem keeps_keyBatch {c} : Keeps b (keyBatch d c) := keeps_foldl (fun _ _ h => keeps_keyToken h) (keeps_derWrite h)
theorem keeps_beginRoutines {c} : Keeps b (beginRoutines d c) := keeps_putCmd h
theorem keeps_submitDev {c} : Keeps b (submitDev d c) := by
  unfold submitDev
  split
  · exact keeps_finish h
  · split
    · exact keeps_finish h
    · split
      · exact keeps_finish h
      · refine keeps_beginRoutines ?_
        split
        · exact keeps_keyBatch h
        · exact h
theorem keeps_submitAbortDev {c} : Keeps b (submitAbortDev d c) := by
  unfold submitAbortDev
  dsimp only
  refine keeps_ite ?_ ?_
  · exact keeps_finish h
  · refine keeps_ite ?_ ?_
    · exact keeps_finish h
    · refine keeps_putCmd (keeps_foldl (fun _ _ h => keeps_abortStall h) (keeps_setCmds h (cidsOk_map fun x => ?_)))
      split <;> rfl
theorem keeps_startRoutine {c st} : Keeps b (startRoutine d c st) := by
  unfold startRoutine
  exact keeps_modStall (keeps_putCmd h)
theorem keeps_copyOut {c} : Keeps b (copyOut d c).1 := by
  unfold copyOut
  split
  · exact h
  · dsimp only
    split
    · exact h
    · exact keeps_pair (keeps_memRead (keeps_countBeyond h))

/-! ### Solve -/

theorem keeps_spendCredit {o st phys} : Keeps b (spendCredit o st phys d) := keeps_setCrib h
theorem keeps_solveMvm {st crib bank reps q} : Keeps b (solveMvm d st crib bank reps q).1 := by
  unfold solveMvm
  refine keeps_frame (keeps_mvmCounts (keeps_bumpUnless ?_))
  exact keeps_foldl (fun _ _ h => keeps_takeSample h) (keeps_spendCredit (keeps_dramTouchAll (keeps_countMvm h)))
theorem keeps_blockOuts {reps e q} : Keeps b (blockOuts d reps e q).1 := by
  unfold blockOuts
  split
  · exact keeps_solveMvm h
  · exact keeps_frame h
theorem keeps_colScales {e} : Keeps b (colScales d e).1 := by
  unfold colScales
  dsimp only
  split
  · exact keeps_unitSramRead h
  · exact keeps_memRead h
omit h in
theorem keeps_blockPart {reps z r e} (h : Keeps b r.1) : Keeps b (blockPart reps z r e).1 :=
  keeps_blockOuts (keeps_colScales h)
theorem keeps_operate {a bs z} : Keeps b (operate a bs d z).1 := keeps_foldl_fst (fun _ _ h => keeps_blockPart h) h
theorem keeps_arnoldi {op n vs hs} (hop : ∀ d z, Keeps b d → Keeps b (op d z).1) :
    Keeps b (arnoldi op n d vs hs).1 := by
  induction n generalizing d vs hs with
  | zero => exact h
  | succ n ih =>
    unfold arnoldi
    dsimp only
    split
    · exact hop _ _ h
    · exact ih (hop _ _ h)
theorem keeps_solveInner {a bs r} : Keeps b (solveInner a bs d r).1 := by
  unfold solveInner
  dsimp only
  split
  · exact h
  · exact keeps_arnoldi h fun _ _ h => keeps_operate h
theorem keeps_startSolve {c st} : Keeps b (startSolve d c st) := by
  unfold startSolve
  exact keeps_modStall (keeps_modCmd h)
theorem keeps_haltSolve {c} : Keeps b (haltSolve d c) := keeps_foldl (fun _ _ h => keeps_modStall h) h
theorem keeps_endSolve {c a s result} : Keeps b (endSolve d c a s result) :=
  keeps_finish (keeps_haltSolve (keeps_derWrite h))
theorem keeps_solveStep {c a s} : Keeps b (solveStep d c a s) := by
  unfold solveStep
  extract_lets p read x r flat next
  have h1 : Keeps b read := keeps_dramTouchAll (keeps_solveInner h)
  refine keeps_ite (keeps_endSolve h) (keeps_ite (keeps_endSolve h) (keeps_ite (keeps_endSolve h1) ?_))
  exact keeps_ite (keeps_endSolve h1) (keeps_foldl (fun _ _ h => keeps_boundary h) (keeps_putCmd h1))
theorem optKeeps_solveNext {c s} : OptKeeps b (solveNext d c s) := by
  unfold solveNext
  dsimp only
  refine optKeeps_ite ?_ ?_
  · exact optKeeps_none
  · refine optKeeps_ite ?_ ?_
    · refine optKeeps_ite ?_ ?_
      · exact optKeeps_none
      · exact optKeeps_some (keeps_finish (keeps_haltSolve h))
    · refine optKeeps_ite ?_ ?_
      · refine optKeeps_ite ?_ ?_
        · exact optKeeps_none
        · exact optKeeps_some (keeps_foldl (fun _ _ h => keeps_startSolve h) h)
      · exact optKeeps_some (keeps_solveStep h)
theorem keeps_solveDev {c} : Keeps b (solveDev d c) := by
  unfold solveDev
  dsimp only
  split
  · exact keeps_finish h
  · refine keeps_ite ?_ ?_
    · exact keeps_finish (keeps_dramTouchAll h)
    · refine keeps_ite ?_ ?_
      · exact keeps_endSolve (keeps_dramTouchAll (keeps_dramTouchAll h))
      · refine keeps_ite ?_ ?_
        · exact keeps_finish (keeps_dramTouchAll (keeps_dramTouchAll h))
        · exact keeps_putCmd (keeps_dramTouchAll (keeps_dramTouchAll h))

/-! ### Epochs -/

theorem keeps_putEpoch {e} : Keeps b (putEpoch d e) := keeps_setPad h
theorem keeps_makeLive {k} : Keeps b (makeLive d k) := keeps_modBank h
theorem keeps_newEpoch {num s act ret take refit fits} : Keeps b (newEpoch d num s act ret take refit fits) :=
  keeps_foldl (fun _ _ h => keeps_makeLive h) (keeps_setPad h)
theorem keeps_enterEpoch {num o} : Keeps b (enterEpoch d num o) := by
  unfold enterEpoch
  dsimp only
  refine keeps_ite ?_ ?_
  · split <;> exact keeps_frame (keeps_newEpoch h)
  · exact keeps_newEpoch h
theorem keeps_postFits {st ns} : Keeps b (postFits d st ns) :=
  keeps_foldl (fun _ _ h => keeps_foldl (fun _ _ h => keeps_modBank h) h) h
theorem keeps_postStall {e st} : Keeps b (postStall e d st) := keeps_modStall (keeps_postFits h)
theorem keeps_limiterStep : Keeps b (limiterStep d) := by
  unfold limiterStep
  dsimp only
  split
  · exact keeps_setPad h
  · exact h
theorem optKeeps_postEpoch {e} : OptKeeps b (postEpoch d e) := by
  unfold postEpoch
  dsimp only
  refine optKeeps_ite ?_ ?_
  · exact optKeeps_none
  · refine optKeeps_some ?_
    refine keeps_limiterStep ?_
    refine keeps_foldl (fun d a h => ?_) ?_
    · exact keeps_postStall h
    · refine keeps_ite ?_ ?_
      · exact keeps_setPad h
      · exact h
theorem keeps_takeoverDone {m entry} : Keeps b (takeoverDone d m entry) := by
  unfold takeoverDone
  dsimp only
  split
  · split
    · exact keeps_setPad h
    · exact keeps_raiseEvent (keeps_setPad h)
  · split
    · exact h
    · exact keeps_raiseEvent h
theorem keeps_epochEffects {e} : Keeps b (epochEffects d e) := by
  unfold epochEffects
  extract_lets activated retired taken
  have h1 : Keeps b activated := by
    dsimp only [activated]
    split
    · exact keeps_setModelState (keeps_markBusy h)
    · exact h
  have h2 : Keeps b retired := by
    dsimp only [retired]
    split
    · exact keeps_setModelState (keeps_markBusy h1)
    · exact h1
  have h3 : Keeps b taken := by
    dsimp only [taken]
    split
    · exact keeps_takeoverDone h2
    · exact h2
  exact keeps_foldl (fun d a h => keeps_finish h) h3
theorem keeps_completeEpochs {n} : Keeps b (completeEpochs n d) := by
  induction n generalizing d with
  | zero => exact h
  | succ n ih =>
    unfold completeEpochs
    split
    · exact h
    · refine keeps_ite ?_ ?_
      · exact h
      · exact ih (keeps_tellAll (keeps_epochEffects (keeps_setPad (keeps_putEpoch h))))
theorem keeps_reportEpoch {m e} : Keeps b (reportEpoch d m e) := keeps_setPad h
theorem keeps_learnComplete {e n} : Keeps b (learnComplete e n d) := by
  induction n generalizing d with
  | zero => exact h
  | succ n ih =>
    unfold learnComplete
    split
    · exact h
    · refine keeps_ite ?_ ?_
      · exact h
      · exact ih (keeps_epochEffects (keeps_setPad (keeps_putEpoch h)))
theorem keeps_settleBusy : Keeps b (settleBusy d) := keeps_setModels h
theorem keeps_dropBank {k} : Keeps b (dropBank d k) := by
  unfold dropBank
  refine keeps_ite ?_ ?_
  · exact h
  · exact keeps_modBank h
theorem keeps_freeRetired : Keeps b (freeRetired d) := keeps_foldl (fun _ _ h => keeps_dropModel h) h

/-! ### Remote -/

theorem issueKeeps_putIssue {kind st i x} : IssueKeeps b (putIssue kind st i x d) := by
  unfold putIssue
  dsimp only
  split
  · exact issueKeeps_remoteOp h
  · refine issueKeeps_withLocal fun _ _ => ?_
    split
    · exact keeps_sramTouch (keeps_of_go ‹_› (issueKeeps_remoteOp h))
    · exact issueKeeps_remoteOp h
theorem issueKeeps_getIssue {st i x} : IssueKeeps b (getIssue st i x d) :=
  issueKeeps_withLocal fun _ _ => issueKeeps_remoteOp h
theorem issueKeeps_aaddIssue {k st i x} : IssueKeeps b (aaddIssue k st i x d) := issueKeeps_remoteOp h
theorem issueKeeps_faddIssue {k st i x} : IssueKeeps b (faddIssue k st i x d) := issueKeeps_remoteOp h
omit h in
theorem issueKeeps_fenceIssue {scope st i x} (h : Keeps b d) : IssueKeeps b (fenceIssue scope st i x d) := by
  unfold fenceIssue
  refine issueKeeps_ite ?_ ?_
  · trivial
  · exact h
theorem issueKeeps_waitcIssue {st i x} : IssueKeeps b (waitcIssue st i x d) := by
  unfold waitcIssue
  refine issueKeeps_ite ?_ ?_
  · exact issueKeeps_go h
  · exact issueKeeps_wait
theorem keeps_completeOp {o} : Keeps b (completeOp d o) := by
  unfold completeOp
  dsimp only
  split
  · refine keeps_addCounter ?_
    refine keeps_ite ?_ ?_
    · exact keeps_sramWrite (keeps_dropOp h)
    · refine keeps_ite ?_ ?_
      · exact keeps_modStall (keeps_dropOp h)
      · exact keeps_dropOp h
  · refine keeps_ite ?_ ?_
    · exact keeps_sramWrite (keeps_dropOp h)
    · refine keeps_ite ?_ ?_
      · exact keeps_modStall (keeps_dropOp h)
      · exact keeps_dropOp h

/-! ### Reset -/

theorem keeps_clearMsix {fn} : Keeps b (clearMsix d fn) := keeps_frame h
theorem keeps_resetCmd {reason c} : Keeps b (resetCmd reason d c) := by
  unfold resetCmd
  dsimp only
  refine keeps_ite ?_ ?_
  · exact keeps_stopRoutines (keeps_putCmd h)
  · split
    · exact keeps_closeStage (keeps_dropCmd (keeps_freeAway h))
    · exact keeps_dropCmd (keeps_freeAway h)
theorem keeps_endFunction {reason fn} : Keeps b (endFunction reason d fn) :=
  keeps_foldl (fun _ _ h => keeps_closeSeq h) (keeps_foldl (fun _ _ h => keeps_resetCmd h) h)
theorem keeps_resetFunction {reason fn} : Keeps b (resetFunction reason d fn) := by
  unfold resetFunction
  dsimp only
  split
  · split
    · exact keeps_clearMsix (keeps_frame h)
    · exact keeps_clearMsix (keeps_endFunction (keeps_foldl (fun _ _ h => keeps_sendMsg h) (keeps_foldl (fun _ _ h =>
        keeps_freeRing h) (keeps_frame h))))
  · split
    · exact keeps_clearMsix h
    · exact keeps_clearMsix (keeps_endFunction (keeps_foldl (fun _ _ h => keeps_sendMsg h) (keeps_foldl (fun _ _ h =>
        keeps_freeRing h) h)))
theorem keeps_withLinkUp {up} : Keeps b { d with host := { d.host with linkUp := up } } := keeps_frame h

theorem keeps_linkLost : Keeps b (linkLost d) := by
  unfold linkLost
  generalize allFunctions = l
  exact keeps_withLinkUp (keeps_foldl (fun _ _ h => keeps_resetFunction h) h)
theorem keeps_trainHost : Keeps b (trainHost d) := keeps_frame h
theorem keeps_powerOff {record} : Keeps b (powerOff d record) := keeps_frame (keeps_moduleReset h)

/-! ### Twin -/

theorem keeps_sendCopy : Keeps b (sendCopy d) :=
  keeps_mirrorState (keeps_sendTwin (keeps_foldl (fun _ _ h => keeps_loftTouch h) (keeps_foldl (fun _ _ h =>
  keeps_dramTouch h) h)))
theorem keeps_emptyBanks : Keeps b (emptyBanks d) := by
  unfold emptyBanks
  refine keeps_ite ?_ ?_
  · exact keeps_frame h
  · exact h
theorem keeps_takeCopy {src mirror dram loft banks} : Keeps b (takeCopy d src mirror dram loft banks) :=
  keeps_checkCopy (keeps_emptyBanks (keeps_loftWrite (keeps_dramWrite (keeps_setPad h))))
theorem keeps_followState {p} : Keeps b (followState d p) := by
  unfold followState
  dsimp only
  refine keeps_ite ?_ ?_
  · exact h
  · exact keeps_modBank h
theorem keeps_followEpoch {x} : Keeps b (followEpoch d x) := by
  unfold followEpoch
  extract_lets posted
  have h1 : Keeps b posted := keeps_ite (keeps_newEpoch h) h
  exact keeps_ite (keeps_setPad h1) h1
theorem keeps_takeTwinState {x} : Keeps b (takeTwinState d x) :=
  keeps_followEpoch (keeps_foldl (fun _ _ h => keeps_followState h) (keeps_setPad (keeps_frame (keeps_setFeed h))))
theorem keeps_takeTwinWrite {n loft obs} : Keeps b (takeTwinWrite d n loft obs) := by
  unfold takeTwinWrite
  refine keeps_sendTwin ?_
  refine keeps_ite ?_ ?_
  · exact keeps_loftWrite h
  · exact keeps_dramWrite h
theorem keeps_endHeld : Keeps b (endHeld d) := keeps_drainRings (keeps_foldl (fun _ _ h => keeps_endNow h) h)
theorem keeps_releaseOps {f} : Keeps b (releaseOps d f) := keeps_foldl (fun _ _ h => keeps_performed h) h
theorem keeps_releaseMirrored {f} : Keeps b (releaseMirrored d f) := keeps_releaseJobs (keeps_releaseOps h)
theorem keeps_takeTwinDone {n} : Keeps b (takeTwinDone d n) := by
  unfold takeTwinDone
  dsimp only
  refine keeps_ite ?_ ?_
  · exact keeps_endHeld (keeps_releaseMirrored (keeps_setPad h))
  · exact keeps_releaseMirrored (keeps_setPad h)
theorem keeps_stopMirror : Keeps b (stopMirror d) := keeps_endHeld (keeps_releaseMirrored (keeps_setPad h))
theorem keeps_noteBinding {m s e} : Keeps b (noteBinding d m s e) := by
  unfold noteBinding
  dsimp only
  split
  · exact h
  · split
    · exact keeps_finish (keeps_setPad h)
    · exact keeps_setPad h
theorem keeps_bindingInStep {m} : Keeps b (bindingInStep d m) := by
  unfold bindingInStep
  refine keeps_ite ?_ ?_
  · exact keeps_noteBinding h
  · exact h
theorem keeps_bindingLost {m} : Keeps b (bindingLost d m) := by
  unfold bindingLost
  split
  · exact h
  · refine keeps_ite ?_ ?_
    · exact keeps_completeEpochs (keeps_sendMsg (keeps_noteBinding h))
    · exact h
theorem keeps_dropTwinBanks : Keeps b (dropTwinBanks d) := keeps_setPad (keeps_frame h)
theorem keeps_loseTwin : Keeps b (loseTwin d) := by
  unfold loseTwin
  dsimp only
  refine keeps_ite ?_ ?_
  · exact h
  · refine keeps_ite ?_ ?_
    · exact keeps_dropTwinBanks (keeps_setPad h)
    · refine keeps_ite ?_ ?_
      · exact h
      · refine keeps_ite ?_ ?_
        · exact keeps_sendMsg (keeps_stopMirror (keeps_raiseEvent (keeps_setPad h)))
        · exact keeps_bindingLost (keeps_stopMirror (keeps_raiseEvent (keeps_setPad h)))

/-! ### Ports -/

theorem keeps_cutOp {o} : Keeps b (cutOp d o) := keeps_performedZero (keeps_countViol (keeps_putOp h))
theorem keeps_cutOps {m} : Keeps b (cutOps d m) := keeps_foldl (fun _ _ h => keeps_cutOp h) h
theorem keeps_cutCommands {m} : Keeps b (cutCommands d m) := by
  unfold cutCommands
  dsimp only
  refine keeps_foldl (fun d a h => ?_) (keeps_foldl (fun _ _ h => keeps_finish h) h)
  refine keeps_ite ?_ ?_
  · exact keeps_finish (keeps_putCmd h)
  · exact keeps_putCmd h
theorem keeps_cutStage {m} : Keeps b (cutStage d m) := by
  unfold cutStage
  dsimp only
  split
  · split
    · split
      · split
        · exact keeps_ownEnds (keeps_noteResult h)
        · exact keeps_noteResult h
      · exact keeps_noteResult h
    · exact keeps_clearStage h
  · exact h
theorem keeps_retarget {m entry} : Keeps b (retarget d m entry) := keeps_setPad h
theorem keeps_takeOver {m entry chain} : Keeps b (takeOver d m entry chain) :=
  keeps_addWant (keeps_setPad (keeps_foldl (fun _ _ h => keeps_holdAway h) (keeps_foldl (fun _ _ h => keeps_sendMsg h)
  (keeps_retarget h))))
theorem keeps_bindingOfLost {m} : Keeps b (bindingOfLost d m) := by
  unfold bindingOfLost
  split
  · exact h
  · refine keeps_ite ?_ ?_
    · exact keeps_takeOver h
    · refine keeps_ite ?_ ?_
      · exact keeps_bindingLost (keeps_raiseEvent h)
      · exact h
theorem keeps_memberLost {m} : Keeps b (memberLost d m) := by
  unfold memberLost
  refine keeps_ite ?_ ?_
  · exact h
  · exact keeps_completeEpochs (keeps_bindingOfLost (keeps_cutStage (keeps_cutCommands (keeps_cutOps (keeps_setPad
      (keeps_raiseEvent h))))))
theorem keeps_leadMissing : Keeps b (leadMissing d) := by
  unfold leadMissing
  refine keeps_ite ?_ ?_
  · split
    · exact keeps_sendMsg h
    · exact h
  · exact h
theorem keeps_reachLost : Keeps b (reachLost d) :=
  keeps_foldl (fun _ _ h => keeps_memberLost h) (keeps_leadMissing (keeps_foldl (fun _ _ h => keeps_cutOps h) h))
theorem keeps_twinPortLost : Keeps b (twinPortLost d) := by
  unfold twinPortLost
  refine keeps_ite ?_ ?_
  · exact h
  · exact keeps_loseTwin h
theorem keeps_reportPort {m} : Keeps b (reportPort d m) := by
  unfold reportPort
  refine keeps_ite ?_ ?_
  · exact keeps_sendMsg h
  · exact h
theorem keeps_portDown {p} : Keeps b (portDown d p) := by
  unfold portDown
  dsimp only
  refine keeps_ite ?_ ?_
  · exact h
  · refine keeps_reachLost ?_
    refine keeps_ite ?_ ?_
    · exact keeps_twinPortLost (keeps_reportPort (keeps_raiseEvent (keeps_setPort (keeps_bump h))))
    · exact keeps_reportPort (keeps_raiseEvent (keeps_setPort (keeps_bump h)))
theorem keeps_opticalLock {port} : Keeps b (opticalLock d port) := by
  unfold opticalLock
  split <;> exact keeps_frame h
theorem keeps_routePort {p} : Keeps b (routePort d p) := by
  unfold routePort
  refine keeps_ite ?_ ?_
  · exact keeps_setPort (keeps_setPad h)
  · exact h
theorem keeps_routeEnd {q} : Keeps b (routeEnd d q) := by
  unfold routeEnd
  refine keeps_ite ?_ ?_
  · exact keeps_routePort h
  · exact keeps_sendMsg (keeps_setPad h)
theorem keeps_linkBack {e p peer} : Keeps b (linkBack d e p peer) := by
  unfold linkBack
  split
  · exact h
  · exact keeps_raiseEvent (keeps_routeEnd (keeps_routeEnd h))
theorem keeps_sendQueued {p n} : Keeps b (sendQueued p n d) := by
  induction n generalizing d with
  | zero => exact h
  | succ n ih =>
    unfold sendQueued
    dsimp only
    split
    · exact h
    · refine keeps_ite ?_ ?_
      · exact ih (keeps_sendPacket (keeps_setPort h))
      · exact h
theorem keeps_takeAck {p seq} : Keeps b (takeAck d p seq) := by
  unfold takeAck
  dsimp only
  refine keeps_ite ?_ ?_
  · exact keeps_sendQueued (keeps_setPort h)
  · exact h
theorem keeps_replayFrom {p seq} : Keeps b (replayFrom d p seq) := by
  unfold replayFrom
  dsimp only
  refine keeps_ite ?_ ?_
  · exact h
  · refine keeps_ite ?_ ?_
    · exact keeps_portDown h
    · exact keeps_foldl (fun _ _ h => keeps_emit h) (keeps_bumpBy (keeps_setPort h))
theorem keeps_relay {dst op body other} (ho : ∀ d, Keeps b d → Keeps b (other d)) :
    Keeps b (relay d dst op body other) := by
  unfold relay
  refine keeps_ite ?_ ?_
  · exact ho _ h
  · exact keeps_sendTo h
theorem keeps_joinPiece {kind src id total piece data} : Keeps b (joinPiece d kind src id total piece data).1 := by
  unfold joinPiece
  dsimp only
  split <;> exact keeps_setPad h
theorem keeps_heard {e} : Keeps b (heard d e) := keeps_setPad h
theorem keeps_takeRequest {op} : Keeps b (takeRequest d op) := keeps_frame h
theorem keeps_takeRequestPiece {op piece} : Keeps b (takeRequestPiece d op piece) := by
  unfold takeRequestPiece
  refine keeps_ite ?_ ?_
  · split
    · exact keeps_takeRequest (keeps_of_pair ‹_› (keeps_joinPiece (keeps_heard h)))
    · exact keeps_of_pair ‹_› (keeps_joinPiece (keeps_heard h))
  · exact keeps_relay h fun _ h => keeps_relay h fun _ h => h
theorem keeps_cutEnd {e} : Keeps b (cutEnd d e) := keeps_leadMissing (keeps_setPad h)
theorem keeps_takeReply {id data} : Keeps b (takeReply d id data) := by
  unfold takeReply
  split
  · split
    · exact keeps_putOp h
    · exact h
  · exact h
theorem keeps_takeReplyPiece {op piece data} : Keeps b (takeReplyPiece d op piece data) := by
  unfold takeReplyPiece
  refine keeps_ite ?_ ?_
  · dsimp only
    split
    · exact keeps_takeReply (keeps_of_pair ‹_› (keeps_joinPiece (keeps_heard h)))
    · exact keeps_of_pair ‹_› (keeps_joinPiece (keeps_heard h))
  · exact keeps_relay h fun _ h => h
theorem keeps_takeReturned {id} : Keeps b (takeReturned d id) := by
  unfold takeReturned
  split
  · split
    · exact keeps_cutOp h
    · exact h
  · exact h
theorem keeps_closeAll : Keeps b (closeAll d) := keeps_foldl (fun _ _ h => keeps_closeSeq h) h
theorem keeps_abortAll {reason} : Keeps b (abortAll d reason) := keeps_foldl (fun _ _ h => keeps_abortStall h) h
theorem keeps_silenceCommands : Keeps b (silenceCommands d) :=
  keeps_setCmds h (cidsOk_mapFilter fun _ => rfl)
theorem keeps_dropUnmirrored : Keeps b (dropUnmirrored d) := by
  unfold dropUnmirrored
  refine keeps_retireLists ?_
  refine keeps_ite ?_ ?_
  · exact h
  · exact keeps_foldl (fun _ _ h => keeps_putPrefix h) (keeps_closeAll h)
theorem keeps_assumeIndex {index chain} : Keeps b (assumeIndex d index chain) := by
  unfold assumeIndex
  refine keeps_ite ?_ ?_
  · exact keeps_dropUnmirrored (keeps_setPad h)
  · exact h
theorem keeps_takeAnswer {src cid e} : Keeps b (takeAnswer d src cid e) := by
  unfold takeAnswer
  dsimp only
  split
  · split
    · split
      · exact keeps_finish (keeps_putCmd h)
      · exact keeps_putCmd h
    · split
      · exact h
      · split
        · exact keeps_addWant (keeps_putCmd h)
        · exact keeps_finish h
  · exact h
theorem keeps_takeStop {cid reason} : Keeps b (takeStop d cid reason) := by
  unfold takeStop
  split
  · exact keeps_drainRings (keeps_stopCmd h)
  · exact h
theorem keeps_takeTaken {m chain entry} : Keeps b (takeTaken d m chain entry) := by
  unfold takeTaken
  dsimp only
  refine keeps_ite ?_ ?_
  · exact keeps_assumeIndex (keeps_setPad (keeps_retarget h))
  · exact keeps_setPad (keeps_retarget h)
theorem keeps_endStages : Keeps b (endStages d) := keeps_foldl (fun _ _ h => keeps_closeStage h) h
theorem keeps_takeStopAll : Keeps b (takeStopAll d) :=
  keeps_endStages (keeps_silenceCommands (keeps_abortAll (keeps_setPad h)))
theorem keeps_takeChecked {src model} : Keeps b (takeChecked d src model) := by
  unfold takeChecked
  split
  · exact keeps_clearStage (keeps_putStage h)
  · exact h
theorem keeps_takeGo {model} : Keeps b (takeGo d model) := by
  unfold takeGo
  split
  · exact keeps_putStage h
  · exact h
theorem keeps_takePortDown {src p} : Keeps b (takePortDown d src p) := keeps_reachLost (keeps_setPad h)
theorem keeps_takeHold {cid epoch stalls} : Keeps b (takeHold d cid epoch stalls) := keeps_setPad (keeps_dropGuest h)
theorem keeps_takeInStep {src} : Keeps b (takeInStep d src) := by
  unfold takeInStep
  refine keeps_ite ?_ ?_
  · refine keeps_ite ?_ ?_
    · exact keeps_setPad h
    · exact h
  · exact keeps_bindingInStep h
theorem keeps_takeMessage {src a1} : Keeps b (takeMessage d src a1) := by
  unfold takeMessage
  split
  · exact keeps_takeAnswer h
  · exact keeps_takeStop h
  · exact keeps_endFunction h
  · exact keeps_takeHold h
  · exact keeps_dropGuest h
  · exact keeps_takeStopAll h
  · exact keeps_takeEvent h
  · exact keeps_takeAckOf h
  · exact keeps_takeChecked h
  · exact keeps_takeGo h
  · exact keeps_markBusy h
  · exact keeps_takeFreed h
  · exact keeps_takePortDown h
  · exact keeps_linkBack h
  · exact keeps_routePort h
  · exact keeps_takeTaken h
  · exact keeps_setPad h
  · exact keeps_takeInStep h
  · exact keeps_bindingLost h
  · exact keeps_loseTwin h
  · exact keeps_takeCopy h
  · exact keeps_takeTwinState h
  · exact keeps_takeTwinWrite h
  · exact keeps_takeTwinDone h
  · exact keeps_setPad h
  · exact h
  · exact h
  · exact h
  · exact h
  · exact h
  · exact h
  · exact h
  · exact h
  · exact h
  · exact h
theorem keeps_passMessage {dst src body} : Keeps b (passMessage d dst src body) := by
  unfold passMessage
  split <;> exact keeps_sendTo h
theorem keeps_deliver {p body} : Keeps b (deliver d p body) := by
  cases body with
  | request op piece => exact keeps_takeRequestPiece h
  | reply op piece data => exact keeps_takeReplyPiece h
  | returned op => exact keeps_ite (keeps_takeReturned (keeps_cutEnd h)) (keeps_relay h fun _ h => h)
  | ack seq => exact keeps_takeAck h
  | replay seq => exact keeps_replayFrom h
  | message dst src m => exact keeps_ite (keeps_takeMessage (keeps_heard h)) (keeps_passMessage h)
  | piece dst src no k m data =>
    refine keeps_ite ?_ (keeps_passMessage h)
    split
    · exact keeps_takeMessage (keeps_of_pair ‹_› (keeps_joinPiece (keeps_heard h)))
    · exact keeps_of_pair ‹_› (keeps_joinPiece (keeps_heard h))
  | undelivered dst src => exact keeps_ite (keeps_cutEnd h) (keeps_passMessage h)
theorem keeps_discard {p pkt} : Keeps b (discard d p pkt) := by
  unfold discard
  refine keeps_emit ?_
  refine keeps_ite ?_ ?_
  · exact h
  · exact keeps_bump h

/-! ### Paddock -/

theorem keeps_planPort {l} : Keeps b (planPort d l) := keeps_setPort h
theorem keeps_applyPlan {bs role index chain} : Keeps b (applyPlan d bs role index chain) :=
  keeps_foldl (fun _ _ h => keeps_planPort h) (keeps_setPad h)
theorem keeps_becomeFollower {c} : Keeps b (becomeFollower d c) := by
  unfold becomeFollower
  refine keeps_finish ?_
  split <;> exact keeps_applyPlan (keeps_setFeed (keeps_frame (keeps_foldl (fun _ _ h => keeps_setRing h) h)))
theorem keeps_toPlan {c data} : Keeps b (toPlan d c data) := keeps_foldl (fun _ _ h => keeps_sendMsg h) h
theorem keeps_joinLead {c linksUp busy newest} : Keeps b (joinLead d c linksUp busy newest) := by
  unfold joinLead
  dsimp only
  refine keeps_ite ?_ ?_
  · exact keeps_finish h
  · refine keeps_ite ?_ ?_
    · exact keeps_finish h
    · refine keeps_ite ?_ ?_
      · exact keeps_finish h
      · refine keeps_ite ?_ ?_
        · exact keeps_finish h
        · refine keeps_ite ?_ ?_
          · exact keeps_finish h
          · refine keeps_ite ?_ ?_
            · exact keeps_finish h
            · refine keeps_ite ?_ ?_
              · exact keeps_setPad (keeps_putCmd h)
              · refine keeps_ite ?_ ?_
                · exact keeps_finish (keeps_setPad h)
                · exact keeps_addWant (keeps_toPlan (keeps_applyPlan h))
theorem keeps_becomeAlone : Keeps b (becomeAlone d) := keeps_settleBusy (keeps_frame (keeps_setPad h))
theorem keeps_unbindOwn : Keeps b (unbindOwn d) := keeps_dropTwinBanks (keeps_stopMirror (keeps_setPad h))
theorem keeps_dropAllLive : Keeps b (dropAllLive d) := keeps_frame (keeps_setPad h)
theorem keeps_cutAway : Keeps b (cutAway d) := keeps_foldl (fun _ _ h => keeps_cutOp h) h
theorem keeps_bindHere {c} : Keeps b (bindHere d c) := by
  unfold bindHere
  dsimp only
  refine keeps_ite ?_ ?_
  · refine keeps_ite ?_ ?_
    · exact h
    · exact keeps_setPad h
  · refine keeps_ite ?_ ?_
    · exact keeps_sendCopy (keeps_setPad h)
    · exact h
theorem keeps_toTwins {c entry} : Keeps b (toTwins d c entry) := by
  unfold toTwins
  dsimp only
  refine keeps_ite ?_ ?_
  · exact keeps_tell h
  · exact keeps_tell (keeps_tell h)
theorem keeps_abortCommands {but} : Keeps b (abortCommands d but) :=
  keeps_drainRings (keeps_foldl (fun _ _ h => keeps_endNow h) h)

/-! ### Sense -/

theorem keeps_endSweep : Keeps b (endSweep d) := by
  unfold endSweep
  dsimp only
  split <;> exact keeps_frame h
theorem keeps_checkRefit : Keeps b (checkRefit d) := by
  unfold checkRefit
  split
  · split
    · split
      · split
        · exact keeps_finish h
        · exact keeps_addWant (keeps_frame h)
      · exact h
    · exact h
  · exact h
theorem keeps_holdFit {k c} : Keeps b (holdFit d k c) := keeps_checkRefit (keeps_frame h)
theorem keeps_fitFails {st crib bank} : Keeps b (fitFails d st crib bank) := keeps_cribFails (keeps_setBank h)
theorem keeps_checkChannel {before n} : Keeps b (checkChannel before d n) := by
  unfold checkChannel
  extract_lets s runs counted
  have h1 : Keeps b counted := keeps_frame h
  exact keeps_ite h (keeps_ite h1 (keeps_raiseEvent (keeps_frame h1)))
theorem keeps_checkAdc : Keeps b (checkAdc d) := by
  unfold checkAdc
  extract_lets s cs sum bad runs e
  have h1 : Keeps b e := keeps_setSense h id
  refine keeps_ite ?_ ?_
  · refine keeps_raiseEvent (keeps_setSense h1 fun _ => ?_)
    exact ⟨⟨le_refl 16, (by decide : 16 ≤ 256)⟩, le_refl 4, (by decide : 4 ≤ 16)⟩
  · exact h1
theorem keeps_unmetWindow {p l} : Keeps b (unmetWindow d p l) := by
  unfold unmetWindow
  dsimp only
  refine keeps_ite ?_ ?_
  · refine keeps_ite ?_ ?_
    · exact keeps_bump (keeps_frame h)
    · exact keeps_raiseEvent (keeps_frame (keeps_bump (keeps_frame h)))
  · exact keeps_frame h
theorem keeps_powerWindow : Keeps b (powerWindow d) := by
  unfold powerWindow
  refine keeps_ite ?_ ?_
  · exact h
  · have hp {p l} : Keeps b (unmetWindow d p l) := keeps_unmetWindow h
    exact keeps_setSense hp fun hs => limiterOk_limiterWindow hs
theorem keeps_throttleWindow {dram} : Keeps b (throttleWindow d dram) := by
  unfold throttleWindow
  extract_lets hot cool sense seen n raisedSense throttled down counted countedSense up released releasedSense
  have h1 : Keeps b seen := keeps_frame h
  have h2 : Keeps b throttled := keeps_ite h1 (keeps_raiseEvent (keeps_frame h1))
  have h3 : Keeps b counted := keeps_ite (keeps_bump h2) h2
  have h4 : Keeps b released := keeps_frame h1
  refine keeps_ite (keeps_frame h3) (keeps_ite h1 (keeps_ite (keeps_frame h1) (keeps_ite (keeps_frame h1) ?_)))
  exact keeps_ite h4 (keeps_raiseEvent (keeps_frame h4))
theorem keeps_tripWindow {dram} : Keeps b (tripWindow d dram) := by
  unfold tripWindow
  split
  · exact h
  · exact keeps_frame (keeps_powerOff h)
theorem keeps_adoptCalibration : Keeps b (adoptCalibration d) := by
  unfold adoptCalibration
  dsimp only
  split <;> exact keeps_frame (keeps_setPad h)

/-! ### Power -/

theorem keeps_bootModule {f other} : Keeps b (bootModule d f other) := keeps_frame h
theorem keeps_bootFails {step fail} : Keeps b (bootFails d step fail) := by
  unfold bootFails
  split <;> exact keeps_frame h
theorem keeps_loadSides : Keeps b (loadSides d) := keeps_foldl (fun _ _ h => keeps_loadSide h) h
theorem keeps_calibrate {f} : Keeps b (calibrate d f) := keeps_frame h
theorem keeps_raiseKept : Keeps b (raiseKept d) := by
  unfold raiseKept
  dsimp only
  refine keeps_ite ?_ ?_
  · refine keeps_raiseEvent ?_
    split
    · exact keeps_raiseEvent (keeps_frame h)
    · exact keeps_frame h
  · split
    · exact keeps_raiseEvent (keeps_frame h)
    · exact keeps_frame h
theorem keeps_clockAt {ms} : Keeps b (clockAt d ms) := keeps_frame h
theorem keeps_powerSequence {f} : Keeps b (powerSequence d f) := by
  unfold powerSequence
  extract_lets board powered timed sense
  have h1 : Keeps b timed := keeps_clockAt (keeps_frame h)
  split
  · exact keeps_bootFails (keeps_frame h1)
  · rename_i other _
    have h2 : Keeps b (bootModule timed f other) := keeps_bootModule h1
    have h3 : Keeps b (raiseKept (loadSides (calibrate (bootModule timed f other) f))) :=
      keeps_raiseKept (keeps_loadSides (keeps_calibrate h2))
    refine keeps_ite (keeps_bootFails h2) (keeps_ite (keeps_bootFails h2) (keeps_ite (keeps_bootFails (keeps_frame h2)) ?_))
    exact keeps_ite (keeps_clockAt (keeps_frame h3)) (keeps_trainHost (keeps_clockAt (keeps_frame h3)))

/-! ### Registers -/

theorem keeps_writeHost {off v} : Keeps b (writeHost d off v) := by
  unfold writeHost
  dsimp only
  refine keeps_ite ?_ ?_
  · exact keeps_frame h
  · refine keeps_ite ?_ ?_
    · refine keeps_ite ?_ ?_
      · exact keeps_frame h
      · exact h
    · refine keeps_ite ?_ ?_
      · exact keeps_frame h
      · refine keeps_ite ?_ ?_
        · refine keeps_ite ?_ ?_
          · exact keeps_frame h
          · exact h
        · exact h
theorem keeps_clearValid {off bits} : Keeps b (clearValid d off bits) := by
  unfold clearValid
  refine keeps_ite ?_ ?_
  · exact keeps_modStall h
  · refine keeps_ite ?_ ?_
    · exact keeps_frame h
    · refine keeps_ite ?_ ?_
      · exact keeps_frame h
      · exact h
theorem keeps_writeHealth {v} : Keeps b (writeHealth d v) := keeps_frame h
theorem keeps_writeSlot {off width value} : Keeps b (writeSlot d off width value) := by
  unfold writeSlot
  dsimp only
  refine keeps_ite ?_ ?_
  · refine keeps_ite ?_ ?_
    · exact keeps_clearCtr h
    · exact h
  · refine keeps_ite ?_ ?_
    · exact keeps_writeHost h
    · refine keeps_ite ?_ ?_
      · exact keeps_writeHealth h
      · exact keeps_clearValid h
theorem keeps_msixWrite {fn p} : Keeps b (msixWrite fn d p) := by
  unfold msixWrite
  dsimp only
  split
  · split
    · exact keeps_sendMsix (keeps_frame h)
    · exact keeps_frame h
  · split
    · exact keeps_sendMsix (keeps_frame h)
    · exact keeps_frame h
theorem optKeeps_bar0Write {fn off width value} : OptKeeps b (bar0Write d fn off width value) := by
  unfold bar0Write
  split
  · split
    · exact optKeeps_some h
    · split
      · split
        · exact optKeeps_some h
        · exact optKeeps_none
      · exact optKeeps_some (keeps_writeSlot h)
  · split
    · exact optKeeps_none
    · split
      · exact optKeeps_some (keeps_foldl (fun _ _ h => keeps_msixWrite h) h)
      · exact optKeeps_some h

/-! ### Control -/

theorem issueKeeps_bIssue {st i x} : IssueKeeps b (bIssue st i x d) := issueKeeps_go h
theorem issueKeeps_bcIssue {st i x} : IssueKeeps b (bcIssue st i x d) := issueKeeps_go h
theorem issueKeeps_loopIssue {st i x} : IssueKeeps b (loopIssue st i x d) := issueKeeps_go (keeps_modStall h)
theorem issueKeeps_callIssue {st i x} : IssueKeeps b (callIssue st i x d) := by
  unfold callIssue
  refine issueKeeps_ite ?_ ?_
  · exact issueKeeps_fault
  · exact issueKeeps_go (keeps_modStall h)
theorem issueKeeps_retIssue {st i x} : IssueKeeps b (retIssue st i x d) := by
  unfold retIssue
  split
  · exact issueKeeps_fault
  · exact issueKeeps_go (keeps_modStall h)
theorem issueKeeps_yieldIssue {st i x} : IssueKeeps b (yieldIssue st i x d) :=
  issueKeeps_stay (keeps_boundary (keeps_advance h))
theorem keeps_epochEnd {st dest} : Keeps b (epochEnd d st dest) := keeps_advance (keeps_modStall h)
theorem issueKeeps_epochIssue {st i x} : IssueKeeps b (epochIssue st i x d) := by
  have h1 : Keeps b (boundary d st) := keeps_boundary h
  unfold epochIssue
  generalize boundary d st = e at *
  exact issueKeeps_ite (issueKeeps_go (keeps_modStall h)) (issueKeeps_ite (issueKeeps_stay h1)
    (issueKeeps_ite (issueKeeps_stay (keeps_epochEnd h1)) (issueKeeps_stay (keeps_holdOn h1))))
theorem issueKeeps_haltIssue {st i x} : IssueKeeps b (haltIssue st i x d) :=
  issueKeeps_stay (keeps_modStall (keeps_holdOn h))

/-! ### Derier -/

theorem keeps_identifyDev {c} : Keeps b (identifyDev d c) := keeps_finish h
theorem keeps_attestDev {c} : Keeps b (attestDev d c) := by
  unfold attestDev
  refine keeps_ite ?_ ?_
  · exact keeps_finish h
  · split <;> exact keeps_finish h
theorem keeps_modePowerDev {c} : Keeps b (modePowerDev d c) := by
  unfold modePowerDev
  refine keeps_ite ?_ ?_
  · exact keeps_addWant h
  · exact keeps_finish h
theorem keeps_modeCalsetDev {c} : Keeps b (modeCalsetDev d c) := by
  unfold modeCalsetDev
  refine keeps_ite ?_ ?_
  · exact keeps_finish h
  · refine keeps_ite ?_ ?_
    · exact keeps_addWant h
    · refine keeps_ite ?_ ?_
      · exact keeps_forward h
      · refine keeps_ite ?_ ?_
        · exact keeps_finish h
        · exact keeps_frame h
theorem keeps_modeFeedDev {c} : Keeps b (modeFeedDev d c) := by
  unfold modeFeedDev
  refine keeps_ite ?_ ?_
  · exact keeps_finish (keeps_setFeed h)
  · exact keeps_finish h
theorem keeps_modeGroomDev {c} : Keeps b (modeGroomDev d c) := by
  unfold modeGroomDev
  refine keeps_ite ?_ ?_
  · exact keeps_finish (keeps_frame h)
  · exact keeps_finish h
theorem keeps_modeQuotaDev {c} : Keeps b (modeQuotaDev d c) := by
  unfold modeQuotaDev
  refine keeps_ite ?_ ?_
  · exact keeps_finish h
  · refine keeps_ite ?_ ?_
    · exact keeps_finish (keeps_frame h)
    · exact keeps_finish h
theorem keeps_telemetryDev {c} : Keeps b (telemetryDev d c) := by
  unfold telemetryDev
  split <;> exact keeps_finish h
theorem keeps_clearSlot {off} : Keeps b (clearSlot d off) := by
  unfold clearSlot
  refine keeps_ite ?_ ?_
  · exact keeps_clearCtr h
  · exact h
theorem keeps_telemetryClearDev {c} : Keeps b (telemetryClearDev d c) := by
  unfold telemetryClearDev
  split
  · exact keeps_finish h
  · exact keeps_finish (keeps_foldl (fun _ _ h => keeps_clearSlot h) h)
theorem keeps_writeRecords : Keeps b (writeRecords d) := keeps_frame (keeps_ownRecords h)
theorem keeps_installBundle {bs} : Keeps b (installBundle d bs) := keeps_frame (keeps_writeRecords h)
theorem keeps_takeBundle {bs route} : Keeps b (takeBundle d bs route) := by
  unfold takeBundle
  split
  · exact keeps_raiseEvent h
  · exact keeps_raiseEvent (keeps_installBundle h)
theorem keeps_vetLoadDev {c} : Keeps b (vetLoadDev d c) := by
  unfold vetLoadDev
  refine keeps_ite ?_ ?_
  · exact keeps_finish h
  · refine keeps_finishAll ?_
    refine keeps_takeBundle ?_
    refine keeps_ite ?_ ?_
    · exact keeps_foldl (fun _ _ h => keeps_tell h) h
    · exact h
theorem keeps_storeImage {bs} : Keeps b (storeImage d bs) := by
  unfold storeImage
  dsimp only
  split <;> exact keeps_frame (keeps_writeRecords h)
theorem keeps_fwStoreDev {c} : Keeps b (fwStoreDev d c) := by
  unfold fwStoreDev
  refine keeps_ite ?_ ?_
  · exact keeps_finish h
  · refine keeps_ite ?_ ?_
    · exact keeps_finish h
    · split
      · exact keeps_finish h
      · exact keeps_finish (keeps_storeImage h)
theorem keeps_fwActivateDev {c} : Keeps b (fwActivateDev d c) :=
  keeps_moduleReset (keeps_endNow (keeps_abortCommands (keeps_abortAll h)))

/-! ### Health -/

theorem keeps_setHealth {hd} : Keeps b (setHealth d hd) := keeps_frame h
theorem keeps_notePass {st phys bs} : Keeps b (notePass d st phys bs) := keeps_modBank h
theorem keeps_failCheck {st phys bs check} : Keeps b (failCheck d st phys bs check) := keeps_cribFails h
theorem keeps_laneSuspect {st phys} : Keeps b (laneSuspect d st phys) :=
  keeps_setCrib (keeps_digitalSuspect (keeps_bump h))
theorem keeps_dropSample {s} : Keeps b (dropSample d s) := keeps_setHealth h
theorem keeps_judgeSample {s residueOk} : Keeps b (judgeSample d s residueOk) := by
  unfold judgeSample
  dsimp only
  refine keeps_ite ?_ ?_
  · exact keeps_laneSuspect (keeps_dramTouchAll (keeps_bump h))
  · refine keeps_ite ?_ ?_
    · exact keeps_notePass (keeps_dramTouchAll (keeps_bump h))
    · exact keeps_failCheck (keeps_bump (keeps_dramTouchAll (keeps_bump h)))
theorem keeps_sweepCheck {st phys bs k residueOk} : Keeps b (sweepCheck d st phys bs k residueOk).1 := by
  unfold sweepCheck
  extract_lets c ok nSplit nSkip seen split skipped touched
  have h1 : Keeps b seen := keeps_touchCorr (keeps_seeRefs h)
  have h2 : Keeps b split := keeps_ite h1 (keeps_bumpBy h1)
  have h3 : Keeps b skipped := keeps_ite h2 (keeps_bumpBy h2)
  have h4 : Keeps b touched := keeps_dramTouchAll h3
  split
  · exact keeps_laneSuspect h4
  · split
    · exact keeps_notePass h4
    · exact keeps_failCheck h4
theorem keeps_sweepPart {st phys bs tick residueOk} : Keeps b (sweepPart d st phys bs tick residueOk).1 :=
  keeps_sweepCheck (keeps_charge32 h)
theorem keeps_referencePart {st phys bs} : Keeps b (referencePart d st phys bs).1 := by
  unfold referencePart
  split
  · exact keeps_notePass h
  · exact keeps_failCheck h
theorem keeps_probeBank {st phys bs tick residueOk} : Keeps b (probeBank d st phys bs tick residueOk) := by
  unfold probeBank
  dsimp only
  split
  · split
    · exact keeps_bump (keeps_modBank (keeps_bump (keeps_referencePart (keeps_sweepPart h))))
    · exact keeps_modBank (keeps_bump (keeps_referencePart (keeps_sweepPart h)))
  · split
    · exact keeps_bump (keeps_modBank (keeps_bump (keeps_referencePart h)))
    · exact keeps_modBank (keeps_bump (keeps_referencePart h))
theorem keeps_testFails {st n} : Keeps b (testFails st d n) := by
  unfold testFails
  dsimp only
  split <;> exact keeps_unitFails (keeps_raiseEvent (keeps_bump h))
theorem keeps_vetRunStall {st failed} : Keeps b (vetRunStall d st failed) :=
  keeps_foldl (fun _ _ h => keeps_testFails h) (keeps_setHealth (keeps_bump h))
theorem keeps_bankTest {st phys bad bs} : Keeps b (bankTest st phys bad d bs) := by
  unfold bankTest
  dsimp only
  refine keeps_ite ?_ ?_
  · exact keeps_referencePart (keeps_foldl (fun _ _ h => keeps_sweepCheck h) h)
  · exact h
theorem keeps_runTest {r} : Keeps b (runTest d r) := by
  unfold runTest
  split
  · exact h
  · refine keeps_ite ?_ ?_
    · exact h
    · refine keeps_ite ?_ ?_
      · exact keeps_foldl (fun _ _ h => keeps_bankTest h) h
      · refine keeps_ite ?_ ?_
        · exact keeps_vetRunStall h
        · refine keeps_ite ?_ ?_
          · exact h
          · exact keeps_unitFails h
theorem keeps_spareBank {st crib bs} : Keeps b (spareBank st crib d bs) := by
  unfold spareBank
  dsimp only
  refine keeps_ite ?_ ?_
  · refine keeps_ite ?_ ?_
    · exact keeps_modBank h
    · exact keeps_startSpare h
  · exact h
theorem keeps_retireCrib {st crib} : Keeps b (retireCrib d st crib) := by
  unfold retireCrib
  dsimp only
  refine keeps_ite ?_ ?_
  · exact h
  · refine keeps_ite ?_ ?_
    · refine keeps_ite ?_ ?_
      · exact h
      · exact keeps_modStall h
    · exact keeps_foldl (fun _ _ h => keeps_spareBank h) (keeps_modStall h)
theorem keeps_afterFailure {w fails} : Keeps b (afterFailure d w fails) := by
  unfold afterFailure
  refine keeps_ite ?_ ?_
  · refine keeps_ite ?_ ?_
    · exact keeps_raiseEvent h
    · exact h
  · refine keeps_ite ?_ ?_
    · refine keeps_ite ?_ ?_
      · exact keeps_retireCrib h
      · exact keeps_modStall h
    · exact h
theorem keeps_countEntry {ran n} : Keeps b (countEntry ran d n) := by
  unfold countEntry
  split
  · exact h
  · refine keeps_ite ?_ ?_
    · exact keeps_setWatch h
    · refine keeps_ite ?_ ?_
      · exact keeps_afterFailure (keeps_setWatch h)
      · refine keeps_ite ?_ ?_
        · exact keeps_afterFailure (keeps_setWatch h)
        · refine keeps_ite ?_ ?_
          · exact h
          · refine keeps_ite ?_ ?_
            · exact keeps_setWatch h
            · exact keeps_watchLeave h
theorem keeps_clearWaiting : Keeps b (clearWaiting d) := keeps_setHealth h
theorem keeps_newPeriod : Keeps b (newPeriod d) := keeps_foldl (fun _ _ h => keeps_modStall h) h

/-! ### Lane -/

theorem issueKeeps_vldIssue {st i x} : IssueKeeps b (vldIssue st i x d) :=
  issueKeeps_withLocal fun _ _ => issueKeeps_go (keeps_modStall (keeps_sramTouch h))
theorem issueKeeps_vstIssue {st i x} : IssueKeeps b (vstIssue st i x d) :=
  issueKeeps_withLocal fun _ _ => issueKeeps_go (keeps_modStall h)

/-! ### Memory -/

theorem keeps_dramFailing {stack line holds} : Keeps b (dramFailing d stack line holds) := by
  unfold dramFailing
  dsimp only
  refine keeps_ite ?_ ?_
  · exact h
  · split
    · exact keeps_frame h
    · exact keeps_raiseEvent h
theorem keeps_groomDram {stack line arisen} : Keeps b (groomDram d stack line arisen) := by
  unfold groomDram
  extract_lets g keys ar bad _ d1 before err d2 _ d3
  have h1 : Keeps b d1 := keeps_setMem h fun hm => ⟨mwf_upsetBytes _ _ _ _ hm.1, hm.2⟩
  have h3 : Keeps b d3 := keeps_setMem (keeps_dramTouch h1) id
  clear_value d3 err before
  split
  · exact keeps_ite (keeps_dramFailing h3) h3
  · exact keeps_dramFailing h3
  · exact h3
theorem keeps_enterSram {st buf line before ce ue} : Keeps b (enterSram d st buf line before ce ue) := by
  unfold enterSram
  refine keeps_ite ?_ ?_
  · exact keeps_sramFailing h
  · refine keeps_ite ?_ ?_
    · exact keeps_sramFailing h
    · exact h
theorem keeps_groomBuffer {st buf line arisen} : Keeps b (groomBuffer d st buf line arisen) := by
  unfold groomBuffer
  dsimp only
  refine keeps_ite ?_ ?_
  · exact keeps_modStall (keeps_sramTouch (keeps_modStall h))
  · exact keeps_enterSram (keeps_modStall (keeps_sramTouch (keeps_modStall h)))
theorem keeps_groomStore {st line arisen} : Keeps b (groomStore d st line arisen) := by
  unfold groomStore
  refine keeps_enterSram ?_
  refine keeps_ite ?_ ?_
  · exact keeps_storeUe (keeps_modStall (keeps_modStall h))
  · exact keeps_modStall (keeps_modStall h)
theorem keeps_groomSide {st line arisen} : Keeps b (groomSide d st line arisen) := by
  unfold groomSide
  dsimp only
  refine keeps_ite ?_ ?_
  · exact keeps_storeUe (keeps_modStall h)
  · exact keeps_modStall h
theorem keeps_groomCorr {st bank arisen} : Keeps b (groomCorr d st bank arisen) := by
  unfold groomCorr
  dsimp only
  refine keeps_ite ?_ ?_
  · refine keeps_ite ?_ ?_
    · exact keeps_storeUe h
    · exact h
  · exact keeps_storeUe (keeps_modBank h)
theorem keeps_groomGate {line arisen} : Keeps b (groomGate d line arisen) := by
  unfold groomGate
  dsimp only
  refine keeps_ite ?_ ?_
  · exact keeps_raiseEvent (keeps_frame h)
  · exact keeps_frame h
theorem keeps_passEnds {last} : Keeps b (passEnds last d) := by
  unfold passEnds
  refine keeps_ite ?_ ?_
  · exact keeps_bump h
  · exact h

/-! ### Move -/

theorem issueKeeps_ldIssue {st i x} : IssueKeeps b (ldIssue st i x d) :=
  issueKeeps_withLocal fun _ _ => issueKeeps_go (keeps_modStall (keeps_sramTouch h))
theorem issueKeeps_stIssue {st i x} : IssueKeeps b (stIssue st i x d) :=
  issueKeeps_withLocal fun _ _ => issueKeeps_go (keeps_sramWrite h)
theorem issueKeeps_copyIssue {st i x} : IssueKeeps b (copyIssue st i x d) := by
  unfold copyIssue
  dsimp only
  split
  · exact issueKeeps_go h
  · split
    · exact issueKeeps_fault
    · split
      · exact issueKeeps_fault
      · split
        · exact issueKeeps_wait
        · exact issueKeeps_go (keeps_sramWrite (keeps_sramTouch h))
theorem issueKeeps_fillIssue {st i x} : IssueKeeps b (fillIssue st i x d) := by
  unfold fillIssue
  dsimp only
  split
  · exact issueKeeps_go h
  · split
    · exact issueKeeps_fault
    · split
      · exact issueKeeps_wait
      · exact issueKeeps_go (keeps_sramWrite h)

/-! ### Report -/

theorem keeps_sendDatagram {kind records} : Keeps b (sendDatagram d kind records) :=
  keeps_setHealth (keeps_emit (keeps_bump h))
theorem keeps_sendEvents : Keeps b (sendEvents d) := keeps_setHealth (keeps_sendDatagram h)
theorem keeps_finalReport : Keeps b (finalReport d) := by
  unfold finalReport
  refine keeps_ite ?_ ?_
  · exact h
  · refine keeps_ite ?_ ?_
    · exact keeps_sendDatagram h
    · exact keeps_sendEvents h
theorem keeps_endLost {cid} : Keeps b (endLost d cid) := by
  unfold endLost
  dsimp only
  split
  · exact h
  · split
    · exact keeps_closeStage (keeps_finish h)
    · exact keeps_finish h
theorem keeps_pushComplete {bs} : Keeps b (pushComplete d bs) := keeps_sendDatagram (keeps_takeBundle (keeps_setHealth h))
theorem keeps_takeFragment {bs fresh} : Keeps b (takeFragment d bs fresh) := by
  unfold takeFragment
  dsimp only
  refine keeps_ite ?_ ?_
  · exact keeps_pushComplete h
  · exact keeps_setHealth h

/-! ### Slot -/

omit h in
theorem issueKeeps_withSlots {st i x count k} (hk : ∀ buf n, IssueKeeps b (k buf n)) :
    IssueKeeps b (withSlots d st i x count k) := by
  unfold withSlots
  dsimp only
  refine issueKeeps_ite ?_ ?_
  · trivial
  · refine issueKeeps_ite ?_ ?_
    · trivial
    · exact hk _ _
theorem issueKeeps_ldWIssue {st i x} : IssueKeeps b (ldWIssue st i x d) := by
  unfold ldWIssue
  refine issueKeeps_withSlots fun _ _ => ?_
  refine issueKeeps_ite ?_ ?_
  · exact issueKeeps_wait
  · refine issueKeeps_go ?_
    refine keeps_ite ?_ ?_
    · refine keeps_ite ?_ ?_
      · exact h
      · exact keeps_modStall (keeps_sramTouch h)
    · refine keeps_clearFlag ?_
      refine keeps_ite ?_ ?_
      · exact h
      · exact keeps_modStall (keeps_sramTouch h)
theorem issueKeeps_stFIssue {st i x} : IssueKeeps b (stFIssue st i x d) := by
  unfold stFIssue
  refine issueKeeps_withSlots fun _ _ => ?_
  refine issueKeeps_ite ?_ ?_
  · exact issueKeeps_wait
  · exact issueKeeps_go (keeps_modStall (keeps_sramWrite h))
theorem issueKeeps_slotSetIssue {st i x} : IssueKeeps b (slotSetIssue st i x d) :=
  issueKeeps_withSlots fun _ _ => issueKeeps_go (keeps_modStall h)
theorem issueKeeps_slotClrIssue {st i x} : IssueKeeps b (slotClrIssue st i x d) :=
  issueKeeps_withSlots fun _ _ => issueKeeps_go (keeps_foldl (fun _ _ h => keeps_clearFlag h) h)

end

/-! ### Commands -/

/-- An answer that leaves the queue and keeps the invariants, and is no fault. -/
def Sound (s : State) : Res → Prop
  | .next t => t.pending = s.pending ∧ Keeps s.dev t.dev
  | .fault _ => False
  | .refused _ => True

section
variable {s : State} {name : String}

theorem sound_ite {c : Prop} [Decidable c] {r t : Res} (h : Sound s r) (g : Sound s t) : Sound s (if c then r else t) := by
  split
  · exact h
  · exact g

theorem optKeeps_map {α : Type} {o : Option α} {g : α → Dev} (hg : ∀ a, Keeps b (g a)) : OptKeeps b (o.map g) := by
  intro e he
  obtain ⟨a, -, rfl⟩ := Option.map_eq_some_iff.mp he
  exact hg a

theorem optKeeps_bind {α : Type} {o : Option α} {g : α → Option Dev} (hg : ∀ a, OptKeeps b (g a)) :
    OptKeeps b (o.bind g) := by
  intro e he
  obtain ⟨a, -, ha⟩ := Option.bind_eq_some_iff.mp he
  exact hg a e ha

theorem sound_onDev {f : Dev → Option Dev} (h : OptKeeps s.dev (f s.dev)) : Sound s (onDev name f s) := by
  unfold onDev
  split
  · exact ⟨rfl, keeps_frame (h _ ‹_›)⟩
  · trivial

theorem sound_always {f : Dev → Dev} (h : Keeps s.dev (f s.dev)) : Sound s (always f s) :=
  ⟨rfl, keeps_frame h⟩

theorem sound_onDerier {f : Dev → Option Dev} (h : OptKeeps s.dev (f s.dev)) : Sound s (onDerier name f s) := by
  refine sound_onDev fun e he => ?_
  obtain ⟨d, hd, rfl⟩ := Option.map_eq_some_iff.mp he
  exact keeps_mirrorState (h d hd)

theorem sound_alwaysDerier {f : Dev → Dev} (h : Keeps s.dev (f s.dev)) : Sound s (alwaysDerier f s) :=
  sound_always (keeps_mirrorState h)

theorem sound_startCmd {op isForm cid} {f : Dev → Cmd → Dev} (hf : ∀ d c, Keeps s.dev d → Keeps s.dev (f d c)) :
    Sound s (startCmd name op isForm cid f s) := by
  refine sound_onDerier ?_
  split
  · exact optKeeps_none
  · refine optKeeps_ite ?_ ?_
    · exact optKeeps_none
    · split
      · exact optKeeps_some (keeps_finish (.refl _))
      · refine optKeeps_ite ?_ ?_
        · exact optKeeps_some (keeps_forward (.refl _))
        · exact optKeeps_some (hf _ _ (keeps_putCmd (keeps_joins (.refl _))))

/-- An instruction keeps the invariants where its effect does. -/
theorem optKeeps_issueDev {op frm st} {f : Ins → Stall → Dev → Issue} (hf : ∀ i x d, Keeps b d → IssueKeeps b (f i x d))
    (h : Keeps b d) : OptKeeps b (issueDev op frm st f d) := by
  have h1 : Keeps b (fetchTouch d st) := keeps_fetchTouch h
  unfold issueDev
  dsimp only
  split
  · exact optKeeps_none
  split
  · exact optKeeps_none
  split
  · exact optKeeps_none
  split
  · exact optKeeps_some (keeps_stopStall h1)
  split
  · exact optKeeps_some (keeps_stopStall h1)
  split
  · exact optKeeps_some (keeps_holdOn h1)
  have h2 := hf (insOf ‹_›) (stallOf d st) _ h1
  split
  · exact optKeeps_some (keeps_stopStall h1)
  · exact optKeeps_some (keeps_holdOn h1)
  · exact optKeeps_some (keeps_advance (keeps_of_go ‹_› h2))
  · exact optKeeps_some (keeps_of_stay ‹_› h2)

theorem sound_issue {op frm st} {f : Ins → Stall → Dev → Issue}
    (hf : ∀ i x d, Keeps s.dev d → IssueKeeps s.dev (f i x d)) : Sound s (issue name op frm st f s) :=
  sound_onDev (optKeeps_issueDev hf (.refl _))
end

section
variable {s : State}

/-! #### SeqMem -/

theorem sound_execPageAllocate {seq layer} : Sound s (execPageAllocate seq layer s) := by
  refine sound_onDerier ?_
  split
  · exact optKeeps_none
  · extract_lets l
    split
    · exact optKeeps_none
    · rename_i d1 _ _ _ _ _ _ _ _ _ d2 _ t _ d3 d4 _
      have h1 : Keeps s.dev d1 := keeps_pruneAll (.refl _)
      have h2 : Keeps s.dev d2 := keeps_ite (keeps_raiseEvent (keeps_withAttn h1)) (keeps_ite (keeps_withAttn h1) h1)
      have h3 : Keeps s.dev d3 := keeps_takePages h2
      have h4 : Keeps s.dev d4 := by
        refine keeps_ite h3 ?_
        split
        · exact keeps_setSeq h3
        · exact h3
      split
      · exact optKeeps_none
      · exact optKeeps_some (keeps_pruneAll (keeps_ite h4 (keeps_addEdit h4)))
theorem sound_execPrefixInsert {seq page} : Sound s (execPrefixInsert seq page s) := by
  refine sound_onDerier ?_
  split
  · exact optKeeps_none
  · split
    · exact optKeeps_none
    · refine optKeeps_ite ?_ ?_
      · exact optKeeps_none
      · split
        · exact optKeeps_some (keeps_putPrefix (keeps_engWrite (keeps_readBuckets (.refl _))))
        · exact optKeeps_some (keeps_readBuckets (.refl _))

/-! #### Attention -/

theorem sound_execAttnGo {st} : Sound s (execAttnGo st s) := sound_issue fun _ _ _ h => issueKeeps_attnIssue h
theorem sound_execAttnJobStart {die id} : Sound s (execAttnJobStart die id s) := by
  refine sound_onDerier ?_
  split
  · exact optKeeps_none
  · refine optKeeps_ite ?_ ?_
    · exact optKeeps_some (keeps_startJob (.refl _))
    · exact optKeeps_none
theorem sound_execAttnJobFinish {die id residue} : Sound s (execAttnJobFinish die id residue s) := by
  refine sound_onDerier ?_
  split
  · exact optKeeps_none
  · refine optKeeps_ite ?_ ?_
    · exact optKeeps_some (keeps_finishJob (.refl _))
    · exact optKeeps_none

/-! #### Crib -/

theorem sound_execCribMvm {st} : Sound s (execCribMvm st s) := sound_issue fun _ _ _ h => issueKeeps_cribMvmIssue h
theorem sound_execCribBank {st} : Sound s (execCribBank st s) := sound_issue fun _ _ _ h => issueKeeps_cribBankIssue h
theorem sound_execCribProbe {st} : Sound s (execCribProbe st s) := sound_issue fun _ _ _ h => issueKeeps_cribProbeIssue h
theorem sound_execCribStart {st op tick} : Sound s (execCribStart st op tick s) := by
  refine sound_onDev ?_
  split
  · exact optKeeps_none
  · extract_lets o ks idle rich fetched outs touched settled charged counted
    have h1 : Keeps s.dev settled := keeps_settleSamples (keeps_touchInputs (.refl _))
    have h2 : Keeps s.dev charged := keeps_foldl (fun _ _ h => keeps_charge32 h) h1
    have h3 : Keeps s.dev counted := keeps_ite h2 (keeps_bumpBy h2)
    exact optKeeps_ite optKeeps_none (optKeeps_some (keeps_ite h3 (keeps_bumpBy h3)))
theorem sound_execSideFetchReturn {st op which} : Sound s (execSideFetchReturn st op which s) := by
  refine sound_onDev ?_
  split
  · exact optKeeps_none
  · split
    · exact optKeeps_none
    · refine optKeeps_ite ?_ ?_
      · exact optKeeps_none
      · exact optKeeps_some (keeps_setCribOp (keeps_dramTouchAll (.refl _)))
theorem sound_execCribBinWrite {st op waited} : Sound s (execCribBinWrite st op waited s) := by
  refine sound_onDev ?_
  split
  · exact optKeeps_none
  · refine optKeeps_ite ?_ ?_
    · exact optKeeps_some (keeps_binWrite (.refl _))
    · exact optKeeps_none
theorem sound_execReferenceRead {st crib bank tick} : Sound s (execReferenceRead st crib bank tick s) := by
  refine sound_onDev ?_
  dsimp only
  refine optKeeps_ite ?_ ?_
  · exact optKeeps_some (keeps_readReference (keeps_charge32 (.refl _)))
  · exact optKeeps_none

/-! #### Routine -/

theorem sound_execRoutineEnd {st} : Sound s (execRoutineEnd st s) := by
  refine sound_onDev ?_
  dsimp only
  refine optKeeps_ite ?_ ?_
  · exact optKeeps_some (keeps_modStall (keeps_routineEnded (.refl _)))
  · exact optKeeps_none
theorem sound_execDrainEnd {st} : Sound s (execDrainEnd st s) := by
  refine sound_onDev ?_
  dsimp only
  refine optKeeps_ite ?_ ?_
  · refine optKeeps_ite ?_ ?_
    · exact optKeeps_some (keeps_modStall (keeps_routineEnded (.refl _)))
    · exact optKeeps_some (keeps_boundary (keeps_modStall (keeps_routineEnded (.refl _))))
  · exact optKeeps_none
theorem sound_execIdleAdopt {st} : Sound s (execIdleAdopt st s) := by
  refine sound_onDev ?_
  dsimp only
  refine optKeeps_ite ?_ ?_
  · exact optKeeps_some (keeps_boundary (.refl _))
  · exact optKeeps_none
theorem sound_execResidue {st idx} : Sound s (execResidue st idx s) := by
  refine sound_onDev ?_
  dsimp only
  refine optKeeps_ite ?_ ?_
  · exact optKeeps_none
  · refine optKeeps_ite ?_ ?_
    · exact optKeeps_some (keeps_digitalSuspect (keeps_stopNow (keeps_bump (.refl _))))
    · exact optKeeps_some (keeps_bump (.refl _))
theorem sound_execLockstep {st idx} : Sound s (execLockstep st idx s) := by
  refine sound_onDev ?_
  dsimp only
  refine optKeeps_ite ?_ ?_
  · exact optKeeps_some (keeps_digitalSuspect (keeps_stopNow (.refl _)))
  · exact optKeeps_none
theorem sound_execFetchFault {st pathError} : Sound s (execFetchFault st pathError s) := by
  refine sound_onDev ?_
  dsimp only
  refine optKeeps_ite ?_ ?_
  · exact optKeeps_none
  · refine optKeeps_ite ?_ ?_
    · exact optKeeps_some (keeps_stopStall (.refl _))
    · split
      · exact optKeeps_some (keeps_digitalSuspect (keeps_stopStall (keeps_fetchTouch (.refl _))))
      · refine optKeeps_ite ?_ ?_
        · exact optKeeps_some (keeps_digitalSuspect (keeps_stopStall (keeps_fetchTouch (.refl _))))
        · refine optKeeps_ite ?_ ?_
          · exact optKeeps_none
          · exact optKeeps_some (keeps_stopStall (keeps_fetchTouch (.refl _)))
theorem sound_execWatchdog {st} : Sound s (execWatchdog st s) := by
  refine sound_onDev ?_
  dsimp only
  split
  · exact optKeeps_none
  · split
    · exact optKeeps_none
    · refine optKeeps_ite ?_ ?_
      · exact optKeeps_none
      · exact optKeeps_some (keeps_watchdogEvent (keeps_modStall (.refl _)))
theorem sound_execBoundaryLate {st} : Sound s (execBoundaryLate st s) := by
  refine sound_onDev ?_
  dsimp only
  refine optKeeps_ite ?_ ?_
  · exact optKeeps_some (keeps_watchdogEvent (keeps_modStall (.refl _)))
  · exact optKeeps_none
theorem sound_execSlotJam {id} : Sound s (execSlotJam id s) := by
  refine sound_onDev ?_
  dsimp only
  split
  · exact optKeeps_none
  · refine optKeeps_ite ?_ ?_
    · exact optKeeps_some (keeps_watchdogEvent (keeps_modStall (.refl _)))
    · exact optKeeps_none

/-! #### Command -/

theorem sound_execCommandFetch {ring desc heads data resultOk} : Sound s (execCommandFetch ring desc heads data
    resultOk s) := by
  refine sound_onDev ?_
  split
  · exact optKeeps_none
  · refine optKeeps_ite ?_ ?_
    · exact optKeeps_none
    · split
      · exact optKeeps_some (keeps_ringError (.refl _))
      · exact optKeeps_some (keeps_endReserved (keeps_holdNew (keeps_addCmd (keeps_setRing (keeps_passOthers (.refl
          _))))))
theorem sound_execDoorbell {fn ring value} : Sound s (execDoorbell fn ring value s) :=
  sound_always (keeps_ringDoorbell (.refl _))
theorem sound_execCoalesceTimeout {ring} : Sound s (execCoalesceTimeout ring s) := by
  refine sound_onDev ?_
  split
  · exact optKeeps_none
  · refine optKeeps_ite ?_ ?_
    · exact optKeeps_some (keeps_sendMsix (keeps_setRing (.refl _)))
    · exact optKeeps_none
theorem sound_execMboxDoorbell {value heads data resultOk} : Sound s (execMboxDoorbell value heads data resultOk s) := by
  refine sound_always ?_
  refine keeps_ite ?_ ?_
  · exact .refl _
  · refine keeps_ite ?_ ?_
    · exact keeps_dropDoorbell (.refl _)
    · exact keeps_endReserved (keeps_holdNew (keeps_addCmd (keeps_freeFailed (.refl _))))
theorem sound_execForwardedCommand {lead fn desc data epoch} : Sound s (execForwardedCommand lead fn desc data epoch s)
    := by
  refine sound_onDev ?_
  refine optKeeps_ite ?_ ?_
  · exact optKeeps_some (keeps_addCmd (keeps_dropGuest (.refl _)))
  · exact optKeeps_none
theorem sound_execRingCreate {cid failAt} : Sound s (execRingCreate cid failAt s) :=
  sound_startCmd fun _ _ h => keeps_ringCreate h
theorem sound_execRingDestroy {cid} : Sound s (execRingDestroy cid s) := sound_startCmd fun _ _ h => keeps_ringDestroy h

/-! #### Sequences -/

theorem sound_execSeqOpen {cid} : Sound s (execSeqOpen cid s) := sound_startCmd fun _ _ h => keeps_seqOpenDev h
theorem sound_execSeqClose {cid} : Sound s (execSeqClose cid s) := sound_startCmd fun _ _ h => keeps_seqCloseDev h
theorem sound_execEditBatchApply {id} : Sound s (execEditBatchApply id s) := by
  refine sound_onDerier ?_
  split
  · exact optKeeps_none
  · refine optKeeps_ite ?_ ?_
    · exact optKeeps_some (keeps_editApplied (keeps_tryFree (keeps_applyPrune (.refl _))))
    · exact optKeeps_none
theorem sound_execPrefixLookup {cid} : Sound s (execPrefixLookup cid s) :=
  sound_startCmd fun _ _ h => keeps_prefixLookupDev h

/-! #### Feed -/

theorem sound_execStageStart {offer} : Sound s (execStageStart offer s) := by
  refine sound_onDerier ?_
  split
  · split
    · refine optKeeps_ite ?_ ?_
      · exact optKeeps_none
      · refine optKeeps_some ?_
        refine keeps_startStage ?_
        refine keeps_ite ?_ ?_
        · exact keeps_dramTouchAll (.refl _)
        · exact .refl _
    · exact optKeeps_none
  · refine optKeeps_ite ?_ ?_
    · split
      · exact optKeeps_some (keeps_startStage (keeps_setFeed (.refl _)))
      · exact optKeeps_map fun _ => keeps_startStage (keeps_setFeed (.refl _))
    · exact optKeeps_none
theorem sound_execShardReceived {shard bytes} : Sound s (execShardReceived shard bytes s) := by
  refine sound_onDerier ?_
  split
  · exact optKeeps_none
  · split
    · exact optKeeps_none
    · exact optKeeps_map fun _ => keeps_shardArrives (keeps_deliveredBytes (.refl _))
theorem sound_execShardRefetch {shard} : Sound s (execShardRefetch shard s) := by
  refine sound_onDerier ?_
  split
  · split
    · exact optKeeps_map fun _ => keeps_sendMsg (keeps_heldTouch (.refl _))
    · exact optKeeps_none
  · exact optKeeps_none
theorem sound_execShardTimeout : Sound s (execShardTimeout s) := by
  refine sound_onDerier ?_
  split
  · exact optKeeps_none
  · refine optKeeps_ite ?_ ?_
    · exact optKeeps_some (keeps_ownEnds (keeps_bump (.refl _)))
    · exact optKeeps_none
theorem sound_execBankProgramStart {placement} : Sound s (execBankProgramStart placement s) := by
  refine sound_onDerier ?_
  dsimp only
  split
  · refine optKeeps_ite ?_ ?_
    · exact optKeeps_none
    · exact optKeeps_some (keeps_startTwinBank (.refl _))
  · refine optKeeps_ite ?_ ?_
    · exact optKeeps_none
    · exact optKeeps_some (keeps_startSpare (.refl _))
  · exact optKeeps_none
  · split
    · exact optKeeps_none
    · split
      · exact optKeeps_none
      · refine optKeeps_ite ?_ ?_
        · exact optKeeps_none
        · refine optKeeps_ite ?_ ?_
          · exact optKeeps_some (keeps_ownEnds (.refl _))
          · exact optKeeps_startPlacement (.refl _)
theorem sound_execBankProgramDone {bank weak} : Sound s (execBankProgramDone bank weak s) := by
  refine sound_onDerier ?_
  dsimp only
  refine optKeeps_ite ?_ ?_
  · exact optKeeps_none
  · refine optKeeps_ite ?_ ?_
    · exact optKeeps_some (keeps_programFails (keeps_modBank (.refl _)))
    · refine optKeeps_ite ?_ ?_
      · split
        · refine optKeeps_some ?_
          refine keeps_completeSpare ?_
          refine keeps_ite ?_ ?_
          · exact keeps_modBank (.refl _)
          · exact keeps_bumpBy (keeps_modBank (.refl _))
        · exact optKeeps_none
      · refine optKeeps_ite ?_ ?_
        · refine optKeeps_map fun _ => ?_
          refine keeps_completeTwin ?_
          refine keeps_ite ?_ ?_
          · exact keeps_modBank (.refl _)
          · exact keeps_bumpBy (keeps_modBank (.refl _))
        · split
          · exact optKeeps_none
          · split
            · exact optKeeps_none
            · split
              · exact optKeeps_none
              · refine optKeeps_map fun _ => ?_
                refine keeps_completeBank ?_
                refine keeps_ite ?_ ?_
                · exact keeps_modBank (.refl _)
                · exact keeps_bumpBy (keeps_modBank (.refl _))
theorem sound_execStageResult {module result} : Sound s (execStageResult module result s) := by
  refine sound_onDerier ?_
  dsimp only
  split
  · exact optKeeps_none
  · refine optKeeps_ite ?_ ?_
    · exact optKeeps_none
    · refine optKeeps_ite ?_ ?_
      · refine optKeeps_ite ?_ ?_
        · exact optKeeps_none
        · refine optKeeps_ite ?_ ?_
          · exact optKeeps_some (.refl _)
          · split
            · refine optKeeps_ite ?_ ?_
              · exact optKeeps_some (keeps_ownEnds (keeps_noteResult (.refl _)))
              · exact optKeeps_some (keeps_noteResult (.refl _))
            · exact optKeeps_some (keeps_noteResult (.refl _))
      · refine optKeeps_ite ?_ ?_
        · refine optKeeps_ite ?_ ?_
          · refine optKeeps_ite ?_ ?_
            · exact optKeeps_some (keeps_closeStage (.refl _))
            · exact optKeeps_none
          · refine optKeeps_ite ?_ ?_
            · exact optKeeps_some (keeps_closeStage (.refl _))
            · refine optKeeps_ite ?_ ?_
              · exact optKeeps_some (keeps_closeStage (keeps_sendMsg (.refl _)))
              · exact optKeeps_some (keeps_closeStage (.refl _))
        · exact optKeeps_none
theorem sound_execModelStage {cid} : Sound s (execModelStage cid s) := sound_startCmd fun _ _ h => keeps_modelStageDev h
theorem sound_execKeyAdd {cid} : Sound s (execKeyAdd cid s) := sound_startCmd fun _ _ h => keeps_keyAddDev h
theorem sound_execKeyRemove {cid} : Sound s (execKeyRemove cid s) := sound_startCmd fun _ _ h => keeps_keyRemoveDev h
theorem sound_execModelActivate {cid othersMatch} : Sound s (execModelActivate cid othersMatch s) :=
  sound_startCmd fun _ _ h => keeps_modelActivateDev h
theorem sound_execModelRetire {cid} : Sound s (execModelRetire cid s) :=
  sound_startCmd fun _ _ h => keeps_modelRetireDev h
theorem sound_execAdapterLoad {cid othersFit} : Sound s (execAdapterLoad cid othersFit s) :=
  sound_startCmd fun _ _ h => keeps_adapterLoadDev h
theorem sound_execAdapterUnload {cid usedElsewhere} : Sound s (execAdapterUnload cid usedElsewhere s) :=
  sound_startCmd fun _ _ h => keeps_adapterUnloadDev h

/-! #### Submit -/

theorem sound_execSubmit {cid} : Sound s (execSubmit cid s) := sound_startCmd fun _ _ h => keeps_submitDev h
theorem sound_execDecodeStep {cid} : Sound s (execDecodeStep cid s) := sound_startCmd fun _ _ h => keeps_submitDev h
theorem sound_execSubmitAbort {cid} : Sound s (execSubmitAbort cid s) :=
  sound_startCmd fun _ _ h => keeps_submitAbortDev h
theorem sound_execRoutineStart {cid st} : Sound s (execRoutineStart cid st s) := by
  refine sound_onDev ?_
  split
  · exact optKeeps_none
  · refine optKeeps_ite ?_ ?_
    · exact optKeeps_some (keeps_startRoutine (.refl _))
    · exact optKeeps_none
theorem sound_execSubmitComplete {cid} : Sound s (execSubmitComplete cid s) := by
  refine sound_onDev ?_
  split
  · exact optKeeps_none
  · refine optKeeps_ite ?_ ?_
    · exact optKeeps_none
    · split
      · exact optKeeps_some (keeps_finish (.refl _))
      · exact optKeeps_some (keeps_finish (keeps_copyOut (.refl _)))

/-! #### Solve -/

theorem sound_execSolve {cid} : Sound s (execSolve cid s) := by
  unfold execSolve
  split
  · exact sound_startCmd fun _ _ h => keeps_solveDev h
  · exact sound_onDev (optKeeps_bind fun _ => optKeeps_solveNext (.refl _))

/-! #### Epochs -/

theorem sound_execEpochRequest : Sound s (execEpochRequest s) := by
  refine sound_onDerier ?_
  split
  · exact optKeeps_none
  · refine optKeeps_ite ?_ ?_
    · exact optKeeps_none
    · refine optKeeps_some ?_
      refine keeps_tellAll ?_
      split
      · exact keeps_putCmd (keeps_enterEpoch (keeps_setPad (.refl _)))
      · exact keeps_enterEpoch (keeps_setPad (.refl _))
theorem sound_execEpochPost {epoch offer} : Sound s (execEpochPost epoch offer s) := by
  refine sound_onDerier ?_
  refine optKeeps_ite ?_ ?_
  · exact optKeeps_postEpoch (.refl _)
  · split
    · exact optKeeps_none
    · refine optKeeps_ite ?_ ?_
      · exact optKeeps_postEpoch (keeps_enterEpoch (.refl _))
      · exact optKeeps_none
theorem sound_execStallEpochReport {st} : Sound s (execStallEpochReport st s) := by
  refine sound_onDev ?_
  dsimp only
  refine optKeeps_ite ?_ ?_
  · exact optKeeps_none
  · exact optKeeps_some (keeps_limiterStep (keeps_modStall (.refl _)))
theorem sound_execModuleEpochReport {module epoch} : Sound s (execModuleEpochReport module epoch s) := by
  refine sound_onDerier ?_
  dsimp only
  split
  · exact optKeeps_none
  · refine optKeeps_ite ?_ ?_
    · refine optKeeps_ite ?_ ?_
      · refine optKeeps_ite ?_ ?_
        · exact optKeeps_some (keeps_sendMsg (keeps_putEpoch (.refl _)))
        · exact optKeeps_some (keeps_completeEpochs (keeps_reportEpoch (keeps_putEpoch (.refl _))))
      · exact optKeeps_none
    · refine optKeeps_ite ?_ ?_
      · exact optKeeps_some (keeps_learnComplete (.refl _))
      · refine optKeeps_ite ?_ ?_
        · exact optKeeps_some (keeps_completeEpochs (keeps_reportEpoch (.refl _)))
        · exact optKeeps_none
theorem sound_execEpochRetire {epoch elsewhere} : Sound s (execEpochRetire epoch elsewhere s) := by
  refine sound_onDerier ?_
  split
  · exact optKeeps_none
  · refine optKeeps_ite ?_ ?_
    · exact optKeeps_none
    · exact optKeeps_some (keeps_tellAll (keeps_freeRetired (keeps_foldl (fun _ _ h => keeps_dropBank h) (keeps_setPad
        (.refl _)))))
theorem sound_execEpochSlow {epoch unit} : Sound s (execEpochSlow epoch unit s) := by
  refine sound_onDev ?_
  split
  · exact optKeeps_none
  · refine optKeeps_ite ?_ ?_
    · exact optKeeps_none
    · exact optKeeps_some (keeps_raiseEvent (keeps_putEpoch (.refl _)))

/-! #### Remote -/

theorem sound_execPut {st} : Sound s (execPut st s) := sound_issue fun _ _ _ h => issueKeeps_putIssue h
theorem sound_execPutS {st} : Sound s (execPutS st s) := sound_issue fun _ _ _ h => issueKeeps_putIssue h
theorem sound_execPutF {st} : Sound s (execPutF st s) := sound_issue fun _ _ _ h => issueKeeps_putIssue h
theorem sound_execGet {st} : Sound s (execGet st s) := sound_issue fun _ _ _ h => issueKeeps_getIssue h
theorem sound_execAaddI32 {st} : Sound s (execAaddI32 st s) := sound_issue fun _ _ _ h => issueKeeps_aaddIssue h
theorem sound_execAaddF32 {st} : Sound s (execAaddF32 st s) := sound_issue fun _ _ _ h => issueKeeps_aaddIssue h
theorem sound_execAaddBf16 {st} : Sound s (execAaddBf16 st s) := sound_issue fun _ _ _ h => issueKeeps_aaddIssue h
theorem sound_execFaddI32 {st} : Sound s (execFaddI32 st s) := sound_issue fun _ _ _ h => issueKeeps_faddIssue h
theorem sound_execFaddI64 {st} : Sound s (execFaddI64 st s) := sound_issue fun _ _ _ h => issueKeeps_faddIssue h
theorem sound_execFenceD {st} : Sound s (execFenceD st s) := sound_issue fun _ _ _ h => issueKeeps_fenceIssue h
theorem sound_execFenceY {st} : Sound s (execFenceY st s) := sound_issue fun _ _ _ h => issueKeeps_fenceIssue h
theorem sound_execFenceP {st} : Sound s (execFenceP st s) := sound_issue fun _ _ _ h => issueKeeps_fenceIssue h
theorem sound_execWaitc {st} : Sound s (execWaitc st s) := sound_issue fun _ _ _ h => issueKeeps_waitcIssue h
theorem sound_execPutPerform {id} : Sound s (execPutPerform id s) := by
  refine sound_onDev ?_
  split
  · refine optKeeps_ite ?_ ?_
    · exact optKeeps_some (keeps_performPut (.refl _))
    · exact optKeeps_none
  · exact optKeeps_none
theorem sound_execPutFArrive {id} : Sound s (execPutFArrive id s) := by
  refine sound_onDev ?_
  split
  · refine optKeeps_ite ?_ ?_
    · exact optKeeps_some (keeps_arrive (.refl _))
    · exact optKeeps_none
  · exact optKeeps_none
theorem sound_execGetPerform {id} : Sound s (execGetPerform id s) := by
  refine sound_onDev ?_
  split
  · refine optKeeps_ite ?_ ?_
    · exact optKeeps_some (keeps_performGet (.refl _))
    · exact optKeeps_none
  · exact optKeeps_none
theorem sound_execAtomicPerform {id} : Sound s (execAtomicPerform id s) := by
  refine sound_onDev ?_
  split
  · refine optKeeps_ite ?_ ?_
    · exact optKeeps_some (keeps_performAtomic (.refl _))
    · exact optKeeps_none
  · exact optKeeps_none
theorem sound_execHoldResend {src dst} : Sound s (execHoldResend src dst s) := by
  refine sound_onDev ?_
  refine optKeeps_ite ?_ ?_
  · exact optKeeps_some (keeps_foldl (fun _ _ h => keeps_arrive h) (keeps_modStall (.refl _)))
  · exact optKeeps_none
theorem sound_execRemoteComplete {id} : Sound s (execRemoteComplete id s) := by
  refine sound_onDev ?_
  split
  · refine optKeeps_ite ?_ ?_
    · exact optKeeps_some (keeps_completeOp (.refl _))
    · exact optKeeps_none
  · exact optKeeps_none

/-! #### Reset -/

theorem sound_execHsGo {value} : Sound s (execHsGo value s) := by
  refine sound_always ?_
  refine keeps_ite ?_ ?_
  · exact .refl _
  · refine keeps_ite ?_ ?_
    · exact keeps_frame (.refl _)
    · exact keeps_zeroPrefixTable (keeps_frame (keeps_frame (.refl _)))
theorem sound_execFunctionLevelReset {fn} : Sound s (execFunctionLevelReset fn s) :=
  sound_alwaysDerier (keeps_foldl (fun _ _ h => keeps_resetFunction h) (.refl _))
theorem sound_execHotReset : Sound s (execHotReset s) := sound_alwaysDerier (keeps_linkLost (.refl _))
theorem sound_execHostLinkRetrained : Sound s (execHostLinkRetrained s) := by
  refine sound_onDev ?_
  refine optKeeps_ite ?_ ?_
  · exact optKeeps_some (keeps_frame (.refl _))
  · exact optKeeps_none
theorem sound_execPerstN {level} : Sound s (execPerstN level s) := by
  refine sound_alwaysDerier ?_
  dsimp only
  refine keeps_ite ?_ ?_
  · refine keeps_ite ?_ ?_
    · exact .refl _
    · exact keeps_linkLost (keeps_frame (.refl _))
  · refine keeps_ite ?_ ?_
    · exact keeps_trainHost (keeps_frame (.refl _))
    · exact keeps_frame (.refl _)

/-! #### Ports -/

theorem sound_execLinkDown {port} : Sound s (execLinkDown port s) := by
  refine sound_onDerier ?_
  refine optKeeps_ite ?_ ?_
  · exact optKeeps_none
  · exact optKeeps_some (keeps_portDown (.refl _))
theorem sound_execCodewordLock {port} : Sound s (execCodewordLock port s) := by
  refine sound_onDev ?_
  dsimp only
  refine optKeeps_ite ?_ ?_
  · exact optKeeps_some (keeps_opticalLock (keeps_setPort (.refl _)))
  · exact optKeeps_none
theorem sound_execTrainingExchange {port peerPort serial} : Sound s (execTrainingExchange port peerPort serial s) := by
  refine sound_onDev ?_
  dsimp only
  refine optKeeps_ite ?_ ?_
  · exact optKeeps_some (keeps_setPort (.refl _))
  · exact optKeeps_none
theorem sound_execTrainingTimeout {port} : Sound s (execTrainingTimeout port s) := by
  refine sound_onDerier ?_
  refine optKeeps_ite ?_ ?_
  · exact optKeeps_some (keeps_portDown (.refl _))
  · exact optKeeps_none
theorem sound_execLinkUp {port} : Sound s (execLinkUp port s) := by
  refine sound_onDev ?_
  dsimp only
  refine optKeeps_ite ?_ ?_
  · refine optKeeps_some ?_
    refine keeps_ite ?_ ?_
    · exact keeps_sendMsg (.refl _)
    · exact keeps_linkBack (.refl _)
  · exact optKeeps_none
theorem sound_execPacketReceive {port pkt} : Sound s (execPacketReceive port pkt s) := by
  refine sound_onDerier ?_
  dsimp only
  refine optKeeps_ite ?_ ?_
  · exact optKeeps_none
  · refine optKeeps_ite ?_ ?_
    · refine optKeeps_some ?_
      refine keeps_discard ?_
      refine keeps_ite ?_ ?_
      · exact .refl _
      · exact keeps_bumpBy (.refl _)
    · refine optKeeps_ite ?_ ?_
      · refine optKeeps_some ?_
        refine keeps_deliver ?_
        refine keeps_ite ?_ ?_
        · exact .refl _
        · exact keeps_bumpBy (.refl _)
      · refine optKeeps_ite ?_ ?_
        · refine optKeeps_some ?_
          refine keeps_ite ?_ ?_
          · refine keeps_emit ?_
            refine keeps_ite ?_ ?_
            · exact .refl _
            · exact keeps_bumpBy (.refl _)
          · refine keeps_discard ?_
            refine keeps_ite ?_ ?_
            · exact .refl _
            · exact keeps_bumpBy (.refl _)
        · refine optKeeps_some ?_
          refine keeps_deliver ?_
          refine keeps_emit ?_
          refine keeps_setPort ?_
          refine keeps_ite ?_ ?_
          · exact .refl _
          · exact keeps_bumpBy (.refl _)
theorem sound_execReplayRequest {port seq} : Sound s (execReplayRequest port seq s) := by
  refine sound_onDerier ?_
  dsimp only
  refine optKeeps_ite ?_ ?_
  · exact optKeeps_some (keeps_replayFrom (.refl _))
  · exact optKeeps_none

/-! #### Paddock -/

theorem sound_execPaddockJoin {cid linksUp busy newest} : Sound s (execPaddockJoin cid linksUp busy newest s) := by
  refine sound_startCmd fun d c h => ?_
  refine keeps_ite ?_ ?_
  · exact keeps_finish h
  · refine keeps_ite ?_ ?_
    · exact keeps_becomeFollower h
    · exact keeps_joinLead h
theorem sound_execJoinLinkTimeout : Sound s (execJoinLinkTimeout s) := by
  refine sound_onDev ?_
  split
  · exact optKeeps_some (keeps_finish (keeps_setPad (.refl _)))
  · exact optKeeps_none
theorem sound_execPaddockLeave {cid busy} : Sound s (execPaddockLeave cid busy s) := by
  refine sound_startCmd fun d c h => ?_
  refine keeps_ite ?_ ?_
  · exact keeps_finish h
  · refine keeps_ite ?_ ?_
    · exact keeps_finish h
    · split
      · exact keeps_finish (keeps_completeEpochs (keeps_becomeAlone (keeps_unbindOwn (keeps_toPlan h))))
      · exact keeps_completeEpochs (keeps_becomeAlone (keeps_unbindOwn (keeps_finish h)))
theorem sound_execLeadUnreachable : Sound s (execLeadUnreachable s) := by
  refine sound_onDev ?_
  refine optKeeps_ite ?_ ?_
  · exact optKeeps_some (keeps_cutAway (keeps_becomeAlone (keeps_unbindOwn (keeps_silenceCommands (keeps_dropAllLive
      (keeps_closeAll (keeps_abortAll (.refl _))))))))
  · exact optKeeps_none
theorem sound_execTwinBind {cid linkUp layoutSame stallsOk} : Sound s (execTwinBind cid linkUp layoutSame stallsOk s)
    := by
  refine sound_startCmd fun d c h => ?_
  refine keeps_ite ?_ ?_
  · exact keeps_finish h
  · refine keeps_ite ?_ ?_
    · exact keeps_finish (keeps_bindHere h)
    · split
      · exact keeps_finish h
      · exact keeps_bindHere (keeps_toTwins (keeps_setPad h))
theorem sound_execTwinCopyDone : Sound s (execTwinCopyDone s) := by
  refine sound_onDerier ?_
  refine optKeeps_ite ?_ ?_
  · refine optKeeps_some ?_
    refine keeps_ite ?_ ?_
    · exact keeps_sendMsg (keeps_sendTwin (keeps_raiseEvent (keeps_setPad (.refl _))))
    · exact keeps_bindingInStep (keeps_sendTwin (keeps_raiseEvent (keeps_setPad (.refl _))))
  · exact optKeeps_none
theorem sound_execTwinUnbind {cid} : Sound s (execTwinUnbind cid s) := by
  refine sound_startCmd fun d c h => ?_
  dsimp only
  refine keeps_ite ?_ ?_
  · exact keeps_finish h
  · refine keeps_ite ?_ ?_
    · exact keeps_finish (keeps_unbindOwn h)
    · split
      · exact keeps_finish h
      · refine keeps_ite ?_ ?_
        · exact keeps_finish h
        · refine keeps_finish ?_
          refine keeps_completeEpochs ?_
          refine keeps_ite ?_ ?_
          · exact keeps_unbindOwn (keeps_setPad (keeps_toTwins (keeps_noteBinding h)))
          · exact keeps_setPad (keeps_toTwins (keeps_noteBinding h))
theorem sound_execLeadTakeover : Sound s (execLeadTakeover s) := by
  refine sound_onDev ?_
  refine optKeeps_ite ?_ ?_
  · refine optKeeps_some (keeps_sendMsix (keeps_withServing ?_))
    exact keeps_takeOver (keeps_settleBusy (keeps_foldl (fun _ _ h => keeps_sendMsg h)
      (keeps_dropUnmirrored (keeps_takeStopAll (keeps_setPad (.refl _))))))
  · exact optKeeps_none
theorem sound_execTwinLost : Sound s (execTwinLost s) := by
  refine sound_onDev ?_
  refine optKeeps_ite ?_ ?_
  · exact optKeeps_some (keeps_loseTwin (.refl _))
  · exact optKeeps_none
theorem sound_execLeadFenced : Sound s (execLeadFenced s) := by
  refine sound_onDev ?_
  refine optKeeps_ite ?_ ?_
  · refine optKeeps_some (keeps_withServing ?_)
    exact keeps_loseTwin (keeps_endStages (keeps_setPad (keeps_abortCommands (keeps_abortAll (keeps_raiseEvent (.refl
      _))))))
  · exact optKeeps_none

/-! #### Sense -/

theorem limiterOk_requests {who : Requester} {l : List (Nat × BitVec 12)} {s : Sense} (h : LimiterOk s) :
    LimiterOk (l.foldl (request who) s) := by
  induction l generalizing s with
  | nil => exact h
  | cons p l ih => exact ih h

theorem sound_execSenseScan : Sound s (execSenseScan s) := by
  unfold execSenseScan
  generalize (List.range 63).map (fun n => (n, (0 : BitVec 12))) = l
  generalize List.replicate 4 (63, (0x800 : BitVec 12)) = l'
  refine sound_onDev ?_
  refine optKeeps_ite ?_ ?_
  · exact optKeeps_none
  · refine optKeeps_some (keeps_setSense (.refl _) fun hs => ?_)
    split
    · exact limiterOk_requests hs
    · exact limiterOk_requests (limiterOk_requests hs)
theorem sound_execSenseConversionStart : Sound s (execSenseConversionStart s) := by
  refine sound_onDev ?_
  split
  · exact optKeeps_some (keeps_frame (.refl _))
  · exact optKeeps_none
theorem sound_execSenseReq {value firmware} : Sound s (execSenseReq value firmware s) := by
  refine sound_always ?_
  refine keeps_ite ?_ ?_
  · exact .refl _
  · refine keeps_ite ?_ ?_
    · exact keeps_bump (.refl _)
    · exact keeps_frame (.refl _)
theorem sound_execSenseConversionEnd {raw} : Sound s (execSenseConversionEnd raw s) := by
  refine sound_onDev ?_
  split
  · exact optKeeps_none
  · split
    · exact optKeeps_some (keeps_frame (.refl _))
    · exact optKeeps_some (keeps_frame (.refl _))
    · refine optKeeps_some ?_
      refine keeps_ite ?_ ?_
      · exact keeps_checkRefit (keeps_endSweep (keeps_frame (.refl _)))
      · exact keeps_frame (.refl _)
    · refine optKeeps_some ?_
      split <;> exact keeps_frame (.refl _)
theorem sound_execSensePeakClr {value} : Sound s (execSensePeakClr value s) := by
  refine sound_always ?_
  refine keeps_ite ?_ ?_
  · exact .refl _
  · exact keeps_frame (.refl _)
theorem limiterOk_startSweep {s : Sense} (h : LimiterOk s) : LimiterOk (startSweep s) := by
  unfold startSweep
  generalize List.replicate 32 (63, (0x100 : BitVec 12)) ++ _ = l
  have h1 : LimiterOk (l.foldl (request .sweep) s) := limiterOk_requests h
  exact h1

theorem sound_execCalSweep : Sound s (execCalSweep s) := by
  refine sound_onDev ?_
  dsimp only
  refine optKeeps_ite ?_ ?_
  · exact optKeeps_none
  · split
    · exact optKeeps_some (keeps_setSense (.refl _) id)
    · refine optKeeps_some (keeps_setSense (.refl _) fun hs => limiterOk_startSweep ?_)
      exact hs
theorem sound_execRefit {st crib bank corr} : Sound s (execRefit st crib bank corr s) := by
  refine sound_onDev ?_
  dsimp only
  refine optKeeps_ite ?_ ?_
  · exact optKeeps_none
  · refine optKeeps_ite ?_ ?_
    · refine optKeeps_some ?_
      refine keeps_ite ?_ ?_
      · exact keeps_holdFit (keeps_setBank (.refl _))
      · exact keeps_holdFit (keeps_fitFails (.refl _))
    · refine optKeeps_ite ?_ ?_
      · exact optKeeps_none
      · refine optKeeps_ite ?_ ?_
        · exact optKeeps_some (keeps_setBank (.refl _))
        · exact optKeeps_some (keeps_fitFails (.refl _))
theorem limiterOk_setBiases {l : List Nat} {s : Sense} (h : LimiterOk s) : LimiterOk (setBiases (l.foldl moveEntry s))
    := by
  induction l generalizing s with
  | nil => exact h
  | cons die l ih =>
    refine ih ?_
    unfold moveEntry
    split
    · exact h
    · dsimp only
      split <;> exact h

theorem sound_execSenseWindowEnd {facts} : Sound s (execSenseWindowEnd facts s) := by
  refine sound_onDev ?_
  dsimp only
  refine optKeeps_ite ?_ ?_
  · exact optKeeps_none
  · refine optKeeps_ite ?_ ?_
    · exact optKeeps_some (keeps_endCredits (keeps_setSense (.refl _) id))
    · refine optKeeps_some (keeps_limiterStep (keeps_tripWindow (keeps_powerWindow (keeps_throttleWindow ?_))))
      have h1 : Keeps s.dev (adoptCalibration (setSense (endCredits s.dev) (latch s.dev.sense))) :=
        keeps_adoptCalibration (keeps_setSense (keeps_endCredits (.refl _)) id)
      have h2 {e : Dev} (he : Keeps s.dev e) : Keeps s.dev (checkAdc ((List.range 63).foldl (checkChannel e.sense) e)) :=
        keeps_checkAdc (keeps_foldl (fun _ _ h => keeps_checkChannel h) he)
      exact keeps_setSense (h2 h1) limiterOk_setBiases

/-! #### Power -/

theorem sound_execPllUnlock {pll} : Sound s (execPllUnlock pll s) := by
  refine sound_onDev ?_
  refine optKeeps_ite ?_ ?_
  · exact optKeeps_none
  · refine optKeeps_ite ?_ ?_
    · exact optKeeps_some (keeps_linkLost (keeps_frame (.refl _)))
    · refine optKeeps_ite ?_ ?_
      · exact optKeeps_some (keeps_foldl (fun _ _ h => keeps_portDown h) (keeps_frame (.refl _)))
      · refine optKeeps_ite ?_ ?_
        · exact optKeeps_some (keeps_foldl (fun _ _ h => keeps_portDown h) (keeps_frame (.refl _)))
        · exact optKeeps_some (keeps_frame (keeps_moduleReset (keeps_frame (.refl _))))
theorem sound_execInputOutOfRange {millivolts micros} (hr : beyondRatings millivolts micros = false) :
    Sound s (execInputOutOfRange millivolts micros s) := by
  unfold execInputOutOfRange
  rw [if_neg (by simp [hr])]
  exact sound_always (keeps_ite (.refl _) (keeps_frame (keeps_powerOff (.refl _))))
theorem sound_execResetNAssert {nanos} : Sound s (execResetNAssert nanos s) := by
  refine sound_always ?_
  refine keeps_ite ?_ ?_
  · exact .refl _
  · refine keeps_ite ?_ ?_
    · refine keeps_ite ?_ ?_
      · exact keeps_frame (keeps_moduleReset (.refl _))
      · exact .refl _
    · exact keeps_frame (keeps_powerOff (.refl _))
theorem sound_execResetNRelease : Sound s (execResetNRelease s) := by
  refine sound_onDev ?_
  refine optKeeps_ite ?_ ?_
  · refine optKeeps_some ?_
    split <;> exact keeps_frame (.refl _)
  · exact optKeeps_none
theorem sound_execPowerUp {facts} : Sound s (execPowerUp facts s) := by
  refine sound_onDev ?_
  refine optKeeps_ite ?_ ?_
  · exact optKeeps_none
  · refine optKeeps_ite ?_ ?_
    · exact optKeeps_some (keeps_powerSequence (.refl _))
    · exact optKeeps_none

/-! #### Registers -/

theorem sound_execRegisterRead {fn off width} : Sound s (execRegisterRead fn off width s) := by
  refine sound_always ?_
  refine keeps_ite ?_ ?_
  · refine keeps_emit ?_
    refine keeps_ite ?_ ?_
    · exact keeps_freeFailed (.refl _)
    · exact .refl _
  · refine keeps_emit ?_
    refine keeps_ite ?_ ?_
    · exact keeps_bump (.refl _)
    · exact .refl _
theorem sound_execRegisterWrite {fn off width value} : Sound s (execRegisterWrite fn off width value s) := by
  refine sound_onDev ?_
  refine optKeeps_ite ?_ ?_
  · exact optKeeps_bar0Write (.refl _)
  · refine optKeeps_some ?_
    refine keeps_ite ?_ ?_
    · exact keeps_bump (.refl _)
    · exact .refl _
theorem sound_execMgmtSettingWrite {off width value} : Sound s (execMgmtSettingWrite off width value s) := by
  refine sound_onDev ?_
  dsimp only
  refine optKeeps_ite ?_ ?_
  · exact optKeeps_none
  · refine optKeeps_ite ?_ ?_
    · exact optKeeps_some (.refl _)
    · exact optKeeps_some (keeps_frame (keeps_ownRecords (.refl _)))

/-! #### Bar2 -/

theorem sound_execBar2Read {offset len} : Sound s (execBar2Read offset len s) := by
  refine sound_onDev ?_
  refine optKeeps_ite ?_ ?_
  · exact optKeeps_none
  · refine optKeeps_ite ?_ ?_
    · exact optKeeps_some (keeps_emit (keeps_bump (.refl _)))
    · exact optKeeps_some (keeps_emit (keeps_dramTouchAll (.refl _)))
theorem sound_execBar2Write {offset data} : Sound s (execBar2Write offset data s) := by
  refine sound_onDev ?_
  refine optKeeps_ite ?_ ?_
  · exact optKeeps_none
  · refine optKeeps_ite ?_ ?_
    · exact optKeeps_some (keeps_bump (.refl _))
    · exact optKeeps_some (keeps_derWrite (.refl _))
theorem sound_execBar2Resize {log2} : Sound s (execBar2Resize log2 s) := by
  refine sound_onDev ?_
  refine optKeeps_ite ?_ ?_
  · exact optKeeps_some (keeps_frame (.refl _))
  · exact optKeeps_none

/-! #### Control -/

theorem sound_execB {st} : Sound s (execB st s) := sound_issue fun _ _ _ h => issueKeeps_bIssue h
theorem sound_execBc {st} : Sound s (execBc st s) := sound_issue fun _ _ _ h => issueKeeps_bcIssue h
theorem sound_execLoop {st} : Sound s (execLoop st s) := sound_issue fun _ _ _ h => issueKeeps_loopIssue h
theorem sound_execCall {st} : Sound s (execCall st s) := sound_issue fun _ _ _ h => issueKeeps_callIssue h
theorem sound_execRet {st} : Sound s (execRet st s) := sound_issue fun _ _ _ h => issueKeeps_retIssue h
theorem sound_execYield {st} : Sound s (execYield st s) := sound_issue fun _ _ _ h => issueKeeps_yieldIssue h
theorem sound_execEpoch {st} : Sound s (execEpoch st s) := sound_issue fun _ _ _ h => issueKeeps_epochIssue h
theorem sound_execHalt {st} : Sound s (execHalt st s) := sound_issue fun _ _ _ h => issueKeeps_haltIssue h
theorem sound_execEpochWaitEnd {st} : Sound s (execEpochWaitEnd st s) := by
  refine sound_onDev ?_
  dsimp only
  split
  · refine optKeeps_ite ?_ ?_
    · exact optKeeps_some (keeps_epochEnd (.refl _))
    · exact optKeeps_none
  · exact optKeeps_none

/-! #### Derier -/

theorem sound_execIdentify {cid} : Sound s (execIdentify cid s) := sound_startCmd fun _ _ h => keeps_identifyDev h
theorem sound_execAttest {cid} : Sound s (execAttest cid s) := sound_startCmd fun _ _ h => keeps_attestDev h
theorem sound_execModeSetPower {cid} : Sound s (execModeSetPower cid s) :=
  sound_startCmd fun _ _ h => keeps_modePowerDev h
theorem sound_execModeSetCalset {cid} : Sound s (execModeSetCalset cid s) :=
  sound_startCmd fun _ _ h => keeps_modeCalsetDev h
theorem sound_execModeSetFeed {cid} : Sound s (execModeSetFeed cid s) := sound_startCmd fun _ _ h => keeps_modeFeedDev h
theorem sound_execModeSetGroom {cid} : Sound s (execModeSetGroom cid s) :=
  sound_startCmd fun _ _ h => keeps_modeGroomDev h
theorem sound_execModeSetQuota {cid} : Sound s (execModeSetQuota cid s) :=
  sound_startCmd fun _ _ h => keeps_modeQuotaDev h
theorem sound_execTelemetryRead {cid} : Sound s (execTelemetryRead cid s) :=
  sound_startCmd fun _ _ h => keeps_telemetryDev h
theorem sound_execTelemetryReadClear {cid} : Sound s (execTelemetryReadClear cid s) :=
  sound_startCmd fun _ _ h => keeps_telemetryClearDev h
theorem sound_execVetLoad {cid} : Sound s (execVetLoad cid s) := sound_startCmd fun _ _ h => keeps_vetLoadDev h
theorem sound_execFwUpdateStore {cid} : Sound s (execFwUpdateStore cid s) :=
  sound_startCmd fun _ _ h => keeps_fwStoreDev h
theorem sound_execFwUpdateActivate {cid} : Sound s (execFwUpdateActivate cid s) :=
  sound_startCmd fun _ _ h => keeps_fwActivateDev h

/-! #### Health -/

theorem sound_execSampleCheck {st crib residueOk} : Sound s (execSampleCheck st crib residueOk s) := by
  refine sound_onDev ?_
  split
  · exact optKeeps_none
  · refine optKeeps_ite ?_ ?_
    · exact optKeeps_none
    · refine optKeeps_ite ?_ ?_
      · exact optKeeps_some (keeps_dropSample (.refl _))
      · exact optKeeps_some (keeps_judgeSample (keeps_dropSample (.refl _)))
theorem sound_execVetProbe {st crib bank tick residueOk} : Sound s (execVetProbe st crib bank tick residueOk s) := by
  refine sound_onDev ?_
  dsimp only
  refine optKeeps_ite ?_ ?_
  · exact optKeeps_some (keeps_probeBank (.refl _))
  · exact optKeeps_none
theorem sound_execVetRun {st failed} : Sound s (execVetRun st failed s) := by
  refine sound_onDev ?_
  refine optKeeps_ite ?_ ?_
  · exact optKeeps_some (keeps_vetRunStall (.refl _))
  · exact optKeeps_none
theorem sound_execWatchPeriod {results} : Sound s (execWatchPeriod results s) := by
  refine sound_onDerier ?_
  refine optKeeps_ite ?_ ?_
  · exact optKeeps_none
  · exact optKeeps_some (keeps_newPeriod (keeps_foldl (fun _ _ h => keeps_countEntry h) (keeps_clearWaiting
      (keeps_foldl (fun _ _ h => keeps_runTest h) (.refl _)))))

/-! #### Lane -/

theorem sound_execVadd {st} : Sound s (execVadd st s) := sound_issue fun _ _ _ h => issueKeeps_pureOp h
theorem sound_execVmul {st} : Sound s (execVmul st s) := sound_issue fun _ _ _ h => issueKeeps_pureOp h
theorem sound_execVfma {st} : Sound s (execVfma st s) := sound_issue fun _ _ _ h => issueKeeps_pureOp h
theorem sound_execVmax {st} : Sound s (execVmax st s) := sound_issue fun _ _ _ h => issueKeeps_pureOp h
theorem sound_execVexp {st} : Sound s (execVexp st s) := sound_issue fun _ _ _ h => issueKeeps_pureOp h
theorem sound_execVrsq {st} : Sound s (execVrsq st s) := sound_issue fun _ _ _ h => issueKeeps_pureOp h
theorem sound_execVcvt {st} : Sound s (execVcvt st s) := sound_issue fun _ _ _ h => issueKeeps_pureOp h
theorem sound_execVred {st} : Sound s (execVred st s) := sound_issue fun _ _ _ h => issueKeeps_pureOp h
theorem sound_execVsel {st} : Sound s (execVsel st s) := sound_issue fun _ _ _ h => issueKeeps_pureOp h
theorem sound_execVcmp {st} : Sound s (execVcmp st s) := sound_issue fun _ _ _ h => issueKeeps_pureOp h
theorem sound_execVld {st} : Sound s (execVld st s) := sound_issue fun _ _ _ h => issueKeeps_vldIssue h
theorem sound_execVst {st} : Sound s (execVst st s) := sound_issue fun _ _ _ h => issueKeeps_vstIssue h

/-! #### Memory -/

theorem sound_execGroomScrub {line arisen lastOfPass} : Sound s (execGroomScrub line arisen lastOfPass s) := by
  refine sound_onDev ?_
  refine optKeeps_ite ?_ ?_
  · exact optKeeps_none
  · split
    · exact optKeeps_some (keeps_passEnds (keeps_groomDram (.refl _)))
    · exact optKeeps_some (keeps_passEnds (keeps_groomCorr (.refl _)))
    · refine optKeeps_ite ?_ ?_
      · exact optKeeps_some (keeps_passEnds (keeps_groomSide (.refl _)))
      · refine optKeeps_ite ?_ ?_
        · exact optKeeps_none
        · refine optKeeps_some ?_
          refine keeps_passEnds ?_
          refine keeps_ite ?_ ?_
          · exact keeps_groomStore (.refl _)
          · exact keeps_groomBuffer (.refl _)
    · exact optKeeps_some (keeps_passEnds (keeps_groomGate (.refl _)))
theorem sound_execLoftScrub {stack unit arisen} : Sound s (execLoftScrub stack unit arisen s) := by
  refine sound_always ?_
  extract_lets offs u ar bad _ d1 err d2
  have h1 : Keeps s.dev d1 := keeps_setMem (.refl _) fun hm => ⟨hm.1, mwf_upsetBytes _ _ _ _ hm.2⟩
  have h2 : Keeps s.dev d2 := keeps_loftTouch h1
  exact keeps_ite (keeps_setMem (keeps_loftUnitWrite h2) id) h2

/-! #### Move -/

theorem sound_execMov {st} : Sound s (execMov st s) := sound_issue fun _ _ _ h => issueKeeps_pureOp h
theorem sound_execLd {st} : Sound s (execLd st s) := sound_issue fun _ _ _ h => issueKeeps_ldIssue h
theorem sound_execSt {st} : Sound s (execSt st s) := sound_issue fun _ _ _ h => issueKeeps_stIssue h
theorem sound_execCopy {st} : Sound s (execCopy st s) := sound_issue fun _ _ _ h => issueKeeps_copyIssue h
theorem sound_execFill {st} : Sound s (execFill st s) := sound_issue fun _ _ _ h => issueKeeps_fillIssue h

/-! #### Report -/

theorem sound_execHeartbeat : Sound s (execHeartbeat s) := by
  refine sound_onDev ?_
  refine optKeeps_ite ?_ ?_
  · exact optKeeps_some (keeps_sendDatagram (.refl _))
  · exact optKeeps_none
theorem sound_execEventReport : Sound s (execEventReport s) := by
  refine sound_onDev ?_
  refine optKeeps_ite ?_ ?_
  · exact optKeeps_some (keeps_sendEvents (.refl _))
  · exact optKeeps_none
theorem sound_execMgmtEventDrop : Sound s (execMgmtEventDrop s) := by
  refine sound_onDev ?_
  split
  · exact optKeeps_none
  · exact optKeeps_some (keeps_bump (keeps_setHealth (.refl _)))
theorem sound_execDerierMismatch {pair recent} : Sound s (execDerierMismatch pair recent s) := by
  refine sound_onDev ?_
  dsimp only
  refine optKeeps_ite ?_ ?_
  · exact optKeeps_none
  · refine optKeeps_ite ?_ ?_
    · exact optKeeps_some (keeps_moduleReset (keeps_finalReport (keeps_bump (.refl _))))
    · split <;> exact optKeeps_some (keeps_setHealth (keeps_bump (.refl _)))
theorem sound_execDerierRestart {pair} : Sound s (execDerierRestart pair s) := by
  refine sound_onDerier ?_
  refine optKeeps_ite ?_ ?_
  · exact optKeeps_none
  · refine optKeeps_ite ?_ ?_
    · exact optKeeps_some (keeps_foldl (fun _ _ h => keeps_endLost h) (keeps_setHealth (keeps_raiseEvent
        (keeps_setHealth (.refl _)))))
    · exact optKeeps_some (keeps_raiseEvent (keeps_setHealth (.refl _)))
theorem sound_execPushFragment {port bytes fresh} : Sound s (execPushFragment port bytes fresh s) := by
  refine sound_alwaysDerier ?_
  refine keeps_ite ?_ ?_
  · exact keeps_takeFragment (.refl _)
  · exact .refl _
theorem sound_execArpRequest {frame} : Sound s (execArpRequest frame s) := by
  refine sound_always ?_
  refine keeps_ite ?_ ?_
  · exact keeps_emit (.refl _)
  · exact .refl _
theorem sound_execIcmpEcho {frame} : Sound s (execIcmpEcho frame s) := by
  refine sound_always ?_
  refine keeps_ite ?_ ?_
  · exact keeps_emit (.refl _)
  · exact .refl _

/-! #### Slot -/

theorem sound_execLdW {st} : Sound s (execLdW st s) := sound_issue fun _ _ _ h => issueKeeps_ldWIssue h
theorem sound_execStF {st} : Sound s (execStF st s) := sound_issue fun _ _ _ h => issueKeeps_stFIssue h
theorem sound_execSlotSet {st} : Sound s (execSlotSet st s) := sound_issue fun _ _ _ h => issueKeeps_slotSetIssue h
theorem sound_execSlotClr {st} : Sound s (execSlotClr st s) := sound_issue fun _ _ _ h => issueKeeps_slotClrIssue h

end

/-- Every command leaves the queue, keeps the invariants and raises no fault, but for an input beyond the ratings. -/
theorem sound_exec {c : Instr} {s : State} (hc : ∀ mv us, c = .inputOutOfRange mv us → beyondRatings mv us = false) :
    Sound s (exec c s) := by
  cases c with
  | cribMvm _ => exact sound_execCribMvm
  | cribBank _ => exact sound_execCribBank
  | cribProbe _ => exact sound_execCribProbe
  | vadd _ => exact sound_execVadd
  | vmul _ => exact sound_execVmul
  | vfma _ => exact sound_execVfma
  | vmax _ => exact sound_execVmax
  | vexp _ => exact sound_execVexp
  | vrsq _ => exact sound_execVrsq
  | vcvt _ => exact sound_execVcvt
  | vred _ => exact sound_execVred
  | vsel _ => exact sound_execVsel
  | vcmp _ => exact sound_execVcmp
  | vld _ => exact sound_execVld
  | vst _ => exact sound_execVst
  | mov _ => exact sound_execMov
  | ld _ => exact sound_execLd
  | st _ => exact sound_execSt
  | copy _ => exact sound_execCopy
  | fill _ => exact sound_execFill
  | ldW _ => exact sound_execLdW
  | stF _ => exact sound_execStF
  | slotSet _ => exact sound_execSlotSet
  | slotClr _ => exact sound_execSlotClr
  | put _ => exact sound_execPut
  | putS _ => exact sound_execPutS
  | putF _ => exact sound_execPutF
  | get _ => exact sound_execGet
  | aaddI32 _ => exact sound_execAaddI32
  | aaddF32 _ => exact sound_execAaddF32
  | aaddBf16 _ => exact sound_execAaddBf16
  | faddI32 _ => exact sound_execFaddI32
  | faddI64 _ => exact sound_execFaddI64
  | fenceD _ => exact sound_execFenceD
  | fenceY _ => exact sound_execFenceY
  | fenceP _ => exact sound_execFenceP
  | waitc _ => exact sound_execWaitc
  | attnGo _ => exact sound_execAttnGo
  | b _ => exact sound_execB
  | bc _ => exact sound_execBc
  | loop _ => exact sound_execLoop
  | call _ => exact sound_execCall
  | ret _ => exact sound_execRet
  | yield _ => exact sound_execYield
  | epoch _ => exact sound_execEpoch
  | epochWaitEnd _ => exact sound_execEpochWaitEnd
  | halt _ => exact sound_execHalt
  | routineEnd _ => exact sound_execRoutineEnd
  | drainEnd _ => exact sound_execDrainEnd
  | idleAdopt _ => exact sound_execIdleAdopt
  | routineStart _ _ => exact sound_execRoutineStart
  | cribStart _ _ _ => exact sound_execCribStart
  | cribBinWrite _ _ _ => exact sound_execCribBinWrite
  | sideFetchReturn _ _ _ => exact sound_execSideFetchReturn
  | residue _ _ => exact sound_execResidue
  | lockstep _ _ => exact sound_execLockstep
  | watchdog _ => exact sound_execWatchdog
  | boundaryLate _ => exact sound_execBoundaryLate
  | slotJam _ => exact sound_execSlotJam
  | putPerform _ => exact sound_execPutPerform
  | putFArrive _ => exact sound_execPutFArrive
  | holdResend _ _ => exact sound_execHoldResend
  | getPerform _ => exact sound_execGetPerform
  | atomicPerform _ => exact sound_execAtomicPerform
  | remoteComplete _ => exact sound_execRemoteComplete
  | groomScrub _ _ _ => exact sound_execGroomScrub
  | loftScrub _ _ _ => exact sound_execLoftScrub
  | referenceRead _ _ _ _ => exact sound_execReferenceRead
  | refit _ _ _ _ => exact sound_execRefit
  | attnJobStart _ _ => exact sound_execAttnJobStart
  | attnJobFinish _ _ _ => exact sound_execAttnJobFinish
  | editBatchApply _ => exact sound_execEditBatchApply
  | pageAllocate _ _ => exact sound_execPageAllocate
  | prefixInsert _ _ => exact sound_execPrefixInsert
  | stageStart _ => exact sound_execStageStart
  | shardReceived _ _ => exact sound_execShardReceived
  | shardRefetch _ => exact sound_execShardRefetch
  | shardTimeout => exact sound_execShardTimeout
  | bankProgramStart _ => exact sound_execBankProgramStart
  | bankProgramDone _ _ => exact sound_execBankProgramDone
  | stageResult _ _ => exact sound_execStageResult
  | identify _ => exact sound_execIdentify
  | attest _ => exact sound_execAttest
  | ringCreate _ _ => exact sound_execRingCreate
  | ringDestroy _ => exact sound_execRingDestroy
  | modelStage _ => exact sound_execModelStage
  | keyAdd _ => exact sound_execKeyAdd
  | keyRemove _ => exact sound_execKeyRemove
  | modelActivate _ _ => exact sound_execModelActivate
  | modelRetire _ => exact sound_execModelRetire
  | adapterLoad _ _ => exact sound_execAdapterLoad
  | adapterUnload _ _ => exact sound_execAdapterUnload
  | seqOpen _ => exact sound_execSeqOpen
  | seqClose _ => exact sound_execSeqClose
  | prefixLookup _ => exact sound_execPrefixLookup
  | submit _ => exact sound_execSubmit
  | submitAbort _ => exact sound_execSubmitAbort
  | submitComplete _ => exact sound_execSubmitComplete
  | decodeStep _ => exact sound_execDecodeStep
  | solve _ => exact sound_execSolve
  | modeSetPower _ => exact sound_execModeSetPower
  | modeSetCalset _ => exact sound_execModeSetCalset
  | modeSetFeed _ => exact sound_execModeSetFeed
  | modeSetGroom _ => exact sound_execModeSetGroom
  | modeSetQuota _ => exact sound_execModeSetQuota
  | telemetryRead _ => exact sound_execTelemetryRead
  | telemetryReadClear _ => exact sound_execTelemetryReadClear
  | vetLoad _ => exact sound_execVetLoad
  | fwUpdateStore _ => exact sound_execFwUpdateStore
  | fwUpdateActivate _ => exact sound_execFwUpdateActivate
  | paddockJoin _ _ _ _ => exact sound_execPaddockJoin
  | paddockLeave _ _ => exact sound_execPaddockLeave
  | twinBind _ _ _ _ => exact sound_execTwinBind
  | twinUnbind _ => exact sound_execTwinUnbind
  | forwardedCommand _ _ _ _ _ => exact sound_execForwardedCommand
  | commandFetch _ _ _ _ _ => exact sound_execCommandFetch
  | doorbell _ _ _ => exact sound_execDoorbell
  | coalesceTimeout _ => exact sound_execCoalesceTimeout
  | mboxDoorbell _ _ _ _ => exact sound_execMboxDoorbell
  | hsGo _ => exact sound_execHsGo
  | bar2Read _ _ => exact sound_execBar2Read
  | bar2Write _ _ => exact sound_execBar2Write
  | bar2Resize _ => exact sound_execBar2Resize
  | registerWrite _ _ _ _ => exact sound_execRegisterWrite
  | senseReq _ _ => exact sound_execSenseReq
  | sensePeakClr _ => exact sound_execSensePeakClr
  | mgmtSettingWrite _ _ _ => exact sound_execMgmtSettingWrite
  | functionLevelReset _ => exact sound_execFunctionLevelReset
  | hotReset => exact sound_execHotReset
  | perstN _ => exact sound_execPerstN
  | codewordLock _ => exact sound_execCodewordLock
  | trainingExchange _ _ _ => exact sound_execTrainingExchange
  | trainingTimeout _ => exact sound_execTrainingTimeout
  | linkDown _ => exact sound_execLinkDown
  | linkUp _ => exact sound_execLinkUp
  | packetReceive _ _ => exact sound_execPacketReceive
  | replayRequest _ _ => exact sound_execReplayRequest
  | leadUnreachable => exact sound_execLeadUnreachable
  | leadTakeover => exact sound_execLeadTakeover
  | leadFenced => exact sound_execLeadFenced
  | twinCopyDone => exact sound_execTwinCopyDone
  | epochRequest => exact sound_execEpochRequest
  | epochPost _ _ => exact sound_execEpochPost
  | stallEpochReport _ => exact sound_execStallEpochReport
  | moduleEpochReport _ _ => exact sound_execModuleEpochReport
  | epochRetire _ _ => exact sound_execEpochRetire
  | epochSlow _ _ => exact sound_execEpochSlow
  | sampleCheck _ _ _ => exact sound_execSampleCheck
  | vetProbe _ _ _ _ _ => exact sound_execVetProbe
  | vetRun _ _ => exact sound_execVetRun
  | watchPeriod _ => exact sound_execWatchPeriod
  | derierMismatch _ _ => exact sound_execDerierMismatch
  | derierRestart _ => exact sound_execDerierRestart
  | heartbeat => exact sound_execHeartbeat
  | eventReport => exact sound_execEventReport
  | mgmtEventDrop => exact sound_execMgmtEventDrop
  | pushFragment _ _ _ => exact sound_execPushFragment
  | arpRequest _ => exact sound_execArpRequest
  | icmpEcho _ => exact sound_execIcmpEcho
  | senseScan => exact sound_execSenseScan
  | senseConversionStart => exact sound_execSenseConversionStart
  | senseConversionEnd _ => exact sound_execSenseConversionEnd
  | calSweep => exact sound_execCalSweep
  | senseWindowEnd _ => exact sound_execSenseWindowEnd
  | pllUnlock _ => exact sound_execPllUnlock
  | inputOutOfRange mv us => exact sound_execInputOutOfRange (hc mv us rfl)
  | resetNAssert _ => exact sound_execResetNAssert
  | resetNRelease => exact sound_execResetNRelease
  | powerUp _ => exact sound_execPowerUp
  | fetchFault _ _ => exact sound_execFetchFault
  | registerRead _ _ _ => exact sound_execRegisterRead
  | hostLinkRetrained => exact sound_execHostLinkRetrained
  | twinLost => exact sound_execTwinLost
  | joinLinkTimeout => exact sound_execJoinLinkTimeout

theorem beyondRatings_iff {mv us : Nat} :
    beyondRatings mv us = true ↔ 72000 < mv ∨ (65000 < mv ∧ 10000 < us) := by
  simp [beyondRatings]

theorem exec_beyondRatings {mv us : Nat} {s : State} (h : beyondRatings mv us = true) :
    exec (.inputOutOfRange mv us) s = .fault .outsideRatings := if_pos h

theorem sound_tick (s : State) : Sound s (tick s) := ⟨rfl, keeps_frame (.refl _)⟩

/-- A step keeps the invariants: the one rule that both statements come from. -/
theorem step_keeps {s t : State} (h : step s = .next t) : Keeps s.dev t.dev := by
  unfold step at h
  split at h
  · have hs := sound_tick s
    rw [h] at hs
    exact hs.2
  · next c rest _ =>
    by_cases hc : ∀ mv us, c = .inputOutOfRange mv us → beyondRatings mv us = false
    · have hs := sound_exec hc (s := { s with pending := rest })
      rw [h] at hs
      exact hs.2
    · push Not at hc
      obtain ⟨mv, us, rfl, hb⟩ := hc
      cases (exec_beyondRatings (Bool.eq_true_of_not_eq_false hb)).symm.trans h

/-- Settles O58, by `step_keeps`. -/
theorem stepsKeepMemoryCanonicalAndIdsNew : Obligations.StepsKeepMemoryCanonicalAndIdsNew :=
  fun _ _ hs h => (step_keeps h).canonical hs

/-- Settles O59, by `step_keeps`. -/
theorem stepsKeepTheLimiterInRange : Obligations.StepsKeepTheLimiterInRange :=
  fun _ _ hs h => (step_keeps h).limiter hs

/-! ### The queue, the fault, the front command -/

/-- Settles O57: `sound_exec` for the queue and for every command that does not fault, `exec_beyondRatings` for the one that
does. -/
theorem commandsKeepTheQueueAndOnlyRatingsFault : Obligations.CommandsKeepTheQueueAndOnlyRatingsFault := by
  have hsound (c : Instr) (s : State) : Sound s (exec c s) ∨
      ∃ mv us, c = .inputOutOfRange mv us ∧ beyondRatings mv us = true := by
    by_cases hc : ∀ mv us, c = .inputOutOfRange mv us → beyondRatings mv us = false
    · exact .inl (sound_exec hc)
    · push Not at hc
      obtain ⟨mv, us, hcmd, hb⟩ := hc
      exact .inr ⟨mv, us, hcmd, Bool.eq_true_of_not_eq_false hb⟩
  refine ⟨fun c s t h => ?_, fun c s f => ⟨fun h => ?_, ?_⟩, fun d => rfl⟩
  · rcases hsound c s with hs | ⟨mv, us, rfl, hb⟩
    · rw [h] at hs
      exact hs.1
    · cases (exec_beyondRatings hb).symm.trans h
  · rcases hsound c s with hs | ⟨mv, us, rfl, hb⟩
    · rw [h] at hs
      exact hs.elim
    · cases (exec_beyondRatings hb).symm.trans h
      exact ⟨rfl, mv, us, rfl, beyondRatings_iff.mp hb⟩
  · rintro ⟨rfl, mv, us, rfl, hr⟩
    exact exec_beyondRatings (beyondRatings_iff.mpr hr)

/-- Settles O56. -/
theorem stepRunsTheFrontCommand : Obligations.StepRunsTheFrontCommand := fun _ _ _ => rfl

end Sys2Proof.Machine
end


section
/-! The instructions that only change registers or the program counter (O1 to O6), and the state after reset (O60). -/

namespace Sys2Proof.Machine

open Sys2Proof

/-- A `goal` may be shown under a name: the term then holds it once, and not again for every hypothesis that is taken apart. -/
theorem under_name {goal : Prop} (proof : ∀ named : Prop, (goal → named) → named) : goal :=
  proof goal id

/-! ### The parts of the module that a frame keeps -/

theorem Reports.stalls {d e : Dev} (h : Reports d e) : e.stalls = d.stalls := h.machine.1

theorem Reports.banks {d e : Dev} (h : Reports d e) : e.banks = d.banks := h.machine.2.2.1

theorem Reports.mem {d e : Dev} (h : Reports d e) : e.mem = d.mem := h.machine.2.2.2.1

theorem Reports.ops {d e : Dev} (h : Reports d e) : e.ops = d.ops := h.machine.2.2.2.2.1

theorem Reports.attn {d e : Dev} (h : Reports d e) : e.attn = d.attn := h.machine.2.2.2.2.2.1

theorem SparesMachine.stalls {d e : Dev} (h : SparesMachine d e) : e.stalls = d.stalls := h.1

theorem SparesMachine.cribs {d e : Dev} (h : SparesMachine d e) : e.cribs = d.cribs := h.2.1

theorem SparesMachine.banks {d e : Dev} (h : SparesMachine d e) : e.banks = d.banks := h.2.2.1

theorem SparesMachine.mem {d e : Dev} (h : SparesMachine d e) : e.mem = d.mem := h.2.2.2.1

theorem SparesMachine.ops {d e : Dev} (h : SparesMachine d e) : e.ops = d.ops := h.2.2.2.2

/-- With no flag stored, no slot is full. -/
theorem flagOf_of_nil {x : Stall} (ht : x.tFlags = []) (hb : x.bFlags = []) (b n : Nat) : flagOf x b n = false := by
  unfold flagOf
  rw [ht, hb]
  exact ite_self _

/-- Settles O60: each value is read off the reset state. -/
theorem resetLeavesTheModuleBooting : Obligations.ResetLeavesTheModuleBooting := by
  refine ⟨rfl, ⟨⟨mwf_nil 0, mwf_nil 0⟩, mwf_nil 0, mwf_nil none, List.nodup_nil, fun _ h => absurd h List.not_mem_nil⟩,
    by decide, by decide, by decide, by decide, by decide, by decide, by decide, ?_, fun _ => rfl,
    fun _ h => absurd (show BankState.empty = .live from h) (by decide), rfl, rfl, rfl, rfl⟩
  exact fun st _ => ⟨rfl, rfl, fun _ => rfl, flagOf_of_nil rfl rfl⟩

/-! ### Instructions that only change their stall -/

/-- An instruction that only changes its stall, shown by what it makes of the stall. -/
theorem runs_pureOp {mk : Nat → Instr} {name : String} {op : Nat} {frm : Ins → Option Form} {f : Ins → Stall → Stall}
    {pre : Dev → Nat → Ins → Prop} {post : Dev → Nat → Ins → Dev → Prop}
    (hexec : ∀ st s, exec (mk st) s = issue name op frm st (pureOp f st) s)
    (hpost : ∀ d st i e, Issues d st op frm i → pre d st i → StallOnly st d e →
      stallOf e st = { f i (stallOf d st) with held := none, pc := (stallOf d st).pc + 1 } → post d st i e) :
    Runs mk op frm pre post := by
  intro s st i hi hp
  obtain ⟨t, ht, hpend, hother, hst⟩ := pureOp_runs (name := name) (f := f) hi
  exact ⟨t, (hexec st s).trans ht, hpend, hpost _ _ _ _ hi hp hother hst⟩

/-- A masked write of vector lanes and a moved program counter. -/
theorem writesVector_vSet {x y : Stall} {n : Nat} {mask : Nat → Bool} {g lane : Nat → W32}
    (hy : y = { vSet x n mask g with held := none, pc := x.pc + 1 })
    (hlane : ∀ k, k < 64 → lane k = if mask k then g k else vLane x n k) : WritesVector n lane x y := by
  subst hy
  refine ⟨rfl, fun m k hk => ?_⟩
  have h : vLane { vSet x n mask g with held := none, pc := x.pc + 1 } m k = vLane (vSet x n mask g) m k := rfl
  rw [h, vLane_vSet x n m k hk]
  by_cases hm : m = n
  · subst hm
    simp [hlane k hk]
  · simp [hm]

/-- A write of a scalar register and a moved program counter leave the other files as they are. -/
theorem moves_sSet {x y : Stall} {n pc : Nat} {v : W64} (hy : y = { sSet x n v with held := none, pc := pc }) :
    Moves pc (fun x y => { x with sreg := y.sreg }) x y := by
  subst hy
  rw [sSet_fields]
  rfl

/-- A write of one scalar register and a moved program counter. -/
theorem writesScalar_sSet {x y : Stall} {n : Nat} {v : W64} (hy : y = { sSet x n v with held := none, pc := x.pc + 1 }) :
    WritesScalar n v x y := by
  refine ⟨moves_sSet hy, fun m => ?_⟩
  subst hy
  have h : sGet { sSet x n v with held := none, pc := x.pc + 1 } m = sGet (sSet x n v) m := rfl
  rw [h, sGet_sSet]
  by_cases hm : m = n
  · by_cases hn : n = 0 <;> simp [hm, hn]
  · simp [hm]

/-- A write of one predicate register and a moved program counter. -/
theorem moves_pSet {x y : Stall} {n : Nat} {v : W64} (hy : y = { pSet x n v with held := none, pc := x.pc + 1 }) :
    Moves (x.pc + 1) (fun x y => { x with preg := y.preg }) x y ∧ ∀ m, pGet y m = if m = n then v else pGet x m := by
  subst hy
  exact ⟨rfl, fun m => pGet_pSet x n m v⟩

/-! ### Lanes (O1 to O3) -/

/-- A lane operation writes the lanes that its mask enables, FP64 elements by their even lane. -/
theorem lanesOf_lane3 {fi : W32 → W32 → W32 → W32} {fs fd : Nat → Nat → Nat → Nat} {f32 : Nat → W32} {f64 : Nat → Nat}
    {d e : Dev} {st : Nat} {i : Ins} (hother : StallOnly st d e)
    (hst : stallOf e st = { lane3 fi fs fd i (stallOf d st) with held := none, pc := (stallOf d st).pc + 1 })
    (h32 : insType i ≠ 2 → ∀ k, f32 k =
      if insType i = 0 then fi (vLane (stallOf d st) i.a k) (vLane (stallOf d st) i.b k) (vLane (stallOf d st) i.d k)
      else BitVec.ofNat 32 (fs (vLane (stallOf d st) i.a k).toNat (vLane (stallOf d st) i.b k).toNat
        (vLane (stallOf d st) i.d k).toNat))
    (h64 : insType i = 2 → ∀ k, f64 k =
      fd (vF64 (stallOf d st) i.a k) (vF64 (stallOf d st) i.b k) (vF64 (stallOf d st) i.d k)) :
    LanesOf st i f32 f64 d e := by
  refine ⟨hother, ?_⟩
  by_cases ht : insType i = 2
  · refine writesVector_vSet (hst.trans (by rw [lane3, if_pos ht]; rfl)) fun k _ => ?_
    simp only [laneOn, laneWord, ht, if_true, h64 ht]
  · refine writesVector_vSet (hst.trans (by rw [lane3, if_neg ht])) fun k _ => ?_
    simp only [laneOn, laneWord, ht, if_false, h32 ht]

/-- The checks of a form that issues. -/
theorem form_ok {ok : Bool} {fd fa fb : RegFile} {fm : Form} (h : form ok fd fa fb = some fm) : ok = true := by
  unfold form at h
  split at h
  · assumption
  · cases h

/-- A lane instruction that issues has one of the types of its form. -/
theorem insType_mem_of_laneOk {types : List Nat} {rounds m5 : Bool} {i : Ins} (h : laneOk types rounds m5 i = true) :
    insType i ∈ types := by
  simp only [laneOk, laneBits, Bool.and_eq_true] at h
  obtain ⟨⟨⟨⟨htype, -⟩, -⟩, -⟩, -⟩ := h
  exact List.contains_iff_mem.mp htype

theorem insType_of_vexp {d : Dev} {st op : Nat} {i : Ins} (h : Issues d st op formVexp i) : insType i = 1 := by
  obtain ⟨-, -, fm, hf, -⟩ := h
  have ht := insType_mem_of_laneOk (Bool.and_eq_true_iff.mp (form_ok hf)).1
  simpa using ht

theorem insType_of_vrsq {d : Dev} {st op : Nat} {i : Ins} (h : Issues d st op formVrsq i) :
    insType i = 1 ∨ insType i = 2 := by
  obtain ⟨-, -, fm, hf, -⟩ := h
  have ht := insType_mem_of_laneOk (Bool.and_eq_true_iff.mp (form_ok hf)).1
  simpa using ht

/-- A conversion between unlike types: VCVT from FP64 is to 32-bit lanes. -/
theorem insType_ne_source_of_vcvt {d : Dev} {st op : Nat} {i : Ins} (h : Issues d st op formVcvt i) :
    bitsOf i.imm 3 0 ≠ insType i := by
  obtain ⟨-, -, fm, hf, -⟩ := h
  have ht := form_ok hf
  simp only [Bool.and_eq_true] at ht
  obtain ⟨⟨-, hne⟩, -⟩ := ht
  exact bne_iff_ne.mp hne

/-- Settles O1: each is `lane3` with its operation. -/
theorem laneArithmeticWritesEnabledLanes : Obligations.LaneArithmeticWritesEnabledLanes :=
  ⟨runs_pureOp (fun _ _ => rfl) fun _ _ _ _ _ _ hother hst =>
      lanesOf_lane3 hother hst (fun _ _ => rfl) fun _ _ => rfl,
    runs_pureOp (fun _ _ => rfl) fun _ _ _ _ _ _ hother hst =>
      lanesOf_lane3 hother hst (fun _ _ => rfl) fun _ _ => rfl,
    runs_pureOp (fun _ _ => rfl) fun _ _ _ _ _ _ hother hst =>
      lanesOf_lane3 hother hst (fun _ _ => rfl) fun _ _ => rfl,
    runs_pureOp (fun _ _ => rfl) fun _ _ _ _ _ _ hother hst =>
      lanesOf_lane3 hother hst (fun _ _ => rfl) fun _ _ => rfl⟩

/-- VCVT to 64-bit elements, or between 32-bit lanes. -/
theorem lanesOf_vcvt {d e : Dev} {st half : Nat} {i : Ins} (hhalf : half = if bitAt i.imm 4 then 32 else 0)
    (hsrc : bitsOf i.imm 3 0 ≠ 2) (hother : StallOnly st d e)
    (hst : stallOf e st = { vcvtOp i (stallOf d st) with held := none, pc := (stallOf d st).pc + 1 }) :
    LanesOf st i
      (fun k => if insType i = 0 then cvtToI fp32 (insRz i) (vLane (stallOf d st) i.a k).toNat
        else BitVec.ofNat 32 (cvtFromI fp32 (insRz i) (vLane (stallOf d st) i.a k)))
      (fun e => if bitsOf i.imm 3 0 = 0 then cvtFromI fp64 (insRz i) (vLane (stallOf d st) i.a (half + e))
        else fround fp64 (insRz i) false (fdecode fp32 (vLane (stallOf d st) i.a (half + e)).toNat)) d e := by
  subst hhalf
  refine ⟨hother, ?_⟩
  by_cases ht : insType i = 2
  · refine writesVector_vSet (hst.trans (by rw [vcvtOp, if_pos ht]; rfl)) fun k _ => ?_
    simp only [laneOn, laneWord, ht, if_true]
  · refine writesVector_vSet (hst.trans (by rw [vcvtOp, if_neg ht, if_neg hsrc])) fun k _ => ?_
    simp only [laneOn, laneWord, ht, if_false]

/-- Settles O2. -/
theorem laneFunctionsWriteEnabledLanes : Obligations.LaneFunctionsWriteEnabledLanes := by
  refine ⟨runs_pureOp (fun _ _ => rfl) fun d st i e hi _ hother hst => ?_,
    runs_pureOp (fun _ _ => rfl) fun d st i e hi _ hother hst => ?_,
    fun half => runs_pureOp (fun _ _ => rfl) fun d st i e _ hp hother hst => lanesOf_vcvt hp.1 hp.2 hother hst,
    fun half => runs_pureOp (fun _ _ => rfl) fun d st i e hi hp hother hst => ⟨hother, ?_⟩⟩
  · have ht := insType_of_vexp hi
    exact lanesOf_lane3 hother hst (fun _ k => by simp [ht]) (by simp [ht])
  · refine lanesOf_lane3 hother hst (fun h2 k => ?_) fun _ k => rfl
    have ht : insType i = 1 := (insType_of_vrsq hi).resolve_right h2
    simp [ht]
  · obtain ⟨rfl, hsrc⟩ := hp
    have ht : insType i ≠ 2 := hsrc ▸ (insType_ne_source_of_vcvt hi).symm
    refine writesVector_vSet (hst.trans (by rw [vcvtOp, if_neg ht, if_pos hsrc])) fun k _ => ?_
    simp only [Bool.and_eq_true, decide_eq_true_eq]

/-- A bit of the word of 64 bits. -/
theorem getLsbD_wordOfBits (bit : Nat → Bool) {k : Nat} (hk : k < 64) : (wordOfBits bit).getLsbD k = bit k := by
  have hsum : ∀ n, (((List.range n).map fun k => if bit k then 2 ^ k else 0).sum < 2 ^ n) ∧
      ∀ j, j < n → (((List.range n).map fun k => if bit k then 2 ^ k else 0).sum).testBit j = bit j := by
    intro n
    induction n with
    | zero => exact ⟨by simp, fun j hj => absurd hj (Nat.not_lt_zero j)⟩
    | succ n ih =>
      obtain ⟨hlt, hbit⟩ := ih
      simp only [List.range_succ, List.map_append, List.map_cons, List.map_nil, List.sum_append, List.sum_cons, List.sum_nil,
        Nat.add_zero]
      generalize ((List.range n).map fun k => if bit k then 2 ^ k else 0).sum = v at hlt hbit
      by_cases hb : bit n = true
      · rw [if_pos hb]
        refine ⟨by rw [Nat.pow_succ]; omega, fun j hj => ?_⟩
        rw [Nat.add_comm]
        rcases Nat.lt_succ_iff_lt_or_eq.mp hj with hj | rfl
        · rw [Nat.testBit_two_pow_add_gt hj, hbit j hj]
        · rw [Nat.testBit_two_pow_add_eq, Nat.testBit_lt_two_pow hlt, hb]
          rfl
      · rw [if_neg hb, Nat.add_zero]
        refine ⟨hlt.trans (Nat.pow_lt_pow_right (by decide) (Nat.lt_succ_self n)), fun j hj => ?_⟩
        rcases Nat.lt_succ_iff_lt_or_eq.mp hj with hj | rfl
        · exact hbit j hj
        · rw [Nat.testBit_lt_two_pow hlt, Bool.eq_false_of_not_eq_true hb]
  rw [wordOfBits, BitVec.getLsbD_ofNat, decide_eq_true hk, Bool.true_and]
  exact (hsum 64).2 k hk

/-- Settles O3. -/
theorem selectReduceCompare : Obligations.SelectReduceCompare := by
  refine ⟨runs_pureOp (fun _ _ => rfl) fun d st i e _ _ hother hst => ⟨hother, writesVector_vSet hst fun k _ => by simp⟩,
    runs_pureOp (fun _ _ => rfl) fun d st i e _ _ hother hst => ⟨hother, writesScalar_sSet hst⟩,
    runs_pureOp (fun _ _ => rfl) fun d st i e _ _ hother hst => ?_⟩
  obtain ⟨hmoves, hread⟩ := moves_pSet hst
  refine ⟨hother, hmoves, fun m hm => (hread m).trans (if_neg hm), fun k hk => ?_⟩
  rw [hread, if_pos rfl, getLsbD_wordOfBits _ hk]
  rfl

/-! ### MOV (O4) -/

theorem movArith_shiftLeft (a x : W64) : movArith 5 a x = BitVec.ofNat 64 (a.toNat * 2 ^ (x.toNat % 64)) := by
  show a <<< (x.toNat % 64) = _
  refine BitVec.eq_of_toNat_eq ?_
  rw [BitVec.toNat_shiftLeft, Nat.shiftLeft_eq, BitVec.toNat_ofNat]

theorem movArith_shiftRight (a x : W64) : movArith 6 a x = BitVec.ofNat 64 (a.toNat / 2 ^ (x.toNat % 64)) := by
  show a >>> (x.toNat % 64) = _
  refine BitVec.eq_of_toNat_eq ?_
  rw [BitVec.toNat_ushiftRight, Nat.shiftRight_eq_div_pow, BitVec.toNat_ofNat,
    Nat.mod_eq_of_lt ((Nat.div_le_self ..).trans_lt a.isLt)]

theorem movArith_arithmeticShift (a x : W64) : movArith 7 a x = BitVec.ofInt 64 (a.toInt / 2 ^ (x.toNat % 64)) := by
  show a.sshiftRight (x.toNat % 64) = _
  rw [BitVec.sshiftRight, Int.shiftRight_eq_div_pow]
  norm_cast

/-- Operations above 10 compare for equality. -/
theorem movArith_equal (n : Nat) (a x : W64) : movArith (n + 11) a x = if a = x then 1 else 0 := by
  unfold movArith
  simp

/-- The stall after a MOV between register files: the registers of one file, and the program counter. -/
theorem movOp_arith {i : Ins} (h : bitsOf i.mod 5 4 = 0) (x : Stall) :
    movOp i x = sSet x i.d (movArith (bitsOf i.mod 3 0) (sGet x i.a) (sGet x i.b + sextImm i 32)) := by
  unfold movOp
  rw [if_pos h]

/-- A MOV of a lane names one of the 64 (R167). -/
theorem lane_of_mov {d : Dev} {st op : Nat} {i : Ins} (h : Issues d st op formMov i)
    (hform : bitsOf i.mod 5 4 = 1 ∨ bitsOf i.mod 5 4 = 2) (hop : bitsOf i.mod 3 0 = 3) : i.imm < 64 := by
  obtain ⟨-, -, fm, hf, -⟩ := h
  rcases hform with h1 | h2
  · simp only [formMov, h1, hop] at hf
    exact of_decide_eq_true (form_ok hf)
  · simp only [formMov, h2, hop] at hf
    exact of_decide_eq_true (form_ok hf)

/-- The forms to another register file, by operation. -/
theorem movOp_toFile {i : Ins} (h : bitsOf i.mod 5 4 = 1) (x : Stall) :
    movOp i x = (match bitsOf i.mod 3 0 with
      | 0 => aSet x i.d (sGet x i.a + (sGet x i.b + sextImm i 32))
      | 1 => pSet x i.d (sGet x i.a)
      | 2 => cSet x i.d (BitVec.ofNat 32 (sGet x i.a).toNat)
      | 3 => vLaneSet x i.d (i.imm % 64) (BitVec.ofNat 32 (sGet x i.a).toNat)
      | _ => vSet x i.d (fun _ => true) fun _ => BitVec.ofNat 32 (sGet x i.a).toNat) := by
  unfold movOp
  simp only [h]
  match bitsOf i.mod 3 0 with
  | 0 | 1 | 2 | 3 => rfl
  | n + 4 => rfl

/-- The forms from another register file, by operation. -/
theorem movOp_fromFile {i : Ins} (h : bitsOf i.mod 5 4 = 2) (x : Stall) :
    movOp i x = sSet x i.d (match bitsOf i.mod 3 0 with
      | 0 => aGet x i.a
      | 1 => pGet x i.a
      | 2 => BitVec.ofNat 64 (cGet x i.a).toNat
      | _ => BitVec.ofNat 64 (vLane x i.a (i.imm % 64)).toNat) := by
  unfold movOp
  simp only [h]
  match bitsOf i.mod 3 0 with
  | 0 | 1 | 2 => rfl
  | n + 3 => rfl

/-- One lane of a vector register written. -/
theorem writesVector_vLaneSet {x y : Stall} {n k : Nat} {v : W32} (hk : k < 64)
    (hy : y = { vLaneSet x n k v with held := none, pc := x.pc + 1 }) :
    WritesVector n (fun j => if j = k then v else vLane x n j) x y := by
  subst hy
  refine ⟨rfl, fun m j hj => ?_⟩
  have h : vLane { vLaneSet x n k v with held := none, pc := x.pc + 1 } m j =
      if 64 * m + j = 64 * n + k then v else vLane x m j := mget_mput ..
  rw [h]
  by_cases hm : m = n
  · subst hm
    simp
  · rw [if_neg (by omega), if_neg hm]

/-- Settles O4: the three forms, each by its operation. -/
theorem movWritesItsDestination : Obligations.MovWritesItsDestination := by
  refine ⟨fun v => runs_pureOp (fun _ _ => rfl) fun d st i e _ hp hother hst => ?_,
    runs_pureOp (fun _ _ => rfl) fun d st i e hi hp hother hst => ?_,
    runs_pureOp (fun _ _ => rfl) fun d st i e hi hp hother hst => ?_⟩
  · obtain ⟨hform, hv⟩ := hp
    have harith (a x : W64) : movArith (bitsOf i.mod 3 0) a x = v a x := by
      rw [hv]
      match bitsOf i.mod 3 0 with
      | 0 | 1 | 2 | 3 | 4 | 8 | 9 | 10 => rfl
      | 5 => exact movArith_shiftLeft a x
      | 6 => exact movArith_shiftRight a x
      | 7 => exact movArith_arithmeticShift a x
      | n + 11 => exact movArith_equal n a x
    rw [movOp_arith hform, harith] at hst
    exact ⟨hother, writesScalar_sSet hst⟩
  · rw [movOp_toFile hp] at hst
    refine ⟨hother, fun ho => ?_, fun ho => ?_, fun ho => ?_, fun ho => ?_, fun ho => ?_⟩
    all_goals rw [ho] at hst
    · rw [hst]
      exact ⟨rfl, fun m => aGet_aSet ..⟩
    · exact moves_pSet hst
    · rw [hst]
      exact ⟨rfl, fun m => cGet_cSet ..⟩
    · have hlane := lane_of_mov hi (.inl hp) ho
      dsimp only at hst
      rw [Nat.mod_eq_of_lt hlane] at hst
      exact writesVector_vLaneSet hlane hst
    · exact writesVector_vSet hst fun k _ => (if_pos rfl).symm
  · rw [movOp_fromFile hp] at hst
    refine ⟨hother, fun ho => ?_, fun ho => ?_, fun ho => ?_, fun ho => ?_⟩
    all_goals
      rw [ho] at hst
      have h := writesScalar_sSet hst
    · exact h
    · exact h
    · rwa [← BitVec.ofNat_toNat]
    · rwa [← BitVec.ofNat_toNat, ← Nat.mod_eq_of_lt (lane_of_mov hi (.inr hp) ho)]

/-! ### Control (O5, O6) -/

/-- An instruction shown by the device that its issue leaves. -/
theorem runs_issue {mk : Nat → Instr} {name : String} {op : Nat} {frm : Ins → Option Form}
    {f : Nat → Ins → Stall → Dev → Issue} {pre : Dev → Nat → Ins → Prop} {post : Dev → Nat → Ins → Dev → Prop}
    (hexec : ∀ st s, exec (mk st) s = issue name op frm st (f st) s)
    (hpost : ∀ d st i r, Issues d st op frm i → pre d st i → f st i (stallOf d st) (fetchTouch d st) = r →
      let e := issued (fetchTouch d st) st (stallOf d st).pc r
      post d st i { e with draws := e.draws + 1 }) :
    Runs mk op frm pre post :=
  fun s st _ hi hp => ⟨_, (hexec st s).trans (issue_runs hi), rfl, hpost _ _ _ _ hi hp rfl⟩

/-- What an issue that moves on without a change of its stall leaves. -/
theorem issued_go_same (d : Dev) (st pc : Nat) (nx : Option Nat) :
    let r := issued (fetchTouch d st) st pc (.go (fetchTouch d st) nx)
    let e := { r with draws := r.draws + 1 }
    StallOnly st d e ∧ stallOf e st = { stallOf d st with held := none, pc := nx.getD (pc + 1) } := by
  refine ⟨?_, ?_⟩
  · have h := stallOnly_modStall d st fun x => { x with held := none, pc := nx.getD (pc + 1) }
    rwa [← fetchTouch_draws d st] at h
  · show stallOf (advance (fetchTouch d st) st _) st = _
    simp [advance]

/-- What an issue that changes its stall and moves on leaves. -/
theorem issued_go_modStall (d : Dev) (st pc : Nat) (nx : Option Nat) (g : Stall → Stall) :
    let r := issued (fetchTouch d st) st pc (.go (modStall (fetchTouch d st) st g) nx)
    let e := { r with draws := r.draws + 1 }
    StallOnly st d e ∧ stallOf e st = { g (stallOf d st) with held := none, pc := nx.getD (pc + 1) } := by
  refine ⟨⟨?_, fun k hk => ?_, fun o ho => fetchTouch_ctrOf _ _ ho⟩, ?_⟩
  · simp only [issued, advance, modStall, setStall]
    rw [fetchTouch_eq]
  · show stallOf (advance (modStall (fetchTouch d st) st g) st _) k = _
    rw [advance, stallOf_modStall_ne _ _ hk, stallOf_modStall_ne _ _ hk, fetchTouch_stallOf]
  · show stallOf (advance (modStall (fetchTouch d st) st g) st _) st = _
    simp [advance]

/-- An instruction that moves on without a change of its stall, to the place `nx`. -/
theorem runs_goSame {mk : Nat → Instr} {name : String} {op : Nat} {frm : Ins → Option Form}
    {f : Nat → Ins → Stall → Dev → Issue} {pre : Dev → Nat → Ins → Prop} {post : Dev → Nat → Ins → Dev → Prop}
    {nx : Ins → Stall → Option Nat} (hexec : ∀ st s, exec (mk st) s = issue name op frm st (f st) s)
    (hgo : ∀ d st i, Issues d st op frm i → pre d st i →
      f st i (stallOf d st) (fetchTouch d st) = .go (fetchTouch d st) (nx i (stallOf d st)))
    (hpost : ∀ d st i e, pre d st i → StallOnly st d e → stallOf e st =
        { stallOf d st with held := none, pc := (nx i (stallOf d st)).getD ((stallOf d st).pc + 1) } → post d st i e) :
    Runs mk op frm pre post := by
  refine runs_issue hexec fun d st i r hi hp hr => ?_
  subst hr
  rw [hgo d st i hi hp]
  obtain ⟨hother, hst⟩ := issued_go_same d st (stallOf d st).pc (nx i (stallOf d st))
  exact hpost _ _ _ _ hp hother hst

/-- An instruction that changes its stall by `g` and moves on to the place `nx`. -/
theorem runs_go {mk : Nat → Instr} {name : String} {op : Nat} {frm : Ins → Option Form}
    {f : Nat → Ins → Stall → Dev → Issue} {pre : Dev → Nat → Ins → Prop} {post : Dev → Nat → Ins → Dev → Prop}
    {nx : Ins → Stall → Option Nat} {g : Ins → Stall → Stall → Stall}
    (hexec : ∀ st s, exec (mk st) s = issue name op frm st (f st) s)
    (hgo : ∀ d st i, Issues d st op frm i → pre d st i → f st i (stallOf d st) (fetchTouch d st) =
      .go (modStall (fetchTouch d st) st (g i (stallOf d st))) (nx i (stallOf d st)))
    (hpost : ∀ d st i e, pre d st i → StallOnly st d e → stallOf e st =
        { g i (stallOf d st) (stallOf d st) with
          held := none, pc := (nx i (stallOf d st)).getD ((stallOf d st).pc + 1) } → post d st i e) :
    Runs mk op frm pre post := by
  refine runs_issue hexec fun d st i r hi hp hr => ?_
  subst hr
  rw [hgo d st i hi hp]
  obtain ⟨hother, hst⟩ := issued_go_modStall d st (stallOf d st).pc (nx i (stallOf d st)) (g i (stallOf d st))
  exact hpost _ _ _ _ hp hother hst

/-- An instruction that stops its routine. -/
theorem runs_fault {mk : Nat → Instr} {name : String} {op : Nat} {frm : Ins → Option Form}
    {f : Nat → Ins → Stall → Dev → Issue} {pre : Dev → Nat → Ins → Prop} {code : Nat} {detail : Dev → Nat → Ins → Nat}
    (hexec : ∀ st s, exec (mk st) s = issue name op frm st (f st) s)
    (hfault : ∀ d st i, Issues d st op frm i → pre d st i →
      f st i (stallOf d st) (fetchTouch d st) = .fault code (detail d st i)) :
    Runs mk op frm pre (fun d st i => StopsAt st code (detail d st i) d) := by
  refine runs_issue hexec fun d st i r hi hp hr => ?_
  subst hr
  rw [hfault d st i hi hp]
  have h := stopsAt_stopStall d st code (detail d st i)
  rwa [← fetchTouch_draws d st] at h

/-- An instruction that waits. -/
theorem runs_wait {mk : Nat → Instr} {name : String} {op : Nat} {frm : Ins → Option Form}
    {f : Nat → Ins → Stall → Dev → Issue} {pre : Dev → Nat → Ins → Prop} {w : Wait}
    (hexec : ∀ st s, exec (mk st) s = issue name op frm st (f st) s)
    (hwait : ∀ d st i, Issues d st op frm i → pre d st i → f st i (stallOf d st) (fetchTouch d st) = .wait w) :
    Runs mk op frm pre (fun d st _ => HeldOn st w d) := by
  refine runs_issue hexec fun d st i r hi hp hr => ?_
  subst hr
  rw [hwait d st i hi hp]
  have h := heldOn_holdOn d st w
  rwa [← fetchTouch_draws d st] at h

/-- The model's branch target is the place that the statements name. -/
theorem branchTo_eq (i : Ins) (x : Stall) : branchTo i x = branchPlace x i := by
  unfold branchTo branchPlace sextImm signedOf
  rw [BitVec.toNat_add, BitVec.toNat_ofNat, BitVec.toNat_ofInt]
  generalize (BitVec.ofNat 32 i.imm).toInt = z
  push_cast
  omega

/-- The condition of BC, by its number. -/
theorem bcHolds_eq_true_iff (i : Ins) (x : Stall) :
    bcHolds i x = true ↔ (match bitsOf i.mod 2 0 with
      | 0 => sGet x i.a = sGet x i.b
      | 1 => sGet x i.a ≠ sGet x i.b
      | 2 => (sGet x i.a).toInt < (sGet x i.b).toInt
      | 3 => (sGet x i.b).toInt ≤ (sGet x i.a).toInt
      | 4 => (sGet x i.a).toNat < (sGet x i.b).toNat
      | 5 => (sGet x i.b).toNat ≤ (sGet x i.a).toNat
      | 6 => pGet x i.a ≠ 0
      | _ => pGet x i.a = 0) := by
  unfold bcHolds
  match bitsOf i.mod 2 0 with
  | 0 | 1 | 2 | 3 | 4 | 5 | 6 => simp
  | n + 7 => simp

/-- LOOP: the register that reads zero after the count ends the loop. -/
theorem loop_ends_iff (i : Ins) (x : Stall) :
    sGet (sSet x i.d (sGet x i.d - 1)) i.d = 0 ↔ i.d = 0 ∨ sGet x i.d = 1 := by
  rw [sGet_sSet, if_pos rfl]
  by_cases h : i.d = 0
  · simp [h]
  · rw [if_neg h, sub_eq_zero]
    simp [h]

/-- Settles O5. -/
theorem branchesMoveThePc : Obligations.BranchesMoveThePc := by
  refine ⟨runs_goSame (nx := fun i x => some (branchTo i x)) (fun _ _ => rfl) (fun _ _ _ _ _ => rfl)
      fun d st i e _ hother hst => ⟨hother, ?_⟩,
    fun taken => runs_goSame (nx := fun i x => if bcHolds i x then some (branchTo i x) else none) (fun _ _ => rfl)
      (fun _ _ _ _ _ => rfl) fun d st i e hp hother hst => ⟨hother, ?_⟩,
    runs_go (g := fun i x z => sSet z i.d (sGet x i.d - 1))
      (nx := fun i x => if sGet (sSet x i.d (sGet x i.d - 1)) i.d ≠ 0 then some (branchTo i x) else none)
      (fun _ _ => rfl) (fun _ _ _ _ _ => rfl) fun d st i e _ hother hst => ⟨hother, ?_, fun m => ?_⟩⟩
  · rw [← branchTo_eq]
    exact hst
  · have htaken : bcHolds i (stallOf d st) = taken := Bool.eq_iff_iff.mpr ((bcHolds_eq_true_iff ..).trans hp.symm)
    rw [← branchTo_eq, ← htaken]
    refine hst.trans ?_
    split <;> rfl
  · rw [← branchTo_eq]
    refine moves_sSet (n := i.d) (v := sGet (stallOf d st) i.d - 1) (hst.trans ?_)
    by_cases h : i.d = 0 ∨ sGet (stallOf d st) i.d = 1
    · rw [if_pos h, if_neg (not_not.mpr ((loop_ends_iff ..).mpr h))]
      rfl
    · rw [if_neg h, if_pos (mt (loop_ends_iff ..).mp h)]
      rfl
  · rw [hst]
    refine (sGet_sSet (stallOf d st) i.d m _).trans ?_
    by_cases hm : m = i.d
    · subst hm
      by_cases h0 : i.d = 0 <;> simp [h0]
    · simp [hm]

/-- A command whose function answers with a device. -/
theorem answers_onDev {c : Instr} {name : String} {f : Dev → Option Dev} {pre : Dev → Prop} {post : Dev → Dev → Prop}
    (hexec : ∀ s, exec c s = onDev name f s)
    (h : ∀ d, pre d → ∃ e, f d = some e ∧ post d { e with draws := e.draws + 1 }) : Answers c pre post := by
  intro s hp
  obtain ⟨e, he, hpost⟩ := h s.dev hp
  refine ⟨{ s with dev := { e with draws := e.draws + 1 } }, ?_, rfl, hpost⟩
  rw [hexec, onDev, he]

/-- A command on one stall that may start a routine there. -/
theorem stallOf_startRoutine (d : Dev) (c : Cmd) (st : Nat) : (stallOf (startRoutine d c st) st).rstack = [] := by
  simp only [startRoutine, stallOf_modStall_self]

/-- Settles O6. -/
theorem returnStackHoldsSixteen : Obligations.ReturnStackHoldsSixteen := by
  refine ⟨runs_go (g := fun _ x y => { y with rstack := (x.pc + 1) :: y.rstack }) (nx := fun i x => some (branchTo i x))
      (fun _ _ => rfl) (fun d st i _ hp => if_neg (Nat.not_le.mpr hp)) fun d st i e _ hother hst => ⟨hother, ?_⟩,
    runs_fault (fun _ _ => rfl) fun d st i _ hp => if_pos hp,
    fun r rs => runs_go (g := fun _ _ y => { y with rstack := rs }) (nx := fun _ _ => some r) (fun _ _ => rfl)
      (fun d st i _ hp => by rw [retIssue, hp]) fun d st i e _ hother hst => ⟨hother, hst⟩,
    runs_fault (fun _ _ => rfl) fun d st i _ hp => by rw [retIssue, hp], ?_⟩
  · rw [← branchTo_eq]
    exact hst
  · refine fun cid st c => answers_onDev (fun s => show execRoutineStart cid st s = _ from rfl) fun d ⟨hc, hm⟩ => ?_
    refine ⟨startRoutine d c st, ?_, stallOf_startRoutine d c st⟩
    simp only [hc, hm, if_true]

end Sys2Proof.Machine
end


section
/-! The instructions that read and write the buffers of their stall (O7 to O10). -/

namespace Sys2Proof.Machine

open Sys2Proof

/-! ### What a read of a buffer leaves -/

/-- A read of a buffer of stall st (R226, R231): it counts and reports, and of the stalls only st records what it found. -/
def ReadsOf (st : Nat) (d e : Dev) : Prop :=
  ReportsOfStalls d e ∧ (∀ k, k ≠ st → stallOf e k = stallOf d k) ∧
    ∃ z, stallOf e st = readFound (stallOf d st) z

theorem ReadsOf.refl (st : Nat) (d : Dev) : ReadsOf st d d := ⟨rfl, fun _ _ => rfl, stallOf d st, rfl⟩

theorem ReadsOf.trans {st : Nat} {d e f : Dev} (h : ReadsOf st d e) (g : ReadsOf st e f) : ReadsOf st d f := by
  obtain ⟨h1, h2, y, hy⟩ := h
  obtain ⟨g1, g2, z, hz⟩ := g
  exact ⟨h1.trans g1, fun k hk => (g2 k hk).trans (h2 k hk), z, by rw [hz, hy]; rfl⟩

theorem Reports.readsOf {d e : Dev} (h : Reports d e) (st : Nat) : ReadsOf st d e := by
  exact ⟨h.ofStalls, fun k _ => stallOf_congr h.stalls k, stallOf d st, by rw [stallOf_congr h.stalls]; rfl⟩

theorem readsOf_foldl {α : Type} {st : Nat} {f : Dev → α → Dev} (hf : ∀ d a, ReadsOf st d (f d a)) :
    ∀ (l : List α) (d : Dev), ReadsOf st d (l.foldl f d)
  | [], d => .refl st d
  | a :: l, d => (hf d a).trans (readsOf_foldl hf l (f d a))

/-- A change of stall st that a read may make. -/
theorem readsOf_modStall {d : Dev} {st : Nat} {f : Stall → Stall} (hf : ∃ z, f (stallOf d st) = readFound (stallOf d st) z) :
    ReadsOf st d (modStall d st f) := by
  refine ⟨rfl, fun k hk => stallOf_modStall_ne _ _ hk, ?_⟩
  rwa [stallOf_modStall_self]

theorem readsOf_bufUe (d : Dev) (st buf off : Nat) : ReadsOf st d (bufUe st buf d off) := by
  refine ReadsOf.trans (ReadsOf.trans (e := bump d (stallReg st 0x70)) ⟨rfl, fun _ _ => rfl, stallOf d st, rfl⟩
    (readsOf_modStall ⟨?_, ?_⟩)) ((reports_raiseEvent ..).readsOf st)
  · exact { stallOf d st with ueOff := BitVec.ofNat 18 off, ueBuf := BitVec.ofNat 2 buf, ueValid := true }
  · rfl

/-- A new remap entry of one of the three buffers. -/
theorem setEntries_readFound (x : Stall) {buf : Nat} (hbuf : buf < 3) (l : List (Nat × Nat × Bool)) :
    ∃ z, setEntries x buf l = readFound x z := by
  match buf, hbuf with
  | 0, _ => exact ⟨{ x with trough := { x.trough with remap := l } }, rfl⟩
  | 1, _ => exact ⟨{ x with bin := { x.bin with remap := l } }, rfl⟩
  | 2, _ => exact ⟨{ x with manger := { x.manger with remap := l } }, rfl⟩

theorem readsOf_sramFailing (d : Dev) (st line : Nat) {buf : Nat} (hbuf : buf < 3) (holds : Bool) :
    ReadsOf st d (sramFailing d st buf line holds) := by
  unfold sramFailing
  dsimp only
  split
  · exact .refl st d
  · split
    · exact readsOf_modStall (setEntries_readFound _ hbuf _)
    · exact (reports_raiseEvent ..).readsOf st

/-- What a read of a range of a buffer leaves. -/
theorem readsOf_sramTouch (d : Dev) (st off n : Nat) {buf : Nat} (hbuf : buf < 3) :
    ReadsOf st d (sramTouch d st buf off n) := by
  unfold sramTouch
  dsimp only
  refine ReadsOf.trans ?_ (readsOf_foldl (fun _ l => readsOf_sramFailing _ st l hbuf false) _ _)
  refine ReadsOf.trans ?_ (readsOf_foldl (fun _ o => readsOf_bufUe ..) _ _)
  split
  · exact .refl st d
  · exact ⟨rfl, fun _ _ => rfl, stallOf d st, rfl⟩

/-- What an issue leaves that reads a buffer, changes its stall and moves on. -/
theorem issued_go_read {d e : Dev} {st pc : Nat} {g : Stall → Stall} (h : ReadsOf st (fetchTouch d st) e) :
    let r := issued (fetchTouch d st) st pc (.go (modStall e st g) none)
    let t := { r with draws := r.draws + 1 }
    StallReads st d t ∧ ∃ z, stallOf t st = { g (readFound (stallOf d st) z) with held := none, pc := pc + 1 } := by
  obtain ⟨hframe, hother, z, hz⟩ := h
  rw [fetchTouch_stallOf] at hz
  refine ⟨⟨?_, fun k hk => ?_⟩, z, ?_⟩
  · simp only [issued, advance, modStall, setStall]
    unfold ReportsOfStalls at hframe
    rw [hframe, fetchTouch_eq]
  · show stallOf (advance (modStall e st g) st _) k = _
    rw [advance, stallOf_modStall_ne _ _ hk, stallOf_modStall_ne _ _ hk, hother k hk, fetchTouch_stallOf]
  · show stallOf (advance (modStall e st g) st _) st = _
    simp only [advance, stallOf_modStall_self, Option.getD_none, hz]

/-! ### Local ranges -/

@[simp] theorem blocked_fetchTouch (d : Dev) (st k buf off len : Nat) :
    blocked (fetchTouch d st) k buf off len = blocked d k buf off len := by
  rw [fetchTouch_eq]
  rfl

@[simp] theorem sramRead_fetchTouch (d : Dev) (st k buf off n : Nat) :
    sramRead (fetchTouch d st) k buf off n = sramRead d k buf off n := by
  rw [fetchTouch_eq]
  rfl

/-- A local range lies in the trough, the bin or the manger. -/
theorem buf_lt_of_localRange {addr : W64} {len buf off : Nat} (h : localRange addr len = some (buf, off)) : buf < 3 := by
  unfold localRange at h
  dsimp only at h
  split at h
  · next hc =>
    cases h
    have : bitsOf addr.toNat 19 18 < 2 ^ (19 + 1 - 18) := Nat.mod_lt _ (by decide)
    omega
  · cases h

/-- An access to a range that may be accessed goes on. -/
theorem withLocal_ok {d : Dev} {st : Nat} {addr : W64} {len align buf off : Nat} (h : LocalOk d st addr len align buf off)
    (k : Nat → Nat → Issue) : withLocal (fetchTouch d st) st addr len align k = k buf off := by
  obtain ⟨hrange, halign, hfree⟩ := h
  unfold withLocal
  simp [hrange, halign, hfree]

theorem withLocal_range {d : Dev} {st : Nat} {addr : W64} {len : Nat} (h : localRange addr len = none) (align : Nat)
    (k : Nat → Nat → Issue) : withLocal d st addr len align k = .fault 0x04 (addr.toNat % 2 ^ 32) := by
  unfold withLocal
  rw [h]

theorem withLocal_align {d : Dev} {st : Nat} {addr : W64} {len align : Nat} (h : localRange addr len ≠ none)
    (halign : addr.toNat % align ≠ 0) (k : Nat → Nat → Issue) :
    withLocal d st addr len align k = .fault 0x05 (addr.toNat % 2 ^ 32) := by
  unfold withLocal
  obtain ⟨p, hp⟩ := Option.ne_none_iff_exists'.mp h
  rw [hp]
  exact if_pos halign

/-- An instruction that reads a buffer of its stall and then changes the stall by `g`. -/
theorem runs_read {mk : Nat → Instr} {name : String} {op : Nat} {frm : Ins → Option Form}
    {f : Nat → Ins → Stall → Dev → Issue} {pre : Dev → Nat → Ins → Prop} {post : Dev → Nat → Ins → Dev → Prop}
    {g : Dev → Nat → Ins → Stall → Stall} (hexec : ∀ st s, exec (mk st) s = issue name op frm st (f st) s)
    (hgo : ∀ d st i, Issues d st op frm i → pre d st i → ∃ e, ReadsOf st (fetchTouch d st) e ∧
      f st i (stallOf d st) (fetchTouch d st) = .go (modStall e st (g d st i)) none)
    (hpost : ∀ d st i e z, pre d st i → StallReads st d e → stallOf e st =
        { g d st i (readFound (stallOf d st) z) with held := none, pc := (stallOf d st).pc + 1 } → post d st i e) :
    Runs mk op frm pre post := by
  refine runs_issue hexec fun d st i r hi hp hr => ?_
  subst hr
  obtain ⟨e, hreads, he⟩ := hgo d st i hi hp
  rw [he]
  obtain ⟨hother, z, hst⟩ := issued_go_read (pc := (stallOf d st).pc) (g := g d st i) hreads
  exact hpost _ _ _ _ z hp hother hst

/-! ### Loads (O7) -/

/-- Settles O7. -/
theorem loadsReadLocalMemory : Obligations.LoadsReadLocalMemory := by
  intro buf off
  refine ⟨runs_read (g := fun d st i y => sSet y i.d (ldValue i (sramRead d st buf off (ldWidth i)))) (fun _ _ => rfl)
      (fun d st i _ hp => ⟨sramTouch (fetchTouch d st) st buf off (ldWidth i),
        readsOf_sramTouch _ _ _ _ (buf_lt_of_localRange hp.1), ?_⟩) fun d st i e z _ hother hst => ⟨hother, ?_, fun m => ?_⟩,
    runs_read (g := fun d st i => vldOp i (sramRead d st buf off (vecBytes (insType i)))) (fun _ _ => rfl)
      (fun d st i _ hp => ⟨sramTouch (fetchTouch d st) st buf off (vecBytes (insType i)),
        readsOf_sramTouch _ _ _ _ (buf_lt_of_localRange hp.1), ?_⟩)
      fun d st i e z _ hother hst => ⟨hother, ?_, fun m k hk => ?_⟩⟩
  · refine (withLocal_ok hp _).trans ?_
    rw [sramRead_fetchTouch]
  · rw [hst, sSet_fields]
    rfl
  · rw [hst]
    refine (sGet_sSet (readFound (stallOf d st) z) i.d m _).trans ?_
    by_cases hm : m = i.d
    · subst hm
      by_cases h0 : i.d = 0
      · simp [h0]
      · simp [h0, ldValue]
    · simp only [hm, false_and, if_false]
      rfl
  · refine (withLocal_ok hp _).trans ?_
    rw [sramRead_fetchTouch]
  · rw [hst]
    rfl
  · rw [hst]
    exact vLane_vSet (readFound (stallOf d st) z) i.d m k hk (laneOn i (stallOf d st))
      (widen (insType i) (sramRead d st buf off (vecBytes (insType i))))

/-! ### Stores (O8, O9) -/

/-- A byte of a map after consecutive writes. -/
theorem mget_mputs_some (m : Map (Option Byte)) (off : Nat) (bs : List Byte) (o : Nat) :
    mget none (mputs none m off (bs.map some)) o =
      if off ≤ o ∧ o < off + bs.length then some (bs.getD (o - off) 0) else mget none m o := by
  by_cases h : off ≤ o ∧ o < off + bs.length
  · obtain ⟨k, rfl⟩ := Nat.exists_eq_add_of_le h.1
    have hk : k < bs.length := by omega
    rw [if_pos h, mget_mputs_inside _ _ _ _ _ (by simpa using hk)]
    simp [hk]
  · rw [if_neg h]
    exact mget_mputs_outside _ _ _ _ _ (by rw [List.length_map]; omega)

/-- A write of a buffer changes the three buffers only. -/
theorem setSram_fields (x : Stall) (buf : Nat) (m : Sram) : setSram x buf m =
    { x with trough := (setSram x buf m).trough, bin := (setSram x buf m).bin, manger := (setSram x buf m).manger } := by
  unfold setSram
  split
  · rfl
  · split <;> rfl

/-- A byte of a stall after one of its buffers has been replaced. -/
theorem byteOf_setSram (x : Stall) {buf b : Nat} (hbuf : buf < 3) (hb : b < 3) (m : Sram) (o : Nat) :
    byteOf (setSram x buf m) b o = if b = buf then mget none m.bytes o else byteOf x b o := by
  match buf, b, hbuf, hb with
  | 0, 0, _, _ | 0, 1, _, _ | 0, 2, _, _ | 1, 0, _, _ | 1, 1, _, _ | 1, 2, _, _ | 2, 0, _, _ | 2, 1, _, _
  | 2, 2, _, _ => rfl

/-- A byte of a stall after a write of consecutive bytes. -/
theorem byteOf_sramPut (x : Stall) {buf b : Nat} (hbuf : buf < 3) (hb : b < 3) (off : Nat) (bs : List Byte) (o : Nat) :
    byteOf (setSram x buf (sramPut (sramOf x buf) off bs)) b o =
      if b = buf ∧ off ≤ o ∧ o < off + bs.length then some (bs.getD (o - off) 0) else byteOf x b o := by
  rw [byteOf_setSram x hbuf hb]
  by_cases h : b = buf
  · subst h
    simp only [if_true, true_and]
    exact mget_mputs_some ..
  · simp [h]

/-- What a write of consecutive bytes leaves. -/
theorem storesAt_sramPut {x y : Stall} {buf off : Nat} {bs : List Byte} (hbuf : buf < 3)
    (hy : y = { setSram x buf (sramPut (sramOf x buf) off bs) with held := none, pc := x.pc + 1 }) :
    StoresAt buf off bs x y := by
  have hbyte (b o : Nat) (hb : b < 3) : byteOf y b o =
      if b = buf ∧ off ≤ o ∧ o < off + bs.length then some (bs.getD (o - off) 0) else byteOf x b o := by
    rw [hy]
    exact byteOf_sramPut x hbuf hb off bs o
  refine ⟨?_, fun k hk => ?_, fun b o hb hout => ?_⟩
  · rw [hy, setSram_fields]
    rfl
  · rw [hbyte _ _ hbuf, if_pos ⟨rfl, by omega, by omega⟩, Nat.add_sub_cancel_left]
  · rw [hbyte _ _ hb, if_neg hout]

/-- A byte of a map after single writes at different places. -/
theorem mget_foldl_mput {obs : List (Nat × Byte)} (hnd : (obs.map (·.1)).Nodup) :
    ∀ m : Map (Option Byte), (∀ p ∈ obs, mget none (obs.foldl (fun b p => mput none b p.1 (some p.2)) m) p.1 = some p.2) ∧
      ∀ o, (∀ p ∈ obs, p.1 ≠ o) → mget none (obs.foldl (fun b p => mput none b p.1 (some p.2)) m) o = mget none m o := by
  induction obs with
  | nil => exact fun m => ⟨nofun, fun _ _ => rfl⟩
  | cons q obs ih =>
    intro m
    simp only [List.map_cons, List.nodup_cons] at hnd
    obtain ⟨hq, hnd⟩ := hnd
    obtain ⟨hin, hout⟩ := ih hnd (mput none m q.1 (some q.2))
    refine ⟨fun p hp => ?_, fun o ho => ?_⟩
    · rcases List.mem_cons.mp hp with rfl | hp
      · refine (hout p.1 fun r hr e => hq (List.mem_map.mpr ⟨r, hr, e⟩)).trans ?_
        exact mget_mput_self ..
      · exact hin p hp
    · refine (hout o fun r hr => ho r (List.mem_cons_of_mem _ hr)).trans ?_
      exact mget_mput_ne _ _ _ (ho q (List.mem_cons_self ..)).symm

/-- A VST writes each of its bytes at a place of its own. -/
theorem vstStores_nodup (i : Ins) (x : Stall) (off : Nat) : ((vstStores i x off).map (·.1)).Nodup := by
  unfold vstStores
  dsimp only
  generalize vstBytes (insType i) (insRz i) (vGet x i.b) (laneMask x i) = bs
  have hsub : (((List.range bs.length).zip bs).filterMap fun p => if p.2.2 then some (off + p.1, p.2.1) else none).map (·.1)
      |>.Sublist (((List.range bs.length).zip bs).map fun p => off + p.1) := by
    generalize (List.range bs.length).zip bs = l
    induction l with
    | nil => exact .slnil
    | cons p l ih =>
      rw [List.filterMap_cons]
      by_cases h : p.2.2 = true
      · simpa [h] using ih
      · simpa [h] using ih.cons _
  refine hsub.nodup ?_
  have hmap : (((List.range bs.length).zip bs).map fun p => off + p.1) = (List.range bs.length).map (off + ·) := by
    conv_rhs => rw [← List.map_fst_zip (l₂ := bs) (by simp : (List.range bs.length).length ≤ bs.length), List.map_map]
    rfl
  rw [hmap]
  exact List.nodup_range.map fun a b h => Nat.add_left_cancel h

/-- Settles O8. -/
theorem storesWriteTheirBytesOnly : Obligations.StoresWriteTheirBytesOnly := by
  intro buf off
  refine ⟨runs_go (g := fun i x y => setSram y buf (sramPut (sramOf y buf) off (toLe (ldWidth i) (sGet x i.b).toNat)))
      (nx := fun _ _ => none) (fun _ _ => rfl) (fun d st i _ hp => withLocal_ok hp _)
      fun d st i e hp hother hst => ⟨hother, storesAt_sramPut (buf_lt_of_localRange hp.1) hst⟩,
    runs_go (g := fun i x y => setSram y buf (sramPutAt (sramOf y buf) (vstStores i x off)))
      (nx := fun _ _ => none) (fun _ _ => rfl) (fun d st i _ hp => withLocal_ok hp _)
      fun d st i e hp hother hst => ?_⟩
  have hbuf := buf_lt_of_localRange hp.1
  have hbyte (b o : Nat) (hb : b < 3) := byteOf_setSram (stallOf d st) hbuf hb
    (sramPutAt (sramOf (stallOf d st) buf) (vstStores i (stallOf d st) off)) o
  obtain ⟨hin, hout⟩ := mget_foldl_mput (vstStores_nodup i (stallOf d st) off) (sramOf (stallOf d st) buf).bytes
  refine ⟨hother, ?_, fun p hmem => ?_, fun o ho => ?_, fun b o hb hne => ?_⟩
  · rw [hst, setSram_fields]
    rfl
  · rw [hst]
    exact (hbyte buf p.1 hbuf).trans ((if_pos rfl).trans (hin p hmem))
  · rw [hst]
    exact (hbyte buf o hbuf).trans ((if_pos rfl).trans (hout o ho))
  · rw [hst]
    exact (hbyte b o hb).trans (if_neg hne)

/-- A read leaves the bytes of the buffers as they are. -/
theorem byteOf_readFound (x z : Stall) (b o : Nat) : byteOf (readFound x z) b o = byteOf x b o := by
  unfold byteOf sramOf
  split
  · rfl
  · split <;> rfl

theorem length_sramRead (d : Dev) (st buf off n : Nat) : (sramRead d st buf off n).length = n := by
  simp [sramRead]

/-- Settles O9. -/
theorem copyAndFill : Obligations.CopyAndFill := by
  refine ⟨fun n sb so db dof => runs_read
      (g := fun d st _ y => setSram y db (sramPut (sramOf y db) dof (sramRead d st sb so n))) (fun _ _ => rfl)
      (fun d st i _ hp => ⟨sramTouch (fetchTouch d st) st sb so n, ?_, ?_⟩) fun d st i e z hp hother hst => ?_,
    fun n b off => runs_go (g := fun i x y => setSram y b (sramPut (sramOf y b) off ((List.range n).map fun k =>
        BitVec.ofNat 8 ((sGet x i.a).toNat / 2 ^ (8 * (k % 8)))))) (nx := fun _ _ => none) (fun _ _ => rfl)
      (fun d st i _ hp => ?_) fun d st i e hp hother hst => ⟨hother, storesAt_sramPut ?_ hst⟩,
    runs_goSame (nx := fun _ _ => none) (fun _ _ => rfl) (fun d st i _ hp => if_pos hp)
      fun d st i e _ hother hst => ⟨hother, hst⟩,
    runs_goSame (nx := fun _ _ => none) (fun _ _ => rfl) (fun d st i _ hp => if_pos hp)
      fun d st i e _ hother hst => ⟨hother, hst⟩⟩
  · obtain ⟨-, -, ⟨hrange, -⟩, -⟩ := hp
    exact readsOf_sramTouch _ _ _ _ (buf_lt_of_localRange hrange)
  · obtain ⟨rfl, hn, ⟨hsrc, -, hsfree⟩, ⟨hdst, -, hdfree⟩⟩ := hp
    unfold copyIssue
    simp only [Nat.pos_iff_ne_zero.mp hn, if_false, hsrc, hdst, blocked_fetchTouch, hsfree, hdfree, Bool.or_self,
      Bool.false_eq_true, sramRead_fetchTouch]
    rfl
  · obtain ⟨-, -, -, ⟨hdst, -⟩⟩ := hp
    have hdb := buf_lt_of_localRange hdst
    have hbyte (b o : Nat) (hb : b < 3) : byteOf (stallOf e st) b o =
        if b = db ∧ dof ≤ o ∧ o < dof + n then some ((sramRead d st sb so n).getD (o - dof) 0)
        else byteOf (stallOf d st) b o := by
      rw [hst]
      refine (byteOf_sramPut (readFound (stallOf d st) z) hdb hb dof (sramRead d st sb so n) o).trans ?_
      rw [length_sramRead, byteOf_readFound]
    refine ⟨hother, ?_, fun k hk => ?_, fun b o hb hout => ?_⟩
    · rw [hst, setSram_fields]
      rfl
    · rw [hbyte _ _ hdb, if_pos ⟨rfl, by omega, by omega⟩, Nat.add_sub_cancel_left]
    · rw [hbyte _ _ hb, if_neg hout]
  · obtain ⟨rfl, hn, ⟨hdst, -, hdfree⟩⟩ := hp
    unfold fillIssue
    simp only [Nat.pos_iff_ne_zero.mp hn, if_false, hdst, blocked_fetchTouch, hdfree, Bool.false_eq_true]
    rfl
  · obtain ⟨-, -, ⟨hdst, -⟩⟩ := hp
    exact buf_lt_of_localRange hdst

/-! ### Faults of local accesses (O10) -/

/-- An instruction whose access begins with `withLocal` stops with LOCAL_RANGE or ALIGN. -/
theorem runs_withLocal_faults {mk : Nat → Instr} {name : String} {op : Nat} {frm : Ins → Option Form}
    {f : Nat → Ins → Stall → Dev → Issue} {at_ : Ins → Stall → W64} {len align : Ins → Nat}
    (hexec : ∀ st s, exec (mk st) s = issue name op frm st (f st) s)
    (hlocal : ∀ st i x d, ∃ k, f st i x d = withLocal d st (at_ i x) (len i) (align i) k) (addr : W64) :
    Runs mk op frm (fun d st i => addr = at_ i (stallOf d st) ∧ localRange addr (len i) = none)
        (fun d st _ => StopsAt st 0x04 (addr.toNat % 2 ^ 32) d) ∧
      Runs mk op frm
        (fun d st i => addr = at_ i (stallOf d st) ∧ localRange addr (len i) ≠ none ∧ addr.toNat % align i ≠ 0)
        (fun d st _ => StopsAt st 0x05 (addr.toNat % 2 ^ 32) d) := by
  refine ⟨runs_fault (detail := fun _ _ _ => addr.toNat % 2 ^ 32) hexec fun d st i _ hp => ?_,
    runs_fault (detail := fun _ _ _ => addr.toNat % 2 ^ 32) hexec fun d st i _ hp => ?_⟩
  all_goals obtain ⟨k, hk⟩ := hlocal st i (stallOf d st) (fetchTouch d st)
  · obtain ⟨rfl, hrange⟩ := hp
    rw [hk, withLocal_range hrange]
  · obtain ⟨rfl, hrange, halign⟩ := hp
    rw [hk, withLocal_align hrange halign]

/-- PUT, PUT.S with data and PUT.F check their source first. -/
theorem putIssue_range {k : RemKind} {st : Nat} {i : Ins} {x : Stall} {d : Dev}
    (hdata : ¬ (k = .putS ∧ bitAt i.imm 25 = true)) (h : localRange (sGet x i.a) (remLen i) = none) :
    putIssue k st i x d = .fault 0x04 ((sGet x i.a).toNat % 2 ^ 32) := by
  unfold putIssue
  dsimp only
  rw [if_neg hdata, withLocal_range h]

theorem copyIssue_source {st : Nat} {i : Ins} {x : Stall} {d : Dev} (hn : 0 < copyLen i x)
    (h : localRange (sGet x i.a) (copyLen i x) = none) :
    copyIssue st i x d = .fault 0x04 ((sGet x i.a).toNat % 2 ^ 32) := by
  unfold copyIssue
  simp only [Nat.pos_iff_ne_zero.mp hn, if_false, h]

theorem copyIssue_destination {st : Nat} {i : Ins} {x : Stall} {d : Dev} (hn : 0 < copyLen i x)
    (hsrc : localRange (sGet x i.a) (copyLen i x) ≠ none) (h : localRange (sGet x i.d) (copyLen i x) = none) :
    copyIssue st i x d = .fault 0x04 ((sGet x i.d).toNat % 2 ^ 32) := by
  obtain ⟨p, hp⟩ := Option.ne_none_iff_exists'.mp hsrc
  unfold copyIssue
  simp only [Nat.pos_iff_ne_zero.mp hn, if_false, hp, h]

theorem fillIssue_range {st : Nat} {i : Ins} {x : Stall} {d : Dev} (hn : 0 < copyLen i x)
    (h : localRange (sGet x i.d) (copyLen i x) = none) :
    fillIssue st i x d = .fault 0x04 ((sGet x i.d).toNat % 2 ^ 32) := by
  unfold fillIssue
  simp only [Nat.pos_iff_ne_zero.mp hn, if_false, h]

/-- Settles O10. -/
theorem localAccessFaults : Obligations.LocalAccessFaults := by
  refine ⟨fun addr p hp => ?_, fun addr p hp => ?_, ?_⟩
  · simp only [List.mem_cons, List.not_mem_nil, or_false] at hp
    rcases hp with rfl | rfl | rfl | rfl
    · exact runs_withLocal_faults (fun _ _ => rfl) (fun _ _ _ _ => ⟨_, rfl⟩) addr
    · exact runs_withLocal_faults (fun _ _ => rfl) (fun _ _ _ _ => ⟨_, rfl⟩) addr
    · exact runs_withLocal_faults (fun _ _ => rfl) (fun _ _ _ _ => ⟨_, rfl⟩) addr
    · exact runs_withLocal_faults (fun _ _ => rfl) (fun _ _ _ _ => ⟨_, rfl⟩) addr
  · simp only [List.mem_cons, List.not_mem_nil, or_false] at hp
    rcases hp with rfl | rfl | rfl | rfl | rfl | rfl | rfl
    all_goals
      refine runs_fault (detail := fun _ _ _ => addr.toNat % 2 ^ 32) (fun _ _ => rfl) ?_
      rintro d st i _ ⟨rfl, hn, hdata, hrange⟩
    · exact copyIssue_source hn hrange
    · exact fillIssue_range hn hrange
    · exact putIssue_range nofun hrange
    · exact putIssue_range (fun h => by simp [h.2] at hdata) hrange
    · exact putIssue_range nofun hrange
    · exact withLocal_range hrange ..
    · exact withLocal_range hrange ..
  · exact runs_fault (fun _ _ => rfl) fun d st i _ hp => copyIssue_destination hp.1 hp.2.1 hp.2.2

end Sys2Proof.Machine
end


section
/-! The slot instructions (O11). -/

namespace Sys2Proof.Machine

open Sys2Proof

/-! ### Fill flags -/

theorem flagOf_setFlag (x : Stall) {b c : Nat} (hb : b < 2) (hc : c < 2) (n m : Nat) (v : Bool) :
    flagOf (setFlag x b n v) c m = if c = b ∧ m = n then v else flagOf x c m := by
  match b, c, hb, hc with
  | 0, 0, _, _ | 1, 1, _, _ =>
    refine (mget_mput ..).trans ?_
    simp only [true_and]
    rfl
  | 0, 1, _, _ | 1, 0, _, _ => rfl

/-- A flag written changes the flags only. -/
theorem setFlag_fields (x : Stall) (b n : Nat) (v : Bool) :
    setFlag x b n v = { x with tFlags := (setFlag x b n v).tFlags, bFlags := (setFlag x b n v).bFlags } := by
  unfold setFlag
  split <;> rfl

@[simp] theorem setFlag_hold (x : Stall) (b n : Nat) (v : Bool) : (setFlag x b n v).hold = x.hold := by
  rw [setFlag_fields]

theorem slotBuf_lt (i : Ins) : slotBuf i < 2 := by
  unfold slotBuf
  split <;> decide

/-- A run of flags written. -/
theorem setFlags_spec (b n : Nat) (hb : b < 2) (v : Bool) : ∀ (run : Nat) (x : Stall),
    let y := (List.range run).foldl (fun y k => setFlag y b (n + k) v) x
    y = { x with tFlags := y.tFlags, bFlags := y.bFlags } ∧
      ∀ c m, c < 2 → flagOf y c m = if c = b ∧ n ≤ m ∧ m < n + run then v else flagOf x c m := by
  intro run
  induction run with
  | zero =>
    refine fun x => ⟨rfl, fun c m _ => ?_⟩
    rw [if_neg (by omega)]
    rfl
  | succ run ih =>
    intro x
    obtain ⟨hfields, hflags⟩ := ih x
    simp only [List.range_succ, List.foldl_append, List.foldl_cons, List.foldl_nil]
    refine ⟨?_, fun c m hc => ?_⟩
    · generalize (List.range run).foldl (fun y k => setFlag y b (n + k) v) x = y at hfields
      rw [setFlag_fields, hfields]
    · rw [flagOf_setFlag _ hb hc, hflags c m hc]
      by_cases h : c = b ∧ m = n + run
      · rw [if_pos h, if_pos ⟨h.1, by omega, by omega⟩]
      · rw [if_neg h]
        have : (c = b ∧ n ≤ m ∧ m < n + (run + 1)) ↔ (c = b ∧ n ≤ m ∧ m < n + run) := by omega
        simp only [this]

/-! ### Clears -/

/-- A flag cleared where nothing waits. -/
theorem clearFlag_of_hold_nil {d : Dev} {st : Nat} (h : (stallOf d st).hold = []) (b n : Nat) :
    clearFlag st b d n = if flagOf (stallOf d st) b n then modStall d st fun x => setFlag x b n false else d := by
  unfold clearFlag
  split
  · unfold wakeSlot
    rw [stallOf_modStall_self, setFlag_fields]
    simp only [h, List.filterMap_nil, List.find?_nil]
  · rfl

/-- What has changed lies in the stall st. -/
def InStall (st : Nat) (d e : Dev) : Prop := e = { d with stalls := e.stalls } ∧ ∀ k, k ≠ st → stallOf e k = stallOf d k

theorem InStall.modStall {st : Nat} {d e : Dev} (h : InStall st d e) (f : Stall → Stall) : InStall st d (modStall e st f) := by
  obtain ⟨hframe, hother⟩ := h
  refine ⟨?_, fun k hk => (stallOf_modStall_ne _ _ hk).trans (hother k hk)⟩
  unfold Machine.modStall setStall
  rw [hframe]

/-- A run of flags cleared where nothing waits. -/
theorem clearFlags_spec {d : Dev} {st b : Nat} (hb : b < 2) (n : Nat) (h : (stallOf d st).hold = []) : ∀ run : Nat,
    let e := ((List.range run).map (n + ·)).foldl (clearFlag st b) d
    InStall st d e ∧
      stallOf e st = { stallOf d st with tFlags := (stallOf e st).tFlags, bFlags := (stallOf e st).bFlags } ∧
      ∀ c m, c < 2 → flagOf (stallOf e st) c m =
        if c = b ∧ n ≤ m ∧ m < n + run then false else flagOf (stallOf d st) c m := by
  intro run
  induction run with
  | zero =>
    refine ⟨⟨rfl, fun _ _ => rfl⟩, rfl, fun c m _ => ?_⟩
    rw [if_neg (by omega)]
    rfl
  | succ run ih =>
    obtain ⟨hin, hfields, hflags⟩ := ih
    simp only [List.range_succ, List.map_append, List.map_cons, List.map_nil, List.foldl_append, List.foldl_cons,
      List.foldl_nil]
    generalize ((List.range run).map (n + ·)).foldl (clearFlag st b) d = e at hin hfields hflags
    have hhold : (stallOf e st).hold = [] := by rw [hfields]; exact h
    rw [clearFlag_of_hold_nil hhold]
    by_cases hset : flagOf (stallOf e st) b (n + run) = true
    · rw [if_pos hset, stallOf_modStall_self]
      refine ⟨hin.modStall _, ?_, fun c m hc => ?_⟩
      · rw [setFlag_fields, hfields]
      · rw [flagOf_setFlag _ hb hc, hflags c m hc]
        by_cases hcm : c = b ∧ m = n + run
        · rw [if_pos hcm, if_pos ⟨hcm.1, by omega, by omega⟩]
        · rw [if_neg hcm]
          have : (c = b ∧ n ≤ m ∧ m < n + (run + 1)) ↔ (c = b ∧ n ≤ m ∧ m < n + run) := by omega
          simp only [this]
    · rw [if_neg hset]
      refine ⟨hin, hfields, fun c m hc => ?_⟩
      by_cases hcm : c = b ∧ m = n + run
      · rw [if_pos ⟨hcm.1, by omega, by omega⟩, hcm.1, hcm.2]
        exact Bool.eq_false_of_not_eq_true hset
      · rw [hflags c m hc]
        have : (c = b ∧ n ≤ m ∧ m < n + (run + 1)) ↔ (c = b ∧ n ≤ m ∧ m < n + run) := by omega
        simp only [this]

/-! ### Issue -/

/-- What an issue leaves that has changed its stall only and moves on. -/
theorem issued_go_inStall {d e : Dev} {st pc : Nat} (h : InStall st (fetchTouch d st) e) :
    let r := issued (fetchTouch d st) st pc (.go e none)
    let t := { r with draws := r.draws + 1 }
    StallOnly st d t ∧ stallOf t st = { stallOf e st with held := none, pc := pc + 1 } := by
  obtain ⟨hframe, hother⟩ := h
  refine ⟨⟨?_, fun k hk => ?_, fun o ho => ?_⟩, ?_⟩
  · simp only [issued, advance, modStall, setStall]
    rw [hframe, fetchTouch_eq]
  · show stallOf (advance e st _) k = _
    rw [advance, stallOf_modStall_ne _ _ hk, hother k hk, fetchTouch_stallOf]
  · show ctrOf e o = _
    rw [hframe]
    exact fetchTouch_ctrOf _ _ ho
  · show stallOf (advance e st _) st = _
    simp only [advance, stallOf_modStall_self, Option.getD_none]

/-- An instruction that has changed its stall only and moves on. -/
theorem runs_inStall {mk : Nat → Instr} {name : String} {op : Nat} {frm : Ins → Option Form}
    {f : Nat → Ins → Stall → Dev → Issue} {pre : Dev → Nat → Ins → Prop} {post : Dev → Nat → Ins → Dev → Prop}
    (hexec : ∀ st s, exec (mk st) s = issue name op frm st (f st) s)
    (hgo : ∀ d st i, Issues d st op frm i → pre d st i → ∃ e, f st i (stallOf d st) (fetchTouch d st) = .go e none ∧
      InStall st (fetchTouch d st) e ∧ ∀ t, StallOnly st d t →
        stallOf t st = { stallOf e st with held := none, pc := (stallOf d st).pc + 1 } → post d st i t) :
    Runs mk op frm pre post := by
  refine runs_issue hexec fun d st i r hi hp hr => ?_
  subst hr
  obtain ⟨e, he, hin, hpost⟩ := hgo d st i hi hp
  rw [he]
  obtain ⟨hother, hst⟩ := issued_go_inStall (pc := (stallOf d st).pc) hin
  exact hpost _ hother hst

/-- An access to slots that exist and are free goes on. -/
theorem withSlots_ok {d : Dev} {st : Nat} {i : Ins} {count : Nat}
    (h : SlotsOk d st (slotBuf i) (slotNum i (stallOf d st)) count) (k : Nat → Nat → Issue) :
    withSlots (fetchTouch d st) st i (stallOf d st) count k = k (slotBuf i) (slotNum i (stallOf d st)) := by
  obtain ⟨hcount, hfree⟩ := h
  unfold withSlots
  simp only [Nat.not_lt.mpr hcount, if_false, blocked_fetchTouch, hfree, Bool.false_eq_true]

theorem withSlots_range {d : Dev} {st : Nat} {i : Ins} {x : Stall} {count : Nat}
    (h : slotCount (slotBuf i) < slotNum i x + count) (k : Nat → Nat → Issue) :
    withSlots d st i x count k = .fault 0x06 (max (slotNum i x) (slotCount (slotBuf i)) % 2 ^ 32) := if_pos h

/-! ### A waiting PUT.F (R213, R215) -/

theorem opOf_id {d : Dev} {id : Nat} {o : RemOp} (h : opOf d id = some o) : o.id = id :=
  beq_iff_eq.mp (List.find?_some (p := fun x : RemOp => x.id == id) h)

theorem opOf_congr {d e : Dev} (h : e.ops = d.ops) (id : Nat) : opOf e id = opOf d id := by
  unfold opOf
  rw [h]

/-- An operation replaced under its own id. -/
theorem opOf_putOp_self {d : Dev} {id : Nat} {o p : RemOp} (h : opOf d id = some o) (hp : p.id = id) :
    opOf (putOp d p) id = some p := by
  subst hp
  show (d.ops.map fun x => if x.id = p.id then p else x).find? (·.id == p.id) = some p
  unfold opOf at h
  generalize d.ops = l at h
  induction l with
  | nil => cases h
  | cons q l ih =>
    by_cases hq : q.id = p.id
    · simp [hq]
    · rw [List.map_cons, if_neg hq, List.find?_cons_of_neg (by simpa using hq)]
      rw [List.find?_cons_of_neg (by simpa using hq)] at h
      exact ih h

theorem opOf_dropOp_self (d : Dev) (id : Nat) : opOf (dropOp d id) id = none := by
  refine List.find?_eq_none.mpr fun x hx => ?_
  have hne := (List.mem_filter.mp hx).2
  simpa using hne

/-- The notice of an operation reports. -/
theorem reports_sendReply (d : Dev) (o : NetOp) (back : List Byte) : Reports d (sendReply d o back) := by
  exact reports_foldl (fun _ _ => reports_sendTo ..) _ _

/-- An operation is performed. -/
theorem performed_performed {d : Dev} {id : Nat} {o : RemOp} (h : opOf d id = some o) (back : List Byte) :
    Performed id o back (performed d o back) ∧ (performed d o back).stalls = d.stalls := by
  unfold performed Performed
  by_cases ho : o.own = true
  · rw [if_pos ho, if_pos ho]
    exact ⟨opOf_putOp_self h (opOf_id (o := o) h), rfl⟩
  · rw [if_neg ho, if_neg ho]
    have hstalls := (reports_sendReply (dropOp d o.id) o.op back).stalls
    have hops := (reports_sendReply (dropOp d o.id) o.op back).ops
    refine ⟨?_, hstalls⟩
    rw [opOf_congr hops, ← opOf_id h]
    exact opOf_dropOp_self ..

/-- A PUT.F that lies in a slot of its buffer writes all its bytes and fills the slot. -/
theorem performAtStall_putF {d : Dev} {st b n id : Nat} {o : RemOp} (hop : opOf d id = some o) (hkind : o.op.kind = .putF)
    (hspace : gSpace o.op.addr = 0) (hstall : gStall o.op.addr = st) (hbuf : gBuf o.op.addr = b) (hb : b < 2)
    (hn : n < slotCount b) (hlen : o.op.data.length = o.op.len) (hlo : 512 * n ≤ gOff o.op.addr)
    (hhi : gOff o.op.addr + o.op.len ≤ 512 * n + 512) (hpos : 0 < o.op.len) :
    let e := performAtStall d o
    Performed id o [] e ∧ stallOf e st =
      setFlag (setSram (stallOf d st) b (sramPut (sramOf (stallOf d st) b) (gOff o.op.addr) o.op.data)) b n true := by
  have hsize : 512 * slotCount b ≤ bufSize b := by
    match b, hb with
    | 0, _ | 1, _ => decide
  have hregion : gOff o.op.addr + o.op.len ≤ regionSize o.op.addr := by
    rw [regionSize, if_pos hspace, hbuf]
    omega
  have hbeyond : countBeyond d o.op.addr o.op.len = d := if_pos hregion
  have hinside : inside o.op.addr o.op.len = o.op.len := by
    unfold inside
    omega
  have htake : o.op.data.take o.op.len = o.op.data := by rw [← hlen, List.take_length]
  have hslot : tSlot o = n := by
    unfold tSlot tAddr
    omega
  have hfill (x : Stall) : fillSlot x o = setFlag x b n true := by
    unfold fillSlot slotExists tAddr
    rw [hslot, hbuf, if_pos (decide_eq_true hn)]
  have he : performAtStall d o =
      performed (modStall (sramWrite d st b (gOff o.op.addr) o.op.data) st fun x => setFlag x b n true) o [] := by
    unfold performAtStall tAddr
    simp only [hbeyond, hkind, hinside, hbuf, hstall, hfill, htake]
  obtain ⟨hdone, hstalls⟩ := performed_performed
    (d := modStall (sramWrite d st b (gOff o.op.addr) o.op.data) st fun x => setFlag x b n true) hop []
  refine ⟨he ▸ hdone, ?_⟩
  rw [he, stallOf_congr hstalls, stallOf_modStall_self, sramWrite, stallOf_modStall_self]

/-- A waiting PUT.F waits as long as the operations stand. -/
theorem WaitsAtSlot.of_ops {d e : Dev} {st b n id : Nat} {o : RemOp} (h : WaitsAtSlot d st b n id o)
    (hops : e.ops = d.ops) : WaitsAtSlot e st b n id o := by
  obtain ⟨hop, hrest⟩ := h
  exact ⟨(opOf_congr hops id).trans hop, hrest⟩

/-- The stall whose slot n is emptied and whose holding store gives up its one operation. -/
def vacated (x : Stall) (b n id : Nat) : Stall :=
  { setFlag x b n false with hold := [], jammed := (setFlag x b n false).jammed.filter (· != id) }

/-- A slot that is emptied with one PUT.F waiting at it: the PUT.F is performed. -/
theorem clearFlag_wakes {d : Dev} {st b n id : Nat} {o : RemOp} (hb : b < 2) (hn : n < slotCount b)
    (hflag : flagOf (stallOf d st) b n = true) (hhold : (stallOf d st).hold = [id]) (hw : WaitsAtSlot d st b n id o) :
    let e := clearFlag st b d n
    Performed id o [] e ∧ stallOf e st =
      setFlag (setSram (vacated (stallOf d st) b n id) b
        (sramPut (sramOf (vacated (stallOf d st) b n id) b) (gOff o.op.addr) o.op.data)) b n true := by
  obtain ⟨hop, hid, hkind, hspace, hstall, hbuf, hlen, hpos, hlo, hhi⟩ := hw
  have hslot : tSlot o = n := by
    unfold tSlot tAddr
    omega
  have hx : (stallOf (modStall d st fun x => setFlag x b n false) st).hold = [id] := by
    rw [stallOf_modStall_self, setFlag_fields]
    exact hhold
  have hop' : opOf (modStall d st fun x => setFlag x b n false) id = some o := hop
  have hbehind : behind (modStall d st fun x => setFlag x b n false) st o = false := by
    unfold behind
    rw [hx]
    simp [hop', hid]
  have hvacated : stallOf (modStall (modStall d st fun x => setFlag x b n false) st fun x =>
      { x with hold := x.hold.filter (· != o.id), jammed := x.jammed.filter (· != o.id) }) st =
      vacated (stallOf d st) b n id := by
    simp [vacated, hhold, hid]
  obtain ⟨hdone, hst⟩ := performAtStall_putF (b := b) (n := n) (o := o) (id := id) (st := st)
    (d := modStall (modStall d st fun x => setFlag x b n false) st fun x =>
      { x with hold := x.hold.filter (· != o.id), jammed := x.jammed.filter (· != o.id) })
    hop hkind hspace hstall hbuf hb hn hlen hlo hhi hpos
  rw [hvacated] at hst
  have hnone (src k : Nat) : drainHeld st src k (release (modStall d st fun x => setFlag x b n false) st o) =
      release (modStall d st fun x => setFlag x b n false) st o := by
    have hempty : (stallOf (release (modStall d st fun x => setFlag x b n false) st o) st).hold = [] := by
      refine (congrArg Stall.hold hst).trans ?_
      rw [setFlag_hold, setSram_fields]
      rfl
    cases k with
    | zero => rfl
    | succ k => simp only [drainHeld, nextHeld, hempty, List.filterMap_nil, List.find?_nil]
  have he : clearFlag st b d n = release (modStall d st fun x => setFlag x b n false) st o := by
    unfold clearFlag wakeSlot
    rw [if_pos hflag, hx]
    have hfind : ([id].filterMap (opOf (modStall d st fun x => setFlag x b n false))).find? (fun o =>
        o.op.kind == .putF && gBuf (tAddr o) == b && tSlot o == n &&
          !behind (modStall d st fun x => setFlag x b n false) st o) = some o := by
      simp [hop', hkind, hslot, hbehind, tAddr, hbuf]
    simp only [hfind, hnone, ite_self]
  rw [he]
  exact ⟨hdone, hst⟩

/-! ### The slot instructions (O11) -/

/-- Lanes after a vector pair has been loaded (R143). -/
theorem vLane_pairLoad (x : Stall) (n : Nat) (bs : List Byte) {v k : Nat} (hk : k < 64) :
    vLane (pairLoad x n bs) v k =
      if v = n ∨ v = n + 1 then BitVec.ofNat 32 (fieldAt bs (256 * (v - n) + 4 * k) 4) else vLane x v k := by
  unfold vLane pairLoad
  dsimp only
  have hget (j : Nat) (hj : j < ((List.range 128).map fun k => BitVec.ofNat 32 (fieldAt bs (4 * k) 4)).length) :
      ((List.range 128).map fun k => BitVec.ofNat 32 (fieldAt bs (4 * k) 4))[j] = BitVec.ofNat 32 (fieldAt bs (4 * j) 4) := by
    rw [List.getElem_map, List.getElem_range]
  have hlen : ((List.range 128).map fun k => BitVec.ofNat 32 (fieldAt bs (4 * k) 4)).length = 128 := by
    rw [List.length_map, List.length_range]
  generalize ((List.range 128).map fun k => BitVec.ofNat 32 (fieldAt bs (4 * k) 4)) = l at hget hlen
  by_cases h : v = n ∨ v = n + 1
  · have hplace : 64 * v + k = 64 * n + (64 * (v - n) + k) := by omega
    have hoff : 4 * (64 * (v - n) + k) = 256 * (v - n) + 4 * k := by omega
    rw [if_pos h, hplace, mget_mputs_inside _ _ _ _ _ (by omega : 64 * (v - n) + k < l.length), hget, hoff]
  · have hout : 64 * v + k < 64 * n ∨ 64 * n + l.length ≤ 64 * v + k := by omega
    rw [if_neg h, mget_mputs_outside 0 l x.vreg (64 * n) (64 * v + k) hout]

/-- What an issue leaves that has counted, reported and changed its stall, and moves on. -/
theorem issued_go_reports {d e : Dev} {st pc : Nat} (hframe : ReportsOfStalls (fetchTouch d st) e)
    (hother : ∀ k, k ≠ st → stallOf e k = stallOf d k) :
    let r := issued (fetchTouch d st) st pc (.go e none)
    let t := { r with draws := r.draws + 1 }
    StallReads st d t ∧ stallOf t st = { stallOf e st with held := none, pc := pc + 1 } := by
  refine ⟨⟨?_, fun k hk => ?_⟩, ?_⟩
  · simp only [issued, advance, modStall, setStall]
    unfold ReportsOfStalls at hframe
    rw [hframe, fetchTouch_eq]
  · show stallOf (advance e st _) k = _
    rw [advance, stallOf_modStall_ne _ _ hk, hother k hk]
  · show stallOf (advance e st _) st = _
    simp only [advance, stallOf_modStall_self, Option.getD_none]

theorem pairLoad_fields (x : Stall) (n : Nat) (bs : List Byte) :
    ∃ v, pairLoad x n bs = { x with vreg := v } := ⟨_, rfl⟩

theorem fetchTouch_ops (d : Dev) (st : Nat) : (fetchTouch d st).ops = d.ops := by rw [fetchTouch_eq]

theorem ReportsOfStalls.ops {d e : Dev} (h : ReportsOfStalls d e) : e.ops = d.ops := by
  unfold ReportsOfStalls at h
  rw [h]

theorem reportsOfStalls_modStall (d : Dev) (st : Nat) (f : Stall → Stall) : ReportsOfStalls d (modStall d st f) := rfl

/-- The load of LD.W (R170): none with MOD bit 2. -/
def loadSlot (d : Dev) (st : Nat) (i : Ins) (b n : Nat) : Dev :=
  if bitAt i.mod 2 then d
  else modStall (sramTouch d st b (512 * n) 512) st fun y => pairLoad y i.d (sramRead d st b (512 * n) 512)

/-- What the load of an LD.W leaves. -/
theorem loadSlot_spec (d : Dev) (st : Nat) (i : Ins) {b : Nat} (hb : b < 2) (n : Nat) :
    let e := loadSlot d st i b n
    ReportsOfStalls d e ∧ (∀ k, k ≠ st → stallOf e k = stallOf d k) ∧
      (∃ z v, stallOf e st = { readFound (stallOf d st) z with vreg := v }) ∧
      ∀ v k, k < 64 → vLane (stallOf e st) v k =
        if bitAt i.mod 2 = false ∧ (v = i.d ∨ v = i.d + 1) then
          BitVec.ofNat 32 (fieldAt (sramRead d st b (512 * n) 512) (256 * (v - i.d) + 4 * k) 4)
        else vLane (stallOf d st) v k := by
  unfold loadSlot
  by_cases hm : bitAt i.mod 2 = true
  · rw [if_pos hm]
    exact ⟨rfl, fun _ _ => rfl, ⟨stallOf d st, (stallOf d st).vreg, rfl⟩, fun v k _ => by simp [hm]⟩
  · rw [if_neg hm]
    obtain ⟨hframe, hother, z, hz⟩ := readsOf_sramTouch d st (512 * n) 512 (by omega : b < 3)
    obtain ⟨w, hw⟩ := pairLoad_fields (readFound (stallOf d st) z) i.d (sramRead d st b (512 * n) 512)
    refine ⟨hframe.trans (reportsOfStalls_modStall ..), fun k hk => (stallOf_modStall_ne _ _ hk).trans (hother k hk),
      ⟨z, w, ?_⟩, fun v k hk => ?_⟩
    · rw [stallOf_modStall_self, hz, hw]
    · rw [stallOf_modStall_self, vLane_pairLoad _ _ _ hk, hz]
      simp [hm]
      rfl

theorem ldWIssue_full {d : Dev} {st : Nat} {i : Ins}
    (hslots : SlotsOk d st (slotBuf i) (slotNum i (stallOf d st)) 1)
    (hflag : flagOf (stallOf d st) (slotBuf i) (slotNum i (stallOf d st)) = true) :
    ldWIssue st i (stallOf d st) (fetchTouch d st) =
      .go (if bitAt i.mod 1 then loadSlot (fetchTouch d st) st i (slotBuf i) (slotNum i (stallOf d st))
        else clearFlag st (slotBuf i) (loadSlot (fetchTouch d st) st i (slotBuf i) (slotNum i (stallOf d st)))
          (slotNum i (stallOf d st))) none := by
  refine (withSlots_ok hslots _).trans ?_
  exact if_neg (by rw [hflag]; exact Bool.noConfusion)

/-- A flag cleared where nothing waits, as a change of the stall. -/
theorem clearFlag_spec {d : Dev} {st b : Nat} (hb : b < 2) (n : Nat) (h : (stallOf d st).hold = []) :
    let e := clearFlag st b d n
    InStall st d e ∧
      stallOf e st = { stallOf d st with tFlags := (stallOf e st).tFlags, bFlags := (stallOf e st).bFlags } ∧
      ∀ c m, c < 2 → flagOf (stallOf e st) c m = if c = b ∧ m = n then false else flagOf (stallOf d st) c m := by
  obtain ⟨hin, hfields, hflags⟩ := clearFlags_spec hb n h 1
  refine ⟨hin, hfields, fun c m hc => (hflags c m hc).trans ?_⟩
  have : (c = b ∧ n ≤ m ∧ m < n + 1) ↔ (c = b ∧ m = n) := by omega
  simp only [this]

/-- LD.W from a full slot where nothing waits (R170, R171). -/
theorem ldW_full (d : Dev) (st : Nat) (i : Ins) (r : Issue)
    (hslots : SlotsOk d st (slotBuf i) (slotNum i (stallOf d st)) 1)
    (hflag : flagOf (stallOf d st) (slotBuf i) (slotNum i (stallOf d st)) = true) (hhold : (stallOf d st).hold = [])
    (hr : ldWIssue st i (stallOf d st) (fetchTouch d st) = r) :
    let b := slotBuf i
    let n := slotNum i (stallOf d st)
    let t := issued (fetchTouch d st) st (stallOf d st).pc r
    let e := { t with draws := t.draws + 1 }
    let x := stallOf d st
    let y := stallOf e st
    StallReads st d e ∧
      ReadMoves (fun x y => { x with vreg := y.vreg, tFlags := y.tFlags, bFlags := y.bFlags }) x y ∧
      flagOf y b n = bitAt i.mod 1 ∧ (∀ c m, c < 2 → ¬ (c = b ∧ m = n) → flagOf y c m = flagOf x c m) ∧
      ∀ v k, k < 64 → vLane y v k =
        if bitAt i.mod 2 = false ∧ (v = i.d ∨ v = i.d + 1) then
          BitVec.ofNat 32 (fieldAt (sramRead d st b (512 * n) 512) (256 * (v - i.d) + 4 * k) 4)
        else vLane x v k := by
  have hb := slotBuf_lt i
  rw [ldWIssue_full hslots hflag] at hr
  generalize slotBuf i = b at *
  generalize slotNum i (stallOf d st) = n at *
  subst hr
  obtain ⟨hframe, hother, ⟨z, v, hz⟩, hlanes⟩ := loadSlot_spec (fetchTouch d st) st i hb n
  simp only [fetchTouch_stallOf, sramRead_fetchTouch] at hother hz hlanes
  generalize loadSlot (fetchTouch d st) st i b n = e at *
  by_cases hkeep : bitAt i.mod 1 = true
  · rw [if_pos hkeep, hkeep]
    obtain ⟨hreads, hst⟩ := issued_go_reports (pc := (stallOf d st).pc) hframe hother
    dsimp only at hst ⊢
    rw [hst]
    refine ⟨hreads, by rw [hz]; rfl, ?_, fun c m _ _ => ?_, hlanes⟩
    · rw [hz]
      exact hflag
    · rw [hz]
      rfl
  · rw [if_neg hkeep]
    have hkeep' : bitAt i.mod 1 = false := Bool.eq_false_of_not_eq_true hkeep
    have hhold' : (stallOf e st).hold = [] := by rw [hz]; exact hhold
    obtain ⟨⟨hclear, hclear'⟩, hfields, hflags⟩ := clearFlag_spec hb n hhold'
    generalize clearFlag st b e n = f at *
    have hframe' : ReportsOfStalls (fetchTouch d st) f := hframe.trans (by
      unfold ReportsOfStalls
      rw [hclear])
    obtain ⟨hreads, hst⟩ := issued_go_reports (pc := (stallOf d st).pc) hframe'
      fun k hk => (hclear' k hk).trans (hother k hk)
    dsimp only at hst ⊢
    rw [hst, hkeep']
    have hold (c m : Nat) : flagOf (stallOf e st) c m = flagOf (stallOf d st) c m := by
      rw [hz]
      rfl
    refine ⟨hreads, by rw [hfields, hz]; rfl, ?_, fun c m hc hcm => ?_, fun v k hk => ?_⟩
    · exact (hflags b n hb).trans (if_pos ⟨rfl, rfl⟩)
    · exact (hflags c m hc).trans ((if_neg hcm).trans (hold c m))
    · refine Eq.trans ?_ (hlanes v k hk)
      show vLane (stallOf f st) v k = _
      rw [hfields]
      rfl

/-- ST.F to an empty slot, as a change of the stall. -/
theorem stF_spec (x : Stall) {b : Nat} (hb : b < 2) (n v : Nat) :
    let y := setFlag (setSram x b (sramPut (sramOf x b) (512 * n) (pairBytes x v))) b n true
    y = { x with trough := y.trough, bin := y.bin, manger := y.manger, tFlags := y.tFlags, bFlags := y.bFlags } ∧
      flagOf y b n = true ∧ (∀ c m, c < 2 → ¬ (c = b ∧ m = n) → flagOf y c m = flagOf x c m) ∧
      ∀ c o, c < 3 → byteOf y c o =
        if c = b ∧ 512 * n ≤ o ∧ o < 512 * n + (pairBytes x v).length then some ((pairBytes x v).getD (o - 512 * n) 0)
        else byteOf x c o := by
  generalize pairBytes x v = bs
  have hflag (c m : Nat) (hc : c < 2) := flagOf_setFlag (setSram x b (sramPut (sramOf x b) (512 * n) bs)) hb hc n m true
  have hsame (c m : Nat) : flagOf (setSram x b (sramPut (sramOf x b) (512 * n) bs)) c m = flagOf x c m := by
    rw [setSram_fields]
    rfl
  refine ⟨?_, (hflag b n hb).trans (if_pos ⟨rfl, rfl⟩), fun c m hc hcm => ?_, fun c o hc => ?_⟩
  · rw [setFlag_fields, setSram_fields]
  · exact (hflag c m hc).trans ((if_neg hcm).trans (hsame c m))
  · refine Eq.trans ?_ (byteOf_sramPut x (by omega : b < 3) hc (512 * n) bs o)
    rw [setFlag_fields]
    rfl

theorem length_pairBytes (x : Stall) (n : Nat) : (pairBytes x n).length = 512 := by
  unfold pairBytes
  rw [List.length_flatMap]
  have htoLe : ∀ k v, (toLe k v).length = k := by
    intro k
    induction k with
    | zero => exact fun _ => rfl
    | succ k ih => exact fun v => congrArg (· + 1) (ih _)
  simp [htoLe]

/-- SLOT_RANGE (R171, R194). -/
theorem slotInstructions_range : ∀ p : (Nat → Instr) × Nat × (Ins → Option Form) × (Ins → Nat),
    p ∈ [(Instr.ldW, 0x40, formLdW, fun _ => 1), (Instr.stF, 0x41, formStF, fun _ => 1),
      (Instr.slotSet, 0x42, formSlot, slotRun), (Instr.slotClr, 0x43, formSlot, slotRun)] →
    ∀ n, Runs p.1 p.2.1 p.2.2.1
      (fun d st i => n = slotNum i (stallOf d st) ∧ slotCount (slotBuf i) < n + p.2.2.2 i)
      (fun d st i => StopsAt st 0x06 (max n (slotCount (slotBuf i)) % 2 ^ 32) d) := by
  intro p hp n
  simp only [List.mem_cons, List.not_mem_nil, or_false] at hp
  rcases hp with rfl | rfl | rfl | rfl
  all_goals
    refine runs_fault (detail := fun _ _ i => max n (slotCount (slotBuf i)) % 2 ^ 32) (fun _ _ => rfl) ?_
    rintro d st i _ ⟨rfl, hrange⟩
    exact withSlots_range hrange _

/-- The stall whose slot has been emptied and filled again by the PUT.F that waited at it. -/
def refilled (x : Stall) (b n id off : Nat) (bs : List Byte) : Stall :=
  setFlag (setSram (vacated x b n id) b (sramPut (sramOf (vacated x b n id) b) off bs)) b n true

theorem vacated_fields (x : Stall) (b n id : Nat) : vacated x b n id =
    { x with tFlags := (vacated x b n id).tFlags, bFlags := (vacated x b n id).bFlags, hold := []
             jammed := (vacated x b n id).jammed } := by
  unfold vacated
  rw [setFlag_fields]

theorem refilled_fields (x : Stall) (b n id off : Nat) (bs : List Byte) :
    let y := refilled x b n id off bs
    y = { x with trough := y.trough, bin := y.bin, manger := y.manger, tFlags := y.tFlags, bFlags := y.bFlags
                 hold := [], jammed := y.jammed } := by
  unfold refilled
  rw [setFlag_fields, setSram_fields, vacated_fields]

theorem flagOf_refilled (x : Stall) {b c : Nat} (hb : b < 2) (hc : c < 2) (n id off m : Nat) (bs : List Byte) :
    flagOf (refilled x b n id off bs) c m = if c = b ∧ m = n then true else flagOf x c m := by
  refine (flagOf_setFlag _ hb hc n m true).trans ?_
  by_cases h : c = b ∧ m = n
  · rw [if_pos h, if_pos h]
  · rw [if_neg h, if_neg h, setSram_fields]
    exact (flagOf_setFlag x hb hc n m false).trans (if_neg h)

theorem byteOf_refilled (x : Stall) {b c : Nat} (hb : b < 2) (hc : c < 3) (n id off o : Nat) (bs : List Byte) :
    byteOf (refilled x b n id off bs) c o =
      if c = b ∧ off ≤ o ∧ o < off + bs.length then some (bs.getD (o - off) 0) else byteOf x c o := by
  have hflags : byteOf (refilled x b n id off bs) c o =
      byteOf (setSram (vacated x b n id) b (sramPut (sramOf (vacated x b n id) b) off bs)) c o := by
    unfold refilled
    rw [setFlag_fields]
    rfl
  rw [hflags, byteOf_sramPut _ (by omega) hc, vacated_fields]
  rfl

/-- What an LD.W or SLOT.CLR leaves that empties a slot at which a PUT.F waits, its load done (R215). -/
theorem issued_go_wakes {d e : Dev} {st b n id pc : Nat} {o : RemOp} (hb : b < 2) (hn : n < slotCount b)
    (hload : ∃ z v, stallOf e st = { readFound (stallOf d st) z with vreg := v })
    (hflag : flagOf (stallOf d st) b n = true) (hhold : (stallOf d st).hold = [id]) (hw : WaitsAtSlot e st b n id o) :
    let r := issued (fetchTouch d st) st pc (.go (clearFlag st b e n) none)
    let t := { r with draws := r.draws + 1 }
    let x := stallOf d st
    let y := stallOf t st
    flagOf y b n = true ∧ y.hold = [] ∧ Performed id o [] t ∧ y.pc = pc + 1 ∧ y.held = none ∧
      (∀ k, k < o.op.data.length → byteOf y b (gOff o.op.addr + k) = some (o.op.data.getD k 0)) ∧
      BytesBut b (gOff o.op.addr) o.op.data.length x y ∧
      (∀ c m, c < 2 → ¬ (c = b ∧ m = n) → flagOf y c m = flagOf x c m) ∧ y.sreg = x.sreg ∧ y.preg = x.preg ∧
      ∀ v k, vLane y v k = vLane (stallOf e st) v k := by
  obtain ⟨z, v, hz⟩ := hload
  obtain ⟨hdone, hst⟩ := clearFlag_wakes hb hn (by rw [hz]; exact hflag) (by rw [hz]; exact hhold) hw
  have hy : stallOf { issued (fetchTouch d st) st pc (.go (clearFlag st b e n) none) with
      draws := (issued (fetchTouch d st) st pc (.go (clearFlag st b e n) none)).draws + 1 } st =
      { refilled (stallOf e st) b n id (gOff o.op.addr) o.op.data with held := none, pc := pc + 1 } := by
    refine Eq.trans ?_ (congrArg (fun y : Stall => { y with held := none, pc := pc + 1 }) hst)
    show stallOf (advance (clearFlag st b e n) st _) st = _
    simp only [advance, stallOf_modStall_self, Option.getD_none]
  have hflags (c m : Nat) (hc : c < 2) := flagOf_refilled (stallOf e st) hb hc n id (gOff o.op.addr) m o.op.data
  have hbytes (c p : Nat) (hc : c < 3) := byteOf_refilled (stallOf e st) hb hc n id (gOff o.op.addr) p o.op.data
  have hfields := refilled_fields (stallOf e st) b n id (gOff o.op.addr) o.op.data
  dsimp only at hfields ⊢
  rw [hy]
  generalize refilled (stallOf e st) b n id (gOff o.op.addr) o.op.data = y at *
  have hsame (c p : Nat) : byteOf (stallOf e st) c p = byteOf (stallOf d st) c p := by
    rw [hz]
    exact byteOf_readFound ..
  refine ⟨(hflags b n hb).trans (if_pos ⟨rfl, rfl⟩), congrArg Stall.hold hfields, hdone, rfl, rfl, fun k hk => ?_,
    fun c p hc hp => ?_, fun c m hc hcm => (hflags c m hc).trans ((if_neg hcm).trans (by rw [hz]; rfl)), ?_, ?_,
    fun v k => ?_⟩
  · refine (hbytes b _ (by omega)).trans ?_
    rw [if_pos ⟨rfl, by omega, by omega⟩, Nat.add_sub_cancel_left]
  · exact (hbytes c p hc).trans ((if_neg hp).trans (hsame c p))
  · refine (congrArg Stall.sreg hfields).trans ?_
    rw [hz]
    rfl
  · refine (congrArg Stall.preg hfields).trans ?_
    rw [hz]
    rfl
  · show mget 0 y.vreg _ = _
    rw [congrArg Stall.vreg hfields]
    rfl

/-- Settles O11. -/
theorem slotInstructionsWaitAndTransfer : Obligations.SlotInstructionsWaitAndTransfer := by
  refine ⟨fun b n => ⟨?_, ?_, ?_, ?_⟩, ⟨fun b n => ?_, fun b n => ?_, slotInstructions_range⟩, fun b n id o p hp => ?_⟩
  · refine runs_issue (fun _ _ => rfl) ?_
    rintro d st i r _ ⟨rfl, rfl, hslots, hflag, hhold⟩ hr
    exact ldW_full d st i r hslots hflag hhold hr
  · refine runs_inStall (fun _ _ => rfl) ?_
    rintro d st i _ ⟨rfl, rfl, hslots, hflag⟩
    have hgo : stFIssue st i (stallOf d st) (fetchTouch d st) = _ :=
      (withSlots_ok hslots _).trans (if_neg (by rw [hflag]; exact Bool.noConfusion))
    refine ⟨_, hgo, ?_, fun t hother hst => ?_⟩
    · exact (InStall.modStall ⟨rfl, fun _ _ => rfl⟩ _).modStall _
    · obtain ⟨hfields, hset, hflags, hbytes⟩ := stF_spec (stallOf d st) (slotBuf_lt i) (slotNum i (stallOf d st)) i.b
      rw [stallOf_modStall_self, sramWrite, stallOf_modStall_self, fetchTouch_stallOf] at hst
      rw [length_pairBytes] at hbytes
      dsimp only at hfields ⊢
      rw [hst]
      refine ⟨hother, by rw [hfields]; rfl, hset, hflags, fun k hk => ?_, fun c p hc hout => ?_⟩
      · refine (hbytes _ _ (by have := slotBuf_lt i; omega)).trans ?_
        rw [if_pos ⟨rfl, by omega, by omega⟩, Nat.add_sub_cancel_left]
      · exact (hbytes c p hc).trans (if_neg hout)
  · refine runs_inStall (fun _ _ => rfl) ?_
    rintro d st i _ ⟨rfl, rfl, hslots⟩
    refine ⟨_, withSlots_ok hslots _, InStall.modStall ⟨rfl, fun _ _ => rfl⟩ _, fun t hother hst => ?_⟩
    obtain ⟨hfields, hflags⟩ :=
      setFlags_spec (slotBuf i) (slotNum i (stallOf d st)) (slotBuf_lt i) true (slotRun i) (stallOf d st)
    rw [stallOf_modStall_self, fetchTouch_stallOf] at hst
    dsimp only at hfields ⊢
    rw [hst]
    exact ⟨hother, by rw [hfields]; rfl, hflags⟩
  · refine runs_inStall (fun _ _ => rfl) ?_
    rintro d st i _ ⟨rfl, rfl, hslots, hhold⟩
    obtain ⟨hin, hfields, hflags⟩ := clearFlags_spec (slotBuf_lt i) (slotNum i (stallOf d st))
      (by rw [fetchTouch_stallOf]; exact hhold : (stallOf (fetchTouch d st) st).hold = []) (slotRun i)
    refine ⟨_, withSlots_ok hslots _, hin, fun t hother hst => ?_⟩
    rw [fetchTouch_stallOf] at hfields
    simp only [fetchTouch_stallOf] at hflags
    rw [hst]
    exact ⟨hother, by rw [hfields]; rfl, hflags⟩
  · refine runs_wait (fun _ _ => rfl) ?_
    rintro d st i _ ⟨rfl, rfl, hslots, hflag⟩
    exact (withSlots_ok hslots _).trans (if_pos hflag)
  · refine runs_wait (fun _ _ => rfl) ?_
    rintro d st i _ ⟨rfl, rfl, hslots, hflag⟩
    exact (withSlots_ok hslots _).trans (if_pos hflag)
  · simp only [List.mem_cons, List.not_mem_nil, or_false] at hp
    rcases hp with rfl | rfl
    · refine runs_issue (fun _ _ => rfl) ?_
      rintro d st i r _ ⟨rfl, rfl, -, hkeep, hslots, hflag, hhold, hw⟩ rfl
      have hkeep' : ¬ bitAt i.mod 1 = true := fun h => by simp [h] at hkeep
      obtain ⟨hframe, -, ⟨z, w, hz⟩, hlanes⟩ :=
        loadSlot_spec (fetchTouch d st) st i (slotBuf_lt i) (slotNum i (stallOf d st))
      rw [fetchTouch_stallOf] at hz
      simp only [fetchTouch_stallOf, sramRead_fetchTouch] at hlanes
      obtain ⟨hset, hempty, hdone, hpc, hheld, hin, hout, hflags, hs, hp, hv⟩ :=
        issued_go_wakes (pc := (stallOf d st).pc) (slotBuf_lt i) hslots.1 ⟨z, w, hz⟩ hflag hhold 
          (hw.of_ops (hframe.ops.trans (fetchTouch_ops d st)))
      dsimp only
      rw [ldWIssue_full hslots hflag, if_neg hkeep']
      refine ⟨hset, hempty, hdone, hpc, hheld, hin, hout, hflags, hs, hp, fun v k hk => ?_⟩
      refine (hv v k).trans ((hlanes v k hk).trans ?_)
      simp
    · refine runs_issue (fun _ _ => rfl) ?_
      rintro d st i r _ ⟨rfl, rfl, hrun, -, hslots, hflag, hhold, hw⟩ rfl
      have hrun' : slotRun i = 1 := hrun
      have hgo : slotClrIssue st i (stallOf d st) (fetchTouch d st) =
          .go (clearFlag st (slotBuf i) (fetchTouch d st) (slotNum i (stallOf d st))) none := by
        refine (withSlots_ok (hrun' ▸ hslots) _).trans ?_
        rw [hrun']
        rfl
      obtain ⟨hset, hempty, hdone, hpc, hheld, hin, hout, hflags, hs, hp, hv⟩ :=
        issued_go_wakes (d := d) (e := fetchTouch d st) (pc := (stallOf d st).pc) (slotBuf_lt i) hslots.1
          ⟨stallOf d st, (stallOf d st).vreg, fetchTouch_stallOf ..⟩ hflag hhold (hw.of_ops (fetchTouch_ops d st))
      dsimp only
      rw [hgo]
      refine ⟨hset, hempty, hdone, hpc, hheld, hin, hout, hflags, hs, hp, fun v k hk => ?_⟩
      refine (hv v k).trans ?_
      simp

end Sys2Proof.Machine
end


section
/-! The remote instructions, the fences and WAITC (O12 to O14). -/

namespace Sys2Proof.Machine

open Sys2Proof

/-! ### The counters that messages and events touch (R14, R449) -/

theorem sendPacket_ctr (d : Dev) (p : Nat) (b : PacketBody) : (sendPacket d p b).ctr = d.ctr := by
  unfold sendPacket
  dsimp only
  split <;> rfl

theorem sendTo_ctr (d : Dev) (m st a : Nat) (b : PacketBody) : (sendTo d m st a b).ctr = d.ctr := by
  unfold sendTo
  split
  · rfl
  · exact sendPacket_ctr ..
  · exact sendPacket_ctr ..

theorem foldl_ctr {α : Type} {f : Dev → α → Dev} (hf : ∀ d a, (f d a).ctr = d.ctr) :
    ∀ (l : List α) (d : Dev), (l.foldl f d).ctr = d.ctr
  | [], _ => rfl
  | a :: l, d => (foldl_ctr hf l (f d a)).trans (hf d a)

theorem sendWhole_ctr (d : Dev) (dst : Nat) (x : Message) {f : Dev → PacketBody → Dev} (hf : ∀ d b, (f d b).ctr = d.ctr) :
    (sendWhole d dst x f).ctr = d.ctr := by
  unfold sendWhole
  refine (foldl_ctr hf _ _).trans ?_
  split <;> rfl

theorem sendMsg_ctr (d : Dev) (m : Nat) (x : Message) : (sendMsg d m x).ctr = d.ctr :=
  sendWhole_ctr _ _ _ fun _ _ => sendTo_ctr ..

theorem sendTwin_ctr (d : Dev) (x : Message) : (sendTwin d x).ctr = d.ctr := by
  unfold sendTwin
  split
  · exact sendWhole_ctr _ _ _ fun _ _ => sendPacket_ctr ..
  · rfl

/-- An event counts at most the events dropped (R449). -/
theorem ctrOf_raiseEvent (d : Dev) (fn cls code a b : Nat) {o : Nat} (ho : o ≠ 0xB8) :
    ctrOf (raiseEvent d fn cls code a b) o = ctrOf d o := by
  have hbump (d : Dev) : ctrOf (bump d 0xB8) o = ctrOf d o := (ctrOf_bumpBy ..).trans (if_neg ho)
  have hring (e : Event) (p : Dev × List (Nat × Nat)) (r : Nat) : ctrOf (eventToRing e p r).1 o = ctrOf p.1 o := by
    unfold eventToRing
    split
    · rfl
    · split
      · exact hbump _
      · split
        · rfl
        · unfold sendMsix
          dsimp only
          split <;> rfl
  have hrings (e : Event) : ∀ (l : List Nat) (p : Dev × List (Nat × Nat)),
      ctrOf (l.foldl (eventToRing e) p).1 o = ctrOf p.1 o := by
    intro l
    induction l with
    | nil => exact fun _ => rfl
    | cons r l ih => exact fun p => (ih _).trans (hring e p r)
  have hwrite (d : Dev) (cls : Nat) (e : Event) : ctrOf (writeEvent d cls e).1 o = ctrOf d o := by
    unfold writeEvent
    dsimp only
    generalize takers d _ cls = ts
    split
    · exact hbump d
    · exact hrings e ts (d, [])
  have hpass (d : Dev) (cls : Nat) (e : Event) : ctrOf (passEvent d cls e).1 o = ctrOf d o := by
    unfold passEvent
    split
    · split
      · exact hbump d
      · exact congrArg (mget 0 · o) (sendMsg_ctr ..)
    · exact hwrite d cls e
  have hone (d : Dev) (q : Raised) : ctrOf (raiseOne d q).1 o = ctrOf d o := by
    unfold raiseOne
    refine (hpass _ _ _).trans ?_
    split <;> rfl
  have hall : ∀ (n : Nat) (d : Dev) (l : List Raised), ctrOf (raiseAll n d l) o = ctrOf d o := by
    intro n
    induction n with
    | zero => exact fun _ _ => rfl
    | succ n ih =>
      intro d l
      cases l with
      | nil => rfl
      | cons q l => exact (ih _ _).trans (hone d q)
  exact hall ..

theorem foldl_ctrOf {α : Type} {f : Dev → α → Dev} {o : Nat} (hf : ∀ d a, ctrOf (f d a) o = ctrOf d o) :
    ∀ (l : List α) (d : Dev), ctrOf (l.foldl f d) o = ctrOf d o
  | [], _ => rfl
  | a :: l, d => (foldl_ctrOf hf l (f d a)).trans (hf d a)

theorem ctrOf_sramFailing (d : Dev) (st buf line : Nat) (holds : Bool) {o : Nat} (ho : o ≠ 0xB8) :
    ctrOf (sramFailing d st buf line holds) o = ctrOf d o := by
  unfold sramFailing
  dsimp only
  split
  · rfl
  · split
    · rfl
    · exact ctrOf_raiseEvent _ _ _ _ _ _ ho

/-- A read of a buffer counts corrected and uncorrectable bytes, and events dropped. -/
theorem ctrOf_sramTouch (d : Dev) (st buf off n : Nat) {o : Nat} (ho : o ≠ 0xB8) (hce : o ≠ stallReg st 0x68)
    (hue : o ≠ stallReg st 0x70) : ctrOf (sramTouch d st buf off n) o = ctrOf d o := by
  unfold sramTouch
  dsimp only
  refine (foldl_ctrOf (fun _ l => ctrOf_sramFailing _ st buf l false ho) _ _).trans ?_
  refine (foldl_ctrOf (fun e p => ?_) _ _).trans ?_
  · refine (ctrOf_raiseEvent _ _ _ _ _ _ ho).trans ?_
    exact (ctrOf_bumpBy ..).trans (if_neg hue)
  · split
    · rfl
    · exact (ctrOf_bumpBy ..).trans (if_neg hce)

/-- Two counters of one stall are two counters. -/
theorem stallReg_ne {st a b : Nat} (h : a ≠ b) : stallReg st a ≠ stallReg st b := by
  unfold stallReg
  omega

theorem stallReg_ne_dropped (st a : Nat) : stallReg st a ≠ 0xB8 := by
  unfold stallReg
  omega

/-! ### Launching an operation (R49, R61) -/

/-- Violations counted at a stall (R46). -/
def violations (d : Dev) (st : Nat) : W32 := ctrOf d (stallReg st 0x18)

/-- Nothing or a read of a buffer follows the launch of an operation. -/
def ReadsAfter (st : Nat) (d e : Dev) : Prop := ReadsOf st d e ∧ violations e st = violations d st

/-- What a launch leaves beside the operations. -/
def LaunchFrame (d e : Dev) : Prop :=
  e.mem = d.mem ∧ e.banks = d.banks ∧ e.attn = d.attn ∧ e.nextId = d.nextId + 1 ∧ e.stalls = d.stalls

theorem reports_sendRequest (d : Dev) (o : NetOp) : Reports d (sendRequest d o) :=
  reports_foldl (fun _ _ => reports_sendTo ..) _ _

/-- An operation that has a home is on its way. -/
theorem launch_home {d : Dev} {st : Nat} {i : Ins} {k : RemKind} {addr : W64} {data : List Byte} {len tctr dest : Nat}
    (h : HasHome d k addr len) :
    let e := launch d st (netOp k addr data len tctr) dest (insCtr i)
    e.ops = d.ops ++ [opSent d st i k addr data len tctr dest] ∧ LaunchFrame d e := by
  obtain ⟨hviol, hreach⟩ := h
  have hnear : (!holdsIndex d (gModule addr) && (usablePorts d (gModule addr)).isEmpty) = false := by
    rcases hreach with hhere | hports
    · simp [hhere]
    · simp [hports]
  unfold launch
  dsimp only [netOp]
  rw [hviol, hnear]
  simp only [Bool.or_self, Bool.false_eq_true, if_false]
  split
  · exact ⟨rfl, rfl, rfl, rfl, rfl, rfl⟩
  · obtain ⟨hstalls, -, hbanks, hmem, hops, hattn, -, -, -, hid, -⟩ :=
      (reports_sendRequest { d with ops := d.ops ++ [opSent d st i k addr data len tctr dest], nextId := d.nextId + 1 }
        (opSent d st i k addr data len tctr dest).op).machine
    exact ⟨hops, hmem, hbanks, hattn, hid, hstalls⟩

/-- The operation that a stall has completed at once as a violation (R45). -/
def opFailed (d : Dev) (st : Nat) (i : Ins) (k : RemKind) (addr : W64) (data : List Byte) (len tctr dest : Nat) : RemOp :=
  { opSent d st i k addr data len tctr dest with
    dead := true, phase := .performed
    back := List.replicate (if k = .get then len else if isFadd k then elemSize k else 0) 0 }

/-- An operation without a home is complete at once, and counted. -/
theorem launch_fails {d : Dev} {st : Nat} {i : Ins} {k : RemKind} {addr : W64} {data : List Byte} {len tctr dest : Nat}
    (h : ¬ HasHome d k addr len) :
    let e := launch d st (netOp k addr data len tctr) dest (insCtr i)
    opFailed d st i k addr data len tctr dest ∈ e.ops ∧ violations e st = satAdd (violations d st) 1 ∧ LaunchFrame d e := by
  have hbad : (issueViolation d k addr len || (!holdsIndex d (gModule addr) && (usablePorts d (gModule addr)).isEmpty)) = true := by
    by_contra hne
    rw [Bool.not_eq_true, Bool.or_eq_false_iff] at hne
    refine h ⟨hne.1, ?_⟩
    by_cases hhere : holdsIndex d (gModule addr) = true
    · exact .inl hhere
    · have hports := hne.2
      simp only [hhere, Bool.not_false, Bool.true_and] at hports
      exact .inr fun hnil => by simp [hnil] at hports
  unfold launch
  dsimp only [netOp]
  rw [hbad, if_pos rfl]
  refine ⟨?_, ?_, rfl, rfl, rfl, rfl, rfl⟩
  · refine List.mem_map.mpr ⟨_, List.mem_append_right _ (List.mem_singleton.mpr rfl), if_pos rfl⟩
  · exact (ctrOf_bumpBy ..).trans (if_pos rfl)

/-! ### The issue of a remote operation -/

theorem hasHome_fetchTouch (d : Dev) (st : Nat) (k : RemKind) (addr : W64) (len : Nat) :
    HasHome (fetchTouch d st) k addr len ↔ HasHome d k addr len := by
  rw [fetchTouch_eq]
  rfl

theorem remoteOp_go {d : Dev} {st : Nat} (h : MaySend d st) (o : NetOp) (dest : Nat) (ctr : Option Nat) :
    remoteOp (fetchTouch d st) st o dest ctr = .go (launch (fetchTouch d st) st o dest ctr) none := by
  obtain ⟨hpend, hlen⟩ := h
  have hpend' : accessesPending (fetchTouch d st) st = false := by
    rw [fetchTouch_eq]
    exact hpend
  have hlen' : ¬ 64 ≤ (opsOf (fetchTouch d st) st).length := by
    rw [fetchTouch_eq]
    exact Nat.not_le.mpr hlen
  unfold remoteOp
  rw [hpend', if_neg Bool.noConfusion, if_neg hlen']

/-- What is left beside the operations once the instruction has moved on. -/
theorem sendsFrame_advance {d e f : Dev} {st n : Nat} (hframe : LaunchFrame (fetchTouch d st) e) (hreads : ReadsOf st e f) :
    SendsFrame st d { advance f st ((stallOf d st).pc + 1) with draws := n } := by
  obtain ⟨hmem, hbanks, hattn, hid, hstalls⟩ := hframe
  obtain ⟨hrep, hother, z, hz⟩ := hreads
  have hstall (k : Nat) : stallOf e k = stallOf d k := (stallOf_congr hstalls k).trans (fetchTouch_stallOf ..)
  rw [fetchTouch_eq] at hmem hbanks hattn hid
  rw [hstall] at hz
  unfold ReportsOfStalls at hrep
  refine ⟨?_, ?_, ?_, ?_, fun j hj => ?_, ?_⟩
  · show f.mem = _
    rw [hrep]
    exact hmem
  · show f.banks = _
    rw [hrep]
    exact hbanks
  · show f.attn = _
    rw [hrep]
    exact hattn
  · show f.nextId = _
    rw [hrep]
    exact hid
  · show stallOf (advance f st _) j = _
    rw [advance, stallOf_modStall_ne _ _ hj, hother j hj, hstall]
  · show ReadMoves _ _ (stallOf (advance f st _) st)
    rw [advance, stallOf_modStall_self, hz]
    rfl

/-- An instruction that launches an operation which has a home. -/
theorem runs_send {mk : Nat → Instr} {name : String} {op : Nat} {frm : Ins → Option Form}
    {f : Nat → Ins → Stall → Dev → Issue} {pre : Dev → Nat → Ins → Prop} {k : RemKind} {addr : Ins → Stall → W64}
    {data : Dev → Nat → Ins → List Byte} {len tctr dest : Ins → Nat}
    (hexec : ∀ st s, exec (mk st) s = issue name op frm st (f st) s)
    (hgo : ∀ d st i, pre d st i → HasHome d k (addr i (stallOf d st)) (len i) ∧
      ∃ e, f st i (stallOf d st) (fetchTouch d st) = .go e none ∧ ReadsAfter st (launch (fetchTouch d st) st
        (netOp k (addr i (stallOf d st)) (data d st i) (len i) (tctr i)) (dest i) (insCtr i)) e) :
    Runs mk op frm pre (fun d st i => SendsOp st i k (addr i (stallOf d st)) (data d st i) (len i) (tctr i) (dest i) d) := by
  refine runs_issue hexec ?_
  rintro d st i r - hp rfl
  obtain ⟨hhome, e, he, hreads, -⟩ := hgo d st i hp
  obtain ⟨hops, hframe⟩ := launch_home (i := i) (st := st) (data := data d st i) (tctr := tctr i) (dest := dest i)
    ((hasHome_fetchTouch d st ..).mpr hhome)
  rw [he]
  refine ⟨?_, sendsFrame_advance hframe hreads⟩
  show e.ops = _
  rw [hreads.1.ops, hops, opSent, fetchTouch_eq]
  rfl

/-- An instruction that launches an operation which has none. -/
theorem runs_fail {mk : Nat → Instr} {name : String} {op : Nat} {frm : Ins → Option Form}
    {f : Nat → Ins → Stall → Dev → Issue} {pre : Dev → Nat → Ins → Prop} {k : RemKind} {addr : Ins → Stall → W64}
    {data : Dev → Nat → Ins → List Byte} {len tctr dest : Ins → Nat}
    (hexec : ∀ st s, exec (mk st) s = issue name op frm st (f st) s)
    (hgo : ∀ d st i, pre d st i → ¬ HasHome d k (addr i (stallOf d st)) (len i) ∧
      ∃ e, f st i (stallOf d st) (fetchTouch d st) = .go e none ∧ ReadsAfter st (launch (fetchTouch d st) st
        (netOp k (addr i (stallOf d st)) (data d st i) (len i) (tctr i)) (dest i) (insCtr i)) e) :
    Runs mk op frm pre (fun d st i => FailsOp st i k (len i) d) := by
  refine runs_issue hexec ?_
  rintro d st i r - hp rfl
  obtain ⟨hhome, e, he, hreads, hviol⟩ := hgo d st i hp
  obtain ⟨hmem, hcount, hframe⟩ := launch_fails (i := i) (st := st) (data := data d st i) (tctr := tctr i) (dest := dest i)
    (mt (hasHome_fetchTouch d st ..).mp hhome)
  rw [he]
  refine ⟨⟨opFailed (fetchTouch d st) st i k (addr i (stallOf d st)) (data d st i) (len i) (tctr i) (dest i), ?_, ?_⟩,
    ?_, sendsFrame_advance hframe hreads⟩
  · show _ ∈ e.ops
    rw [hreads.1.ops]
    exact hmem
  · refine ⟨?_, rfl, rfl, rfl, rfl, rfl⟩
    show (fetchTouch d st).nextId = _
    rw [fetchTouch_eq]
  · refine hviol.trans (hcount.trans ?_)
    rw [violations, fetchTouch_ctrOf _ _ (stallReg_ne (by decide))]

/-! ### Each instruction (O12, O13) -/

theorem ReadsAfter.refl (st : Nat) (d : Dev) : ReadsAfter st d d := ⟨.refl st d, rfl⟩

/-- PUT, PUT.S with data and PUT.F read their source and launch. -/
theorem putIssue_go {k : RemKind} {d : Dev} {st : Nat} {i : Ins} {buf off tctr : Nat} (hsend : MaySend d st)
    (hlocal : LocalOk d st (sGet (stallOf d st) i.a) (remLen i) 1 buf off)
    (htctr : tctr = if k = .putS then bitsOf i.imm 24 21 else 0) (hdata : ¬ (k = .putS ∧ bitAt i.imm 25 = true)) :
    ∃ e, putIssue k st i (stallOf d st) (fetchTouch d st) = .go e none ∧
      ReadsAfter st (launch (fetchTouch d st) st (netOp k (target i (stallOf d st)) (sramRead d st buf off (remLen i))
        (remLen i) tctr) 0 (insCtr i)) e := by
  subst htctr
  refine ⟨_, ?_, readsOf_sramTouch _ st off (remLen i) (buf_lt_of_localRange hlocal.1),
    ctrOf_sramTouch _ st buf off (remLen i) (stallReg_ne_dropped st _) (stallReg_ne (by decide)) (stallReg_ne (by decide))⟩
  unfold putIssue
  dsimp only
  rw [if_neg hdata, withLocal_ok hlocal, remoteOp_go hsend, sramRead_fetchTouch]

/-- PUT.S without data. -/
theorem putIssue_bare {d : Dev} {st : Nat} {i : Ins} (hsend : MaySend d st) (hbare : bitAt i.imm 25 = true) :
    ∃ e, putIssue .putS st i (stallOf d st) (fetchTouch d st) = .go e none ∧
      ReadsAfter st (launch (fetchTouch d st) st (netOp .putS (target i (stallOf d st)) [] 0 (bitsOf i.imm 24 21)) 0
        (insCtr i)) e := by
  refine ⟨_, ?_, .refl ..⟩
  unfold putIssue
  dsimp only
  rw [if_pos ⟨rfl, hbare⟩, remoteOp_go hsend, if_pos rfl]

theorem getIssue_go {d : Dev} {st : Nat} {i : Ins} {buf off : Nat} (hsend : MaySend d st)
    (hlocal : LocalOk d st (sGet (stallOf d st) i.a) (remLen i) 1 buf off) :
    ∃ e, getIssue st i (stallOf d st) (fetchTouch d st) = .go e none ∧
      ReadsAfter st (launch (fetchTouch d st) st (netOp .get (target i (stallOf d st)) [] (remLen i) 0)
        (buf * 2 ^ 18 + off) (insCtr i)) e := by
  refine ⟨_, ?_, .refl ..⟩
  unfold getIssue
  rw [withLocal_ok hlocal, remoteOp_go hsend]

/-- The addends of an AADD (R175). -/
def addends (k : RemKind) (i : Ins) (x : Stall) : List Byte :=
  (List.range (bitsOf i.imm 5 0 + 1)).flatMap fun j => toLe (elemSize k) (vLane x i.a j).toNat

theorem aaddIssue_go {k : RemKind} {d : Dev} {st : Nat} {i : Ins} (hsend : MaySend d st) :
    ∃ e, aaddIssue k st i (stallOf d st) (fetchTouch d st) = .go e none ∧
      ReadsAfter st (launch (fetchTouch d st) st (netOp k (target i (stallOf d st)) (addends k i (stallOf d st))
        (elemSize k * (bitsOf i.imm 5 0 + 1)) 0) 0 (insCtr i)) e :=
  ⟨_, remoteOp_go hsend .., .refl ..⟩

theorem faddIssue_go {k : RemKind} {d : Dev} {st : Nat} {i : Ins} (hsend : MaySend d st) :
    ∃ e, faddIssue k st i (stallOf d st) (fetchTouch d st) = .go e none ∧
      ReadsAfter st (launch (fetchTouch d st) st (netOp k (aGet (stallOf d st) i.a)
        (toLe (elemSize k) (sGet (stallOf d st) i.b).toNat) (elemSize k) 0) i.d (insCtr i)) e :=
  ⟨_, remoteOp_go hsend .., .refl ..⟩

/-- An AADD whose target has a home. -/
theorem runs_aadd {mk : Nat → Instr} {name : String} {op : Nat} {frm : Ins → Option Form} {k : RemKind}
    {pre : Dev → Nat → Ins → Prop} (hexec : ∀ st s, exec (mk st) s = issue name op frm st (aaddIssue k st) s)
    (hpre : ∀ d st i, pre d st i →
      MaySend d st ∧ HasHome d k (target i (stallOf d st)) (elemSize k * (bitsOf i.imm 5 0 + 1))) :
    Runs mk op frm pre (fun d st i => SendsOp st i k (target i (stallOf d st)) (addends k i (stallOf d st))
      (elemSize k * (bitsOf i.imm 5 0 + 1)) 0 0 d) :=
  runs_send (data := fun d st i => addends k i (stallOf d st)) (len := fun i => elemSize k * (bitsOf i.imm 5 0 + 1))
    (tctr := fun _ => 0) (dest := fun _ => 0) hexec fun d st i hp => ⟨(hpre d st i hp).2, aaddIssue_go (hpre d st i hp).1⟩

/-- A FADD whose target has a home. -/
theorem runs_fadd {mk : Nat → Instr} {name : String} {op : Nat} {frm : Ins → Option Form} {k : RemKind}
    {pre : Dev → Nat → Ins → Prop} (hexec : ∀ st s, exec (mk st) s = issue name op frm st (faddIssue k st) s)
    (hpre : ∀ d st i, pre d st i → MaySend d st ∧ HasHome d k (aGet (stallOf d st) i.a) (elemSize k)) :
    Runs mk op frm pre (fun d st i => SendsOp st i k (aGet (stallOf d st) i.a)
      (toLe (elemSize k) (sGet (stallOf d st) i.b).toNat) (elemSize k) 0 i.d d) :=
  runs_send (addr := fun i x => aGet x i.a) (data := fun d st i => toLe (elemSize k) (sGet (stallOf d st) i.b).toNat)
    (len := fun _ => elemSize k) (tctr := fun _ => 0) (dest := fun i => i.d) hexec fun d st i hp =>
      ⟨(hpre d st i hp).2, faddIssue_go (hpre d st i hp).1⟩

/-- Settles O12. -/
theorem remoteInstructionsSend : Obligations.RemoteInstructionsSend := by
  refine ⟨fun buf off p hp => ?_, fun buf off => ?_, ?_, fun buf off => ?_, fun p hp => ?_, fun p hp => ?_⟩
  · simp only [List.mem_cons, List.not_mem_nil, or_false] at hp
    rcases hp with rfl | rfl
    · exact runs_send (addr := target) (data := fun d st i => sramRead d st buf off (remLen i)) (len := remLen)
        (tctr := fun _ => 0) (dest := fun _ => 0) (fun _ _ => rfl) fun d st i hp =>
          ⟨hp.2.2, putIssue_go hp.1 hp.2.1 rfl nofun⟩
    · exact runs_send (addr := target) (data := fun d st i => sramRead d st buf off (remLen i)) (len := remLen)
        (tctr := fun _ => 0) (dest := fun _ => 0) (fun _ _ => rfl) fun d st i hp =>
          ⟨hp.2.2, putIssue_go hp.1 hp.2.1 rfl nofun⟩
  · refine runs_send (addr := target) (data := fun d st i => sramRead d st buf off (remLen i)) (len := remLen)
      (tctr := fun i => bitsOf i.imm 24 21) (dest := fun _ => 0) (fun _ _ => rfl) ?_
    rintro d st i ⟨hdata, hsend, hlocal, hhome⟩
    exact ⟨hhome, putIssue_go hsend hlocal rfl fun h => Bool.noConfusion (hdata.symm.trans h.2)⟩
  · refine runs_send (addr := target) (data := fun _ _ _ => []) (len := fun _ => 0)
      (tctr := fun i => bitsOf i.imm 24 21) (dest := fun _ => 0) (fun _ _ => rfl) ?_
    rintro d st i ⟨hbare, hsend, hhome⟩
    exact ⟨hhome, putIssue_bare hsend hbare⟩
  · refine runs_send (addr := target) (data := fun _ _ _ => []) (len := remLen) (tctr := fun _ => 0)
      (dest := fun _ => buf * 2 ^ 18 + off) (fun _ _ => rfl) ?_
    rintro d st i ⟨hsend, hlocal, hhome⟩
    exact ⟨hhome, getIssue_go hsend hlocal⟩
  · simp only [List.mem_cons, List.not_mem_nil, or_false] at hp
    rcases hp with rfl | rfl | rfl
    · exact runs_aadd (fun _ _ => rfl) fun d st i hp => ⟨hp.1, hp.2⟩
    · exact runs_aadd (fun _ _ => rfl) fun d st i hp => ⟨hp.1, hp.2⟩
    · exact runs_aadd (fun _ _ => rfl) fun d st i hp => ⟨hp.1, hp.2⟩
  · simp only [List.mem_cons, List.not_mem_nil, or_false] at hp
    rcases hp with rfl | rfl
    · exact runs_fadd (fun _ _ => rfl) fun d st i hp => ⟨hp.1, hp.2⟩
    · exact runs_fadd (fun _ _ => rfl) fun d st i hp => ⟨hp.1, hp.2⟩

/-- An AADD whose target has none. -/
theorem runs_aadd_fails {mk : Nat → Instr} {name : String} {op : Nat} {frm : Ins → Option Form} {k : RemKind}
    {pre : Dev → Nat → Ins → Prop} (hexec : ∀ st s, exec (mk st) s = issue name op frm st (aaddIssue k st) s)
    (hpre : ∀ d st i, pre d st i →
      MaySend d st ∧ ¬ HasHome d k (target i (stallOf d st)) (elemSize k * (bitsOf i.imm 5 0 + 1))) :
    Runs mk op frm pre (fun d st i => FailsOp st i k (elemSize k * (bitsOf i.imm 5 0 + 1)) d) :=
  runs_fail (addr := target) (data := fun d st i => addends k i (stallOf d st))
    (len := fun i => elemSize k * (bitsOf i.imm 5 0 + 1)) (tctr := fun _ => 0) (dest := fun _ => 0) hexec
    fun d st i hp => ⟨(hpre d st i hp).2, aaddIssue_go (hpre d st i hp).1⟩

/-- A FADD whose target has none. -/
theorem runs_fadd_fails {mk : Nat → Instr} {name : String} {op : Nat} {frm : Ins → Option Form} {k : RemKind}
    {pre : Dev → Nat → Ins → Prop} (hexec : ∀ st s, exec (mk st) s = issue name op frm st (faddIssue k st) s)
    (hpre : ∀ d st i, pre d st i → MaySend d st ∧ ¬ HasHome d k (aGet (stallOf d st) i.a) (elemSize k)) :
    Runs mk op frm pre (fun d st i => FailsOp st i k (elemSize k) d) :=
  runs_fail (addr := fun i x => aGet x i.a) (data := fun d st i => toLe (elemSize k) (sGet (stallOf d st) i.b).toNat)
    (len := fun _ => elemSize k) (tctr := fun _ => 0) (dest := fun i => i.d) hexec fun d st i hp =>
      ⟨(hpre d st i hp).2, faddIssue_go (hpre d st i hp).1⟩

/-- PUT.S, with data or without. -/
theorem putSIssue_go {d : Dev} {st : Nat} {i : Ins} {buf off : Nat} (hsend : MaySend d st)
    (hlocal : (!bitAt i.imm 25) = true →
      LocalOk d st (sGet (stallOf d st) i.a) (if bitAt i.imm 25 then 0 else remLen i) 1 buf off) :
    ∃ e, putIssue .putS st i (stallOf d st) (fetchTouch d st) = .go e none ∧
      ReadsAfter st (launch (fetchTouch d st) st (netOp .putS (target i (stallOf d st))
        (if bitAt i.imm 25 then [] else sramRead d st buf off (remLen i)) (if bitAt i.imm 25 then 0 else remLen i)
        (bitsOf i.imm 24 21)) 0 (insCtr i)) e := by
  by_cases h : bitAt i.imm 25 = true
  · simp only [h, if_true]
    exact putIssue_bare hsend h
  · have hdata : bitAt i.imm 25 = false := Bool.eq_false_of_not_eq_true h
    simp only [hdata, Bool.not_false, Bool.false_eq_true, if_false, true_implies] at hlocal ⊢
    exact putIssue_go hsend hlocal rfl fun hs => h hs.2

/-- Settles O13. -/
theorem remoteViolationsCompleteAtOnce : Obligations.RemoteViolationsCompleteAtOnce := by
  intro p hp buf off
  have hput (k : RemKind) (d : Dev) (st : Nat) (i : Ins) (hk : k ≠ .putS) (hsend : MaySend d st)
      (hlocal : true = true → LocalOk d st (sGet (stallOf d st) i.a) (remLen i) 1 buf off) :=
    putIssue_go (k := k) (tctr := 0) hsend (hlocal rfl) (if_neg hk).symm fun h => hk h.1
  simp only [List.mem_cons, List.not_mem_nil, or_false] at hp
  rcases hp with rfl | rfl | rfl | rfl | rfl | rfl | rfl | rfl | rfl
  · refine runs_fail (addr := target) (data := fun d st i => sramRead d st buf off (remLen i)) (len := remLen)
      (tctr := fun _ => 0) (dest := fun _ => 0) (fun _ _ => rfl) ?_
    exact fun d st i hp => ⟨hp.2.1, hput _ d st i nofun hp.1 hp.2.2⟩
  · refine runs_fail (addr := target) (data := fun d st i => if bitAt i.imm 25 then [] else sramRead d st buf off (remLen i))
      (len := fun i => if bitAt i.imm 25 then 0 else remLen i) (tctr := fun i => bitsOf i.imm 24 21) (dest := fun _ => 0)
      (fun _ _ => rfl) ?_
    exact fun d st i hp => ⟨hp.2.1, putSIssue_go hp.1 hp.2.2⟩
  · refine runs_fail (addr := target) (data := fun d st i => sramRead d st buf off (remLen i)) (len := remLen)
      (tctr := fun _ => 0) (dest := fun _ => 0) (fun _ _ => rfl) ?_
    exact fun d st i hp => ⟨hp.2.1, hput _ d st i nofun hp.1 hp.2.2⟩
  · refine runs_fail (addr := target) (data := fun _ _ _ => []) (len := remLen) (tctr := fun _ => 0)
      (dest := fun _ => buf * 2 ^ 18 + off) (fun _ _ => rfl) ?_
    exact fun d st i hp => ⟨hp.2.1, getIssue_go hp.1 (hp.2.2 rfl)⟩
  · exact runs_aadd_fails (fun _ _ => rfl) fun d st i hp => ⟨hp.1, hp.2.1⟩
  · exact runs_aadd_fails (fun _ _ => rfl) fun d st i hp => ⟨hp.1, hp.2.1⟩
  · exact runs_aadd_fails (fun _ _ => rfl) fun d st i hp => ⟨hp.1, hp.2.1⟩
  · exact runs_fadd_fails (fun _ _ => rfl) fun d st i hp => ⟨hp.1, hp.2.1⟩
  · exact runs_fadd_fails (fun _ _ => rfl) fun d st i hp => ⟨hp.1, hp.2.1⟩

/-! ### Fences and WAITC (O14) -/

/-- A fence over a scope that reads as `within`. -/
theorem runs_fence {mk : Nat → Instr} {name : String} {op : Nat} {scope : Dev → Nat → RemOp → Bool}
    {within : Dev → Nat → RemOp → Prop} (hexec : ∀ st s, exec (mk st) s = issue name op formPlain st (fenceIssue scope st) s)
    (hscope : ∀ d st o, scope (fetchTouch d st) st o = true ↔ within d st o) :
    Runs mk op formPlain (fun d st _ => ∀ o ∈ d.ops, o.own = true → o.op.srcStall = st → ¬ within d st o)
        (fun d st _ e => StallOnly st d e ∧ Moves ((stallOf d st).pc + 1) (fun x _ => x) (stallOf d st) (stallOf e st)) ∧
      Runs mk op formPlain (fun d st _ => ∃ o ∈ d.ops, o.own = true ∧ o.op.srcStall = st ∧ within d st o)
        (fun d st _ => HeldOn st .drain d) := by
  have hany (d : Dev) (st : Nat) : (opsOf (fetchTouch d st) st).any (scope (fetchTouch d st) st) = true ↔
      ∃ o ∈ d.ops, o.own = true ∧ o.op.srcStall = st ∧ within d st o := by
    simp only [List.any_eq_true, opsOf, List.mem_filter, Bool.and_eq_true, beq_iff_eq, hscope, fetchTouch_ops, and_assoc]
  refine ⟨runs_goSame (nx := fun _ _ => none) hexec (fun d st i _ hp => if_neg fun h => ?_)
      fun d st i e _ hother hst => ⟨hother, hst⟩,
    runs_wait hexec fun d st i _ hp => if_pos ((hany d st).mpr hp)⟩
  obtain ⟨o, ho, hown, hsrc, hin⟩ := (hany d st).mp h
  exact hp o ho hown hsrc hin

/-- The gap that WAITC waits for has closed (R63). -/
theorem reached_waitc (x : Stall) (i : Ins) :
    reached (cGet x i.d) (BitVec.ofNat 32 (sGet x i.a + sextImm i 32).toNat) = true ↔
      (cGet x i.d - (sGet x i.a + sextImm i 32).setWidth 32).toNat < 2 ^ 31 := by
  rw [BitVec.ofNat_toNat]
  exact decide_eq_true_iff

/-- Settles O14. -/
theorem fencesAndWaitc : Obligations.FencesAndWaitc := by
  refine ⟨fun p hp => ?_, fun gap => ⟨?_, ?_⟩⟩
  · simp only [List.mem_cons, List.not_mem_nil, or_false] at hp
    rcases hp with rfl | rfl | rfl
    · refine runs_fence (scope := scopeD) (fun _ _ => rfl) fun d st o => ?_
      rw [fetchTouch_eq]
      simp only [scopeD, tAddr, Bool.and_eq_true, beq_iff_eq, and_assoc]
      rfl
    · refine runs_fence (scope := scopeY) (fun _ _ => rfl) fun d st o => ?_
      rw [fetchTouch_eq]
      rfl
    · exact runs_fence (scope := scopeP) (fun _ _ => rfl) fun d st o => by simp [scopeP]
  · refine runs_goSame (nx := fun _ _ => none) (fun _ _ => rfl) (fun d st i _ hp => ?_)
      fun d st i e _ hother hst => ⟨hother, hst⟩
    obtain ⟨rfl, hgap⟩ := hp
    exact if_pos ((reached_waitc ..).mpr hgap)
  · refine runs_wait (fun _ _ => rfl) fun d st i _ hp => ?_
    obtain ⟨rfl, hgap⟩ := hp
    exact if_neg fun h => Nat.not_lt.mpr hgap ((reached_waitc ..).mp h)

end Sys2Proof.Machine
end


section
/-! Routine boundaries and the ends of routines (O15, O16). -/

namespace Sys2Proof.Machine

open Sys2Proof

/-! ### The routine boundary (R187) -/

theorem bankOf_modBank (d : Dev) (k j : Nat) (f : Bank → Bank) :
    bankOf (modBank d k f) j = if j = k then f (bankOf d k) else bankOf d j := mget_mput ..

/-- A bank whose pending corrections have become active (R124). -/
def bankCorrected (b : Bank) : Bank :=
  { b with corr := b.pend.getD b.corr, corrUe := b.corrUe && b.pend.isNone, pend := none }

theorem bankCorrected_of_pend_none {b : Bank} (h : b.pend = none) : bankCorrected b = b := by
  cases b
  simp_all [bankCorrected]

theorem bankCorrected_of_pend {b : Bank} {c : Corr} (h : b.pend = some c) :
    bankCorrected b = { b with corr := c, corrUe := false, pend := none } := by
  simp [bankCorrected, h]

/-- The corrections of the first n crib-banks of a stall have become active. -/
theorem foldl_takeCorrections (d : Dev) (st : Nat) : ∀ n : Nat,
    let e := (List.range n).foldl (fun d k =>
      match (bankOf d (34 * st + k)).pend with
      | some c => modBank d (34 * st + k) fun b => { b with corr := c, corrUe := false, pend := none }
      | none => d) d
    e = { d with banks := e.banks } ∧ ∀ k, bankOf e k =
      if 34 * st ≤ k ∧ k < 34 * st + n then bankCorrected (bankOf d k) else bankOf d k := by
  intro n
  induction n with
  | zero =>
    refine ⟨rfl, fun k => ?_⟩
    rw [if_neg (by omega)]
    rfl
  | succ n ih =>
    obtain ⟨hframe, hbanks⟩ := ih
    simp only [List.range_succ, List.foldl_append, List.foldl_cons, List.foldl_nil]
    generalize (List.range n).foldl _ d = e at hframe hbanks
    have hself : bankOf e (34 * st + n) = bankOf d (34 * st + n) := (hbanks _).trans (if_neg (by omega))
    have hrange (k : Nat) (hk : k ≠ 34 * st + n) :
        (34 * st ≤ k ∧ k < 34 * st + (n + 1)) ↔ (34 * st ≤ k ∧ k < 34 * st + n) := by omega
    rw [hself]
    cases hp : (bankOf d (34 * st + n)).pend with
    | none =>
      refine ⟨hframe, fun k => ?_⟩
      by_cases hk : k = 34 * st + n
      · rw [hk, if_pos ⟨by omega, by omega⟩, bankCorrected_of_pend_none hp, hself]
      · simp only [hbanks, hrange k hk]
    | some c =>
      refine ⟨?_, fun k => ?_⟩
      · dsimp only [modBank, setBank]
        rw [hframe]
      · refine (bankOf_modBank ..).trans ?_
        by_cases hk : k = 34 * st + n
        · rw [if_pos hk, hk, if_pos ⟨by omega, by omega⟩, bankCorrected_of_pend hp, hself]
        · simp only [if_neg hk, hbanks, hrange k hk]

/-- The corrections of a stall's 34 crib-banks become active. -/
theorem takeCorrections_spec (d : Dev) (st : Nat) :
    takeCorrections d st = { d with banks := (takeCorrections d st).banks } ∧ ∀ k,
      bankOf (takeCorrections d st) k = if k / 34 = st then bankCorrected (bankOf d k) else bankOf d k := by
  obtain ⟨hframe, hbanks⟩ := foldl_takeCorrections d st 34
  refine ⟨hframe, fun k => (hbanks k).trans ?_⟩
  have : (34 * st ≤ k ∧ k < 34 * st + 34) ↔ k / 34 = st := by omega
  simp only [this]

/-- The selections that a stall takes with an epoch. -/
theorem mget_selections (f : Nat → Option Bool) (m : Map (Option Bool)) : ∀ n c : Nat,
    mget none ((List.range n).foldl (fun m c => mput none m c (f c)) m) c = if c < n then f c else mget none m c := by
  intro n
  induction n with
  | zero => exact fun c => (if_neg (Nat.not_lt_zero c)).symm
  | succ n ih =>
    intro c
    rw [List.range_succ, List.foldl_append, List.foldl_cons, List.foldl_nil, mget_mput, ih]
    by_cases hc : c = n
    · rw [if_pos hc, if_pos (by omega), hc]
    · rw [if_neg hc]
      have : c < n + 1 ↔ c < n := by omega
      simp only [this]

/-- The stall after it has adopted what was posted to it (R87, R189). -/
def adopted (d : Dev) (st : Nat) (x : Stall) : Stall :=
  { x with epoch := x.posted.getD x.epoch, posted := none
           sel := match x.posted with
             | none => x.sel
             | some e => (List.range 16).foldl (fun m c => mput none m c (defaultIn d e st c)) x.sel }

theorem adopt_spec (d : Dev) (st : Nat) : adopt d st = { d with stalls := (adopt d st).stalls } ∧
    (∀ j, j ≠ st → stallOf (adopt d st) j = stallOf d j) ∧ stallOf (adopt d st) st = adopted d st (stallOf d st) := by
  unfold adopt
  cases hp : (stallOf d st).posted with
  | none =>
    refine ⟨rfl, fun _ _ => rfl, ?_⟩
    generalize stallOf d st = x at hp
    cases x
    simp_all [adopted]
  | some e =>
    refine ⟨rfl, fun j hj => stallOf_modStall_ne _ _ hj, ?_⟩
    simp [adopted, hp]

/-- The stall at a boundary before a substitution or retirement takes hold. -/
def atBoundary (d : Dev) (st : Nat) : Stall :=
  { adopted d st (stallOf d st) with
    refEntry := mget 0 d.sense.entries (st / 256)
    refWord := some (tableWord d.sense (settingsOf d ((stallOf d st).posted.getD (stallOf d st).epoch)).factory (st / 256)
      (mget 0 d.sense.entries (st / 256))) }

/-- Adoption, corrections and the converter reference of a boundary. -/
theorem takeReference_spec (d : Dev) (st : Nat) :
    let e := takeReference (takeCorrections (adopt d st) st) st
    e = { d with stalls := e.stalls, banks := e.banks } ∧ stallOf e st = atBoundary d st ∧
      (∀ j, j ≠ st → stallOf e j = stallOf d j) ∧
      ∀ k, bankOf e k = if k / 34 = st then bankCorrected (bankOf d k) else bankOf d k := by
  obtain ⟨ha, haother, hast⟩ := adopt_spec d st
  obtain ⟨hc, hcbanks⟩ := takeCorrections_spec (adopt d st) st
  generalize takeCorrections (adopt d st) st = f at hc hcbanks
  have hstall (k : Nat) : stallOf f k = stallOf (adopt d st) k := stallOf_congr (congrArg Dev.stalls hc) k
  have hfd : f = { d with stalls := f.stalls, banks := f.banks } := by rw [hc, ha]
  refine ⟨?_, ?_, fun j hj => ?_, fun k => ?_⟩
  · dsimp only [takeReference, modStall, setStall]
    rw [hfd]
  · rw [takeReference, stallOf_modStall_self, refNow, hstall, hast, hfd]
    rfl
  · rw [takeReference, stallOf_modStall_ne _ _ hj, hstall, haother j hj]
  · refine (hcbanks k).trans ?_
    rw [ha]
    rfl

/-- What a boundary does where no substitution and no retirement waits (R187). -/
theorem boundary_spec {d : Dev} {st : Nat} (h : NoSwap d st) :
    Adopts st d (boundary d st) ∧ stallOf (boundary d st) st = adoptedOf (stallOf d st) (stallOf (boundary d st) st) ∧
      boundary d st = { d with stalls := (boundary d st).stalls, banks := (boundary d st).banks } := by
  obtain ⟨hspare, hretire⟩ := h
  obtain ⟨hframe, href, hother, hbanks⟩ := takeReference_spec d st
  have hno : takeRetirement (takeReference (takeCorrections (adopt d st) st) st) st =
      takeReference (takeCorrections (adopt d st) st) st := by
    unfold takeRetirement
    rw [href]
    simp only [atBoundary, adopted, hspare, href, hretire, Bool.false_eq_true, if_false]
  unfold boundary
  rw [hno]
  generalize takeReference (takeCorrections (adopt d st) st) st = f at *
  have hst : stallOf (modStall f st fun x => { x with lateRaised := false }) st =
      { atBoundary d st with lateRaised := false } := by rw [stallOf_modStall_self, href]
  refine ⟨⟨?_, ?_, ?_, ?_, ?_, fun hp => ?_, fun n hp c hlt => ?_,
    fun j hj => (stallOf_modStall_ne _ _ hj).trans (hother j hj), hbanks⟩, ?_, ?_⟩
  · rw [hst]
  · rw [hst]
    rfl
  · rw [hst]
    rfl
  · rw [hst]
    rfl
  · rw [hst]
    rfl
  · rw [hst]
    simp [atBoundary, adopted, hp]
  · rw [hst]
    simp only [atBoundary, adopted, hp]
    exact (mget_selections (defaultIn d n st) _ 16 c).trans (if_pos hlt)
  · rw [hst]
    rfl
  · dsimp only [modStall, setStall]
    rw [hframe]

/-- `Adopts` speaks of the epochs, banks and settings before, and of what a boundary sets after. -/
theorem Adopts.congr {st : Nat} {d d' e e' : Dev} (h : Adopts st d' e') (hpad : d'.pad = d.pad) (hsense : d'.sense = d.sense)
    (hbanks : d'.banks = d.banks) (hother : ∀ j, j ≠ st → stallOf d' j = stallOf d j)
    (hposted : (stallOf d' st).posted = (stallOf d st).posted) (hepoch : (stallOf d' st).epoch = (stallOf d st).epoch)
    (hsel : (stallOf d' st).sel = (stallOf d st).sel) (hbanks' : e.banks = e'.banks)
    (hother' : ∀ j, j ≠ st → stallOf e j = stallOf e' j)
    (hst' : ∃ z, stallOf e st = adoptedOf z (stallOf e' st)) : Adopts st d e := by
  obtain ⟨z, hz⟩ := hst'
  obtain ⟨-, -, h3, h4, h5, h6, h7, h8, h9⟩ := h
  have hset (n : W32) : settingsOf d' n = settingsOf d n := by unfold settingsOf epochOf; rw [hpad]
  have hdef (n : W32) (c : Nat) : defaultIn d' n st c = defaultIn d n st c := by unfold defaultIn; rw [hset]
  have hbank (k : Nat) : bankOf d' k = bankOf d k := by unfold bankOf; rw [hbanks]
  have hbank' (k : Nat) : bankOf e k = bankOf e' k := by unfold bankOf; rw [hbanks']
  rw [hposted, hepoch] at h3
  rw [hsense] at h4
  rw [hposted, hepoch, hset, hsense] at h5
  rw [hposted, hsel] at h6
  rw [hposted] at h7
  simp only [hdef] at h7
  refine ⟨?_, ?_, ?_, ?_, ?_, ?_, ?_, fun j hj => (hother' j hj).trans ((h8 j hj).trans (hother j hj)), fun k => ?_⟩
  · rw [hz]
    rfl
  · rw [hz]
    rfl
  · rw [hz]
    exact h3
  · rw [hz]
    exact h4
  · rw [hz]
    exact h5
  · rw [hz]
    exact h6
  · rw [hz]
    exact h7
  · rw [hbank', h9, hbank]

/-! ### YIELD and EPOCH (R187 to R190) -/

theorem fetchTouch_pad (d : Dev) (st : Nat) : (fetchTouch d st).pad = d.pad := by rw [fetchTouch_eq]
theorem fetchTouch_sense (d : Dev) (st : Nat) : (fetchTouch d st).sense = d.sense := by rw [fetchTouch_eq]
theorem fetchTouch_banks (d : Dev) (st : Nat) : (fetchTouch d st).banks = d.banks := by rw [fetchTouch_eq]

/-- The stall as it stands after a YIELD has been fetched and passed (R187). -/
theorem yieldIssue_spec {d e g : Dev} {st : Nat} (h : NoSwap d st)
    (hg : boundary (advance (fetchTouch d st) st ((stallOf d st).pc + 1)) st = g)
    (hstalls : e.stalls = g.stalls) (hbanks : e.banks = g.banks) :
    Adopts st d e ∧ Moves ((stallOf d st).pc + 1) adoptedOf (stallOf d st) (stallOf e st) := by
  have hx : stallOf (advance (fetchTouch d st) st ((stallOf d st).pc + 1)) st =
      { stallOf d st with held := none, pc := (stallOf d st).pc + 1 } := by
    rw [advance, stallOf_modStall_self, fetchTouch_stallOf]
  have hother (j : Nat) (hj : j ≠ st) :
      stallOf (advance (fetchTouch d st) st ((stallOf d st).pc + 1)) j = stallOf d j := by
    rw [advance, stallOf_modStall_ne _ _ hj, fetchTouch_stallOf]
  have hpad : (advance (fetchTouch d st) st ((stallOf d st).pc + 1)).pad = d.pad := fetchTouch_pad ..
  have hsense : (advance (fetchTouch d st) st ((stallOf d st).pc + 1)).sense = d.sense := fetchTouch_sense ..
  have hb : (advance (fetchTouch d st) st ((stallOf d st).pc + 1)).banks = d.banks := fetchTouch_banks ..
  generalize advance (fetchTouch d st) st ((stallOf d st).pc + 1) = f at *
  have hf : NoSwap f st := by
    unfold NoSwap
    rw [hx]
    exact h
  obtain ⟨hadopts, hst, -⟩ := boundary_spec hf
  rw [hg] at hadopts hst
  have he (j : Nat) : stallOf e j = stallOf g j := stallOf_congr hstalls j
  rw [hx] at hst
  refine ⟨hadopts.congr hpad hsense hb hother (by rw [hx]) (by rw [hx]) (by rw [hx]) hbanks (fun j _ => he j)
    ⟨_, (he st).trans hst⟩, ?_⟩
  rw [he]
  generalize stallOf g st = y at hst
  exact hst

/-- A scalar register written at a boundary changes no more of the stall. -/
theorem adoptedOf_sSet (x z : Stall) (n : Nat) (v : W64) (pc : Nat) :
    let y := { sSet (adoptedOf x z) n v with held := none, pc := pc }
    y = { adoptedOf x y with sreg := y.sreg, pc := pc, held := none } := by
  rw [sSet_fields]
  rfl

/-- EPOCH with WAIT is a boundary before it waits or ends (R190). -/
theorem epochIssue_wait {d : Dev} {st : Nat} {i : Ins} (hwait : bitAt i.mod 0 = true) (h : NoSwap d st)
    (hrun : (stallOf d st).mode = .running) :
    ∃ g, Adopts st d g ∧ stallOf g st = adoptedOf (stallOf d st) (stallOf g st) ∧
      epochIssue st i (stallOf d st) (fetchTouch d st) =
        .stay (if reached (stallOf g st).epoch (BitVec.ofNat 32 (sGet (stallOf d st) i.a + sextImm i 32).toNat)
          then epochEnd g st i.d
          else holdOn g st (.epoch (BitVec.ofNat 32 (sGet (stallOf d st) i.a + sextImm i 32).toNat) i.d)) := by
  have hx := fetchTouch_stallOf d st
  have hf : NoSwap (fetchTouch d st) st := by
    unfold NoSwap
    rw [hx]
    exact h
  obtain ⟨hadopts, hst, -⟩ := boundary_spec hf
  rw [hx] at hst
  refine ⟨boundary (fetchTouch d st) st, hadopts.congr (fetchTouch_pad ..) (fetchTouch_sense ..) (fetchTouch_banks ..)
    (fun j _ => hx j) (by rw [hx]) (by rw [hx]) (by rw [hx]) rfl (fun _ _ => rfl) ⟨_, hst⟩, hst, ?_⟩
  unfold epochIssue
  rw [hwait, if_neg Bool.noConfusion]
  generalize boundary (fetchTouch d st) st = g at hst
  have hmode : (stallOf g st).mode = .running := by
    rw [hst]
    exact hrun
  dsimp only
  rw [if_neg (not_not.mpr hmode)]
  split <;> rfl

/-- The epoch adopted at a boundary. -/
theorem Adopts.epoch {st : Nat} {d e : Dev} (h : Adopts st d e) :
    (stallOf e st).epoch = (stallOf d st).posted.getD (stallOf d st).epoch := h.2.2.1

/-- What an EPOCH that ends leaves (R190). -/
theorem epochEnd_spec {d g e : Dev} {st dest : Nat} (hadopts : Adopts st d g)
    (hg : stallOf g st = adoptedOf (stallOf d st) (stallOf g st))
    (hstalls : e.stalls = (epochEnd g st dest).stalls) (hbanks : e.banks = g.banks) :
    Adopts st d e ∧
      Moves ((stallOf d st).pc + 1) (fun x y => { adoptedOf x y with sreg := y.sreg }) (stallOf d st) (stallOf e st) ∧
      ∀ m, sGet (stallOf e st) m = if m = dest ∧ m ≠ 0 then
          ((stallOf d st).posted.getD (stallOf d st).epoch).setWidth 64 else sGet (stallOf d st) m := by
  have hepoch := hadopts.epoch
  have he (j : Nat) : stallOf e j = stallOf (epochEnd g st dest) j := stallOf_congr hstalls j
  have hother (j : Nat) (hj : j ≠ st) : stallOf e j = stallOf g j := by
    rw [he, epochEnd, advance, stallOf_modStall_ne _ _ hj, stallOf_modStall_ne _ _ hj]
  have hst : stallOf e st = { sSet (stallOf g st) dest (BitVec.ofNat 64 (stallOf g st).epoch.toNat) with
      held := none, pc := (stallOf g st).pc + 1 } := by
    rw [he, epochEnd, advance, stallOf_modStall_self, stallOf_modStall_self]
  rw [hepoch, BitVec.ofNat_toNat] at hst
  generalize hv : ((stallOf d st).posted.getD (stallOf d st).epoch).setWidth 64 = v at *
  generalize hy : stallOf g st = y at *
  have hpc : y.pc = (stallOf d st).pc := by
    rw [hg]
    rfl
  rw [hpc] at hst
  have hfields := adoptedOf_sSet (stallOf d st) y dest v ((stallOf d st).pc + 1)
  rw [← hg, ← hst] at hfields
  refine ⟨hadopts.congr rfl rfl rfl (fun _ _ => rfl) rfl rfl rfl hbanks hother ⟨stallOf e st, ?_⟩, hfields, fun m => ?_⟩
  · rw [hy, hst, sSet_fields, hg]
    rfl
  · rw [hst]
    refine (sGet_sSet y dest m v).trans ?_
    rw [hg]
    by_cases hm : m = dest
    · by_cases h0 : dest = 0 <;> simp [hm, h0]
    · simp only [hm, false_and, if_false]
      rfl

/-- What an EPOCH that waits leaves (R190). -/
theorem epochWait_spec {d g e : Dev} {st dest : Nat} {n : W32} (hadopts : Adopts st d g)
    (hg : stallOf g st = adoptedOf (stallOf d st) (stallOf g st))
    (hstalls : e.stalls = (holdOn g st (.epoch n dest)).stalls) (hbanks : e.banks = g.banks) :
    Adopts st d e ∧ (stallOf e st).held.map (·.why) = some (.epoch n dest) ∧
      stallOf e st = { adoptedOf (stallOf d st) (stallOf e st) with held := (stallOf e st).held } := by
  have he (j : Nat) : stallOf e j = stallOf (holdOn g st (.epoch n dest)) j := stallOf_congr hstalls j
  have hother (j : Nat) (hj : j ≠ st) : stallOf e j = stallOf g j := by
    rw [he, holdOn, stallOf_modStall_ne _ _ hj]
  obtain ⟨h, hh, hst⟩ : ∃ h, h.map (·.why) = some (.epoch n dest) ∧ stallOf e st = { stallOf g st with held := h } := by
    rw [he, holdOn, stallOf_modStall_self]
    exact ⟨_, rfl, rfl⟩
  generalize hy : stallOf g st = y at *
  refine ⟨hadopts.congr rfl rfl rfl (fun _ _ => rfl) rfl rfl rfl hbanks hother ⟨stallOf e st, ?_⟩, by rw [hst]; exact hh, ?_⟩
  · rw [hy, hst, hg]
    rfl
  · rw [hst, hg]
    rfl

/-- A waiting EPOCH holds the epoch it needs. -/
theorem reached_iff (a b : W32) : reached a b = true ↔ (a - b).toNat < 2 ^ 31 := decide_eq_true_iff

/-! ### Retirement at a boundary (R192, R542) -/

theorem reports_watchEnter (d : Dev) (w : Watch) : Reports d (watchEnter d w) := by
  unfold watchEnter
  split
  · dsimp only
    have h : Reports d (raiseEvent (bump (setWatch d ‹Nat› (some w)) 0x20050) 0xFFFF 4 0x12 (watchWord w) ‹Nat›) :=
      Reports.trans (e := bump (setWatch d ‹Nat› (some w)) 0x20050) rfl (reports_raiseEvent ..)
    split
    · exact h.trans (reports_raiseEvent ..)
    · exact h
  · rfl

theorem reports_watchFree (d : Dev) (n : Nat) : Reports d (watchFree d n) := by
  have hset : Reports d (setWatch d n none) := rfl
  unfold watchFree
  dsimp only
  generalize setWatch d n none = e at hset
  split
  · exact hset
  · next u us _ =>
    have htake : Reports e { e with health := { e.health with waitingWatch := us } } := rfl
    exact (hset.trans htake).trans (reports_watchEnter ..)

theorem stalls_performedZero (d : Dev) (o : RemOp) : (performedZero d o).stalls = d.stalls := by
  unfold performedZero performed
  split
  · rfl
  · exact (reports_sendReply _ _ _).machine.1

theorem stalls_holdViol (st : Nat) (d : Dev) (id : Nat) : (holdViol st d id).stalls = d.stalls := by
  unfold holdViol
  split
  · exact stalls_performedZero ..
  · rfl

theorem stalls_foldl {α : Type} {f : Dev → α → Dev} (hf : ∀ d a, (f d a).stalls = d.stalls) :
    ∀ (l : List α) (d : Dev), (l.foldl f d).stalls = d.stalls
  | [], _ => rfl
  | a :: l, d => (stalls_foldl hf l (f d a)).trans (hf d a)

theorem stalls_raiseEvent (d : Dev) (fn cls code a b : Nat) : (raiseEvent d fn cls code a b).stalls = d.stalls :=
  (reports_raiseEvent ..).machine.1

/-- The stall's own part of a retirement whose routine runs; what follows counts and reports. -/
def retiredRunning (d : Dev) (st : Nat) : Dev :=
  modStall ((stallOf d st).hold.foldl (holdViol st) (stopNow d st 0x10 0)) st fun x =>
    { x with gone := true, pendingRetire := false, hold := [], jammed := [] }

theorem stalls_retireStall {d : Dev} {st : Nat} (hrun : (stallOf d st).mode = .running) :
    (retireStall d st).stalls = (retiredRunning d st).stalls := by
  have hactive : active (stallOf d st) = true := by simp [active, hrun]
  have hwatch (f : Dev) (n : Nat) : (watchFree f n).stalls = f.stalls := (reports_watchFree ..).machine.1
  unfold retireStall
  simp only [hrun, reduceCtorEq, if_false, hactive, if_true]
  split
  · split
    · exact (stalls_raiseEvent ..).trans ((stalls_raiseEvent ..).trans (hwatch (retiredRunning d st) _))
    · exact (stalls_raiseEvent ..).trans (hwatch (retiredRunning d st) _)
  · split
    · exact (stalls_raiseEvent ..).trans (stalls_raiseEvent (retiredRunning d st) ..)
    · exact stalls_raiseEvent (retiredRunning d st) ..

/-- The retirement of a stall whose routine runs (R192). -/
theorem retireStall_running {d : Dev} {st : Nat} (hrun : (stallOf d st).mode = .running) :
    stallOf (retireStall d st) st = { stallOf d st with
      mode := .draining, ending := some .fault, held := none, faultCode := BitVec.ofNat 8 0x10
      faultPc := BitVec.ofNat 12 (stallOf d st).pc, faultDetail := BitVec.ofNat 32 0
      gone := true, pendingRetire := false, hold := [], jammed := [] } := by
  have hhold := stallOf_congr (stalls_foldl (stalls_holdViol st) (stallOf d st).hold (stopNow d st 0x10 0)) st
  rw [stallOf_congr (stalls_retireStall hrun), retiredRunning, stallOf_modStall_self, hhold, stopNow, stopStall,
    stallOf_modStall_self, stallOf_orphanOps]

/-- A boundary at which the retirement of a running stall takes hold. -/
theorem boundary_retires {d : Dev} {st : Nat} (hrun : (stallOf d st).mode = .running)
    (hspare : (stallOf d st).pendingSpare = none) (hretire : (stallOf d st).pendingRetire = true) :
    let y := stallOf (boundary d st) st
    y.gone = true ∧ y.pendingRetire = false ∧ y.mode = .draining ∧ y.faultCode = 0x10 ∧ y.hold = [] := by
  obtain ⟨-, href, -⟩ := takeReference_spec d st
  generalize hf : takeReference (takeCorrections (adopt d st) st) st = f at href
  have hret : takeRetirement f st = retireStall f st := by
    unfold takeRetirement
    simp only [href, atBoundary, adopted, hspare, hretire, if_true]
  have hst : stallOf (boundary d st) st = { stallOf (retireStall f st) st with lateRaised := false } := by
    rw [boundary, hf, hret, stallOf_modStall_self]
  rw [retireStall_running (by rw [href]; exact hrun)] at hst
  dsimp only
  rw [hst]
  exact ⟨rfl, rfl, rfl, rfl, rfl⟩

/-- Settles O15: `boundary_spec` at each boundary. -/
theorem boundariesAdoptEpochs : Obligations.BoundariesAdoptEpochs := by
  refine ⟨⟨?_, ?_, fun n held => ⟨?_, ?_⟩, fun st n dest raised => ?_⟩, fun st => ?_, ?_⟩
  · refine runs_issue (fun _ _ => rfl) ?_
    rintro d st i r - h rfl
    have hgo : issued (fetchTouch d st) st (stallOf d st).pc (yieldIssue st i (stallOf d st) (fetchTouch d st)) =
        boundary (advance (fetchTouch d st) st ((stallOf d st).pc + 1)) st := rfl
    rw [hgo]
    generalize hg : boundary (advance (fetchTouch d st) st ((stallOf d st).pc + 1)) st = g
    exact yieldIssue_spec h hg rfl rfl
  · refine runs_go (g := fun i x y => sSet y i.d (BitVec.ofNat 64 x.epoch.toNat)) (nx := fun _ _ => none) (fun _ _ => rfl)
      (fun d st i _ hp => ?_) fun d st i e _ hother hst => ⟨hother, ?_⟩
    · unfold epochIssue
      rw [if_pos hp]
    · rw [← BitVec.ofNat_toNat]
      exact writesScalar_sSet hst
  · refine runs_issue (fun _ _ => rfl) ?_
    rintro d st i r ⟨⟨hrun, -⟩, -⟩ ⟨hwait, hswap, rfl, rfl, hgap⟩ rfl
    obtain ⟨g, hadopts, hg, hgo⟩ := epochIssue_wait hwait hswap hrun
    have hreached : reached (stallOf g st).epoch (BitVec.ofNat 32 (sGet (stallOf d st) i.a + sextImm i 32).toNat) = true := by
      rw [reached_iff, hadopts.epoch, BitVec.ofNat_toNat]
      exact hgap
    rw [hgo, if_pos hreached]
    exact epochEnd_spec (dest := i.d) hadopts hg rfl rfl
  · refine runs_issue (fun _ _ => rfl) ?_
    rintro d st i r ⟨⟨hrun, -⟩, -⟩ ⟨hwait, hswap, rfl, rfl, hgap⟩ rfl
    obtain ⟨g, hadopts, hg, hgo⟩ := epochIssue_wait hwait hswap hrun
    have hreached : ¬ reached (stallOf g st).epoch
        (BitVec.ofNat 32 (sGet (stallOf d st) i.a + sextImm i 32).toNat) = true := by
      rw [reached_iff, hadopts.epoch, BitVec.ofNat_toNat]
      exact Nat.not_lt.mpr hgap
    rw [hgo, if_neg hreached, BitVec.ofNat_toNat]
    exact epochWait_spec hadopts hg rfl rfl
  · refine answers_onDev (fun s => show execEpochWaitEnd st s = _ from rfl) ?_
    rintro d ⟨hrun, hheld, hgap⟩
    refine ⟨epochEnd d st dest, ?_, ⟨rfl, fun k hk => ?_, fun _ _ => rfl⟩, ?_⟩
    · simp only [hheld, hrun, (reached_iff ..).mpr hgap, true_and, if_true]
    · show stallOf (epochEnd d st dest) k = _
      rw [epochEnd, advance, stallOf_modStall_ne _ _ hk, stallOf_modStall_ne _ _ hk]
    · refine writesScalar_sSet ?_
      show stallOf (epochEnd d st dest) st = _
      rw [epochEnd, advance, stallOf_modStall_self, stallOf_modStall_self, BitVec.ofNat_toNat]
  · refine answers_onDev (fun s => show execIdleAdopt st s = _ from rfl) ?_
    rintro d ⟨hmode, hswap, hwork⟩
    have hb : boundaryWork d st = true := by
      unfold boundaryWork
      simp only [Bool.or_eq_true, List.any_eq_true, List.mem_range]
      rcases hwork with hposted | ⟨k, hk, hpend⟩
      · exact .inl (.inl (.inl (.inl (Option.isSome_iff_ne_none.mpr hposted))))
      · exact .inr ⟨k, hk, Option.isSome_iff_ne_none.mpr hpend⟩
    obtain ⟨hadopts, hst, -⟩ := boundary_spec hswap
    refine ⟨boundary d st, if_pos ⟨hmode, hb⟩, ?_⟩
    generalize boundary d st = g at hadopts hst
    exact ⟨hadopts.congr rfl rfl rfl (fun _ _ => rfl) rfl rfl rfl rfl (fun _ _ => rfl) ⟨_, hst⟩, hst⟩
  · refine runs_issue (fun _ _ => rfl) ?_
    rintro d st i r ⟨⟨hrun, -⟩, -⟩ ⟨hspare, hretire⟩ rfl
    have hgo : issued (fetchTouch d st) st (stallOf d st).pc (yieldIssue st i (stallOf d st) (fetchTouch d st)) =
        boundary (advance (fetchTouch d st) st ((stallOf d st).pc + 1)) st := rfl
    have hx : stallOf (advance (fetchTouch d st) st ((stallOf d st).pc + 1)) st =
        { stallOf d st with held := none, pc := (stallOf d st).pc + 1 } := by
      rw [advance, stallOf_modStall_self, fetchTouch_stallOf]
    rw [hgo]
    have h := boundary_retires (d := advance (fetchTouch d st) st ((stallOf d st).pc + 1)) (st := st)
      (by rw [hx]; exact hrun) (by rw [hx]; exact hspare) (by rw [hx]; exact hretire)
    generalize boundary (advance (fetchTouch d st) st ((stallOf d st).pc + 1)) st = g at h
    exact h

/-! ### The ends of routines (O16) -/

theorem stallOnly_of_inStall {d e : Dev} {st : Nat} (h : InStall st (fetchTouch d st) e) :
    StallOnly st d { e with draws := e.draws + 1 } := by
  obtain ⟨hframe, hother⟩ := h
  refine ⟨?_, fun k hk => (hother k hk).trans (fetchTouch_stallOf ..), fun o ho => ?_⟩
  · rw [hframe, fetchTouch_eq]
  · show ctrOf e o = _
    rw [hframe]
    exact fetchTouch_ctrOf _ _ ho

theorem cmdOf_cid {d : Dev} {cid : Nat} {c : Cmd} (h : cmdOf d cid = some c) : c.cid = cid :=
  beq_iff_eq.mp (List.find?_some (p := fun x : Cmd => x.cid == cid) h)

theorem cmdOf_congr {d e : Dev} (h : e.host.cmds = d.host.cmds) (cid : Nat) : cmdOf e cid = cmdOf d cid := by
  unfold cmdOf
  rw [h]

/-- A command replaced under its own id. -/
theorem cmdOf_putCmd_self {d : Dev} {cid : Nat} {c f : Cmd} (h : cmdOf d cid = some c) (hf : f.cid = cid) :
    cmdOf (putCmd d f) cid = some f := by
  subst hf
  show (d.host.cmds.map fun x => if x.cid = f.cid then f else x).find? (·.cid == f.cid) = some f
  unfold cmdOf at h
  generalize d.host.cmds = l at h
  induction l with
  | nil => cases h
  | cons q l ih =>
    by_cases hq : q.cid = f.cid
    · simp [hq]
    · rw [List.map_cons, if_neg hq, List.find?_cons_of_neg (by simpa using hq)]
      rw [List.find?_cons_of_neg (by simpa using hq)] at h
      exact ih h

/-- A routine that has ended: its command learns it, and of the stall what a routine keeps is gone (R192, R195). -/
theorem routineEnded_spec (d : Dev) (st report : Nat) :
    let e := routineEnded d st report
    e = { d with stalls := e.stalls, host := e.host } ∧ (∀ k, k ≠ st → stallOf e k = stallOf d k) ∧
      stallOf e st = { stallOf d st with owner := none, ending := none, held := none } ∧ Learns st report d e := by
  have hlearn (f : Dev) (hf : f = { d with host := f.host }) (hcmds : ∀ cid c, (stallOf d st).owner = some cid →
      cmdOf d cid = some c →
      cmdOf f cid = some { c with running := c.running.filter (· != st), ended := c.ended ++ [(st, report)] }) :
      let e := modStall f st fun x => { x with owner := none, ending := none, held := none }
      e = { d with stalls := e.stalls, host := e.host } ∧ (∀ k, k ≠ st → stallOf e k = stallOf d k) ∧
        stallOf e st = { stallOf d st with owner := none, ending := none, held := none } ∧ Learns st report d e := by
    have hst (k : Nat) : stallOf f k = stallOf d k := stallOf_congr (congrArg Dev.stalls hf) k
    refine ⟨?_, fun k hk => (stallOf_modStall_ne _ _ hk).trans (hst k), ?_, fun cid c ho hc => ⟨_, hcmds cid c ho hc, rfl, rfl⟩⟩
    · dsimp only [modStall, setStall]
      rw [hf]
    · rw [stallOf_modStall_self, hst]
  unfold routineEnded
  cases ho : (stallOf d st).owner with
  | none => exact hlearn d rfl fun cid c h _ => by cases ho.symm.trans h
  | some cid =>
    cases hc : cmdOf d cid with
    | none =>
      dsimp only
      rw [hc]
      refine hlearn d rfl fun cid' c h h' => ?_
      cases ho.symm.trans h
      cases hc.symm.trans h'
    | some c =>
      dsimp only
      rw [hc]
      refine hlearn (putCmd d { c with running := c.running.filter (· != st), ended := c.ended ++ [(st, report)] }) rfl fun cid' c' h h' => ?_
      cases ho.symm.trans h
      cases hc.symm.trans h'
      exact cmdOf_putCmd_self hc (cmdOf_cid (c := c) hc)

/-- Settles O16. -/
theorem routinesEnd : Obligations.RoutinesEnd := by
  refine ⟨?_, fun st => ?_, fun st => ?_⟩
  · refine runs_issue (fun _ _ => rfl) ?_
    rintro d st i r - - rfl
    have hin : InStall st (fetchTouch d st) (modStall (holdOn (fetchTouch d st) st .drain) st fun y =>
        { y with mode := .draining, ending := some .halt }) :=
      (InStall.modStall ⟨rfl, fun _ _ => rfl⟩ _).modStall _
    have hgo : issued (fetchTouch d st) st (stallOf d st).pc (haltIssue st i (stallOf d st) (fetchTouch d st)) =
        modStall (holdOn (fetchTouch d st) st .drain) st fun y => { y with mode := .draining, ending := some .halt } := rfl
    obtain ⟨-, -, hheld⟩ := heldOn_holdOn d st .drain
    have hheld' : stallOf (holdOn (fetchTouch d st) st .drain) st =
        { stallOf d st with held := (stallOf (holdOn (fetchTouch d st) st .drain) st).held } := hheld
    have hst : stallOf (modStall (holdOn (fetchTouch d st) st .drain) st fun y =>
        { y with mode := .draining, ending := some .halt }) st =
        { stallOf (holdOn (fetchTouch d st) st .drain) st with mode := .draining, ending := some .halt } :=
      stallOf_modStall_self ..
    rw [hheld'] at hst
    rw [hgo]
    refine ⟨stallOnly_of_inStall hin, ?_⟩
    generalize (modStall (holdOn (fetchTouch d st) st .drain) st fun y =>
      { y with mode := .draining, ending := some .halt }) = e at hst
    refine hst.trans ?_
    rw [← congrArg Stall.held hst]
    rfl
  · refine answers_onDev (fun s => show execRoutineEnd st s = _ from rfl) ?_
    rintro d ⟨hmode, hending, hwork, hops⟩
    obtain ⟨hframe, hother, hst, hlearn⟩ := routineEnded_spec d st 0
    refine ⟨modStall (routineEnded d st 0) st fun y => { y with mode := .idle, busy := false },
      if_pos ⟨hmode, hending, by rw [workDone, hwork]; rfl, hops⟩, ?_⟩
    generalize routineEnded d st 0 = g at *
    have hmem : g.mem = d.mem := by rw [hframe]
    have hbanks : g.banks = d.banks := by rw [hframe]
    have hattn : g.attn = d.attn := by rw [hframe]
    have hops' : g.ops = d.ops := by rw [hframe]
    have hoth (j : Nat) (hj : j ≠ st) :
        stallOf (modStall g st fun y => { y with mode := .idle, busy := false }) j = stallOf d j :=
      (stallOf_modStall_ne _ _ hj).trans (hother j hj)
    have hidle : stallOf (modStall g st fun y => { y with mode := .idle, busy := false }) st = { stallOf d st with
        mode := .idle, owner := none, ending := none, held := none, busy := false } := by
      rw [stallOf_modStall_self, hst]
    exact ⟨⟨hmem, hbanks, hattn, hops', hoth⟩, hlearn, hidle⟩
  · refine answers_onDev (fun s => show execDrainEnd st s = _ from rfl) ?_
    rintro d ⟨hmode, hending, hwork, hgone, hswap⟩
    obtain ⟨hframe, hother, hst, hlearn⟩ := routineEnded_spec d st (faultWord (stallOf d st))
    generalize hg : routineEnded d st (faultWord (stallOf d st)) = g at *
    have hmem : g.mem = d.mem := by rw [hframe]
    have hops : g.ops = d.ops := by rw [hframe]
    have hpad : g.pad = d.pad := by rw [hframe]
    have hsense : g.sense = d.sense := by rw [hframe]
    have hbanks : g.banks = d.banks := by rw [hframe]
    have hf : stallOf (modStall g st fun y => { y with mode := .idle, busy := false }) st = { stallOf d st with
        mode := .idle, owner := none, ending := none, held := none, busy := false } := by
      rw [stallOf_modStall_self, hst]
    have hfother (j : Nat) (hj : j ≠ st) :
        stallOf (modStall g st fun y => { y with mode := .idle, busy := false }) j = stallOf d j :=
      (stallOf_modStall_ne _ _ hj).trans (hother j hj)
    obtain ⟨hadopts, hbst, hbframe⟩ := boundary_spec (d := modStall g st fun y => { y with mode := .idle, busy := false })
      (st := st) (by unfold NoSwap; rw [hf]; exact hswap)
    refine ⟨boundary (modStall g st fun y => { y with mode := .idle, busy := false }) st, ?_, ?_⟩
    · dsimp only
      rw [if_pos ⟨hmode, hending, by rw [workDone, hwork]; rfl⟩, if_neg (by rw [hgone]; exact Bool.noConfusion), hg]
    rw [hf] at hbst
    generalize boundary (modStall g st fun y => { y with mode := .idle, busy := false }) st = e at *
    refine ⟨fun cid c ho hc => ?_, hadopts.congr hpad hsense hbanks hfother (by rw [hf]) (by rw [hf]) (by rw [hf]) rfl
      (fun _ _ => rfl) ⟨_, hbst⟩, ?_, ?_, ?_⟩
    · obtain ⟨f, hcmd, hf⟩ := hlearn cid c ho hc
      refine ⟨f, ?_, hf⟩
      refine Eq.trans ?_ hcmd
      refine cmdOf_congr ?_ cid
      rw [hbframe]
      rfl
    · rw [hbframe]
      exact hmem
    · rw [hbframe]
      exact hops
    · exact hbst

end Sys2Proof.Machine
end

section
/-! Detected errors, watchdogs, routine start, illegal forms and the issue of crib instructions (O17 to O20). -/

namespace Sys2Proof.Machine

open Sys2Proof

/-! ### A unit that fails (R524, R527, R536) -/

/-- A register of a stall lies outside Derier's own registers. -/
theorem stallReg_high (st a : Nat) : 0x400000 ≤ stallReg st a := by
  unfold stallReg
  omega

theorem reports_unitFails (d : Dev) (kind unit crib : Nat) : Reports d (unitFails d kind unit crib) := by
  unfold unitFails
  split
  · split
    · exact rfl
    · exact .refl d
  · exact reports_watchEnter ..

theorem reports_digitalSuspect (d : Dev) (st cause index : Nat) : Reports d (digitalSuspect d st cause index) :=
  ((Reports.trans (e := bump d 0x20038) rfl (reports_raiseEvent ..)).trans (reports_unitFails ..))

/-- A unit that enters the watch list is counted there, and where an event is dropped, and nowhere else. -/
theorem ctrOf_watchEnter (d : Dev) (w : Watch) {o : Nat} (hdrop : o ≠ 0xB8) (hlist : o ≠ 0x20050) :
    ctrOf (watchEnter d w) o = ctrOf d o := by
  unfold watchEnter
  split
  · dsimp only
    have h (n : Nat) : ctrOf (raiseEvent (bump (setWatch d n (some w)) 0x20050) 0xFFFF 4 0x12 (watchWord w) n) o =
        ctrOf d o := by
      rw [ctrOf_raiseEvent _ _ _ _ _ _ hdrop, bump, ctrOf_bumpBy, if_neg hlist]
      rfl
    split
    · rw [ctrOf_raiseEvent _ _ _ _ _ _ hdrop, h]
    · exact h _
  · rfl

theorem ctrOf_unitFails (d : Dev) (kind unit crib : Nat) {o : Nat} (hdrop : o ≠ 0xB8) (hlist : o ≠ 0x20050) :
    ctrOf (unitFails d kind unit crib) o = ctrOf d o := by
  unfold unitFails
  split
  · split <;> rfl
  · exact ctrOf_watchEnter d _ hdrop hlist

theorem ctrOf_digitalSuspect (d : Dev) (st cause index : Nat) {o : Nat} (ho : 0x400000 ≤ o) :
    ctrOf (digitalSuspect d st cause index) o = ctrOf d o := by
  unfold digitalSuspect
  rw [ctrOf_unitFails _ _ _ _ (by omega) (by omega), ctrOf_raiseEvent _ _ _ _ _ _ (by omega), bump, ctrOf_bumpBy, if_neg (by omega)]

/-! ### Frames of one stall -/

theorem SparesOthers.refl (st : Nat) (d : Dev) : SparesOthers st d d := ⟨rfl, rfl, rfl, rfl, fun _ _ => rfl⟩

theorem SparesOthers.trans {st : Nat} {d e f : Dev} (h : SparesOthers st d e) (g : SparesOthers st e f) :
    SparesOthers st d f := by
  obtain ⟨hmem, hbanks, hattn, hops, hst⟩ := h
  obtain ⟨gmem, gbanks, gattn, gops, gst⟩ := g
  exact ⟨gmem.trans hmem, gbanks.trans hbanks, gattn.trans hattn, gops.trans hops,
    fun j hj => (gst j hj).trans (hst j hj)⟩

theorem SparesOthers.draws {st n : Nat} {d e : Dev} (h : SparesOthers st d e) :
    SparesOthers st d { e with draws := n } := h

theorem sparesOthers_modStall (d : Dev) (st : Nat) (f : Stall → Stall) : SparesOthers st d (modStall d st f) :=
  ⟨rfl, rfl, rfl, rfl, fun _ hj => stallOf_modStall_ne _ _ hj⟩

theorem Reports.spares {d e : Dev} (h : Reports d e) (st : Nat) : SparesOthers st d e := by
  have hst : e.stalls = d.stalls := h.machine.1
  rw [h]
  exact ⟨rfl, rfl, rfl, rfl, fun _ _ => stallOf_congr rfl _⟩

theorem reports_fetchTouch (d : Dev) (st : Nat) : Reports d (fetchTouch d st) := by
  unfold fetchTouch
  dsimp only
  split <;> rfl

theorem sparesOthers_fetchTouch (d : Dev) (st : Nat) : SparesOthers st d (fetchTouch d st) :=
  (reports_fetchTouch d st).spares st

/-! ### Stopped routines (R165, R194 to R198) -/

theorem orphanOps_fetchTouch (d : Dev) (st : Nat) : orphanOps (fetchTouch d st) st = fetchTouch (orphanOps d st) st := by
  have e : stallOf (orphanOps d st) st = stallOf d st := rfl
  unfold fetchTouch
  rw [e]
  dsimp only
  split <;> rfl

theorem sparesOthers_stopStall (d : Dev) (st code detail pc : Nat) :
    SparesOthers st (orphanOps d st) (stopStall d st code detail pc) := sparesOthers_modStall ..

theorem sparesOthers_stopStall_fetchTouch (d : Dev) (st code detail pc : Nat) :
    SparesOthers st (orphanOps d st) (stopStall (fetchTouch d st) st code detail pc) := by
  have h := sparesOthers_stopStall (fetchTouch d st) st code detail pc
  rw [orphanOps_fetchTouch] at h
  exact (sparesOthers_fetchTouch ..).trans h

theorem stallOf_stopStall (d : Dev) (st code detail pc : Nat) :
    stallOf (stopStall d st code detail pc) st = faulted (stallOf d st) code detail pc :=
  stallOf_modStall_self ..

theorem stallOf_stopStall_fetchTouch (d : Dev) (st code detail pc : Nat) :
    stallOf (stopStall (fetchTouch d st) st code detail pc) st = faulted (stallOf d st) code detail pc := by
  rw [stallOf_stopStall, fetchTouch_stallOf]

/-- A stall whose digital units become suspect is itself as it was. -/
theorem stallOf_digitalSuspect (d : Dev) (st cause index j : Nat) :
    stallOf (digitalSuspect d st cause index) j = stallOf d j :=
  stallOf_congr (reports_digitalSuspect d st cause index).machine.1 j

/-- A routine that Derier does not run itself and whose word is residue checked can be named by RESIDUE. -/
theorem residue_named {x : Stall} {idx : Nat} {w : W64} (hlim : idx < x.limit) (hlen : idx < 4096)
    (hw : mget none x.store idx = some w) (hres : residueChecked w = true) :
    ¬ ((solving x = false ∧ (x.limit ≤ idx ∨ (mget none x.store idx).any residueChecked = false)) ∨ 4096 ≤ idx) := by
  rw [hw, Option.any_some, hres]
  rintro (⟨-, h | h⟩ | h)
  · omega
  · exact Bool.noConfusion h
  · omega

theorem active_runs {x : Stall} (h : active x = true) : ¬ (x.mode ≠ .running ∧ x.mode ≠ .draining) := by
  rintro ⟨hr, hd⟩
  simp [active, hr, hd] at h

/-- A wait that can time out has a kind. -/
theorem waitKind_of_ne {w : Wait} (h1 : w ≠ .scoreboard) (h2 : w ≠ .solve) : ∃ k, waitKind w = some k := by
  cases w
  case scoreboard => exact absurd rfl h1
  case solve => exact absurd rfl h2
  all_goals exact ⟨_, rfl⟩

/-- What a watchdog event leaves: it is counted at its stall and raised. -/
theorem watchdogEvent_spec (d : Dev) (st kind buf slot index : Nat) :
    Reports d (watchdogEvent d st kind buf slot index) ∧
      ctrOf (watchdogEvent d st kind buf slot index) (stallReg st 0x20) = satAdd (ctrOf d (stallReg st 0x20)) 1 := by
  refine ⟨Reports.trans (e := bump d (stallReg st 0x20)) rfl (reports_raiseEvent ..), ?_⟩
  rw [watchdogEvent, ctrOf_raiseEvent _ _ _ _ _ _ (stallReg_ne_dropped st 0x20), bump, ctrOf_bumpBy, if_pos rfl]

/-- A watchdog event that a stall remembers. -/
theorem watchdogEvent_modStall (d : Dev) (st kind buf slot index : Nat) (f : Stall → Stall) :
    let e := watchdogEvent (modStall d st f) st kind buf slot index
    SparesOthers st d e ∧ ctrOf e (stallReg st 0x20) = satAdd (ctrOf d (stallReg st 0x20)) 1 ∧
      stallOf e st = f (stallOf d st) := by
  obtain ⟨hrep, hctr⟩ := watchdogEvent_spec (modStall d st f) st kind buf slot index
  exact ⟨(sparesOthers_modStall d st f).trans (hrep.spares st), hctr,
    (stallOf_congr hrep.machine.1 st).trans (stallOf_modStall_self ..)⟩

/-- A fetch that finds no usable word stops the routine with FETCH, and the stall is suspect. -/
theorem fetchStops_spec (d : Dev) (st : Nat) :
    let e := digitalSuspect (stopStall (fetchTouch d st) st 0x02 (stallOf d st).pc (stallOf d st).pc) st 3 (stallOf d st).pc
    SparesOthers st (orphanOps d st) e ∧ stallOf e st = faulted (stallOf d st) 0x02 (stallOf d st).pc (stallOf d st).pc :=
  ⟨(sparesOthers_stopStall_fetchTouch ..).trans ((reports_digitalSuspect ..).spares st),
    (stallOf_digitalSuspect ..).trans (stallOf_stopStall_fetchTouch ..)⟩

/-- Settles O17. -/
theorem detectedErrorsAndWatchdogs : Obligations.DetectedErrorsAndWatchdogs := by
  refine ⟨⟨fun st idx w => ?_, fun st idx w => ?_, fun st idx => ?_, fun st b => ?_, fun st b => ?_, fun st w => ?_⟩,
    fun st w => ?_, fun st => ?_, fun id o => ?_⟩
  · refine answers_onDev (fun s => show execResidue st idx s = _ from rfl) ?_
    rintro d ⟨hact, hlen, hlim, hw, hres⟩
    have hok := residue_named hlim hlen hw hres
    refine ⟨digitalSuspect (stopNow (bump d (stallReg st 0xA0)) st 0x0D idx) st 1 idx, ?_, ?_, ?_, ?_⟩
    · dsimp only
      rw [if_neg (not_or.mpr ⟨active_runs hact, hok⟩), if_pos hact]
    · exact ((sparesOthers_stopStall (bump d (stallReg st 0xA0)) ..).trans ((reports_digitalSuspect ..).spares st)).draws
    · refine (ctrOf_digitalSuspect _ _ _ _ (stallReg_high ..)).trans ?_
      exact (ctrOf_bumpBy ..).trans (if_pos rfl)
    · exact (stallOf_digitalSuspect ..).trans (stallOf_stopStall ..)
  · refine answers_onDev (fun s => show execResidue st idx s = _ from rfl) ?_
    rintro d ⟨hmode, hend, hlen, hlim, hw, hres⟩
    have hok := residue_named hlim hlen hw hres
    have hact : active (stallOf d st) ≠ true := by simp [active, hmode, hend]
    refine ⟨bump d (stallReg st 0xA0), ?_, rfl, fun o => ?_⟩
    · dsimp only
      rw [if_neg (not_or.mpr ⟨fun h => h.2 hmode, hok⟩), if_neg hact]
    · refine (ctrOf_bumpBy d (stallReg st 0xA0) 1 o).trans ?_
      split
      · next ho => rw [ho]
      · rfl
  · refine answers_onDev (fun s => show execLockstep st idx s = _ from rfl) ?_
    rintro d ⟨hact, hlen⟩
    refine ⟨digitalSuspect (stopNow d st 0x0E idx) st 2 idx, if_pos ⟨hact, hlen⟩, ?_, ?_⟩
    · exact ((sparesOthers_stopStall d ..).trans ((reports_digitalSuspect ..).spares st)).draws
    · exact (stallOf_digitalSuspect ..).trans (stallOf_stopStall ..)
  · refine answers_onDev (fun s => show execFetchFault st b s = _ from rfl) ?_
    rintro d ⟨hmode, hep, hlim⟩
    refine ⟨stopStall d st 0x03 (stallOf d st).pc (stallOf d st).pc, ?_, (sparesOthers_stopStall ..).draws,
      stallOf_stopStall ..⟩
    dsimp only
    rw [if_neg (by simp [hmode, hep]), if_pos hlim]
  · refine answers_onDev (fun s => show execFetchFault st b s = _ from rfl) ?_
    rintro d ⟨hmode, hep, hlim, hbad⟩
    obtain ⟨hothers, hst⟩ := fetchStops_spec d st
    refine ⟨_, ?_, hothers.draws, hst⟩
    dsimp only
    rw [if_neg (by simp [hmode, hep]), if_neg (Nat.not_le.mpr hlim)]
    cases hw : fetchWord (stallOf d st) with
    | none => rfl
    | some w => exact if_pos (hbad.resolve_left (by simp [hw]))
  · refine answers_onDev (fun s => show execFetchFault st false s = _ from rfl) ?_
    rintro d ⟨hmode, hep, hw, hop⟩
    have hlim : (stallOf d st).pc < (stallOf d st).limit := by
      by_contra hlim
      have hnone : fetchWord (stallOf d st) = none := by simp [fetchWord, hlim]
      exact Option.some_ne_none w (hw.symm.trans hnone)
    refine ⟨stopStall (fetchTouch d st) st 0x01 (w.toNat / 2 ^ 32) (stallOf d st).pc, ?_,
      (sparesOthers_stopStall_fetchTouch ..).draws, stallOf_stopStall_fetchTouch ..⟩
    dsimp only
    rw [if_neg (by simp [hmode, hep]), if_neg (Nat.not_le.mpr hlim), hw]
    dsimp only
    rw [if_neg (fun h => Bool.noConfusion h.1), if_neg (by rw [hop]; exact Bool.noConfusion)]
  · refine answers_onDev (fun s => show execWatchdog st s = _ from rfl) ?_
    rintro d ⟨hheld, h1, h2⟩
    obtain ⟨⟨k, b, n⟩, hk⟩ := waitKind_of_ne h1 h2
    refine ⟨_, ?_, watchdogEvent_modStall d st k b n (stallOf d st).pc fun y =>
      { y with held := some { why := w, raised := true } }⟩
    dsimp only
    rw [hheld]
    dsimp only
    rw [hk]
    rfl
  · refine answers_onDev (fun s => show execBoundaryLate st s = _ from rfl) ?_
    rintro d hlate
    exact ⟨_, if_pos hlate, watchdogEvent_modStall d st 6 0 0 (stallOf d st).pc fun y => { y with lateRaised := true }⟩
  · refine answers_onDev (fun s => show execSlotJam id s = _ from rfl) ?_
    rintro d ⟨ho, hphase, hkind, hbehind, hjam⟩
    refine ⟨_, ?_, watchdogEvent_modStall d (gStall o.op.addr) 5 (gBuf (tAddr o)) (tSlot o) (srcNum o) fun y =>
      { y with jammed := y.jammed ++ [id] }⟩
    dsimp only
    rw [ho]
    exact if_pos ⟨hphase, hkind, hbehind, by simpa [tAddr] using hjam⟩

/-! ### ROUTINE_START (O18) -/

/-- A register of the list of arguments that a routine starts with. -/
theorem mget_args (vs ws : List W64) {k : Nat} (hk : k < vs.length) : mget 0 (mputs 0 [] 1 (vs ++ ws)) (1 + k) = vs[k] := by
  rw [mget_mputs_inside 0 (vs ++ ws) [] 1 k (by rw [List.length_append]; omega), List.getElem_append_left hk]

/-- Settles O18. -/
theorem routineStartsWithItsArguments : Obligations.RoutineStartsWithItsArguments := by
  refine fun cid st c => answers_onDev (fun s => show execRoutineStart cid st s = _ from rfl) fun d ⟨hc, hm⟩ => ?_
  refine ⟨startRoutine d c st, by simp only [hc, hm, if_true], ?_⟩
  intro x y
  have hself : stallOf (startRoutine d c st) st = _ := stallOf_modStall_self ..
  have hy := (show y = stallOf (startRoutine d c st) st from rfl).trans hself
  have hother (j : Nat) (hj : j ≠ st) : stallOf (startRoutine d c st) j = stallOf d j := stallOf_modStall_ne _ _ hj
  clear_value y
  subst hy
  refine ⟨rfl, rfl, rfl, rfl, rfl, rfl, rfl, rfl, rfl, rfl, rfl, fun k hk hk' => ?_, ?_, fun k hk => ?_, fun k hk => ?_,
    rfl, rfl, rfl, hother⟩
  · obtain ⟨j, rfl⟩ := Nat.exists_eq_add_of_le hk
    rw [sGet, if_neg (by omega)]
    dsimp only [startRegs]
    rw [List.append_assoc, mget_args _ _ (by simp only [List.length_map, List.length_range]; omega)]
    simp
  · rw [sGet, if_neg (by decide)]
    dsimp only [startRegs]
    refine (mget_args (k := 8) _ _ (by simp)).trans ?_
    simp
    rfl
  · refine (congrArg (mget none _) (Nat.zero_add k)).symm.trans ?_
    refine (mget_mputs_inside none _ _ 0 k (by simpa using hk)).trans ?_
    simp
  · exact mget_mputs_outside _ _ _ _ _ (.inr (by simpa using hk))

/-! ### Illegal forms and pending registers (O19) -/

/-- A row's command runs the common part of every fetched instruction with the row's opcode and form. -/
def IssuesRow (p : (Nat → Instr) × Nat × (Ins → Option Form)) : Prop :=
  ∃ (name : String) (f : Nat → Ins → Stall → Dev → Issue), ∀ st s, exec (p.1 st) s = issue name p.2.1 p.2.2 st (f st) s

theorem issuesRow_of_mem : ∀ p ∈ seqRows, IssuesRow p := by
  simp only [seqRows, List.cons_append, List.nil_append, List.forall_mem_cons, List.not_mem_nil, false_imp_iff,
    implies_true, and_true]
  and_intros
  all_goals exact ⟨_, _, fun _ _ => rfl⟩

/-- Settles O19. -/
theorem illegalFormsStopAndPendingRegistersHold : Obligations.IllegalFormsStopAndPendingRegistersHold := by
  intro p hp s st w hat hw hop
  obtain ⟨name, f, hexec⟩ := issuesRow_of_mem p hp
  rw [hexec]
  refine ⟨fun hbad => ?_, fun fm hfm hok hhaz => ?_⟩
  · have hall : (p.2.2 (insOf w)).all (fun fm => !formOk fm (insOf w)) = true := by
      rcases hbad with hnone | ⟨fm, hfm, hform⟩
      · rw [hnone]
        rfl
      · rw [hfm, Option.all_some, hform]
        rfl
    exact ⟨_, issue_illegal hat.1 hat.2.1 hw hop hall, rfl, stopsAt_stopStall s.dev st 0x01 _⟩
  · exact ⟨_, issue_hazard hat hop hfm hok hhaz, rfl, heldOn_holdOn s.dev st .scoreboard⟩

/-! ### The issue of crib instructions (O20) -/

/-- The first bit of a mask for which a test holds. -/
theorem find_maskBits {m c : Nat} {p : Nat → Bool} (hc : c < 16) (hbit : bitAt m c = true) (hp : p c = true)
    (hmin : ∀ b, b < c → bitAt m b = true → p b = false) : (maskBits m).find? p = some c := by
  rw [maskBits, List.find?_filter, List.find?_range_eq_some]
  refine ⟨by simp [hbit, hp], List.mem_range.mpr hc, fun b hb => ?_⟩
  cases hm : bitAt m b with
  | false => simp
  | true => simp [hmin b hb hm]

theorem mem_maskBits {m c : Nat} : c ∈ maskBits m ↔ c < 16 ∧ bitAt m c = true := by
  rw [maskBits, List.mem_filter, List.mem_range]

/-- Every bit of a mask fails a test. -/
theorem find_maskBits_none {m : Nat} {p : Nat → Bool} (h : ∀ c, c < 16 → bitAt m c = true → p c = false) :
    (maskBits m).find? p = none :=
  List.find?_eq_none.mpr fun c hc => by
    obtain ⟨hlt, hbit⟩ := mem_maskBits.mp hc
    simp [h c hlt hbit]

theorem bnum_bitAt (m : Nat) : bnum (bitAt m 0) = bitsOf m 0 0 := by
  have h : m % 2 = 0 ∨ m % 2 = 1 := by omega
  rcases h with h | h <;> simp [bnum, bitAt, bitsOf, h]

theorem bnum_selected (o : Option Bool) : bnum (o.getD false) = if o = some true then 1 else 0 := by
  rcases o with - | - | - <;> rfl

theorem tilesFree_fetchTouch (d : Dev) (st : Nat) (a : Bool) (t : Nat × Nat) :
    tilesFree (fetchTouch d st) st a t = tilesFree d st a t := by
  rw [fetchTouch_eq]
  rfl

theorem physOf_fetchTouch (d : Dev) (st c : Nat) : physOf (fetchTouch d st) st c = physOf d st c := by
  rw [fetchTouch_eq]
  rfl

theorem liveIn_fetchTouch (d : Dev) (st : Nat) : liveIn (fetchTouch d st) = liveIn d := by
  rw [fetchTouch_eq]
  rfl

/-- The vet engine's counts change the cribs only (R515). -/
theorem foldl_countMvm (st : Nat) (l : List Nat) (d : Dev) : ∃ cs, l.foldl (countMvm st) d = { d with cribs := cs } := by
  induction l generalizing d with
  | nil => exact ⟨d.cribs, rfl⟩
  | cons a l ih => exact ih (countMvm st d a)

/-- A crib operation joins those of its stall; memory, banks and every other stall are as before. -/
def JoinsCribOps (st : Nat) (o : CribOp) (d e : Dev) : Prop :=
  e.mem = d.mem ∧ e.banks = d.banks ∧ (∀ j, j ≠ st → stallOf e j = stallOf d j) ∧
    stallOf e st = { stallOf d st with
      cribOps := (stallOf d st).cribOps ++ [{ o with id := d.nextId }], held := none, pc := (stallOf d st).pc + 1 }

theorem joins_issued {d e : Dev} {st : Nat} (o : CribOp) (he : ∃ cs, e = { fetchTouch d st with cribs := cs }) :
    let t := issued (fetchTouch d st) st (stallOf d st).pc (.go (addCribOp e st o) none)
    JoinsCribOps st o d { t with draws := t.draws + 1 } := by
  obtain ⟨cs, he⟩ := he
  rw [fetchTouch_eq] at he
  have hst (k : Nat) : stallOf e k = stallOf d k := stallOf_congr (by rw [he]) k
  have hself : stallOf (modStall (addCribOp e st o) st fun x => { x with held := none, pc := (stallOf d st).pc + 1 }) st =
      { stallOf d st with
        cribOps := (stallOf d st).cribOps ++ [{ o with id := d.nextId }], held := none, pc := (stallOf d st).pc + 1 } := by
    have hadd : stallOf (addCribOp e st o) st =
        { stallOf e st with cribOps := (stallOf e st).cribOps ++ [{ o with id := e.nextId }] } :=
      stallOf_modStall_self e st fun y => { y with cribOps := y.cribOps ++ [{ o with id := e.nextId }] }
    rw [stallOf_modStall_self, hadd, hst, he]
  have hother (j : Nat) (hj : j ≠ st) : stallOf (modStall (addCribOp e st o) st fun x =>
      { x with held := none, pc := (stallOf d st).pc + 1 }) j = stallOf d j :=
    (stallOf_modStall_ne _ _ hj).trans ((stallOf_modStall_ne e (fun y =>
      { y with cribOps := y.cribOps ++ [{ o with id := e.nextId }] }) hj).trans (hst j))
  have hmem : e.mem = d.mem := by rw [he]
  have hbanks : e.banks = d.banks := by rw [he]
  exact ⟨hmem, hbanks, hother, hself⟩

/-- Only the crib operations of the stall have changed, and its program counter has moved. -/
theorem JoinsCribOps.moves {st : Nat} {o : CribOp} {d e : Dev} (h : JoinsCribOps st o d e) :
    Moves ((stallOf d st).pc + 1) (fun x y => { x with cribOps := y.cribOps }) (stallOf d st) (stallOf e st) := by
  obtain ⟨-, -, -, hst⟩ := h
  rw [Moves, hst]

/-- CRIB.MVM past its checks (R154). -/
theorem cribMvmIssue_go {d : Dev} {st : Nat} {i : Ins} {cs : List Nat} (hcs : cs = maskBits (bitsOf i.imm 15 0))
    (hne : cs ≠ []) (hslot : cribSlot i (stallOf d st) + (if bitAt i.mod 2 then 2 * cs.length - 1 else 1) ≤ 383)
    (htile : cribTile i (stallOf d st) + (if bitAt i.mod 2 then 0 else cs.length - 1) ≤ 31)
    (hsel : ∀ c ∈ cs, mget none (stallOf d st).sel c ≠ none)
    (hfree : tilesFree d st (bitAt i.mod 0) (cribTile i (stallOf d st), if bitAt i.mod 2 then 1 else cs.length) = true) :
    ∃ o, cribMvmIssue st i (stallOf d st) (fetchTouch d st) =
        .go (addCribOp ((cs.map (physOf d st)).foldl (countMvm st) (fetchTouch d st)) st o) none ∧
      o.probe = false ∧ o.cribs = cs.map (physOf d st) ∧
      o.banks = (cs.map fun c => if mget none (stallOf d st).sel c = some true then 1 else 0) ∧
      o.add = bitAt i.mod 0 ∧ o.clip = bitAt i.mod 1 ∧ o.tall = bitAt i.mod 2 ∧ o.slot = cribSlot i (stallOf d st) ∧
      o.tile = cribTile i (stallOf d st) ∧ o.reps = 2 ^ bitsOf i.imm 31 30 ∧ o.epoch = (stallOf d st).epoch ∧
      o.started = false := by
  have hphys : cs.map (physOf (fetchTouch d st) st) = cs.map (physOf d st) :=
    List.map_congr_left fun c _ => physOf_fetchTouch d st c
  have hbanks : (cs.map fun c => bnum ((mget none (stallOf d st).sel c).getD false)) =
      cs.map fun c => if mget none (stallOf d st).sel c = some true then 1 else 0 :=
    List.map_congr_left fun c _ => bnum_selected _
  have hfind : cs.find? (fun c => mget none (stallOf d st).sel c == none) = none :=
    List.find?_eq_none.mpr fun c hc => by simpa using hsel c hc
  have hlen : cs.length ≠ 0 := fun h => hne (List.length_eq_zero_iff.mp h)
  rw [← tilesFree_fetchTouch] at hfree
  unfold cribMvmIssue
  dsimp only
  rw [← hcs, if_neg hlen, if_neg (Nat.not_lt.mpr hslot), if_neg (Nat.not_lt.mpr htile), hfind]
  dsimp only
  rw [if_neg (by rw [hfree]; exact Bool.noConfusion), hphys, hbanks]
  exact ⟨_, rfl, rfl, rfl, rfl, rfl, rfl, rfl, rfl, rfl, rfl, rfl, rfl⟩

/-- CRIB.PROBE past its checks (R156). -/
theorem cribProbeIssue_go {d : Dev} {st : Nat} {i : Ins} {ph : Nat} (hph : ph = physOf d st (bitsOf i.imm 3 0))
    (hslot : bitsOf i.imm 24 16 ≤ 382) (htile : bitsOf i.imm 29 25 ≤ 30)
    (hstate : (bankOf d (bankKey st ph (bitsOf i.mod 0 0))).state = .live ∨
      (bankOf d (bankKey st ph (bitsOf i.mod 0 0))).state = .ready)
    (hfree : tilesFree d st false (bitsOf i.imm 29 25, 2) = true) :
    ∃ o, cribProbeIssue st i (stallOf d st) (fetchTouch d st) = .go (addCribOp (fetchTouch d st) st o) none ∧
      o.probe = true ∧ o.cribs = [ph] ∧ o.banks = [bitsOf i.mod 0 0] ∧ o.slot = bitsOf i.imm 24 16 ∧
      o.tile = bitsOf i.imm 29 25 ∧ o.started = false := by
  have hbank (k : Nat) : bankOf (fetchTouch d st) k = bankOf d k := by
    rw [fetchTouch_eq]
    rfl
  rw [← tilesFree_fetchTouch] at hfree
  unfold cribProbeIssue
  dsimp only
  rw [physOf_fetchTouch, ← hph, hbank, if_neg (Nat.not_lt.mpr hslot), if_neg (Nat.not_lt.mpr htile),
    if_neg (fun h => hstate.elim h.1 h.2), if_neg (by rw [hfree]; exact Bool.noConfusion)]
  exact ⟨_, rfl, rfl, rfl, rfl, rfl, rfl, rfl⟩

/-- The banks that CRIB.BANK selects. -/
theorem mget_select (b : Bool) (cs : List Nat) (m : Map (Option Bool)) (c : Nat) :
    mget none (cs.foldl (fun m c => mput none m c (some b)) m) c = if c ∈ cs then some b else mget none m c := by
  induction cs generalizing m with
  | nil => rfl
  | cons a cs ih =>
    rw [List.foldl_cons, ih, mget_mput]
    by_cases h : c ∈ cs
    · rw [if_pos h, if_pos (List.mem_cons_of_mem _ h)]
    · rw [if_neg h]
      simp only [List.mem_cons, h, or_false]

/-- Settles O20. -/
theorem cribInstructionsIssueOrFault : Obligations.CribInstructionsIssueOrFault := by
  refine ⟨⟨fun n t cs => ?_, ?_, fun b => ?_, fun ph => ?_⟩, fun n t cs => ⟨?_, ?_, fun c => ?_⟩, ?_, ?_, fun ph => ?_, fun c => ?_⟩
  · refine runs_issue (fun _ _ => rfl) ?_
    rintro d st i r - ⟨hn, ht, hcs, hne, hslot, htile, hsel, hfree⟩ rfl
    rw [hn] at hslot
    rw [ht] at htile hfree
    obtain ⟨o, hgo, hprobe, hcribs, hbanks, hadd, hclip, htall, hoslot, hotile, hreps, hepoch, hstart⟩ :=
      cribMvmIssue_go hcs hne hslot htile hsel hfree
    have hj := joins_issued (d := d) (st := st) o (foldl_countMvm st (cs.map (physOf d st)) (fetchTouch d st))
    rw [hgo]
    have hmoves := hj.moves
    obtain ⟨hmem, hbk, hother, hst⟩ := hj
    exact ⟨hmem, hbk, hother, hmoves, { o with id := d.nextId }, congrArg Stall.cribOps hst, rfl, hprobe, hcribs, hbanks,
      hadd, hclip, htall, hoslot.trans hn.symm, hotile.trans ht.symm, hreps, hepoch, hstart⟩
  · refine runs_goSame (nx := fun _ _ => none) (fun _ _ => rfl) (fun d st i _ hmask => ?_) fun d st i e _ hframe hst => ⟨hframe, hst⟩
    unfold cribMvmIssue
    rw [hmask]
    rfl
  · refine runs_go (g := fun i _ y => { y with
        sel := (maskBits (bitsOf i.imm 15 0)).foldl (fun m c => mput none m c (some (bitAt i.mod 0))) y.sel }) (nx := fun _ _ => none) (fun _ _ => rfl) ?_ ?_
    · rintro d st i - ⟨hb, hlive⟩
      unfold cribBankIssue
      dsimp only
      rw [liveIn_fetchTouch, find_maskBits_none fun c hc hbit => by
        rw [hb] at hlive
        exact congrArg (!·) (hlive c hc hbit)]
    · rintro d st i e ⟨hb, -⟩ hframe hst
      refine ⟨hframe, by rw [Moves, hst]; rfl, fun c => ?_⟩
      rw [hst, hb]
      exact (mget_select ..).trans (by simp only [mem_maskBits])
  · refine runs_issue (fun _ _ => rfl) ?_
    rintro d st i r - ⟨hph, hslot, htile, hstate, hfree⟩ rfl
    obtain ⟨o, hgo, hprobe, hcribs, hbanks, hoslot, hotile, hstart⟩ := cribProbeIssue_go hph hslot htile hstate hfree
    have hj := joins_issued (d := d) (e := fetchTouch d st) (st := st) o ⟨(fetchTouch d st).cribs, rfl⟩
    rw [hgo]
    have hmoves := hj.moves
    obtain ⟨hmem, hbk, hother, hst⟩ := hj
    exact ⟨hmem, hbk, hother, hmoves, { o with id := d.nextId }, congrArg Stall.cribOps hst, rfl, hprobe, hcribs, hbanks,
      hoslot, hotile, hstart⟩
  · refine runs_fault (detail := fun _ _ _ => max n 384 % 2 ^ 32) (fun _ _ => rfl) ?_
    rintro d st i - ⟨rfl, rfl, hne, hslot⟩
    have hlen : (maskBits (bitsOf i.imm 15 0)).length ≠ 0 := fun h => hne (List.length_eq_zero_iff.mp h)
    unfold cribMvmIssue
    dsimp only
    exact (if_neg hlen).trans (if_pos hslot)
  · refine runs_fault (detail := fun _ _ _ => max t 32 % 2 ^ 32) (fun _ _ => rfl) ?_
    rintro d st i - ⟨rfl, rfl, rfl, hne, hslot, htile⟩
    have hlen : (maskBits (bitsOf i.imm 15 0)).length ≠ 0 := fun h => hne (List.length_eq_zero_iff.mp h)
    unfold cribMvmIssue
    dsimp only
    exact (if_neg hlen).trans ((if_neg (Nat.not_lt.mpr hslot)).trans (if_pos htile))
  · refine runs_fault (detail := fun _ _ _ => c) (fun _ _ => rfl) ?_
    rintro d st i - ⟨rfl, rfl, rfl, hslot, htile, hc, hnone, hmin⟩
    rw [← maskBits] at hc hmin
    have hlen : (maskBits (bitsOf i.imm 15 0)).length ≠ 0 := fun h =>
      List.ne_nil_of_mem hc (List.length_eq_zero_iff.mp h)
    obtain ⟨hlt, hbit⟩ := mem_maskBits.mp hc
    have hfind : (maskBits (bitsOf i.imm 15 0)).find? (fun c => mget none (stallOf d st).sel c == none) = some c :=
      find_maskBits hlt hbit (by simp [hnone]) fun b hb hbb => by
        exact beq_eq_false_iff_ne.mpr (hmin b (mem_maskBits.mpr ⟨hb.trans hlt, hbb⟩) hb)
    unfold cribMvmIssue
    dsimp only
    refine (if_neg hlen).trans ((if_neg (Nat.not_lt.mpr hslot)).trans ((if_neg (Nat.not_lt.mpr htile)).trans ?_))
    rw [hfind]
  · refine runs_fault (detail := fun _ _ i => max (bitsOf i.imm 24 16) 384) (fun _ _ => rfl) fun d st i _ hslot => ?_
    unfold cribProbeIssue
    exact if_pos hslot
  · refine runs_fault (detail := fun _ _ i => max (bitsOf i.imm 29 25) 32) (fun _ _ => rfl) ?_
    rintro d st i - ⟨hslot, htile⟩
    unfold cribProbeIssue
    exact (if_neg (Nat.not_lt.mpr hslot)).trans (if_pos htile)
  · refine runs_fault (detail := fun _ _ i => 2 * bitsOf i.imm 3 0 + bitsOf i.mod 0 0) (fun _ _ => rfl) ?_
    rintro d st i - ⟨rfl, hslot, htile, hlive, hready⟩
    have hbank (k : Nat) : bankOf (fetchTouch d st) k = bankOf d k := by
      rw [fetchTouch_eq]
      rfl
    unfold cribProbeIssue
    dsimp only
    rw [if_neg (Nat.not_lt.mpr hslot), if_neg (Nat.not_lt.mpr htile), physOf_fetchTouch, hbank, if_pos ⟨hlive, hready⟩]
  · refine runs_fault (detail := fun _ _ _ => c) (fun _ _ => rfl) ?_
    rintro d st i - ⟨hlt, hbit, hdead, hmin⟩
    rw [← bnum_bitAt] at hdead hmin
    unfold cribBankIssue
    dsimp only
    rw [liveIn_fetchTouch, find_maskBits hlt hbit (by rw [hdead]; rfl) fun b hb hbb => by rw [hmin b hb hbb]; rfl]

end Sys2Proof.Machine
end

section
/-! What events, packets, and reads and writes of memory leave: the frames that the statements about memory rest on. -/

namespace Sys2Proof.Machine

open Sys2Proof

/-! ### Events and packets -/

/-- Only counters, outputs, rings, the numbers of events and messages, and the ports have changed: what an event or a packet
may change. -/
def Signals (d e : Dev) : Prop :=
  e = { d with
    ctr := e.ctr, out := e.out
    host := { d.host with rings := e.host.rings, seqno := e.host.seqno, msixPending := e.host.msixPending }
    health := { d.health with sendQueue := e.health.sendQueue }
    pad := { d.pad with ports := e.pad.ports, messageNo := e.pad.messageNo } }

theorem Signals.refl (d : Dev) : Signals d d := rfl

theorem Signals.trans {d e f : Dev} (h : Signals d e) (g : Signals e f) : Signals d f := by
  unfold Signals at *
  rw [h] at g
  exact g

theorem Signals.reports {d e : Dev} (h : Signals d e) : Reports d e := by
  unfold Signals at h
  unfold Reports
  rw [h]

theorem signals_foldl {α : Type} {f : Dev → α → Dev} (hf : ∀ d a, Signals d (f d a)) :
    ∀ (l : List α) (d : Dev), Signals d (l.foldl f d)
  | [], d => .refl d
  | a :: l, d => (hf d a).trans (signals_foldl hf l (f d a))

theorem signals_sendPacket (d : Dev) (p : Nat) (b : PacketBody) : Signals d (sendPacket d p b) := by
  unfold sendPacket
  dsimp only
  split <;> rfl

theorem signals_sendTo (d : Dev) (m st a : Nat) (b : PacketBody) : Signals d (sendTo d m st a b) := by
  unfold sendTo
  split
  · rfl
  · exact signals_sendPacket ..
  · exact signals_sendPacket ..

theorem signals_sendWhole (d : Dev) (dst : Nat) (x : Message) {f : Dev → PacketBody → Dev} (hf : ∀ d b, Signals d (f d b)) :
    Signals d (sendWhole d dst x f) := by
  refine Signals.trans ?_ (signals_foldl hf _ _)
  dsimp only
  split <;> rfl

theorem signals_sendMsg (d : Dev) (m : Nat) (x : Message) : Signals d (sendMsg d m x) :=
  signals_sendWhole _ _ _ fun _ _ => signals_sendTo ..

theorem signals_sendTwin (d : Dev) (x : Message) : Signals d (sendTwin d x) := by
  unfold sendTwin
  split
  · exact signals_sendWhole _ _ _ fun _ _ => signals_sendPacket ..
  · rfl

theorem signals_bumpBy (d : Dev) (o n : Nat) : Signals d (bumpBy d o n) := rfl

theorem signals_sendMsix (d : Dev) (fn v : Nat) : Signals d (sendMsix d fn v) := by
  unfold sendMsix
  dsimp only
  split <;> rfl

theorem signals_eventToRing (e : Event) (p : Dev × List (Nat × Nat)) (r : Nat) : Signals p.1 (eventToRing e p r).1 := by
  unfold eventToRing
  split
  · rfl
  · split
    · rfl
    · split
      · rfl
      · exact Signals.trans (e := emit (setRing p.1 r _) _) rfl (signals_sendMsix ..)

theorem signals_writeEvent (d : Dev) (cls : Nat) (e : Event) : Signals d (writeEvent d cls e).1 := by
  have hrings : ∀ (l : List Nat) (p : Dev × List (Nat × Nat)), Signals p.1 (l.foldl (eventToRing e) p).1 := by
    intro l
    induction l with
    | nil => exact fun p => .refl p.1
    | cons r l ih => exact fun p => (signals_eventToRing e p r).trans (ih _)
  unfold writeEvent
  dsimp only
  generalize takers d _ cls = ts
  split
  · rfl
  · exact hrings ts (d, [])

theorem signals_passEvent (d : Dev) (cls : Nat) (e : Event) : Signals d (passEvent d cls e).1 := by
  unfold passEvent
  split
  · split
    · rfl
    · exact signals_sendMsg ..
  · exact signals_writeEvent ..

theorem signals_raiseOne (d : Dev) (q : Raised) : Signals d (raiseOne d q).1 := by
  unfold raiseOne
  dsimp only
  refine Signals.trans ?_ (signals_passEvent ..)
  split <;> rfl

theorem signals_raiseAll : ∀ (n : Nat) (d : Dev) (l : List Raised), Signals d (raiseAll n d l)
  | 0, d, _ => .refl d
  | _ + 1, d, [] => .refl d
  | n + 1, d, q :: _ => (signals_raiseOne d q).trans (signals_raiseAll n _ _)

theorem signals_raiseEvent (d : Dev) (fn cls code a b : Nat) : Signals d (raiseEvent d fn cls code a b) :=
  signals_raiseAll ..

/-! ### Reads of memory -/

/-- Beside what an event may change only the error marks, the remap entries and the wear of memory have: its bytes stand. -/
def Touches (d e : Dev) : Prop :=
  e = { d with
    ctr := e.ctr, out := e.out
    host := { d.host with rings := e.host.rings, seqno := e.host.seqno, msixPending := e.host.msixPending }
    health := { d.health with sendQueue := e.health.sendQueue }
    pad := { d.pad with ports := e.pad.ports, messageNo := e.pad.messageNo }
    mem := { d.mem with
      dramErr := e.mem.dramErr, dramUe := e.mem.dramUe, dramRemap := e.mem.dramRemap, loftErr := e.mem.loftErr
      loftUe := e.mem.loftUe, wear := e.mem.wear, wornSent := e.mem.wornSent } }

theorem Touches.refl (d : Dev) : Touches d d := rfl

theorem Touches.trans {d e f : Dev} (h : Touches d e) (g : Touches e f) : Touches d f := by
  unfold Touches at *
  rw [h] at g
  exact g

theorem Signals.touches {d e : Dev} (h : Signals d e) : Touches d e := by
  unfold Signals at h
  unfold Touches
  rw [h]

theorem touches_foldl {α : Type} {f : Dev → α → Dev} (hf : ∀ d a, Touches d (f d a)) :
    ∀ (l : List α) (d : Dev), Touches d (l.foldl f d)
  | [], d => .refl d
  | a :: l, d => (hf d a).trans (touches_foldl hf l (f d a))

/-- The parts of the module that a touch leaves alone. -/
theorem Touches.machine {d e : Dev} (h : Touches d e) : e.stalls = d.stalls ∧ e.cribs = d.cribs ∧ e.banks = d.banks ∧
    e.ops = d.ops ∧ e.attn = d.attn ∧ e.feed = d.feed ∧ e.nextId = d.nextId ∧ e.draws = d.draws := by
  unfold Touches at h
  rw [h]
  exact ⟨rfl, rfl, rfl, rfl, rfl, rfl, rfl, rfl⟩

theorem Touches.stalls {d e : Dev} (h : Touches d e) : e.stalls = d.stalls := h.machine.1

theorem Touches.banks {d e : Dev} (h : Touches d e) : e.banks = d.banks := h.machine.2.2.1

theorem Touches.ops {d e : Dev} (h : Touches d e) : e.ops = d.ops := h.machine.2.2.2.1

theorem Touches.feed {d e : Dev} (h : Touches d e) : e.feed = d.feed := h.machine.2.2.2.2.2.1

/-- The bytes of memory that a touch leaves alone. -/
theorem Touches.bytes {d e : Dev} (h : Touches d e) : e.mem.dram = d.mem.dram ∧ e.mem.loft = d.mem.loft ∧
    e.mem.record = d.mem.record := by
  unfold Touches at h
  rw [h]
  exact ⟨rfl, rfl, rfl⟩

/-- What a binding mirrors, and the number of the next mirrored write, do not depend on a touch. -/
theorem Touches.mirror {d e : Dev} (h : Touches d e) : mirroring e = mirroring d ∧ mirroredDram e = mirroredDram d ∧
    mirroredLoft e = mirroredLoft d ∧ e.pad.twinNext = d.pad.twinNext := by
  unfold Touches at h
  rw [h]
  exact ⟨rfl, rfl, rfl, rfl⟩

theorem touches_dramTouch (d : Dev) (line : Nat) : Touches d (dramTouch d line) := by
  unfold dramTouch
  dsimp only
  split
  · rfl
  · rfl
  · exact Touches.trans (e := setMem (bump d (dramReg (stackOf (64 * line)) 0x10)) { d.mem with
      dramUe := mput (0, false) d.mem.dramUe (stackOf (64 * line)) (localLine (64 * line), true) }) rfl
      (signals_raiseEvent ..).touches
  · rfl

theorem touches_dramTouchAll (d : Dev) (keys : List Nat) : Touches d (dramTouchAll d keys) :=
  touches_foldl touches_dramTouch _ _

theorem touches_dramLineWrite (keys : List Nat) (d : Dev) (line : Nat) : Touches d (dramLineWrite keys d line) := by
  unfold dramLineWrite
  split
  · rfl
  · dsimp only
    have h := touches_dramTouch d line
    generalize dramTouch d line = e at h
    split
    · exact h.trans (f := setMem e { e.mem with dramErr := mput none e.mem.dramErr line (some .poisoned) }) rfl
    · exact h

theorem touches_loftTouch (d : Dev) (unit : Nat) : Touches d (loftTouch d unit) := by
  unfold loftTouch
  dsimp only
  split
  · rfl
  · rfl
  · exact Touches.trans (e := setMem (bump d (loftReg (loftStack (256 * unit)) 0x10)) { d.mem with
      loftUe := mput (0, false) d.mem.loftUe (loftStack (256 * unit)) (loftLocal (256 * unit) / 256, true) }) rfl
      (signals_raiseEvent ..).touches
  · rfl

theorem touches_loftTouchAll (d : Dev) (offs : List Nat) : Touches d (loftTouchAll d offs) :=
  touches_foldl touches_loftTouch _ _

theorem touches_loftWorn (d : Dev) (unit : Nat) : Touches d (loftWorn d unit) := by
  unfold loftWorn
  dsimp only
  split
  · rfl
  · exact Touches.trans (e := setMem (bump d (loftReg (loftStack (256 * unit)) 0x20)) { d.mem with
      wornSent := mput false d.mem.wornSent (regionOf unit) true }) rfl (signals_raiseEvent ..).touches

theorem signals_countBeyond (d : Dev) (a : W64) (len : Nat) : Signals d (countBeyond d a len) := by
  unfold countBeyond
  split
  · rfl
  · split
    · rfl
    · split <;> rfl

/-! ### Writes of memory -/

/-- Beside what an event may change only the contents of memory have. -/
def Writes (d e : Dev) : Prop :=
  e = { d with
    ctr := e.ctr, out := e.out
    host := { d.host with rings := e.host.rings, seqno := e.host.seqno, msixPending := e.host.msixPending }
    health := { d.health with sendQueue := e.health.sendQueue }
    pad := { d.pad with ports := e.pad.ports, messageNo := e.pad.messageNo }
    mem := { d.mem with
      dram := e.mem.dram, dramErr := e.mem.dramErr, dramUe := e.mem.dramUe, dramRemap := e.mem.dramRemap
      loft := e.mem.loft, loftErr := e.mem.loftErr, loftUe := e.mem.loftUe, record := e.mem.record
      wear := e.mem.wear, wornSent := e.mem.wornSent } }

theorem Writes.refl (d : Dev) : Writes d d := rfl

theorem Writes.trans {d e f : Dev} (h : Writes d e) (g : Writes e f) : Writes d f := by
  unfold Writes at *
  rw [h] at g
  exact g

theorem Touches.writes {d e : Dev} (h : Touches d e) : Writes d e := by
  unfold Touches at h
  unfold Writes
  rw [h]

theorem Writes.machine {d e : Dev} (h : Writes d e) : e.stalls = d.stalls ∧ e.ops = d.ops ∧ e.banks = d.banks ∧
    mirroring e = mirroring d ∧ mirroredDram e = mirroredDram d ∧ mirroredLoft e = mirroredLoft d ∧
    e.pad.twinNext = d.pad.twinNext := by
  unfold Writes at h
  rw [h]
  exact ⟨rfl, rfl, rfl, rfl, rfl, rfl, rfl⟩

theorem Writes.stalls {d e : Dev} (h : Writes d e) : e.stalls = d.stalls := h.machine.1

theorem Writes.ops {d e : Dev} (h : Writes d e) : e.ops = d.ops := h.machine.2.1

theorem Writes.mirroring {d e : Dev} (h : Writes d e) : mirroring e = mirroring d := h.machine.2.2.2.1

theorem Writes.mirroredDram {d e : Dev} (h : Writes d e) : mirroredDram e = mirroredDram d := h.machine.2.2.2.2.1

theorem Writes.mirroredLoft {d e : Dev} (h : Writes d e) : mirroredLoft e = mirroredLoft d := h.machine.2.2.2.2.2.1

theorem Writes.twinNext {d e : Dev} (h : Writes d e) : e.pad.twinNext = d.pad.twinNext := h.machine.2.2.2.2.2.2

/-- A write of DRAM bytes stores them and touches their lines. -/
theorem dramWrite_spec (d : Dev) (kbs : List (Nat × Byte)) :
    let e := dramWrite d kbs
    Writes d e ∧ e.mem.dram = dramStore d.mem.dram kbs ∧ e.mem.loft = d.mem.loft := by
  have h := touches_foldl (touches_dramLineWrite (kbs.map (·.1))) (linesOf (kbs.map (·.1))) d
  intro e
  have he : e = dramWrite d kbs := rfl
  unfold dramWrite at he
  dsimp only at he
  generalize (linesOf (kbs.map (·.1))).foldl (dramLineWrite (kbs.map (·.1))) d = g at h he
  obtain ⟨hdram, hloft, -⟩ := h.bytes
  clear_value e
  subst he
  refine ⟨h.writes.trans rfl, ?_, hloft⟩
  show dramStore g.mem.dram kbs = _
  rw [hdram]

/-- Bytes stored at keys that all differ are read back. -/
theorem map_mget_dramStore (m : Map Byte) {keys : List Nat} {bs : List Byte} (hnd : keys.Nodup)
    (hlen : bs.length = keys.length) : keys.map (mget 0 (dramStore m (keys.zip bs))) = bs := by
  refine List.ext_getElem (by rw [List.length_map, hlen]) fun n h1 h2 => ?_
  have hn : n < keys.length := by rwa [List.length_map] at h1
  have hkeys : ((keys.zip bs).map (·.1)).Nodup := by
    rw [List.map_fst_zip (by omega)]
    exact hnd
  rw [List.getElem_map]
  refine mget_dramStore_inside (keys.zip bs) m hkeys (keys[n], bs[n]) ?_
  rw [← List.getElem_zip (h := by rw [List.length_zip]; omega)]
  exact List.getElem_mem _

/-- A store at keys leaves every other place. -/
theorem mget_dramStore_zip_outside (m : Map Byte) {keys : List Nat} {bs : List Byte} {k : Nat} (hk : k ∉ keys) :
    mget 0 (dramStore m (keys.zip bs)) k = mget 0 m k :=
  mget_dramStore_outside _ _ _ fun _ hp h => hk (h ▸ (List.of_mem_zip hp).1)

theorem dramPlace_injective {a b : Nat} (ha : a < space1Size) (hb : b < space1Size) (h : dramPlace a = dramPlace b) : a = b := by
  unfold dramPlace dramKey stackSize at h
  unfold space1Size at ha hb
  omega

theorem homeKey_injective {die a b : Nat} (h : homeKey die a = homeKey die b) : a = b := by
  unfold homeKey dramKey at h
  omega

/-- The keys of a range inside its region all differ. -/
theorem dramKeys_nodup {a : W64} {off n : Nat} (h : gSpace a = 1 → off + n ≤ space1Size) : (dramKeys a off n).Nodup := by
  unfold dramKeys
  split
  · next hs =>
    refine (List.nodup_range).map_on fun x hx y hy hxy => ?_
    have := h hs
    rw [List.mem_range] at hx hy
    have := dramPlace_injective (by omega) (by omega) hxy
    omega
  · refine (List.nodup_range).map_on fun x _ y _ hxy => ?_
    have := homeKey_injective hxy
    omega

theorem length_dramKeys (a : W64) (off n : Nat) : (dramKeys a off n).length = n := by
  unfold dramKeys space1Keys homeKeys
  split <;> rw [List.length_map, List.length_range]

/-! ### Mirrored writes (R495) -/

/-- A write that is mirrored takes the next number, another changes nothing. -/
theorem mirrorOut_spec (d : Dev) (loft : Bool) (obs : List (Nat × Byte)) :
    Reports d (mirrorOut d loft obs) ∧ (mirrorOut d loft obs).pad.twinNext =
      if mirroring d = true ∧ (obs.filter fun p => if loft then mirroredLoft d p.1 else mirroredDram d p.1) ≠ [] then
        d.pad.twinNext + 1 else d.pad.twinNext := by
  refine ⟨reports_mirrorOut .., ?_⟩
  unfold mirrorOut
  dsimp only
  generalize (obs.filter fun p => if loft then mirroredLoft d p.1 else mirroredDram d p.1) = hit
  split
  · have h := signals_sendTwin (setPad (if twinBusy d then bump d 0x31018 else d)
      { (if twinBusy d then bump d 0x31018 else d).pad with
        twinNext := d.pad.twinNext + 1
        twinOut := (if twinBusy d then bump d 0x31018 else d).pad.twinOut ++ [d.pad.twinNext] })
      (.twinWrite d.pad.twinNext loft hit)
    unfold Signals at h
    rw [h]
    rfl
  · rfl

/-- Some byte of a list of bytes at keys is mirrored. -/
theorem filter_zip_ne_nil {keys : List Nat} {bs : List Byte} (f : Nat → Bool) (hlen : bs.length = keys.length) :
    ((keys.zip bs).filter fun p => f p.1) ≠ [] ↔ ∃ k ∈ keys, f k = true := by
  rw [Ne, List.filter_eq_nil_iff]
  have hfst : (keys.zip bs).map (·.1) = keys := List.map_fst_zip (by omega)
  constructor
  · intro h
    by_contra hno
    exact h fun p hp hf => hno ⟨p.1, (List.of_mem_zip hp).1, hf⟩
  · rintro ⟨k, hk, hf⟩ hall
    rw [← hfst] at hk
    obtain ⟨p, hp, rfl⟩ := List.mem_map.mp hk
    exact hall p hp hf

theorem performed_mem (d : Dev) (o : RemOp) (back : List Byte) : (performed d o back).mem = d.mem := by
  unfold performed
  split
  · rfl
  · exact (reports_sendReply (dropOp d o.id) o.op back).machine.2.2.2.1

/-- An operation settles at memory: it is performed, or waits for the standby when its write is mirrored. -/
theorem settle_spec {d e : Dev} {id : Nat} {o : RemOp} {back : List Byte} {mirrors : Prop}
    (hop : opOf d id = some o) (hops : e.ops = d.ops) (hyes : mirrors → e.pad.twinNext = d.pad.twinNext + 1)
    (hno : ¬ mirrors → e.pad.twinNext = d.pad.twinNext) :
    PerformedAt mirrors d id o back (settle d e o back) ∧ (settle d e o back).mem = e.mem ∧
      (settle d e o back).stalls = e.stalls := by
  have hope : opOf e id = some o := (opOf_congr hops id).trans hop
  unfold settle
  by_cases hm : mirrors
  · have hnext := hyes hm
    rw [if_pos (by omega)]
    refine ⟨⟨fun h => absurd hm h, fun _ => ?_⟩, rfl, rfl⟩
    rw [hnext, Nat.add_sub_cancel]
    exact opOf_putOp_self hope (opOf_id (o := o) hop)
  · have hnext := hno hm
    rw [if_neg (by omega)]
    obtain ⟨hdone, hstalls⟩ := performed_performed hope back
    refine ⟨⟨fun _ => hdone, fun h => absurd h hm⟩, performed_mem .., hstalls⟩

end Sys2Proof.Machine
end

section
/-! Remote operations at their homes, and their completion (O24 to O27). -/

namespace Sys2Proof.Machine

open Sys2Proof

/-! ### Arrival (R213 to R219) -/

theorem opOf_arriving {d : Dev} {id : Nat} {o : RemOp} (h : arriving d id = some o) : opOf d id = some o := by
  unfold arriving at h
  split at h
  · next p hp =>
    split at h
    · rwa [hp]
    · cases h
  · cases h

/-- An operation that reaches a stall is performed there. -/
theorem Reaches.arrive {d : Dev} {id : Nat} {o : RemOp} (h : Reaches d id o) (hs : gSpace o.op.addr = 0) :
    Machine.arrive d o = performAtStall d o := by
  obtain ⟨-, -, hstall⟩ := h
  obtain ⟨hgone, hrefused, hbehind, hfull⟩ := hstall hs
  unfold Machine.arrive tAddr
  simp only [hgone, hrefused, hbehind, hfull, Bool.false_eq_true, if_false, Bool.or_self]

theorem countBeyond_inside {d : Dev} {a : W64} {len : Nat} (h : gOff a + len ≤ regionSize a) : countBeyond d a len = d :=
  if_pos h

theorem regionSize_one {a : W64} (h : gSpace a = 1) : regionSize a = space1Size := by
  unfold regionSize
  rw [if_neg (by omega), if_pos h]

theorem regionSize_loft {a : W64} (h : gSpace a = 2) : regionSize a = loftSize := by
  unfold regionSize
  rw [if_neg (by omega), if_neg (by omega), if_pos h]

theorem inside_eq {a : W64} {len : Nat} (h : gOff a + len ≤ regionSize a) : inside a len = len := by
  unfold inside
  omega

/-! ### At a stall's buffers -/

/-- What a write of bytes of a buffer leaves of its stall. -/
def BufferWritten (buf off : Nat) (bs : List Byte) (x y : Stall) : Prop :=
  (∀ k, k < bs.length → byteOf y buf (off + k) = some (bs.getD k 0)) ∧ BytesBut buf off bs.length x y ∧
    y = { x with trough := y.trough, bin := y.bin, manger := y.manger }

theorem bufferWritten_setSram (x : Stall) {buf : Nat} (hbuf : buf < 3) (off : Nat) (bs : List Byte) :
    BufferWritten buf off bs x (setSram x buf (sramPut (sramOf x buf) off bs)) := by
  refine ⟨fun k hk => ?_, fun b o hb hout => ?_, setSram_fields ..⟩
  · rw [byteOf_sramPut x hbuf hbuf, if_pos ⟨rfl, by omega, by omega⟩, Nat.add_sub_cancel_left]
  · rw [byteOf_sramPut x hbuf hb, if_neg hout]

theorem stallOf_sramWrite_self (d : Dev) (st buf off : Nat) (bs : List Byte) :
    stallOf (sramWrite d st buf off bs) st =
      setSram (stallOf d st) buf (sramPut (sramOf (stallOf d st) buf) off bs) := stallOf_modStall_self ..

theorem stallOf_sramWrite_ne (d : Dev) {st j : Nat} (buf off : Nat) (bs : List Byte) (h : j ≠ st) :
    stallOf (sramWrite d st buf off bs) j = stallOf d j := stallOf_modStall_ne _ _ h

/-- The effect of an operation performed at a stall: it is performed, and memory and the stalls stand as the effect left them. -/
theorem performedAtStall_spec {d g : Dev} {id : Nat} {o : RemOp} (hop : opOf d id = some o) (hops : g.ops = d.ops)
    (back : List Byte) (hmem : g.mem = d.mem) :
    let e := performed g o back
    Performed id o back e ∧ e.mem = d.mem ∧ ∀ j, stallOf e j = stallOf g j := by
  obtain ⟨hdone, hstalls⟩ := performed_performed ((opOf_congr hops id).trans hop) back
  exact ⟨hdone, (performed_mem ..).trans hmem, stallOf_congr hstalls⟩

/-! ### Writes of memory (R344, R361) -/

/-- A write of DRAM inside its region: the bytes stand at their keys, everything else of memory's bytes is as before, and the
write takes a number of the binding when some of it is mirrored. -/
theorem memWrite_dram {d : Dev} {a : W64} {bs : List Byte} (hs : gSpace a = 1 ∨ gSpace a = 5)
    (hin : gOff a + bs.length ≤ regionSize a) :
    let keys := dramKeys a (gOff a) bs.length
    let e := memWrite d a bs
    dramAt e keys = bs ∧ DramBut keys d e ∧ e.mem.loft = d.mem.loft ∧ e.stalls = d.stalls ∧ e.ops = d.ops ∧
      (MirrorsDram d keys → e.pad.twinNext = d.pad.twinNext + 1) ∧
      (¬ MirrorsDram d keys → e.pad.twinNext = d.pad.twinNext) := by
  have hwrite : memWrite d a bs = mirrorOut (dramWrite d ((dramKeys a (gOff a) bs.length).zip bs)) false
      ((dramKeys a (gOff a) bs.length).zip bs) := by
    unfold memWrite
    dsimp only
    rw [inside_eq hin, List.take_length, if_neg (by omega)]
  intro keys e
  have he : e = mirrorOut (dramWrite d (keys.zip bs)) false (keys.zip bs) := hwrite
  have hlen : keys.length = bs.length := length_dramKeys ..
  have hnd : keys.Nodup := dramKeys_nodup fun h => by
    rw [← regionSize_one h]
    exact hin
  clear_value e keys
  refine under_name fun named shown => ?_
  obtain ⟨hg, hdram, hloft⟩ := dramWrite_spec d (keys.zip bs)
  obtain ⟨hrep, hnext⟩ := mirrorOut_spec (dramWrite d (keys.zip bs)) false (keys.zip bs)
  rw [← he] at hrep hnext
  generalize dramWrite d (keys.zip bs) = g at *
  have hbytes : e.mem.dram = dramStore d.mem.dram (keys.zip bs) := by rw [hrep.mem, hdram]
  have hmirrors : MirrorsDram d keys ↔ mirroring d = true ∧
      ((keys.zip bs).filter fun p => if false = true then mirroredLoft g p.1 else mirroredDram g p.1) ≠ [] := by
    unfold MirrorsDram
    rw [← hg.mirroredDram]
    simp only [Bool.false_eq_true, if_false]
    exact and_congr_right fun _ => (filter_zip_ne_nil (mirroredDram g) hlen.symm).symm
  refine shown ⟨?_, fun k hk => ?_, ?_, hrep.stalls.trans hg.stalls, hrep.ops.trans hg.ops, fun hm => ?_, fun hm => ?_⟩
  · unfold dramAt
    rw [hbytes]
    exact map_mget_dramStore d.mem.dram hnd hlen.symm
  · rw [hbytes]
    exact mget_dramStore_zip_outside d.mem.dram hk
  · rw [hrep.mem, hloft]
  · rw [← hg.twinNext]
    refine hnext.trans (if_pos ?_)
    rw [hmirrors, ← hg.mirroring] at hm
    exact hm
  · rw [← hg.twinNext]
    refine hnext.trans (if_neg fun h => hm ?_)
    rw [hmirrors, ← hg.mirroring]
    exact h

/-- A read of a loft unit records at most that it failed. -/
theorem loftTouch_mem (d : Dev) (unit : Nat) :
    (loftTouch d unit).mem = { d.mem with loftUe := (loftTouch d unit).mem.loftUe } := by
  unfold loftTouch
  dsimp only
  split
  · rfl
  · rfl
  · rw [(reports_raiseEvent ..).machine.2.2.2.1]
    rfl
  · rfl

/-- A write of a unit in a region that is not worn. -/
theorem loftUnitWrite_spec {d : Dev} {u : Nat} (obs : List (Nat × Byte)) (hw : unitWorn d u = false) :
    let e := loftUnitWrite obs d u
    let mine := obs.filter fun p => unitOf p.1 == u
    Writes d e ∧ e.mem.dram = d.mem.dram ∧ e.mem.loft = dramStore d.mem.loft mine ∧
      e.mem.record = noteRecord d.mem.record mine ∧
      e.mem.wear = mput 0 d.mem.wear (regionOf u) (mget 0 d.mem.wear (regionOf u) + 1) := by
  intro e mine
  have he : e = loftUnitWrite obs d u := rfl
  unfold loftUnitWrite at he
  rw [if_neg (by rw [hw]; exact Bool.noConfusion)] at he
  dsimp only at he
  have hread : ∃ g, Touches d g ∧ g.mem = { d.mem with loftUe := g.mem.loftUe } ∧
      (if (mine.map (·.1)).eraseDups.length = 256 then d else loftTouch d u) = g := by
    split
    · exact ⟨d, .refl d, rfl, rfl⟩
    · exact ⟨_, touches_loftTouch d u, loftTouch_mem d u, rfl⟩
  obtain ⟨g, hg, hmem, hgd⟩ := hread
  rw [hgd] at he
  generalize (if (mine.map (·.1)).eraseDups.length = 256 then none else
    if (unitErr d u == some ErrKind.uncorrectable) = true then some ErrKind.poisoned else
      if (unitErr d u == some ErrKind.correctable) = true then none else unitErr d u) = err at he
  clear_value e
  subst he
  refine ⟨hg.writes.trans rfl, ?_, ?_, ?_, ?_⟩
  · show g.mem.dram = d.mem.dram
    rw [hmem]
  · show dramStore g.mem.loft mine = _
    rw [hmem]
  · show noteRecord g.mem.record mine = _
    rw [hmem]
  · show mput 0 g.mem.wear (regionOf u) (mget 0 g.mem.wear (regionOf u) + 1) = _
    rw [hmem]

/-- Whether a byte of the record area has been written by an operation. -/
theorem mget_noteRecord (obs : List (Nat × Byte)) (m : Map Bool) (o : Nat) :
    ((∃ p ∈ obs, p.1 = o) → recordBase ≤ o → mget false (noteRecord m obs) o = true) ∧
      ((∀ p ∈ obs, p.1 ≠ o) → mget false (noteRecord m obs) o = mget false m o) ∧
      (mget false m o = true → mget false (noteRecord m obs) o = true) := by
  unfold noteRecord
  induction obs generalizing m with
  | nil => exact ⟨fun ⟨_, h, _⟩ => absurd h List.not_mem_nil, fun _ => rfl, id⟩
  | cons q obs ih =>
    obtain ⟨hin, hout, hkeep⟩ := ih (if recordBase ≤ q.1 then mput false m q.1 true else m)
    rw [List.foldl_cons]
    refine ⟨fun ⟨p, hp, hpo⟩ hrec => ?_, fun hno => ?_, fun hm => hkeep ?_⟩
    · rcases List.mem_cons.mp hp with rfl | hp
      · refine hkeep ?_
        rw [if_pos (by omega), hpo, mget_mput_self]
      · exact hin ⟨p, hp, hpo⟩ hrec
    · rw [hout fun p hp => hno p (List.mem_cons_of_mem _ hp)]
      have hq := hno q (List.mem_cons_self ..)
      split
      · exact mget_mput_ne _ _ _ hq.symm
      · rfl
    · split
      · rw [mget_mput]
        split
        · rfl
        · exact hm
      · exact hm

/-- The units of a list, each once. -/
theorem eraseDups_nodup (l : List Nat) : l.eraseDups.Nodup ∧ l.eraseDups.length ≤ l.length := by
  induction hn : l.length using Nat.strong_induction_on generalizing l with
  | _ n ih =>
    cases l with
    | nil => exact ⟨List.nodup_nil, Nat.zero_le _⟩
    | cons a l =>
      have hle : (l.filter fun b => !b == a).length ≤ l.length := List.length_filter_le ..
      rw [List.length_cons] at hn
      obtain ⟨hnd, hlen⟩ := ih _ (by omega) (l.filter fun b => !b == a) rfl
      rw [List.eraseDups_cons]
      refine ⟨List.nodup_cons.mpr ⟨fun h => ?_, hnd⟩, by rw [List.length_cons]; omega⟩
      simpa using (List.mem_filter.mp (List.mem_eraseDups.mp h)).2

/-- What a write of loft units leaves, unit by unit: the bytes of the units written stand, and all others are as before. -/
theorem loftWrite_units {obs : List (Nat × Byte)} (hnd : (obs.map (·.1)).Nodup) (us : List Nat) (hus : us.Nodup) (d : Dev)
    (hwear : ∀ u ∈ us, mget 0 d.mem.wear (regionOf u) + us.length ≤ wearBudget) :
    let e := us.foldl (loftUnitWrite obs) d
    Writes d e ∧ e.mem.dram = d.mem.dram ∧
      (∀ p ∈ obs, unitOf p.1 ∈ us → mget 0 e.mem.loft p.1 = p.2 ∧ (recordBase ≤ p.1 → mget false e.mem.record p.1 = true)) ∧
      ∀ o, (unitOf o ∉ us ∨ o ∉ obs.map (·.1)) →
        mget 0 e.mem.loft o = mget 0 d.mem.loft o ∧ mget false e.mem.record o = mget false d.mem.record o := by
  induction us generalizing d with
  | nil => exact ⟨.refl d, rfl, fun _ _ h => absurd h List.not_mem_nil, fun _ _ => ⟨rfl, rfl⟩⟩
  | cons u us ih =>
    obtain ⟨hu, hus⟩ := List.nodup_cons.mp hus
    have hworn : unitWorn d u = false := by
      have := hwear u (List.mem_cons_self ..)
      rw [List.length_cons] at this
      exact decide_eq_false (by omega)
    obtain ⟨hw, hdram, hloft, hrec, hwr⟩ := loftUnitWrite_spec (d := d) (u := u) obs hworn
    have hmine (p : Nat × Byte) (hp : p ∈ obs) (hpu : unitOf p.1 = u) : p ∈ obs.filter fun p => unitOf p.1 == u :=
      List.mem_filter.mpr ⟨hp, beq_iff_eq.mpr hpu⟩
    have hother (o : Nat) (ho : unitOf o ≠ u ∨ o ∉ obs.map (·.1)) : ∀ p ∈ obs.filter fun p => unitOf p.1 == u, p.1 ≠ o := by
      rintro p hp rfl
      obtain ⟨hp, hpu⟩ := List.mem_filter.mp hp
      exact ho.elim (fun h => h (beq_iff_eq.mp hpu)) fun h => h (List.mem_map.mpr ⟨p, hp, rfl⟩)
    obtain ⟨iw, idram, iin, iout⟩ := ih hus (loftUnitWrite obs d u) fun v hv => by
      have := hwear v (List.mem_cons_of_mem _ hv)
      rw [List.length_cons] at this
      rw [hwr, mget_mput]
      split
      · next h =>
        rw [← h]
        omega
      · omega
    refine ⟨hw.trans iw, idram.trans hdram, fun p hp hpu => ?_, fun o ho => ?_⟩
    · by_cases hin : unitOf p.1 ∈ us
      · exact iin p hp hin
      · obtain ⟨hl, hr⟩ := iout p.1 (.inl hin)
        have hpu : unitOf p.1 = u := (List.mem_cons.mp hpu).resolve_right hin
        have hsub : ((obs.filter fun p => unitOf p.1 == u).map (·.1)).Nodup :=
          hnd.sublist (List.filter_sublist.map _)
        refine ⟨hl.trans ?_, fun hbase => hr.trans ?_⟩
        · rw [hloft]
          exact mget_dramStore_inside _ _ hsub p (hmine p hp hpu)
        · rw [hrec]
          exact (mget_noteRecord _ _ _).1 ⟨p, hmine p hp hpu, rfl⟩ hbase
    · have ho' : unitOf o ∉ us ∨ o ∉ obs.map (·.1) := ho.imp_left fun h h' => h (List.mem_cons_of_mem _ h')
      have hou : unitOf o ≠ u ∨ o ∉ obs.map (·.1) := ho.imp_left fun h h' => h (h' ▸ List.mem_cons_self ..)
      obtain ⟨hl, hr⟩ := iout o ho'
      refine ⟨hl.trans ?_, hr.trans ?_⟩
      · rw [hloft]
        exact mget_dramStore_outside _ _ _ (hother o hou)
      · rw [hrec]
        exact (mget_noteRecord _ _ _).2.1 (hother o hou)

/-- A write of the loft inside it, where no region reaches the end of its wear. -/
theorem memWrite_loft {d : Dev} {a : W64} {bs : List Byte} (hs : gSpace a = 2) (hin : gOff a + bs.length ≤ loftSize)
    (hwear : ∀ k, k < bs.length → mget 0 d.mem.wear (regionOf (unitOf (gOff a + k))) + bs.length < wearBudget) (n : Nat) :
    let offs := (List.range bs.length).map (gOff a + ·)
    let e := memWrite d a bs
    loftAt { e with draws := n } offs = bs ∧ LoftBut offs d e ∧ e.mem.dram = d.mem.dram ∧ e.stalls = d.stalls ∧
      e.ops = d.ops ∧ (MirrorsLoft d offs → e.pad.twinNext = d.pad.twinNext + 1) ∧
      (¬ MirrorsLoft d offs → e.pad.twinNext = d.pad.twinNext) := by
  have hregion : gOff a + bs.length ≤ regionSize a := (regionSize_loft hs).symm ▸ hin
  have hobs (l : List Byte) : (((List.range l.length).zip bs).map fun p => (gOff a + p.1, p.2)) =
      ((List.range l.length).map (gOff a + ·)).zip bs := (List.zip_map_left ..).symm
  have hwrite : memWrite d a bs = mirrorOut (loftWrite d (((List.range bs.length).map (gOff a + ·)).zip bs)) true
      (((List.range bs.length).map (gOff a + ·)).zip bs) := by
    unfold memWrite
    dsimp only
    rw [inside_eq hregion, List.take_length, if_pos hs, hobs]
  intro offs e
  have he : e = mirrorOut (loftWrite d (offs.zip bs)) true (offs.zip bs) := hwrite
  have hlen : offs.length = bs.length := by rw [List.length_map, List.length_range]
  have hnd : offs.Nodup := List.nodup_range.map_on fun x _ y _ hxy => by omega
  have hmem (o : Nat) (ho : o ∈ offs) : mget 0 d.mem.wear (regionOf (unitOf o)) + bs.length < wearBudget := by
    refine under_name fun named shown => ?_
    obtain ⟨k, hk, rfl⟩ := List.mem_map.mp ho
    refine shown ?_
    exact hwear k (List.mem_range.mp hk)
  clear_value e offs
  have hfst : (offs.zip bs).map (·.1) = offs := List.map_fst_zip (by omega)
  have hout (k : Nat) (hk : k ∉ offs) : k ∉ (offs.zip bs).map (·.1) := by rwa [hfst]
  obtain ⟨hund, hulen⟩ := eraseDups_nodup ((offs.zip bs).map fun p => unitOf p.1)
  have hzip : ((offs.zip bs).map fun p => unitOf p.1).length = bs.length := by
    rw [List.length_map, List.length_zip]
    omega
  refine under_name fun named shown => ?_
  obtain ⟨hw, hdram, hbytes, hrest⟩ := loftWrite_units (obs := offs.zip bs) (by rw [hfst]; exact hnd)
    ((offs.zip bs).map fun p => unitOf p.1).eraseDups hund d fun u hu => by
      obtain ⟨p, hp, rfl⟩ := List.mem_map.mp (List.mem_eraseDups.mp hu)
      have := hmem p.1 (List.of_mem_zip hp).1
      omega
  rw [← loftWrite] at hw hdram hbytes hrest
  obtain ⟨hrep, hnext⟩ := mirrorOut_spec (loftWrite d (offs.zip bs)) true (offs.zip bs)
  rw [← he] at hrep hnext
  generalize loftWrite d (offs.zip bs) = g at *
  have hmirrors : MirrorsLoft d offs ↔ mirroring d = true ∧
      ((offs.zip bs).filter fun p => if true = true then mirroredLoft g p.1 else mirroredDram g p.1) ≠ [] := by
    unfold MirrorsLoft
    rw [← hw.mirroredLoft]
    exact and_congr_right fun _ => (filter_zip_ne_nil (mirroredLoft g) hlen.symm).symm
  refine shown ⟨?_, fun k hk => ?_, ?_, hrep.stalls.trans hw.stalls, hrep.ops.trans hw.ops, fun hm => ?_, fun hm => ?_⟩
  · refine List.ext_getElem (by rw [loftAt, List.length_map, hlen]) fun j h1 h2 => ?_
    have hj : j < offs.length := by omega
    have hp : (offs[j], bs[j]) ∈ offs.zip bs := by
      rw [← List.getElem_zip (h := by rw [List.length_zip]; omega)]
      exact List.getElem_mem _
    obtain ⟨hl, hr⟩ := hbytes _ hp (List.mem_eraseDups.mpr (List.mem_map.mpr ⟨_, hp, rfl⟩))
    simp only [loftAt, List.getElem_map]
    show loftByte { e with draws := n } offs[j] = bs[j]
    unfold loftByte
    dsimp only
    rw [hrep.mem, hl, if_neg fun ⟨hbase, hfree⟩ => by rw [hr hbase] at hfree; exact Bool.noConfusion hfree]
  · rw [hrep.mem]
    exact (hrest k (.inr (hout k hk))).1
  · rw [hrep.mem, hdram]
  · rw [← hw.twinNext]
    refine hnext.trans (if_pos ?_)
    rw [hmirrors, ← hw.mirroring] at hm
    exact hm
  · rw [← hw.twinNext]
    refine hnext.trans (if_neg fun h => hm ?_)
    rw [hmirrors, ← hw.mirroring]
    exact h

/-! ### PUT, PUT.S and PUT.F (O24) -/

/-- The commands of operations that reach their home take those that arrive. -/
theorem putPerform_eq {d : Dev} {id : Nat} {o : RemOp} (h : arriving d id = some o) (hk : o.op.kind = .put ∨ o.op.kind = .putS) :
    (match arriving d id with
      | some o => if o.op.kind = .put ∨ o.op.kind = .putS then some (performPut d o) else none
      | none => none) = some (performPut d o) := by
  rw [h]
  exact if_pos hk

theorem performPut_memory {d : Dev} {o : RemOp} (hs : gSpace o.op.addr ≠ 0)
    (hin : gOff o.op.addr + o.op.len ≤ regionSize o.op.addr) :
    performPut d o = settle d (memWrite d o.op.addr o.op.data) o [] := by
  unfold performPut tAddr
  rw [if_neg hs, countBeyond_inside hin]

theorem performPut_stall {d : Dev} {id : Nat} {o : RemOp} (h : Reaches d id o) (hs : gSpace o.op.addr = 0) :
    performPut d o = performAtStall d o := by
  unfold performPut tAddr
  rw [if_pos hs, h.arrive hs]

/-- The stall's counters after one more addition. -/
theorem cGet_cAdd (x : Stall) (k c : Nat) : cGet (cAdd x k) c = if c = k then cGet x c + 1 else cGet x c := by
  unfold cGet cAdd cSet
  rw [mget_mput]
  split
  · next h =>
    rw [h]
    rfl
  · rfl

/-- A PUT or a PUT.S inside a buffer writes its bytes, and a PUT.S adds one to its counter with them. -/
theorem performAtStall_put {d : Dev} {o : RemOp} (hk : o.op.kind = .put ∨ o.op.kind = .putS)
    (hlen : o.op.data.length = o.op.len) (hin : gOff o.op.addr + o.op.len ≤ regionSize o.op.addr) :
    ∃ g, performAtStall d o = performed g o [] ∧ g.ops = d.ops ∧ g.mem = d.mem ∧
      (∀ j, j ≠ gStall o.op.addr → stallOf g j = stallOf d j) ∧
      stallOf g (gStall o.op.addr) =
        (if o.op.kind = .putS then fun x => cAdd x o.op.tctr else id)
          (setSram (stallOf d (gStall o.op.addr)) (gBuf o.op.addr)
            (sramPut (sramOf (stallOf d (gStall o.op.addr)) (gBuf o.op.addr)) (gOff o.op.addr) o.op.data)) := by
  have htake : o.op.data.take o.op.len = o.op.data := by rw [← hlen, List.take_length]
  unfold performAtStall tAddr
  simp only [countBeyond_inside hin, inside_eq hin, htake]
  rcases hk with hk | hk
  · simp only [hk]
    exact ⟨_, rfl, rfl, rfl, fun j hj => stallOf_sramWrite_ne _ _ _ _ hj, stallOf_sramWrite_self ..⟩
  · simp only [hk]
    refine ⟨_, rfl, rfl, rfl, fun j hj => ?_, ?_⟩
    · rw [addCounter, stallOf_modStall_ne _ _ hj, stallOf_sramWrite_ne _ _ _ _ hj]
    · rw [addCounter, stallOf_modStall_self, stallOf_sramWrite_self]
      rfl

/-- A region of a stall's space is one of its buffers. -/
theorem regionSize_stall {a : W64} (h : gSpace a = 0) : regionSize a = bufSize (gBuf a) := if_pos h

theorem regionSize_memory {a : W64} (h : gSpace a = 1 ∨ gSpace a = 5) : gSpace a ≠ 0 := by omega

/-- A PUT.F writes what lies inside its buffer and fills its slot. -/
theorem performAtStall_putF_general (d : Dev) {o : RemOp} (hk : o.op.kind = .putF) :
    ∃ g, performAtStall d o = performed g o [] ∧ g.ops = d.ops ∧ g.mem = d.mem ∧
      (∀ j, j ≠ gStall o.op.addr → stallOf g j = stallOf d j) ∧
      stallOf g (gStall o.op.addr) = fillSlot (setSram (stallOf d (gStall o.op.addr)) (gBuf o.op.addr)
        (sramPut (sramOf (stallOf d (gStall o.op.addr)) (gBuf o.op.addr)) (gOff o.op.addr)
          (o.op.data.take (inside o.op.addr o.op.len)))) o := by
  have hstalls := (signals_countBeyond d o.op.addr o.op.len).reports.stalls
  have hmem := (signals_countBeyond d o.op.addr o.op.len).reports.mem
  have hops := (signals_countBeyond d o.op.addr o.op.len).reports.ops
  unfold performAtStall tAddr
  dsimp only
  generalize countBeyond d o.op.addr o.op.len = c at *
  simp only [hk]
  refine ⟨_, rfl, hops, hmem, fun j hj => ?_, ?_⟩
  · rw [stallOf_modStall_ne _ _ hj, stallOf_sramWrite_ne _ _ _ _ hj, stallOf_congr hstalls]
  · rw [stallOf_modStall_self, stallOf_sramWrite_self, stallOf_congr hstalls]

/-- The slot of an operation with bytes inside the trough or the bin exists. -/
theorem slotExists_inside {o : RemOp} (hbuf : gBuf o.op.addr < 2) (hpos : 0 < o.op.len)
    (hin : gOff o.op.addr + o.op.len ≤ bufSize (gBuf o.op.addr)) : slotExists o = true := by
  have hsize : bufSize (gBuf o.op.addr) = 512 * slotCount (gBuf o.op.addr) := by
    generalize gBuf o.op.addr = b at hbuf
    match b, hbuf with
    | 0, _ | 1, _ => rfl
  unfold slotExists tSlot tAddr
  exact decide_eq_true (by omega)

/-- Settles O24. -/
theorem putsWriteAtTheirHome : Obligations.PutsWriteAtTheirHome := by
  refine ⟨fun id o => ?_, fun id o => ?_, fun id o t => ?_, fun id o t => ?_⟩
  · refine answers_onDev (fun s => show execPutPerform id s = _ from rfl) ?_
    intro d hpre
    refine under_name fun named shown => ?_
    obtain ⟨⟨harr, hid, -⟩, hkind, hs, hlen, hin⟩ := hpre
    refine shown ⟨performPut d o, putPerform_eq harr (.inl hkind), ?_⟩
    rw [performPut_memory (by omega) hin]
    refine under_name fun named shown => ?_
    obtain ⟨hat, hbut, hloft, hstalls, hops, hyes, hno⟩ := memWrite_dram (d := d) (bs := o.op.data) hs (hlen.symm ▸ hin)
    rw [hlen] at hat hbut hyes hno
    obtain ⟨hperf, hmem, hst⟩ := settle_spec (back := []) (opOf_arriving harr) hops hyes hno
    generalize memWrite d o.op.addr o.op.data = g at *
    generalize settle d g o [] = e at *
    refine shown ⟨?_, fun k hk => ?_, ?_, hst.trans hstalls, hperf⟩
    · rw [← hat]
      unfold dramAt
      rw [← hmem]
    · rw [hmem]
      exact hbut k hk
    · rw [hmem]
      exact hloft
  · refine answers_onDev (fun s => show execPutPerform id s = _ from rfl) ?_
    intro d hpre
    refine under_name fun named shown => ?_
    obtain ⟨⟨harr, hid, -⟩, hkind, hs, hlen, hin, hwear⟩ := hpre
    refine shown ⟨performPut d o, putPerform_eq harr (.inl hkind), ?_⟩
    rw [performPut_memory (by omega) (regionSize_loft hs ▸ hin)]
    refine under_name fun named shown => ?_
    obtain ⟨hat, hbut, hdram, hstalls, hops, hyes, hno⟩ := memWrite_loft (d := d) (bs := o.op.data) hs (hlen.symm ▸ hin)
      (hlen.symm ▸ hwear) ((settle d (memWrite d o.op.addr o.op.data) o []).draws + 1)
    rw [hlen] at hat hbut hyes hno
    obtain ⟨hperf, hmem, hst⟩ := settle_spec (back := []) (opOf_arriving harr) hops hyes hno
    generalize memWrite d o.op.addr o.op.data = g at *
    generalize settle d g o [] = e at *
    refine shown ⟨?_, fun k hk => ?_, ?_, hst.trans hstalls, hperf⟩
    · rw [← hat]
      unfold loftAt loftByte
      simp only [hmem]
    · rw [hmem]
      exact hbut k hk
    · rw [hmem]
      exact hdram
  · refine answers_onDev (fun s => show execPutPerform id s = _ from rfl) ?_
    intro d hpre
    refine under_name fun named shown => ?_
    obtain ⟨hreach, hkind, hs, hbuf, rfl, hlen, hin⟩ := hpre
    have harr := hreach.1
    refine shown ⟨performPut d o, putPerform_eq harr hkind, ?_⟩
    refine under_name fun named shown => ?_
    obtain ⟨g, hg, gops, gmem, gother, gst⟩ := performAtStall_put (d := d) hkind hlen (regionSize_stall hs ▸ hin)
    refine shown ?_
    rw [performPut_stall hreach hs, hg]
    refine under_name fun named shown => ?_
    obtain ⟨hperf, hmem, hst⟩ := performedAtStall_spec (opOf_arriving harr) gops [] gmem
    generalize performed g o [] = e at *
    obtain ⟨hin, hout, hframe⟩ := bufferWritten_setSram (stallOf d (gStall o.op.addr)) hbuf (gOff o.op.addr) o.op.data
    rw [hlen] at hin hout
    have hself := (hst (gStall o.op.addr)).trans gst
    have hother (j : Nat) (hj : j ≠ gStall o.op.addr) : stallOf e j = stallOf d j := (hst j).trans (gother j hj)
    generalize setSram (stallOf d (gStall o.op.addr)) (gBuf o.op.addr)
      (sramPut (sramOf (stallOf d (gStall o.op.addr)) (gBuf o.op.addr)) (gOff o.op.addr) o.op.data) = y at *
    have hcreg : y.creg = (stallOf d (gStall o.op.addr)).creg := by rw [hframe]
    have hsreg : y.sreg = (stallOf d (gStall o.op.addr)).sreg := by rw [hframe]
    have hpc : y.pc = (stallOf d (gStall o.op.addr)).pc := by rw [hframe]
    have hcg (c : Nat) : cGet y c = cGet (stallOf d (gStall o.op.addr)) c := by rw [cGet, hcreg, cGet]
    refine shown ?_
    by_cases hS : o.op.kind = .putS
    · rw [if_pos hS] at hself
      refine ⟨hmem, hother, ?_, ?_, fun c => ?_, ?_, ?_, hperf⟩
      · exact fun k hk => hself ▸ hin k hk
      · exact fun b k hb hk => hself ▸ hout b k hb hk
      · refine (congrArg (cGet · c) hself).trans ((cGet_cAdd ..).trans ?_)
        simp only [hS, true_and, hcg]
      · exact (congrArg Stall.sreg hself).trans hsreg
      · exact (congrArg Stall.pc hself).trans hpc
    · rw [if_neg hS] at hself
      refine ⟨hmem, hother, ?_, ?_, fun c => ?_, ?_, ?_, hperf⟩
      · exact fun k hk => hself ▸ hin k hk
      · exact fun b k hb hk => hself ▸ hout b k hb hk
      · refine (congrArg (cGet · c) hself).trans ((hcg c).trans ?_)
        simp only [hS, false_and, if_false]
      · exact (congrArg Stall.sreg hself).trans hsreg
      · exact (congrArg Stall.pc hself).trans hpc
  · refine answers_onDev (fun s => show execPutFArrive id s = _ from rfl) ?_
    intro d hpre
    refine under_name fun named shown => ?_
    obtain ⟨hreach, hkind, hs, hbuf, rfl, hpos, hlen, hin⟩ := hpre
    have harr := hreach.1
    refine shown ⟨Machine.arrive d o, ?_, ?_⟩
    · rw [harr]
      exact if_pos hkind
    refine under_name fun named shown => ?_
    obtain ⟨g, hg, gops, gmem, gother, gst⟩ := performAtStall_putF_general d hkind
    have hsl : slotExists o = true := slotExists_inside hbuf hpos hin
    refine shown ?_
    rw [hreach.arrive hs, hg]
    rw [inside_eq (regionSize_stall hs ▸ hin), ← hlen, List.take_length, fillSlot, if_pos hsl] at gst
    refine under_name fun named shown => ?_
    obtain ⟨hperf, hmem, hst⟩ := performedAtStall_spec (opOf_arriving harr) gops [] gmem
    generalize performed g o [] = e at *
    obtain ⟨hin, hout, hframe⟩ := bufferWritten_setSram (stallOf d (gStall o.op.addr)) (buf := gBuf o.op.addr) (by omega) (gOff o.op.addr) o.op.data
    rw [hlen] at hin hout
    have hself := (hst (gStall o.op.addr)).trans gst
    have hother (j : Nat) (hj : j ≠ gStall o.op.addr) : stallOf e j = stallOf d j := (hst j).trans (gother j hj)
    generalize setSram (stallOf d (gStall o.op.addr)) (gBuf o.op.addr)
      (sramPut (sramOf (stallOf d (gStall o.op.addr)) (gBuf o.op.addr)) (gOff o.op.addr) o.op.data) = y at *
    have hflags := setFlag_fields y (gBuf (tAddr o)) (tSlot o) true
    have hbyte (b k : Nat) : byteOf (setFlag y (gBuf (tAddr o)) (tSlot o) true) b k = byteOf y b k := by
      rw [hflags]
      rfl
    have hregs : (setFlag y (gBuf (tAddr o)) (tSlot o) true).sreg = y.sreg ∧
        (setFlag y (gBuf (tAddr o)) (tSlot o) true).pc = y.pc := by
      rw [hflags]
      exact ⟨rfl, rfl⟩
    have hsreg : y.sreg = (stallOf d (gStall o.op.addr)).sreg := by rw [hframe]
    have hpc : y.pc = (stallOf d (gStall o.op.addr)).pc := by rw [hframe]
    refine shown ⟨hmem, hother, fun k hk => ?_, fun b k hb hk => ?_, ?_, ?_, ?_, hperf⟩
    · exact (congrArg (byteOf · _ _) hself).trans ((hbyte ..).trans (hin k hk))
    · exact (congrArg (byteOf · _ _) hself).trans ((hbyte ..).trans (hout b k hb hk))
    · refine (congrArg (flagOf · _ _) hself).trans ?_
      exact (flagOf_setFlag y hbuf hbuf ..).trans (if_pos ⟨rfl, rfl⟩)
    · exact (congrArg Stall.sreg hself).trans (hregs.1.trans hsreg)
    · exact (congrArg Stall.pc hself).trans (hregs.2.trans hpc)

/-! ### The holding store (O25) -/

/-- PUT_F_ARRIVE of a PUT.F that arrives. -/
theorem putFArrive_eq {d : Dev} {id : Nat} {o : RemOp} (h : arriving d id = some o) (hk : o.op.kind = .putF) :
    (match arriving d id with
      | some o => if o.op.kind = .putF then some (arrive d o) else none
      | none => none) = some (arrive d o) := by
  rw [h]
  exact if_pos hk

/-- An operation of which a part beyond its slot's stall is not at issue: the stall behind it. -/
theorem behind_congr {d e : Dev} {t : Nat} (o : RemOp) (hhold : (stallOf e t).hold = (stallOf d t).hold)
    (hops : e.ops = d.ops) : behind e t o = behind d t o := by
  unfold behind
  rw [hhold, funext (opOf_congr hops)]

/-- A PUT.F at an empty slot, its source not to resend, is performed. -/
theorem arrive_performs {d : Dev} {o : RemOp} (hgone : (stallOf d (gStall o.op.addr)).gone = false)
    (hrefused : (stallOf d (gStall o.op.addr)).refused.contains (srcNum o) = false)
    (hbehind : behind d (gStall o.op.addr) o = false) (hfull : slotFull d o = false) :
    arrive d o = performAtStall d o := by
  unfold arrive tAddr
  simp only [hgone, hrefused, hbehind, hfull, Bool.false_eq_true, if_false, Bool.or_self]

/-- Settles O25. -/
theorem holdingStore : Obligations.HoldingStore := by
  refine ⟨fun id o t => ?_, fun id o t => ?_, fun src dst o => ?_⟩
  · refine answers_onDev (fun s => show execPutFArrive id s = _ from rfl) ?_
    rintro d ⟨harr, hid, hkind, rfl, hgone, hrefused, hfull, hroom⟩
    refine ⟨_, putFArrive_eq harr hkind, ?_⟩
    have he : arrive d o = modStall (putOp d { o with phase := .holding }) (gStall o.op.addr) fun x =>
        { x with hold := x.hold ++ [id] } := by
      unfold arrive tAddr
      simp only [hgone, hrefused, hfull, Bool.or_true, Bool.false_eq_true, if_false, if_true, hroom, hid]
    have hself : stallOf (arrive d o) (gStall o.op.addr) =
        { stallOf d (gStall o.op.addr) with hold := (stallOf d (gStall o.op.addr)).hold ++ [id] } := by
      rw [he, stallOf_modStall_self]
      rfl
    have hother (j : Nat) (hj : j ≠ gStall o.op.addr) : stallOf (arrive d o) j = stallOf d j := by
      rw [he, stallOf_modStall_ne _ _ hj]
      rfl
    have hop : opOf (arrive d o) id = some { o with phase := .holding } := by
      rw [he]
      exact opOf_putOp_self (opOf_arriving harr) hid
    have hmem : (arrive d o).mem = d.mem := by rw [he]; rfl
    exact ⟨hmem, hop, hself, hother⟩
  · refine answers_onDev (fun s => show execPutFArrive id s = _ from rfl) ?_
    rintro d ⟨harr, hid, hkind, rfl, hgone, hrefused, hfull, hroom⟩
    refine ⟨_, putFArrive_eq harr hkind, ?_⟩
    have he : arrive d o = refuse d (gStall o.op.addr) o := by
      unfold arrive tAddr
      simp only [hgone, hrefused, hfull, Bool.or_true, Bool.false_eq_true, if_false, if_true, Nat.not_le.mpr hroom]
    have hself : stallOf (refuse d (gStall o.op.addr) o) (gStall o.op.addr) =
        { stallOf d (gStall o.op.addr) with refused := (stallOf d (gStall o.op.addr)).refused ++ [srcNum o] } := by
      refine (stallOf_modStall_self ..).trans ?_
      have hst : stallOf (bump (putOp d { o with phase := .refused }) (stallReg (gStall o.op.addr) 0x60)) (gStall o.op.addr) =
        stallOf d (gStall o.op.addr) := rfl
      rw [hst, if_neg (by rw [hrefused]; exact Bool.noConfusion)]
    have hother (j : Nat) (hj : j ≠ gStall o.op.addr) : stallOf (refuse d (gStall o.op.addr) o) j = stallOf d j :=
      stallOf_modStall_ne _ _ hj
    have hop : opOf (refuse d (gStall o.op.addr) o) id = some { o with phase := .refused } :=
      opOf_putOp_self (opOf_arriving harr) hid
    have hctr : ctrOf (refuse d (gStall o.op.addr) o) (stallReg (gStall o.op.addr) 0x60) =
        satAdd (ctrOf d (stallReg (gStall o.op.addr) 0x60)) 1 := (ctrOf_bumpBy ..).trans (if_pos rfl)
    have hmem : (refuse d (gStall o.op.addr) o).mem = d.mem := rfl
    rw [he]
    exact ⟨hmem, hop, hctr, hself, hother⟩
  · refine answers_onDev (fun s => show execHoldResend src dst s = _ from rfl) ?_
    rintro d ⟨href, hgone, hmine, hop, hkind, hbuf, hbehind, hslot, hfull⟩
    have hmem := hmine ▸ List.mem_singleton_self o
    obtain ⟨-, ho⟩ := List.mem_filter.mp hmem
    simp only [Bool.and_eq_true, beq_iff_eq] at ho
    obtain ⟨⟨⟨-, rfl⟩, -⟩, rfl⟩ := ho
    let d' := modStall d (gStall o.op.addr) fun x => { x with refused := x.refused.filter (· != srcNum o) }
    have hst : stallOf d' (gStall o.op.addr) = { stallOf d (gStall o.op.addr) with
        refused := (stallOf d (gStall o.op.addr)).refused.filter (· != srcNum o) } := stallOf_modStall_self ..
    have hout : srcNum o ∉ (stallOf d' (gStall o.op.addr)).refused := by
      rw [hst]
      simp
    have harrive : arrive d' o = performAtStall d' o := by
      refine arrive_performs ?_ ?_ ?_ ?_
      · rw [hst]
        exact hgone
      · simpa using hout
      · refine (behind_congr (d := d) (e := d') o ?_ rfl).trans hbehind
        rw [hst]
      · rw [← hfull]
        unfold slotFull tAddr flagOf
        rw [hst]
    refine ⟨arrive d' o, ?_, ?_⟩
    · rw [if_pos href]
      have hfilter : d'.ops.filter (fun p => p.phase == .refused && srcNum p == srcNum o && gSpace (tAddr p) == 0 &&
        gStall (tAddr p) == gStall o.op.addr) = [o] := hmine
      exact congrArg (fun l => some (l.foldl arrive d')) hfilter
    obtain ⟨g, hg, gops, gmem, gother, gst⟩ := performAtStall_putF_general d' hkind
    rw [fillSlot, if_pos hslot] at gst
    rw [harrive, hg]
    obtain ⟨hperf, hmem, hsts⟩ := performedAtStall_spec (d := d') (opOf_congr rfl o.id ▸ hop) gops [] gmem
    have hself := (hsts (gStall o.op.addr)).trans gst
    generalize performed g o [] = e at *
    refine ⟨hmem, fun h => hout ?_, ?_, hperf⟩
    · have hframe := congrArg Stall.refused hself
      rw [setFlag_fields, setSram_fields] at hframe
      exact hframe ▸ h
    · exact (congrArg (flagOf · _ _) hself).trans ((flagOf_setFlag _ hbuf hbuf ..).trans (if_pos ⟨rfl, rfl⟩))

/-! ### An atomic operation shorter than its element (O26) -/

/-- An atomic operation of one byte, less than its element of four, at the first byte of DRAM. -/
def shortAtomic : RemOp :=
  { id := 0, own := true, dest := 0, ctr := none, phase := .sent, dead := false, back := [], orphan := false
    op := { kind := .aaddI32, addr := BitVec.ofNat 64 (2 ^ 54), data := [0], len := 1, tctr := 0, srcModule := 0, srcStall := 0
            srcId := 0 } }

/-- A protected module whose binding mirrors all of DRAM, with that operation on its way. -/
def mirroringModule : Dev :=
  { Dev.reset with
    ops := [shortAtomic]
    pad := { Paddock.reset with role := .lead, twin := .inStep, twinPeer := 64, mirror := 0xF } }

theorem shortAtomic_reaches : Reaches mirroringModule 0 shortAtomic :=
  ⟨by decide, rfl, fun h => absurd h (by decide)⟩

/-- Its byte is mirrored. -/
theorem shortAtomic_mirrors : MirrorsDram mirroringModule (dramKeys shortAtomic.op.addr (gOff shortAtomic.op.addr) 1) :=
  ⟨by decide, 0, by decide, by decide⟩

/-- No whole element lies in it, so that nothing is written and nothing goes to the standby. -/
theorem shortAtomic_performed :
    opOf (performAtomic mirroringModule shortAtomic) 0 = some { shortAtomic with phase := .performed } := by
  decide

/-- Refutes O26: an atomic operation of fewer bytes than its element writes nothing, and is performed at once even where its
bytes lie in a mirrored range. -/
theorem not_getsAndAtomicsAtTheirHome : ¬ Obligations.GetsAndAtomicsAtTheirHome := by
  rintro ⟨-, -, -, -, -, hdram, -⟩
  obtain ⟨t, ht, -, -, -, -, -, -, hmirrored⟩ := hdram 0 shortAtomic { pending := [], dev := mirroringModule }
    ⟨shortAtomic_reaches, rfl, .inl (by decide), rfl, by decide, by decide, by decide⟩
  have hexec : exec (.atomicPerform 0) { pending := [], dev := mirroringModule } = .next { pending := [], dev :=
      { performAtomic mirroringModule shortAtomic with draws := (performAtomic mirroringModule shortAtomic).draws + 1 } } := by
    show execAtomicPerform 0 _ = _
    unfold execAtomicPerform onDev
    dsimp only
    rw [shortAtomic_reaches.1]
    dsimp only
    rw [if_pos (by decide)]
  obtain rfl := Host.Outcome.next.inj (hexec.symm.trans ht)
  have hphase := (hmirrored shortAtomic_mirrors).symm.trans shortAtomic_performed
  exact absurd hphase (by decide)

/-! ### Completion (O27) -/

/-- What the delivery of a completed operation leaves of its stall. -/
def delivered (o : RemOp) (x : Stall) : Stall :=
  if o.op.kind = .get ∧ x.gone = false then
    setSram x (o.dest / 2 ^ 18) (sramPut (sramOf x (o.dest / 2 ^ 18)) (o.dest % 2 ^ 18) o.back)
  else if isFadd o.op.kind = true ∧ o.orphan = false then sSet x o.dest (BitVec.ofNat 64 (leNat o.back))
  else x

/-- The stall after the addition to the completion counter. -/
def counted (o : RemOp) (x : Stall) : Stall :=
  match o.ctr with
  | some k => cAdd x k
  | none => x

theorem completeOp_spec (d : Dev) (o : RemOp) :
    opOf (completeOp d o) o.id = none ∧ (completeOp d o).mem = d.mem ∧ (completeOp d o).banks = d.banks ∧
      (∀ j, j ≠ o.op.srcStall → stallOf (completeOp d o) j = stallOf d j) ∧
      stallOf (completeOp d o) o.op.srcStall = counted o (delivered o (stallOf d o.op.srcStall)) := by
  have hdel : ∃ f, (if o.op.kind = .get ∧ (stallOf d o.op.srcStall).gone = false then
        sramWrite (dropOp d o.id) o.op.srcStall (o.dest / 2 ^ 18) (o.dest % 2 ^ 18) o.back
      else if isFadd o.op.kind = true ∧ o.orphan = false then
        modStall (dropOp d o.id) o.op.srcStall fun x => sSet x o.dest (BitVec.ofNat 64 (leNat o.back))
      else dropOp d o.id) = f ∧ f.ops = (dropOp d o.id).ops ∧ f.mem = d.mem ∧ f.banks = d.banks ∧
      (∀ j, j ≠ o.op.srcStall → stallOf f j = stallOf d j) ∧
      stallOf f o.op.srcStall = delivered o (stallOf d o.op.srcStall) := by
    refine ⟨_, rfl, ?_⟩
    unfold delivered
    split
    · exact ⟨rfl, rfl, rfl, fun j hj => stallOf_sramWrite_ne _ _ _ _ hj, stallOf_sramWrite_self ..⟩
    · split
      · exact ⟨rfl, rfl, rfl, fun j hj => stallOf_modStall_ne _ _ hj, stallOf_modStall_self ..⟩
      · exact ⟨rfl, rfl, rfl, fun _ _ => rfl, rfl⟩
  obtain ⟨f, hf, hops, hmem, hbanks, hother, hself⟩ := hdel
  have hgone : opOf f o.id = none := (opOf_congr hops _).trans (opOf_dropOp_self ..)
  have hc : completeOp d o = match o.ctr with
      | some k => addCounter f o.op.srcStall k
      | none => f := by
    unfold completeOp
    dsimp only
    rw [← hf]
    rfl
  rw [hc]
  unfold counted
  cases o.ctr with
  | none => exact ⟨hgone, hmem, hbanks, hother, hself⟩
  | some k =>
    refine ⟨hgone, hmem, hbanks, fun j hj => (stallOf_modStall_ne _ _ hj).trans (hother j hj), ?_⟩
    show stallOf (addCounter f o.op.srcStall k) o.op.srcStall = _
    rw [addCounter, stallOf_modStall_self, hself]

/-- The count changes the counters only. -/
theorem counted_fields (o : RemOp) (x : Stall) : counted o x = { x with creg := (counted o x).creg } := by
  unfold counted
  split <;> rfl

theorem cGet_counted (o : RemOp) (x : Stall) (c : Nat) :
    cGet (counted o x) c = if o.ctr = some c then cGet x c + 1 else cGet x c := by
  unfold counted
  cases o.ctr with
  | none => rfl
  | some k => simp only [cGet_cAdd, Option.some.injEq, eq_comm (a := c)]

/-- A delivery changes a buffer or the scalar registers. -/
theorem delivered_fields (o : RemOp) (x : Stall) : delivered o x = { x with
    trough := (delivered o x).trough, bin := (delivered o x).bin, manger := (delivered o x).manger
    sreg := (delivered o x).sreg } := by
  unfold delivered
  split
  · rw [setSram_fields]
  · split
    · unfold sSet
      split <;> rfl
    · rfl

/-- Settles O27. -/
theorem completionDeliversAndCounts : Obligations.CompletionDeliversAndCounts := by
  refine fun id o st => answers_onDev (fun s => show execRemoteComplete id s = _ from rfl) ?_
  rintro d ⟨hop, rfl, hown, hphase, rfl, hbuf⟩
  refine ⟨completeOp d o, ?_, ?_⟩
  · rw [hop]
    exact if_pos ⟨hown, hphase⟩
  obtain ⟨hgone, hmem, hbanks, hother, hself⟩ := completeOp_spec d o
  generalize completeOp d o = e at *
  have hcf := counted_fields o (delivered o (stallOf d o.op.srcStall))
  have hdf := delivered_fields o (stallOf d o.op.srcStall)
  have hbyte (b k : Nat) : byteOf (stallOf e o.op.srcStall) b k = byteOf (delivered o (stallOf d o.op.srcStall)) b k := by
    rw [hself, hcf]
    rfl
  have hsreg : (stallOf e o.op.srcStall).sreg = (delivered o (stallOf d o.op.srcStall)).sreg := by rw [hself, hcf]
  have hcreg (c : Nat) : cGet (delivered o (stallOf d o.op.srcStall)) c = cGet (stallOf d o.op.srcStall) c := by rw [hdf]; rfl
  have hvreg : (stallOf e o.op.srcStall).vreg = (stallOf d o.op.srcStall).vreg := by rw [hself, hcf, hdf]
  have hpc : (stallOf e o.op.srcStall).pc = (stallOf d o.op.srcStall).pc := by rw [hself, hcf, hdf]
  refine ⟨hgone, hmem, hbanks, hother, fun c => ?_, fun hget hlive => ?_, fun hfadd m => ?_, fun hnot => ?_, hvreg, hpc⟩
  · refine (congrArg (cGet · c) hself).trans ((cGet_counted ..).trans ?_)
    rw [hcreg]
  · have hd : delivered o (stallOf d o.op.srcStall) = setSram (stallOf d o.op.srcStall) (o.dest / 2 ^ 18)
        (sramPut (sramOf (stallOf d o.op.srcStall) (o.dest / 2 ^ 18)) (o.dest % 2 ^ 18) o.back) := if_pos ⟨hget, hlive⟩
    obtain ⟨hin, hout, hframe⟩ := bufferWritten_setSram (stallOf d o.op.srcStall) hbuf (o.dest % 2 ^ 18) o.back
    rw [← hd] at hin hout hframe
    refine ⟨fun k hk => (hbyte ..).trans (hin k hk), fun b k hb hk => (hbyte ..).trans (hout b k hb hk), hsreg.trans ?_⟩
    rw [hframe]
  · have hnget : ¬ (o.op.kind = .get ∧ (stallOf d o.op.srcStall).gone = false) := by
      rintro ⟨hget, -⟩
      rw [hget] at hfadd
      exact Bool.noConfusion hfadd
    have hs : sGet (stallOf e o.op.srcStall) m = sGet (delivered o (stallOf d o.op.srcStall)) m := by
      unfold sGet
      rw [hsreg]
    refine hs.trans ?_
    unfold delivered
    rw [if_neg hnget]
    by_cases horphan : o.orphan = false
    · rw [if_pos ⟨hfadd, horphan⟩, sGet_sSet]
      simp only [horphan, true_and]
      by_cases hm : m = o.dest
      · rw [if_pos hm]
        by_cases h0 : o.dest = 0
        · rw [if_pos h0, if_neg fun h => h.2 (hm.trans h0), hm, h0]
          rfl
        · rw [if_neg h0, if_pos ⟨hm, fun h => h0 (hm.symm.trans h)⟩]
      · rw [if_neg hm, if_neg fun h => hm h.1]
    · rw [if_neg fun h => horphan h.2, if_neg fun h => horphan h.1]
  · have hnget : ¬ (o.op.kind = .get ∧ (stallOf d o.op.srcStall).gone = false) := by
      rintro ⟨hget, hlive⟩
      exact hnot.elim (fun h => h hget) fun h => Bool.noConfusion (h.symm.trans hlive)
    intro b k _ _
    refine (hbyte ..).trans ?_
    unfold delivered
    rw [if_neg hnget]
    split
    · unfold sSet
      split <;> rfl
    · rfl

/-! ### ATTN.GO (O28) -/

/-- A read of a buffer leaves the jobs of the engine and what blocks their tiles. -/
theorem ReadsOf.jobs {d e : Dev} {st : Nat} (h : ReadsOf st d e) :
    e.attn = d.attn ∧ e.nextId = d.nextId ∧ jobsOf e st = jobsOf d st ∧ tileFree e st = tileFree d st := by
  obtain ⟨hframe, -, z, hz⟩ := h
  unfold ReportsOfStalls at hframe
  have hattn : e.attn = d.attn := by rw [hframe]
  have hnext : e.nextId = d.nextId := by rw [hframe]
  have hjobs : jobsOf e st = jobsOf d st := by
    unfold jobsOf
    rw [hattn]
  refine ⟨hattn, hnext, hjobs, ?_⟩
  unfold tileFree
  rw [hjobs, hz]
  rfl

/-- A job joins those of the engine of its stall's die; memory, banks, operations and every other stall are as before. -/
theorem issued_addJob {d g : Dev} {st : Nat} (b : List Byte) (h : ReadsOf st (fetchTouch d st) g) :
    let r := issued (fetchTouch d st) st (stallOf d st).pc (.go (addJob g st b (stallOf d st).epoch) none)
    let e := { r with draws := r.draws + 1 }
    e.mem = d.mem ∧ e.banks = d.banks ∧ e.ops = d.ops ∧ (∀ j, j ≠ st → stallOf e j = stallOf d j) ∧
      ReadMoves (fun x _ => x) (stallOf d st) (stallOf e st) ∧
      ∃ j, e.attn = { d.attn with jobs := d.attn.jobs ++ [j] } ∧ j.id = d.nextId ∧ j.die = st / 256 ∧ j.stall = st ∧
        j.desc = b ∧ j.epoch = (stallOf d st).epoch ∧ j.started = false := by
  obtain ⟨hattn, hnext, -, -⟩ := h.jobs
  obtain ⟨hframe, hother, z, hz⟩ := h
  unfold ReportsOfStalls at hframe
  rw [fetchTouch_eq] at hframe hattn hnext
  rw [fetchTouch_stallOf] at hz
  have hmem : g.mem = d.mem := by rw [hframe]
  have hbanks : g.banks = d.banks := by rw [hframe]
  have hops : g.ops = d.ops := by rw [hframe]
  have hself : stallOf (modStall (addJob g st b (stallOf d st).epoch) st fun x =>
      { x with held := none, pc := (stallOf d st).pc + 1 }) st =
      { readFound (stallOf d st) z with held := none, pc := (stallOf d st).pc + 1 } := by
    rw [stallOf_modStall_self, ← hz]
    rfl
  have hrest (j : Nat) (hj : j ≠ st) : stallOf (modStall (addJob g st b (stallOf d st).epoch) st fun x =>
      { x with held := none, pc := (stallOf d st).pc + 1 }) j = stallOf d j :=
    (stallOf_modStall_ne _ _ hj).trans ((hother j hj).trans (fetchTouch_stallOf ..))
  have hmoves : ReadMoves (fun x _ => x) (stallOf d st) (stallOf (modStall (addJob g st b (stallOf d st).epoch) st fun x =>
      { x with held := none, pc := (stallOf d st).pc + 1 }) st) := by
    rw [hself]
    rfl
  refine ⟨hmem, hbanks, hops, hrest, hmoves,
    { id := g.nextId, die := st / 256, stall := st, desc := b, epoch := (stallOf d st).epoch, started := false
      seq := jSeq b, layer := jLayer b, gen := 0, len := 0, memErr := false, hold := none },
    ?_, hnext, rfl, rfl, rfl, rfl, rfl⟩
  rw [← hattn]
  rfl

/-- The descriptor that ATTN.GO reads. -/
theorem attnIssue_local {d : Dev} {st buf off : Nat} {i : Ins}
    (h : LocalOk d st (sGet (stallOf d st) i.a + sextImm i 32) 64 1 buf off) :
    attnIssue st i (stallOf d st) (fetchTouch d st) =
      match descFault (sramRead d st buf off 64) with
      | some k => .fault 0x0C k
      | none =>
        if 4 ≤ (jobsOf d st).length then .wait .issueLimit
        else if (jobTiles (sramRead d st buf off 64)).all (tileFree d st) = false then .wait .scoreboard
        else .go (addJob (sramTouch (fetchTouch d st) st buf off 64) st (sramRead d st buf off 64) (stallOf d st).epoch) none := by
  obtain ⟨-, -, hjobs, hfree⟩ := (readsOf_sramTouch (fetchTouch d st) st off 64 (buf_lt_of_localRange h.1)).jobs
  have hfetch : jobsOf (fetchTouch d st) st = jobsOf d st ∧ tileFree (fetchTouch d st) st = tileFree d st := by
    rw [fetchTouch_eq]
    exact ⟨rfl, rfl⟩
  unfold attnIssue
  rw [withLocal_ok h]
  dsimp only
  rw [sramRead_fetchTouch, hjobs, hfree, hfetch.1, hfetch.2] <;> rfl

/-- Settles O28. -/
theorem attentionJobsAreIssued : Obligations.AttentionJobsAreIssued := by
  refine fun buf off b => ⟨runs_issue (fun _ _ => rfl) ?_, fun k => runs_fault (detail := fun _ _ _ => k) (fun _ _ => rfl) ?_,
    runs_wait (fun _ _ => rfl) ?_⟩
  · rintro d st i r - ⟨hlocal, rfl, hdesc, hjobs, htiles⟩ rfl
    have hfree : (jobTiles (sramRead d st buf off 64)).all (tileFree d st) = true := List.all_eq_true.mpr htiles
    rw [attnIssue_local hlocal, hdesc]
    dsimp only
    rw [if_neg (Nat.not_le.mpr hjobs), if_neg (by rw [hfree]; exact Bool.noConfusion)]
    exact issued_addJob _ (readsOf_sramTouch (fetchTouch d st) st off 64 (buf_lt_of_localRange hlocal.1))
  · rintro d st i - ⟨hlocal, hdesc⟩
    rw [attnIssue_local hlocal, hdesc]
  · rintro d st i - ⟨hlocal, hdesc, hjobs⟩
    rw [attnIssue_local hlocal, hdesc]
    exact if_pos hjobs

end Sys2Proof.Machine
end

section
/-! What sequence memory and the ends of commands change, and the statements about scrubs and jobs (O23, O29). -/

namespace Sys2Proof.Machine

open Sys2Proof

/-! ### Sequence memory -/

/-- Beside stores in memory only the page pool, the releases and the prefix table of sequence memory have changed: its
sequences, jobs and batches stand. -/
def Tidies (d e : Dev) : Prop :=
  e = { d with
    ctr := e.ctr, out := e.out
    host := { d.host with rings := e.host.rings, seqno := e.host.seqno, msixPending := e.host.msixPending }
    health := { d.health with sendQueue := e.health.sendQueue }
    pad := { d.pad with
      ports := e.pad.ports, messageNo := e.pad.messageNo, twinNext := e.pad.twinNext, twinOut := e.pad.twinOut }
    mem := { d.mem with
      dram := e.mem.dram, dramErr := e.mem.dramErr, dramUe := e.mem.dramUe, dramRemap := e.mem.dramRemap
      loft := e.mem.loft, loftErr := e.mem.loftErr, loftUe := e.mem.loftUe, record := e.mem.record
      wear := e.mem.wear, wornSent := e.mem.wornSent }
    attn := { d.attn with releases := e.attn.releases, taken := e.attn.taken, prefixes := e.attn.prefixes } }

theorem Tidies.refl (d : Dev) : Tidies d d := rfl

theorem Tidies.trans {d e f : Dev} (h : Tidies d e) (g : Tidies e f) : Tidies d f := by
  unfold Tidies at *
  rw [h] at g
  exact g

theorem Writes.tidies {d e : Dev} (h : Writes d e) : Tidies d e := by
  unfold Writes at h
  unfold Tidies
  rw [h]

theorem Touches.tidies {d e : Dev} (h : Touches d e) : Tidies d e := h.writes.tidies

theorem tidies_foldl {α : Type} {f : Dev → α → Dev} (hf : ∀ d a, Tidies d (f d a)) :
    ∀ (l : List α) (d : Dev), Tidies d (l.foldl f d)
  | [], d => .refl d
  | a :: l, d => (hf d a).trans (tidies_foldl hf l (f d a))

/-- What stands when sequence memory has been tidied. -/
theorem Tidies.machine {d e : Dev} (h : Tidies d e) : e.stalls = d.stalls ∧ e.banks = d.banks ∧ e.cribs = d.cribs ∧
    e.ops = d.ops ∧ e.nextId = d.nextId ∧ e.feed = d.feed ∧ e.draws = d.draws := by
  unfold Tidies at h
  rw [h]
  exact ⟨rfl, rfl, rfl, rfl, rfl, rfl, rfl⟩

theorem Tidies.stalls {d e : Dev} (h : Tidies d e) : e.stalls = d.stalls := h.machine.1

theorem Tidies.banks {d e : Dev} (h : Tidies d e) : e.banks = d.banks := h.machine.2.1

theorem Tidies.nextId {d e : Dev} (h : Tidies d e) : e.nextId = d.nextId := h.machine.2.2.2.2.1

theorem Tidies.lists {d e : Dev} (h : Tidies d e) : e.attn.seqs = d.attn.seqs ∧ e.attn.jobs = d.attn.jobs ∧
    e.attn.edits = d.attn.edits ∧ seqOf e = seqOf d := by
  unfold Tidies at h
  rw [h]
  exact ⟨rfl, rfl, rfl, rfl⟩

theorem tidies_mirrorOut (d : Dev) (loft : Bool) (obs : List (Nat × Byte)) : Tidies d (mirrorOut d loft obs) := by
  unfold mirrorOut
  dsimp only
  generalize (obs.filter fun p => if loft then mirroredLoft d p.1 else mirroredDram d p.1) = hit
  split
  · have hbusy : Signals d (if twinBusy d then bump d 0x31018 else d) := by
      split <;> rfl
    generalize (if twinBusy d then bump d 0x31018 else d) = g at hbusy
    have hpad : Tidies g (setPad g { g.pad with twinNext := d.pad.twinNext + 1, twinOut := g.pad.twinOut ++ [d.pad.twinNext] }) := rfl
    exact (hbusy.touches.tidies.trans hpad).trans (signals_sendTwin ..).touches.tidies
  · exact .refl d

theorem tidies_engWrite (d : Dev) (die off : Nat) (bs : List Byte) : Tidies d (engWrite d die off bs) :=
  (dramWrite_spec ..).1.tidies.trans (tidies_mirrorOut ..)

theorem tidies_engWritePart (d : Dev) (die off : Nat) (bs : List Byte) (ks : List Nat) :
    Tidies d (engWritePart d die off bs ks) :=
  (dramWrite_spec ..).1.tidies.trans (tidies_mirrorOut ..)

theorem tidies_derWrite (d : Dev) (off : Nat) (bs : List Byte) : Tidies d (derWrite d off bs) :=
  (dramWrite_spec ..).1.tidies.trans (tidies_mirrorOut ..)

/-- Only counters and the page pool with its releases have changed. -/
def Frees (d e : Dev) : Prop :=
  e = { d with ctr := e.ctr, attn := { d.attn with releases := e.attn.releases, taken := e.attn.taken } }

theorem Frees.trans {d e f : Dev} (h : Frees d e) (g : Frees e f) : Frees d f := by
  unfold Frees at *
  rw [h] at g
  exact g

theorem Frees.tidies {d e : Dev} (h : Frees d e) : Tidies d e := by
  unfold Frees at h
  unfold Tidies
  rw [h]

theorem Frees.mem {d e : Dev} (h : Frees d e) : e.mem = d.mem ∧ e.attn.prefixes = d.attn.prefixes := by
  unfold Frees at h
  rw [h]
  exact ⟨rfl, rfl⟩

theorem frees_foldl {α : Type} {f : Dev → α → Dev} (hf : ∀ d a, Frees d (f d a)) :
    ∀ (l : List α) (d : Dev), Frees d (l.foldl f d)
  | [], _ => rfl
  | a :: l, d => (hf d a).trans (frees_foldl hf l (f d a))

theorem frees_releasePage (die page : Nat) (d : Dev) : Frees d (releasePage die page d) := by
  unfold releasePage
  dsimp only
  split <;> rfl

theorem frees_retireGens (d : Dev) : Frees d (retireGens d) := by
  unfold retireGens
  exact Frees.trans (e := { d with attn := { d.attn with releases := d.attn.releases.filter fun r => !genRetired d r } }) rfl
    (frees_foldl (fun _ _ => frees_releasePage ..) _ _)

theorem tidies_putPrefix (d : Dev) (p : Prefix) : Tidies d (putPrefix d p) :=
  Tidies.trans (e := { d with attn := { d.attn with
    prefixes := d.attn.prefixes.filter (fun r => !samePlace p r) ++ [p] } }) rfl (tidies_derWrite ..)

theorem tidies_dropPrefix (d : Dev) (p : Prefix) : Tidies d (dropPrefix d p) := by
  unfold dropPrefix
  refine Tidies.trans ?_ (frees_foldl (fun _ _ => frees_releasePage ..) _ _).tidies
  exact Tidies.trans (e := { d with attn := { d.attn with
    prefixes := d.attn.prefixes.filter fun r => !samePlace p r } }) rfl (tidies_derWrite ..)

theorem tidies_prune (die n : Nat) (d : Dev) : Tidies d (prune die n d) := by
  induction n generalizing d with
  | zero => exact .refl d
  | succ n ih =>
    unfold prune
    split
    · exact .refl d
    · split
      · exact .refl d
      · exact ((tidies_dropPrefix ..).trans (tidies_foldl tidies_dropPrefix _ _)).trans (ih _)

theorem tidies_pruneAll (d : Dev) (die : Nat) : Tidies d (pruneAll d die) := tidies_prune ..

theorem tidies_dropRefs (before after : Seq) (d : Dev) : Tidies d (dropRefs before after d) :=
  tidies_foldl (fun _ _ => tidies_putPrefix ..) _ _

/-- A sequence that is not closing is not freed. -/
theorem tryFree_open {d : Dev} {id : Nat} {q : Seq} (h : seqOf d id = some q) (hq : q.closing = false) : tryFree d id = d := by
  unfold tryFree
  simp only [h, hq, Bool.false_eq_true, false_and, if_false]

theorem reports_mirrorState (d : Dev) : Reports d (mirrorState d) := by
  unfold mirrorState
  split
  · split
    · rfl
    · exact Reports.trans (e := setPad d { d.pad with twinTold := some (twinData d) }) rfl (reports_sendTwin ..)
  · rfl

/-- A command of the module that may change what a binding mirrors. -/
theorem answers_onDerier {c : Instr} {name : String} {f : Dev → Option Dev} {pre : Dev → Prop} {post : Dev → Dev → Prop}
    (hexec : ∀ s, exec c s = onDerier name f s)
    (h : ∀ d, pre d → ∃ e, f d = some e ∧ post d { mirrorState e with draws := (mirrorState e).draws + 1 }) :
    Answers c pre post := by
  refine answers_onDev (f := fun d => (f d).map mirrorState) hexec fun d hp => ?_
  obtain ⟨e, he, hpost⟩ := h d hp
  exact ⟨mirrorState e, by rw [he]; rfl, hpost⟩

/-! ### The groom of the gate-die SRAM (O23) -/

/-- A module with a correctable error in byte 1 of the gate-die SRAM, which lies in line 0. -/
def gateErrorModule : Dev :=
  { Dev.reset with mem := { Memory.reset with gateErr := [(1, some .correctable)] } }

/-- The groom's visit of line 1 does not reach byte 1. -/
theorem groomGate_other_line : mget none (groomGate gateErrorModule 1 []).mem.gateErr 1 = some .correctable := by
  decide

/-- Refutes O23: the error marks of the gate-die SRAM are kept by byte, and the statement reads the mark of byte n where line n
has been scrubbed. -/
theorem not_scrubsKeepBytesAndClearCorrectable : ¬ Obligations.ScrubsKeepBytesAndClearCorrectable := by
  rintro ⟨-, -, -, hgate, -, -⟩
  obtain ⟨t, ht, -, hmark, -, -⟩ := hgate 1 { pending := [], dev := gateErrorModule } rfl
  have hexec : exec (.groomScrub (.gate 1) [] false) { pending := [], dev := gateErrorModule } = .next { pending := [], dev :=
      { groomGate gateErrorModule 1 [] with draws := (groomGate gateErrorModule 1 []).draws + 1 } } := rfl
  obtain rfl := Host.Outcome.next.inj (hexec.symm.trans ht)
  have hgone : mget none gateErrorModule.mem.gateErr 1 = some .correctable := rfl
  rw [if_pos hgone] at hmark
  exact Option.some_ne_none _ (groomGate_other_line.symm.trans hmark)


/-! ### Attention jobs (O29) -/

theorem jobOf_congr {d e : Dev} (h : e.attn.jobs = d.attn.jobs) (id : Nat) : jobOf e id = jobOf d id := by
  unfold jobOf
  rw [h]

theorem jobOf_id {d : Dev} {id : Nat} {j : Job} (h : jobOf d id = some j) : j.id = id := by
  have := List.find?_some h
  simpa using this

/-- A job changed where its number stands in the list. -/
theorem find_map_job {l : List Job} {id : Nat} {j : Job} {f : Job → Job} (h : l.find? (·.id == id) = some j)
    (hf : ∀ x, (f x).id = x.id) :
    (l.map fun x => if x.id = id then f x else x).find? (·.id == id) = some (f j) := by
  have hkeep : ((fun x : Job => x.id == id) ∘ fun x => if x.id = id then f x else x) = fun x => x.id == id := by
    funext x
    by_cases hx : x.id = id <;> simp [hx, hf]
  have hj : j.id = id := by simpa using List.find?_some h
  rw [List.find?_map, hkeep, h, Option.map_some, if_pos hj]

theorem setSeq_keeps {d g : Dev} (h : Tidies d g) (id : Nat) (q : Option Seq) : (setSeq g id q).stalls = d.stalls ∧
    (setSeq g id q).banks = d.banks ∧ (setSeq g id q).attn.jobs = d.attn.jobs :=
  ⟨h.machine.1, h.machine.2.1, h.lists.2.1⟩

theorem tryFree_keeps (d : Dev) (id : Nat) :
    (tryFree d id).stalls = d.stalls ∧ (tryFree d id).banks = d.banks ∧ (tryFree d id).attn.jobs = d.attn.jobs := by
  unfold tryFree
  cases hq : seqOf d id with
  | none => exact ⟨rfl, rfl, rfl⟩
  | some q =>
    dsimp only
    by_cases hfree : q.closing ∧ jobsNaming d id = [] ∧ (d.attn.edits.any fun e => e.seq == id) = false
    · rw [if_pos hfree]
      exact setSeq_keeps (tidies_engWrite ..) id none
    · rw [if_neg hfree]
      exact ⟨rfl, rfl, rfl⟩

/-- The end of a job. -/
theorem endJob_spec (d : Dev) (j : Job) :
    let e := endJob d j
    e.stalls = d.stalls ∧ e.banks = d.banks ∧ jobOf e j.id = none := by
  have hfree := (frees_retireGens { d with attn := { d.attn with jobs := d.attn.jobs.filter fun x => x.id != j.id } }).tidies
  unfold endJob
  dsimp only
  generalize retireGens { d with attn := { d.attn with jobs := d.attn.jobs.filter fun x => x.id != j.id } } = g at hfree ⊢
  obtain ⟨-, hjobs, -, -⟩ := hfree.lists
  obtain ⟨tstalls, tbanks, tjobs⟩ := tryFree_keeps g (jSeq j.desc)
  refine ⟨tstalls.trans hfree.stalls, tbanks.trans hfree.banks, ?_⟩
  unfold jobOf
  rw [tjobs, hjobs, List.find?_eq_none]
  intro x hx
  simpa using (List.mem_filter.1 hx).2

/-- The end of a job whose sequence is open keeps memory and every sequence. -/
theorem endJob_open {d : Dev} {j : Job} {q : Seq} (hq : seqOf d (jSeq j.desc) = some q) (hopen : q.closing = false) :
    (endJob d j).mem = d.mem ∧ seqOf (endJob d j) = seqOf d := by
  have hfree := frees_retireGens { d with attn := { d.attn with jobs := d.attn.jobs.filter fun x => x.id != j.id } }
  unfold endJob
  dsimp only
  generalize retireGens { d with attn := { d.attn with jobs := d.attn.jobs.filter fun x => x.id != j.id } } = g at hfree ⊢
  obtain ⟨-, -, -, hseqs⟩ := hfree.tidies.lists
  rw [tryFree_open (by rw [hseqs]; exact hq) hopen]
  exact ⟨hfree.mem.1, hseqs⟩

/-- Bytes put into the bin of a stall. -/
theorem binPut_spec (d : Dev) (st tile off : Nat) (bs : List Byte) :
    BufferWritten 1 (4096 * tile + off) bs (stallOf d st) (stallOf (binPut d st tile off bs) st) ∧
      (∀ n, n ≠ st → stallOf (binPut d st tile off bs) n = stallOf d n) ∧
      binPut d st tile off bs = { d with stalls := (binPut d st tile off bs).stalls } := by
  refine ⟨?_, fun n hn => stallOf_sramWrite_ne d _ _ _ hn, rfl⟩
  unfold binPut
  rw [stallOf_sramWrite_self]
  exact bufferWritten_setSram _ (by omega) _ _

/-- Beside the stalls, counters, records and packets only. -/
def SignalsOfStalls (d e : Dev) : Prop := Signals { d with stalls := e.stalls } e

theorem SignalsOfStalls.trans {d e f : Dev} (h : SignalsOfStalls d e) (g : SignalsOfStalls e f) : SignalsOfStalls d f := by
  unfold SignalsOfStalls Signals at *
  rw [h] at g
  exact g

theorem Signals.ofStalls {d e : Dev} (h : Signals d e) : SignalsOfStalls d e := by
  have hst : e.stalls = d.stalls := h.touches.machine.1
  unfold SignalsOfStalls
  rw [hst]
  exact h

theorem signalsOfStalls_foldl {α : Type} {f : Dev → α → Dev} (hf : ∀ d a, SignalsOfStalls d (f d a)) :
    ∀ (l : List α) (d : Dev), SignalsOfStalls d (l.foldl f d)
  | [], _ => rfl
  | a :: l, d => (hf d a).trans (signalsOfStalls_foldl hf l (f d a))

theorem signalsOfStalls_sramFailing (st buf : Nat) (d : Dev) (l : Nat) : SignalsOfStalls d (sramFailing d st buf l false) := by
  unfold sramFailing
  dsimp only
  split
  · rfl
  · split
    · rfl
    · exact (signals_raiseEvent ..).ofStalls

theorem signalsOfStalls_bufUe (st buf : Nat) (d : Dev) (o : Nat) : SignalsOfStalls d (bufUe st buf d o) := by
  unfold bufUe
  exact SignalsOfStalls.trans (e := modStall (bump d (stallReg st 0x70)) st fun x =>
    { x with ueOff := BitVec.ofNat 18 o, ueBuf := BitVec.ofNat 2 buf, ueValid := true }) rfl (signals_raiseEvent ..).ofStalls

theorem signalsOfStalls_sramTouch (d : Dev) (st buf off n : Nat) : SignalsOfStalls d (sramTouch d st buf off n) := by
  unfold sramTouch
  dsimp only
  refine SignalsOfStalls.trans ?_ (signalsOfStalls_foldl (signalsOfStalls_sramFailing st buf) _ _)
  refine SignalsOfStalls.trans ?_ (signalsOfStalls_foldl (signalsOfStalls_bufUe st buf) _ _)
  split <;> rfl

/-- What an append may change: stalls, and what stores in memory and the tidying of sequence memory leave; no write is mirrored
where no binding mirrors. -/
def Appends (d e : Dev) : Prop :=
  Tidies { d with stalls := e.stalls } e ∧ (mirroring d = false → e.pad.twinNext = d.pad.twinNext)

theorem Appends.binds {d e : Dev} (h : Appends d e) : mirroring e = mirroring d := by
  obtain ⟨h, -⟩ := h
  unfold Tidies at h
  rw [h]
  rfl

theorem Appends.trans {d e f : Dev} (h : Appends d e) (g : Appends e f) : Appends d f := by
  have hmir := h.binds
  obtain ⟨ht, hn⟩ := h
  obtain ⟨gt, gn⟩ := g
  refine ⟨?_, fun hoff => (gn (hmir.trans hoff)).trans (hn hoff)⟩
  unfold Tidies at *
  rw [ht] at gt
  exact gt

theorem appends_foldl {α β : Type} {f : Dev × β → α → Dev × β} (hf : ∀ p a, Appends p.1 (f p a).1) :
    ∀ (l : List α) (p : Dev × β), Appends p.1 (l.foldl f p).1
  | [], _ => ⟨rfl, fun _ => rfl⟩
  | a :: l, p => (hf p a).trans (appends_foldl hf l (f p a))

theorem Touches.appends {d e : Dev} (h : Touches d e) : Appends d e := by
  refine ⟨?_, fun _ => h.mirror.2.2.2⟩
  have hst : e.stalls = d.stalls := h.machine.1
  rw [hst]
  exact h.tidies

theorem SignalsOfStalls.appends {d e : Dev} (h : SignalsOfStalls d e) : Appends d e :=
  ⟨h.touches.tidies, fun _ => h.touches.mirror.2.2.2⟩

theorem mirrorOut_off {d : Dev} (h : mirroring d = false) (loft : Bool) (obs : List (Nat × Byte)) :
    (mirrorOut d loft obs).pad.twinNext = d.pad.twinNext := by
  rw [(mirrorOut_spec d loft obs).2, if_neg (by simp [h])]

/-- A write of the engine is made in one step, with what mirrors it. -/
theorem appends_written {d g : Dev} (h : Writes d g) (obs : List (Nat × Byte)) : Appends d (mirrorOut g false obs) := by
  obtain ⟨hst, -, -, hmir, -, -, hn⟩ := h.machine
  have ht := h.tidies.trans (tidies_mirrorOut g false obs)
  refine ⟨?_, fun hoff => (mirrorOut_off (hmir.trans hoff) false obs).trans hn⟩
  rw [ht.machine.1]
  exact ht

theorem appends_engWrite (d : Dev) (die off : Nat) (bs : List Byte) : Appends d (engWrite d die off bs) :=
  appends_written (dramWrite_spec ..).1 _

theorem appends_engWritePart (d : Dev) (die off : Nat) (bs : List Byte) (ks : List Nat) :
    Appends d (engWritePart d die off bs ks) :=
  appends_written (dramWrite_spec ..).1 _

theorem appends_appendHead (q : Seq) (page t : Nat) (r : Dev × Bool) (vh : Nat × Nat) (src : List Byte) :
    Appends r.1 (appendHead q page t r vh src).1 := by
  unfold appendHead
  dsimp only
  generalize hscale : (if q.kvFmt = 1 ∧ t = 0 then engWrite r.1 q.die (scaleOff page vh.1 vh.2)
    (toLe 4 (int8Scale q.headroom ((List.range q.dim).map fun i => fdecode bf16 (fieldAt src (2 * i) 2)))) else r.1) = g
  have hg : Appends r.1 g := by
    rw [← hscale]
    split
    · exact appends_engWrite ..
    · exact ⟨rfl, fun _ => rfl⟩
  generalize (if q.kvFmt = 1 ∧ t ≠ 0 then homeKeys q.die (scaleOff page vh.1 vh.2) 4 else []) = reads
  refine hg.trans ((touches_dramTouchAll g reads).appends.trans ?_)
  generalize narrowHead q.kvFmt (if q.kvFmt = 1 then leNat (dramAt g (homeKeys q.die (scaleOff page vh.1 vh.2) 4)) else 0)
    ((List.range q.dim).map fun i => fdecode bf16 (fieldAt src (2 * i) 2)) = n
  split
  · exact appends_engWrite ..
  · exact (appends_engWrite ..).trans (signals_bumpBy ..).touches.appends

theorem appends_doAppend (d : Dev) (j : Job) (q : Seq) : Appends d (doAppend d j q).1 := by
  unfold doAppend
  dsimp only
  refine (signalsOfStalls_sramTouch ..).appends.trans (appends_foldl (fun p a => ?_) _ (_, false))
  unfold appendPos
  exact appends_foldl (fun p vh => appends_appendHead ..) _ _

theorem Appends.lists {d e : Dev} (h : Appends d e) : e.attn.jobs = d.attn.jobs ∧ e.banks = d.banks ∧ seqOf e = seqOf d := by
  obtain ⟨-, hjobs, -, hseqs⟩ := h.1.lists
  exact ⟨hjobs, h.1.machine.2.1, hseqs⟩

/-- The reads of a job that attends. -/
theorem jobResults_attend {d : Dev} {j : Job} {q : Seq} (h : jAttend j.desc = true) :
    jobResults d j q = (dramTouchAll (sramTouch d j.stall 0 (512 * jQSlot j.desc) (jNq j.desc * q.hQ * q.dim * queryBytes q.qFmt))
        (jobReadKeys q j),
      attendJob d q j (sramRead d j.stall 0 (512 * jQSlot j.desc) (jNq j.desc * q.hQ * q.dim * queryBytes q.qFmt)),
      (linesOf (jobReadKeys q j)).any (lineBad d)) := by
  unfold jobResults
  rw [if_neg (by simp [h])]

theorem linesOf_bad {d : Dev} {ks : List Nat} (h : ∀ k ∈ ks, lineBad d (lineOf k) = false) :
    (linesOf ks).any (lineBad d) = false := by
  rw [List.any_eq_false]
  intro l hl
  unfold linesOf at hl
  obtain ⟨k, hk, rfl⟩ := List.mem_map.1 (List.mem_eraseDups.1 hl)
  simp [h k hk]

theorem mirroredBy_same {d e : Dev} (h : e.pad.twinNext = d.pad.twinNext) : mirroredBy d e = none := by
  unfold mirroredBy
  rw [if_neg (by omega)]

/-- The status tile told of a job that attends, after its outputs have been put: two ranges of the bin that do not meet. -/
theorem tellJob_spec {d : Dev} {j : Job} {q : Seq} (tile : List Byte) (hq : seqOf d (jSeq j.desc) = some q)
    (hopen : q.closing = false) :
    let e := tellJob d j tile
    jobOf e j.id = none ∧ e.mem = d.mem ∧ e.banks = d.banks ∧ seqOf e = seqOf d ∧
      (∀ n, n ≠ j.stall → stallOf e n = stallOf d n) ∧
      BufferWritten 1 (4096 * jStatTile j.desc) tile (stallOf d j.stall) (stallOf e j.stall) := by
  obtain ⟨hwritten, hother, hframe⟩ := binPut_spec d j.stall (jStatTile j.desc) 0 tile
  unfold tellJob
  generalize binPut d j.stall (jStatTile j.desc) 0 tile = g at hwritten hother hframe ⊢
  have hseqs : seqOf g = seqOf d := by
    rw [hframe]
    rfl
  have hmem : g.mem = d.mem := by rw [hframe]
  have hbanks : g.banks = d.banks := by rw [hframe]
  obtain ⟨estalls, ebanks, hgone⟩ := endJob_spec g j
  obtain ⟨emem, eseqs⟩ := endJob_open (d := g) (j := j) (by rw [hseqs]; exact hq) hopen
  exact ⟨hgone, emem.trans hmem, ebanks.trans hbanks, eseqs.trans hseqs,
    fun n hn => (stallOf_congr estalls n).trans (hother n hn), by rw [stallOf_congr estalls]; exact hwritten⟩

theorem refuseJob_spec (d : Dev) (j : Job) (k : Nat) :
    let e := refuseJob d j k
    jobOf e j.id = none ∧ e.banks = d.banks ∧ (∀ n, n ≠ j.stall → stallOf e n = stallOf d n) ∧
      BufferWritten 1 (4096 * jStatTile j.desc) (toLe 4 k ++ List.replicate 12 0) (stallOf d j.stall) (stallOf e j.stall) := by
  obtain ⟨hwritten, hother, hframe⟩ := binPut_spec (bump d (engineReg j.die 0x10)) j.stall (jStatTile j.desc) 0
    (toLe 4 k ++ List.replicate 12 0)
  unfold refuseJob
  generalize binPut (bump d (engineReg j.die 0x10)) j.stall (jStatTile j.desc) 0 (toLe 4 k ++ List.replicate 12 0) = g
    at hwritten hother hframe ⊢
  have hbanks : g.banks = d.banks := by
    rw [hframe]
    rfl
  obtain ⟨estalls, ebanks, hgone⟩ := endJob_spec g j
  exact ⟨hgone, ebanks.trans hbanks, fun n hn => (stallOf_congr estalls n).trans (hother n hn),
    by rw [stallOf_congr estalls]; exact hwritten⟩

theorem length_toLe (n v : Nat) : (toLe n v).length = n := by
  induction n generalizing v with
  | zero => rfl
  | succ n ih => rw [toLe, List.length_cons, ih]

/-- A job that passes the checks takes its snapshot. -/
theorem startJob_passes {d : Dev} {die : Nat} {j : Job} {q : Seq} (hok : jobRefusal d die j.desc = none)
    (hq : seqOf d (jSeq j.desc) = some q) (hj : jobOf d j.id = some j) :
    let e := startJob d die j
    e.stalls = d.stalls ∧ e.mem.dram = d.mem.dram ∧ e.banks = d.banks ∧ ∃ bad, jobOf e j.id = some { j with
      started := true, gen := (q.list (jLayer j.desc)).gen, len := (q.list (jLayer j.desc)).length, memErr := bad } := by
  have h := touches_dramTouchAll d (checkKeys d die j.desc)
  unfold startJob
  dsimp only
  rw [hok]
  generalize dramTouchAll d (checkKeys d die j.desc) = g at h ⊢
  refine under_name fun named shown => ?_
  obtain ⟨hstalls, -, hbanks, -, hattn, -⟩ := h.machine
  have hseq : seqOf { g with attn := { g.attn with turn := mput 255 g.attn.turn die (j.stall % 256) } } (jSeq j.desc) = some q := by
    rw [← hq]
    unfold seqOf
    rw [← hattn]
  refine shown ?_
  dsimp only
  rw [hseq]
  refine ⟨hstalls, h.bytes.1, hbanks, (linesOf (checkKeys d die j.desc)).any (lineBad d), ?_⟩
  have hjobs : g.attn.jobs = d.attn.jobs := by rw [hattn]
  unfold jobOf at hj ⊢
  dsimp only
  rw [hjobs]
  exact find_map_job hj fun _ => rfl

/-- A job that fails a check ends with its status. -/
theorem startJob_refused {d : Dev} {die k : Nat} {j : Job} (hbad : jobRefusal d die j.desc = some k) :
    let e := startJob d die j
    jobOf e j.id = none ∧ e.banks = d.banks ∧ (∀ n, n ≠ j.stall → stallOf e n = stallOf d n) ∧
      BufferWritten 1 (4096 * jStatTile j.desc) (toLe 4 k ++ List.replicate 12 0) (stallOf d j.stall) (stallOf e j.stall) := by
  have h := touches_dramTouchAll d (checkKeys d die j.desc)
  unfold startJob
  dsimp only
  rw [hbad]
  generalize dramTouchAll d (checkKeys d die j.desc) = g at h ⊢
  refine under_name fun named shown => ?_
  obtain ⟨hstalls, -, hbanks, -⟩ := h.machine
  obtain ⟨hgone, ebanks, hother, hwritten⟩ :=
    refuseJob_spec { g with attn := { g.attn with turn := mput 255 g.attn.turn die (j.stall % 256) } } j k
  refine shown ⟨hgone, ebanks.trans hbanks, fun n hn => (hother n hn).trans (stallOf_congr hstalls n), ?_⟩
  rw [show stallOf d j.stall = stallOf { g with attn := { g.attn with turn := mput 255 g.attn.turn die (j.stall % 256) } } j.stall
    from (stallOf_congr hstalls j.stall).symm]
  exact hwritten

/-- The finish of a job that attends without error, and neither appends nor keeps scores. -/
theorem attendFinish_attends {d : Dev} {j : Job} {q : Seq} (hmem : j.memErr = false) (hjs : j.seq = jSeq j.desc)
    (hq : seqOf d j.seq = some q) (hopen : q.closing = false) (happend : jAppend j.desc = false) (hscore : jScore j.desc = false)
    (hattend : jAttend j.desc = true) (hread : ∀ k ∈ jobReadKeys q j, lineBad d (lineOf k) = false) :
    let rs := attendJob d q j (sramRead d j.stall 0 (512 * jQSlot j.desc) (jNq j.desc * q.hQ * q.dim * queryBytes q.qFmt))
    let e := attendFinish d j false false
    jobOf e j.id = none ∧ e.mem.dram = d.mem.dram ∧ e.banks = d.banks ∧ (∀ n, n ≠ j.stall → stallOf e n = stallOf d n) ∧
      ∃ x y, BufferWritten 1 (4096 * jOutTile j.desc) (rs.flatMap fun h => h.out.flatMap (toLe 4)) x y ∧
        BufferWritten 1 (4096 * jStatTile j.desc) (statusBytes j q 0 rs) y (stallOf e j.stall) ∧
        x.sreg = (stallOf d j.stall).sreg ∧ x.pc = (stallOf d j.stall).pc := by
  have hsram := readsOf_sramTouch d j.stall (512 * jQSlot j.desc) (jNq j.desc * q.hQ * q.dim * queryBytes q.qFmt) (buf := 0) (by omega)
  have hsig := (signalsOfStalls_sramTouch d j.stall 0 (512 * jQSlot j.desc) (jNq j.desc * q.hQ * q.dim * queryBytes q.qFmt)).touches
  have hno : (j.memErr || false || (linesOf (jobReadKeys q j)).any (lineBad d)) = false := by
    rw [hmem, linesOf_bad hread]
    rfl
  unfold attendFinish
  simp only [hq, happend, Bool.false_eq_true, if_false, Option.getD_some, jobResults_attend hattend, hno, hscore, hattend, if_true,
    false_and]
  generalize attendJob d q j (sramRead d j.stall 0 (512 * jQSlot j.desc) (jNq j.desc * q.hQ * q.dim * queryBytes q.qFmt)) = rs
  generalize sramTouch d j.stall 0 (512 * jQSlot j.desc) (jNq j.desc * q.hQ * q.dim * queryBytes q.qFmt) = g at hsram hsig ⊢
  have htouch := touches_dramTouchAll g (jobReadKeys q j)
  generalize dramTouchAll g (jobReadKeys q j) = g1 at htouch ⊢
  obtain ⟨hw, hother, hframe⟩ := binPut_spec g1 j.stall (jOutTile j.desc) 0 (rs.flatMap fun h => h.out.flatMap (toLe 4))
  generalize binPut g1 j.stall (jOutTile j.desc) 0 (rs.flatMap fun h => h.out.flatMap (toLe 4)) = g2 at hw hother hframe ⊢
  have hattn : g2.attn = d.attn := by
    rw [hframe]
    exact htouch.machine.2.2.2.2.1.trans hsig.machine.2.2.2.2.1
  have hdram : g2.mem.dram = d.mem.dram := by
    rw [hframe]
    exact htouch.bytes.1.trans hsig.bytes.1
  have hbanks : g2.banks = d.banks := by
    rw [hframe]
    exact htouch.machine.2.2.1.trans hsig.machine.2.2.1
  have htwin : g2.pad.twinNext = d.pad.twinNext := by
    rw [hframe]
    exact htouch.mirror.2.2.2.trans hsig.mirror.2.2.2
  have hseqs : seqOf g2 (jSeq j.desc) = some q := by
    rw [← hjs, ← hq]
    unfold seqOf
    rw [hattn]
  rw [mirroredBy_same htwin]
  obtain ⟨hgone, emem, ebanks, -, eother, estat⟩ := tellJob_spec (statusBytes j q 0 rs) hseqs hopen
  obtain ⟨-, hrest, z, hz⟩ := hsram
  have hg1 : ∀ n, stallOf g1 n = stallOf g n := stallOf_congr htouch.machine.1
  refine ⟨hgone, by rw [emem]; exact hdram, ebanks.trans hbanks,
    fun n hn => (eother n hn).trans ((hother n hn).trans ((hg1 n).trans (hrest n hn))),
    stallOf g1 j.stall, stallOf g2 j.stall, hw, estat, ?_, ?_⟩
  · rw [hg1, hz]
    rfl
  · rw [hg1, hz]
    rfl

theorem seqOf_setSeq (d : Dev) (id : Nat) (q : Option Seq) : seqOf (setSeq d id q) id = q := by
  unfold seqOf setSeq
  exact mget_mput_self ..

/-- A page list stored in its sequence. -/
theorem putList_spec {d : Dev} {id l : Nat} {q : Seq} (h : seqOf d id = some q) (x : PageList) (ks : List Nat) :
    seqOf (putList d id l x ks) id = some { q with pl := q.pl.set l x } ∧
      Appends (setSeq d id (some { q with pl := q.pl.set l x })) (putList d id l x ks) := by
  have hw := appends_engWritePart (setSeq d id (some { q with pl := q.pl.set l x })) q.die (listOff q l) (listBytes x) ks
  have hput : putList d id l x ks =
      engWritePart (setSeq d id (some { q with pl := q.pl.set l x })) q.die (listOff q l) (listBytes x) ks := by
    unfold putList
    rw [h]
  rw [hput]
  exact ⟨by rw [hw.lists.2.2, seqOf_setSeq], hw⟩

theorem list_set {q : Seq} {l : Nat} (h : l < q.pl.length) (x : PageList) : ({ q with pl := q.pl.set l x } : Seq).list l = x := by
  unfold Seq.list
  simp [h]

/-- A job's list once its append has been performed. -/
def appendedList (j : Job) (q : Seq) : PageList := { q.list j.layer with length := jAppendPos j.desc + jNq j.desc, due := true }

/-- LENGTH is set to the end of the append. -/
theorem setLength_spec {d : Dev} {j : Job} {q : Seq} (h : seqOf d j.seq = some q) :
    seqOf (setLength d j) j.seq = some { q with pl := q.pl.set j.layer (appendedList j q) } ∧
      Appends (setSeq d j.seq (some { q with pl := q.pl.set j.layer (appendedList j q) })) (setLength d j) := by
  unfold setLength
  rw [h]
  exact putList_spec h _ _

/-- The finish of an append that is not mirrored. -/
theorem attendFinish_appends {d : Dev} {j : Job} {q : Seq} (failed : Bool) (hjs : j.seq = jSeq j.desc) (hq : seqOf d j.seq = some q)
    (hoff : mirroring d = false) (hopen : q.closing = false) (hlayer : j.layer < q.pl.length) (happend : jAppend j.desc = true)
    (hattend : jAttend j.desc = false) (hscore : jScore j.desc = false) :
    let e := attendFinish d j failed false
    jobOf e j.id = none ∧ e.banks = d.banks ∧ ∃ r, seqOf e j.seq = some r ∧
      r.list j.layer = appendedList j q := by
  obtain ⟨hset, hw⟩ := setLength_spec hq
  have hres : ∀ (g : Dev) (r : Seq), jobResults g j r = (g, [], false) := fun g r => by
    unfold jobResults
    rw [if_pos hattend]
  unfold attendFinish
  simp only [hq, happend, if_true, hset, Option.getD_some, hres, hscore, hattend, Bool.false_eq_true, if_false, false_and]
  generalize setLength d j = g at hset hw ⊢
  generalize statusBytes j _ _ _ = tile
  have htwin : g.pad.twinNext = d.pad.twinNext := hw.2 hoff
  generalize hg1 : (if (j.memErr || failed || false) = true then bump g (engineReg j.die 0x30) else g) = g1
  have hsame : g1.pad = g.pad ∧ g1.banks = g.banks ∧ g1.attn = g.attn := by
    rw [← hg1]
    split <;> exact ⟨rfl, rfl, rfl⟩
  obtain ⟨hpad, hbanks, hattn⟩ := hsame
  rw [mirroredBy_same (by rw [hpad]; exact htwin)]
  have hseq : seqOf g1 j.seq = some { q with pl := q.pl.set j.layer (appendedList j q) } := by
    rw [← hset]
    unfold seqOf
    rw [hattn]
  obtain ⟨hgone, -, ebanks, eseqs, -, -⟩ := tellJob_spec (j := j) tile (hjs ▸ hseq) (by exact hopen)
  refine ⟨hgone, ebanks.trans (hbanks.trans hw.lists.2.1), _, by rw [eseqs]; exact hseq, list_set hlayer _⟩

theorem holdJob_spec {d : Dev} {id : Nat} {j : Job} (h : jobOf d id = some j) (x : JobHold) :
    jobOf (holdJob d id x) id = some { j with hold := some x } :=
  find_map_job h fun _ => rfl

/-- What does not show in a state's report to its twin. -/
theorem mirrorState_keeps (e : Dev) : (mirrorState e).stalls = e.stalls ∧ (mirrorState e).banks = e.banks ∧
    (mirrorState e).mem = e.mem ∧ (mirrorState e).attn = e.attn := by
  have hstalls := (reports_mirrorState e).stalls
  have hbanks := (reports_mirrorState e).banks
  have hmem := (reports_mirrorState e).mem
  have hattn := (reports_mirrorState e).attn
  exact ⟨hstalls, hbanks, hmem, hattn⟩

/-- Settles O29. -/
theorem attentionJobsStartAndFinish : Obligations.AttentionJobsStartAndFinish := by
  refine ⟨⟨fun die id j q => ?_, fun die id j k => ?_⟩, fun die id j q rs outs stat => ?_, fun die id j q => ?_,
    fun die id j q n residue => ?_⟩
  · refine answers_onDerier (fun s => show execAttnJobStart die id s = _ from rfl) ?_
    intro d hpre
    refine under_name fun named shown => ?_
    obtain ⟨hj, hmay, hok, hq⟩ := hpre
    obtain rfl := jobOf_id hj
    obtain ⟨estalls, edram, ebanks, bad, ejob⟩ := startJob_passes hok hq hj
    refine shown ⟨startJob d die j, by rw [hj]; exact if_pos hmay, ?_⟩
    generalize startJob d die j = e at *
    refine under_name fun named shown => ?_
    obtain ⟨mstalls, mbanks, mmem, mattn⟩ := mirrorState_keeps e
    have hjob : jobOf (mirrorState e) j.id = jobOf e j.id := jobOf_congr (by rw [mattn]) _
    exact shown ⟨mstalls.trans estalls, by rw [mmem]; exact edram, mbanks.trans ebanks, bad, hjob.trans ejob⟩
  · refine answers_onDerier (fun s => show execAttnJobStart die id s = _ from rfl) ?_
    intro d hpre
    refine under_name fun named shown => ?_
    obtain ⟨hj, hmay, hbad⟩ := hpre
    obtain rfl := jobOf_id hj
    obtain ⟨egone, ebanks, eother, hbytes, hbut, -⟩ := startJob_refused hbad
    refine shown ⟨startJob d die j, by rw [hj]; exact if_pos hmay, ?_⟩
    generalize startJob d die j = e at *
    refine under_name fun named shown => ?_
    obtain ⟨mstalls, mbanks, mmem, mattn⟩ := mirrorState_keeps e
    have hst : ∀ n, stallOf { mirrorState e with draws := (mirrorState e).draws + 1 } n = stallOf e n := stallOf_congr mstalls
    have hjob : jobOf (mirrorState e) j.id = jobOf e j.id := jobOf_congr (by rw [mattn]) _
    have hlen : (toLe 4 k ++ List.replicate 12 (0 : Byte)).length = 16 := by simp [length_toLe]
    rw [hlen] at hbytes hbut
    exact shown ⟨hjob.trans egone, mbanks.trans ebanks, fun n hn => (hst n).trans (eother n hn), by rw [hst]; exact hbytes,
      by rw [hst]; exact hbut⟩
  · refine answers_onDerier (fun s => show execAttnJobFinish die id false s = _ from rfl) ?_
    intro d hpre
    refine under_name fun named shown => ?_
    obtain ⟨hj, hdie, hstarted, hhold, hmem, hjs, hq, hopen, happend, hscore, hattend, hread, rfl, rfl, rfl, hapart⟩ := hpre
    obtain rfl := jobOf_id hj
    have hfin : finishJob d j false = attendFinish d j false false := by
      unfold finishJob
      simp only [hq, happend, Bool.false_eq_true, if_false]
    obtain ⟨egone, edram, ebanks, eother, x, y, ⟨hout, -, hy⟩, ⟨hstat, hbut, hz⟩, hsreg, hpc⟩ :=
      attendFinish_attends hmem hjs hq hopen happend hscore hattend hread
    refine shown ⟨finishJob d j false, by rw [hj]; exact if_pos ⟨hdie, hstarted, hhold⟩, ?_⟩
    rw [hfin]
    generalize attendFinish d j false false = e at *
    refine under_name fun named shown => ?_
    obtain ⟨mstalls, mbanks, mmem, mattn⟩ := mirrorState_keeps e
    have hst : ∀ n, stallOf { mirrorState e with draws := (mirrorState e).draws + 1 } n = stallOf e n := stallOf_congr mstalls
    have hjob : jobOf (mirrorState e) j.id = jobOf e j.id := jobOf_congr (by rw [mattn]) _
    refine shown ⟨hjob.trans egone, by rw [mmem]; exact edram, mbanks.trans ebanks, fun n hn => (hst n).trans (eother n hn),
      fun n hn => ?_, by rw [hst]; exact hstat, ?_, ?_⟩
    · rw [hst, hbut 1 _ (by omega) (by omega)]
      exact hout n hn
    · rw [hst, hz, ← hsreg, hy]
    · rw [hst, hz, ← hpc, hy]
  · refine answers_onDerier (fun s => show execAttnJobFinish die id false s = _ from rfl) ?_
    intro d hpre
    refine under_name fun named shown => ?_
    obtain ⟨hj, hdie, hstarted, hhold, hjs, hq, hoff, hopen, hlayer, happend, hattend, hscore, hlen⟩ := hpre
    obtain rfl := jobOf_id hj
    have happ := appends_doAppend d j q
    have hfin : finishJob d j false = attendFinish (doAppend d j q).1 j (doAppend d j q).2 false := by
      unfold finishJob
      simp only [hq, happend, if_true, hlen, ne_eq, not_true_eq_false, if_false, mirroredBy_same (happ.2 hoff)]
    obtain ⟨egone, ebanks, r, eseq, er⟩ := attendFinish_appends (d := (doAppend d j q).1) (doAppend d j q).2 hjs
      (by rw [happ.lists.2.2]; exact hq) (happ.binds.trans hoff) hopen hlayer happend hattend hscore
    refine shown ⟨finishJob d j false, by rw [hj]; exact if_pos ⟨hdie, hstarted, hhold⟩, ?_⟩
    rw [hfin]
    generalize attendFinish (doAppend d j q).1 j (doAppend d j q).2 false = e at *
    refine under_name fun named shown => ?_
    obtain ⟨mstalls, mbanks, mmem, mattn⟩ := mirrorState_keeps e
    have hjob : jobOf (mirrorState e) j.id = jobOf e j.id := jobOf_congr (by rw [mattn]) _
    have hseq : seqOf (mirrorState e) j.seq = seqOf e j.seq := by
      unfold seqOf
      rw [mattn]
    exact shown ⟨hjob.trans egone, mbanks.trans (ebanks.trans happ.lists.2.1), r, hseq.trans eseq, by rw [er]; rfl, by rw [er]; rfl, by rw [er]; rfl⟩
  · refine answers_onDerier (fun s => show execAttnJobFinish die id residue s = _ from rfl) ?_
    intro d hpre
    refine under_name fun named shown => ?_
    obtain ⟨hj, rfl, hdie, hstarted, hhold, hq, happend, hlen, hmirrored⟩ := hpre
    have happ := appends_doAppend d j q
    have hfin : finishJob d j residue = holdJob (doAppend d j q).1 j.id (.append n (doAppend d j q).2 residue) := by
      unfold finishJob
      simp only [hq, happend, if_true, hlen, ne_eq, not_true_eq_false, if_false, hmirrored]
    refine shown ⟨finishJob d j residue, by rw [hj]; exact if_pos ⟨hdie, hstarted, hhold⟩, ?_⟩
    rw [hfin]
    generalize (doAppend d j q).2 = bad
    generalize (doAppend d j q).1 = g at *
    refine under_name fun named shown => ?_
    obtain ⟨gjobs, gbanks, gseqs⟩ := happ.lists
    have hheld := holdJob_spec ((jobOf_congr gjobs j.id).trans hj) (.append n bad residue)
    have hkeeps : (holdJob g j.id (.append n bad residue)).banks = g.banks ∧
        seqOf (holdJob g j.id (.append n bad residue)) = seqOf g := ⟨rfl, rfl⟩
    generalize holdJob g j.id (.append n bad residue) = e at *
    obtain ⟨mstalls, mbanks, mmem, mattn⟩ := mirrorState_keeps e
    have hjob : jobOf (mirrorState e) j.id = jobOf e j.id := jobOf_congr (by rw [mattn]) _
    have hseq : seqOf (mirrorState e) j.seq = some q := by
      rw [← hq, ← gseqs, ← hkeeps.2]
      unfold seqOf
      rw [mattn]
    exact shown ⟨hseq, mbanks.trans (hkeeps.1.trans gbanks), bad, hjob.trans hheld⟩

/-! ### What the end of a command changes -/

/-- Only what ends of commands reach has changed: counters, records and packets, the rings, the commands and the mailbox, and the
records of models that wait for the host. -/
def Concludes (d e : Dev) : Prop :=
  e = { d with
    ctr := e.ctr, out := e.out
    host := { d.host with
      rings := e.host.rings, seqno := e.host.seqno, msixPending := e.host.msixPending, cmds := e.host.cmds
      mboxCpl := e.host.mboxCpl, mboxPhase := e.host.mboxPhase }
    health := { d.health with sendQueue := e.health.sendQueue }
    pad := { d.pad with ports := e.pad.ports, messageNo := e.pad.messageNo }
    feed := { d.feed with models := e.feed.models } }

theorem Concludes.refl (d : Dev) : Concludes d d := rfl

theorem Concludes.trans {d e f : Dev} (h : Concludes d e) (g : Concludes e f) : Concludes d f := by
  unfold Concludes at *
  rw [h] at g
  exact g

theorem Signals.concludes {d e : Dev} (h : Signals d e) : Concludes d e := by
  unfold Signals at h
  unfold Concludes
  rw [h]

theorem concludes_foldl {α : Type} {f : Dev → α → Dev} (hf : ∀ d a, Concludes d (f d a)) :
    ∀ (l : List α) (d : Dev), Concludes d (l.foldl f d)
  | [], d => .refl d
  | a :: l, d => (hf d a).trans (concludes_foldl hf l (f d a))

/-- What stands when commands have ended. -/
theorem Concludes.machine {d e : Dev} (h : Concludes d e) : e.stalls = d.stalls ∧ e.banks = d.banks ∧ e.cribs = d.cribs ∧
    e.ops = d.ops ∧ e.mem = d.mem ∧ e.attn = d.attn ∧ e.sense = d.sense ∧ e.board = d.board ∧ e.nextId = d.nextId ∧
    e.draws = d.draws := by
  unfold Concludes at h
  rw [h]
  exact ⟨rfl, rfl, rfl, rfl, rfl, rfl, rfl, rfl, rfl, rfl⟩

theorem Concludes.stalls {d e : Dev} (h : Concludes d e) : e.stalls = d.stalls := h.machine.1

theorem Concludes.banks {d e : Dev} (h : Concludes d e) : e.banks = d.banks := h.machine.2.1

theorem Concludes.cribs {d e : Dev} (h : Concludes d e) : e.cribs = d.cribs := h.machine.2.2.1

theorem Concludes.ops {d e : Dev} (h : Concludes d e) : e.ops = d.ops := h.machine.2.2.2.1

theorem Concludes.mem {d e : Dev} (h : Concludes d e) : e.mem = d.mem := h.machine.2.2.2.2.1

theorem Concludes.attn {d e : Dev} (h : Concludes d e) : e.attn = d.attn := h.machine.2.2.2.2.2.1

theorem Concludes.board {d e : Dev} (h : Concludes d e) : e.board = d.board := h.machine.2.2.2.2.2.2.2.1

theorem concludes_setRing (d : Dev) (r : Nat) (x : Option Ring) : Concludes d (setRing d r x) := rfl
theorem concludes_setCmds (d : Dev) (l : List Cmd) : Concludes d (setCmds d l) := rfl
theorem concludes_putCmd (d : Dev) (c : Cmd) : Concludes d (putCmd d c) := rfl
theorem concludes_modCmd (d : Dev) (cid : Nat) (f : Cmd → Cmd) : Concludes d (modCmd d cid f) := rfl
theorem concludes_dropCmd (d : Dev) (cid : Nat) : Concludes d (dropCmd d cid) := rfl
theorem concludes_setModels (d : Dev) (l : List Model) : Concludes d (setModels d l) := rfl
theorem concludes_emit (d : Dev) (o : Output) : Concludes d (emit d o) := rfl

/-- A ring is put in Error, which is reported. -/
theorem concludes_ringFails (d : Dev) (r a b : Nat) (x : Ring) :
    Concludes d (raiseEvent (setRing d r (some { x with state := .error })) x.owner 3 7 a b) :=
  (concludes_setRing ..).trans (signals_raiseEvent ..).concludes

theorem concludes_ringError (d : Dev) (r reason : Nat) : Concludes d (ringError d r reason) := by
  unfold ringError
  split
  · exact .refl d
  · next x _ =>
    dsimp only
    split
    · refine (concludes_ringFails d r r reason x).trans (concludes_foldl (fun d p => ?_) _ _)
      split
      · exact concludes_ringFails ..
      · exact .refl d
    · exact concludes_ringFails ..

theorem concludes_tellAll (d : Dev) (m : Message) : Concludes d (tellAll d m) := by
  unfold tellAll
  split
  · exact concludes_foldl (fun _ _ => (signals_sendMsg ..).concludes) _ _
  · exact .refl d

theorem concludes_coalesce (d : Dev) (r : Nat) (x : Ring) : Concludes d (coalesce d r x) := by
  unfold coalesce
  split
  · exact (concludes_setRing ..).trans (signals_sendMsix ..).concludes
  · exact concludes_setRing ..

theorem concludes_writeRecord (d : Dev) (r : Nat) (x : Ring) (rc : Record) : Concludes d (writeRecord d r x rc) := by
  unfold writeRecord
  split
  · exact (concludes_setRing ..).trans (concludes_ringError ..)
  · exact (concludes_emit ..).trans (concludes_coalesce ..)

theorem concludes_postRecord (d : Dev) (r : Nat) (rc : Record) : Concludes d (postRecord d r rc) := by
  unfold postRecord
  split
  · exact .refl d
  · split
    · exact .refl d
    · split
      · exact concludes_setRing ..
      · exact concludes_writeRecord ..

theorem concludes_postMailbox (d : Dev) (rc : Record) : Concludes d (postMailbox d rc) :=
  Concludes.trans (e := { d with host := { d.host with
    mboxCpl := some (rc, !d.host.mboxPhase), mboxPhase := !d.host.mboxPhase } }) rfl (signals_sendMsix ..).concludes

theorem concludes_freeFailed (d : Dev) (f : Nat × Nat → Bool) : Concludes d (freeFailed d f) :=
  Concludes.trans (concludes_setModels ..) (concludes_foldl (fun _ _ => concludes_tellAll ..) _ _)

theorem concludes_noteReply (d : Dev) (c : Cmd) : Concludes d (noteReply d c) := by
  unfold noteReply
  split
  · exact concludes_setModels ..
  · exact concludes_freeFailed ..

theorem concludes_freeRing (d : Dev) (r : Nat) : Concludes d (freeRing d r) :=
  (concludes_setRing ..).trans (concludes_freeFailed ..)

theorem concludes_freeAway (d : Dev) (c : Cmd) : Concludes d (freeAway d c) :=
  concludes_foldl (fun _ _ => (signals_sendMsg ..).concludes) _ _

theorem concludes_holdAway (d : Dev) (c : Cmd) (f : Nat → Bool) : Concludes d (holdAway d c f) :=
  concludes_foldl (fun _ _ => (signals_sendMsg ..).concludes) _ _

theorem concludes_endNow (d : Dev) (c : Cmd) (e : Ends) : Concludes d (endNow d c e) := by
  have hreply := ((concludes_freeAway d c).trans (concludes_dropCmd _ c.cid)).trans (concludes_noteReply _ c)
  unfold endNow
  dsimp only
  generalize noteReply (dropCmd (freeAway d c) c.cid) c = g at hreply ⊢
  refine hreply.trans ?_
  split
  · exact (signals_sendMsg ..).concludes
  · generalize (if c.ring = noRing then [] else e.bytes.take (dResultLen c.desc)) = bs
    have hbytes : Concludes g (if bs = [] ∨ (bs != [] && !c.resultOk) = true then g
        else emit g (.result (BitVec.ofNat 64 (dResult c.desc)) bs g.host.cfg.relaxed)) := by
      split
      · exact .refl g
      · exact concludes_emit ..
    generalize (if bs = [] ∨ (bs != [] && !c.resultOk) = true then g
      else emit g (.result (BitVec.ofNat 64 (dResult c.desc)) bs g.host.cfg.relaxed)) = g1 at hbytes ⊢
    refine hbytes.trans ?_
    by_cases hmbox : c.ring = mboxRing
    · rw [if_pos hmbox]
      exact concludes_postMailbox ..
    · rw [if_neg hmbox]
      split
      · exact .refl _
      · exact concludes_postRecord ..

theorem concludes_endCmd (d : Dev) (c : Cmd) (e : Ends) : Concludes d (endCmd d c e) := by
  unfold endCmd
  split
  · exact concludes_endNow ..
  · exact concludes_modCmd ..

theorem concludes_drained (d : Dev) (r : Nat) : Concludes d (drained d r) := by
  unfold drained
  split
  · exact .refl d
  · split
    · exact .refl d
    · split
      · refine Concludes.trans ?_ (concludes_freeRing ..)
        split
        · exact concludes_endCmd ..
        · exact .refl d
      · exact .refl d

theorem concludes_drainRings (d : Dev) : Concludes d (drainRings d) :=
  concludes_foldl (fun _ _ => concludes_foldl concludes_drained _ _) _ _

theorem concludes_finish (d : Dev) (c : Cmd) (e : Ends) : Concludes d (finish d c e) :=
  (concludes_endCmd ..).trans (concludes_drainRings ..)

theorem concludes_toMembers (d : Dev) (c : Cmd) : Concludes d (toMembers d c) :=
  concludes_foldl (fun _ _ => (signals_sendMsg ..).concludes) _ _

theorem concludes_finishAll (d : Dev) (c : Cmd) (e : Ends) : Concludes d (finishAll d c e) := by
  unfold finishAll
  split
  · exact concludes_finish ..
  · exact (concludes_toMembers ..).trans (concludes_modCmd ..)

theorem concludes_forward (d : Dev) (c : Cmd) : Concludes d (forward d c) :=
  (concludes_putCmd ..).trans (signals_sendMsg ..).concludes

theorem concludes_joins (d : Dev) (c : Cmd) : Concludes d (joins d c) := by
  unfold joins
  split
  · exact concludes_holdAway ..
  · exact .refl d

theorem concludes_editApplied (d : Dev) (id : Nat) : Concludes d (editApplied d id) := by
  unfold editApplied
  refine concludes_foldl (fun d c => ?_) _ _
  dsimp only
  split
  · exact (concludes_putCmd ..).trans (concludes_finish ..)
  · exact concludes_putCmd ..

end Sys2Proof.Machine
end

section
/-! Edits of sequence memory, the page pool and the prefix table (O30). -/

namespace Sys2Proof.Machine

open Sys2Proof

/-! ### Edits of sequence memory (O30) -/

/-- A list after an edit batch (R302). -/
def editedList (b : Edit) (q : Seq) : PageList :=
  { gen := (q.list b.layer).gen + 1, length := b.newLen.getD (q.list b.layer).length
    entries := editEntries ((q.list b.layer).gen + 1) b.sets (q.list b.layer).entries
    due := (q.list b.layer).due || b.newLen.isSome }

theorem putList_tidies {d : Dev} {id l : Nat} {q : Seq} (h : seqOf d id = some q) (x : PageList) (ks : List Nat) :
    Tidies (setSeq d id (some { q with pl := q.pl.set l x })) (putList d id l x ks) := by
  unfold putList
  rw [h]
  exact tidies_engWritePart ..

theorem applyEdit_tidies {d : Dev} {b : Edit} {q : Seq} (h : seqOf d b.seq = some q) :
    Tidies (setSeq { d with attn := { d.attn with edits := d.attn.edits.filter fun x => x.id != b.id } } b.seq
      (some { q with pl := q.pl.set b.layer (editedList b q) })) (applyEdit d b) := by
  have hseq : seqOf { d with attn := { d.attn with edits := d.attn.edits.filter fun x => x.id != b.id } } b.seq = some q := h
  unfold applyEdit
  dsimp only
  rw [hseq]
  dsimp only
  refine Tidies.trans ?_ (Tidies.trans (tidies_dropRefs ..) (frees_retireGens ..).tidies)
  have hput := putList_tidies (l := b.layer) hseq (editedList b q) (headerBytes b.newLen.isSome ++
    changedBytes ((b.sets.map (·.1)).filter (· < (q.list b.layer).entries.length)))
  refine hput.trans ?_
  split
  · rfl
  · rfl

/-- What an edit batch leaves of its sequence (R302). -/
theorem applyPrune_spec {d : Dev} {b : Edit} {q : Seq} (h : seqOf d b.seq = some q) :
    let e := applyPrune d b
    e.stalls = d.stalls ∧ e.attn.edits = d.attn.edits.filter (fun x => x.id != b.id) ∧
      seqOf e b.seq = some { q with pl := q.pl.set b.layer (editedList b q) } := by
  have hprune : applyPrune d b = pruneAll (applyEdit d b) q.die := by
    unfold applyPrune
    rw [h]
  have ht := (applyEdit_tidies h).trans (tidies_pruneAll (applyEdit d b) q.die)
  rw [hprune]
  generalize pruneAll (applyEdit d b) q.die = e at ht
  obtain ⟨-, -, hedits, hseqs⟩ := ht.lists
  exact ⟨ht.machine.1, hedits, by rw [hseqs, seqOf_setSeq]⟩

/-! The page pool. -/

theorem mem_of_mget {m : Map Bool} {k : Nat} (h : mget false m k = true) : k ∈ m.map Prod.fst := by
  induction m with
  | nil => simp [mget] at h
  | cons p m ih =>
    obtain ⟨i, v⟩ := p
    by_cases hi : i = k
    · simp [hi]
    · simp only [mget, hi, if_false] at h
      exact List.mem_cons_of_mem _ (ih h)

/-- Different pages that are taken have entries of their own. -/
theorem taken_length_le {d : Dev} {die : Nat} {l : List Nat} (hnd : l.Nodup)
    (hl : ∀ p ∈ l, p < 2 ^ 24 ∧ pageTaken d die p = true) :
    l.length ≤ (d.attn.taken.filter fun p => p.1 / 2 ^ 24 == die).length := by
  have hkeys : (l.map (pageKey die)).Nodup := hnd.map fun a b hab => by
    unfold pageKey at hab
    omega
  have hsub : l.map (pageKey die) ⊆ (d.attn.taken.filter fun p => p.1 / 2 ^ 24 == die).map Prod.fst := by
    intro k hk
    obtain ⟨p, hp, rfl⟩ := List.mem_map.1 hk
    obtain ⟨hlt, htaken⟩ := hl p hp
    obtain ⟨x, hx, hkey⟩ := List.mem_map.1 (mem_of_mget htaken)
    refine List.mem_map.2 ⟨x, List.mem_filter.2 ⟨hx, ?_⟩, hkey⟩
    have hdiv : pageKey die p / 2 ^ 24 = die := by
      unfold pageKey
      omega
    rw [hkey, hdiv]
    exact beq_self_eq_true die
  have hlen := (hkeys.subperm hsub).length_le
  rwa [List.length_map, List.length_map] at hlen

theorem freeFrom_some {d : Dev} {die n p r : Nat} (h : freeFrom d die n p = some r) :
    inPool d r = true ∧ pageTaken d die r = false := by
  induction n generalizing p with
  | zero => exact absurd h (by simp [freeFrom])
  | succ n ih =>
    unfold freeFrom at h
    split at h
    · next hfree =>
      obtain rfl := Option.some.inj h
      simpa using hfree
    · exact ih h

theorem freeFrom_none {d : Dev} {die n p : Nat} (h : freeFrom d die n p = none) :
    ∀ k, k < n → inPool d (p + k) = true → pageTaken d die (p + k) = true := by
  induction n generalizing p with
  | zero => exact fun k hk => absurd hk (by omega)
  | succ n ih =>
    unfold freeFrom at h
    split at h
    · exact absurd h (by simp)
    · next hfree =>
      intro k hk hin
      cases k with
      | zero =>
        rw [Nat.add_zero] at hin ⊢
        simpa [hin] using hfree
      | succ k =>
        rw [show p + (k + 1) = p + 1 + k by omega] at hin ⊢
        exact ih h k (by omega) hin

/-- A free page is looked for from the start of each stack's part of the pool. -/
theorem pickPage_search {d : Dev} {die k : Nat} (p : Option Nat) (h : pickPage d die k = p) :
    (∃ q, p = some q ∧ inPool d q = true ∧ pageTaken d die q = false) ∨
      (p = none ∧ freeFrom d die (d.attn.taken.length + 1) (listEnd d / 0x10000) = none ∧
        freeFrom d die (d.attn.taken.length + 1) (stackSize / 0x10000) = none) := by
  unfold pickPage at h
  dsimp only at h
  generalize listEnd d / 0x10000 = lo at h ⊢
  generalize stackSize / 0x10000 = hi at h ⊢
  generalize d.attn.taken.length + 1 = n at h ⊢
  generalize Config.freeNat d.draws (die + 4 * k) = q at h
  split at h
  · next hfree => exact .inl ⟨q, h.symm, by simpa using hfree⟩
  · cases hlow : freeFrom d die n lo with
    | some r =>
      rw [hlow, Option.orElse_some] at h
      exact .inl ⟨r, h.symm, freeFrom_some hlow⟩
    | none =>
      rw [hlow, Option.orElse_none] at h
      cases p with
      | none => exact .inr ⟨rfl, rfl, h⟩
      | some r => exact .inl ⟨r, rfl, freeFrom_some h⟩

theorem pickPage_some {d : Dev} {die k p : Nat} (h : pickPage d die k = some p) :
    inPool d p = true ∧ pageTaken d die p = false := by
  obtain ⟨q, hq, hfree⟩ | ⟨hnone, -⟩ := pickPage_search _ h
  · obtain rfl := Option.some.inj hq
    exact hfree
  · exact absurd hnone (by simp)

/-- The pages of the pool, by stack (R336). -/
theorem inPool_low {d : Dev} {k : Nat} (hsplit : homeSplit d ≤ stackSize)
    (hk : k < (homeSplit d - homeSw d - listEnd d) / 0x10000) :
    inPool d (listEnd d / 0x10000 + k) = true ∧ listEnd d / 0x10000 + k < stackSize / 0x10000 := by
  have hsize : stackSize = 85899345920 := rfl
  have hend : listEnd d = listBase + listGib d * gib := rfl
  have hbase : listBase = 9613344768 := rfl
  have hgib : gib = 1073741824 := rfl
  rw [hbase, hgib] at hend
  have hlt : (listEnd d / 0x10000 + k) * 0x10000 < stackSize := by omega
  unfold inPool
  rw [if_pos hlt]
  refine ⟨?_, by omega⟩
  rw [Bool.and_eq_true, decide_eq_true_eq, decide_eq_true_eq]
  omega

theorem inPool_high {d : Dev} {k : Nat} (hk : k < (homeSplit d - homeSw d) / 0x10000) :
    inPool d (stackSize / 0x10000 + k) = true := by
  have hsize : stackSize = 85899345920 := rfl
  have hge : ¬ (stackSize / 0x10000 + k) * 0x10000 < stackSize := by omega
  unfold inPool
  rw [if_neg hge, decide_eq_true_eq]
  omega

/-- A pool with a free page gives one. -/
theorem pickPage_isSome {d : Dev} {die : Nat} (k : Nat) (hsplit : homeSplit d ≤ stackSize) (h : 1 ≤ freePages d die) :
    ∃ p, pickPage d die k = some p := by
  obtain ⟨p, hp, -⟩ | ⟨-, hlow, hhigh⟩ := pickPage_search (pickPage d die k) rfl
  · exact ⟨p, hp⟩
  exfalso
  have htakenLow := freeFrom_none hlow
  have htakenHigh := freeFrom_none hhigh
  obtain ⟨c1, hc1⟩ : ∃ c, c = (homeSplit d - homeSw d - listEnd d) / 0x10000 := ⟨_, rfl⟩
  obtain ⟨c2, hc2⟩ : ∃ c, c = (homeSplit d - homeSw d) / 0x10000 := ⟨_, rfl⟩
  obtain ⟨b, hb⟩ : ∃ b, b = stackSize / 0x10000 := ⟨_, rfl⟩
  have hbval : b = 0x140000 := by rw [hb]; rfl
  have hc2le : c2 ≤ 0x140000 := by
    have : stackSize = 0x1400000000 := rfl
    omega
  rw [← hb] at htakenHigh
  have hpages := taken_length_le (d := d) (die := die)
    (l := (List.range (min c1 (d.attn.taken.length + 1))).map (listEnd d / 0x10000 + ·) ++
      (List.range (min c2 (d.attn.taken.length + 1))).map (b + ·)) ?_ ?_
  · have hle := List.length_filter_le (fun p => p.1 / 2 ^ 24 == die) d.attn.taken
    rw [List.length_append, List.length_map, List.length_map, List.length_range, List.length_range] at hpages
    unfold freePages poolSize at h
    rw [← hc1, ← hc2] at h
    omega
  · refine List.nodup_append.2 ⟨List.nodup_range.map fun x y hxy => by omega,
      List.nodup_range.map fun x y hxy => by omega, fun x hx y hy => ?_⟩
    obtain ⟨i, hi, rfl⟩ := List.mem_map.1 hx
    obtain ⟨j, hj, rfl⟩ := List.mem_map.1 hy
    have hlt := (inPool_low hsplit (k := i) (by rw [← hc1]; have := List.mem_range.1 hi; omega)).2
    rw [← hb] at hlt
    omega
  · intro p hp
    rcases List.mem_append.1 hp with hp | hp
    · obtain ⟨i, hi, rfl⟩ := List.mem_map.1 hp
      have hi := List.mem_range.1 hi
      obtain ⟨hin, hlt⟩ := inPool_low hsplit (k := i) (by rw [← hc1]; omega)
      rw [← hb] at hlt
      exact ⟨by omega, htakenLow i (by omega) hin⟩
    · obtain ⟨i, hi, rfl⟩ := List.mem_map.1 hp
      have hi := List.mem_range.1 hi
      exact ⟨by omega, htakenHigh i (by omega) (by rw [hb]; exact inPool_high (by rw [← hc2]; omega))⟩

theorem length_mput_le (m : Map Bool) (i : Nat) (v : Bool) (f : Nat × Bool → Bool) :
    ((mput false m i v).filter f).length ≤ (m.filter f).length + 1 := by
  have hdel : ((mdel m i).filter f).length ≤ (m.filter f).length := by
    unfold mdel
    exact (List.filter_sublist.filter f).length_le
  have hins : ∀ l : Map Bool, ((mins l i v).filter f).length ≤ (l.filter f).length + 1 := by
    intro l
    induction l with
    | nil =>
      rw [mins]
      exact List.length_filter_le f [(i, v)]
    | cons p l ih =>
      obtain ⟨k, w⟩ := p
      rw [mins]
      split
      · rw [List.filter_cons (x := (i, v))]
        split
        · exact Nat.le_refl _
        · exact Nat.le_succ _
      · rw [List.filter_cons, List.filter_cons]
        split
        · exact Nat.succ_le_succ ih
        · exact ih
  unfold mput
  split
  · omega
  · have := hins (mdel m i)
    omega

/-- A page more is taken. -/
theorem markPage_spec (d : Dev) (die p : Nat) :
    freePages d die ≤ freePages (markPage d die p true) die + 1 ∧ pageTaken (markPage d die p true) die p = true ∧
      ∀ k, mget false d.attn.taken k = true → mget false (markPage d die p true).attn.taken k = true := by
  have htaken : (markPage d die p true).attn.taken = mput false d.attn.taken (pageKey die p) true := rfl
  have hlen := length_mput_le d.attn.taken (pageKey die p) true fun x => x.1 / 2 ^ 24 == die
  have hpool : poolSize (markPage d die p true) = poolSize d := rfl
  refine ⟨?_, ?_, fun k hk => ?_⟩
  · unfold freePages
    rw [htaken, hpool]
    omega
  · unfold pageTaken
    rw [htaken, mget_mput_self]
  · rw [htaken, mget_mput, hk, ite_self]

/-- Taking pages changes nothing else. -/
theorem takePages_frame (die : Nat) (n : Nat) (d : Dev) :
    (takePages die n d).1 = { d with attn := { d.attn with taken := (takePages die n d).1.attn.taken } } := by
  induction n generalizing d with
  | zero => rfl
  | succ n ih =>
    unfold takePages
    split
    · rfl
    · next p _ =>
      have h := ih (markPage d die p true)
      have hmark : markPage d die p true = { d with attn := { d.attn with taken := (markPage d die p true).attn.taken } } := rfl
      dsimp only
      generalize (takePages die n (markPage d die p true)).1 = t at h ⊢
      generalize markPage d die p true = g at h hmark
      rw [h, hmark]

/-- Of a pool with n free pages n can be taken: pages of it that were free, and are now taken. -/
theorem takePages_spec {die : Nat} (n : Nat) {d : Dev} (hsplit : homeSplit d ≤ stackSize) (hn : n ≤ freePages d die) :
    let t := takePages die n d
    t.2.length = n ∧ t.1 = { d with attn := { d.attn with taken := t.1.attn.taken } } ∧
      (∀ k, mget false d.attn.taken k = true → mget false t.1.attn.taken k = true) ∧
      ∀ p ∈ t.2, inPool d p = true ∧ pageTaken d die p = false ∧ pageTaken t.1 die p = true := by
  induction n generalizing d with
  | zero => exact ⟨rfl, rfl, fun _ h => h, fun p hp => absurd hp List.not_mem_nil⟩
  | succ n ih =>
    obtain ⟨p, hp⟩ := pickPage_isSome (d := d) (die := die) n hsplit (by omega)
    obtain ⟨hin, hfree⟩ := pickPage_some hp
    obtain ⟨hless, hnow, hmono⟩ := markPage_spec d die p
    have hsplit' : homeSplit (markPage d die p true) ≤ stackSize := hsplit
    have hframe' : markPage d die p true = { d with attn := { d.attn with taken := (markPage d die p true).attn.taken } } := rfl
    have hpool : inPool (markPage d die p true) = inPool d := rfl
    have hn' : n ≤ freePages (markPage d die p true) die := Nat.le_of_succ_le_succ (hn.trans hless)
    obtain ⟨hlen, hframe, hmono', hpages⟩ := ih hsplit' hn'
    unfold takePages
    rw [hp]
    dsimp only
    generalize takePages die n (markPage d die p true) = t at hlen hframe hmono' hpages ⊢
    generalize markPage d die p true = g at *
    refine ⟨by rw [List.length_cons, hlen], by rw [hframe, hframe'], fun k hk => hmono' k (hmono k hk), fun q hq => ?_⟩
    rcases List.mem_cons.1 hq with rfl | hq
    · exact ⟨hin, hfree, hmono' _ hnow⟩
    · obtain ⟨qin, qfree, qnow⟩ := hpages q hq
      rw [hpool] at qin
      refine ⟨qin, ?_, qnow⟩
      by_contra htaken
      have hstill := hmono (pageKey die q) (by simpa [pageTaken] using htaken)
      unfold pageTaken at qfree
      rw [hstill] at qfree
      exact absurd qfree (by simp)

/-- What an allocation gives up and asks for under the budget (R319). -/
def roomOf (q : Seq) (l : PageList) (es : List Entry) (n : Nat) : List Nat × Nat :=
  if q.budget = 0 then ([], n)
  else makeRoom es (es.filter fun e => isPage e.page).length q.budget ((max l.length 1 - 1) / q.tp + 1 - q.window)
    (es.length + n + 1) [] n

/-- The module as it is when an allocation has taken its pages from a pool that has enough of them. -/
def allocated (d : Dev) (seq layer : Nat) (q : Seq) (evict : List Nat) (want : List Nat) (n : Nat) : Dev :=
  let g := pruneAll d q.die
  let t := takePages q.die n { g with attn := { g.attn with poolWait := g.attn.poolWait.filter (· != (seq, layer)) } }
  let sets := evict.map (fun n => (n, evictedPage)) ++ (want.zip t.2).map fun p => (p.1, BitVec.ofNat 32 p.2)
  let e := setSeq t.1 seq (some { q with pl := q.pl.set layer { q.list layer with due := false } })
  pruneAll (if sets = [] then e else addEdit e seq layer sets none) q.die

theorem map_fst_zip_ofNat (want : List Nat) (pages : List Nat) :
    ((want.zip pages).map fun p => (p.1, BitVec.ofNat 32 p.2)).map Prod.fst = want.take pages.length := by
  induction want generalizing pages with
  | nil => simp
  | cons w want ih =>
    cases pages with
    | nil => simp
    | cons p pages => simp [ih]

/-- What an allocation leaves (R318). -/
theorem allocated_spec {d : Dev} {seq layer : Nat} {q : Seq} (evict want : List Nat) {n : Nat} (hlayer : layer < q.pl.length)
    (hsplit : homeSplit d ≤ stackSize) (hn : n ≤ freePages (pruneAll d q.die) q.die) :
    let e := allocated d seq layer q evict want n
    e.stalls = d.stalls ∧ (∃ r, seqOf e seq = some r ∧ (r.list layer).due = false) ∧
      ∃ sets, e.attn.edits = d.attn.edits ++ (if evict.map (fun n => (n, evictedPage)) ++ sets = [] then [] else
          [{ id := d.nextId, seq := seq, layer := layer, newLen := none
             sets := evict.map (fun n => (n, evictedPage)) ++ sets }]) ∧
        sets.map Prod.fst = want.take n ∧
        ∀ p ∈ sets, ∃ page, p.2 = BitVec.ofNat 32 page ∧ inPool d page = true ∧
          pageTaken (pruneAll d q.die) q.die page = false ∧ (d.attn.prefixes = [] → pageTaken e q.die page = true) := by
  have hprune := tidies_pruneAll d q.die
  have hlayout : (pruneAll d q.die).mem.layout = d.mem.layout := by
    unfold Tidies at hprune
    rw [hprune]
  have hempty : d.attn.prefixes = [] → pruneAll d q.die = d := fun h => by
    unfold pruneAll
    rw [h]
    rfl
  unfold allocated
  dsimp only
  generalize pruneAll d q.die = g at hprune hlayout hempty hn ⊢
  refine under_name fun named shown => ?_
  obtain ⟨-, -, gedits, -⟩ := hprune.lists
  have hhome : homeSplit g = homeSplit d := by
    unfold homeSplit layoutField
    rw [hlayout]
  have hpool : inPool g = inPool d := by
    unfold inPool homeSplit homeSw listEnd listGib layoutField
    rw [hlayout]
  obtain ⟨hlen, hframe, -, hpages⟩ := takePages_spec (die := q.die) n
    (d := { g with attn := { g.attn with poolWait := g.attn.poolWait.filter (· != (seq, layer)) } })
    (hhome.le.trans hsplit) hn
  refine shown ?_
  generalize takePages q.die n { g with attn := { g.attn with poolWait := g.attn.poolWait.filter (· != (seq, layer)) } } = t
    at hlen hframe hpages ⊢
  generalize hsets : (want.zip t.2).map (fun p => (p.1, BitVec.ofNat 32 p.2)) = sets
  obtain ⟨r, hr⟩ : ∃ r : Seq, r = { q with pl := q.pl.set layer { q.list layer with due := false } } := ⟨_, rfl⟩
  have hdue : (r.list layer).due = false := by
    rw [hr, list_set hlayer]
  rw [← hr]
  have hstep : ∀ all, let e := if all = [] then setSeq t.1 seq (some r) else addEdit (setSeq t.1 seq (some r)) seq layer all none
      e.stalls = d.stalls ∧ seqOf e seq = some r ∧ e.attn.taken = t.1.attn.taken ∧
        e.attn.prefixes = g.attn.prefixes ∧
        e.attn.edits = d.attn.edits ++ if all = [] then [] else
          [{ id := d.nextId, seq := seq, layer := layer, sets := all, newLen := none }] := by
    intro all
    have hseq : seqOf (setSeq t.1 seq (some r)) seq = some r := seqOf_setSeq ..
    have hst : t.1.stalls = d.stalls := by rw [hframe]; exact hprune.stalls
    have hpre : t.1.attn.prefixes = g.attn.prefixes := by rw [hframe]
    have hed : t.1.attn.edits = d.attn.edits := by rw [hframe]; exact gedits
    have hnx : t.1.nextId = d.nextId := by rw [hframe]; exact hprune.nextId
    by_cases hall : all = []
    · simp only [if_pos hall, List.append_nil]
      exact ⟨hst, hseq, rfl, hpre, hed⟩
    · simp only [if_neg hall]
      refine ⟨hst, hseq, rfl, hpre, ?_⟩
      rw [← hed, ← hnx]
      rfl
  refine under_name fun named shown => ?_
  obtain ⟨estalls, eseq, etaken, eprefixes, eedits⟩ := hstep (evict.map (fun n => (n, evictedPage)) ++ sets)
  refine shown ?_
  generalize (if evict.map (fun n => (n, evictedPage)) ++ sets = [] then setSeq t.1 seq (some r)
    else addEdit (setSeq t.1 seq (some r)) seq layer (evict.map (fun n => (n, evictedPage)) ++ sets) none) = e
    at estalls eseq etaken eprefixes eedits ⊢
  have hlast := tidies_pruneAll e q.die
  refine under_name fun named shown => ?_
  obtain ⟨-, -, ledits, lseqs⟩ := hlast.lists
  refine shown ⟨hlast.machine.1.trans estalls, ⟨r, by rw [lseqs]; exact eseq, hdue⟩, sets, ledits.trans eedits, ?_, fun p hp => ?_⟩
  · rw [← hsets, map_fst_zip_ofNat, hlen]
  · rw [← hsets] at hp
    refine under_name fun named shown => ?_
    obtain ⟨x, hx, rfl⟩ := List.mem_map.1 hp
    obtain ⟨hin, hfree, hnow⟩ := hpages x.2 (List.of_mem_zip hx).2
    refine shown ⟨x.2, rfl, by rw [← hpool]; exact hin, hfree, fun hnone => ?_⟩
    have hsame : pruneAll e q.die = e := by
      unfold pruneAll
      rw [eprefixes, hempty hnone, hnone]
      rfl
    rw [hsame]
    unfold pageTaken at hnow ⊢
    rw [etaken]
    exact hnow

/-- An allocation from a pool that has the pages asked for. -/
theorem answers_pageAllocate {seq layer : Nat} {q : Seq} {want evict : List Nat} {n : Nat} {pre : Dev → Prop} {post : Dev → Dev → Prop}
    (h : ∀ d, pre d → seqOf d seq = some q ∧ q.closing = false ∧ layer < q.layers ∧ (q.list layer).due = true ∧
      want = wantedEntries q (q.list layer) (viewEntries d seq layer (q.list layer).entries) ∧
      roomOf q (q.list layer) (viewEntries d seq layer (q.list layer).entries) want.length = (evict, n) ∧
      n ≤ freePages (pruneAll d q.die) q.die)
    (hpost : ∀ d, pre d → post d { mirrorState (allocated d seq layer q evict want n) with
      draws := (mirrorState (allocated d seq layer q evict want n)).draws + 1 }) : Answers (.pageAllocate seq layer) pre post := by
  refine answers_onDerier (fun s => show execPageAllocate seq layer s = _ from rfl) fun d hd => ?_
  obtain ⟨hseq, hopen, hlayer, hdue, hwant, hroom, hfree⟩ := h d hd
  refine ⟨allocated d seq layer q evict want n, ?_, hpost d hd⟩
  have hview : viewEntries (pruneAll d q.die) seq layer (q.list layer).entries = viewEntries d seq layer (q.list layer).entries := by
    unfold viewEntries editsOf
    rw [(tidies_pruneAll d q.die).lists.2.2.1]
  have hseqs : seqOf (pruneAll d q.die) seq = some q := by
    rw [(tidies_pruneAll d q.die).lists.2.2.2]
    exact hseq
  have hmay : ¬ (q.closing = true ∨ q.layers ≤ layer ∨ (q.list layer).due = false) := by
    rw [hopen, hdue]
    simp
    omega
  unfold roomOf at hroom
  unfold allocated
  generalize viewEntries d seq layer (q.list layer).entries = es at hview hwant hroom
  rw [hseq]
  dsimp only
  rw [if_neg hmay, hview, ← hwant]
  have hshort : (freePages (pruneAll d q.die) q.die < n) = False := eq_false (by omega)
  have hframe := takePages_frame q.die n
    { pruneAll d q.die with attn := { (pruneAll d q.die).attn with
        poolWait := (pruneAll d q.die).attn.poolWait.filter (· != (seq, layer)) } }
  simp only [hroom, hshort, Bool.false_eq_true, eq_self, if_false, if_true, false_and]
  generalize takePages q.die n { pruneAll d q.die with attn := { (pruneAll d q.die).attn with
    poolWait := (pruneAll d q.die).attn.poolWait.filter (· != (seq, layer)) } } = t at hframe ⊢
  have htseq : seqOf t.1 seq = some q := by
    rw [← hseqs, hframe]
    rfl
  rw [htseq]

/-- The row that an insertion adds (R326). -/
def insertedRow (d : Dev) (q : Seq) (c page : Nat) (pl : Nat × Nat) (row : Nat) : Prefix :=
  { bucket := pl.1, slot := pl.2, key := chainKey c, check := chainCheck c, refs := 1, die := q.die
    tpLog2 := q.tpLog2, layers := q.layers, page := page, row := row, rows := rowPages q page
    parent := if page = 0 then none else (findRow d q (page - 1)).map fun p => 4 * p.bucket + p.slot
    used := d.attn.clock }

theorem prefixes_mirrorOut (d : Dev) (loft : Bool) (obs : List (Nat × Byte)) :
    (mirrorOut d loft obs).attn.prefixes = d.attn.prefixes := by
  rw [(reports_mirrorOut d loft obs).machine.2.2.2.2.2.1]

theorem Writes.attn {d e : Dev} (h : Writes d e) : e.attn = d.attn := by
  unfold Writes at h
  rw [h]

theorem prefixes_engWrite (d : Dev) (die off : Nat) (bs : List Byte) : (engWrite d die off bs).attn.prefixes = d.attn.prefixes := by
  have hw := (dramWrite_spec d ((homeKeys die off bs.length).zip bs)).1.attn
  have hm := prefixes_mirrorOut (dramWrite d ((homeKeys die off bs.length).zip bs)) false ((homeKeys die off bs.length).zip bs)
  rw [hw] at hm
  exact hm

theorem prefixes_derWrite (d : Dev) (off : Nat) (bs : List Byte) : (derWrite d off bs).attn.prefixes = d.attn.prefixes := by
  have hw := (dramWrite_spec d ((space1Keys off bs.length).zip bs)).1.attn
  have hm := prefixes_mirrorOut (dramWrite d ((space1Keys off bs.length).zip bs)) false ((space1Keys off bs.length).zip bs)
  rw [hw] at hm
  exact hm

theorem prefixes_putPrefix (d : Dev) (p : Prefix) :
    (putPrefix d p).attn.prefixes = d.attn.prefixes.filter (fun r => !samePlace p r) ++ [p] := by
  unfold putPrefix
  rw [prefixes_derWrite]

/-- A row put at a place that holds none. -/
theorem putPrefix_free {d g : Dev} {pl : Nat × Nat} (p : Prefix) (h : Tidies d g) (hpre : g.attn.prefixes = d.attn.prefixes)
    (hp : (p.bucket, p.slot) = pl) (hfree : (prefixAt d pl).isNone = true) :
    (putPrefix g p).stalls = d.stalls ∧ (putPrefix g p).attn.seqs = d.attn.seqs ∧
      (putPrefix g p).attn.prefixes = d.attn.prefixes ++ [p] := by
  have ht := h.trans (tidies_putPrefix g p)
  have hput := prefixes_putPrefix g p
  generalize putPrefix g p = e at ht hput ⊢
  refine ⟨ht.machine.1, ht.lists.1, ?_⟩
  rw [hput, hpre, List.filter_eq_self.2]
  intro r hr
  obtain rfl := hp
  unfold prefixAt at hfree
  have hne := List.find?_eq_none.1 (Option.isNone_iff_eq_none.1 hfree) r hr
  unfold samePlace
  simp only [Bool.and_eq_true, beq_iff_eq, Bool.not_eq_true', Bool.and_eq_false_imp, beq_eq_false_iff_ne] at hne ⊢
  exact fun hb hs => hne ⟨hb.symm, hs.symm⟩

/-- The module with the row inserted. -/
def inserted (d : Dev) (q : Seq) (c page : Nat) (pl : Nat × Nat) (row : Nat) : Dev :=
  putPrefix (engWrite (readBuckets d (chainKey c) none) q.die row ((rowPages q page).flatMap fun p => toLe 4 p.toNat))
    (insertedRow d q c page pl row)

theorem touches_readBuckets (d : Dev) (key : Nat) (hit : Option Prefix) : Touches d (readBuckets d key hit) := by
  unfold readBuckets
  exact touches_dramTouchAll ..

theorem inserted_spec {d : Dev} {q : Seq} {c page row : Nat} {pl : Nat × Nat} (hfree : (prefixAt d pl).isNone = true) :
    let e := inserted d q c page pl row
    e.stalls = d.stalls ∧ e.attn.seqs = d.attn.seqs ∧ e.attn.prefixes = d.attn.prefixes ++ [insertedRow d q c page pl row] := by
  have hread := touches_readBuckets d (chainKey c) none
  have hg : Tidies d (readBuckets d (chainKey c) none) ∧ (readBuckets d (chainKey c) none).attn.prefixes = d.attn.prefixes :=
    ⟨hread.tidies, congrArg Attn.prefixes hread.machine.2.2.2.2.1⟩
  unfold inserted
  generalize readBuckets d (chainKey c) none = g at hg ⊢
  have hw := tidies_engWrite g q.die row ((rowPages q page).flatMap fun p => toLe 4 p.toNat)
  have hpre := prefixes_engWrite g q.die row ((rowPages q page).flatMap fun p => toLe 4 p.toNat)
  generalize engWrite g q.die row ((rowPages q page).flatMap fun p => toLe 4 p.toNat) = g1 at hw hpre ⊢
  exact putPrefix_free _ (hg.1.trans hw) (hpre.trans hg.2) rfl hfree

theorem insertedRow_fields (d : Dev) (q : Seq) (c page : Nat) (pl : Nat × Nat) (row : Nat) :
    let p := insertedRow d q c page pl row
    p.bucket = pl.1 ∧ p.slot = pl.2 ∧ p.key = chainKey c ∧ p.check = chainCheck c ∧ p.refs = 1 ∧ p.die = q.die ∧ p.page = page ∧
      p.row = row ∧ p.rows = rowPages q page := by
  unfold insertedRow
  exact ⟨rfl, rfl, rfl, rfl, rfl, rfl, rfl, rfl, rfl⟩

/-- Settles O30. -/
theorem sequenceMemoryEdits : Obligations.SequenceMemoryEdits := by
  refine ⟨fun id b q => ?_, fun seq layer q want => ?_, fun seq layer q want es room => ?_, fun seq page q c pl row => ?_⟩
  · refine answers_onDerier (fun s => show execEditBatchApply id s = _ from rfl) ?_
    intro d hpre
    refine under_name fun named shown => ?_
    obtain ⟨hb, hmay, hq, hopen, hlayer⟩ := hpre
    have hid : b.id = id := by simpa using List.find?_some hb
    obtain ⟨estalls, eedits, eseq⟩ := applyPrune_spec hq
    have hkeep : tryFree (applyPrune d b) b.seq = applyPrune d b := tryFree_open eseq hopen
    refine shown ⟨editApplied (tryFree (applyPrune d b) b.seq) id, by rw [hb]; exact if_pos hmay, ?_⟩
    rw [hkeep]
    have hends := concludes_editApplied (applyPrune d b) id
    generalize applyPrune d b = g at *
    generalize editApplied g id = e at *
    refine under_name fun named shown => ?_
    obtain ⟨mstalls, -, -, mattn⟩ := mirrorState_keeps e
    have hseq : seqOf (mirrorState e) b.seq = seqOf g b.seq := by
      unfold seqOf
      rw [mattn, hends.attn]
    refine shown ⟨?_, (mstalls.trans hends.stalls).trans estalls, _, hseq.trans eseq, list_set hlayer _⟩
    show (mirrorState e).attn.edits = _
    rw [mattn, hends.attn, eedits, hid]
  · refine answers_pageAllocate (q := q) (want := want) (evict := []) (n := want.length) ?_ ?_
    · intro d hpre
      refine under_name fun named shown => ?_
      obtain ⟨hseq, hopen, hlayer, -, hdue, hbudget, -, hwant, hfree⟩ := hpre
      exact shown ⟨hseq, hopen, hlayer, hdue, hwant, if_pos hbudget, hfree⟩
    · intro d hpre
      refine under_name fun named shown => ?_
      obtain ⟨-, -, -, hlist, -, -, hsplit, -, hfree⟩ := hpre
      obtain ⟨estalls, ⟨r, eseq, edue⟩, sets, eedits, esets, epages⟩ := allocated_spec (seq := seq) [] want hlist hsplit hfree
      generalize allocated d seq layer q [] want want.length = e at *
      obtain ⟨mstalls, -, -, mattn⟩ := mirrorState_keeps e
      have hseq : seqOf (mirrorState e) seq = seqOf e seq := by
        unfold seqOf
        rw [mattn]
      have hedits : (mirrorState e).attn.edits = e.attn.edits := by rw [mattn]
      have htaken : ∀ page, pageTaken (mirrorState e) q.die page = pageTaken e q.die page := fun page => by
        unfold pageTaken
        rw [mattn]
      refine shown ⟨mstalls.trans estalls, ⟨r, hseq.trans eseq, edue⟩, sets, hedits.trans eedits, ?_, fun p hp => ?_⟩
      · rw [esets, List.take_length]
      · refine under_name fun named shown => ?_
        obtain ⟨page, hpage, hin, hwas, hnow⟩ := epages p hp
        exact shown ⟨page, hpage, hin, hwas, fun hnone => (htaken page).trans (hnow hnone)⟩
  · refine answers_pageAllocate (q := q) (want := want) (evict := room.1) (n := room.2) ?_ ?_
    · intro d hpre
      refine under_name fun named shown => ?_
      obtain ⟨hseq, hopen, hlayer, -, hdue, hbudget, -, rfl, hwant, hroom, -, hfree⟩ := hpre
      exact shown ⟨hseq, hopen, hlayer, hdue, hwant, (if_neg hbudget).trans hroom.symm, hfree⟩
    · intro d hpre
      refine under_name fun named shown => ?_
      obtain ⟨-, -, -, hlist, -, -, hsplit, -, -, -, hevicts, hfree⟩ := hpre
      obtain ⟨estalls, ⟨r, eseq, edue⟩, sets, eedits, esets, epages⟩ := allocated_spec (seq := seq) room.1 want hlist hsplit hfree
      rw [if_neg (by simp [hevicts])] at eedits
      generalize allocated d seq layer q room.1 want room.2 = e at *
      obtain ⟨mstalls, -, -, mattn⟩ := mirrorState_keeps e
      have hseq : seqOf (mirrorState e) seq = seqOf e seq := by
        unfold seqOf
        rw [mattn]
      have hedits : (mirrorState e).attn.edits = e.attn.edits := by rw [mattn]
      refine shown ⟨mstalls.trans estalls, ⟨r, hseq.trans eseq, edue⟩, sets, hedits.trans eedits, esets, fun p hp => ?_⟩
      refine under_name fun named shown => ?_
      obtain ⟨page, hpage, hin, hwas, -⟩ := epages p hp
      exact shown ⟨page, hpage, hin, hwas⟩
  · refine answers_onDerier (fun s => show execPrefixInsert seq page s = _ from rfl) ?_
    intro d hpre
    refine under_name fun named shown => ?_
    obtain ⟨hseq, hchain, hmay, hplace, hrow⟩ := hpre
    obtain ⟨estalls, eseqs, eprefixes⟩ := inserted_spec (q := q) (c := c) (page := page) (row := row)
      (List.find?_some (p := fun pl => (prefixAt d pl).isNone) hplace)
    obtain ⟨e, he⟩ : ∃ e, inserted d q c page pl row = e := ⟨_, rfl⟩
    rw [he] at estalls eseqs eprefixes
    refine shown ⟨e, ?_, ?_⟩
    · rw [hseq]
      dsimp only
      rw [hchain]
      dsimp only
      rw [if_neg (by simp [hmay]), hplace, hrow, ← he] <;> rfl
    · refine under_name fun named shown => ?_
      obtain ⟨mstalls, -, -, mattn⟩ := mirrorState_keeps e
      have hseqs : (mirrorState e).attn.seqs = d.attn.seqs := by rw [mattn, eseqs]
      have hprefixes : (mirrorState e).attn.prefixes = d.attn.prefixes ++ [insertedRow d q c page pl row] := by
        rw [mattn, eprefixes]
      exact shown ⟨mstalls.trans estalls, hseqs, insertedRow d q c page pl row, hprefixes, insertedRow_fields ..⟩

end Sys2Proof.Machine
end

section
/-! How a command starts and ends: what leaves the module, what its record says, and what waits (R427 to R447). -/

namespace Sys2Proof.Machine

open Sys2Proof

/-! ### What has left stays -/

/-- What had left the module has left it, what waited at a port waits or has left, and every ring that is listed was listed, with
the same end in store. -/
structure Grows (d e : Dev) : Prop where
  out : ∀ o ∈ d.out, o ∈ e.out
  usable : ∀ m, usablePorts e m = usablePorts d m
  here : here e = here d
  queue : ∀ p, ∀ b ∈ (portOf d p).queue, b ∈ (portOf e p).queue
  rings : ∀ r y, ringOf e r = some y → ∃ x, ringOf d r = some x ∧ y.destroyer = x.destroyer

theorem Grows.refl (d : Dev) : Grows d d :=
  ⟨fun _ h => h, fun _ => rfl, rfl, fun _ _ h => h, fun _ y h => ⟨y, h, rfl⟩⟩

theorem Grows.trans {d e f : Dev} (h : Grows d e) (g : Grows e f) : Grows d f where
  out o ho := g.out o (h.out o ho)
  usable m := (g.usable m).trans (h.usable m)
  here := g.here.trans h.here
  queue p b hb := g.queue p b (h.queue p b hb)
  rings r y hy := by
    obtain ⟨x, hx, hxy⟩ := g.rings r y hy
    obtain ⟨z, hz, hzx⟩ := h.rings r x hx
    exact ⟨z, hz, hxy.trans hzx⟩

/-- A state with the same ports, rings and output. -/
theorem Grows.same {d e : Dev} (hout : e.out = d.out) (hpad : e.pad = d.pad) (hboard : e.board = d.board)
    (hrings : e.host.rings = d.host.rings) : Grows d e where
  out o ho := by rwa [hout]
  usable m := by
    unfold usablePorts portOf
    rw [hpad]
  here := by
    unfold Machine.here ownEntry
    rw [hpad, hboard]
  queue p b hb := by
    unfold portOf at hb ⊢
    rwa [hpad]
  rings r y hy := by
    unfold ringOf at hy ⊢
    rw [hrings] at hy
    exact ⟨y, hy, rfl⟩

theorem grows_foldl {α : Type} {f : Dev → α → Dev} (hf : ∀ d a, Grows d (f d a)) :
    ∀ (l : List α) (d : Dev), Grows d (l.foldl f d)
  | [], d => .refl d
  | a :: l, d => (hf d a).trans (grows_foldl hf l (f d a))

theorem grows_emit (d : Dev) (o : Output) : Grows d (emit d o) :=
  ⟨fun _ h => List.mem_append_left _ h, fun _ => rfl, rfl, fun _ _ h => h, fun _ y h => ⟨y, h, rfl⟩⟩

/-- A port that keeps its state and its route, and loses nothing of its queue. -/
theorem grows_setPort {d : Dev} {p : Nat} {x : Port} (hstate : x.state = (portOf d p).state)
    (hrouted : x.routed = (portOf d p).routed) (hqueue : ∀ b ∈ (portOf d p).queue, b ∈ x.queue) : Grows d (setPort d p x) := by
  have hport : ∀ q, portOf (setPort d p x) q = if q = p then x else portOf d q := fun q => by
    unfold portOf setPort
    exact mget_mput Port.reset d.pad.ports p q x
  refine ⟨fun _ h => h, fun m => ?_, rfl, fun q b hb => ?_, fun _ y h => ⟨y, h, rfl⟩⟩
  · unfold usablePorts
    refine congrArg (fun f => List.filter f _) (funext fun q => ?_)
    rw [hport]
    split
    · next h => rw [h, hstate, hrouted]
    · rfl
  · rw [hport]
    split
    · next h =>
      subst h
      exact hqueue b hb
    · exact hb

/-- A ring changed that keeps the end in store for it. -/
theorem grows_setRing {d : Dev} {r : Nat} {x y : Ring} (hx : ringOf d r = some x) (hy : y.destroyer = x.destroyer) :
    Grows d (setRing d r (some y)) := by
  refine ⟨fun _ h => h, fun _ => rfl, rfl, fun _ _ h => h, fun q z hz => ?_⟩
  have hring : ringOf (setRing d r (some y)) q = if q = r then some y else ringOf d q := by
    unfold ringOf setRing
    exact mget_mput none d.host.rings r q (some y)
  rw [hring] at hz
  split at hz
  · next h =>
    obtain rfl := Option.some.inj hz
    exact ⟨x, h ▸ hx, hy⟩
  · exact ⟨z, hz, rfl⟩

theorem grows_sendPacket (d : Dev) (p : Nat) (b : PacketBody) : Grows d (sendPacket d p b) := by
  unfold sendPacket
  dsimp only
  split
  · refine Grows.trans ?_ (grows_emit ..)
    exact grows_setPort rfl rfl fun _ h => h
  · exact grows_setPort rfl rfl fun _ h => List.mem_append_left _ h

theorem grows_sendTo (d : Dev) (m st a : Nat) (b : PacketBody) : Grows d (sendTo d m st a b) := by
  unfold sendTo
  split
  · exact .refl d
  · exact grows_sendPacket ..
  · exact grows_sendPacket ..

theorem grows_messageNo (d : Dev) (n : Nat) : Grows d (setPad d { d.pad with messageNo := n }) :=
  ⟨fun _ h => h, fun _ => rfl, rfl, fun _ _ h => h, fun _ y h => ⟨y, h, rfl⟩⟩

theorem grows_sendWhole (d : Dev) (dst : Nat) (x : Message) {f : Dev → PacketBody → Dev} (hf : ∀ d b, Grows d (f d b)) :
    Grows d (sendWhole d dst x f) := by
  unfold sendWhole
  dsimp only
  split
  · exact grows_foldl hf _ _
  · exact (grows_messageNo ..).trans (grows_foldl hf _ _)

theorem grows_sendMsg (d : Dev) (m : Nat) (x : Message) : Grows d (sendMsg d m x) :=
  grows_sendWhole _ _ _ fun _ _ => grows_sendTo ..

theorem grows_sendTwin (d : Dev) (x : Message) : Grows d (sendTwin d x) := by
  unfold sendTwin
  split
  · exact grows_sendWhole _ _ _ fun _ _ => grows_sendPacket ..
  · exact .refl d

theorem grows_sendMsix (d : Dev) (fn v : Nat) : Grows d (sendMsix d fn v) := by
  unfold sendMsix
  dsimp only
  split
  · exact .same rfl rfl rfl rfl
  · exact Grows.trans (.same (e := { d with host := { d.host with
      msixPending := mput false d.host.msixPending (fn * 1024 + v) false } }) rfl rfl rfl rfl) (grows_emit ..)

theorem grows_bumpBy (d : Dev) (o n : Nat) : Grows d (bumpBy d o n) := .same rfl rfl rfl rfl

theorem grows_eventToRing (e : Event) (p : Dev × List (Nat × Nat)) (r : Nat) : Grows p.1 (eventToRing e p r).1 := by
  unfold eventToRing
  split
  · exact .refl _
  · next x hx =>
    split
    · refine Grows.trans ?_ (grows_bumpBy ..)
      exact grows_setRing hx rfl
    · split
      · exact grows_setRing hx rfl
      · refine Grows.trans (Grows.trans ?_ (grows_emit ..)) (grows_sendMsix ..)
        exact grows_setRing hx rfl

theorem grows_writeEvent (d : Dev) (cls : Nat) (e : Event) : Grows d (writeEvent d cls e).1 := by
  have hrings : ∀ (l : List Nat) (p : Dev × List (Nat × Nat)), Grows p.1 (l.foldl (eventToRing e) p).1 := by
    intro l
    induction l with
    | nil => exact fun p => .refl p.1
    | cons r l ih => exact fun p => (grows_eventToRing e p r).trans (ih _)
  unfold writeEvent
  dsimp only
  generalize takers d _ cls = ts
  split
  · exact grows_bumpBy ..
  · exact hrings ts (d, [])

theorem grows_passEvent (d : Dev) (cls : Nat) (e : Event) : Grows d (passEvent d cls e).1 := by
  unfold passEvent
  split
  · split
    · exact grows_bumpBy ..
    · exact grows_sendMsg ..
  · exact grows_writeEvent ..

theorem grows_raiseOne (d : Dev) (q : Raised) : Grows d (raiseOne d q).1 := by
  unfold raiseOne
  dsimp only
  refine Grows.trans ?_ (grows_passEvent ..)
  split <;> exact .same rfl rfl rfl rfl

theorem grows_raiseAll : ∀ (n : Nat) (d : Dev) (l : List Raised), Grows d (raiseAll n d l)
  | 0, d, _ => .refl d
  | _ + 1, d, [] => .refl d
  | n + 1, d, q :: _ => (grows_raiseOne d q).trans (grows_raiseAll n _ _)

theorem grows_raiseEvent (d : Dev) (fn cls code a b : Nat) : Grows d (raiseEvent d fn cls code a b) := grows_raiseAll ..

theorem grows_ringError (d : Dev) (r reason : Nat) : Grows d (ringError d r reason) := by
  have hfail : ∀ (d : Dev) (r a b : Nat) (x : Ring), ringOf d r = some x →
      Grows d (raiseEvent (setRing d r (some { x with state := .error })) x.owner 3 7 a b) :=
    fun d r a b x hx => Grows.trans (by exact grows_setRing hx rfl) (grows_raiseEvent ..)
  unfold ringError
  split
  · exact .refl d
  · next x hx =>
    dsimp only
    split
    · refine (hfail d r r reason x hx).trans (grows_foldl (fun d p => ?_) _ _)
      split
      · next y hy => exact hfail _ _ _ _ _ hy
      · exact .refl d
    · exact hfail d r r reason x hx

theorem grows_tellAll (d : Dev) (m : Message) : Grows d (tellAll d m) := by
  unfold tellAll
  split
  · exact grows_foldl (fun _ _ => grows_sendMsg ..) _ _
  · exact .refl d

theorem grows_coalesce {d : Dev} {r : Nat} {x y : Ring} (hx : ringOf d r = some x) (hy : y.destroyer = x.destroyer) :
    Grows d (coalesce d r y) := by
  unfold coalesce
  split
  · refine Grows.trans ?_ (grows_sendMsix ..)
    exact grows_setRing hx hy
  · exact grows_setRing hx hy

theorem grows_writeRecord {d : Dev} {r : Nat} {x : Ring} (hx : ringOf d r = some x) (rc : Record) :
    Grows d (writeRecord d r x rc) := by
  unfold writeRecord
  split
  · refine Grows.trans ?_ (grows_ringError ..)
    exact grows_setRing hx rfl
  · exact (grows_emit ..).trans (grows_coalesce (x := x) hx rfl)

theorem grows_postRecord (d : Dev) (r : Nat) (rc : Record) : Grows d (postRecord d r rc) := by
  unfold postRecord
  split
  · exact .refl d
  · next x hx =>
    split
    · exact .refl d
    · split
      · exact grows_setRing hx rfl
      · exact grows_writeRecord hx rc

theorem grows_postMailbox (d : Dev) (rc : Record) : Grows d (postMailbox d rc) :=
  Grows.trans (.same (e := { d with host := { d.host with
    mboxCpl := some (rc, !d.host.mboxPhase), mboxPhase := !d.host.mboxPhase } }) rfl rfl rfl rfl) (grows_sendMsix ..)

theorem grows_setModels (d : Dev) (l : List Model) : Grows d (setModels d l) := .same rfl rfl rfl rfl

theorem grows_setCmds (d : Dev) (l : List Cmd) : Grows d (setCmds d l) := .same rfl rfl rfl rfl

theorem grows_freeFailed (d : Dev) (f : Nat × Nat → Bool) : Grows d (freeFailed d f) :=
  (grows_setModels ..).trans (grows_foldl (fun _ _ => grows_tellAll ..) _ _)

theorem grows_noteReply (d : Dev) (c : Cmd) : Grows d (noteReply d c) := by
  unfold noteReply
  split
  · exact grows_setModels ..
  · exact grows_freeFailed ..

theorem grows_freeAway (d : Dev) (c : Cmd) : Grows d (freeAway d c) := grows_foldl (fun _ _ => grows_sendMsg ..) _ _

theorem grows_holdAway (d : Dev) (c : Cmd) (f : Nat → Bool) : Grows d (holdAway d c f) :=
  grows_foldl (fun _ _ => grows_sendMsg ..) _ _

theorem grows_mirrorState (d : Dev) : Grows d (mirrorState d) := by
  unfold mirrorState
  split
  · split
    · exact .refl d
    · exact Grows.trans (e := setPad d { d.pad with twinTold := some (twinData d) })
        ⟨fun _ h => h, fun _ => rfl, rfl, fun _ _ h => h, fun _ y h => ⟨y, h, rfl⟩⟩ (grows_sendTwin ..)
  · exact .refl d

/-! ### Messages -/

/-- Only packets have left, or wait to. -/
def Sends (d e : Dev) : Prop :=
  e = { d with out := e.out, pad := { d.pad with ports := e.pad.ports, messageNo := e.pad.messageNo } }

theorem Sends.refl (d : Dev) : Sends d d := rfl

theorem Sends.trans {d e f : Dev} (h : Sends d e) (g : Sends e f) : Sends d f := by
  unfold Sends at *
  rw [h] at g
  exact g

theorem Sends.signals {d e : Dev} (h : Sends d e) : Signals d e := by
  unfold Sends at h
  unfold Signals
  rw [h]

theorem sends_foldl {α : Type} {f : Dev → α → Dev} (hf : ∀ d a, Sends d (f d a)) :
    ∀ (l : List α) (d : Dev), Sends d (l.foldl f d)
  | [], d => .refl d
  | a :: l, d => (hf d a).trans (sends_foldl hf l (f d a))

theorem sends_sendPacket (d : Dev) (p : Nat) (b : PacketBody) : Sends d (sendPacket d p b) := by
  unfold sendPacket
  dsimp only
  split <;> rfl

theorem sends_sendTo (d : Dev) (m st a : Nat) (b : PacketBody) : Sends d (sendTo d m st a b) := by
  unfold sendTo
  split
  · rfl
  · exact sends_sendPacket ..
  · exact sends_sendPacket ..

theorem sends_sendWhole (d : Dev) (dst : Nat) (x : Message) {f : Dev → PacketBody → Dev} (hf : ∀ d b, Sends d (f d b)) :
    Sends d (sendWhole d dst x f) := by
  refine Sends.trans ?_ (sends_foldl hf _ _)
  dsimp only
  split <;> rfl

theorem sends_sendMsg (d : Dev) (m : Nat) (x : Message) : Sends d (sendMsg d m x) :=
  sends_sendWhole _ _ _ fun _ _ => sends_sendTo ..

theorem sends_sendTwin (d : Dev) (x : Message) : Sends d (sendTwin d x) := by
  unfold sendTwin
  split
  · exact sends_sendWhole _ _ _ fun _ _ => sends_sendPacket ..
  · rfl

theorem sends_holdAway (d : Dev) (c : Cmd) (f : Nat → Bool) : Sends d (holdAway d c f) :=
  sends_foldl (fun _ _ => sends_sendMsg ..) _ _

theorem sends_freeAway (d : Dev) (c : Cmd) : Sends d (freeAway d c) := sends_foldl (fun _ _ => sends_sendMsg ..) _ _

theorem sends_tellAll (d : Dev) (m : Message) : Sends d (tellAll d m) := by
  unfold tellAll
  split
  · exact sends_foldl (fun _ _ => sends_sendMsg ..) _ _
  · rfl

theorem sends_toMembers (d : Dev) (c : Cmd) : Sends d (toMembers d c) := sends_foldl (fun _ _ => sends_sendMsg ..) _ _

/-- A packet that has left, or waits, by a port that leads to the end. -/
def LeftBy (m : Nat) (b : PacketBody) (d e : Dev) : Prop :=
  ∃ p ∈ usablePorts d m, (∃ n, Output.packet p n b ∈ e.out) ∨ b ∈ (portOf e p).queue

theorem Sent.mono {m : Nat} {b : PacketBody} {c d e f : Dev} (h : Sent m b d e) (hu : usablePorts d m = usablePorts c m)
    (g : Grows e f) : Sent m b c f := by
  intro hne
  obtain ⟨p, hp, hleft⟩ := h (by rwa [hu])
  refine ⟨p, by rwa [← hu], ?_⟩
  rcases hleft with ⟨n, hn⟩ | hq
  · exact .inl ⟨n, g.out _ hn⟩
  · exact .inr (g.queue p b hq)

theorem sendPacket_sent (d : Dev) (p : Nat) (b : PacketBody) :
    (∃ n, Output.packet p n b ∈ (sendPacket d p b).out) ∨ b ∈ (portOf (sendPacket d p b) p).queue := by
  unfold sendPacket
  dsimp only
  split
  · exact .inl ⟨(portOf d p).txSeq, List.mem_append_right _ (List.mem_singleton.2 rfl)⟩
  · refine .inr ?_
    unfold portOf setPort
    rw [mget_mput_self]
    exact List.mem_append_right _ (List.mem_singleton.2 rfl)

theorem sendTo_sent (d : Dev) (m st a : Nat) (b : PacketBody) : Sent m b d (sendTo d m st a b) := by
  intro hne
  unfold sendTo
  split
  · next h => exact absurd h hne
  · next p h => exact ⟨p, by rw [h]; exact List.mem_singleton.2 rfl, sendPacket_sent ..⟩
  · next p ps _ h =>
    refine ⟨_, ?_, sendPacket_sent ..⟩
    rw [h]
    have hlt : Config.hopPick st (a / 2048) % (ps.length + 1) < (p :: ps).length := Nat.mod_lt _ (Nat.succ_pos _)
    rw [List.getD_eq_getElem _ _ hlt]
    exact List.getElem_mem hlt

theorem foldl_sendTo_sent (m st a : Nat) : ∀ (l : List PacketBody) (d : Dev), ∀ b ∈ l,
    Sent m b d (l.foldl (fun d b => sendTo d m st a b) d)
  | [], _, b, hb => absurd hb List.not_mem_nil
  | x :: l, d, b, hb => by
    have hrest := grows_foldl (f := fun d b => sendTo d m st a b) (fun _ _ => grows_sendTo ..) l (sendTo d m st a x)
    rcases List.mem_cons.1 hb with rfl | hb
    · exact (sendTo_sent d m st a b).mono rfl hrest
    · exact (foldl_sendTo_sent m st a l _ b hb).mono ((grows_sendTo d m st a x).usable m) (.refl _)

/-- A message sent to an end. -/
theorem sendMsg_tells (d : Dev) (m : Nat) (x : Message) : Tells m x d (sendMsg d m x) := by
  refine ⟨d.pad.messageNo, fun b hb => ?_⟩
  unfold sendMsg sendWhole
  dsimp only
  split
  · exact foldl_sendTo_sent m 0 0 _ d b hb
  · exact (foldl_sendTo_sent m 0 0 _ (setPad d { d.pad with messageNo := d.pad.messageNo + 1 }) b hb).mono rfl (.refl _)

theorem Tells.mono {m : Nat} {x : Message} {c d e f : Dev} (h : Tells m x d e) (hd : Grows c d) (g : Grows e f) : Tells m x c f := by
  obtain ⟨no, hsent⟩ := h
  exact ⟨no, fun b hb => (hsent b (by rwa [hd.here])).mono (hd.usable m) g⟩

/-- A message sent to each of several ends. -/
theorem foldl_sendMsg_tells {f : Dev → Nat → Dev} {x : Nat → Message} (hf : ∀ d m, f d m = sendMsg d m (x m)) :
    ∀ (l : List Nat) (d : Dev), ∀ m ∈ l, Tells m (x m) d (l.foldl f d)
  | [], _, m, hm => absurd hm List.not_mem_nil
  | k :: l, d, m, hm => by
    have hrest : Grows (f d k) (l.foldl f (f d k)) := grows_foldl (fun d m => by rw [hf]; exact grows_sendMsg ..) l _
    rcases List.mem_cons.1 hm with rfl | hm
    · refine Tells.mono (d := d) ?_ (.refl d) hrest
      rw [hf]
      exact sendMsg_tells ..
    · refine (foldl_sendMsg_tells hf l (f d k) m hm).mono ?_ (.refl _)
      rw [hf]
      exact grows_sendMsg ..

/-! ### Records -/

theorem signals_ringFails (d : Dev) (r a b : Nat) (x : Ring) :
    Signals d (raiseEvent (setRing d r (some { x with state := .error })) x.owner 3 7 a b) :=
  Signals.trans (e := setRing d r (some { x with state := .error })) rfl (signals_raiseEvent ..)

theorem signals_ringError (d : Dev) (r reason : Nat) : Signals d (ringError d r reason) := by
  unfold ringError
  split
  · rfl
  · next x _ =>
    dsimp only
    split
    · refine (signals_ringFails d r r reason x).trans (signals_foldl (fun d p => ?_) _ _)
      split
      · exact signals_ringFails ..
      · rfl
    · exact signals_ringFails ..

theorem signals_coalesce (d : Dev) (r : Nat) (x : Ring) : Signals d (coalesce d r x) := by
  unfold coalesce
  split
  · exact Signals.trans (e := setRing d r (some { x with unsignalled := 0 })) rfl (signals_sendMsix ..)
  · rfl

theorem signals_writeRecord (d : Dev) (r : Nat) (x : Ring) (rc : Record) : Signals d (writeRecord d r x rc) := by
  unfold writeRecord
  split
  · exact Signals.trans (e := setRing d r (some x)) rfl (signals_ringError ..)
  · exact Signals.trans (e := emit d (.record r x.tail x.phase { rc with sqhead := subHead d rc.sqid })) rfl (signals_coalesce ..)

theorem signals_postRecord (d : Dev) (r : Nat) (rc : Record) : Signals d (postRecord d r rc) := by
  unfold postRecord
  split
  · rfl
  · split
    · rfl
    · split
      · rfl
      · exact signals_writeRecord ..

/-- Packets have left and records of failed models are free. -/
def SendsModels (d e : Dev) : Prop :=
  e = { d with
    out := e.out, pad := { d.pad with ports := e.pad.ports, messageNo := e.pad.messageNo }
    feed := { d.feed with models := e.feed.models } }

theorem Sends.models {d e : Dev} (h : Sends d e) : SendsModels d e := by
  unfold Sends at h
  unfold SendsModels
  rw [h]

theorem SendsModels.trans {d e f : Dev} (h : SendsModels d e) (g : SendsModels e f) : SendsModels d f := by
  unfold SendsModels at *
  rw [h] at g
  exact g

theorem SendsModels.host {d e : Dev} (h : SendsModels d e) : e.host = d.host ∧ e.ctr = d.ctr := by
  unfold SendsModels at h
  rw [h]
  exact ⟨rfl, rfl⟩

theorem sendsModels_noteReply (d : Dev) (c : Cmd) : SendsModels d (noteReply d c) := by
  unfold noteReply
  split
  · rfl
  · exact SendsModels.trans (e := setModels d (d.feed.models.filter fun m => !m.reply.any fun q => q == (unwritten, c.cid))) rfl
      (sends_foldl (fun _ _ => sends_tellAll ..) _ _).models

/-- A record goes to a COMP ring that has room and that host memory takes. -/
theorem postRecord_writes {d : Dev} {r : Nat} {x : Ring} (rc : Record) (hx : ringOf d r = some x) (htype : x.type = .comp)
    (hstate : x.state = .active) (hfull : ringFull x = false) (hheld : x.heldRecords = []) (hfail : x.failAt ≠ some x.posted) :
    Output.record r x.tail x.phase { rc with sqhead := subHead d rc.sqid } ∈ (postRecord d r rc).out := by
  have hpost : postRecord d r rc = coalesce (emit d (.record r x.tail x.phase { rc with sqhead := subHead d rc.sqid })) r
      { advanceTail x with unsignalled := x.unsignalled + 1, posted := x.posted + 1 } := by
    unfold postRecord
    rw [hx]
    dsimp only
    rw [if_neg (by simp [hstate, htype]), if_neg (by simp [hfull, hheld])]
    unfold writeRecord
    rw [if_neg hfail]
  rw [hpost]
  generalize Output.record r x.tail x.phase { rc with sqhead := subHead d rc.sqid } = o
  have hgrows : Grows (emit d o) (coalesce (emit d o) r
      { advanceTail x with unsignalled := x.unsignalled + 1, posted := x.posted + 1 }) := grows_coalesce (x := x) hx rfl
  exact hgrows.out o (List.mem_append_right _ (List.mem_singleton.2 rfl))

/-! ### Ends -/

/-- The bytes that a command's end delivers, as many as it asked for. -/
def takenBytes (c : Cmd) (e : Ends) : List Byte := if c.ring = noRing then [] else e.bytes.take (dResultLen c.desc)

/-- Host memory does not take the result bytes (R437). -/
def lostResult (c : Cmd) (e : Ends) : Bool := takenBytes c e != [] && !c.resultOk

/-- The module with the command taken from those in progress. -/
def concluded (d : Dev) (c : Cmd) : Dev := noteReply (dropCmd (freeAway d c) c.cid) c

/-- The module when the result bytes of the command have left. -/
def handedOver (d : Dev) (c : Cmd) (e : Ends) : Dev :=
  if takenBytes c e = [] ∨ lostResult c e then concluded d c
  else emit (concluded d c) (.result (BitVec.ofNat 64 (dResult c.desc)) (takenBytes c e) (concluded d c).host.cfg.relaxed)

theorem endNow_own {d : Dev} {c : Cmd} (e : Ends) (h : c.lead = none) :
    endNow d c e =
      if c.ring = mboxRing then
        postMailbox (handedOver d c e) (recordOf c (if lostResult c e then 0x07 else e.status) e.result e.value0 e.value1 0)
      else
        match ringOf (handedOver d c e) c.ring with
        | none => handedOver d c e
        | some s => postRecord (handedOver d c e) s.bind
            (recordOf c (if lostResult c e then 0x07 else e.status) e.result e.value0 e.value1 0) := by
  unfold endNow
  rw [h]
  rfl

theorem endNow_lead {d : Dev} {c : Cmd} (e : Ends) {id : Nat} (h : c.lead = some id) :
    endNow d c e = sendMsg (concluded d c) 0 (.answer id e.status e.result e.value0 e.value1 e.bytes) := by
  unfold endNow
  rw [h]
  rfl

theorem concluded_spec (d : Dev) (c : Cmd) :
    Grows d (concluded d c) ∧ (concluded d c).host = { d.host with cmds := d.host.cmds.filter fun x => x.cid != c.cid } := by
  have haway := sends_freeAway d c
  have hnote := sendsModels_noteReply (dropCmd (freeAway d c) c.cid) c
  refine ⟨((grows_freeAway d c).trans (grows_setCmds ..)).trans (grows_noteReply ..), ?_⟩
  unfold concluded
  rw [hnote.host.1]
  unfold Sends at haway
  generalize freeAway d c = g at haway
  rw [haway]
  rfl

theorem handedOver_spec (d : Dev) (c : Cmd) (e : Ends) :
    Grows d (handedOver d c e) ∧ (handedOver d c e).host = { d.host with cmds := d.host.cmds.filter fun x => x.cid != c.cid } := by
  obtain ⟨hgrows, hhost⟩ := concluded_spec d c
  unfold handedOver
  split
  · exact ⟨hgrows, hhost⟩
  · exact ⟨hgrows.trans (grows_emit ..), hhost⟩

theorem grows_endNow (d : Dev) (c : Cmd) (e : Ends) : Grows d (endNow d c e) := by
  cases hlead : c.lead with
  | some id =>
    rw [endNow_lead e hlead]
    exact (concluded_spec d c).1.trans (grows_sendMsg ..)
  | none =>
    rw [endNow_own e hlead]
    refine (handedOver_spec d c e).1.trans ?_
    split
    · exact grows_postMailbox ..
    · split
      · exact .refl _
      · exact grows_postRecord ..

theorem cmdOf_filter {d e : Dev} {cid : Nat} (h : e.host.cmds = d.host.cmds.filter fun x => x.cid != cid) : cmdOf e cid = none := by
  unfold cmdOf
  rw [h, List.find?_eq_none]
  intro x hx
  simpa using (List.mem_filter.1 hx).2

theorem cmds_endNow (d : Dev) (c : Cmd) (e : Ends) :
    (endNow d c e).host.cmds = d.host.cmds.filter fun x => x.cid != c.cid := by
  obtain ⟨-, hhost⟩ := handedOver_spec d c e
  cases hlead : c.lead with
  | some id =>
    have hsend := sends_sendMsg (concluded d c) 0 (.answer id e.status e.result e.value0 e.value1 e.bytes)
    rw [endNow_lead e hlead]
    unfold Sends at hsend
    rw [hsend, (concluded_spec d c).2]
  | none =>
    have hsignals : ∀ g, Signals (handedOver d c e) g → g.host.cmds = d.host.cmds.filter fun x => x.cid != c.cid := by
      intro g hg
      unfold Signals at hg
      rw [hg, hhost]
    rw [endNow_own e hlead]
    split
    · have hmsix := signals_sendMsix { handedOver d c e with host := { (handedOver d c e).host with
        mboxCpl := some (recordOf c (if lostResult c e then 0x07 else e.status) e.result e.value0 e.value1 0,
          !(handedOver d c e).host.mboxPhase), mboxPhase := !(handedOver d c e).host.mboxPhase } } 0 0
      unfold postMailbox
      unfold Signals at hmsix
      rw [hmsix, hhost]
    · split
      · exact hsignals _ (.refl _)
      · exact hsignals _ (signals_postRecord ..)

/-- What a state has in common with the state in which a command was started: what leads out of the module, and where records go. -/
structure SameDesk (d g : Dev) : Prop where
  grows : Grows d g
  rings : ∀ r x, ringOf d r = some x →
    ∃ y, ringOf g r = some y ∧ y.bind = x.bind ∧ y.head = x.head ∧ y.type = x.type ∧ (x.type = .comp → y = x)
  phase : g.host.mboxPhase = d.host.mboxPhase

theorem SameDesk.of {d g : Dev} (hgrows : Grows d g) (hrings : g.host.rings = d.host.rings)
    (hphase : g.host.mboxPhase = d.host.mboxPhase) : SameDesk d g := by
  refine ⟨hgrows, fun r x hx => ⟨x, ?_, rfl, rfl, rfl, fun _ => rfl⟩, hphase⟩
  unfold ringOf at hx ⊢
  rwa [hrings]

theorem SameDesk.trans {d e f : Dev} (h : SameDesk d e) (g : SameDesk e f) : SameDesk d f := by
  refine ⟨h.grows.trans g.grows, fun r x hx => ?_, g.phase.trans h.phase⟩
  obtain ⟨y, hy, hbind, hhead, htype, hcomp⟩ := h.rings r x hx
  obtain ⟨z, hz, zbind, zhead, ztype, zcomp⟩ := g.rings r y hy
  exact ⟨z, hz, zbind.trans hbind, zhead.trans hhead, ztype.trans htype,
    fun hx => (zcomp (htype.trans hx)).trans (hcomp hx)⟩

/-- A command that ends has left its record (R427, R429, R436, R445). -/
theorem endNow_recorded {d g : Dev} {c : Cmd} {e : Ends} {k : Nat} (hg : SameDesk d g)
    (hown : c.lead = none → (if lostResult c e then 0x07 else e.status) = k) (hlead : c.lead ≠ none → e.status = k) :
    Recorded c k e.result e.value0 e.value1 d (endNow g c e) := by
  obtain ⟨hgrows, hhost⟩ := handedOver_spec g c e
  refine ⟨cmdOf_filter (cmds_endNow g c e), fun id hid => ?_, fun hnone hmbox => ?_,
    fun s x hnone hring hs hx htype hstate hfull hheld hfail => ?_⟩
  · refine ⟨e.bytes, ?_⟩
    rw [endNow_lead e hid, ← hlead (by rw [hid]; exact Option.some_ne_none id)]
    exact (sendMsg_tells ..).mono (hg.grows.trans (concluded_spec g c).1) (.refl _)
  · have hmsix := signals_sendMsix { handedOver g c e with host := { (handedOver g c e).host with
        mboxCpl := some (recordOf c k e.result e.value0 e.value1 0,
          !(handedOver g c e).host.mboxPhase), mboxPhase := !(handedOver g c e).host.mboxPhase } } 0 0
    have hphase : (handedOver g c e).host.mboxPhase = d.host.mboxPhase := by
      rw [hhost]
      exact hg.phase
    rw [endNow_own e hnone, if_pos hmbox, hown hnone]
    unfold postMailbox
    unfold Signals at hmsix
    rw [hmsix, hphase]
  · have hrings : ∀ r, ringOf (handedOver g c e) r = ringOf g r := fun r => by
      unfold ringOf
      rw [hhost]
    obtain ⟨s', hs', hbind, hhead', -, -⟩ := hg.rings _ s hs
    obtain ⟨x', hx', -, -, -, hcomp⟩ := hg.rings _ x hx
    rw [hcomp htype, ← hbind] at hx'
    have hsq : (recordOf c k e.result e.value0 e.value1 0).sqid = c.ring := if_neg hring
    have hwrite := postRecord_writes (recordOf c k e.result e.value0 e.value1 0) ((hrings _).trans hx') htype hstate hfull hheld hfail
    have hhead : subHead (handedOver g c e) c.ring = s.head := by
      unfold subHead
      rw [hrings, hs', ← hhead']
      rfl
    have hrec : { recordOf c k e.result e.value0 e.value1 0 with
        sqhead := subHead (handedOver g c e) (recordOf c k e.result e.value0 e.value1 0).sqid } =
        recordOf c k e.result e.value0 e.value1 s.head := by
      rw [hsq, hhead]
      rfl
    rw [hrec] at hwrite
    rw [endNow_own e hnone, if_neg hring, hown hnone, hrings, hs', ← hbind]
    exact hwrite

/-- The result bytes of a command that ends have left (R437). -/
theorem endNow_delivers {d g : Dev} {c : Cmd} {e : Ends} (hg : Grows d g) (hcfg : g.host.cfg = d.host.cfg)
    (hok : lostResult c e = false) : Delivers c e.bytes d (endNow g c e) := by
  refine fun _ => ⟨fun hlead hring hbytes => ?_, fun id hid => ⟨e.status, e.result, e.value0, e.value1, ?_⟩⟩
  · have htaken : takenBytes c e = e.bytes.take (dResultLen c.desc) := if_neg hring
    have hout : Output.result (BitVec.ofNat 64 (dResult c.desc)) (e.bytes.take (dResultLen c.desc)) d.host.cfg.relaxed ∈
        (handedOver g c e).out := by
      unfold handedOver
      rw [if_neg (by simp [hok, htaken, hbytes]), htaken, (concluded_spec g c).2, hcfg]
      exact List.mem_append_right _ (List.mem_singleton.2 rfl)
    rw [endNow_own e hlead]
    split
    · exact (grows_postMailbox ..).out _ hout
    · split
      · exact hout
      · exact (grows_postRecord ..).out _ hout
  · rw [endNow_lead e hid]
    exact (sendMsg_tells ..).mono (hg.trans (concluded_spec g c).1) (.refl _)

/-! Rings that wait to become Free. -/

theorem mem_of_ringOf {d : Dev} {r : Nat} {x : Ring} (h : ringOf d r = some x) : (r, some x) ∈ d.host.rings := by
  unfold ringOf at h
  generalize d.host.rings = m at h
  induction m with
  | nil => exact absurd h (by simp [mget])
  | cons p m ih =>
    obtain ⟨k, v⟩ := p
    simp only [mget] at h
    split at h
    · next hk => exact List.mem_cons.2 (.inl (by rw [hk, h]))
    · exact List.mem_cons_of_mem _ (ih h)

/-- No ring waits to become Free. -/
def NoneWaits (d : Dev) : Prop := ∀ r x, ringOf d r = some x → x.destroyer = none

theorem NoDrain.noneWaits {d : Dev} (h : NoDrain d) : NoneWaits d := fun r x hx => h.2 (r, some x) (mem_of_ringOf hx) x rfl

theorem Grows.noneWaits {d e : Dev} (h : Grows d e) (hd : NoneWaits d) : NoneWaits e := fun r y hy => by
  obtain ⟨x, hx, hxy⟩ := h.rings r y hy
  exact hxy.trans (hd r x hx)

theorem drainRings_none {d : Dev} (h : NoneWaits d) : drainRings d = d := by
  have hone : ∀ r, drained d r = d := fun r => by
    unfold drained
    split
    · rfl
    · next x hx =>
      rw [h r x hx]
  have hfold : ∀ {α : Type} (f : Dev → α → Dev), (∀ a, f d a = d) → ∀ l : List α, l.foldl f d = d := by
    intro α f hf l
    induction l with
    | nil => rfl
    | cons a l ih => rw [List.foldl_cons, hf a, ih]
  unfold drainRings
  dsimp only
  generalize d.host.rings.map (·.1) = rs
  exact hfold (fun d _ => rs.foldl drained d) (fun _ => hfold drained hone rs) rs

theorem grows_endCmd (d : Dev) (c : Cmd) (e : Ends) : Grows d (endCmd d c e) := by
  unfold endCmd
  split
  · exact grows_endNow ..
  · exact grows_setCmds ..

/-- Where no ring waits, the end of a command is all that happens. -/
theorem finish_eq {d : Dev} (h : NoneWaits d) (c : Cmd) (e : Ends) : finish d c e = endCmd d c e :=
  drainRings_none ((grows_endCmd d c e).noneWaits h)

theorem cmdOf_modCmd {d : Dev} {cid : Nat} {c : Cmd} {f : Cmd → Cmd} (h : cmdOf d cid = some c) (hf : ∀ x, (f x).cid = x.cid) :
    cmdOf (modCmd d cid f) cid = some (f c) := by
  unfold cmdOf at h ⊢
  have hkeep : ((fun x : Cmd => x.cid == cid) ∘ fun x => if x.cid = cid then f x else x) = fun x => x.cid == cid := by
    funext x
    by_cases hx : x.cid = cid <;> simp [hx, hf]
  have hc : c.cid = cid := by simpa using List.find?_some h
  show (d.host.cmds.map _).find? _ = _
  rw [List.find?_map, hkeep, h, Option.map_some, if_pos hc]

theorem twinOut_endNow (d : Dev) (c : Cmd) (e : Ends) : (endNow d c e).pad.twinOut = d.pad.twinOut := by
  have h := concludes_endNow d c e
  unfold Concludes at h
  rw [h]

/-- The command ends, or waits with its end for mirrored writes (R440, R495). -/
theorem finish_replied {d g : Dev} {c x : Cmd} {e : Ends} (hg : SameDesk d g) (hno : NoneWaits d) (hx : cmdOf g c.cid = some x)
    (hok : lostResult c e = false) : Replied c e.status e.result e.value0 e.value1 d (finish g c e) := by
  rw [finish_eq (hg.grows.noneWaits hno)]
  by_cases htwin : g.pad.twinOut = []
  · have hend : endCmd g c e = endNow g c e := if_pos htwin
    rw [hend]
    refine ⟨fun _ => endNow_recorded hg (fun _ => by rw [hok]; rfl) fun _ => rfl, fun hne => ?_⟩
    rw [twinOut_endNow] at hne
    exact absurd htwin hne
  · have hend : endCmd g c e = modCmd g c.cid fun x => { x with begun := true, asks := [], held := some e } := if_neg htwin
    rw [hend]
    refine ⟨fun hnil => absurd hnil htwin, fun _ => ?_⟩
    exact ⟨_, e, cmdOf_modCmd hx fun _ => rfl, rfl, rfl, rfl, rfl, rfl, rfl, rfl⟩

theorem finish_delivers {d g : Dev} {c : Cmd} {e : Ends} (hg : SameDesk d g) (hno : NoneWaits d)
    (hcfg : g.host.cfg = d.host.cfg) (hok : lostResult c e = false) : Delivers c e.bytes d (finish g c e) := by
  rw [finish_eq (hg.grows.noneWaits hno)]
  by_cases htwin : g.pad.twinOut = []
  · have hend : endCmd g c e = endNow g c e := if_pos htwin
    rw [hend]
    exact endNow_delivers hg.grows hcfg hok
  · have hend : endCmd g c e = modCmd g c.cid fun x => { x with begun := true, asks := [], held := some e } := if_neg htwin
    rw [hend]
    exact fun hnil => absurd hnil htwin

theorem lostResult_none {c : Cmd} {e : Ends} (h : e.bytes = []) : lostResult c e = false := by
  unfold lostResult takenBytes
  split <;> simp [h]

theorem lostResult_ok {c : Cmd} (e : Ends) (h : c.resultOk = true) : lostResult c e = false := by
  unfold lostResult
  simp [h]

/-! ### The start of a command -/

/-- What follows a command of the module: the binding's report leaves, and a draw is counted. -/
structure Leaves (e f : Dev) : Prop where
  grows : Grows e f
  frame : f = { e with
    draws := e.draws + 1, out := f.out
    pad := { e.pad with ports := f.pad.ports, messageNo := f.pad.messageNo, twinTold := f.pad.twinTold } }

theorem leaves_mirrorState (e : Dev) : Leaves e { mirrorState e with draws := (mirrorState e).draws + 1 } := by
  refine ⟨(grows_mirrorState e).trans (.same rfl rfl rfl rfl), ?_⟩
  have hframe : mirrorState e = { e with
      out := (mirrorState e).out, pad := { e.pad with
        ports := (mirrorState e).pad.ports, messageNo := (mirrorState e).pad.messageNo
        twinTold := (mirrorState e).pad.twinTold } } := by
    unfold mirrorState
    split
    · split
      · rfl
      · have h := sends_sendTwin (setPad e { e.pad with twinTold := some (twinData e) }) (.twinState (twinData e))
        generalize sendTwin (setPad e { e.pad with twinTold := some (twinData e) }) (.twinState (twinData e)) = g at h ⊢
        unfold Sends at h
        rw [h]
        rfl
    · rfl
  generalize mirrorState e = g at hframe
  rw [hframe]

/-- What a command of the module leaves of the rest. -/
theorem Leaves.machine {e f : Dev} (h : Leaves e f) : f.stalls = e.stalls ∧ f.cribs = e.cribs ∧ f.banks = e.banks ∧
    f.mem = e.mem ∧ f.ops = e.ops ∧ f.attn = e.attn ∧ f.feed = e.feed ∧ f.host = e.host ∧ f.ctr = e.ctr ∧ f.sense = e.sense ∧
    f.health = e.health ∧ f.board = e.board ∧ f.pad.twinOut = e.pad.twinOut ∧ f.pad.wants = e.pad.wants := by
  have hframe := h.frame
  rw [hframe]
  exact ⟨rfl, rfl, rfl, rfl, rfl, rfl, rfl, rfl, rfl, rfl, rfl, rfl, rfl, rfl⟩

theorem Leaves.stalls {e f : Dev} (h : Leaves e f) : f.stalls = e.stalls := h.machine.1

theorem Leaves.cribs {e f : Dev} (h : Leaves e f) : f.cribs = e.cribs := h.machine.2.1

theorem Leaves.banks {e f : Dev} (h : Leaves e f) : f.banks = e.banks := h.machine.2.2.1

theorem Leaves.mem {e f : Dev} (h : Leaves e f) : f.mem = e.mem := h.machine.2.2.2.1

theorem Leaves.ops {e f : Dev} (h : Leaves e f) : f.ops = e.ops := h.machine.2.2.2.2.1

theorem Leaves.attn {e f : Dev} (h : Leaves e f) : f.attn = e.attn := h.machine.2.2.2.2.2.1

theorem Leaves.feed {e f : Dev} (h : Leaves e f) : f.feed = e.feed := h.machine.2.2.2.2.2.2.1

theorem Leaves.host {e f : Dev} (h : Leaves e f) : f.host = e.host := h.machine.2.2.2.2.2.2.2.1

theorem Leaves.ctr {e f : Dev} (h : Leaves e f) : f.ctr = e.ctr := h.machine.2.2.2.2.2.2.2.2.1

theorem Leaves.sense {e f : Dev} (h : Leaves e f) : f.sense = e.sense := h.machine.2.2.2.2.2.2.2.2.2.1

theorem Leaves.health {e f : Dev} (h : Leaves e f) : f.health = e.health := h.machine.2.2.2.2.2.2.2.2.2.2.1

theorem Leaves.twinOut {e f : Dev} (h : Leaves e f) : f.pad.twinOut = e.pad.twinOut := h.machine.2.2.2.2.2.2.2.2.2.2.2.2.1

theorem Leaves.wants {e f : Dev} (h : Leaves e f) : f.pad.wants = e.pad.wants := h.machine.2.2.2.2.2.2.2.2.2.2.2.2.2

theorem Leaves.spares {d e f : Dev} (h : Leaves e f) (g : SparesMachine d e) : SparesMachine d f := by
  obtain ⟨gstalls, gcribs, gbanks, gmem, gops⟩ := g
  exact ⟨h.stalls.trans gstalls, h.cribs.trans gcribs, h.banks.trans gbanks, h.mem.trans gmem, h.ops.trans gops⟩

theorem Leaves.cmdOf {e f : Dev} (h : Leaves e f) (cid : Nat) : cmdOf f cid = cmdOf e cid := by
  unfold Machine.cmdOf
  rw [h.machine.2.2.2.2.2.2.2.1]

theorem Leaves.waits {c : Cmd} {asks : List Nat} {k r v w : Nat} {e f : Dev} (h : Leaves e f) (g : Waits c asks k r v w e) :
    Waits c asks k r v w f := by
  obtain ⟨y, x, hy, hrest⟩ := g
  exact ⟨y, x, (h.cmdOf c.cid).trans hy, hrest⟩

theorem Leaves.recorded {c : Cmd} {k r v w : Nat} {d e f : Dev} (h : Leaves e f) (g : Recorded c k r v w d e) :
    Recorded c k r v w d f := by
  obtain ⟨hgone, hlead, hmbox, hring⟩ := g
  refine ⟨(h.cmdOf c.cid).trans hgone, fun id hid => ?_, fun h1 h2 => ?_,
    fun s x h1 h2 h3 h4 h5 h6 h7 h8 h9 => h.grows.out _ (hring s x h1 h2 h3 h4 h5 h6 h7 h8 h9)⟩
  · obtain ⟨bs, hbs⟩ := hlead id hid
    exact ⟨bs, hbs.mono (.refl d) h.grows⟩
  · rw [h.machine.2.2.2.2.2.2.2.1]
    exact hmbox h1 h2

theorem Leaves.replied {c : Cmd} {k r v w : Nat} {d e f : Dev} (h : Leaves e f) (g : Replied c k r v w d e) :
    Replied c k r v w d f := by
  exact ⟨fun hnil => h.recorded (g.1 (by rw [← h.twinOut]; exact hnil)), fun hne => h.waits (g.2 (by rw [← h.twinOut]; exact hne))⟩

theorem Leaves.delivers {c : Cmd} {bs : List Byte} {d e f : Dev} (h : Leaves e f) (g : Delivers c bs d e) : Delivers c bs d f := by
  intro hnil
  obtain ⟨hout, hlead⟩ := g (by rw [← h.twinOut]; exact hnil)
  refine ⟨fun h1 h2 h3 => h.grows.out _ (hout h1 h2 h3), fun id hid => ?_⟩
  obtain ⟨k, r, v, w, htells⟩ := hlead id hid
  exact ⟨k, r, v, w, htells.mono (.refl d) h.grows⟩

theorem Leaves.repliedAll {c : Cmd} {k r v w : Nat} {d e f : Dev} (h : Leaves e f) (g : RepliedAll c k r v w d e) :
    RepliedAll c k r v w d f :=
  ⟨fun hnone => h.replied (g.1 hnone), fun hsome => ⟨h.waits (g.2 hsome).1, fun m hm => ((g.2 hsome).2 m hm).mono (.refl d) h.grows⟩⟩

/-- The module when a command has begun. -/
def started (d : Dev) (c : Cmd) : Dev := putCmd (joins d c) (begins d c)

/-- What the start of a command leaves: the command has begun, and where it waited to be fetched, other modules have been told. -/
theorem started_spec {d : Dev} {c : Cmd} {cid : Nat} (h : cmdOf d cid = some c) :
    started d c = { d with
        out := (started d c).out
        host := { d.host with cmds := d.host.cmds.map fun x => if x.cid = c.cid then begins d c else x }
        pad := { d.pad with ports := (started d c).pad.ports, messageNo := (started d c).pad.messageNo } } ∧
      SameDesk d (started d c) ∧ cmdOf (started d c) c.cid = some (begins d c) := by
  have hsends : Sends d (joins d c) := by
    unfold joins
    split
    · exact sends_holdAway ..
    · rfl
  have hgrows : Grows d (joins d c) := by
    unfold joins
    split
    · exact grows_holdAway ..
    · exact .refl d
  have hcid := cmdOf_cid h
  have hframe : started d c = { d with
      out := (started d c).out
      host := { d.host with cmds := d.host.cmds.map fun x => if x.cid = c.cid then begins d c else x }
      pad := { d.pad with ports := (started d c).pad.ports, messageNo := (started d c).pad.messageNo } } := by
    unfold started
    unfold Sends at hsends
    generalize joins d c = g at hsends ⊢
    rw [hsends]
    rfl
  have hhost : (started d c).host = { d.host with cmds := d.host.cmds.map fun x => if x.cid = c.cid then begins d c else x } := by
    rw [hframe]
  refine ⟨hframe, SameDesk.of (hgrows.trans (grows_setCmds ..)) (by rw [hhost]) (by rw [hhost]), ?_⟩
  have hjoins : cmdOf (joins d c) cid = some c := by
    rw [← h]
    unfold Sends at hsends
    unfold cmdOf
    rw [hsends]
  rw [hcid]
  exact cmdOf_putCmd_self hjoins hcid

/-- A state in which a command has begun. -/
structure Starts (d : Dev) (c : Cmd) (g : Dev) : Prop where
  eq : g = putCmd (joins d c) (begins d c)
  frame : g = { d with
    out := g.out, host := { d.host with cmds := d.host.cmds.map fun x => if x.cid = c.cid then begins d c else x }
    pad := { d.pad with ports := g.pad.ports, messageNo := g.pad.messageNo } }
  desk : SameDesk d g
  cmd : cmdOf g c.cid = some (begins d c)

theorem starts_started {d : Dev} {c : Cmd} {cid : Nat} (h : cmdOf d cid = some c) : Starts d c (started d c) := by
  obtain ⟨hframe, hdesk, hcmd⟩ := started_spec h
  exact ⟨rfl, hframe, hdesk, hcmd⟩

theorem onDerier_runs {name : String} {f : Dev → Option Dev} {s : State} {e : Dev} (h : f s.dev = some e) :
    ∃ g, Leaves e g ∧ onDerier name f s = .next { s with dev := g } := by
  refine ⟨_, leaves_mirrorState e, ?_⟩
  unfold onDerier onDev
  dsimp only
  rw [h]
  rfl

/-- A command of the command set that may start. -/
theorem startCmd_starts {name : String} {op cid : Nat} {form : Cmd → Bool} {f : Dev → Cmd → Dev} {c : Cmd} {s : State}
    (h : CmdStarts s.dev cid op form c) :
    ∃ g, Leaves (f (started s.dev c) (begins s.dev c)) g ∧ startCmd name op form cid f s = .next { s with dev := g } := by
  obtain ⟨hc, hop, hform, hbegun, horder, hdown, hok, hhere⟩ := h
  refine onDerier_runs ?_
  rw [hc]
  dsimp only
  rw [if_neg (by simp [hop, hform, hbegun, horder, hdown]), hok]
  dsimp only
  rw [hhere]
  rfl

theorem answers_startCmd {i : Instr} {name : String} {op cid : Nat} {form : Cmd → Bool} {f : Dev → Cmd → Dev} {c : Cmd}
    {pre : Dev → Prop} {post : Dev → Dev → Prop} (hexec : ∀ s, pre s.dev → exec i s = startCmd name op form cid f s)
    (h : ∀ d, pre d → CmdStarts d cid op form c ∧ ∀ g e, Starts d c g → Leaves (f g (begins d c)) e → post d e) :
    Answers i pre post := by
  intro s hs
  obtain ⟨hstarts, hpost⟩ := h s.dev hs
  obtain ⟨g, hleaves, hrun⟩ := startCmd_starts (name := name) (f := f) hstarts
  exact ⟨{ s with dev := g }, (hexec s hs).trans hrun, rfl, hpost _ g (starts_started hstarts.1) hleaves⟩

/-- A command that a common check refuses. -/
theorem startCmd_refused {name : String} {op cid k : Nat} {form : Cmd → Bool} {f : Dev → Cmd → Dev} {c : Cmd} {s : State}
    (hc : cmdOf s.dev cid = some c) (hop : dOpcode c.desc = op) (hform : form c = true) (hbegun : c.begun = false)
    (horder : inOrder s.dev c = true) (hdown : s.dev.health.commandDown = false) (hbad : commonStatus s.dev c = some k) :
    ∃ g, Leaves (finish s.dev c (refusedEnds op k)) g ∧ startCmd name op form cid f s = .next { s with dev := g } := by
  refine onDerier_runs ?_
  rw [hc]
  dsimp only
  rw [if_neg (by simp [hop, hform, hbegun, horder, hdown]), hbad]

/-- A command for another module. -/
theorem startCmd_forwards {name : String} {op cid : Nat} {form : Cmd → Bool} {f : Dev → Cmd → Dev} {c : Cmd} {s : State}
    (hc : cmdOf s.dev cid = some c) (hop : dOpcode c.desc = op) (hform : form c = true) (hbegun : c.begun = false)
    (horder : inOrder s.dev c = true) (hdown : s.dev.health.commandDown = false) (hok : commonStatus s.dev c = none)
    (haway : isRemote s.dev c = true) :
    ∃ g, Leaves (forward s.dev (begins s.dev c)) g ∧ startCmd name op form cid f s = .next { s with dev := g } := by
  refine onDerier_runs ?_
  rw [hc]
  dsimp only
  rw [if_neg (by simp [hop, hform, hbegun, horder, hdown]), hok]
  dsimp only
  rw [haway]
  rfl

/-! ### What the end of a command keeps -/

/-- No record of a model is new. -/
def KeepsModels (d e : Dev) : Prop := ∀ m ∈ e.feed.models, ∃ x ∈ d.feed.models, x.id = m.id

theorem SparesMachine.trans {d e f : Dev} (h : SparesMachine d e) (g : SparesMachine e f) : SparesMachine d f := by
  obtain ⟨h1, h2, h3, h4, h5⟩ := h
  obtain ⟨g1, g2, g3, g4, g5⟩ := g
  exact ⟨g1.trans h1, g2.trans h2, g3.trans h3, g4.trans h4, g5.trans h5⟩

theorem Concludes.spares {d e : Dev} (h : Concludes d e) : SparesMachine d e := by
  exact ⟨h.stalls, h.cribs, h.banks, h.mem, h.ops⟩

theorem Concludes.modelsOnly {d e : Dev} (h : Concludes d e) : ModelsOnly d e := by
  unfold Concludes at h
  unfold ModelsOnly
  rw [h]

/-- What else stands when commands have ended. -/
theorem Concludes.rest {d e : Dev} (h : Concludes d e) : e.pad.wants = d.pad.wants ∧ e.pad.twinOut = d.pad.twinOut ∧
    e.host.quota = d.host.quota ∧ e.host.nextCid = d.host.nextCid ∧ e.health.bundle = d.health.bundle ∧
    e.health.vetVersion = d.health.vetVersion := by
  unfold Concludes at h
  rw [h]
  exact ⟨rfl, rfl, rfl, rfl, rfl, rfl⟩

theorem others_congr {d e : Dev} (hpad : e.pad.role = d.pad.role ∧ e.pad.index = d.pad.index ∧ e.pad.modules = d.pad.modules ∧
    e.pad.unreachable = d.pad.unreachable) : others e = others d := by
  obtain ⟨hrole, hindex, hmodules, hun⟩ := hpad
  unfold others memberIndices
  rw [hrole, hindex, hmodules, hun]

theorem Concludes.others {d e : Dev} (h : Concludes d e) : others e = others d := by
  unfold Concludes at h
  refine others_congr ?_
  rw [h]
  exact ⟨rfl, rfl, rfl, rfl⟩

theorem Starts.concludes {d : Dev} {c : Cmd} {g : Dev} (h : Starts d c g) : Concludes d g := by
  rw [h.eq]
  exact (concludes_joins d c).trans (concludes_putCmd ..)

theorem grows_toMembers (d : Dev) (c : Cmd) : Grows d (toMembers d c) := grows_foldl (fun _ _ => grows_sendMsg ..) _ _

/-- A command done here completes when it is done on every module (R443). -/
theorem finishAll_replied {d g : Dev} {c x : Cmd} {e : Ends} (hg : SameDesk d g) (hno : NoneWaits d) (hx : cmdOf g c.cid = some x)
    (hbegun : x.begun = true) (hothers : others g = others d) (hok : lostResult (begins d c) e = false) :
    RepliedAll c e.status e.result e.value0 e.value1 d (finishAll g (begins d c) e) := by
  by_cases hnone : others g = []
  · have hend : finishAll g (begins d c) e = finish g (begins d c) e := if_pos hnone
    rw [hend]
    exact ⟨fun _ => finish_replied (c := begins d c) hg hno hx hok, fun h => absurd (hothers ▸ hnone) h⟩
  · have hend : finishAll g (begins d c) e = modCmd (toMembers g (begins d c)) c.cid
        fun x => { x with asks := others g, held := some e } := if_neg hnone
    rw [hend]
    have hsends := sends_toMembers g (begins d c)
    have hcmd : cmdOf (toMembers g (begins d c)) c.cid = some x := by
      rw [← hx]
      unfold Sends at hsends
      unfold cmdOf
      rw [hsends]
    refine ⟨fun h => absurd (hothers.trans h) hnone, fun _ => ⟨⟨_, e, cmdOf_modCmd hcmd fun _ => rfl, hbegun, hothers, rfl, rfl,
      rfl, rfl, rfl⟩, fun m hm => ?_⟩⟩
    rw [← hothers] at hm
    refine (foldl_sendMsg_tells (f := tell (begins d c))
      (x := fun _ => .command c.cid c.fn c.desc (c.data.map fun _ => c.entries) (begins d c).epoch)
      (fun _ _ => rfl) (others g) g m hm).mono hg.grows (grows_setCmds ..)

/-- Ends of commands free model records, and make none. -/
theorem keepsModels_noteReply (d : Dev) (c : Cmd) : KeepsModels d (noteReply d c) := by
  unfold noteReply
  split
  · intro m hm
    obtain ⟨x, hx, rfl⟩ := List.mem_map.1 hm
    refine ⟨x, hx, ?_⟩
    split <;> rfl
  · next _ =>
    intro m hm
    have hsends := sends_foldl (f := fun d m => tellAll d (.recordFreed (Model.id m))) (fun _ _ => sends_tellAll ..)
      (d.feed.models.filter fun m => m.reply.any fun q => q == (unwritten, c.cid))
      (setModels d (d.feed.models.filter fun m => !m.reply.any fun q => q == (unwritten, c.cid)))
    unfold freeFailed at hm
    unfold Sends at hsends
    rw [hsends] at hm
    exact ⟨m, (List.mem_filter.1 hm).1, rfl⟩

theorem feed_concluded (d : Dev) (c : Cmd) : KeepsModels d (concluded d c) := by
  have haway := sends_freeAway d c
  unfold Sends at haway
  intro m hm
  obtain ⟨x, hx, hid⟩ := keepsModels_noteReply _ _ m hm
  have hmodels : (dropCmd (freeAway d c) c.cid).feed.models = d.feed.models := by
    rw [haway]
    rfl
  rw [hmodels] at hx
  exact ⟨x, hx, hid⟩

theorem keepsModels_endNow (d : Dev) (c : Cmd) (e : Ends) : KeepsModels d (endNow d c e) := by
  have hsig : ∀ g h : Dev, Signals g h → h.feed = g.feed := fun g h hs => by
    unfold Signals at hs
    rw [hs]
  have hconc := feed_concluded d c
  unfold KeepsModels at hconc ⊢
  cases hlead : c.lead with
  | some id =>
    rw [endNow_lead e hlead, hsig _ _ (signals_sendMsg ..)]
    exact hconc
  | none =>
    have hover : (handedOver d c e).feed = (concluded d c).feed := by
      unfold handedOver
      split <;> rfl
    rw [← hover] at hconc
    rw [endNow_own e hlead]
    split
    · unfold postMailbox
      rw [hsig _ _ (signals_sendMsix ..)]
      exact hconc
    · split
      · exact hconc
      · rw [hsig _ _ (signals_postRecord ..)]
        exact hconc

theorem keepsModels_finish {d : Dev} (h : NoneWaits d) (c : Cmd) (e : Ends) : KeepsModels d (finish d c e) := by
  rw [finish_eq h]
  unfold endCmd
  split
  · exact keepsModels_endNow d c e
  · exact fun m hm => ⟨m, hm, rfl⟩

theorem keepsModels_finishAll {d : Dev} (h : NoneWaits d) (c : Cmd) (e : Ends) : KeepsModels d (finishAll d c e) := by
  unfold finishAll
  split
  · exact keepsModels_finish h c e
  · have hsends := sends_toMembers d c
    unfold Sends at hsends
    intro m hm
    have hmodels : (modCmd (toMembers d c) c.cid fun x => { x with asks := others d, held := some e }).feed.models =
        d.feed.models := by
      show (toMembers d c).feed.models = _
      rw [hsends]
    rw [hmodels] at hm
    exact ⟨m, hm, rfl⟩

theorem modelOf_none {d e : Dev} (h : KeepsModels d e) {id : Nat} (hid : modelOf d id = none) : modelOf e id = none := by
  unfold modelOf at hid ⊢
  rw [List.find?_eq_none] at hid ⊢
  intro m hm
  obtain ⟨x, hx, hxm⟩ := h m hm
  have := hid x hx
  rwa [hxm] at this

end Sys2Proof.Machine
end

section
/-! Checks and reports of commands, the modes, and the commands that want epochs (O33, O36, O40). -/

namespace Sys2Proof.Machine

open Sys2Proof

/-! ### A command that ends at once -/

/-- What a command leaves of a state that it ends with, and what follows every command. -/
def Wraps (g e : Dev) : Prop :=
  e = { g with
    draws := e.draws, ctr := e.ctr, out := e.out
    host := { g.host with
      rings := e.host.rings, seqno := e.host.seqno, msixPending := e.host.msixPending, cmds := e.host.cmds
      mboxCpl := e.host.mboxCpl, mboxPhase := e.host.mboxPhase }
    health := { g.health with sendQueue := e.health.sendQueue }
    pad := { g.pad with ports := e.pad.ports, messageNo := e.pad.messageNo, twinTold := e.pad.twinTold }
    feed := { g.feed with models := e.feed.models } }

theorem Concludes.wraps {g k e : Dev} (h : Concludes g k) (hl : Leaves k e) : Wraps g e := by
  have hg.frame := hl.frame
  unfold Concludes at h
  unfold Wraps
  rw [hg.frame, h]

theorem Wraps.machine {g e : Dev} (h : Wraps g e) : SparesMachine g e ∧ e.attn = g.attn ∧ e.sense = g.sense ∧ e.board = g.board ∧
    e.pad.wants = g.pad.wants ∧ e.pad.twinOut = g.pad.twinOut ∧ e.host.quota = g.host.quota ∧ ModelsOnly g e := by
  unfold Wraps at h
  unfold SparesMachine ModelsOnly
  rw [h]
  exact ⟨⟨rfl, rfl, rfl, rfl, rfl⟩, rfl, rfl, rfl, rfl, rfl, rfl, rfl⟩

theorem Wraps.spares {g e : Dev} (h : Wraps g e) : SparesMachine g e := h.machine.1

theorem Wraps.attn {g e : Dev} (h : Wraps g e) : e.attn = g.attn := h.machine.2.1

theorem Wraps.sense {g e : Dev} (h : Wraps g e) : e.sense = g.sense := h.machine.2.2.1

theorem Wraps.board {g e : Dev} (h : Wraps g e) : e.board = g.board := h.machine.2.2.2.1

theorem Wraps.wants {g e : Dev} (h : Wraps g e) : e.pad.wants = g.pad.wants := h.machine.2.2.2.2.1

theorem Wraps.quota {g e : Dev} (h : Wraps g e) : e.host.quota = g.host.quota := h.machine.2.2.2.2.2.2.1

theorem Wraps.models {g e : Dev} (h : Wraps g e) : ModelsOnly g e := h.machine.2.2.2.2.2.2.2

/-- A command that ends with a state that has the desk of the one it found. -/
theorem ends_with {d g e : Dev} {c y : Cmd} {x : Ends} (hdesk : SameDesk d g) (hno : NoDrain d) (hcmd : cmdOf g c.cid = some y)
    (hok : lostResult c x = false) (hl : Leaves (finish g c x) e) :
    Wraps g e ∧ Replied c x.status x.result x.value0 x.value1 d e := by
  have hrep := finish_replied hdesk hno.noneWaits hcmd hok
  exact ⟨(concludes_finish g c x).wraps hl, hl.replied hrep⟩

theorem KeepsModels.leaves {g k e : Dev} (hl : Leaves k e) (h : KeepsModels g k) : KeepsModels g e := by
  intro m hm
  rw [hl.feed] at hm
  exact h m hm

/-- A command done here that ends when it is done on every module. -/
theorem endsAll_with {d k e : Dev} {c y : Cmd} {x : Ends} (hdesk : SameDesk d k) (hno : NoDrain d)
    (hcmd : cmdOf k c.cid = some y) (hbegun : y.begun = true) (hothers : others k = others d)
    (hok : lostResult (begins d c) x = false) (hl : Leaves (finishAll k (begins d c) x) e) :
    Wraps k e ∧ RepliedAll c x.status x.result x.value0 x.value1 d e ∧ KeepsModels k e := by
  have hrep := finishAll_replied hdesk hno.noneWaits hcmd hbegun hothers hok
  exact ⟨(concludes_finishAll k (begins d c) x).wraps hl, hl.repliedAll hrep,
    KeepsModels.leaves hl (keepsModels_finishAll (hdesk.grows.noneWaits hno.noneWaits) (begins d c) x)⟩

/-- A command that ends with the state as it found it. -/
theorem ends_at_once {d g e : Dev} {c : Cmd} {x : Ends} (hg : Starts d c g)
    (hno : NoDrain d) (hok : lostResult c x = false) (hl : Leaves (finish g (begins d c) x) e) :
    Wraps d e ∧ Replied c x.status x.result x.value0 x.value1 d e := by
  obtain ⟨-, hreplied⟩ := ends_with (c := begins d c) hg.desk hno hg.cmd hok hl
  exact ⟨(hg.concludes.trans (concludes_finish g (begins d c) x)).wraps hl, hreplied⟩

theorem ends_delivers {d g e : Dev} {c : Cmd} {x : Ends} (hg : Starts d c g)
    (hno : NoDrain d) (hok : lostResult c x = false) (hl : Leaves (finish g (begins d c) x) e) :
    Delivers c x.bytes d e := by
  refine hl.delivers (finish_delivers (c := begins d c) hg.desk hno.noneWaits ?_ hok)
  rw [hg.frame]

/-- A command forwarded to the module that it names. -/
theorem forward_spec {d : Dev} {c y : Cmd} (h : cmdOf d c.cid = some y) :
    SparesMachine d (forward d c) ∧ cmdOf (forward d c) c.cid = some { c with begun := true, remote := true } ∧
      (forward d c).attn = d.attn ∧ (forward d c).feed = d.feed ∧
      Tells (dModule c.desc) (.command c.cid c.fn c.desc (c.data.map fun _ => c.entries) c.epoch) d (forward d c) := by
  have hsends := sends_sendMsg (putCmd d { c with begun := true, remote := true }) (dModule c.desc)
    (.command c.cid c.fn c.desc (c.data.map fun _ => c.entries) c.epoch)
  have htells := sendMsg_tells (putCmd d { c with begun := true, remote := true }) (dModule c.desc)
    (.command c.cid c.fn c.desc (c.data.map fun _ => c.entries) c.epoch)
  have hput := cmdOf_putCmd_self (f := { c with begun := true, remote := true }) h rfl
  have hforward : forward d c = sendMsg (putCmd d { c with begun := true, remote := true }) (dModule c.desc)
    (.command c.cid c.fn c.desc (c.data.map fun _ => c.entries) c.epoch) := rfl
  rw [hforward]
  refine ⟨(concludes_putCmd ..).spares.trans hsends.signals.concludes.spares, ?_, ?_, ?_, htells.mono (grows_setCmds ..) (.refl _)⟩
  · rw [← hput]
    unfold Sends at hsends
    unfold cmdOf
    rw [hsends]
  · exact hsends.signals.concludes.machine.2.2.2.2.2.1
  · unfold Sends at hsends
    rw [hsends]
    rfl

/-! ### MODE_SET (O40) -/

theorem addWant_spec {d g e : Dev} {c : Cmd} {w : Want} (hg : Starts d c g) (hl : Leaves (addWant g w) e) :
    SparesMachine d e ∧ Begun c id d e ∧ e.pad.wants = d.pad.wants ++ [w] := by
  refine ⟨hl.spares hg.concludes.spares, (hl.cmdOf c.cid).trans hg.cmd, hl.wants.trans ?_⟩
  show g.pad.wants ++ [w] = _
  rw [hg.concludes.rest.1]

theorem isSome_started {d g : Dev} {c : Cmd} (hg : Starts d c g) (k : Nat) : (cmdOf g k).isSome = (cmdOf d k).isSome := by
  have hcmds : g.host.cmds = d.host.cmds.map fun x => if x.cid = c.cid then begins d c else x := by rw [hg.frame]
  have hkeep : ((fun x : Cmd => x.cid == k) ∘ fun x => if x.cid = c.cid then begins d c else x) = fun x => x.cid == k := by
    funext x
    by_cases hx : x.cid = c.cid
    · simp only [Function.comp_apply, hx]
      rfl
    · simp only [Function.comp_apply, if_neg hx]
  unfold cmdOf
  rw [hcmds, List.find?_map, hkeep, Option.isSome_map]

/-- Settles O40. -/
theorem modeSetCommands : Obligations.ModeSetCommands := by
  refine ⟨fun cid c => ?_, fun cid c => ?_, fun cid c => ?_, fun cid c r => ?_, fun cid c => ?_, fun cid c => ?_, fun cid c => ?_,
    fun cid c => ?_, fun cid c => ?_⟩
  · refine answers_startCmd (c := c) (fun s _ => show execModeSetPower cid s = _ from rfl) ?_
    intro d hpre
    refine under_name fun named shown => ?_
    obtain ⟨hstarts, hlow, hhigh⟩ := hpre
    refine shown ⟨hstarts, fun g e hg hl => addWant_spec hg ?_⟩
    have hmode : modePowerDev g (begins d c) = addWant g
        { noWant with cid := some c.cid, target := dModule c.desc, power := some (mA c) } := if_pos (by
      simp [between]; exact ⟨hlow, hhigh⟩)
    rwa [hmode] at hl
  · refine answers_startCmd (c := c) (fun s _ => show execModeSetCalset cid s = _ from rfl) ?_
    rintro d ⟨hstarts, hform⟩
    refine ⟨hstarts, fun g e hg hl => addWant_spec hg ?_⟩
    have hA : mA (begins d c) = mA c := rfl
    have hmode : modeCalsetDev g (begins d c) = addWant g
        { noWant with cid := some c.cid, target := dModule c.desc, factory := some (mA c == 1) } := by
      unfold modeCalsetDev
      rw [hA, if_neg (by omega), if_pos hform]
      rfl
    rwa [hmode] at hl
  · refine answers_startCmd (c := c) (fun s _ => show execModeSetCalset cid s = _ from rfl) ?_
    intro d hpre
    refine under_name fun named shown => ?_
    obtain ⟨hstarts, hform, hhere, hidle⟩ := hpre
    refine shown ⟨hstarts, fun g e hg hl => ?_⟩
    have hA : mA (begins d c) = mA c := rfl
    have hindex : holdsIndex g (dModule (begins d c).desc) = true := by
      rw [← hhere, hg.frame]
      rfl
    have hsense : g.sense = d.sense := by rw [hg.frame]
    have hnone : (g.sense.refits.any fun r => (cmdOf g r.1).isSome) = false := by
      rw [hsense]
      cases hr : d.sense.refits with
      | none => rfl
      | some r => simp [isSome_started hg, hidle r hr]
    have hmode : modeCalsetDev g (begins d c) = setSense g
        { g.sense with refits := some (c.cid, false, []) } := by
      unfold modeCalsetDev
      rw [hA, if_neg (by omega), if_neg (by omega), hindex, hnone]
      rfl
    rw [hmode] at hl
    refine ⟨hl.spares hg.concludes.spares, (hl.cmdOf c.cid).trans hg.cmd, ?_⟩
    rw [hl.sense]
    show ({ g.sense with refits := some (c.cid, false, []) } : Sense) = _
    rw [hsense]
  · refine answers_startCmd (c := c) (fun s _ => show execModeSetCalset cid s = _ from rfl) ?_
    intro d hpre
    refine under_name fun named shown => ?_
    obtain ⟨hstarts, hno, hform, hhere, hr, hbusy⟩ := hpre
    refine shown ⟨hstarts, fun g e hg hl => ?_⟩
    have hA : mA (begins d c) = mA c := rfl
    have hindex : holdsIndex g (dModule (begins d c).desc) = true := by
      rw [← hhere, hg.frame]
      rfl
    have hsome : (g.sense.refits.any fun r => (cmdOf g r.1).isSome) = true := by
      have hsense : g.sense = d.sense := by rw [hg.frame]
      rw [hsense, hr]
      simp [isSome_started hg, Option.isSome_iff_ne_none, hbusy]
    have hmode : modeCalsetDev g (begins d c) = finish g (begins d c) (ends 0x06) := by
      unfold modeCalsetDev
      rw [hA, if_neg (by omega), if_neg (by omega), hindex, hsome]
      rfl
    rw [hmode] at hl
    obtain ⟨hwraps, hreplied⟩ := ends_at_once hg hno (lostResult_none rfl) hl
    exact ⟨hwraps.spares, hwraps.sense, hreplied⟩
  · refine answers_startCmd (c := c) (fun s _ => show execModeSetCalset cid s = _ from rfl) ?_
    intro d hpre
    refine under_name fun named shown => ?_
    obtain ⟨hstarts, hform, haway⟩ := hpre
    refine shown ⟨hstarts, fun g e hg hl => ?_⟩
    have hA : mA (begins d c) = mA c := rfl
    have hindex : holdsIndex g (dModule (begins d c).desc) = false := by
      rw [← haway, hg.frame]
      rfl
    have hmode : modeCalsetDev g (begins d c) = forward g (begins d c) := by
      unfold modeCalsetDev
      rw [hA, if_neg (by omega), if_neg (by omega), if_pos hindex]
    rw [hmode] at hl
    refine under_name fun named shown => ?_
    obtain ⟨hspares, hbegun, -, -, htells⟩ := forward_spec (c := begins d c) hg.cmd
    exact shown ⟨hl.spares (hg.concludes.spares.trans hspares), (hl.cmdOf c.cid).trans hbegun,
      htells.mono hg.desk.grows hl.grows⟩
  · refine answers_startCmd (c := c) (fun s _ => show execModeSetFeed cid s = _ from rfl) ?_
    intro d hpre
    refine under_name fun named shown => ?_
    obtain ⟨hstarts, hno, h1, h2, h3, h4⟩ := hpre
    refine shown ⟨hstarts, fun g e hg hl => ?_⟩
    have hmode : modeFeedDev g (begins d c) = finish (setFeed g
        { g.feed with progPower := mA c, timeout := mB c }) (begins d c) (ends 0) := if_pos (by
      simp [between]; exact ⟨⟨h1, h2⟩, h3, h4⟩)
    rw [hmode] at hl
    have hdesk : SameDesk g (setFeed g { g.feed with progPower := mA c, timeout := mB c }) := .of (.same rfl rfl rfl rfl) rfl rfl
    obtain ⟨hwraps, hreplied⟩ := ends_with (c := begins d c) (hg.desk.trans hdesk) hno hg.cmd (lostResult_none rfl) hl
    refine ⟨hg.concludes.spares.trans hwraps.spares, ?_, hreplied⟩
    have hmodels := hwraps.models
    unfold ModelsOnly at hmodels
    rw [hmodels]
    show ({ g.feed with progPower := mA c, timeout := mB c, models := e.feed.models } : Feed) = _
    rw [hg.frame]
  · refine answers_startCmd (c := c) (fun s _ => show execModeSetGroom cid s = _ from rfl) ?_
    intro d hpre
    refine under_name fun named shown => ?_
    obtain ⟨hstarts, hno, h1, h2, h3⟩ := hpre
    refine shown ⟨hstarts, fun g e hg hl => ?_⟩
    have hmode : modeGroomDev g (begins d c) = finish (setMem g
        { g.mem with groomEnable := mA c == 1, groomPeriod := mB c }) (begins d c) (ends 0) := if_pos (by
      simp [between]; exact ⟨Nat.le_of_lt_succ h1, h2, h3⟩)
    rw [hmode] at hl
    have hdesk : SameDesk g (setMem g { g.mem with groomEnable := mA c == 1, groomPeriod := mB c }) := .of (.same rfl rfl rfl rfl) rfl rfl
    obtain ⟨hwraps, hreplied⟩ := ends_with (c := begins d c) (hg.desk.trans hdesk) hno hg.cmd (lostResult_none rfl) hl
    refine ⟨hwraps.spares.stalls.trans hg.concludes.machine.1, hwraps.spares.mem.trans ?_, hreplied⟩
    show ({ g.mem with groomEnable := mA c == 1, groomPeriod := mB c } : Memory) = _
    rw [hg.frame]
  · refine answers_startCmd (c := c) (fun s _ => show execModeSetQuota cid s = _ from rfl) ?_
    intro d hpre
    refine under_name fun named shown => ?_
    obtain ⟨hstarts, hno, h1, h2, h3⟩ := hpre
    refine shown ⟨hstarts, fun g e hg hl => ?_⟩
    have hmode : modeQuotaDev g (begins d c) = finish { g with host := { g.host with
        quota := mput none g.host.quota (mA c) (some (mB c % 2 ^ 16, mB c / 2 ^ 16)) } } (begins d c) (ends 0) := by
      have hform : mForm (begins d c) = 4 := h1
      unfold modeQuotaDev
      rw [if_neg (not_not_intro hform), if_pos (by simp [between]; exact ⟨h2, h3⟩)]
      rfl
    rw [hmode] at hl
    have hdesk : SameDesk g ({ g with host := { g.host with
      quota := mput none g.host.quota (mA c) (some (mB c % 2 ^ 16, mB c / 2 ^ 16)) } }) := .of (.same rfl rfl rfl rfl) rfl rfl
    obtain ⟨hwraps, hreplied⟩ := ends_with (c := begins d c) (hg.desk.trans hdesk) hno hg.cmd (lostResult_none rfl) hl
    refine ⟨hg.concludes.spares.trans hwraps.spares, hreplied, ?_⟩
    rw [hwraps.quota]
    exact mget_mput_self none g.host.quota (mA c) (some (mB c % 2 ^ 16, mB c / 2 ^ 16))
  · refine answers_startCmd (c := c) (fun s _ => show execModeSetPower cid s = _ from rfl) ?_
    intro d hpre
    refine under_name fun named shown => ?_
    obtain ⟨hstarts, hno, hout⟩ := hpre
    refine shown ⟨hstarts, fun g e hg hl => ?_⟩
    have hmode : modePowerDev g (begins d c) = finish g (begins d c) (ends 0x02) := if_neg (by
      have hA : mA (begins d c) = mA c := rfl
      simp [between, hA]
      omega)
    rw [hmode] at hl
    obtain ⟨hwraps, hreplied⟩ := ends_at_once hg hno (lostResult_none rfl) hl
    exact ⟨hwraps.spares, hwraps.wants, hreplied⟩

/-! ### MODEL_ACTIVATE and MODEL_RETIRE (O36) -/

theorem modelOf_id {d : Dev} {id : Nat} {m : Model} (h : modelOf d id = some m) : m.id = id :=
  beq_iff_eq.mp (List.find?_some (p := fun x : Model => x.id == id) h)

theorem modelOf_congr {d e : Dev} (h : e.feed.models = d.feed.models) (id : Nat) : modelOf e id = modelOf d id := by
  unfold modelOf
  rw [h]

/-- A record of a model replaced under its own id. -/
theorem modelOf_putModel {d : Dev} {id : Nat} {m x : Model} (h : modelOf d id = some m) (hx : x.id = id) (k : Nat) :
    modelOf (putModel d x) k = if k = id then some x else modelOf d k := by
  have hput : (putModel d x).feed.models = d.feed.models.map fun y => if y.id = x.id then x else y := rfl
  have hkeep : ((fun y : Model => y.id == k) ∘ fun y => if y.id = x.id then x else y) = fun y => y.id == k := by
    funext y
    by_cases hy : y.id = x.id
    · simp only [Function.comp_apply, hy, if_true]
    · simp only [Function.comp_apply, if_neg hy]
  unfold modelOf at h ⊢
  rw [hput, List.find?_map, hkeep]
  split
  · next hk =>
    subst hk
    have hm : m.id = k := beq_iff_eq.mp (List.find?_some (p := fun y : Model => y.id == k) h)
    rw [h, Option.map_some, if_pos (hm.trans hx.symm)]
  · next hk =>
    cases hfind : d.feed.models.find? (·.id == k) with
    | none => rfl
    | some y =>
      have hy : y.id = k := beq_iff_eq.mp (List.find?_some (p := fun y : Model => y.id == k) hfind)
      rw [Option.map_some, if_neg]
      omega

theorem markBusy_spec {d : Dev} {id : Nat} {m : Model} (h : modelOf d id = some m) (v : Bool) (k : Nat) :
    modelOf (markBusy d id v) k = (if k = id then some { m with busy := v } else modelOf d k) ∧
      markBusy d id v = { d with feed := { d.feed with models := (markBusy d id v).feed.models } } := by
  have hmark : markBusy d id v = putModel d { m with busy := v } := by
    unfold markBusy
    rw [h]
  rw [hmark]
  exact ⟨modelOf_putModel (x := { m with busy := v }) h (show m.id = id from modelOf_id h) k, rfl⟩

theorem setModelState_spec {d : Dev} {id : Nat} {m : Model} (h : modelOf d id = some m) (v : ModelState) (k : Nat) :
    modelOf (setModelState d id v) k = (if k = id then some { m with state := v } else modelOf d k) ∧
      setModelState d id v = { d with feed := { d.feed with models := (setModelState d id v).feed.models } } := by
  have hset : setModelState d id v = putModel d { m with state := v } := by
    unfold setModelState
    rw [h]
  rw [hset]
  exact ⟨modelOf_putModel (x := { m with state := v }) h (show m.id = id from modelOf_id h) k, rfl⟩

/-- The start of a command makes no record busy. -/
theorem isBusy_starts {d g : Dev} {c : Cmd} {cid id : Nat} (hg : Starts d c g) (hc : cmdOf d cid = some c)
    (h : isBusy d id = false) : isBusy g id = false := by
  have hfeed : g.feed = d.feed := by rw [hg.frame]
  have hcmds : g.host.cmds = d.host.cmds.map fun x => if x.cid = c.cid then begins d c else x := by rw [hg.frame]
  have hmem : c ∈ d.host.cmds := List.mem_of_find?_eq_some hc
  unfold isBusy at h ⊢
  obtain ⟨hmodel, hretire⟩ := Bool.or_eq_false_iff.1 h
  refine Bool.or_eq_false_iff.2 ⟨?_, ?_⟩
  · rw [← hmodel]
    unfold modelOf
    rw [hfeed]
  · unfold retiringNow at hretire ⊢
    rw [List.any_eq_false] at hretire ⊢
    intro x hx
    rw [hcmds] at hx
    obtain ⟨y, hy, rfl⟩ := List.mem_map.1 hx
    split
    · exact hretire c hmem
    · exact hretire y hy

theorem banksMatch_starts {d g : Dev} {c : Cmd} (hg : Starts d c g) (m : Model) : banksMatch g m = banksMatch d m := by
  rw [hg.frame]
  rfl

theorem modelOf_starts {d g : Dev} {c : Cmd} (hg : Starts d c g) (id : Nat) : modelOf g id = modelOf d id :=
  modelOf_congr (by rw [hg.frame]) id

/-- A state in which the record of a model has been changed, and other modules told. -/
theorem wants_spec {d g k e : Dev} {c : Cmd} {w : Want} (hg : Starts d c g)
    (hk : k = { g with out := k.out, pad := { g.pad with ports := k.pad.ports, messageNo := k.pad.messageNo }
                       feed := { g.feed with models := k.feed.models } })
    (hl : Leaves (addWant k w) e) :
    SparesMachine d e ∧ Begun c id d e ∧ e.pad.wants = d.pad.wants ++ [w] ∧ ∀ n, modelOf e n = modelOf k n := by
  have hspares : SparesMachine g (addWant k w) := by
    rw [hk]
    exact ⟨rfl, rfl, rfl, rfl, rfl⟩
  have hcmd : cmdOf (addWant k w) c.cid = some (begins d c) := by
    rw [← hg.cmd]
    unfold cmdOf
    rw [hk]
    rfl
  refine ⟨hl.spares (hg.concludes.spares.trans hspares), (hl.cmdOf c.cid).trans hcmd, hl.wants.trans ?_,
    modelOf_congr (by rw [hl.feed]; rfl)⟩
  have hwants : k.pad.wants = d.pad.wants := by
    rw [hk]
    exact hg.concludes.rest.1
  show k.pad.wants ++ [w] = _
  rw [hwants]

/-- Settles O36. -/
theorem modelCommandsWantEpochs : Obligations.ModelCommandsWantEpochs := by
  refine ⟨fun cid c m => ?_, fun cid c m r => ?_, fun cid c m others => ?_, fun cid c m => ?_, fun cid c m => ?_⟩
  · refine answers_startCmd (c := c) (fun s _ => show execModelActivate cid true s = _ from rfl) ?_
    rintro d ⟨hstarts, hm, hstate, hidle, hrep, hmatch⟩
    refine ⟨hstarts, fun g e hg hl => ?_⟩
    have hmg := (modelOf_starts hg _).trans hm
    obtain ⟨-, hframe⟩ := markBusy_spec hmg true 0
    have hsends := sends_tellAll (markBusy g (c.param 32 2) true) (.activating (c.param 32 2))
    have hdev : modelActivateDev true g (begins d c) = addWant (tellAll (markBusy g (c.param 32 2) true) (.activating (c.param 32 2)))
        { noWant with cid := some c.cid, activate := some (c.param 32 2) } := by
      have hid : (begins d c).param 32 2 = c.param 32 2 := rfl
      have hrid : (begins d c).param 34 2 = 0xFFFF := hrep
      unfold modelActivateDev
      simp only [hid, hrid, isBusy_starts hg hstarts.1 hidle, hmg, hstate, banksMatch_starts hg, hmatch]
      rfl
    rw [hdev] at hl
    unfold Sends at hsends
    obtain ⟨hspares, hbegun, hwants, hmodels⟩ := wants_spec hg (by rw [hsends, hframe]) hl
    refine ⟨hspares, hbegun, ?_, hwants⟩
    have htold : modelOf (tellAll (markBusy g (c.param 32 2) true) (.activating (c.param 32 2))) (c.param 32 2) =
        modelOf (markBusy g (c.param 32 2) true) (c.param 32 2) := modelOf_congr (by rw [hsends]) _
    rw [hmodels, htold, (markBusy_spec hmg true _).1, if_pos rfl, Option.map_some]
  · refine answers_startCmd (c := c) (fun s _ => show execModelActivate cid true s = _ from rfl) ?_
    rintro d ⟨hstarts, hm, hstate, hidle, hrep, hr, hrstate, hridle, hmatch⟩
    refine ⟨hstarts, fun g e hg hl => ?_⟩
    have hne : c.param 34 2 ≠ c.param 32 2 := fun heq => by
      rw [heq, hm] at hr
      obtain rfl := Option.some.inj hr
      rw [hstate] at hrstate
      exact absurd hrstate (by decide)
    have hmg := (modelOf_starts hg _).trans hm
    have hrg := (modelOf_starts hg _).trans hr
    have hsends := sends_tellAll (markBusy g (c.param 32 2) true) (.activating (c.param 32 2))
    have hdev : modelActivateDev true g (begins d c) = addWant
        (setModelState (markBusy (tellAll (markBusy g (c.param 32 2) true) (.activating (c.param 32 2))) (c.param 34 2) true)
          (c.param 34 2) .retiring)
        { noWant with cid := some c.cid, activate := some (c.param 32 2), retire := some (c.param 34 2) } := by
      have hid : (begins d c).param 32 2 = c.param 32 2 := rfl
      have hrid : (begins d c).param 34 2 = c.param 34 2 := rfl
      unfold modelActivateDev
      simp only [hid, hrid, isBusy_starts hg hstarts.1 hidle, isBusy_starts hg hstarts.1 hridle, hmg, hstate,
        banksMatch_starts hg, hmatch]
      rw [if_neg (by simp), if_neg (by simp [hrg]), if_neg (by simp [hrg, hrstate]), if_neg (by simp), if_pos hrep, if_neg hrep]
      rfl
    rw [hdev] at hl
    obtain ⟨-, hframe⟩ := markBusy_spec hmg true 0
    have htold : ∀ n, modelOf (tellAll (markBusy g (c.param 32 2) true) (.activating (c.param 32 2))) n =
        if n = c.param 32 2 then some { m with busy := true } else modelOf g n := fun n => by
      rw [← (markBusy_spec hmg true n).1]
      refine modelOf_congr ?_ n
      unfold Sends at hsends
      rw [hsends]
    have htframe : tellAll (markBusy g (c.param 32 2) true) (.activating (c.param 32 2)) = { g with
        out := (tellAll (markBusy g (c.param 32 2) true) (.activating (c.param 32 2))).out
        pad := { g.pad with
          ports := (tellAll (markBusy g (c.param 32 2) true) (.activating (c.param 32 2))).pad.ports
          messageNo := (tellAll (markBusy g (c.param 32 2) true) (.activating (c.param 32 2))).pad.messageNo }
        feed := { g.feed with
          models := (tellAll (markBusy g (c.param 32 2) true) (.activating (c.param 32 2))).feed.models } } := by
      unfold Sends at hsends
      rw [hsends, hframe]
    generalize tellAll (markBusy g (c.param 32 2) true) (.activating (c.param 32 2)) = t at hl htold htframe
    have hrt : modelOf t (c.param 34 2) = some r := by rw [htold, if_neg hne, hrg]
    have hbusy := markBusy_spec hrt true
    have hset := setModelState_spec ((hbusy (c.param 34 2)).1.trans (if_pos rfl)) .retiring
    obtain ⟨-, hbframe⟩ := hbusy 0
    obtain ⟨-, hsframe⟩ := hset 0
    have hmodel : ∀ n, modelOf (setModelState (markBusy t (c.param 34 2) true) (c.param 34 2) .retiring) n =
        if n = c.param 34 2 then some { r with busy := true, state := .retiring }
        else if n = c.param 32 2 then some { m with busy := true } else modelOf g n := fun n => by
      rw [(hset n).1, (hbusy n).1, htold]
      split <;> rfl
    obtain ⟨hspares, hbegun, hwants, hmodels⟩ := wants_spec hg (by rw [hsframe, hbframe, htframe]) hl
    refine ⟨hspares, hbegun, ?_, ?_, hwants⟩
    · rw [hmodels, hmodel, if_neg hne.symm, if_pos rfl, Option.map_some]
    · rw [hmodels, hmodel, if_pos rfl, Option.map_some]
  · refine answers_startCmd (c := c) (fun s _ => show execModelActivate cid others s = _ from rfl) ?_
    rintro d ⟨hstarts, hno, hm, hstate, hidle, hrep, hbad⟩
    refine ⟨hstarts, fun g e hg hl => ?_⟩
    have hmg := (modelOf_starts hg _).trans hm
    have hdev : modelActivateDev others g (begins d c) = finish g (begins d c) (feedEnds 0x04 0) := by
      have hid : (begins d c).param 32 2 = c.param 32 2 := rfl
      have hrid : (begins d c).param 34 2 = 0xFFFF := hrep
      unfold modelActivateDev
      simp only [hid, hrid, isBusy_starts hg hstarts.1 hidle, hmg, hstate, banksMatch_starts hg, hbad]
      rfl
    rw [hdev] at hl
    obtain ⟨hwraps, hreplied⟩ := ends_at_once hg hno (lostResult_none rfl) hl
    exact ⟨hwraps.spares, hwraps.models, hwraps.wants, hreplied⟩
  · refine answers_startCmd (c := c) (fun s _ => show execModelRetire cid s = _ from rfl) ?_
    rintro d ⟨hstarts, hno, hm, hstate, hidle⟩
    refine ⟨hstarts, fun g e hg hl => ?_⟩
    have hmg := (modelOf_starts hg _).trans hm
    have hdev : modelRetireDev g (begins d c) = finishAll (dropModel g (c.param 32 2)) (begins d c) (ends 0) := by
      have hid : (begins d c).param 32 2 = c.param 32 2 := rfl
      unfold modelRetireDev
      simp only [hid, isBusy_starts hg hstarts.1 hidle, hmg, hstate]
      rfl
    rw [hdev] at hl
    have hdesk : SameDesk g (dropModel g (c.param 32 2)) := .of (.same rfl rfl rfl rfl) rfl rfl
    have hgone : modelOf (dropModel g (c.param 32 2)) (c.param 32 2) = none := by
      unfold modelOf
      rw [List.find?_eq_none]
      intro x hx
      simpa using (List.mem_filter.1 hx).2
    have hothers : Machine.others (dropModel g (c.param 32 2)) = Machine.others d := hg.concludes.others
    obtain ⟨hwraps, hreplied, hkeeps⟩ := endsAll_with (k := dropModel g (c.param 32 2)) (hg.desk.trans hdesk) hno hg.cmd rfl hothers
      (lostResult_none rfl) hl
    exact ⟨hg.concludes.spares.trans hwraps.machine.1, modelOf_none hkeeps hgone, hreplied⟩
  · refine answers_startCmd (c := c) (fun s _ => show execModelRetire cid s = _ from rfl) ?_
    rintro d ⟨hstarts, hm, hstate, hidle⟩
    refine ⟨hstarts, fun g e hg hl => ?_⟩
    have hmg := (modelOf_starts hg _).trans hm
    have hdev : modelRetireDev g (begins d c) = addWant (setModelState (markBusy g (c.param 32 2) true) (c.param 32 2) .retiring)
        { noWant with cid := some c.cid, retire := some (c.param 32 2) } := by
      have hid : (begins d c).param 32 2 = c.param 32 2 := rfl
      unfold modelRetireDev
      simp only [hid, isBusy_starts hg hstarts.1 hidle, hmg, hstate]
      rfl
    rw [hdev] at hl
    have hbusy := markBusy_spec hmg true
    have hset := setModelState_spec ((hbusy (c.param 32 2)).1.trans (if_pos rfl)) .retiring
    obtain ⟨-, hbframe⟩ := hbusy 0
    obtain ⟨-, hsframe⟩ := hset 0
    obtain ⟨hspares, hbegun, hwants, hmodels⟩ := wants_spec hg (by rw [hsframe, hbframe]) hl
    refine ⟨hspares, hbegun, ?_, hwants⟩
    rw [hmodels, (hset _).1, if_pos rfl]

/-! ### Common checks and reports (O33) -/

/-- A record that host memory takes counts nothing, and leaves every ring but its own. -/
theorem postRecord_fits {d : Dev} {r : Nat} (rc : Record) (h : ∀ x, ringOf d r = some x → x.failAt ≠ some x.posted) :
    (postRecord d r rc).ctr = d.ctr ∧
      ∀ q x, ringOf d q = some x → x.type ≠ .comp → ringOf (postRecord d r rc) q = some x := by
  have hset : ∀ (g : Dev) (x y : Ring), ringOf d r = some x → x.type = .comp → (∀ q, ringOf g q = ringOf d q) →
      ∀ q z, ringOf d q = some z → z.type ≠ .comp → ringOf (setRing g r (some y)) q = some z := by
    intro g x y hx hcomp hrings q z hz hne
    have hq : q ≠ r := fun heq => by
      rw [heq, hx] at hz
      exact hne (Option.some.inj hz ▸ hcomp)
    rw [← hz, ← hrings q]
    unfold ringOf setRing
    exact mget_mput_ne none g.host.rings (some y) hq
  have hmsix : ∀ (g : Dev) fn v, (sendMsix g fn v).ctr = g.ctr ∧ ∀ q, ringOf (sendMsix g fn v) q = ringOf g q := by
    intro g fn v
    unfold sendMsix
    dsimp only
    split <;> exact ⟨rfl, fun _ => rfl⟩
  unfold postRecord
  split
  · exact ⟨rfl, fun _ _ hx _ => hx⟩
  · next x hx =>
    split
    · exact ⟨rfl, fun _ _ hx _ => hx⟩
    · next hcomp =>
      have hcomp : x.type = .comp := Decidable.byContradiction fun hne => hcomp (.inr hne)
      split
      · exact ⟨rfl, hset d x _ hx hcomp fun _ => rfl⟩
      · unfold writeRecord
        rw [if_neg (h x hx)]
        unfold coalesce
        split
        · exact ⟨(hmsix ..).1, fun q z hz hne => ((hmsix ..).2 q).trans (hset (emit d _) x _ hx hcomp (fun _ => rfl) q z hz hne)⟩
        · exact ⟨rfl, hset (emit d _) x _ hx hcomp fun _ => rfl⟩

theorem SendsModels.rings {d e : Dev} (h : SendsModels d e) : e.host.rings = d.host.rings := by rw [h.host.1]

/-- The end of a command whose record host memory takes. -/
theorem endNow_fits {d : Dev} {c : Cmd} (e : Ends) (h : RecordFits d c) :
    (endNow d c e).ctr = d.ctr ∧ ∀ q x, ringOf d q = some x → x.type ≠ .comp → ringOf (endNow d c e) q = some x := by
  have haway := sends_freeAway d c
  have hnote := (sendsModels_noteReply (dropCmd (freeAway d c) c.cid) c).host
  have hconc : (concluded d c).ctr = d.ctr ∧ ∀ q, ringOf (concluded d c) q = ringOf d q := by
    unfold Sends at haway
    refine ⟨hnote.2.trans ?_, fun q => ?_⟩
    · rw [haway]
      rfl
    · unfold ringOf concluded
      rw [hnote.1, haway]
      rfl
  cases hlead : c.lead with
  | some id =>
    have hsends := sends_sendMsg (concluded d c) 0 (.answer id e.status e.result e.value0 e.value1 e.bytes)
    rw [endNow_lead e hlead]
    unfold Sends at hsends
    rw [hsends]
    exact ⟨hconc.1, fun q x hx _ => (hconc.2 q).trans hx⟩
  | none =>
    have hover : (handedOver d c e).ctr = d.ctr ∧ ∀ q, ringOf (handedOver d c e) q = ringOf d q := by
      unfold handedOver
      split
      · exact hconc
      · exact hconc
    rw [endNow_own e hlead]
    split
    · have hmsix : ∀ (g : Dev) fn v, (sendMsix g fn v).ctr = g.ctr ∧ (sendMsix g fn v).host.rings = g.host.rings := by
        intro g fn v
        unfold sendMsix
        dsimp only
        split <;> exact ⟨rfl, rfl⟩
      refine ⟨(hmsix ..).1.trans hover.1, fun q x hx _ => ?_⟩
      rw [← hx, ← hover.2 q]
      unfold ringOf postMailbox
      rw [(hmsix ..).2]
    · split
      · exact ⟨hover.1, fun q x hx _ => (hover.2 q).trans hx⟩
      · next s hs =>
        obtain ⟨hctr, hrings⟩ := postRecord_fits (d := handedOver d c e) (r := s.bind)
          (recordOf c (if lostResult c e then 0x07 else e.status) e.result e.value0 e.value1 0)
          fun x hx => h s x ((hover.2 _).symm.trans hs) ((hover.2 _).symm.trans hx)
        exact ⟨hctr.trans hover.1, fun q x hx hne => hrings q x ((hover.2 q).trans hx) hne⟩

theorem finish_fits {d : Dev} {c : Cmd} (e : Ends) (hno : NoneWaits d) (h : RecordFits d c) :
    (finish d c e).ctr = d.ctr ∧ ∀ q x, ringOf d q = some x → x.type ≠ .comp → ringOf (finish d c e) q = some x := by
  rw [finish_eq hno]
  unfold endCmd
  split
  · exact endNow_fits e h
  · exact ⟨rfl, fun _ _ hx _ => hx⟩

theorem foldl_clearSlot (l : List Nat) (d : Dev) :
    (∀ o, ctrOf (l.foldl clearSlot d) o = if o ∈ l ∧ isCounter o = true then 0 else ctrOf d o) ∧
      l.foldl clearSlot d = { d with ctr := (l.foldl clearSlot d).ctr } := by
  induction l generalizing d with
  | nil => exact ⟨fun o => by simp, rfl⟩
  | cons a l ih =>
    obtain ⟨hctr, hframe⟩ := ih (clearSlot d a)
    have hone : clearSlot d a = { d with ctr := (clearSlot d a).ctr } := by
      unfold clearSlot
      split <;> rfl
    have hat : ∀ o, ctrOf (clearSlot d a) o = if o = a ∧ isCounter o = true then 0 else ctrOf d o := by
      intro o
      unfold clearSlot
      by_cases hc : isCounter a = true
      · rw [if_pos hc]
        have hput : ctrOf (clearCtr d a) o = if o = a then 0 else ctrOf d o := mget_mput 0 d.ctr a o 0
        rw [hput]
        by_cases ho : o = a
        · subst ho
          rw [if_pos rfl, if_pos ⟨rfl, hc⟩]
        · rw [if_neg ho, if_neg fun h => ho h.1]
      · rw [if_neg hc, if_neg]
        rintro ⟨rfl, h⟩
        exact hc h
    rw [List.foldl_cons]
    generalize l.foldl clearSlot (clearSlot d a) = g at hctr hframe ⊢
    refine ⟨fun o => ?_, by rw [hframe, hone]⟩
    rw [hctr, hat]
    by_cases hc : isCounter o = true
    · by_cases hl : o ∈ l
      · rw [if_pos ⟨hl, hc⟩, if_pos ⟨List.mem_cons_of_mem _ hl, hc⟩]
      · by_cases ho : o = a
        · rw [if_neg fun h => hl h.1, if_pos ⟨ho, hc⟩, if_pos ⟨by rw [ho]; exact List.mem_cons_self .., hc⟩]
        · rw [if_neg fun h => hl h.1, if_neg fun h => ho h.1, if_neg fun h => ?_]
          exact (List.mem_cons.1 h.1).elim ho hl
    · rw [if_neg fun h => hc h.2, if_neg fun h => hc h.2, if_neg fun h => hc h.2]

theorem identifyBytes_starts {d g : Dev} {c : Cmd} (hg : Starts d c g) : identifyBytes g = identifyBytes d := by
  rw [hg.frame]
  rfl

theorem identifyBytes_ne_nil (d : Dev) : identifyBytes d ≠ [] := by
  unfold identifyBytes
  refine List.append_ne_nil_of_right_ne_nil _ ?_
  rw [Ne, List.replicate_eq_nil_iff]
  omega

theorem attestBytes_starts {d g : Dev} {c : Cmd} (hg : Starts d c g) (nonce : List Byte) : attestBytes g nonce = attestBytes d nonce := by
  rw [hg.frame]
  rfl

theorem recordFits_starts {d g : Dev} {c : Cmd} (hg : Starts d c g) (h : RecordFits d c) : RecordFits g (begins d c) := by
  have hrings : ∀ r, ringOf g r = ringOf d r := fun r => by
    unfold ringOf
    rw [hg.frame]
  intro s x hs hx
  rw [hrings] at hs hx
  exact h s x hs hx

/-- Every row of the command set starts its command in the same way. -/
theorem commandRows_start (fail : Option Nat) (yes : Bool) : ∀ p ∈ commandRows fail yes, ∀ (cid : Nat) (c : Cmd),
    c.solve = none → ∃ name form f, form c = p.2.2 c ∧
      ∀ s, cmdOf s.dev cid = some c → exec (p.1 cid) s = startCmd name p.2.1 form cid f s := by
  have hrow : ∀ {i : Nat → Instr} {op : Nat} {form : Cmd → Bool} {name : String} {f : Dev → Cmd → Dev},
      (∀ cid s, exec (i cid) s = startCmd name op form cid f s) → ∀ (cid : Nat) (c : Cmd), c.solve = none →
        ∃ name form' f, form' c = form c ∧ ∀ s, cmdOf s.dev cid = some c → exec (i cid) s = startCmd name op form' cid f s :=
    fun h cid c _ => ⟨_, _, _, rfl, fun s _ => h cid s⟩
  have hsolve : ∀ (cid : Nat) (c : Cmd), c.solve = none → ∃ name form' f, form' c = c.solve.isNone ∧
      ∀ s, cmdOf s.dev cid = some c → exec (.solve cid) s = startCmd name 0x32 form' cid f s := by
    intro cid c hc
    refine ⟨"SOLVE", anyForm, solveDev, by rw [hc]; rfl, fun s hs => ?_⟩
    show execSolve cid s = _
    unfold execSolve
    rw [hs, Option.bind_some, hc]
  unfold commandRows
  simp only [List.cons_append, List.nil_append, List.forall_mem_cons, List.not_mem_nil, false_implies, implies_true, and_true]
  exact ⟨hrow fun _ _ => rfl, hrow fun _ _ => rfl, hrow fun _ _ => rfl, hrow fun _ _ => rfl, hrow fun _ _ => rfl, hrow fun _ _ => rfl,
    hrow fun _ _ => rfl, hrow fun _ _ => rfl, hrow fun _ _ => rfl, hrow fun _ _ => rfl, hrow fun _ _ => rfl, hrow fun _ _ => rfl,
    hrow fun _ _ => rfl, hrow fun _ _ => rfl, hrow fun _ _ => rfl, hrow fun _ _ => rfl, hrow fun _ _ => rfl, hsolve,
    hrow fun _ _ => rfl, hrow fun _ _ => rfl, hrow fun _ _ => rfl, hrow fun _ _ => rfl, hrow fun _ _ => rfl, hrow fun _ _ => rfl,
    hrow fun _ _ => rfl, hrow fun _ _ => rfl, hrow fun _ _ => rfl, hrow fun _ _ => rfl⟩

/-- A command whose result bytes host memory does not take. -/
theorem ends_lost {d g e : Dev} {c : Cmd} {x : Ends} (hg : Starts d c g) (hno : NoDrain d) (htwin : d.pad.twinOut = [])
    (hlead : c.lead = none) (hlost : lostResult c x = true) (hl : Leaves (finish g (begins d c) x) e) :
    Recorded c 0x07 x.result x.value0 x.value1 d e := by
  have hend : finish g (begins d c) x = endNow g (begins d c) x := by
    rw [finish_eq (hg.desk.grows.noneWaits hno.noneWaits)]
    exact if_pos (hg.concludes.rest.2.1.trans htwin)
  rw [hend] at hl
  refine hl.recorded (endNow_recorded (c := begins d c) hg.desk (fun _ => if_pos hlost) fun hne => absurd hlead hne)

/-- Settles O33. -/
theorem checksAndReportsOfCommands : Obligations.ChecksAndReportsOfCommands := by
  refine ⟨⟨fun cid c => ?_, fun cid c => ?_, fun cid c => ?_, fun cid c => ?_, fun cid c => ?_⟩,
    fun fail yes p hp cid c k => ⟨?_, ?_⟩⟩
  · refine answers_startCmd (c := c) (fun s _ => show execIdentify cid s = _ from rfl) ?_
    intro d hpre
    refine under_name fun named shown => ?_
    obtain ⟨hstarts, hno, hok⟩ := hpre
    refine shown ⟨hstarts, fun g e hg hl => ?_⟩
    unfold identifyDev at hl
    rw [identifyBytes_starts hg] at hl
    obtain ⟨hwraps, hreplied⟩ := ends_at_once hg hno (lostResult_ok _ hok) hl
    have hdelivers := ends_delivers hg hno (lostResult_ok _ hok) hl
    exact ⟨hwraps.machine.1, hreplied, hdelivers⟩
  · refine answers_startCmd (c := c) (fun s _ => show execIdentify cid s = _ from rfl) ?_
    intro d hpre
    refine under_name fun named shown => ?_
    obtain ⟨hstarts, hno, htwin, hbad, hlead, hring, hlen⟩ := hpre
    refine shown ⟨hstarts, fun g e hg hl => ?_⟩
    have hwraps := (hg.concludes.trans (concludes_finish g (begins d c) { ends 0 with bytes := identifyBytes g })).wraps hl
    refine ⟨hwraps.machine.1, ends_lost hg hno htwin hlead ?_ hl⟩
    have hbytes : takenBytes c { ends 0 with bytes := identifyBytes g } ≠ [] := by
      unfold takenBytes
      rw [if_neg hring, Ne, List.take_eq_nil_iff]
      rintro (h | h)
      · exact hlen h
      · exact identifyBytes_ne_nil g h
    unfold lostResult
    simp [hbytes, hbad]
  · refine answers_startCmd (c := c) (fun s _ => show execAttest cid s = _ from rfl) ?_
    intro d hpre
    refine under_name fun named shown => ?_
    obtain ⟨hstarts, hno, hlen, hdata, hgood, hok⟩ := hpre
    refine shown ⟨hstarts, fun g e hg hl => ?_⟩
    have hdev : attestDev g (begins d c) = finish g (begins d c)
        { ends 0 with value0 := (attestBytes d c.bytes).length, bytes := attestBytes d c.bytes } := by
      have h1 : dResultLen (begins d c).desc = dResultLen c.desc := rfl
      have h2 : (begins d c).dataLen = c.dataLen := rfl
      have h3 : (begins d c).dataFailed = c.dataFailed := rfl
      have h4 : (begins d c).bytes = c.bytes := rfl
      unfold attestDev
      rw [h1, h2, h3, h4, hdata, hgood, attestBytes_starts hg, if_neg (by omega)]
      rfl
    rw [hdev] at hl
    obtain ⟨hwraps, hreplied⟩ := ends_at_once hg hno (lostResult_ok _ hok) hl
    have hdelivers := ends_delivers hg hno (lostResult_ok _ hok) hl
    exact ⟨hwraps.machine.1, hreplied, hdelivers⟩
  · refine answers_startCmd (c := c) (fun s _ => show execTelemetryRead cid s = _ from rfl) ?_
    intro d hpre
    refine under_name fun named shown => ?_
    obtain ⟨hstarts, hno, hgood, hok⟩ := hpre
    refine shown ⟨hstarts, fun g e hg hl => ?_⟩
    have hdev : telemetryDev g (begins d c) = finish g (begins d c) (telemetryEnds g c) := by
      have h1 : telemetryRefusal (begins d c) = none := hgood
      unfold telemetryDev
      rw [h1]
      rfl
    rw [hdev] at hl
    obtain ⟨hwraps, hreplied⟩ := ends_at_once hg hno (lostResult_ok _ hok) hl
    have hdelivers := ends_delivers hg hno (lostResult_ok _ hok) hl
    rw [hg.eq] at hdelivers
    refine ⟨hwraps.machine.1, fun hfits => ?_, hreplied, hdelivers⟩
    rw [hl.ctr, (finish_fits _ (hg.desk.grows.noneWaits hno.noneWaits) (recordFits_starts hg hfits)).1, hg.frame]
  · refine answers_startCmd (c := c) (fun s _ => show execTelemetryReadClear cid s = _ from rfl) ?_
    intro d hpre
    refine under_name fun named shown => ?_
    obtain ⟨hstarts, hno, hgood, hok⟩ := hpre
    refine shown ⟨hstarts, fun g e hg hl => ?_⟩
    obtain ⟨hcleared, hframe⟩ := foldl_clearSlot (tSlots c) g
    have hdev : telemetryClearDev g (begins d c) = finish ((tSlots c).foldl clearSlot g) (begins d c) (telemetryEnds g c) := by
      have h1 : telemetryRefusal (begins d c) = none := hgood
      unfold telemetryClearDev
      rw [h1]
      rfl
    rw [hdev] at hl
    generalize (tSlots c).foldl clearSlot g = k at hcleared hframe hl
    have hdesk : SameDesk g k := by
      rw [hframe]
      exact .of (.same rfl rfl rfl rfl) rfl rfl
    have hcmd : cmdOf k c.cid = some (begins d c) := by
      rw [← hg.cmd, hframe]
      rfl
    have hspares : SparesMachine g k := by
      rw [hframe]
      exact ⟨rfl, rfl, rfl, rfl, rfl⟩
    obtain ⟨hwraps, hreplied⟩ := ends_with (c := begins d c) (hg.desk.trans hdesk) hno hcmd (lostResult_ok _ hok) hl
    have hdelivers := hl.delivers (finish_delivers (c := begins d c) (hg.desk.trans hdesk) hno.noneWaits
      (by rw [hframe, hg.frame]) (lostResult_ok _ hok))
    refine ⟨hg.concludes.spares.trans (hspares.trans hwraps.machine.1), hreplied, ?_, fun hfits o => ?_⟩
    · rw [← hg.eq]
      exact hdelivers
    · have hfits' : RecordFits k (begins d c) := by
        have hgfits := recordFits_starts hg hfits
        rw [hframe]
        exact hgfits
      have hctr : e.ctr = k.ctr :=
        hl.ctr.trans (finish_fits _ ((hg.desk.trans hdesk).grows.noneWaits hno.noneWaits) hfits').1
      have hd : ctrOf g o = ctrOf d o := by
        unfold ctrOf
        rw [hg.frame]
      rw [← hd, ← hcleared o]
      unfold ctrOf
      rw [hctr]
  · intro s hpre
    refine under_name fun named shown => ?_
    obtain ⟨hc, hop, hform, hbegun, hsolve, horder, hdown, hbad, hno⟩ := hpre
    obtain ⟨name, form, f, hform', hexec⟩ := commandRows_start fail yes p hp cid c hsolve
    obtain ⟨e, hl, hrun⟩ := startCmd_refused (name := name) (f := f) hc hop (hform'.trans hform) hbegun horder hdown hbad
    refine shown ⟨_, (hexec s hc).trans hrun, rfl, ?_⟩
    have hcid := cmdOf_cid hc
    obtain ⟨hwraps, hreplied⟩ := ends_with (c := c) (.of (.refl _) rfl rfl) hno (hcid ▸ hc) (lostResult_none rfl) hl
    exact ⟨hwraps.spares, hwraps.attn, hwraps.models, hreplied⟩
  · intro s hpre
    refine under_name fun named shown => ?_
    obtain ⟨hc, hop, hform, hbegun, hsolve, horder, hdown, hok, haway⟩ := hpre
    obtain ⟨name, form, f, hform', hexec⟩ := commandRows_start fail yes p hp cid c hsolve
    obtain ⟨e, hl, hrun⟩ := startCmd_forwards (name := name) (f := f) hc hop (hform'.trans hform) hbegun horder hdown hok haway
    refine shown ⟨_, (hexec s hc).trans hrun, rfl, ?_⟩
    have hcid := cmdOf_cid hc
    refine under_name fun named shown => ?_
    obtain ⟨hspares, hcmd, hattn, hfeed, htells⟩ := forward_spec (d := s.dev) (c := begins s.dev c) (y := c) (hcid ▸ hc)
    exact shown ⟨hl.spares hspares, hl.attn.trans hattn, hl.feed.trans hfeed, (hl.cmdOf c.cid).trans hcmd, htells.mono (.refl _) hl.grows⟩

end Sys2Proof.Machine
end

section
/-! Requests of the sense ADC, its conversions, and the farrier's sweeps (O52). -/

namespace Sys2Proof.Machine

open Sys2Proof

/-- A command that always has an effect answers with it. -/
theorem answers_always {c : Instr} {f : Dev → Dev} {pre : Dev → Prop} {post : Dev → Dev → Prop}
    (hexec : ∀ s, exec c s = always f s) (h : ∀ d, pre d → post d { f d with draws := (f d).draws + 1 }) :
    Answers c pre post :=
  fun s hp => ⟨_, hexec s, rfl, h s.dev hp⟩

/-! ### Requests -/

theorem length_addRequest (l : List Request) (r : Request) : (addRequest l r).length = l.length + 1 := by
  unfold addRequest
  split
  · have hsplit := congrArg List.length (List.takeWhile_append_dropWhile (p := fun x : Request => x.who == .thermal) (l := l))
    simp only [List.length_append, List.length_cons] at hsplit ⊢
    omega
  · simp

theorem mem_addRequest (l : List Request) (r x : Request) : x ∈ addRequest l r ↔ x = r ∨ x ∈ l := by
  unfold addRequest
  split
  · have hsplit : x ∈ l ↔ x ∈ l.takeWhile (fun x => x.who == .thermal) ∨ x ∈ l.dropWhile (fun x => x.who == .thermal) := by
      rw [← List.mem_append, List.takeWhile_append_dropWhile]
    rw [List.mem_append, List.mem_cons, hsplit]
    tauto
  · simp [or_comm]

/-- The requests that wait after those of a list of channels. -/
def asked (who : Requester) (l : List (Nat × BitVec 12)) (w : List Request) : List Request :=
  l.foldl (fun w p => addRequest w { who := who, channel := p.1, dac := p.2 }) w

theorem foldl_request (who : Requester) (l : List (Nat × BitVec 12)) (s : Sense) :
    l.foldl (request who) s = { s with waiting := asked who l s.waiting } := by
  induction l generalizing s with
  | nil => rfl
  | cons p ps ih => rw [List.foldl_cons, ih]; rfl

theorem length_asked (who : Requester) (l : List (Nat × BitVec 12)) (w : List Request) :
    (asked who l w).length = w.length + l.length := by
  induction l generalizing w with
  | nil => rfl
  | cons p ps ih =>
    have hrest := ih (addRequest w { who := who, channel := p.1, dac := p.2 })
    rw [length_addRequest] at hrest
    rw [List.length_cons]
    exact hrest.trans (by omega)

theorem mem_asked {who : Requester} {l : List (Nat × BitVec 12)} {w : List Request} {x : Request} :
    x ∈ asked who l w ↔ (∃ p ∈ l, x = { who := who, channel := p.1, dac := p.2 }) ∨ x ∈ w := by
  induction l generalizing w with
  | nil => simp [asked]
  | cons p ps ih =>
    have hrest := ih (w := addRequest w { who := who, channel := p.1, dac := p.2 })
    rw [mem_addRequest] at hrest
    exact hrest.trans (by rw [List.exists_mem_cons_iff, or_assoc]; exact or_left_comm)

/-- The scan requests channels 0 to 62, and the check conversions unless they have been requested. -/
theorem scan_spec (s : Sense) :
    ∃ w, (if (((List.range 63).map fun n => (n, (0 : BitVec 12))).foldl (request .thermal) s).checksAsked
        then ((List.range 63).map fun n => (n, (0 : BitVec 12))).foldl (request .thermal) s
        else { (List.replicate 4 (63, (0x800 : BitVec 12))).foldl (request .check)
          (((List.range 63).map fun n => (n, (0 : BitVec 12))).foldl (request .thermal) s) with checksAsked := true })
        = { s with waiting := w, checksAsked := true } ∧
      w.length = s.waiting.length + 63 + (if s.checksAsked then 0 else 4) ∧
      ∀ n, n < 63 → { who := .thermal, channel := n, dac := 0 : Request } ∈ w := by
  rw [foldl_request, foldl_request]
  have hmem : ∀ n, n < 63 → ({ who := .thermal, channel := n, dac := 0 } : Request) ∈
      asked .thermal ((List.range 63).map fun n => (n, (0 : BitVec 12))) s.waiting := fun n hn =>
    mem_asked.2 (.inl ⟨(n, 0), List.mem_map.2 ⟨n, List.mem_range.2 hn, rfl⟩, rfl⟩)
  by_cases h : s.checksAsked = true
  · refine ⟨_, (if_pos h).trans (by congr), ?_, hmem⟩
    rw [length_asked, if_pos h]
    simp
  · refine ⟨_, if_neg h, ?_, fun n hn => mem_asked.2 (.inr (hmem n hn))⟩
    rw [length_asked, length_asked, if_neg h]
    simp

theorem startSweep_spec (s : Sense) :
    ∃ w, startSweep s = { s with waiting := w, sweeping := true, sweepWaiting := false, sweepCodes := [] } ∧
      w.length = s.waiting.length + 64 := by
  refine ⟨_, by unfold startSweep; dsimp only; rw [foldl_request], ?_⟩
  rw [length_asked]
  simp

/-! ### Conversions -/

/-- The accumulators after a code of a channel. -/
theorem live_accumulate (s : Sense) (n : Nat) (c : Int) :
    (mget none s.live n = none → mget none (accumulate s n c).live n = some { sum := c, count := 1, mn := c, mx := c }) ∧
    (∀ a, mget none s.live n = some a → mget none (accumulate s n c).live n =
      some { sum := a.sum + c, count := a.count + 1, mn := min a.mn c, mx := max a.mx c }) ∧
    ∀ m, m ≠ n → mget none (accumulate s n c).live m = mget none s.live m := by
  unfold accumulate
  dsimp only
  refine ⟨fun h => ?_, fun a h => ?_, fun m hm => mget_mput_ne none s.live _ hm⟩
  · rw [mget_mput_self, h]
  · rw [mget_mput_self, h]

theorem length_groupMeans (s : Sense) : (groupMeans s).length = 7 := by simp [groupMeans]

theorem length_sweepFits (draw : Nat) : (sweepFits draw).length = 64 := by simp [sweepFits]

theorem length_sweepTables (draw : Nat) : (sweepTables draw).length = 14 := by simp [sweepTables]

theorem checkRefit_none {d : Dev} (h : refitNow d = none) : checkRefit d = d := by
  unfold checkRefit
  rw [h]

/-- A REFIT that still waits for the fit of a Ready or Live bank is not asked for yet. -/
theorem checkRefit_waits {d : Dev} {cid k : Nat} {l : List (Nat × Option Corr)} {b : Bank}
    (h : refitNow d = some (cid, true, l)) (hb : (k, b) ∈ d.banks) (hs : b.state = .ready ∨ b.state = .live)
    (hl : ∀ f ∈ l, f.1 ≠ k) : checkRefit d = d := by
  have hwaits : (d.banks.all fun p => !(p.2.state == .ready || p.2.state == .live) || l.any fun f => f.1 == p.1) = false := by
    rw [List.all_eq_false]
    refine ⟨_, hb, ?_⟩
    have hnone : ∀ x, (k, x) ∉ l := fun x hx => hl _ hx rfl
    rcases hs with hs | hs <;> simpa [hs] using hnone
  unfold checkRefit
  rw [h]
  exact if_neg (by rw [hwaits]; exact Bool.false_ne_true)

/-- A code has joined those of the sweep, and the ADC is idle. -/
def codeTaken (d : Dev) (c : Int) : Dev :=
  setSense d { d.sense with adc := none, sweepCodes := d.sense.sweepCodes ++ [c] }

/-- The last code of a sweep ends it. -/
theorem exec_lastCode {s : State} {raw : Int} {n : Nat} {dac : BitVec 12}
    (hadc : s.dev.sense.adc = some { who := .sweep, channel := n, dac := dac }) (hlen : s.dev.sense.sweepCodes.length = 63)
    {e : Dev} (he : checkRefit (endSweep (codeTaken s.dev (corrected s.dev.sense n raw))) = e) :
    exec (.senseConversionEnd raw) s = .next { s with dev := { e with draws := e.draws + 1 } } := by
  have hcodes : (codeTaken s.dev (corrected s.dev.sense n raw)).sense.sweepCodes.length = 64 := by
    simp [codeTaken, setSense, hlen]
  have hrun : execSenseConversionEnd raw s = onDev "SENSE_CONVERSION_END" (fun _ =>
      some (if (codeTaken s.dev (corrected s.dev.sense n raw)).sense.sweepCodes.length = 64
        then checkRefit (endSweep (codeTaken s.dev (corrected s.dev.sense n raw)))
        else codeTaken s.dev (corrected s.dev.sense n raw))) s := by
    unfold execSenseConversionEnd onDev
    simp only [hadc]
    rfl
  show execSenseConversionEnd raw s = _
  rw [hrun, if_pos hcodes, he]
  rfl

/-- Settles O52: the requests and the conversions are what the sense block does with its state, and the end of a sweep leaves
its results where a REFIT, or the window's end, finds them. -/
theorem conversionsAreRequestedAndAccumulated : Obligations.ConversionsAreRequestedAndAccumulated := by
  unfold Obligations.ConversionsAreRequestedAndAccumulated
  refine ⟨?_, ?_, ?_, ?_, ?_, ?_, ?_, ?_, ?_⟩
  case refine_1 =>
    refine answers_onDev (fun s => show execSenseScan s = _ from rfl) fun d hd => ?_
    obtain ⟨hs, hh⟩ := hd
    obtain ⟨w, hw, hlen, hmem⟩ := scan_spec d.sense
    refine ⟨setSense d { d.sense with waiting := w, checksAsked := true }, ?_, rfl, hlen, hmem⟩
    rw [if_neg (by rw [hs, hh]; decide)]
    exact congrArg (fun s => some (setSense d s)) hw
  case refine_2 =>
    intro r rs
    refine answers_onDev (fun s => show execSenseConversionStart s = _ from rfl) fun d hd => ?_
    obtain ⟨ha, hw⟩ := hd
    exact ⟨_, by rw [ha, hw], rfl⟩
  case refine_3 =>
    intro raw n dac c
    refine answers_onDev (fun s => show execSenseConversionEnd raw s = _ from rfl) fun d hd => ?_
    obtain ⟨ha, rfl⟩ := hd
    refine ⟨setSense d (accumulate { d.sense with adc := none } n (corrected d.sense n raw)), by rw [ha], rfl, ?_⟩
    exact live_accumulate { d.sense with adc := none } n (corrected d.sense n raw)
  case refine_4 =>
    intro raw n dac
    refine answers_onDev (fun s => show execSenseConversionEnd raw s = _ from rfl) fun d hd => ?_
    exact ⟨_, by rw [hd], rfl⟩
  case refine_5 =>
    intro raw n dac
    refine answers_onDev (fun s => show execSenseConversionEnd raw s = _ from rfl) fun d hd => ?_
    obtain ⟨ha, hlen⟩ := hd
    refine ⟨setSense d { d.sense with adc := none, sweepCodes := d.sense.sweepCodes ++ [corrected d.sense n raw] }, ?_, rfl⟩
    rw [ha]
    exact congrArg some (if_neg (by simp [setSense]; omega))
  case refine_6 =>
    intro raw n dac s hp
    obtain ⟨ha, hlen, hr, hsr⟩ := hp
    obtain ⟨f, hf⟩ : ∃ f, codeTaken s.dev (corrected s.dev.sense n raw) = f := ⟨_, rfl⟩
    have hsense : f.sense.refits = none ∧ f.sense.sweepRefit = false := by subst hf; exact ⟨hr, hsr⟩
    have hnone : refitNow (endSweep f) = none := by
      unfold refitNow endSweep setSense
      simp [hsense]
    refine ⟨_, exec_lastCode ha hlen ((congrArg _ (congrArg _ hf)).trans (checkRefit_none hnone)), rfl, ?_⟩
    subst hf
    simp [endSweep, codeTaken, setSense, hsr, SparesMachine, length_sweepFits, length_sweepTables]
    rfl
  case refine_7 =>
    intro raw n dac cid l k c s hp
    obtain ⟨ha, hlen, hsr, hr, hcmd, ⟨b, hb, hbs⟩, hfresh⟩ := hp
    obtain ⟨f, hf⟩ : ∃ f, codeTaken s.dev (corrected s.dev.sense n raw) = f := ⟨_, rfl⟩
    have hcmd' : ∀ h : Dev, h.host = s.dev.host → cmdOf h cid = some c := fun h he => by
      unfold cmdOf at hcmd ⊢
      rw [he]
      exact hcmd
    have hheld : (f.sense.sweepRefit && (refitNow f).isSome) = true := by
      have hnow : refitNow f = some (cid, false, l) := by
        subst hf
        unfold refitNow
        show Option.filter _ s.dev.sense.refits = _
        rw [hr]
        exact Option.filter_some_pos (congrArg Option.isSome (hcmd' _ rfl))
      rw [hnow]
      subst hf
      exact (Bool.and_true _).trans hsr
    have hnow : refitNow (endSweep f) = some (cid, true, l) := by
      have hrefits : (endSweep f).sense.refits = some (cid, true, l) := by
        unfold endSweep
        simp only [setSense, hheld]
        subst hf
        simp [codeTaken, setSense, hr]
      unfold refitNow
      rw [hrefits]
      exact Option.filter_some_pos (congrArg Option.isSome (hcmd' _ (by subst hf; rfl)))
    have hsame : checkRefit (endSweep f) = endSweep f := checkRefit_waits hnow (by subst hf; exact hb) hbs hfresh
    refine ⟨_, exec_lastCode ha hlen ((congrArg _ (congrArg _ hf)).trans hsame), rfl, ?_⟩
    unfold endSweep
    simp only [setSense, hheld]
    subst hf
    simp [codeTaken, setSense, SparesMachine, length_sweepFits, length_sweepTables, hr]
  case refine_8 =>
    refine answers_onDev (fun s => show execCalSweep s = _ from rfl) fun d hd => ?_
    obtain ⟨hs, hsw, hw, hdue, ha⟩ := hd
    obtain ⟨w, hstart, hlen⟩ := startSweep_spec { d.sense with sweepRefit := refitSweep d }
    refine ⟨setSense d (startSweep { d.sense with sweepRefit := refitSweep d }), ?_, ?_⟩
    · rw [if_neg (by simp [hs, hsw, hw, hdue])]
      simp only [ha]
    · rw [hstart]
      exact ⟨⟨rfl, rfl, rfl, rfl, rfl⟩, rfl, rfl, rfl, hlen⟩
  case refine_9 =>
    intro dac
    refine answers_onDev (fun s => show execCalSweep s = _ from rfl) fun d hd => ?_
    obtain ⟨hs, hsw, hw, hdue, ha⟩ := hd
    refine ⟨setSense d { d.sense with sweepRefit := refitSweep d, sweepWaiting := true }, ?_, rfl⟩
    rw [if_neg (by simp [hs, hsw, hw, hdue])]
    simp only [ha]

end Sys2Proof.Machine
end

section
/-! The end of a sense window, and what a reset of the module leaves (O53). -/

namespace Sys2Proof.Machine

open Sys2Proof

/-! ### Maps whose values a function has changed -/

section
variable {α : Type}

/-- What a map answers is its default or one of its values. -/
theorem mget_or_mem (d : α) (m : Map α) (k : Nat) : mget d m k = d ∨ (k, mget d m k) ∈ m := by
  induction m with
  | nil => exact .inl rfl
  | cons p m ih =>
    obtain ⟨i, v⟩ := p
    by_cases h : i = k
    · subst h
      right
      simp [mget]
    · rw [show mget d ((i, v) :: m) k = mget d m k by simp [mget, h]]
      exact ih.imp_right (List.mem_cons_of_mem _)

/-- What holds of the default and of every value of a map holds of what it answers. -/
theorem mget_all {P : α → Prop} {d : α} {m : Map α} (hd : P d) (hm : ∀ p ∈ m, P p.2) (k : Nat) : P (mget d m k) := by
  rcases mget_or_mem d m k with h | h
  · rwa [h]
  · exact hm _ h

theorem mget_of_notMem {d : α} {m : Map α} {k : Nat} (h : k ∉ m.map Prod.fst) : mget d m k = d := by
  rcases mget_or_mem d m k with hk | hk
  · exact hk
  · exact absurd (List.mem_map_of_mem (f := Prod.fst) hk) h

theorem mget_cons_self (d : α) (m : Map α) (k : Nat) (v : α) : mget d ((k, v) :: m) k = v := by simp [mget]

theorem mget_cons_ne {d : α} {m : Map α} {i k : Nat} {v : α} (h : i ≠ k) : mget d ((i, v) :: m) k = mget d m k := by
  simp [mget, h]

/-- Every listed value has changed to what `f` makes of it, and those that read as the default are not listed any more. -/
def remapped [DecidableEq α] (d : α) (m : Map α) (f : Nat → α → α) : Map α :=
  (m.map fun p => (p.1, f p.1 p.2)).filter fun p => p.2 != d

theorem fst_remapped [DecidableEq α] {d : α} {m : Map α} {f : Nat → α → α} {k : Nat}
    (h : k ∈ (remapped d m f).map Prod.fst) : k ∈ m.map Prod.fst := by
  unfold remapped at h
  obtain ⟨p, hp, rfl⟩ := List.mem_map.1 h
  obtain ⟨q, hq, rfl⟩ := List.mem_map.1 (List.mem_of_mem_filter hp)
  exact List.mem_map.2 ⟨q, hq, rfl⟩

theorem mget_remapped [DecidableEq α] {d : α} {m : Map α} (hm : (m.map Prod.fst).Nodup) (f : Nat → α → α) (k : Nat) :
    mget d (remapped d m f) k = if k ∈ m.map Prod.fst then f k (mget d m k) else d := by
  induction m with
  | nil => rfl
  | cons p m ih =>
    obtain ⟨i, v⟩ := p
    rw [List.map_cons, List.nodup_cons] at hm
    have hcons : remapped d ((i, v) :: m) f = if f i v = d then remapped d m f else (i, f i v) :: remapped d m f := by
      unfold remapped
      by_cases h : f i v = d <;> simp [h]
    by_cases hk : i = k
    · subst hk
      have hno : i ∉ (remapped d m f).map Prod.fst := fun h => hm.1 (fst_remapped h)
      have hself : mget d (if f i v = d then remapped d m f else (i, f i v) :: remapped d m f) i = f i v := by
        split
        · next h => rw [h, mget_of_notMem hno]
        · exact mget_cons_self ..
      rw [hcons, hself, mget_cons_self]
      exact (if_pos (List.mem_cons_self ..)).symm
    · have hrest := ih hm.2
      have hmem : (k ∈ List.map Prod.fst ((i, v) :: m)) ↔ k ∈ m.map Prod.fst := by
        simp [Ne.symm hk]
      rw [hcons, mget_cons_ne hk]
      simp only [hmem]
      rw [← hrest]
      split
      · rfl
      · exact mget_cons_ne hk

end

/-! ### Resets (R585) -/

theorem store_keptStall (x : Stall) : (keptStall x).store = [] := rfl

/-- A reset leaves the module booting: its record is what was given. -/
theorem moduleReset_resets (d : Dev) (record : Option Nat) : ResetWith record d (moduleReset d record) := by
  refine ⟨rfl, rfl, rfl, rfl, rfl, rfl, rfl, rfl, fun st => ?_⟩
  refine mget_all (P := fun x : Stall => x.store = []) rfl (fun p hp => ?_) st
  obtain ⟨q, -, rfl⟩ := List.mem_map.1 (List.mem_of_mem_filter hp)
  exact store_keptStall q.2

theorem powerOff_resets (d : Dev) (record : Option Nat) : ResetWith record d (powerOff d record) :=
  moduleReset_resets d record

/-- What happens on the board alone after a reset leaves it a reset. -/
theorem ResetWith.board {record : Option Nat} {d e f : Dev} (h : ResetWith record d e)
    (hf : f = { e with draws := f.draws, board := f.board, sense := f.sense })
    (hcause : f.board.causeRecord = e.board.causeRecord) : ResetWith record d f := by
  unfold ResetWith stallOf at *
  rw [hcause]
  rw [hf]
  exact h

/-! ### The windows of the thermal loop (R563 to R583) -/

/-- A window's checks and controls: of the sense block only what they regulate has changed, and events may have been raised;
with a failed ADC the limiter's controls stand (R566). -/
def Regulates (d e : Dev) : Prop :=
  Signals { d with sense := e.sense } e ∧
  e.sense = { d.sense with
    failedRuns := e.sense.failedRuns, failed := e.sense.failed, hot := e.sense.hot, thermalW := e.sense.thermalW
    throttling := e.sense.throttling, coolRun := e.sense.coolRun, unmetRun := e.sense.unmetRun
    unmetRaised := e.sense.unmetRaised, inputW := e.sense.inputW, duty := e.sense.duty, gate := e.sense.gate } ∧
  (d.sense.adcFail = true → e.sense.duty = d.sense.duty ∧ e.sense.gate = d.sense.gate)

theorem Regulates.refl (d : Dev) : Regulates d d := ⟨.refl d, rfl, fun _ => ⟨rfl, rfl⟩⟩

theorem Regulates.trans {d e f : Dev} (h : Regulates d e) (g : Regulates e f) : Regulates d f := by
  obtain ⟨hs, hr, hc⟩ := h
  obtain ⟨gs, gr, gc⟩ := g
  have hfail : e.sense.adcFail = d.sense.adcFail := by rw [hr]
  refine ⟨?_, ?_, fun hf => ?_⟩
  · unfold Signals at *
    rw [hs] at gs
    exact gs
  · rw [hr] at gr
    exact gr
  · obtain ⟨cduty, cgate⟩ := hc hf
    obtain ⟨gduty, ggate⟩ := gc (hfail.trans hf)
    exact ⟨gduty.trans cduty, ggate.trans cgate⟩

theorem Signals.regulates {d e : Dev} (h : Signals d e) : Regulates d e := by
  have hsense : e.sense = d.sense := by
    unfold Signals at h
    rw [h]
  refine ⟨?_, by rw [hsense], fun _ => by rw [hsense]; exact ⟨rfl, rfl⟩⟩
  rw [hsense]
  exact h

theorem regulates_foldl {α : Type} {f : Dev → α → Dev} (hf : ∀ d a, Regulates d (f d a)) :
    ∀ (l : List α) (d : Dev), Regulates d (l.foldl f d)
  | [], d => .refl d
  | a :: l, d => (hf d a).trans (regulates_foldl hf l (f d a))

theorem regulates_raiseEvent (d : Dev) (fn cls code a b : Nat) : Regulates d (raiseEvent d fn cls code a b) :=
  (signals_raiseEvent ..).regulates

theorem regulates_bumpBy (d : Dev) (o n : Nat) : Regulates d (bumpBy d o n) := (signals_bumpBy d o n).regulates

/-- A change of the sense block that leaves the controls alone. -/
theorem regulates_setSense {d : Dev} {s : Sense} (h : s = { d.sense with
    failedRuns := s.failedRuns, failed := s.failed, hot := s.hot, thermalW := s.thermalW
    throttling := s.throttling, coolRun := s.coolRun, unmetRun := s.unmetRun
    unmetRaised := s.unmetRaised, inputW := s.inputW }) : Regulates d (setSense d s) := by
  have hcontrols : s.duty = d.sense.duty ∧ s.gate = d.sense.gate := by rw [h]; exact ⟨rfl, rfl⟩
  obtain ⟨hduty, hgate⟩ := hcontrols
  refine ⟨rfl, ?_, fun _ => ⟨hduty, hgate⟩⟩
  show s = _
  rw [h]
  rfl

theorem regulates_raised {d : Dev} {s : Sense} {fn cls code a b : Nat} (h : s = { d.sense with
    failedRuns := s.failedRuns, failed := s.failed, hot := s.hot, thermalW := s.thermalW
    throttling := s.throttling, coolRun := s.coolRun, unmetRun := s.unmetRun
    unmetRaised := s.unmetRaised, inputW := s.inputW }) : Regulates d (raiseEvent (setSense d s) fn cls code a b) :=
  (regulates_setSense h).trans (regulates_raiseEvent ..)

theorem regulates_checkChannel (before : Sense) (d : Dev) (n : Nat) : Regulates d (checkChannel before d n) := by
  unfold checkChannel
  dsimp only
  generalize (if failsCheck before n then mget 0 d.sense.failedRuns n + 1 else 0) = runs
  split
  · exact .refl d
  · split
    · exact regulates_setSense rfl
    · refine .trans ?_ (regulates_raised ?_)
      · exact regulates_setSense rfl
      · rfl

theorem regulates_throttleWindow (d : Dev) (dram : List Int) : Regulates d (throttleWindow d dram) := by
  unfold throttleWindow
  dsimp only
  generalize (hotSources d.sense dram).foldl (fun m n => mput false m n true) [] = hot
  have hstart : Regulates d (setSense d { d.sense with hot := hot, thermalW := thermalLimit d }) := regulates_setSense rfl
  generalize setSense d { d.sense with hot := hot, thermalW := thermalLimit d } = e at hstart ⊢
  refine hstart.trans ?_
  split
  · have hthrottles : Regulates e (if e.sense.throttling = true then e else
        raiseEvent (setSense e { e.sense with throttling := true, thermalW := effectiveLimit e }) 0xFFFF 5 0x21
          (pickOne e.draws 8 (hotSources d.sense dram))
          (readingBits (sourceReading e.sense dram (pickOne e.draws 8 (hotSources d.sense dram))))) := by
      split
      · exact .refl e
      · exact regulates_raised rfl
    refine hthrottles.trans ?_
    generalize (if e.sense.throttling = true then e else _) = f
    have hcounts : Regulates f (if max 500 (f.sense.thermalW - 25) < f.sense.thermalW then bump f 0x10050 else f) := by
      split
      · exact regulates_bumpBy ..
      · exact .refl f
    exact hcounts.trans (regulates_setSense rfl)
  · split
    · exact .refl e
    · split
      · exact regulates_setSense rfl
      · split
        · exact regulates_setSense rfl
        · split
          · exact regulates_setSense rfl
          · refine .trans ?_ (regulates_raised ?_)
            · exact regulates_setSense rfl
            · rfl

theorem regulates_unmetWindow (d : Dev) (p : Ratio) (l : Nat) : Regulates d (unmetWindow d p l) := by
  unfold unmetWindow
  dsimp only
  split
  · have hrun : Regulates d (setSense d { d.sense with unmetRun := d.sense.unmetRun + 1 }) := regulates_setSense rfl
    have hcount := hrun.trans (regulates_bumpBy _ 0x10058 1)
    split
    · exact hcount
    · exact hcount.trans (regulates_raised rfl)
  · exact regulates_setSense rfl

/-- The limiter moves its two controls alone. -/
theorem limiterWindow_spec (s : Sense) (p : Ratio) (l : Nat) : limiterWindow s p l =
    { s with duty := (limiterWindow s p l).duty, gate := (limiterWindow s p l).gate } := by
  unfold limiterWindow
  split
  · split
    · rfl
    · split <;> rfl
  · split
    · split <;> rfl
    · rfl

theorem regulates_powerWindow (d : Dev) : Regulates d (powerWindow d) := by
  unfold powerWindow
  split
  · exact .refl d
  · next hfail =>
    dsimp only
    have hunmet := regulates_unmetWindow d (inputPower d.sense) (effectiveLimit d)
    generalize unmetWindow d (inputPower d.sense) (effectiveLimit d) = e at hunmet ⊢
    have hwindow := limiterWindow_spec e.sense (inputPower d.sense) (effectiveLimit d)
    generalize limiterWindow e.sense (inputPower d.sense) (effectiveLimit d) = s at hwindow ⊢
    generalize wholeWatts e.draws (inputPower d.sense) = w
    have hok : e.sense.adcFail = false := by
      obtain ⟨-, hr, -⟩ := hunmet
      rw [hr]
      exact Bool.eq_false_iff.2 hfail
    refine hunmet.trans ⟨rfl, ?_, fun h => absurd (hok.symm.trans h) Bool.false_ne_true⟩
    show { s with inputW := w } = _
    rw [hwindow]
    rfl

theorem sense_raised (d : Dev) (s : Sense) (fn cls code a b : Nat) : (raiseEvent (setSense d s) fn cls code a b).sense = s := by
  have h := signals_raiseEvent (setSense d s) fn cls code a b
  unfold Signals at h
  rw [h]
  rfl

theorem signals_raised (d : Dev) (s : Sense) (fn cls code a b : Nat) :
    Signals { d with sense := (raiseEvent (setSense d s) fn cls code a b).sense } (raiseEvent (setSense d s) fn cls code a b) := by
  rw [sense_raised]
  exact signals_raiseEvent (setSense d s) fn cls code a b

/-- The check of the ADC ends the window's check conversions; an ADC that has failed stays failed, its controls as they were. -/
theorem checkAdc_spec (d : Dev) : Signals { d with sense := (checkAdc d).sense } (checkAdc d) ∧
    (checkAdc d).sense = { d.sense with
      checks := [], checksAsked := false, adcRuns := (checkAdc d).sense.adcRuns, adcFail := (checkAdc d).sense.adcFail
      duty := (checkAdc d).sense.duty, gate := (checkAdc d).sense.gate } ∧
    (d.sense.adcFail = true → (checkAdc d).sense.adcFail = true ∧ (checkAdc d).sense.duty = d.sense.duty ∧
      (checkAdc d).sense.gate = d.sense.gate) := by
  unfold checkAdc
  dsimp only
  generalize (if (d.sense.checks != [] && 160 * d.sense.checks.length <
    (d.sense.checks.foldl (· + ·) 0 - 32768 * (d.sense.checks.length : Int)).natAbs) = true then d.sense.adcRuns + 1 else 0) = runs
  split
  · next hfail =>
    refine ⟨signals_raised .., ?_, fun h => absurd (hfail.1.symm.trans h) Bool.false_ne_true⟩
    rw [sense_raised]
    rfl
  · exact ⟨rfl, rfl, fun h => ⟨h, rfl, rfl⟩⟩

/-! ### The end of a window -/

/-- The window's accumulators have latched, and the farrier holds its posted epoch and the corrections that waited. -/
def windowTurned (d : Dev) : Dev := adoptCalibration (setSense (endCredits d) (latch d.sense))

/-- What the turn of a window changes. -/
theorem windowTurned_spec (d : Dev) :
    windowTurned d = { d with
      cribs := (endCredits d).cribs, pad := { d.pad with farrierEpoch := d.pad.farrierPosted }, sense := (windowTurned d).sense } ∧
    (windowTurned d).sense.window = d.sense.window + 1 ∧ (windowTurned d).sense.live = [] ∧
    (windowTurned d).sense.pendCorr = [] ∧ (windowTurned d).sense.pendTables = none ∧
    (windowTurned d).sense.adcFail = d.sense.adcFail ∧ (windowTurned d).sense.duty = d.sense.duty ∧
    (windowTurned d).sense.gate = d.sense.gate := by
  unfold windowTurned adoptCalibration
  exact ⟨rfl, rfl, rfl, rfl, rfl, rfl, rfl, rfl⟩

theorem moveEntry_spec (s : Sense) (k : Nat) : moveEntry s k = { s with entries := (moveEntry s k).entries } := by
  unfold moveEntry
  split
  · rfl
  · dsimp only
    split <;> rfl

theorem foldl_moveEntry_spec (l : List Nat) (s : Sense) :
    l.foldl moveEntry s = { s with entries := (l.foldl moveEntry s).entries } := by
  induction l generalizing s with
  | nil => rfl
  | cons k l ih =>
    have hrest := ih (moveEntry s k)
    rw [moveEntry_spec s k] at hrest
    rw [List.foldl_cons, moveEntry_spec s k]
    exact hrest

/-- The state in which a window's end finds whether the module trips. -/
def windowChecked (d : Dev) (facts : WindowFacts) : Dev :=
  let d := windowTurned d
  let d := (List.range 63).foldl (checkChannel d.sense) d
  let d := setSense (checkAdc d) (setBiases ((List.range 7).foldl moveEntry (checkAdc d).sense))
  powerWindow (throttleWindow d facts.dramTemps)

theorem windowEnd_eq {d : Dev} (h : sensing d = true) (facts : WindowFacts) (s : State) (hs : s.dev = d) :
    exec (.senseWindowEnd facts) s = .next { s with dev :=
      { limiterStep (tripWindow (windowChecked d facts) facts.dramTemps) with
        draws := (limiterStep (tripWindow (windowChecked d facts) facts.dramTemps)).draws + 1 } } := by
  have hpower : d.board.powered = true := by
    unfold sensing at h
    exact (Bool.and_eq_true_iff.1 h).1
  show execSenseWindowEnd facts s = _
  have hrun : execSenseWindowEnd facts s = onDev "SENSE_WINDOW_END" (fun _ =>
      some (limiterStep (tripWindow (windowChecked d facts) facts.dramTemps))) s := by
    unfold execSenseWindowEnd onDev
    rw [hs]
    dsimp only
    rw [if_neg (by rw [hpower]; decide), if_neg (by rw [h]; decide)]
    rfl
  rw [hrun]
  rfl

/-- A window's end before the trips: the machine is as before, but for the credits of the cribs. -/
theorem windowChecked_spec (d : Dev) (facts : WindowFacts) :
    Signals { d with
      cribs := (endCredits d).cribs, pad := { d.pad with farrierEpoch := d.pad.farrierPosted }
      sense := (windowChecked d facts).sense } (windowChecked d facts) ∧
    (windowChecked d facts).sense.window = d.sense.window + 1 ∧ (windowChecked d facts).sense.live = [] ∧
    (windowChecked d facts).sense.checks = [] ∧ (windowChecked d facts).sense.pendCorr = [] ∧
    (windowChecked d facts).sense.pendTables = none ∧ (windowChecked d facts).sense.pllBias.length = 10 ∧
    (d.sense.adcFail = true →
      (windowChecked d facts).sense.duty = d.sense.duty ∧ (windowChecked d facts).sense.gate = d.sense.gate) := by
  unfold windowChecked
  dsimp only
  refine under_name fun named shown => ?_
  obtain ⟨hturn, hwin, hlive, hcorr, htab, hfail, hduty, hgate⟩ := windowTurned_spec d
  refine shown ?_
  generalize windowTurned d = a at hturn hwin hlive hcorr htab hfail hduty hgate ⊢
  refine under_name fun named shown => ?_
  obtain ⟨bsig, bsense, bctl⟩ := regulates_foldl (regulates_checkChannel a.sense) (List.range 63) a
  refine shown ?_
  generalize (List.range 63).foldl (checkChannel a.sense) a = b at bsig bsense bctl ⊢
  refine under_name fun named shown => ?_
  obtain ⟨csig, csense, cctl⟩ := checkAdc_spec b
  refine shown ?_
  generalize checkAdc b = c at csig csense cctl ⊢
  have hmoved := foldl_moveEntry_spec (List.range 7) c.sense
  generalize (List.range 7).foldl moveEntry c.sense = m at hmoved ⊢
  have hbias : (setBiases m) = { m with pllBias := (setBiases m).pllBias } := rfl
  have hten : (setBiases m).pllBias.length = 10 := by simp [setBiases]
  generalize setBiases m = s at hbias hten ⊢
  refine under_name fun named shown => ?_
  obtain ⟨tsig, tsense, tctl⟩ := (regulates_throttleWindow (setSense c s) facts.dramTemps).trans (regulates_powerWindow _)
  refine shown ?_
  generalize powerWindow (throttleWindow (setSense c s) facts.dramTemps) = e at tsig tsense tctl ⊢
  have hs : s.window = d.sense.window + 1 ∧ s.live = [] ∧ s.checks = [] ∧ s.pendCorr = [] ∧ s.pendTables = none := by
    rw [hbias, hmoved, csense, bsense]
    exact ⟨hwin, hlive, rfl, hcorr, htab⟩
  have he : e.sense.window = s.window ∧ e.sense.live = s.live ∧ e.sense.checks = s.checks ∧ e.sense.pendCorr = s.pendCorr ∧
      e.sense.pendTables = s.pendTables ∧ e.sense.pllBias = s.pllBias := by
    rw [tsense]
    exact ⟨rfl, rfl, rfl, rfl, rfl, rfl⟩
  refine under_name fun named shown => ?_
  obtain ⟨ewin, elive, echecks, ecorr, etab, ebias⟩ := he
  obtain ⟨swin, slive, schecks, scorr, stab⟩ := hs
  refine shown ⟨?_, ewin.trans swin, elive.trans slive, echecks.trans schecks, ecorr.trans scorr, etab.trans stab,
    ebias ▸ hten, fun hf => ?_⟩
  · unfold Signals setSense at *
    rw [tsig, csig, bsig, hturn]
  · have hb : b.sense.adcFail = true := by
      rw [bsense]
      exact hfail.trans hf
    refine under_name fun named shown => ?_
    obtain ⟨cfail, cduty, cgate⟩ := cctl hb
    obtain ⟨bduty, bgate⟩ := bctl (hfail.trans hf)
    have hsfail : s.adcFail = c.sense.adcFail ∧ s.duty = c.sense.duty ∧ s.gate = c.sense.gate := by
      rw [hbias, hmoved]
      exact ⟨rfl, rfl, rfl⟩
    obtain ⟨sfail, sduty, sgate⟩ := hsfail
    obtain ⟨tduty, tgate⟩ := tctl (sfail.trans cfail)
    exact shown ⟨tduty.trans (sduty.trans (cduty.trans (bduty.trans hduty))), tgate.trans (sgate.trans (cgate.trans (bgate.trans hgate)))⟩

/-- Where no source reads at its trip level nothing happens; else the module is shut down, and the record says why. -/
theorem tripWindow_spec (d : Dev) (dram : List Int) :
    (trippedSources d.sense dram = [] ∧ tripWindow d dram = d) ∨
    (ResetWith (some 2) d (tripWindow d dram) ∧ (tripWindow d dram).board.tripped = true ∧
      (tripWindow d dram).board.powered = false ∧ (tripWindow d dram).board.tripRecord ≠ none) := by
  cases h : trippedSources d.sense dram with
  | nil =>
    refine .inl ⟨rfl, ?_⟩
    unfold tripWindow
    rw [h]
  | cons n l =>
    right
    unfold tripWindow
    rw [h]
    exact ⟨(powerOff_resets d (some 2)).board rfl rfl, rfl, rfl, Option.some_ne_none _⟩

theorem limiterStep_spec (d : Dev) :
    limiterStep d = { d with pad := { d.pad with limiterEpoch := (limiterStep d).pad.limiterEpoch } } := by
  unfold limiterStep
  dsimp only
  split <;> rfl

theorem limiterStep_reset {d : Dev} (h : d.pad = Paddock.reset) : limiterStep d = d := by
  unfold limiterStep
  dsimp only
  rw [show d.pad.epochs.filter _ = [] by rw [h]; rfl]
  rfl

/-- A DRAM stack at its trip level is a source that trips the module. -/
theorem trippedSources_dram {s : Sense} {dram : List Int} {k : Nat} {v : Int} (hk : k < 8) (hv : dram[k]? = some v)
    (htrip : 12160 ≤ v) : trippedSources s dram ≠ [] := by
  have hread : sourceReading s dram (7 + k) = some v := by
    unfold sourceReading
    rw [if_pos ⟨by omega, by omega⟩, show 7 + k - 7 = k by omega, List.head?_drop, hv]
  have hlevel : (levels (7 + k)).2.2 = some 12160 := by
    unfold levels
    rw [if_neg (by omega), if_neg (by omega), if_pos (by omega)]
  have hmem : 7 + k ∈ trippedSources s dram := by
    refine List.mem_filter.2 ⟨List.mem_range.2 (by omega), ?_⟩
    rw [hread, hlevel]
    exact decide_eq_true htrip
  exact List.ne_nil_of_mem hmem

/-! ### Credits (R577) -/

theorem creditAfter_reset {d : Dev} {k : Nat} (h : cribOf d k = Crib.reset) : creditAfter d k windowTicks = Crib.reset.credit := by
  unfold creditAfter
  rw [h]
  have hpos : (0 : Int) ≤ (windowTicks - Crib.reset.tick : Nat) * (d.sense.duty : Int) := by positivity
  simp only [Crib.reset] at hpos ⊢
  omega

/-- At a window's end every crib's credit has risen at the duty of the window. -/
theorem endCredits_spec {d : Dev} (h : (d.cribs.map Prod.fst).Nodup) (k : Nat) :
    (cribOf (endCredits d) k).credit = creditAfter d k 1250000 ∧ (cribOf (endCredits d) k).tick = 0 := by
  have hmap : cribOf (endCredits d) k = if k ∈ d.cribs.map Prod.fst
      then { cribOf d k with credit := creditAfter d k windowTicks, tick := 0 } else Crib.reset :=
    mget_remapped h (fun i x => { x with credit := creditAfter d i windowTicks, tick := 0 }) k
  rw [hmap]
  split
  · exact ⟨rfl, rfl⟩
  · next hk => exact ⟨(creditAfter_reset (mget_of_notMem hk)).symm, rfl⟩

/-- Settles O53: before the trips a window's end latches, checks and regulates, and the machine stands; a trip is a shutdown. -/
theorem windowEndsLatchOrTrip : Obligations.WindowEndsLatchOrTrip := by
  unfold Obligations.WindowEndsLatchOrTrip
  refine ⟨?_, ?_, ?_, ?_, ?_⟩
  case refine_1 =>
    intro facts s hs
    refine ⟨_, windowEnd_eq hs facts s rfl, rfl, ?_⟩
    obtain ⟨hsig, hwin, hlive, hchecks, hcorr, htab, hbias, -⟩ := windowChecked_spec s.dev facts
    generalize windowChecked s.dev facts = f at *
    unfold Signals at hsig
    rcases tripWindow_spec f facts.dramTemps with ⟨-, htrip⟩ | ⟨hreset, htripped, hpower, -⟩
    · rw [htrip, limiterStep_spec f]
      refine ⟨by rw [hsig], .inr ⟨hwin, hlive, hchecks, ?_, hcorr, htab, hbias, ?_, ?_, ?_⟩⟩ <;> rw [hsig]
    · obtain ⟨hboot, -, -, -, hloft, -, hpad, -, -⟩ := hreset
      rw [limiterStep_reset hpad]
      refine ⟨hloft.trans (by rw [hsig]), .inl ⟨htripped, hpower, hboot⟩⟩
  case refine_2 =>
    intro facts
    refine answers_onDev (fun s => show execSenseWindowEnd facts s = _ from rfl) fun d hd => ?_
    obtain ⟨hpower, hs⟩ := hd
    refine ⟨endCredits (setSense d (latch d.sense)), ?_, rfl⟩
    rw [if_neg (by rw [hpower]; decide), if_pos hs]
  case refine_3 =>
    rintro facts s ⟨hpower, hnodup⟩
    by_cases hs : sensing s.dev = true
    · refine ⟨_, windowEnd_eq hs facts s rfl, rfl, ?_⟩
      obtain ⟨hsig, -⟩ := windowChecked_spec s.dev facts
      generalize windowChecked s.dev facts = f at *
      unfold Signals at hsig
      rcases tripWindow_spec f facts.dramTemps with ⟨-, htrip⟩ | ⟨hreset, -, hoff, -⟩
      · refine .inr fun k => ?_
        rw [htrip, limiterStep_spec f]
        have hcribs : f.cribs = (endCredits s.dev).cribs := by rw [hsig]
        have hcrib : cribOf f k = cribOf (endCredits s.dev) k := congrArg (fun m => mget Crib.reset m k) hcribs
        have hcredit := endCredits_spec hnodup k
        rw [← hcrib] at hcredit
        exact hcredit
      · obtain ⟨-, -, -, -, -, -, hpad, -, -⟩ := hreset
        rw [limiterStep_reset hpad]
        exact .inl hoff
    · refine answers_onDev (c := .senseWindowEnd facts) (pre := fun d => d = s.dev) (post := fun d e =>
        e.board.powered = false ∨ ∀ k, (cribOf e k).credit = creditAfter d k 1250000 ∧ (cribOf e k).tick = 0) (fun s => show execSenseWindowEnd facts s = _ from rfl)
        (fun d hd => ?_) s rfl
      subst hd
      refine ⟨endCredits (setSense s.dev (latch s.dev.sense)), ?_, .inr fun k => ?_⟩
      · rw [if_neg (by rw [hpower]; decide), if_pos (Bool.eq_false_iff.2 hs)]
      · exact endCredits_spec (d := setSense s.dev (latch s.dev.sense)) hnodup k
  case refine_4 =>
    rintro facts s ⟨hs, k, v, hk, hv, htrip⟩
    refine ⟨_, windowEnd_eq hs facts s rfl, rfl, ?_⟩
    obtain ⟨hsig, -⟩ := windowChecked_spec s.dev facts
    generalize windowChecked s.dev facts = f at *
    rcases tripWindow_spec f facts.dramTemps with ⟨hnone, -⟩ | ⟨hreset, htripped, hoff, hrecord⟩
    · exact absurd hnone (trippedSources_dram hk hv htrip)
    · have hpad := hreset.2.2.2.2.2.2.1
      have hloft : f.mem.loft = s.dev.mem.loft := by
        unfold Signals at hsig
        rw [hsig]
      rw [limiterStep_reset hpad]
      unfold ResetWith at hreset ⊢
      rw [hloft] at hreset
      exact ⟨hreset, htripped, hoff, hrecord⟩
  case refine_5 =>
    rintro facts s ⟨hs, hfail⟩
    refine ⟨_, windowEnd_eq hs facts s rfl, rfl, ?_⟩
    obtain ⟨-, -, -, -, -, -, -, hctl⟩ := windowChecked_spec s.dev facts
    generalize windowChecked s.dev facts = f at *
    rcases tripWindow_spec f facts.dramTemps with ⟨-, htrip⟩ | ⟨hreset, -, hoff, -⟩
    · rw [htrip, limiterStep_spec f]
      exact .inl (hctl hfail)
    · obtain ⟨-, -, -, -, -, -, hpad, -, -⟩ := hreset
      rw [limiterStep_reset hpad]
      exact .inr hoff

end Sys2Proof.Machine
end

section
/-! Accesses of the host through BAR0 and BAR2 (O43). -/

namespace Sys2Proof.Machine

open Sys2Proof

/-! ### Accesses -/

theorem goodAccess_iff (off width : Nat) : goodAccess off width = true ↔ (width = 4 ∨ width = 8) ∧ off % width = 0 := by
  simp [goodAccess]

theorem ctrOf_bump (d : Dev) (reg o : Nat) : ctrOf (bump d reg) o = if o = reg then satAdd (ctrOf d o) 1 else ctrOf d o := by
  rw [show bump d reg = bumpBy d reg 1 from rfl, ctrOf_bumpBy]
  split
  · next h => rw [h]
  · rfl

theorem countsOnly_bump (d : Dev) (reg : Nat) : CountsOnly reg d { bump d reg with draws := d.draws + 1 } :=
  ⟨rfl, fun o => ctrOf_bump d reg o⟩

theorem ownRow_false {off : Nat} (h : off ∉ [0x28, 0x80, 0x10000, 0x10020, 0x20100, 0x20110, 0x20118, 0x20120]) :
    ownRow off = false := by
  unfold ownRow
  exact Bool.eq_false_iff.2 fun hc => h (List.contains_iff_mem.1 hc)

/-- An aligned write by the PF of a slot of the host interface block that has no row of its own. -/
theorem bar0Write_host {d : Dev} {off : Nat} (v : W64) (hoff : off < 0x1000) (hslot : off / 8 * 8 = off) (hrow : ownRow off = false)
    (hctr : isCounter off = false) : bar0Write d 0 off 8 v = some (writeHost d off v) := by
  have hans : answers d off = true := by
    unfold answers
    simp [hoff]
  unfold bar0Write writeSlot
  rw [if_pos (by omega), if_neg (by rw [hans]; simp), hslot, if_neg (by rw [hrow]; decide)]
  dsimp only
  rw [if_neg (by rw [hctr]; decide), if_pos hoff]
  rfl

/-- A write of the upper half of a slot whose own register is 32 bits wide changes nothing. -/
theorem bar0Write_upperHalf {d : Dev} {off : Nat} (v : W64) (hoff : off < 0x1000000) (hrow : ownRow (off / 8 * 8) = true)
    (hup : upperHalf off 4 = true) : bar0Write d 0 off 4 v = some d := by
  unfold bar0Write
  rw [if_pos hoff, if_pos hrow, if_pos hup, ite_self]

/-- The peak trackers that a write of bits starts again. -/
theorem mget_peakBits (v : W64) (m : Map Bool) (n : Nat) :
    mget false ((List.range 64).foldl (fun m k => if v.getLsbD k then mput false m k true else m) m) n =
      (v.getLsbD n || mget false m n) := by
  have hprefix : ∀ j, mget false ((List.range j).foldl (fun m k => if v.getLsbD k then mput false m k true else m) m) n =
      (decide (n < j) && v.getLsbD n || mget false m n) := by
    intro j
    induction j with
    | zero => simp
    | succ j ih =>
      rw [List.range_succ, List.foldl_append]
      show mget false (if v.getLsbD j then mput false _ j true else _) n = _
      by_cases hj : n = j
      · subst hj
        by_cases hv : v.getLsbD n = true
        · rw [if_pos hv, mget_mput_self, hv]
          simp
        · rw [if_neg hv, ih, Bool.eq_false_iff.2 hv]
          simp
      · have hlt : decide (n < j + 1) = decide (n < j) := by
          rw [decide_eq_decide]
          omega
        rw [hlt, ← ih]
        split
        · exact mget_mput_ne false _ true hj
        · rfl
  rw [hprefix 64]
  by_cases hn : n < 64
  · rw [decide_eq_true hn, Bool.true_and]
  · rw [BitVec.getLsbD_of_ge v n (by omega), Bool.and_false]

/-! ### Space 0x1 (R422 to R424) -/

theorem space1Keys_nodup {off n : Nat} (h : off + n ≤ space1Size) : (space1Keys off n).Nodup := by
  unfold space1Keys
  refine (List.nodup_range).map_on fun x hx y hy hxy => ?_
  rw [List.mem_range] at hx hy
  have := dramPlace_injective (by omega) (by omega) hxy
  omega

theorem length_space1Keys (off n : Nat) : (space1Keys off n).length = n := by simp [space1Keys]

/-- Derier's write of a range of space 0x1: its bytes stand there, and nothing else of the memories has changed. -/
theorem derWrite_spec {d : Dev} {off : Nat} {bs : List Byte} (h : off + bs.length ≤ space1Size) :
    dramAt (derWrite d off bs) (space1Keys off bs.length) = bs ∧ DramBut (space1Keys off bs.length) d (derWrite d off bs) ∧
    (derWrite d off bs).mem.loft = d.mem.loft ∧ (derWrite d off bs).stalls = d.stalls := by
  obtain ⟨-, hdram, hloft⟩ := dramWrite_spec d ((space1Keys off bs.length).zip bs)
  have hmem := (reports_mirrorOut (dramWrite d ((space1Keys off bs.length).zip bs)) false ((space1Keys off bs.length).zip bs)).machine.2.2.2.1
  have hbytes : (derWrite d off bs).mem.dram = dramStore d.mem.dram ((space1Keys off bs.length).zip bs) :=
    (congrArg Memory.dram hmem).trans hdram
  refine ⟨?_, fun k hk => ?_, (congrArg Memory.loft hmem).trans hloft, (tidies_derWrite d off bs).stalls⟩
  · unfold dramAt
    rw [hbytes]
    exact map_mget_dramStore _ (space1Keys_nodup h) (length_space1Keys ..).symm
  · rw [hbytes]
    exact mget_dramStore_zip_outside _ hk

/-! ### Failed models that the host has read of (R391) -/

/-- The lead tells every module of the records that are free. -/
theorem freeFailed_spec (d : Dev) (f : Nat × Nat → Bool) :
    Sends { d with feed := { d.feed with models := d.feed.models.filter fun m => !m.reply.any f } } (freeFailed d f) ∧
    (d.pad.role ≠ .lead →
      freeFailed d f = { d with feed := { d.feed with models := d.feed.models.filter fun m => !m.reply.any f } }) := by
  refine ⟨sends_foldl (fun _ _ => sends_tellAll ..) _ _, fun hrole => ?_⟩
  have hquiet : ∀ (l : List Model) (e : Dev), e.pad.role ≠ .lead → l.foldl (fun d m => tellAll d (.recordFreed m.id)) e = e := by
    intro l
    induction l with
    | nil => exact fun _ _ => rfl
    | cons m l ih =>
      intro e he
      have htell : tellAll e (.recordFreed m.id) = e := if_neg he
      rw [List.foldl_cons, htell]
      exact ih e he
  exact hquiet _ _ hrole

/-- Settles O43: what each access of the host reads and writes, through the equation of its command. -/
theorem hostAccessesReachRegistersAndMemory : Obligations.HostAccessesReachRegistersAndMemory := by
  unfold Obligations.HostAccessesReachRegistersAndMemory
  refine ⟨?_, ?_, ?_, ?_, ?_, ?_, ?_, ?_, ?_, ?_, ?_, ?_, ?_, ?_, ?_, ?_, ?_, ?_⟩
  case refine_1 =>
    intro fn off width
    refine answers_always (fun s => show execRegisterRead fn off width s = _ from rfl) fun d hd => ?_
    obtain ⟨hw, ha, hr⟩ := hd
    rw [if_pos ((goodAccess_iff off width).2 ⟨hw, ha⟩), if_neg (by rw [hr]; decide)]
    rfl
  case refine_2 =>
    intro off width
    refine answers_always (fun s => show execRegisterRead 0 off width s = _ from rfl) fun d hd => ?_
    obtain ⟨hw, ha, hr⟩ := hd
    rw [if_pos ((goodAccess_iff off width).2 ⟨hw, ha⟩), if_pos hr]
    generalize accessPart (bar0Slot d 0 (off / 8 * 8)) off width = v
    obtain ⟨hsends, hquiet⟩ := freeFailed_spec d fun p => p.1 == mboxRing
    generalize freeFailed d (fun p => p.1 == mboxRing) = f at hsends hquiet ⊢
    unfold Sends at hsends
    have hframe : HostModelsAndLinks d { emit f (.readData v) with draws := (emit f (.readData v)).draws + 1 } := by
      unfold HostModelsAndLinks
      rw [hsends]
      rfl
    refine ⟨hframe, by rw [hsends]; rfl, by rw [hsends]; rfl, ⟨f.out, rfl⟩, fun hrole => ?_⟩
    rw [hquiet hrole]
    exact ⟨rfl, rfl⟩
  case refine_3 =>
    intro fn off width
    refine answers_always (fun s => show execRegisterRead fn off width s = _ from rfl) fun d hd => ?_
    obtain ⟨hbad, hoff⟩ := hd
    rw [if_neg (by rw [goodAccess_iff]; exact hbad), if_pos (by simp only [countedArea]; simp; omega)]
    exact ⟨rfl, fun o => ctrOf_bump d 0xC0 o⟩
  case refine_4 =>
    intro fn off width v
    refine answers_onDev (fun s => show execRegisterWrite fn off width v s = _ from rfl) fun d hd => ?_
    obtain ⟨hfn, hoff, hw, ha⟩ := hd
    refine ⟨d, ?_, rfl⟩
    rw [if_pos ((goodAccess_iff off width).2 ⟨hw, ha⟩)]
    unfold bar0Write
    rw [if_pos hoff, if_pos (.inl hfn)]
  case refine_5 =>
    intro fn off width v
    refine answers_onDev (fun s => show execRegisterWrite fn off width v s = _ from rfl) fun d hd => ?_
    obtain ⟨hbad, hoff⟩ := hd
    refine ⟨bump d 0xC0, ?_, countsOnly_bump d 0xC0⟩
    rw [if_neg (by rw [goodAccess_iff]; exact hbad), if_pos (by simp only [countedArea]; simp; omega)]
  case refine_6 =>
    intro off v
    refine answers_onDev (fun s => show execRegisterWrite 0 off 4 v s = _ from rfl) fun d hd => ?_
    refine ⟨d, ?_, rfl⟩
    rcases hd with rfl | rfl | rfl <;>
      exact (if_pos rfl).trans (bar0Write_upperHalf v (by decide) (by decide) (by decide))
  case refine_7 =>
    intro v
    refine answers_onDev (fun s => show execRegisterWrite 0 0x18 8 v s = _ from rfl) fun d _ => ?_
    exact ⟨writeHost d 0x18 v, (if_pos rfl).trans (bar0Write_host v (by decide) rfl (by decide) (by decide)), rfl⟩
  case refine_8 =>
    intro k v
    refine answers_onDev (fun s => show execRegisterWrite 0 (0x40 + 8 * k) 8 v s = _ from rfl) fun d hk => ?_
    have hslots : ∀ k < 8, goodAccess (0x40 + 8 * k) 8 = true ∧ (0x40 + 8 * k) / 8 * 8 = 0x40 + 8 * k ∧
        ownRow (0x40 + 8 * k) = false ∧ isCounter (0x40 + 8 * k) = false := by decide
    obtain ⟨hgood, hslot, hrow, hctr⟩ := hslots k hk
    refine ⟨writeHost d (0x40 + 8 * k) v, (if_pos hgood).trans (bar0Write_host v (by omega) hslot hrow hctr), ?_⟩
    have hwrite : writeHost d (0x40 + 8 * k) v =
        { d with host := { d.host with mboxDesc := mput 0 d.host.mboxDesc k v } } := by
      unfold writeHost
      rw [if_neg (by omega), if_neg (by omega), if_pos (by omega), show (0x40 + 8 * k - 0x40) / 8 = k by omega]
    rw [hwrite]
    exact ⟨rfl, fun j => mget_mput 0 d.host.mboxDesc k j v⟩
  case refine_9 =>
    intro v
    refine answers_onDev (fun s => show execRegisterWrite 0 0xA8 8 v s = _ from rfl) fun d _ => ?_
    refine ⟨writeHost d 0xA8 v, (if_pos rfl).trans (bar0Write_host v (by decide) rfl (by decide) (by decide)), ?_⟩
    have hbits : bitsOf v.toNat 39 0 = v.toNat % 2 ^ 40 := by simp [bitsOf]
    unfold writeHost
    rw [if_neg (by decide), if_neg (by decide), if_neg (by decide), if_pos rfl]
    dsimp only
    rw [hbits]
    split <;> rfl
  case refine_10 =>
    intro v
    refine answers_always (fun s => show execSenseReq v false s = _ from rfl) fun d hd => ?_
    obtain ⟨hopen, hadc, hwait⟩ := hd
    have hchannel : bitsOf v.toNat 5 0 = v.toNat % 64 := by simp [bitsOf]
    have hdac : BitVec.ofNat 12 (bitsOf v.toNat 27 16) = v.extractLsb' 16 12 := by
      apply BitVec.eq_of_toNat_eq
      simp [bitsOf, BitVec.extractLsb'_toNat, Nat.shiftRight_eq_div_pow]
    rw [if_neg (by rw [hopen]; decide), if_neg (by simp [hadc, hwait]), hchannel, hdac]
    rfl
  case refine_11 =>
    intro v firmware
    refine answers_always (fun s => show execSenseReq v firmware s = _ from rfl) fun d hd => ?_
    obtain ⟨hopen, hbusy⟩ := hd
    rw [if_neg (by rw [hopen]; decide), if_pos (by rwa [Option.isSome_iff_ne_none])]
    exact countsOnly_bump d 0x10010
  case refine_12 =>
    intro v
    refine answers_always (fun s => show execSensePeakClr v s = _ from rfl) fun d hopen => ?_
    rw [if_neg (by rw [hopen]; decide)]
    exact ⟨rfl, fun n => mget_peakBits v d.sense.peakClr n⟩
  case refine_13 =>
    intro v
    refine answers_onDev (fun s => show execMgmtSettingWrite 0x20100 8 v s = _ from rfl) fun d hopen => ?_
    refine ⟨_, (if_neg (by decide)).trans (if_neg (by rw [hopen]; decide)), ?_⟩
    have hbits : bitsOf v.toNat 13 8 = v.toNat / 256 % 64 := rfl
    show _ = _
    unfold writeSetting
    dsimp only
    rw [show 0x20100 / 8 * 8 = 0x20100 from rfl, if_pos rfl]
    rfl
  case refine_14 =>
    intro v
    refine answers_onDev (fun s => show execMgmtSettingWrite 0x20120 8 v s = _ from rfl) fun d hopen => ?_
    refine ⟨_, (if_neg (by decide)).trans (if_neg (by rw [hopen]; decide)), ?_⟩
    have hcollector : BitVec.ofNat 32 (bitsOf v.toNat 31 0) = v.setWidth 32 := by
      apply BitVec.eq_of_toNat_eq
      simp [bitsOf]
    have hport : BitVec.ofNat 16 (bitsOf v.toNat 47 32) = v.extractLsb' 32 16 := by
      apply BitVec.eq_of_toNat_eq
      simp [bitsOf, BitVec.extractLsb'_toNat, Nat.shiftRight_eq_div_pow]
    have hlisten : BitVec.ofNat 16 (bitsOf v.toNat 63 48) = v.extractLsb' 48 16 := by
      apply BitVec.eq_of_toNat_eq
      simp [bitsOf, BitVec.extractLsb'_toNat, Nat.shiftRight_eq_div_pow]
    rw [← hcollector, ← hport, ← hlisten]
    rfl
  case refine_15 =>
    intro off len
    refine answers_onDev (fun s => show execBar2Read off len s = _ from rfl) fun d hd => ?_
    obtain ⟨hin, hopen, hrange⟩ := hd
    have hok : bar2Refused d off len = false := by
      unfold bar2Refused bar2Place
      rw [hopen]
      simpa using hrange
    refine ⟨emit (dramTouchAll d (space1Keys (d.host.bar2Base + off) len)) (.bar2 (dramAt d (space1Keys (d.host.bar2Base + off) len))
      ((linesOf (space1Keys (d.host.bar2Base + off) len)).any (lineBad d))), ?_, ?_⟩
    · rw [if_neg (by simp [inBar2, hin]), if_neg (by rw [hok]; decide)]
      rfl
    · have h := touches_dramTouchAll d (space1Keys (d.host.bar2Base + off) len)
      obtain ⟨hdram, hloft, -⟩ := h.bytes
      exact ⟨hdram, hloft, h.machine.1, List.mem_append_right _ (List.mem_singleton_self _)⟩
  case refine_16 =>
    intro off bs
    refine answers_onDev (fun s => show execBar2Write off bs s = _ from rfl) fun d hd => ?_
    obtain ⟨hin, hopen, hrange⟩ := hd
    have hok : bar2Refused d off bs.length = false := by
      unfold bar2Refused bar2Place
      rw [hopen]
      simpa using hrange
    refine ⟨derWrite d (d.host.bar2Base + off) bs, ?_, derWrite_spec hrange⟩
    rw [if_neg (by simp [inBar2, hin]), if_neg (by rw [hok]; decide)]
    rfl
  case refine_17 =>
    intro off bs
    refine answers_onDev (fun s => show execBar2Write off bs s = _ from rfl) fun d hd => ?_
    obtain ⟨hin, hbad⟩ := hd
    have hno : bar2Refused d off bs.length = true := by
      unfold bar2Refused bar2Place
      rcases hbad with h | h
      · rw [h]
        rfl
      · simp [h]
    refine ⟨bump d 0xC0, ?_, countsOnly_bump d 0xC0⟩
    rw [if_neg (by simp [inBar2, hin]), if_pos hno]
  case refine_18 =>
    intro k
    refine answers_onDev (fun s => show execBar2Resize k s = _ from rfl) fun d hk => ?_
    exact ⟨_, if_pos (by simpa [between] using hk), rfl⟩

end Sys2Proof.Machine
end

section
/-! A ring whose completions go to a ring that the same command destroys (O34). -/

namespace Sys2Proof.Machine

open Sys2Proof

/-- A ring of 16 entries of a type, bound to another. -/
def plainRing (type : RingType) (bind : Nat) : Ring :=
  { type := type, state := .active, owner := 0, sizeLog2 := 4, priority := 0, vector := 0, bind := bind, base := 0,
    coalCount := 0, coalUsec := 0, mask := 0, head := 0, tail := 0, phase := true, unsignalled := 0, overflow := false
    heldRecords := [], posted := 0, failAt := none, passed := 0, destroyer := none }

/-- A RING_DESTROY of ring 7, fetched from ring 5. -/
def destroyOfBound : Cmd :=
  { cid := 7, fn := 0, ring := 5, desc := 4 :: List.replicate 31 0 ++ 7 :: List.replicate 31 0, heads := [], data := none
    resultOk := true, queued := false, epoch := 0, begun := false, waiting := [], running := [], ended := [], awaits := none
    remote := false, lead := none, edits := [], asks := [], held := none, stopped := false, aborting := none, solve := none }

/-- A serving module whose EVENT ring 5 names COMP ring 7, with that command in progress. -/
def eventRingBound : Dev :=
  { Dev.reset with host := { HostIf.reset with
      state := .running, linkUp := true, cmds := [destroyOfBound], nextCid := 8
      rings := [(5, some (plainRing .event 7)), (7, some (plainRing .comp 0))] } }

theorem eventRingBound_starts : CmdStarts eventRingBound 7 0x04 anyForm destroyOfBound := by
  refine ⟨?_, ?_, ?_, ?_, ?_, ?_, ?_, ?_⟩ <;> decide

/-- What the RING_DESTROY leaves: it ends, and no record of it has left. -/
theorem eventRingBound_silent : ∃ e, exec (.ringDestroy 7) { pending := [], dev := eventRingBound } = .next { pending := [], dev := e } ∧
    e.out = [] ∧ e.pad.twinOut = [] := by
  refine ⟨_, rfl, ?_, ?_⟩ <;> decide

/-- No SUB ring names ring 7. -/
theorem eventRingBound_subs (q : Nat) (y : Ring) (hy : ringOf eventRingBound q = some y) (htype : y.type = .sub) : y.bind ≠ 7 := by
  have hq : q = 5 ∨ q = 7 := by
    by_contra hno
    rw [not_or] at hno
    have hnone : ringOf eventRingBound q = none := by
      unfold ringOf eventRingBound
      simp [mget, Ne.symm hno.1, Ne.symm hno.2]
    rw [hnone] at hy
    exact absurd hy (by simp)
  rcases hq with rfl | rfl
  · obtain rfl : plainRing .event 7 = y := Option.some.inj hy
    exact absurd htype (by decide)
  · obtain rfl : plainRing .comp 0 = y := Option.some.inj hy
    exact absurd htype (by decide)

/-- Host memory takes the next record of ring 7. -/
theorem eventRingBound_fits : RecordFits eventRingBound destroyOfBound := fun s x hs hx => by
  obtain rfl : plainRing .event 7 = s := Option.some.inj hs
  obtain rfl : plainRing .comp 0 = x := Option.some.inj hx
  decide

/-- Refutes O34: of RING_DESTROY the statement wants a record in the ring that the command's ring names, wherever the ring
destroyed is a COMP ring that no SUB ring names; it may be named by the command's own ring where that is no SUB ring, and
then it is gone when the command ends. -/
theorem not_ringsAreCreatedAndDestroyed : ¬ Obligations.RingsAreCreatedAndDestroyed := by
  rintro ⟨-, hdestroy, -⟩
  obtain ⟨t, ht, -, -, -, -, hreplied, -⟩ := hdestroy 7 destroyOfBound 7 (plainRing .comp 0)
    { pending := [], dev := eventRingBound } ⟨eventRingBound_starts, ⟨by decide, by decide⟩, by decide, by decide, rfl, by decide,
      by decide, eventRingBound_fits, .inr ⟨rfl, eventRingBound_subs⟩⟩
  obtain ⟨e, he, hout, htwin⟩ := eventRingBound_silent
  obtain rfl := Host.Outcome.next.inj (he.symm.trans ht)
  obtain ⟨-, -, -, hrecord⟩ := hreplied htwin
  have hmem := hrecord (plainRing .event 7) (plainRing .comp 0) rfl (by decide) (by decide) (by decide) rfl rfl (by decide) rfl
    (by decide)
  rw [hout] at hmem
  exact absurd hmem List.not_mem_nil

end Sys2Proof.Machine
end

section
/-! How commands arrive: fetches, doorbells, the mailbox, forwarded commands and the handshake (O44). -/

namespace Sys2Proof.Machine

open Sys2Proof

/-! ### A command joins those in progress -/

/-- A command as it joins those in progress. -/
def newCmd (d : Dev) (fn ring : Nat) (desc : List Byte) (heads : List (List Byte)) (data : Option (List (List Byte)))
    (resultOk : Bool) (epoch : W32) (lead : Option Nat) : Cmd :=
  { cid := d.host.nextCid, fn := fn, ring := ring, desc := desc, heads := heads, data := data, resultOk := resultOk,
    queued := 1024 ≤ inProgress d, epoch := epoch, begun := false,
    waiting := [], running := [], ended := [], awaits := none, remote := false, lead := lead, asks := [],
    edits := [], held := none, stopped := false, aborting := none, solve := none }

theorem addCmd_eq (d : Dev) (fn ring : Nat) (desc : List Byte) (heads : List (List Byte)) (data : Option (List (List Byte)))
    (ok : Bool) (epoch : W32) (lead : Option Nat) :
    addCmd d fn ring desc heads data ok epoch lead = { d with host := { d.host with
      cmds := d.host.cmds ++ [newCmd d fn ring desc heads data ok epoch lead], nextCid := d.host.nextCid + 1 } } := rfl

theorem cmdOf_addCmd {d : Dev} (hfresh : ∀ c ∈ d.host.cmds, c.cid < d.host.nextCid) (fn ring : Nat) (desc : List Byte)
    (heads : List (List Byte)) (data : Option (List (List Byte))) (ok : Bool) (epoch : W32) (lead : Option Nat) :
    cmdOf (addCmd d fn ring desc heads data ok epoch lead) d.host.nextCid =
      some (newCmd d fn ring desc heads data ok epoch lead) := by
  have hold : d.host.cmds.find? (fun c => c.cid == d.host.nextCid) = none := by
    rw [List.find?_eq_none]
    intro c hc
    have := hfresh c hc
    simp only [beq_iff_eq]
    omega
  rw [addCmd_eq]
  unfold cmdOf
  dsimp only
  rw [List.find?_append, hold]
  simp [newCmd]

/-- Only a lead tells other modules of the stalls that a command will take. -/
theorem holdAway_quiet {d : Dev} (h : d.pad.role ≠ .lead) (c : Cmd) (f : Nat → Bool) : holdAway d c f = d := by
  unfold holdAway awayStalls
  rw [if_pos (.inl h)]
  rfl

/-- A command of a known opcode has joined, and the other modules that it counts on have been told. -/
theorem arrives_spec {d : Dev} (hfresh : ∀ c ∈ d.host.cmds, c.cid < d.host.nextCid) {desc : List Byte} (hknown : knownOp desc)
    (fn ring : Nat) (heads : List (List Byte)) (data : Option (List (List Byte))) (ok : Bool) (epoch : W32)
    (lead : Option Nat) :
    Sends (addCmd d fn ring desc heads data ok epoch lead)
      (endReserved (holdNew (addCmd d fn ring desc heads data ok epoch lead) d.host.nextCid) d.host.nextCid) ∧
    (d.pad.role ≠ .lead →
      endReserved (holdNew (addCmd d fn ring desc heads data ok epoch lead) d.host.nextCid) d.host.nextCid =
        addCmd d fn ring desc heads data ok epoch lead) := by
  have hcmd := cmdOf_addCmd hfresh fn ring desc heads data ok epoch lead
  generalize hc : newCmd d fn ring desc heads data ok epoch lead = c at hcmd
  have hdesc : c.desc = desc := by
    rw [← hc]
    rfl
  have hrole : (addCmd d fn ring desc heads data ok epoch lead).pad.role = d.pad.role := rfl
  generalize addCmd d fn ring desc heads data ok epoch lead = g at hcmd hrole ⊢
  have hheld : Sends g (holdNew g d.host.nextCid) ∧ (d.pad.role ≠ .lead → holdNew g d.host.nextCid = g) := by
    unfold holdNew
    rw [hcmd]
    dsimp only
    split
    · exact ⟨.refl g, fun _ => rfl⟩
    · exact ⟨sends_holdAway .., fun h => holdAway_quiet (hrole ▸ h) ..⟩
  obtain ⟨hsends, hquiet⟩ := hheld
  have hstays : endReserved (holdNew g d.host.nextCid) d.host.nextCid = holdNew g d.host.nextCid := by
    have hcmds : (holdNew g d.host.nextCid).host.cmds = g.host.cmds := by
      unfold Sends at hsends
      rw [hsends]
    unfold endReserved
    rw [cmdOf_congr hcmds, hcmd]
    dsimp only
    rw [hdesc, if_neg]
    intro hnone
    exact hknown (Option.isNone_iff_eq_none.1 hnone)
  rw [hstays]
  exact ⟨hsends, hquiet⟩

theorem fitTo_self {n : Nat} {bs : List Byte} (h : bs.length = n) : fitTo n bs = bs := by
  unfold fitTo
  rw [h, Nat.sub_self, List.replicate_zero, List.append_nil, List.take_of_length_le (by omega)]

/-- The rings passed over have changed, and nothing else. -/
theorem passOthers_rings (d : Dev) (r : Nat) :
    passOthers d r = { d with host := { d.host with rings := (passOthers d r).host.rings } } := by
  have hfold : ∀ (l : List (Nat × Ring)) (e : Dev), e = { d with host := { d.host with rings := e.host.rings } } →
      l.foldl (fun d p => setRing d p.1 (some { p.2 with passed := if p.1 = r then 0 else p.2.passed + 1 })) e =
        { d with host := { d.host with rings := (l.foldl (fun d p =>
          setRing d p.1 (some { p.2 with passed := if p.1 = r then 0 else p.2.passed + 1 })) e).host.rings } } := by
    intro l
    induction l with
    | nil => exact fun _ h => h
    | cons p l ih =>
      intro e he
      rw [List.foldl_cons]
      refine ih _ ?_
      rw [he]
      rfl
  exact hfold _ d rfl

/-! ### Rings in Error -/

/-- Every ring in Error has stayed so. -/
def KeepsErrors (d e : Dev) : Prop :=
  ∀ r, (ringOf d r).map (·.state) = some .error → (ringOf e r).map (·.state) = some .error

theorem KeepsErrors.refl (d : Dev) : KeepsErrors d d := fun _ h => h

theorem KeepsErrors.trans {d e f : Dev} (h : KeepsErrors d e) (g : KeepsErrors e f) : KeepsErrors d f :=
  fun r hr => g r (h r hr)

theorem KeepsErrors.same {d e : Dev} (h : e.host.rings = d.host.rings) : KeepsErrors d e := fun r hr => by
  unfold ringOf at *
  rwa [h]

theorem keepsErrors_setRing {d : Dev} {r : Nat} {x y : Ring} (hx : ringOf d r = some x)
    (hy : x.state = .error → y.state = .error) : KeepsErrors d (setRing d r (some y)) := by
  intro q hq
  by_cases h : q = r
  · subst h
    rw [ringOf_setRing_self]
    rw [hx] at hq
    exact congrArg some (hy (Option.some.inj hq))
  · rw [ringOf_setRing_ne d _ h]
    exact hq

theorem keepsErrors_sendMsix (d : Dev) (fn v : Nat) : KeepsErrors d (sendMsix d fn v) := by
  unfold sendMsix
  dsimp only
  split <;> exact .same rfl

theorem keepsErrors_sends {d e : Dev} (h : Sends d e) : KeepsErrors d e := by
  unfold Sends at h
  refine .same ?_
  rw [h]

theorem keepsErrors_foldl {α : Type} {f : Dev → α → Dev} (hf : ∀ d a, KeepsErrors d (f d a)) :
    ∀ (l : List α) (d : Dev), KeepsErrors d (l.foldl f d)
  | [], d => .refl d
  | a :: l, d => (hf d a).trans (keepsErrors_foldl hf l (f d a))

theorem keepsErrors_eventToRing (e : Event) (p : Dev × List (Nat × Nat)) (r : Nat) :
    KeepsErrors p.1 (eventToRing e p r).1 := by
  unfold eventToRing
  split
  · exact .refl _
  · next x hx =>
    split
    · refine KeepsErrors.trans ?_ (.same (d := setRing p.1 r (some { x with overflow := true })) rfl)
      exact keepsErrors_setRing hx id
    · split
      · exact keepsErrors_setRing hx fun _ => rfl
      · refine KeepsErrors.trans ?_ (keepsErrors_sendMsix _ _ _)
        exact keepsErrors_setRing (d := p.1) hx id

theorem keepsErrors_raiseEvent (d : Dev) (fn cls code a b : Nat) : KeepsErrors d (raiseEvent d fn cls code a b) := by
  have hrings : ∀ (e : Event) (l : List Nat) (p : Dev × List (Nat × Nat)), KeepsErrors p.1 (l.foldl (eventToRing e) p).1 := by
    intro e l
    induction l with
    | nil => exact fun p => .refl p.1
    | cons r l ih => exact fun p => (keepsErrors_eventToRing e p r).trans (ih _)
  have hwrite : ∀ (d : Dev) (cls : Nat) (e : Event), KeepsErrors d (passEvent d cls e).1 := by
    intro d cls e
    unfold passEvent writeEvent
    dsimp only
    generalize takers d _ cls = ts
    split
    · split
      · exact .same rfl
      · exact keepsErrors_sends (sends_sendMsg ..)
    · split
      · exact .same rfl
      · exact hrings e ts (d, [])
  have hone : ∀ (d : Dev) (q : Raised), KeepsErrors d (raiseOne d q).1 := by
    intro d q
    unfold raiseOne
    dsimp only
    refine KeepsErrors.trans ?_ (hwrite _ _ _)
    split <;> exact .same rfl
  have hall : ∀ (n : Nat) (d : Dev) (l : List Raised), KeepsErrors d (raiseAll n d l) := by
    intro n
    induction n with
    | zero => exact fun d _ => .refl d
    | succ n ih =>
      intro d l
      cases l with
      | nil => exact .refl d
      | cons q l => exact (hone d q).trans (ih _ _)
  exact hall _ _ _

/-- A ring that meets an error is in Error. -/
theorem ringError_state {d : Dev} {r reason : Nat} {x : Ring} (hx : ringOf d r = some x) :
    (ringOf (ringError d r reason) r).map (·.state) = some .error := by
  have hset : (ringOf (setRing d r (some { x with state := .error })) r).map (·.state) = some .error := by
    rw [ringOf_setRing_self]
    rfl
  have hraised := keepsErrors_raiseEvent _ x.owner 3 7 r reason r hset
  unfold ringError
  rw [hx]
  dsimp only
  split
  · refine keepsErrors_foldl (fun d p => ?_) _ _ r hraised
    split
    · next y hy =>
      refine KeepsErrors.trans ?_ (keepsErrors_raiseEvent _ _ _ _ _ _)
      exact keepsErrors_setRing hy fun _ => rfl
    · exact .refl d
  · exact hraised

/-! ### The handshake -/

theorem mget_filter_keys {α : Type} (dflt : α) (m : Map α) (f : Nat → Bool) (k : Nat) :
    mget dflt (m.filter fun p => !f p.1) k = if f k then dflt else mget dflt m k := by
  induction m with
  | nil => exact (ite_self _).symm
  | cons p m ih =>
    obtain ⟨q, v⟩ := p
    by_cases hk : q = k
    · subst hk
      by_cases hf : f q = true
      · rw [List.filter_cons_of_neg (by simp [hf]), ih, if_pos hf, if_pos hf]
      · rw [List.filter_cons_of_pos (by simpa using hf), mget_cons_self, mget_cons_self, if_neg hf]
    · rw [mget_cons_ne hk, ← ih, List.filter_cons]
      split
      · exact mget_cons_ne hk
      · rfl

theorem zeroPrefixTable_dram (d : Dev) (k : Nat) : mget 0 (zeroPrefixTable d).mem.dram k =
    if reserveBase d ≤ space1Off k ∧ space1Off k < reserveBase d + 2 ^ d.host.nbLog2 * 128 then 0
    else mget 0 d.mem.dram k := by
  refine (mget_filter_keys 0 d.mem.dram (fun k => reserveBase d ≤ space1Off k &&
    space1Off k < reserveBase d + 2 ^ d.host.nbLog2 * 128) k).trans ?_
  simp only [Bool.and_eq_true, decide_eq_true_iff]

/-- Settles O44: each way in joins its command, moves its index or counts what it drops, through the equation of its command. -/
theorem commandsArriveThroughRingsAndMailbox : Obligations.CommandsArriveThroughRingsAndMailbox := by
  unfold Obligations.CommandsArriveThroughRingsAndMailbox
  refine ⟨?_, ?_, ?_, ?_, ?_, ?_, ?_, ?_, ?_, ?_, ?_, ?_, ?_, ?_⟩
  case refine_1 =>
    intro r b heads data ok x
    refine answers_onDev (fun s => show execCommandFetch r (some b) heads data ok s = _ from rfl) fun d hd => ?_
    obtain ⟨hx, hfetch, hturn, hroom, hdown, hlen, hknown, -, hfresh⟩ := hd
    rw [hx]
    dsimp only
    rw [if_neg (by simp only [hfetch, hturn, hdown]; simp; omega)]
    rw [passOthers_rings, fitTo_self hlen]
    generalize (passOthers d r).host.rings = rs
    obtain ⟨hsends, hquiet⟩ := arrives_spec
      (d := setRing { d with host := { d.host with rings := rs } } r
        (some { x with head := (x.head + 1) % 2 ^ x.sizeLog2, passed := 0 }))
      hfresh hknown x.owner r heads data ok (acceptedEpoch d) none
    have hring : ringOf (setRing { d with host := { d.host with rings := rs } } r
        (some { x with head := (x.head + 1) % 2 ^ x.sizeLog2, passed := 0 })) r =
        some { x with head := (x.head + 1) % 2 ^ x.sizeLog2, passed := 0 } := ringOf_setRing_self ..
    obtain ⟨e, he⟩ : ∃ e, endReserved (holdNew (addCmd (setRing { d with host := { d.host with rings := rs } } r
        (some { x with head := (x.head + 1) % 2 ^ x.sizeLog2, passed := 0 })) x.owner r b heads data ok (acceptedEpoch d) none)
        d.host.nextCid) d.host.nextCid = e := ⟨_, rfl⟩
    have hsent : Sends _ e := he ▸ hsends
    have hsame : d.pad.role ≠ .lead → e = _ := fun h => he.symm.trans (hquiet h)
    unfold Sends at hsent
    refine ⟨e, congrArg some he, ?_, fun hrole => ?_, ⟨newCmd _ x.owner r b heads data ok (acceptedEpoch d) none, ?_, rfl, rfl, rfl, rfl, rfl, rfl,
      rfl, rfl, rfl, rfl, rfl, ?_⟩, ?_⟩
    · unfold HostAndLinks
      rw [hsent]
      rfl
    · unfold HostOnly
      rw [hsame hrole]
      rfl
    · show e.host.cmds = _
      rw [hsent]
      rfl
    · show e.host.nextCid = _
      rw [hsent]
      rfl
    · rw [hsent]
      exact hring
  case refine_2 =>
    intro r heads data ok x
    refine answers_onDev (fun s => show execCommandFetch r none heads data ok s = _ from rfl) fun d hd => ?_
    obtain ⟨hx, hfetch, hturn, hroom, hdown⟩ := hd
    rw [hx]
    dsimp only
    rw [if_neg (by simp only [hfetch, hturn, hdown]; simp; omega)]
    refine ⟨ringError d r 2, rfl, ?_⟩
    have hconc := concludes_ringError d r 2
    have hsig := signals_ringError d r 2
    have hstate := ringError_state (reason := 2) hx
    generalize ringError d r 2 = e at hconc hsig hstate
    refine ⟨hconc.spares, ?_, hstate⟩
    show e.host.cmds = _
    unfold Signals at hsig
    rw [hsig]
  case refine_3 =>
    intro fn r v x
    refine answers_always (fun s => show execDoorbell fn r v s = _ from rfl) fun d hd => ?_
    obtain ⟨hx, hstate, howner, hactive, hserving, hsub, hindex⟩ := hd
    have hbits : bitsOf v.toNat 15 0 = v.toNat % 2 ^ 16 := by simp [bitsOf]
    have hrun : ringDoorbell d fn r v = setRing d r (some { x with tail := v.toNat % 2 ^ 16 }) := by
      unfold ringDoorbell
      rw [hx]
      dsimp only
      rw [hbits, if_neg hstate, if_neg (by simp [howner, hactive, hserving]), if_neg (by omega), if_pos hsub]
    rw [hrun]
    exact ⟨rfl, rfl, ringOf_setRing_self .., fun q hq => ringOf_setRing_ne d _ hq⟩
  case refine_4 =>
    intro fn r v x
    refine answers_always (fun s => show execDoorbell fn r v s = _ from rfl) fun d hd => ?_
    obtain ⟨hx, hstate, howner, hactive, hserving, hsub, hheld, hindex, hno⟩ := hd
    have hbits : bitsOf v.toNat 15 0 = v.toNat % 2 ^ 16 := by simp [bitsOf]
    have hrun : ∃ f, ringDoorbell d fn r v =
        drainRings (freeFailed (setRing d r (some { x with head := v.toNat % 2 ^ 16 })) f) := by
      unfold ringDoorbell
      rw [hx]
      dsimp only
      rw [hbits, if_neg hstate, if_neg (by simp [howner, hactive, hserving]), if_neg (by omega), if_neg hsub, hheld]
      exact ⟨_, rfl⟩
    obtain ⟨f, hrun⟩ := hrun
    have hgrows : Grows d (setRing d r (some { x with head := v.toNat % 2 ^ 16 })) := grows_setRing hx rfl
    rw [hrun, drainRings_none ((hgrows.trans (grows_freeFailed _ f)).noneWaits hno.noneWaits)]
    obtain ⟨hsends, -⟩ := freeFailed_spec (setRing d r (some { x with head := v.toNat % 2 ^ 16 })) f
    generalize freeFailed (setRing d r (some { x with head := v.toNat % 2 ^ 16 })) f = e at hsends ⊢
    unfold Sends at hsends
    have hrings : ∀ q, ringOf e q = ringOf (setRing d r (some { x with head := v.toNat % 2 ^ 16 })) q := fun q => by
      rw [hsends]
      rfl
    refine ⟨?_, (hrings r).trans (ringOf_setRing_self ..), fun q hq => (hrings q).trans (ringOf_setRing_ne d _ hq)⟩
    unfold HostModelsAndLinks
    rw [hsends]
    rfl
  case refine_5 =>
    intro fn r v
    refine answers_always (fun s => show execDoorbell fn r v s = _ from rfl) fun d hd => ?_
    obtain ⟨hstate, hdrop⟩ := hd
    have hrun : ringDoorbell d fn r v = bump d 0xB0 := by
      unfold ringDoorbell
      split
      · rw [if_neg hstate]
        rfl
      · next x hx =>
        dsimp only
        rw [if_neg hstate, if_pos]
        · rfl
        · rcases hdrop with hdrop | hdrop
          · exact .inr (.inr hdrop)
          · exact (hdrop x hx).imp id .inl
    rw [hrun]
    exact countsOnly_bump d 0xB0
  case refine_6 =>
    intro fn r v
    refine answers_always (fun s => show execDoorbell fn r v s = _ from rfl) fun d hstate => ?_
    have hrun : ringDoorbell d fn r v = d := by
      unfold ringDoorbell
      split <;> exact if_pos hstate
    rw [hrun]
    rfl
  case refine_7 =>
    intro r x
    refine answers_onDev (fun s => show execCoalesceTimeout r s = _ from rfl) fun d hd => ?_
    obtain ⟨hx, htype, hactive, hwaits, hmask⟩ := hd
    rw [hx]
    dsimp only
    rw [if_pos ⟨htype, hactive, hwaits⟩]
    refine ⟨_, rfl, ?_⟩
    unfold sendMsix
    dsimp only
    rw [if_neg (by rw [Bool.not_eq_true]; exact hmask)]
    exact ⟨⟨rfl, rfl, rfl, rfl, rfl⟩, ringOf_setRing_self d r (some { x with unsignalled := 0 }),
      fun q hq => ringOf_setRing_ne d (some { x with unsignalled := 0 }) hq, _, _, rfl⟩
  case refine_8 =>
    intro v heads data ok
    refine answers_always (fun s => show execMboxDoorbell v heads data ok s = _ from rfl) fun d hd => ?_
    obtain ⟨hv, hstate, hfree, hserving, hknown, -, hfresh⟩ := hd
    rw [if_neg (by simp [hv, hstate]), if_neg (by simpa [hserving] using hfree)]
    obtain ⟨hfreed, -⟩ := freeFailed_spec d fun p => p.1 == mboxRing
    generalize freeFailed d (fun p => p.1 == mboxRing) = g at hfreed ⊢
    unfold Sends at hfreed
    have hhost : g.host = d.host := by rw [hfreed]
    obtain ⟨hsent, -⟩ := arrives_spec (d := g) (by rwa [hhost]) hknown 0 mboxRing heads data ok (acceptedEpoch d) none
    rw [hhost] at hsent
    generalize endReserved (holdNew (addCmd g 0 mboxRing (mboxBytes d) heads data ok (acceptedEpoch d) none)
      d.host.nextCid) d.host.nextCid = e at hsent ⊢
    unfold Sends at hsent
    refine ⟨?_, newCmd g 0 mboxRing (mboxBytes d) heads data ok (acceptedEpoch d) none, ?_, ?_, rfl, rfl, rfl, rfl, rfl,
      rfl, rfl, rfl, rfl, ?_, ?_⟩
    · unfold HostModelsAndLinks
      rw [hsent, addCmd_eq, hfreed]
    · show e.host.cmds = _
      rw [hsent, addCmd_eq, hhost]
    · show g.host.nextCid = _
      rw [hhost]
    · show decide (1024 ≤ inProgress g) = _
      unfold inProgress
      rw [hhost]
    · show e.host.nextCid = _
      rw [hsent, addCmd_eq, hhost]
  case refine_9 =>
    intro v heads data ok
    refine answers_always (fun s => show execMboxDoorbell v heads data ok s = _ from rfl) fun d hd => ?_
    obtain ⟨hv, hstate, hbusy⟩ := hd
    rw [if_neg (by simp [hv, hstate]), if_pos (by simpa using hbusy)]
    exact countsOnly_bump d 0xB0
  case refine_10 =>
    intro v heads data ok
    refine answers_always (fun s => show execMboxDoorbell v heads data ok s = _ from rfl) fun d hd => ?_
    rw [if_pos hd]
    rfl
  case refine_11 =>
    intro lead fn desc data n
    refine answers_onDev (fun s => show execForwardedCommand lead fn desc data n s = _ from rfl) fun d hd => ?_
    obtain ⟨hlen, hrole⟩ := hd
    rw [if_pos hrole, fitTo_self hlen]
    exact ⟨_, rfl, rfl, newCmd (dropGuest d lead) fn noRing desc [] data true n (some lead), rfl, rfl, rfl, rfl, rfl, rfl,
      rfl, rfl, rfl, rfl, rfl, rfl, rfl⟩
  case refine_12 =>
    intro v
    refine answers_always (fun s => show execHsGo v s = _ from rfl) fun d hd => ?_
    obtain ⟨hv, hstate, hlayout⟩ := hd
    rw [if_neg (by simp [hv, hstate]), if_neg (by simp [hlayout])]
    refine ⟨rfl, rfl, rfl, rfl, rfl, fun k => ?_⟩
    exact zeroPrefixTable_dram { setMem d { d.mem with layout := d.host.hsLayout &&& layoutMask } with
      host := { d.host with state := .running, fail := 0, nbLog2 := d.host.hsNb } } k
  case refine_13 =>
    intro v
    refine answers_always (fun s => show execHsGo v s = _ from rfl) fun d hd => ?_
    obtain ⟨hv, hstate, hlayout⟩ := hd
    rw [if_neg (by simp [hv, hstate]), if_pos hlayout]
  case refine_14 =>
    intro v
    refine answers_always (fun s => show execHsGo v s = _ from rfl) fun d hd => ?_
    rw [if_pos hd]
    rfl

end Sys2Proof.Machine
end

section
/-! An edit batch that already bears the id that the next one takes (O37). -/

namespace Sys2Proof.Machine

open Sys2Proof

/-- A SEQ_OPEN block: die 0, headroom 1, one layer, one head of 64, window 1, MAXLEN 512. -/
def smallBlock : List Byte :=
  [0, 0, 0, 1, 1, 0, 1, 0, 64, 0, 1, 0, 0, 2, 0, 0] ++ List.replicate 48 0

/-- A SEQ_OPEN of that block through the mailbox. -/
def openSmall : Cmd :=
  { cid := 7, fn := 0, ring := mboxRing, desc := 0x20 :: List.replicate 15 0 ++ 64 :: List.replicate 47 0, heads := []
    data := some [smallBlock], resultOk := true, queued := false, epoch := 0, begun := false, waiting := [], running := []
    ended := [], awaits := none, remote := false, lead := none, edits := [], asks := [], held := none, stopped := false
    aborting := none, solve := none }

/-- The sequence that is open already, and the batch of its list that bears the next id. -/
def standing : Seq := newSeq 0 smallBlock 0 listBase

def clashing : Edit := { id := Dev.reset.nextId, seq := 0, layer := 0, sets := [], newLen := none }

/-- A serving module in which sequence 0 is open and its batch waits. -/
def editClash : Dev :=
  { Dev.reset with
    host := { HostIf.reset with state := .running, linkUp := true, cmds := [openSmall], nextCid := 8 }
    attn := { Dev.reset.attn with seqs := [(0, some standing)], edits := [clashing] } }

theorem editClash_starts : CmdStarts editClash 7 0x20 anyForm openSmall := by
  refine ⟨?_, ?_, ?_, ?_, ?_, ?_, ?_, ?_⟩ <;> decide

/-- The command, and the module, when it has begun. -/
def openBegun : Cmd := { openSmall with begun := true }

def clashBegun : Dev := pruneAll (putCmd editClash openBegun) (openDie editClash openSmall.bytes)

theorem begins_openSmall (d : Dev) : begins d openSmall = openBegun := rfl

theorem started_openSmall (d : Dev) : started d openSmall = putCmd d openBegun := rfl

theorem openDie_smallBlock (d : Dev) : openDie d smallBlock = 0 := rfl

/-- Another id is free. -/
theorem clashBegun_freeId : ∃ n, freeId clashBegun 3 65536 1 (fun k => (seqOf clashBegun k).isNone && jobsNaming clashBegun k == []) = some n ∧
    n ≠ 0 := by
  have hzero : ((seqOf clashBegun 0).isNone && jobsNaming clashBegun 0 == []) = false := by decide +kernel
  have hone : ((seqOf clashBegun 1).isNone && jobsNaming clashBegun 1 == []) = true := by decide +kernel
  unfold freeId
  dsimp only
  generalize Config.freeNat clashBegun.draws 3 % 65536 = p
  split
  · refine ⟨p, rfl, ?_⟩
    rintro rfl
    simp_all
  · exact ⟨1, by simp only [firstFrom, hzero, hone]; rfl, by decide⟩

theorem clashBegun_place : ∃ n at_, openPlace clashBegun 0 openSmall.bytes = .ok (n, 0, at_) ∧ n ≠ 0 := by
  obtain ⟨n, hn, hne⟩ := clashBegun_freeId
  have hdie : openDie clashBegun openSmall.bytes = 0 := by decide +kernel
  have hquota : mget none clashBegun.host.quota 0 = none := by decide +kernel
  have hfree : ¬ freePages clashBegun 0 < fieldAt openSmall.bytes 4 2 := by decide +kernel
  obtain ⟨at_, hat⟩ := Option.isSome_iff_exists.mp (show (lowestRange (listRanges clashBegun 0) listBase (listEnd clashBegun)
      (fieldAt openSmall.bytes 4 2 * strideOf (fieldAt openSmall.bytes 12 4 / openTp openSmall.bytes))).isSome by decide +kernel)
  have hlen : clashBegun.attn.seqs.length + clashBegun.attn.jobs.length = 1 := by decide +kernel
  refine ⟨n, at_, ?_, hne⟩
  unfold openPlace
  simp only [hdie, hquota, hlen, hn, hfree, hat, if_false, Bool.false_eq_true]

/-! What the writes of an opening leave. -/

theorem engWrite_attn (d : Dev) (die off : Nat) (bs : List Byte) : (engWrite d die off bs).attn = d.attn := by
  have hwrites := (dramWrite_spec d ((homeKeys die off bs.length).zip bs)).1
  have hreports := (mirrorOut_spec (dramWrite d ((homeKeys die off bs.length).zip bs)) false ((homeKeys die off bs.length).zip bs)).1
  unfold Writes at hwrites
  unfold Reports at hreports
  show (mirrorOut _ false _).attn = _
  rw [hreports, hwrites]

theorem engWrite_pool (d : Dev) (die off : Nat) (bs : List Byte) :
    homeSplit (engWrite d die off bs) = homeSplit d ∧ (engWrite d die off bs).nextId = d.nextId ∧
      ∀ k, freePages (engWrite d die off bs) k = freePages d k := by
  have hattn := engWrite_attn d die off bs
  have htidies := tidies_engWrite d die off bs
  generalize engWrite d die off bs = e at hattn htidies ⊢
  unfold Tidies at htidies
  have hsplit : homeSplit e = homeSplit d := by
    rw [htidies]
    rfl
  have hpool : poolSize e = poolSize d := by
    rw [htidies]
    rfl
  refine ⟨hsplit, htidies ▸ rfl, fun k => ?_⟩
  unfold freePages
  rw [hpool, hattn]

/-- What stands of a module while another sequence is opened in it: batches, jobs, numbers and the pages that are free. -/
structure OpensOther (d e : Dev) : Prop where
  edits : e.attn.edits = d.attn.edits
  jobs : e.attn.jobs = d.attn.jobs
  nextId : e.nextId = d.nextId
  split : homeSplit e = homeSplit d
  pages : ∀ k, freePages e k = freePages d k
  zero : seqOf e 0 = seqOf d 0

theorem OpensOther.trans {d e f : Dev} (h : OpensOther d e) (g : OpensOther e f) : OpensOther d f :=
  ⟨g.edits.trans h.edits, g.jobs.trans h.jobs, g.nextId.trans h.nextId, g.split.trans h.split,
    fun k => (g.pages k).trans (h.pages k), g.zero.trans h.zero⟩

theorem opensOther_written (d : Dev) {id : Nat} (h : id ≠ 0) (q : Seq) (die off : Nat) (bs : List Byte) :
    OpensOther d (engWrite (setSeq d id (some q)) die off bs) := by
  obtain ⟨hsplit, hnext, hpages⟩ := engWrite_pool (setSeq d id (some q)) die off bs
  have hattn := engWrite_attn (setSeq d id (some q)) die off bs
  refine ⟨by rw [hattn]; rfl, by rw [hattn]; rfl, hnext, hsplit, hpages, ?_⟩
  unfold seqOf
  rw [hattn]
  exact seqOf_setSeq_ne d _ h.symm

theorem opensOther_openList (d : Dev) {id : Nat} (h : id ≠ 0) (l : Nat) (x : PageList) : OpensOther d (openList d id l x) := by
  unfold openList
  split
  · exact ⟨rfl, rfl, rfl, rfl, fun _ => rfl, rfl⟩
  · exact opensOther_written _ h _ _ _ _

theorem opensOther_takePages (die n : Nat) (d : Dev) :
    (takePages die n d).1.attn.edits = d.attn.edits ∧ (takePages die n d).1.attn.jobs = d.attn.jobs ∧
      (takePages die n d).1.nextId = d.nextId ∧ seqOf (takePages die n d).1 0 = seqOf d 0 := by
  rw [takePages_frame]
  exact ⟨rfl, rfl, rfl, rfl⟩

/-- The batch that already bears the number is the one applied. -/
theorem editNow_clash {d : Dev} (hedits : d.attn.edits = [clashing]) (hjobs : d.attn.jobs = []) (hnext : d.nextId = clashing.id)
    (hzero : seqOf d 0 = some standing) (id l : Nat) (sets : List (Nat × W32)) :
    seqOf (editNow d id l sets none) 0 ≠ some standing := by
  have hlist : (addEdit d id l sets none).attn.edits =
      [clashing, { id := d.nextId, seq := id, layer := l, sets := sets, newLen := none }] := by
    show d.attn.edits ++ _ = _
    rw [hedits]
    rfl
  have hfind : (addEdit d id l sets none).attn.edits.find? (·.id == d.nextId) = some clashing := by
    rw [hlist, hnext]
    exact List.find?_cons_of_pos (by simp)
  have hseq : seqOf (addEdit d id l sets none) 0 = some standing := hzero
  have hmay : editMay (addEdit d id l sets none) clashing = true := by
    have hhead : ((editsOf (addEdit d id l sets none) clashing.seq clashing.layer).head?) = some clashing := by
      unfold editsOf
      rw [hlist]
      rfl
    have hfree : editFree (addEdit d id l sets none) clashing = true := by
      unfold editFree
      rw [show seqOf (addEdit d id l sets none) clashing.seq = some standing from hseq]
      rfl
    have happend : appendBefore (addEdit d id l sets none) clashing = false := by
      unfold appendBefore
      rw [show (addEdit d id l sets none).attn.jobs = [] from hjobs]
      rfl
    unfold editMay
    rw [hhead, hfree, happend]
    rfl
  have hnow : editNow d id l sets none = applyEdit (addEdit d id l sets none) clashing := by
    unfold editNow
    dsimp only
    rw [hfind]
    exact if_pos hmay
  obtain ⟨-, -, -, hseqs⟩ := (applyEdit_tidies (b := clashing) hseq).lists
  rw [hnow, hseqs, show (0 : Nat) = clashing.seq from rfl, seqOf_setSeq]
  intro hsame
  have hgen := congrArg (fun q => (Seq.list q 0).gen) (Option.some.inj hsame)
  exact absurd hgen (by decide)

theorem openSeq_one {q : Seq} (h : q.layers = 1) (d : Dev) (id : Nat) :
    openSeq d id q =
      pruneAll (([0].zip (takePages q.die 1 (openList (putSeq d id q) id 0 (q.list 0))).2).foldl
        (fun d p => editNow d id p.1 [(0, BitVec.ofNat 32 p.2)] none)
        (takePages q.die 1 (openList (putSeq d id q) id 0 (q.list 0))).1) q.die := by
  unfold openSeq
  simp only [h, List.range_one, List.foldl_cons, List.foldl_nil]

/-- The opening of another sequence applies the batch that waited on sequence 0. -/
theorem openSeq_clash {d : Dev} (hedits : d.attn.edits = [clashing]) (hjobs : d.attn.jobs = []) (hnext : d.nextId = clashing.id)
    (hzero : seqOf d 0 = some standing) (hsplit : homeSplit d ≤ stackSize) {q : Seq} (hlayers : q.layers = 1)
    (hpages : 1 ≤ freePages d q.die) {id : Nat} (hid : id ≠ 0) : seqOf (openSeq d id q) 0 ≠ some standing := by
  have hopened : OpensOther d (openList (putSeq d id q) id 0 (q.list 0)) :=
    (opensOther_written d hid ..).trans (opensOther_openList _ hid ..)
  rw [openSeq_one hlayers]
  generalize openList (putSeq d id q) id 0 (q.list 0) = g at hopened ⊢
  have gsplit : homeSplit g ≤ stackSize := by
    rw [hopened.split]
    exact hsplit
  have gpages : 1 ≤ freePages g q.die := by
    rw [hopened.pages]
    exact hpages
  obtain ⟨hone, -⟩ := takePages_spec 1 gsplit gpages
  obtain ⟨tedits, tjobs, tnext, tzero⟩ := opensOther_takePages q.die 1 g
  generalize takePages q.die 1 g = t at hone tedits tjobs tnext tzero ⊢
  obtain ⟨p, hp⟩ := List.length_eq_one_iff.mp hone
  rw [(tidies_pruneAll ..).lists.2.2.2, hp]
  exact editNow_clash (tedits.trans (hopened.edits.trans hedits)) (tjobs.trans (hopened.jobs.trans hjobs))
    (tnext.trans (hopened.nextId.trans hnext)) (tzero.trans (hopened.zero.trans hzero)) _ _ _

theorem seqOpenDev_places {d : Dev} {c : Cmd} {p : Nat × Nat × Nat} (hdata : c.dataFailed = false) (hlen : c.dataLen = 64)
    (hok : openRefusal d c.bytes = none) (hplace : openPlace (pruneAll d (openDie d c.bytes)) c.fn c.bytes = .ok p) :
    seqOpenDev d c = finish (openSeq (pruneAll d (openDie d c.bytes)) p.1 (newSeq c.fn c.bytes p.2.1 p.2.2)) c
      { ends 0 with value0 := p.1 + 2 ^ 16 * p.2.1, value1 := openTp c.bytes } := by
  unfold seqOpenDev
  rw [if_neg (by rw [hdata]; decide), if_neg (not_not.mpr hlen), hok]
  dsimp only
  rw [hplace]

theorem openBegun_passes : openRefusal (putCmd editClash openBegun) openBegun.bytes = none := by decide +kernel

theorem clashBegun_eq : clashBegun = putCmd editClash openBegun := rfl

theorem clashBegun_pages : homeSplit clashBegun ≤ stackSize ∧ 1 ≤ freePages clashBegun 0 := by decide +kernel

theorem clashBegun_holds : clashBegun.attn.edits = [clashing] ∧ clashBegun.attn.jobs = [] ∧ clashBegun.nextId = clashing.id ∧
    seqOf clashBegun 0 = some standing := by
  rw [clashBegun_eq]
  exact ⟨rfl, rfl, rfl, rfl⟩

theorem newSeq_smallBlock (at_ : Nat) : (newSeq 0 smallBlock 0 at_).layers = 1 ∧ (newSeq 0 smallBlock 0 at_).die = 0 :=
  ⟨show fieldAt smallBlock 4 2 = 1 by decide, rfl⟩

theorem openSeq_clash_of_begun {n : Nat} (at_ : Nat) (h : n ≠ 0) :
    seqOf (openSeq clashBegun n (newSeq 0 smallBlock 0 at_)) 0 ≠ some standing := by
  obtain ⟨hedits, hjobs, hnext, hzero⟩ := clashBegun_holds
  obtain ⟨hsplit, hpages⟩ := clashBegun_pages
  obtain ⟨hlayers, hdie⟩ := newSeq_smallBlock at_
  generalize clashBegun = d at hedits hjobs hnext hzero hsplit hpages ⊢
  generalize newSeq 0 smallBlock 0 at_ = q at hlayers hdie ⊢
  exact openSeq_clash hedits hjobs hnext hzero hsplit hlayers (hdie ▸ hpages) h

/-- What the SEQ_OPEN leaves of sequence 0. -/
theorem editClash_edits : ∃ e, exec (.seqOpen 7) { pending := [], dev := editClash } = .next { pending := [], dev := e } ∧
    seqOf e 0 ≠ some standing := by
  obtain ⟨n, at_, hplace, hne⟩ := clashBegun_place
  obtain ⟨e, hleaves, hrun⟩ := startCmd_starts (name := "SEQ_OPEN") (f := seqOpenDev) (s := { pending := [], dev := editClash })
    editClash_starts
  refine ⟨e, hrun, ?_⟩
  rw [started_openSmall, begins_openSmall] at hleaves
  have hopen := seqOpenDev_places (d := putCmd editClash openBegun) (c := openBegun) rfl rfl openBegun_passes hplace
  have hattn : e.attn = (openSeq clashBegun n (newSeq 0 smallBlock 0 at_)).attn := by
    rw [hleaves.machine.2.2.2.2.2.1, hopen]
    exact (concludes_finish _ _ _).machine.2.2.2.2.2.1
  unfold seqOf
  rw [hattn]
  exact openSeq_clash_of_begun _ hne

/-- Refutes O37: SEQ_OPEN is to leave every other sequence as it is, but the statement does not ask that the ids of the batches
in progress be below the next one, as the invariant of every step has it; a batch that bears the next id is applied in the
place of the one that fills the new sequence's first page. -/
theorem not_sequenceCommands : ¬ Obligations.SequenceCommands := by
  rintro ⟨hopen, -⟩
  obtain ⟨n, at_, hplace, hne⟩ := clashBegun_place
  obtain ⟨t, ht, -, -, -, -, -, -, hothers, -⟩ := hopen 7 openSmall clashBegun n 0 at_ { pending := [], dev := editClash }
    ⟨editClash_starts, ⟨by decide, by decide⟩, rfl, rfl, by decide +kernel, rfl, hplace⟩
  obtain ⟨e, he, hchanged⟩ := editClash_edits
  obtain rfl := Host.Outcome.next.inj (he.symm.trans ht)
  exact hchanged ((hothers 0 hne.symm).trans rfl)

end Sys2Proof.Machine
end

section
/-! What reads of memory and their events leave of the rings that records go to (for O38 and O41). -/

namespace Sys2Proof.Machine

open Sys2Proof

/-- Where no ring waits to become Free, none does then, and records still go where they went. -/
def KeepsDesk (d e : Dev) : Prop := NoDrain d → NoDrain e ∧ SameDesk d e

theorem KeepsDesk.trans {d e f : Dev} (h : KeepsDesk d e) (g : KeepsDesk e f) : KeepsDesk d f := fun hno => by
  obtain ⟨he, hde⟩ := h hno
  obtain ⟨hf, hef⟩ := g he
  exact ⟨hf, hde.trans hef⟩

theorem KeepsDesk.of {d e : Dev} (hgrows : Grows d e) (hrings : e.host.rings = d.host.rings)
    (hphase : e.host.mboxPhase = d.host.mboxPhase) : KeepsDesk d e := fun hno => by
  refine ⟨?_, .of hgrows hrings hphase⟩
  unfold NoDrain
  rwa [hrings]

theorem KeepsDesk.refl (d : Dev) : KeepsDesk d d := .of (.refl d) rfl rfl

theorem keepsDesk_foldl {α : Type} {f : Dev → α → Dev} (hf : ∀ d a, KeepsDesk d (f d a)) :
    ∀ (l : List α) (d : Dev), KeepsDesk d (l.foldl f d)
  | [], d => .refl d
  | a :: l, d => (hf d a).trans (keepsDesk_foldl hf l (f d a))

theorem keepsDesk_bump (d : Dev) (o : Nat) : KeepsDesk d (bump d o) := .of (grows_bumpBy ..) rfl rfl

theorem keepsDesk_setMem (d : Dev) (m : Memory) : KeepsDesk d (setMem d m) := .of (.same rfl rfl rfl rfl) rfl rfl

theorem ringOf_of_mem {d : Dev} (h : mwf none d.host.rings) {r : Nat} {x : Ring} (hx : (r, some x) ∈ d.host.rings) :
    ringOf d r = some x := by
  have hfind : ∀ m : Map (Option Ring), m.Pairwise (fun p q => p.1 < q.1) → (r, some x) ∈ m → mget none m r = some x := by
    intro m
    induction m with
    | nil => exact fun _ h => absurd h List.not_mem_nil
    | cons p m ih =>
      intro hm hmem
      rw [List.pairwise_cons] at hm
      rcases List.mem_cons.1 hmem with rfl | hmem
      · exact mget_cons_self ..
      · exact (mget_cons_ne (Nat.ne_of_lt (hm.1 _ hmem))).trans (ih hm.2 hmem)
  exact hfind _ h.1 hx

/-- A ring that takes events, changed but for where it leads. -/
theorem keepsDesk_setRing {d : Dev} {r : Nat} {x y : Ring} (hx : ringOf d r = some x) (htype : x.type = .event)
    (hbind : y.bind = x.bind) (hhead : y.head = x.head) (hsame : y.type = x.type) (hdest : y.destroyer = x.destroyer) :
    KeepsDesk d (setRing d r (some y)) := fun hno => by
  have hgrows : Grows d (setRing d r (some y)) := grows_setRing hx hdest
  have hlisted : mwf none (setRing d r (some y)).host.rings := by
    obtain ⟨hlist, -⟩ := hno
    exact mwf_mput hlist r (some y)
  refine ⟨⟨hlisted, fun p hp z hz => ?_⟩, hgrows, fun q z hq => ?_, rfl⟩
  · obtain ⟨q, v⟩ := p
    subst hz
    exact hgrows.noneWaits hno.noneWaits q z (ringOf_of_mem hlisted hp)
  · by_cases h : q = r
    · subst h
      obtain rfl := Option.some.inj (hx.symm.trans hq)
      refine ⟨y, ringOf_setRing_self .., hbind, hhead, hsame, fun hcomp => ?_⟩
      rw [htype] at hcomp
      exact absurd hcomp (by decide)
    · exact ⟨z, (ringOf_setRing_ne d _ h).trans hq, rfl, rfl, rfl, fun _ => rfl⟩

theorem keepsDesk_sendMsix (d : Dev) (fn v : Nat) : KeepsDesk d (sendMsix d fn v) := by
  refine .of (grows_sendMsix ..) ?_ ?_ <;>
  · unfold sendMsix
    dsimp only
    split <;> rfl

theorem keepsDesk_emit (d : Dev) (o : Output) : KeepsDesk d (emit d o) := .of (grows_emit ..) rfl rfl

theorem keepsDesk_eventToRing (e : Event) (p : Dev × List (Nat × Nat)) {r : Nat}
    (h : ∃ x, ringOf p.1 r = some x ∧ x.type = .event) : KeepsDesk p.1 (eventToRing e p r).1 := by
  obtain ⟨x, hx, htype⟩ := h
  unfold eventToRing
  rw [hx]
  dsimp only
  split
  · refine KeepsDesk.trans ?_ (keepsDesk_bump _ _)
    exact keepsDesk_setRing hx htype rfl rfl rfl rfl
  · split
    · exact keepsDesk_setRing hx htype rfl rfl rfl rfl
    · refine KeepsDesk.trans (KeepsDesk.trans ?_ (keepsDesk_emit _ _)) (keepsDesk_sendMsix _ _ _)
      exact keepsDesk_setRing hx htype rfl rfl rfl rfl

theorem keepsDesk_writeEvent (d : Dev) (cls : Nat) (e : Event) : KeepsDesk d (writeEvent d cls e).1 := by
  have hrings : ∀ (l : List Nat) (p : Dev × List (Nat × Nat)), (∀ r ∈ l, ∃ x, ringOf p.1 r = some x ∧ x.type = .event) →
      KeepsDesk p.1 (l.foldl (eventToRing e) p).1 := by
    intro l
    induction l with
    | nil => exact fun p _ => .refl p.1
    | cons r l ih =>
      intro p hl hno
      have hone := keepsDesk_eventToRing e p (hl r List.mem_cons_self)
      refine KeepsDesk.trans hone (ih _ fun q hq => ?_) hno
      obtain ⟨x, hx, htype⟩ := hl q (List.mem_cons_of_mem _ hq)
      obtain ⟨y, hy, -, -, hsame, -⟩ := (hone hno).2.rings q x hx
      exact ⟨y, hy, hsame.trans htype⟩
  intro hno
  have htakers : ∀ fn, ∀ r ∈ takers d fn cls, ∃ x, ringOf d r = some x ∧ x.type = .event := by
    intro fn r hr
    obtain ⟨⟨q, v⟩, hp, rfl⟩ := List.mem_map.1 hr
    obtain ⟨hmem, htake⟩ := List.mem_filter.1 hp
    cases v with
    | none => exact absurd htake (by simp)
    | some x =>
      refine ⟨x, ringOf_of_mem hno.1 hmem, ?_⟩
      simp only [Bool.and_eq_true, beq_iff_eq] at htake
      exact htake.1.1.1
  revert hno
  unfold writeEvent
  dsimp only
  have htaken := htakers (if e.function = 0xFFFF then 0 else e.function)
  generalize takers d _ cls = ts at htaken ⊢
  split
  · exact keepsDesk_bump _ _
  · exact hrings ts (d, []) htaken

theorem keepsDesk_raiseEvent (d : Dev) (fn cls code a b : Nat) : KeepsDesk d (raiseEvent d fn cls code a b) := by
  have hpass : ∀ (d : Dev) (cls : Nat) (e : Event), KeepsDesk d (passEvent d cls e).1 := by
    intro d cls e
    unfold passEvent
    split
    · split
      · exact keepsDesk_bump _ _
      · have hsends := sends_sendMsg d 0 (.event cls e)
        unfold Sends at hsends
        exact .of (grows_sendMsg ..) (by rw [hsends]) (by rw [hsends])
    · exact keepsDesk_writeEvent _ _ _
  have hone : ∀ (d : Dev) (q : Raised), KeepsDesk d (raiseOne d q).1 := by
    intro d q
    unfold raiseOne
    dsimp only
    refine KeepsDesk.trans ?_ (hpass _ _ _)
    split <;> exact .of (.same rfl rfl rfl rfl) rfl rfl
  have hall : ∀ (n : Nat) (d : Dev) (l : List Raised), KeepsDesk d (raiseAll n d l) := by
    intro n
    induction n with
    | zero => exact fun d _ => .refl d
    | succ n ih =>
      intro d l
      cases l with
      | nil => exact .refl d
      | cons q l => exact (hone d q).trans (ih _ _)
  exact hall _ _ _

theorem keepsDesk_dramTouchAll (d : Dev) (keys : List Nat) : KeepsDesk d (dramTouchAll d keys) := by
  refine keepsDesk_foldl (fun d line => ?_) _ _
  unfold dramTouch
  dsimp only
  split
  · exact .refl d
  · exact (keepsDesk_bump _ _).trans (keepsDesk_setMem _ _)
  · exact ((keepsDesk_bump _ _).trans (keepsDesk_setMem _ _)).trans (keepsDesk_raiseEvent _ _ _ _ _ _)
  · exact keepsDesk_bump _ _

theorem keepsDesk_loftTouchAll (d : Dev) (offs : List Nat) : KeepsDesk d (loftTouchAll d offs) := by
  refine keepsDesk_foldl (fun d unit => ?_) _ _
  unfold loftTouch
  dsimp only
  split
  · exact .refl d
  · exact keepsDesk_bump _ _
  · exact ((keepsDesk_bump _ _).trans (keepsDesk_setMem _ _)).trans (keepsDesk_raiseEvent _ _ _ _ _ _)
  · exact keepsDesk_bump _ _

theorem keepsDesk_memRead (d : Dev) (a : W64) (len : Nat) : KeepsDesk d (memRead d a len).1 := by
  unfold memRead
  dsimp only
  split
  · exact .refl d
  · split
    · exact keepsDesk_loftTouchAll _ _
    · exact keepsDesk_dramTouchAll _ _

theorem touches_memRead (d : Dev) (a : W64) (len : Nat) : Touches d (memRead d a len).1 := by
  unfold memRead
  dsimp only
  split
  · exact .refl d
  · split
    · exact touches_loftTouchAll _ _
    · exact touches_dramTouchAll _ _

theorem keepsDesk_countBeyond (d : Dev) (a : W64) (len : Nat) : KeepsDesk d (countBeyond d a len) := by
  unfold countBeyond
  split
  · exact .refl d
  · split
    · exact keepsDesk_bump _ _
    · split <;> exact keepsDesk_bump _ _

/-! ### What COPY_OUT reads (R455) -/

theorem copyOut_far {d : Dev} {c : Cmd} (hcopies : ¬ (pCopyOut c = false ∨ c.stopped)) (htop : 2 ^ 42 ≤ c.param 44 8) :
    copyOut d c = (d, List.replicate (dResultLen c.desc) 0, false) := by
  unfold copyOut
  rw [if_neg hcopies]
  exact if_pos htop

theorem copyOut_reads {d : Dev} {c : Cmd} (hcopies : ¬ (pCopyOut c = false ∨ c.stopped)) (htop : ¬ 2 ^ 42 ≤ c.param 44 8) :
    ∃ (a : W64) (n : Nat) (g : Dev) (x : List Byte × Bool), copyOut d c = (g, x) ∧ g = (memRead (countBeyond d a n) a n).1 := by
  unfold copyOut
  rw [if_neg hcopies]
  exact ⟨BitVec.ofNat 64 (2 ^ 58 * d.pad.index + 2 ^ 54 + c.param 44 8 % 2 ^ 42), dResultLen c.desc, _, _, if_neg htop, rfl⟩

theorem countedRead_spec (d : Dev) (a : W64) (n : Nat) :
    Touches d (memRead (countBeyond d a n) a n).1 ∧ KeepsDesk d (memRead (countBeyond d a n) a n).1 :=
  ⟨(signals_countBeyond _ _ _).touches.trans (touches_memRead _ _ _),
    (keepsDesk_countBeyond _ _ _).trans (keepsDesk_memRead _ _ _)⟩

theorem copyOut_spec (d : Dev) (c : Cmd) : Touches d (copyOut d c).1 ∧ KeepsDesk d (copyOut d c).1 := by
  by_cases hcopies : pCopyOut c = false ∨ c.stopped
  · have hsame : copyOut d c = (d, [], false) := if_pos hcopies
    rw [hsame]
    exact ⟨.refl d, .refl d⟩
  · by_cases htop : 2 ^ 42 ≤ c.param 44 8
    · rw [copyOut_far hcopies htop]
      exact ⟨.refl d, .refl d⟩
    · obtain ⟨a, n, g, x, hread, hg⟩ := copyOut_reads (d := d) hcopies htop
      rw [hread]
      show Touches d g ∧ KeepsDesk d g
      rw [hg]
      exact countedRead_spec ..

theorem copyOut_none {d : Dev} {c : Cmd} (h : pCopyOut c = false) : (copyOut d c).1 = d := by
  unfold copyOut
  rw [if_pos (.inl h)]

end Sys2Proof.Machine
end

section
/-! Routines from commands (O38). -/

namespace Sys2Proof.Machine

open Sys2Proof

/-! ### What the start of a command leaves of the checks of a routine command -/

theorem badEntry_started {d g : Dev} {c : Cmd} (hg : Starts d c g) : badEntry g (begins d c) = badEntry d c := by
  have hattn : g.attn = d.attn := hg.concludes.machine.2.2.2.2.2.1
  unfold badEntry openFor seqOf
  rw [hattn]
  rfl

theorem namesRetired_started {d g : Dev} {c : Cmd} (hg : Starts d c g) : namesRetired g (begins d c) = namesRetired d c := by
  have hstalls : g.stalls = d.stalls := hg.concludes.machine.1
  unfold namesRetired stallOf
  rw [hstalls]
  rfl

/-- A routine command that nothing refuses. -/
theorem submitDev_passes {d g : Dev} {c : Cmd} (hg : Starts d c g) (hok : submitRefusal c = none) (hentry : badEntry d c = none)
    (hretired : namesRetired d c = false) :
    submitDev g (begins d c) =
      beginRoutines (if dOpcode c.desc = 0x31 then keyBatch g (begins d c) else g) (begins d c) := by
  unfold submitDev
  rw [show submitRefusal (begins d c) = none from hok, badEntry_started hg, hentry, namesRetired_started hg, hretired]
  rfl

theorem badEntry_submit {d : Dev} {c : Cmd} (hop : dOpcode c.desc = 0x30) : badEntry d c = none := by
  have hbatch : pBatch c = 0 := if_neg (by rw [hop]; decide)
  unfold badEntry
  rw [hbatch]
  rfl

theorem submit_begins {d g e : Dev} {c : Cmd} (hop : dOpcode c.desc = 0x30) (hok : submitRefusal c = none)
    (hretired : namesRetired d c = false) (hg : Starts d c g) (hl : Leaves (submitDev g (begins d c)) e) :
    SparesMachine d e ∧ e.attn = d.attn ∧ Begun c (fun c => { c with waiting := pStalls c }) d e := by
  rw [submitDev_passes hg hok (badEntry_submit hop) hretired, if_neg (by rw [hop]; decide)] at hl
  have hspares := (hg.concludes.trans (concludes_putCmd g { begins d c with waiting := pStalls (begins d c) }))
  refine ⟨hl.spares hspares.spares, hl.machine.2.2.2.2.2.1.trans hspares.machine.2.2.2.2.2.1, ?_⟩
  exact (hl.cmdOf c.cid).trans (cmdOf_putCmd_self hg.cmd rfl)

/-! ### The batch of a DECODE_STEP -/

/-- What the batch table and its keys leave alone. -/
structure Batches (d e : Dev) : Prop where
  stalls : e.stalls = d.stalls
  banks : e.banks = d.banks
  loft : e.mem.loft = d.mem.loft
  cmds : e.host.cmds = d.host.cmds

theorem Batches.trans {d e f : Dev} (h : Batches d e) (g : Batches e f) : Batches d f :=
  ⟨g.stalls.trans h.stalls, g.banks.trans h.banks, g.loft.trans h.loft, g.cmds.trans h.cmds⟩

/-- Bytes of DRAM written with what mirrors them. -/
theorem batches_written (d : Dev) (obs kbs : List (Nat × Byte)) : Batches d (mirrorOut (dramWrite d kbs) false obs) := by
  obtain ⟨hwrites, -, hloft⟩ := dramWrite_spec d kbs
  have htidies := hwrites.tidies.trans (tidies_mirrorOut (dramWrite d kbs) false obs)
  have hreports := (mirrorOut_spec (dramWrite d kbs) false obs).1
  refine ⟨htidies.machine.1, htidies.machine.2.1, ?_, ?_⟩
  · unfold Reports at hreports
    rw [hreports]
    exact hloft
  · unfold Tidies at htidies
    rw [htidies]

theorem batches_keyToken (d : Dev) (id : Nat) (tok : List Byte) : Batches d (keyToken d id tok) := by
  have hput : ∀ q ks, Batches d (putSeqPart d id q ks) := fun q ks =>
    Batches.trans (e := setSeq d id (some q)) ⟨rfl, rfl, rfl, rfl⟩ (batches_written _ _ _)
  unfold keyToken
  split
  · exact ⟨rfl, rfl, rfl, rfl⟩
  · dsimp only
    split <;> exact hput _ _

theorem batches_keyBatch (d : Dev) (c : Cmd) : Batches d (keyBatch d c) := by
  have hfold : ∀ (l : List Nat) (d : Dev), Batches d (l.foldl (fun d k =>
      keyToken d (fieldAt (batchEntry c k) 0 2) (slice (batchEntry c k) 4 4)) d) := by
    intro l
    induction l with
    | nil => exact fun d => ⟨rfl, rfl, rfl, rfl⟩
    | cons k l ih => exact fun d => (batches_keyToken d _ _).trans (ih _)
  exact (batches_written _ _ _).trans (hfold _ _)

theorem decodeStep_begins {d g e : Dev} {c : Cmd} (hop : dOpcode c.desc = 0x31) (hok : submitRefusal c = none)
    (hentry : badEntry d c = none) (hretired : namesRetired d c = false) (hg : Starts d c g)
    (hl : Leaves (submitDev g (begins d c)) e) :
    e.stalls = d.stalls ∧ e.banks = d.banks ∧ e.mem.loft = d.mem.loft ∧
      Begun c (fun c => { c with waiting := pStalls c }) d e := by
  rw [submitDev_passes hg hok hentry hretired, if_pos hop] at hl
  have hbatch := batches_keyBatch g (begins d c)
  refine ⟨hl.stalls.trans (hbatch.stalls.trans hg.concludes.stalls), hl.banks.trans (hbatch.banks.trans hg.concludes.banks), ?_, ?_⟩
  · rw [hl.mem, ← hg.concludes.mem]
    exact hbatch.loft
  · exact (hl.cmdOf c.cid).trans (cmdOf_putCmd_self ((cmdOf_congr hbatch.cmds c.cid).trans hg.cmd) rfl)

/-! ### Routines stopped with ABORT (R456) -/

/-- A stall whose routine has been stopped with ABORT. -/
def StoppedByAbort (x : Stall) : Prop := x.mode = .draining ∧ x.ending = some .fault ∧ x.faultCode = 0x0F

theorem StoppedByAbort.inactive {x : Stall} (h : StoppedByAbort x) : active x = false := by
  obtain ⟨hmode, hending, -⟩ := h
  unfold active
  rw [hmode, hending]
  rfl

theorem abortStall_other (reason : Nat) (d : Dev) {st k : Nat} (h : k ≠ st) :
    stallOf (abortStall reason d st) k = stallOf d k := by
  unfold abortStall
  split
  · exact stallOf_modStall_ne _ _ h
  · rfl

theorem abortStall_stops (reason : Nat) {d : Dev} {st : Nat} (h : active (stallOf d st) = true) :
    StoppedByAbort (stallOf (abortStall reason d st) st) := by
  unfold abortStall
  rw [if_pos h]
  unfold stopNow
  rw [stallOf_stopStall]
  exact ⟨rfl, rfl, rfl⟩

theorem abortStall_stopped (reason : Nat) {d : Dev} {st : Nat} (k : Nat) (h : StoppedByAbort (stallOf d st)) :
    StoppedByAbort (stallOf (abortStall reason d k) st) := by
  by_cases hk : st = k
  · subst hk
    unfold abortStall
    rwa [if_neg (by rw [h.inactive]; decide)]
  · rwa [abortStall_other reason d hk]

theorem foldl_abortStall_stopped (reason : Nat) (l : List Nat) {d : Dev} {st : Nat} (h : StoppedByAbort (stallOf d st)) :
    StoppedByAbort (stallOf (l.foldl (abortStall reason) d) st) := by
  induction l generalizing d with
  | nil => exact h
  | cons k l ih => exact ih (abortStall_stopped reason k h)

/-- The named stalls stop, and no other. -/
theorem foldl_abortStall_stalls (reason : Nat) (l : List Nat) (d : Dev) :
    (∀ st, st ∉ l → stallOf (l.foldl (abortStall reason) d) st = stallOf d st) ∧
      ∀ st ∈ l, active (stallOf d st) = true → StoppedByAbort (stallOf (l.foldl (abortStall reason) d) st) := by
  induction l generalizing d with
  | nil => exact ⟨fun _ _ => rfl, fun _ h => absurd h List.not_mem_nil⟩
  | cons k l ih =>
    obtain ⟨hothers, hstops⟩ := ih (abortStall reason d k)
    refine ⟨fun st hst => ?_, fun st hst hact => ?_⟩
    · rw [List.mem_cons, not_or] at hst
      exact (hothers st hst.2).trans (abortStall_other reason d hst.1)
    · by_cases hk : st = k
      · subst hk
        exact foldl_abortStall_stopped reason l (abortStall_stops reason hact)
      · refine hstops st ((List.mem_cons.1 hst).resolve_left hk) ?_
        rwa [abortStall_other reason d hk]

/-- Beside the stalls the operations alone change: those of a stopped routine are orphaned. -/
theorem foldl_abortStall_rest (reason : Nat) (l : List Nat) (d : Dev) :
    l.foldl (abortStall reason) d =
      { d with stalls := (l.foldl (abortStall reason) d).stalls, ops := (l.foldl (abortStall reason) d).ops } := by
  have hone : ∀ d st, abortStall reason d st =
      { d with stalls := (abortStall reason d st).stalls, ops := (abortStall reason d st).ops } := by
    intro d st
    unfold abortStall
    split <;> rfl
  induction l generalizing d with
  | nil => rfl
  | cons k l ih =>
    rw [List.foldl_cons, ih]
    generalize l.foldl (abortStall reason) (abortStall reason d k) = f
    rw [hone]

/-- The commands that a SUBMIT with ABORT reaches, and the routines of them that it stops. -/
def abortedCmds (d : Dev) (c : Cmd) : List Cmd := d.host.cmds.filter fun x => x.fn == c.fn && x.onStalls && x.cid != c.cid

def abortedStalls (d : Dev) (c : Cmd) : List Nat :=
  (((abortedCmds d c).flatMap (·.running)).filter (pStalls c).contains).filter fun st => active (stallOf d st)

/-- What it leaves of the waiting routines of those commands. -/
def withdrawn (d : Dev) (c x : Cmd) : Cmd :=
  if (abortedCmds d c).any (·.cid == x.cid) then dropWaiting (pStalls c) x else x

theorem submitAbortDev_passes {d : Dev} {c : Cmd} (hflags : bitsOf (pFlags c) 7 3 = 0) (hrange : pFirst c + pCount c ≤ 1024)
    (hlen : dDataLen c.desc = 0) : ∃ n, submitAbortDev d c =
      putCmd ((abortedStalls d c).foldl (abortStall 0x01) (setCmds d (d.host.cmds.map (withdrawn d c))))
        { c with aborting := some n } := by
  unfold submitAbortDev
  rw [if_neg (not_not.mpr hflags), if_neg (by omega)]
  exact ⟨_, rfl⟩

theorem cmdOf_withdrawn {d : Dev} {c x : Cmd} (h : cmdOf d c.cid = some x) :
    cmdOf (setCmds d (d.host.cmds.map (withdrawn d c))) c.cid = some x := by
  have hcid : ∀ y, (withdrawn d c y).cid = y.cid := fun y => by
    unfold withdrawn
    split <;> rfl
  have hkeep : ((fun y : Cmd => y.cid == c.cid) ∘ withdrawn d c) = fun y => y.cid == c.cid := by
    funext y
    show ((withdrawn d c y).cid == c.cid) = _
    rw [hcid]
  have hself : withdrawn d c x = x := by
    have hx : x.cid = c.cid := cmdOf_cid h
    refine if_neg fun hany => ?_
    obtain ⟨y, hy, hyx⟩ := List.any_eq_true.1 hany
    have hne := (List.mem_filter.1 hy).2
    simp only [Bool.and_eq_true, bne_iff_ne] at hne
    exact hne.2 ((beq_iff_eq.1 hyx).trans hx)
  unfold cmdOf at h ⊢
  show (d.host.cmds.map _).find? _ = _
  rw [List.find?_map, hkeep, h, Option.map_some, hself]

theorem submitAbort_stops {d g e : Dev} {c : Cmd} (hflags : bitsOf (pFlags c) 7 3 = 0) (hrange : pFirst c + pCount c ≤ 1024)
    (hlen : dDataLen c.desc = 0) (hg : Starts d c g) (hl : Leaves (submitAbortDev g (begins d c)) e) :
    e.mem = d.mem ∧ e.banks = d.banks ∧ (∃ n, Begun c (fun c => { c with aborting := some n }) d e) ∧
      (∀ y ∈ d.host.cmds, y.fn = c.fn → y.onStalls = true → y.cid ≠ c.cid →
        ∀ st ∈ y.running, st ∈ pStalls c → active (stallOf d st) = true → StoppedByAbort (stallOf e st)) ∧
      ∀ st, st ∉ pStalls c → stallOf e st = stallOf d st := by
  obtain ⟨n, hdev⟩ := submitAbortDev_passes (d := g) (c := begins d c) hflags hrange hlen
  rw [hdev] at hl
  have hrest := foldl_abortStall_rest 0x01 (abortedStalls g (begins d c)) (setCmds g (g.host.cmds.map (withdrawn g (begins d c))))
  obtain ⟨hothers, hstops⟩ := foldl_abortStall_stalls 0x01 (abortedStalls g (begins d c))
    (setCmds g (g.host.cmds.map (withdrawn g (begins d c))))
  generalize (abortedStalls g (begins d c)).foldl (abortStall 0x01) (setCmds g (g.host.cmds.map (withdrawn g (begins d c)))) = k
    at hl hrest hothers hstops
  have hmem : k.mem = g.mem := by rw [hrest]; rfl
  have hbanks : k.banks = g.banks := by rw [hrest]; rfl
  have hcmds : k.host.cmds = g.host.cmds.map (withdrawn g (begins d c)) := by rw [hrest]; rfl
  have hstall : ∀ st, stallOf g st = stallOf d st := stallOf_congr hg.concludes.stalls
  refine ⟨hl.mem.trans (hmem.trans hg.concludes.mem), hl.banks.trans (hbanks.trans hg.concludes.banks), ⟨n, ?_⟩, ?_, fun st hst => ?_⟩
  · exact (hl.cmdOf c.cid).trans (cmdOf_putCmd_self ((cmdOf_congr (e := k)
      (d := setCmds g (g.host.cmds.map (withdrawn g (begins d c)))) hcmds c.cid).trans (cmdOf_withdrawn (c := begins d c) hg.cmd)) rfl)
  · intro y hy hfn hon hne st hrun hst hact
    have hcmds : y ∈ g.host.cmds := by
      rw [hg.frame]
      exact List.mem_map.2 ⟨y, hy, if_neg hne⟩
    have hmine : y ∈ abortedCmds g (begins d c) := by
      refine List.mem_filter.2 ⟨hcmds, ?_⟩
      simp only [Bool.and_eq_true, beq_iff_eq, bne_iff_ne]
      exact ⟨⟨hfn, hon⟩, hne⟩
    have hmem : st ∈ abortedStalls g (begins d c) :=
      List.mem_filter.2 ⟨List.mem_filter.2 ⟨List.mem_flatMap.2 ⟨y, hmine, hrun⟩, List.contains_iff_mem.2 hst⟩,
        by rw [hstall]; exact hact⟩
    rw [stallOf_congr hl.stalls]
    exact hstops st hmem (show active (stallOf g st) = true by rw [hstall]; exact hact)
  · rw [stallOf_congr hl.stalls]
    refine (hothers st fun hmem => hst ?_).trans (hstall st)
    exact List.contains_iff_mem.1 (List.mem_filter.1 (List.mem_filter.1 hmem).1).2

/-! ### SUBMIT_COMPLETE (R455, R456) -/

theorem leaves_drawn (e : Dev) : Leaves e { e with draws := e.draws + 1 } := ⟨.same rfl rfl rfl rfl, rfl⟩

/-- The lowest of the stalls of a list, from a first one on. -/
theorem foldl_lowest (l : List Nat) (a : Nat) : ∃ v, l.foldl (fun m st => some (min st (m.getD st))) (some a) = some v ∧
    v ∈ a :: l ∧ ∀ b ∈ a :: l, v ≤ b := by
  induction l generalizing a with
  | nil => exact ⟨a, rfl, List.mem_cons_self, by simp⟩
  | cons b l ih =>
    obtain ⟨v, hv, hmem, hle⟩ := ih (min b a)
    have hvle : v ≤ min b a := hle _ List.mem_cons_self
    refine ⟨v, hv, ?_, fun c hc => ?_⟩
    · rcases List.mem_cons.1 hmem with rfl | hmem
      · rcases Nat.le_total b a with h | h <;> simp [h]
      · simp [hmem]
    · simp only [List.mem_cons] at hc
      rcases hc with rfl | rfl | hc
      · omega
      · omega
      · exact hle c (List.mem_cons_of_mem _ hc)

/-- The stall that a SUBMIT_COMPLETE names. -/
theorem lowestStall_spec (faults : List Nat) :
    ∃ low, (faults.foldl (fun m st => some (min st (m.getD st))) none).getD 0xFFFFFFFF = low ∧
      (faults = [] → low = 0xFFFFFFFF) ∧ (faults ≠ [] → low ∈ faults ∧ ∀ st ∈ faults, low ≤ st) := by
  cases faults with
  | nil => exact ⟨_, rfl, fun _ => rfl, fun h => absurd rfl h⟩
  | cons a l =>
    obtain ⟨v, hv, hmem, hle⟩ := foldl_lowest l a
    have hfold : (a :: l).foldl (fun m st => some (min st (m.getD st))) none = some v := by
      rw [← hv, List.foldl_cons]
      simp
    exact ⟨v, by rw [hfold]; rfl, fun h => absurd h (List.cons_ne_nil _ _), fun _ => ⟨hmem, hle⟩⟩

/-- A SUBMIT_COMPLETE that is due ends its command as the state of `copyOut` has it. -/
def completion (d : Dev) (c : Cmd) : Dev × Ends :=
  match c.aborting with
  | some n => (d, { ends 0 with value0 := n, value1 := 0xFFFFFFFF })
  | none =>
    ((copyOut d c).1,
      { status := if c.stopped then 0x09 else if (copyOut d c).2.2 then 0x0B else 0
        result := if (c.ended.filter fun p => p.2 != 0).map (·.1) = [] then 0 else 2
        value0 := ((c.ended.filter fun p => p.2 != 0).map (·.1)).length
        value1 := (((c.ended.filter fun p => p.2 != 0).map (·.1)).foldl (fun m st => some (min st (m.getD st))) none).getD 0xFFFFFFFF
        bytes := (copyOut d c).2.1 })

theorem answers_submitComplete {cid : Nat} {c : Cmd} {pre : Dev → Prop} {post : Dev → Dev → Prop}
    (h : ∀ d, pre d → (cmdOf d cid = some c ∧ c.begun = true ∧ c.remote = false ∧ c.held = none ∧ c.runs = true ∧
        routinesDone d c = true ∧ d.health.commandDown = false) ∧
      ∀ e, Leaves (finish (completion d c).1 c (completion d c).2) e → post d e) : Answers (.submitComplete cid) pre post := by
  refine answers_onDev (fun s => show execSubmitComplete cid s = _ from rfl) fun d hd => ?_
  obtain ⟨⟨hc, hbegun, hhere, hheld, hruns, hdone, hup⟩, hpost⟩ := h d hd
  refine ⟨finish (completion d c).1 c (completion d c).2, ?_, hpost _ (leaves_drawn _)⟩
  rw [hc]
  dsimp only
  rw [if_neg (by simp [hbegun, hhere, hheld, hruns, hdone, hup])]
  unfold completion
  cases c.aborting <;> rfl

/-- The end of a command whose routines have all ended. -/
theorem completes_with {d e : Dev} {cid : Nat} {c : Cmd} (hc : cmdOf d cid = some c) (habort : c.aborting = none)
    (hresult : c.resultOk = true) (hno : NoDrain d) (hl : Leaves (finish (completion d c).1 c (completion d c).2) e) :
    e.stalls = d.stalls ∧ e.banks = d.banks ∧ e.ops = d.ops ∧ DramBut [] d e ∧ LoftBut [] d e ∧
      (pCopyOut c = false → e.mem = d.mem) ∧ Delivers c (copyOut d c).2.1 d e ∧ ∃ low,
      ((c.ended.filter fun p => p.2 != 0).map Prod.fst = [] → low = 0xFFFFFFFF) ∧
      ((c.ended.filter fun p => p.2 != 0).map Prod.fst ≠ [] → low ∈ (c.ended.filter fun p => p.2 != 0).map Prod.fst ∧
        ∀ st ∈ (c.ended.filter fun p => p.2 != 0).map Prod.fst, low ≤ st) ∧
      Replied c (if c.stopped then 0x09 else if (copyOut d c).2.2 then 0x0B else 0)
        (if (c.ended.filter fun p => p.2 != 0).map Prod.fst = [] then 0 else 2)
        ((c.ended.filter fun p => p.2 != 0).map Prod.fst).length low d e := by
  have hcmd : cmdOf d c.cid = some c := by rwa [cmdOf_cid hc]
  unfold completion at hl
  rw [habort] at hl
  dsimp only at hl
  obtain ⟨htouches, hdesk⟩ := copyOut_spec d c
  obtain ⟨-, hsame⟩ := hdesk hno
  have hread : cmdOf (copyOut d c).1 c.cid = some c := by
    rw [← hcmd]
    unfold Touches at htouches
    unfold cmdOf
    rw [htouches]
  have hcfg : (copyOut d c).1.host.cfg = d.host.cfg := by
    unfold Touches at htouches
    rw [htouches]
  obtain ⟨hwraps, hreplied⟩ := ends_with (c := c) hsame hno hread (lostResult_ok _ hresult) hl
  refine under_name fun named shown => ?_
  obtain ⟨tdram, tloft, -⟩ := htouches.bytes
  obtain ⟨low, hlow, hnone, hsome⟩ := lowestStall_spec ((c.ended.filter fun p => p.2 != 0).map Prod.fst)
  refine shown ⟨hwraps.spares.stalls.trans htouches.stalls, hwraps.spares.banks.trans htouches.banks, hwraps.spares.ops.trans htouches.ops, fun k _ => ?_, fun k _ => ?_, fun hcopy => ?_,
    hl.delivers (finish_delivers hsame hno.noneWaits hcfg (lostResult_ok _ hresult)), low, hnone, hsome, hlow ▸ hreplied⟩
  · rw [hwraps.spares.mem, tdram]
  · rw [hwraps.spares.mem, tloft]
  · rw [hwraps.spares.mem, copyOut_none hcopy]

/-- Settles O38. -/
theorem routineCommands : Obligations.RoutineCommands := by
  refine ⟨fun cid c => ?_, fun cid c => ?_, fun cid c => ?_, fun cid c n => ?_, fun cid c faults r => ?_⟩
  · refine answers_startCmd (c := c) (fun s _ => show execSubmit cid s = _ from rfl) ?_
    rintro d ⟨hstarts, hok, hretired⟩
    exact ⟨hstarts, fun g e hg hl => submit_begins hstarts.2.1 hok hretired hg hl⟩
  · refine answers_startCmd (c := c) (fun s _ => show execDecodeStep cid s = _ from rfl) ?_
    rintro d ⟨hstarts, hok, hentry, hretired⟩
    exact ⟨hstarts, fun g e hg hl => decodeStep_begins hstarts.2.1 hok hentry hretired hg hl⟩
  · refine answers_startCmd (c := c) (fun s _ => show execSubmitAbort cid s = _ from rfl) ?_
    rintro d ⟨hstarts, hflags, hrange, hlen⟩
    exact ⟨hstarts, fun g e hg hl => submitAbort_stops hflags hrange hlen hg hl⟩
  · refine answers_submitComplete (c := c) ?_
    rintro d ⟨hc, hbegun, hhere, hheld, hruns, habort, hup, hno, hidle⟩
    have hdone : routinesDone d c = true := by
      unfold routinesDone
      rw [habort]
      simpa using hidle
    refine ⟨⟨hc, hbegun, hhere, hheld, hruns, hdone, hup⟩, fun e hl => ?_⟩
    have hend : completion d c = (d, { ends 0 with value0 := n, value1 := 0xFFFFFFFF }) := by
      unfold completion
      rw [habort]
    rw [hend] at hl
    have hcmd : cmdOf d c.cid = some c := by rwa [cmdOf_cid hc]
    obtain ⟨hwraps, hreplied⟩ := ends_with (c := c) (.of (.refl d) rfl rfl) hno hcmd (lostResult_none rfl) hl
    exact ⟨hwraps.machine.1, hreplied⟩
  · refine answers_submitComplete (c := c) ?_
    rintro d ⟨hc, hbegun, hhere, hheld, hruns, hwaiting, hrunning, habort, hresult, hup, hno, rfl, rfl⟩
    have hdone : routinesDone d c = true := by
      unfold routinesDone
      rw [habort, hwaiting, hrunning]
      rfl
    refine ⟨⟨hc, hbegun, hhere, hheld, hruns, hdone, hup⟩, fun e hl => ?_⟩
    exact completes_with hc habort hresult hno hl

end Sys2Proof.Machine
end

section
/-! Vet bundles and firmware images (O41). -/

namespace Sys2Proof.Machine

open Sys2Proof

/-! ### What an image leaves of the record area (R363, R531) -/

theorem le_foldl_wear (f : Nat → Nat) (l : List Nat) : ∀ (w : Map Nat) (k : Nat),
    mget 0 w k ≤ mget 0 (l.foldl (fun w r => mput 0 w r (mget 0 w r + f r)) w) k := by
  induction l with
  | nil => exact fun _ _ => Nat.le_refl _
  | cons r l ih =>
    intro w k
    refine Nat.le_trans ?_ (ih _ k)
    by_cases h : k = r
    · subst h
      rw [mget_mput_self]
      exact Nat.le_add_right _ _
    · rw [mget_mput_ne _ _ _ h]

theorem writeRecords_spec (d : Dev) : WritesRecords d (writeRecords d) ∧
    writeRecords d = { d with mem := (writeRecords d).mem } :=
  ⟨⟨rfl, le_foldl_wear _ _ _⟩, rfl⟩

theorem WritesRecords.congr {d e f g : Dev} (h : WritesRecords d e) (hd : f.mem = d.mem) (he : g.mem = e.mem) :
    WritesRecords f g := by
  unfold WritesRecords
  rw [hd, he]
  exact h

/-! ### A bundle that arrives -/

theorem probes_installBundle (d : Dev) (b : List Byte) (k : Nat) : (bankOf (installBundle d b) k).probes = 0 := by
  refine mget_all (P := fun x : Bank => x.probes = 0) rfl (fun p hp => ?_) k
  obtain ⟨q, -, rfl⟩ := List.mem_map.1 (List.mem_of_mem_filter hp)
  rfl

/-- Standbys are told of the command, as every member is. -/
theorem sends_tellStandbys (d : Dev) (c : Cmd) : Sends d ((standbyEnds d).foldl (tell c) d) :=
  sends_foldl (fun _ _ => sends_sendMsg ..) _ _

theorem grows_tellStandbys (d : Dev) (c : Cmd) : Grows d ((standbyEnds d).foldl (tell c) d) :=
  grows_foldl (fun _ _ => grows_sendMsg ..) _ _

/-- The state in which a bundle is judged: the lead has passed it on (R531). -/
def passedOn (d : Dev) (c : Cmd) : Dev := if d.pad.role = .lead then (standbyEnds d).foldl (tell c) d else d

theorem passedOn_spec (d : Dev) (c : Cmd) : Sends d (passedOn d c) ∧ KeepsDesk d (passedOn d c) := by
  unfold passedOn
  split
  · have hsends := sends_tellStandbys d c
    refine ⟨hsends, ?_⟩
    unfold Sends at hsends
    exact .of (grows_tellStandbys d c) (by rw [hsends]) (by rw [hsends])
  · exact ⟨rfl, .refl d⟩

theorem keepsDesk_installBundle (d : Dev) (b : List Byte) : KeepsDesk d (installBundle d b) :=
  .of (.same rfl rfl rfl rfl) rfl rfl

theorem keepsDesk_takeBundle (d : Dev) (b : List Byte) (route : Nat) : KeepsDesk d (takeBundle d b route) := by
  unfold takeBundle
  split
  · exact keepsDesk_raiseEvent _ _ _ _ _ _
  · exact (keepsDesk_installBundle d b).trans (keepsDesk_raiseEvent _ _ _ _ _ _)

theorem keepsDesk_started {d g : Dev} {c : Cmd} (hg : Starts d c g) : KeepsDesk d g := by
  have hframe := hg.frame
  exact .of hg.desk.grows (by rw [hframe]) (by rw [hframe])

/-- What a bundle leaves of the module beside the rings: where none is installed, nothing. -/
theorem takeBundle_signals {d : Dev} {b : List Byte} {r : Option Nat} (h : bundleResult d b = r) (route : Nat) :
    Signals (if r = none then installBundle d b else d) (takeBundle d b route) := by
  unfold takeBundle
  rw [h]
  cases r with
  | none => exact signals_raiseEvent ..
  | some k => exact signals_raiseEvent ..

theorem Concludes.wrapped {j k e : Dev} (h : Concludes j k) (g : Wraps k e) : Wraps j e := by
  unfold Concludes at h
  unfold Wraps at *
  rw [h] at g
  exact g

/-- VET_LOAD ends with the verdict on its bundle, on every module (R443, R462). -/
theorem vetLoad_ends {d g e : Dev} {c : Cmd} {r : Option Nat} (hno : NoDrain d) (hdata : c.dataFailed = false)
    (hr : bundleResult d c.bytes = r) (hg : Starts d c g) (hl : Leaves (vetLoadDev g (begins d c)) e) :
    ∃ k, SparesMachine d k ∧ (k.pad.wants = d.pad.wants ∧ k.pad.twinOut = d.pad.twinOut ∧ k.host.quota = d.host.quota ∧
        k.host.nextCid = d.host.nextCid ∧ k.health.bundle = d.health.bundle ∧ k.health.vetVersion = d.health.vetVersion) ∧
      Wraps (if r = none then installBundle k c.bytes else k) e ∧
      RepliedAll c (if r.isSome then 0x08 else 0) (r.getD 0) (vVersion c.bytes) 0 d e := by
  have hframe := hg.frame
  obtain ⟨hsends, hdesk⟩ := passedOn_spec g (begins d c)
  have hjudged : bundleResult g c.bytes = r := by
    rw [← hr, hframe]
    rfl
  have hpassed : bundleResult (passedOn g (begins d c)) c.bytes = r := by
    rw [← hjudged]
    unfold Sends at hsends
    rw [hsends]
    rfl
  have hdev : vetLoadDev g (begins d c) = finishAll (takeBundle (passedOn g (begins d c)) c.bytes
      (if c.lead.isSome then 2 else 0)) (begins d c)
      { ends (if r.isSome then 0x08 else 0) with result := r.getD 0, value0 := vVersion c.bytes } := by
    unfold vetLoadDev
    rw [if_neg (by rw [show (begins d c).dataFailed = false from hdata]; decide)]
    dsimp only
    rw [show bundleResult g (begins d c).bytes = r from hjudged]
    rfl
  rw [hdev] at hl
  have hsignals := takeBundle_signals hpassed (if c.lead.isSome then 2 else 0)
  have hkeeps := (keepsDesk_started hg).trans (hdesk.trans (keepsDesk_takeBundle (passedOn g (begins d c)) c.bytes
    (if c.lead.isSome then 2 else 0)))
  generalize takeBundle (passedOn g (begins d c)) c.bytes (if c.lead.isSome then 2 else 0) = k at hl hsignals hkeeps
  have hmconc := hsends.signals.concludes
  have hmcmds : (passedOn g (begins d c)).host.cmds = g.host.cmds := by
    unfold Sends at hsends
    rw [hsends]
  generalize passedOn g (begins d c) = m at hsignals hmconc hmcmds
  obtain ⟨hinstall, hhost⟩ : others (if r = none then installBundle m c.bytes else m) = others m ∧
      (if r = none then installBundle m c.bytes else m).host = m.host := by
    cases r <;> exact ⟨rfl, rfl⟩
  have hcmds : k.host.cmds = g.host.cmds := by
    unfold Signals at hsignals
    rw [hsignals]
    exact (congrArg HostIf.cmds hhost).trans hmcmds
  have hothers : others k = others d :=
    hsignals.concludes.others.trans (hinstall.trans (hmconc.others.trans hg.concludes.others))
  obtain ⟨hwraps, hreplied, -⟩ := endsAll_with (hkeeps hno).2 hno ((cmdOf_congr hcmds c.cid).trans hg.cmd) rfl hothers
    (lostResult_none rfl) hl
  exact ⟨m, (hg.concludes.trans hmconc).spares, (hg.concludes.trans hmconc).rest, hsignals.concludes.wrapped hwraps, hreplied⟩

theorem installed_spec {d m e : Dev} {c : Cmd} (hm : SparesMachine d m)
    (hw : Wraps (if (none : Option Nat) = none then installBundle m c.bytes else m) e)
    (hreplied : RepliedAll c 0 0 (vVersion c.bytes) 0 d e) :
    e.stalls = d.stalls ∧ WritesRecords d e ∧ e.health.bundle = c.bytes ∧ e.health.vetVersion = vVersion c.bytes ∧
      (∀ k, (bankOf e k).probes = 0) ∧ RepliedAll c 0 0 (vVersion c.bytes) 0 d e := by
  rw [if_pos rfl] at hw
  obtain ⟨mstalls, -, -, mmem, -⟩ := hm
  have hspares := hw.spares
  unfold Wraps at hw
  refine ⟨hspares.stalls.trans mstalls, (writeRecords_spec m).1.congr mmem.symm hspares.mem, ?_, ?_, fun k => ?_, hreplied⟩
  · rw [hw]
    rfl
  · rw [hw]
    rfl
  · unfold bankOf
    rw [hspares.banks]
    exact probes_installBundle m c.bytes k

/-! ### A firmware image -/

theorem fwStoreDev_judges {d g : Dev} {c : Cmd} (hform : c.param 32 1 = 0) (hdata : c.dataFailed = false) :
    fwStoreDev g (begins d c) =
      match firmwareResult g c.bytes with
      | some k => finish g (begins d c) { ends 0x08 with result := k, value0 := (Config.fwVersion c.bytes).getD 0 }
      | none => finish (storeImage g c.bytes) (begins d c) { ends 0 with value0 := (Config.fwVersion c.bytes).getD 0 } := by
  unfold fwStoreDev
  rw [if_neg (by rw [show (begins d c).param 32 1 = 0 from hform]; decide),
    if_neg (by rw [show (begins d c).dataFailed = false from hdata]; decide)]
  rfl

theorem firmwareResult_started {d g : Dev} {c : Cmd} (hg : Starts d c g) : firmwareResult g c.bytes = firmwareResult d c.bytes := by
  rw [hg.frame]
  rfl

theorem firmwareResult_newer {d : Dev} {b : List Byte} {v : Nat} (hv : Config.fwVersion b = some v)
    (hsigned : Config.fwSigned b = true) (hnew : runningVersion d < v) : firmwareResult d b = none := by
  unfold firmwareResult
  rw [hv, hsigned]
  exact (if_neg (by decide)).trans (if_neg (by omega))

/-- The slots when an image has been stored. -/
theorem storeImage_board (d : Dev) {b : List Byte} {v : Nat} (hv : Config.fwVersion b = some v) :
    markedVersion (storeImage d b) = v ∧ (storeImage d b).board.marked = !d.board.runs ∧
      runningVersion (storeImage d b) = runningVersion d ∧ (storeImage d b).board.serial = d.board.serial := by
  unfold storeImage markedVersion runningVersion
  rw [hv]
  cases h : d.board.runs <;> simp [writeRecords, setMem, ownRecords, h]

theorem storeImage_rest (d : Dev) (b : List Byte) :
    storeImage d b = { writeRecords d with board := (storeImage d b).board } := by
  unfold storeImage
  rfl

theorem keepsDesk_storeImage (d : Dev) {b : List Byte} {v : Nat} (hv : Config.fwVersion b = some v) :
    KeepsDesk d (storeImage d b) := by
  obtain ⟨-, -, -, hserial⟩ := storeImage_board d hv
  have hrest := storeImage_rest d b
  generalize storeImage d b = e at hserial hrest ⊢
  have hpad : e.pad = d.pad := by rw [hrest]; rfl
  have hrings : e.host = d.host := by rw [hrest]; rfl
  have hgrows : Grows d e :=
    { out := fun o ho => by rw [hrest]; exact ho
      usable := fun m => by unfold usablePorts portOf; rw [hpad]
      here := by unfold here ownEntry; rw [hpad, hserial]
      queue := fun p b hb => by unfold portOf at hb ⊢; rwa [hpad]
      rings := fun r y hy => by unfold ringOf at hy ⊢; rw [hrings] at hy; exact ⟨y, hy, rfl⟩ }
  exact .of hgrows (by rw [hrings]) (by rw [hrings])

theorem fwStore_stores {d g e : Dev} {c : Cmd} {v : Nat} (hno : NoDrain d) (hform : c.param 32 1 = 0)
    (hdata : c.dataFailed = false) (hv : Config.fwVersion c.bytes = some v) (hgood : firmwareResult d c.bytes = none)
    (hg : Starts d c g) (hl : Leaves (fwStoreDev g (begins d c)) e) :
    e.stalls = d.stalls ∧ e.cribs = d.cribs ∧ e.banks = d.banks ∧ e.ops = d.ops ∧ WritesRecords d e ∧
      Replied c 0 0 v 0 d e ∧ markedVersion e = v ∧ e.board.marked = !d.board.runs ∧ runningVersion e = runningVersion d := by
  rw [fwStoreDev_judges hform hdata, firmwareResult_started hg, hgood] at hl
  dsimp only at hl
  rw [hv, Option.getD_some] at hl
  have hrest := storeImage_rest g c.bytes
  refine under_name fun named shown => ?_
  obtain ⟨hmarked, hslot, hruns, -⟩ := storeImage_board g hv
  have hdesk := ((keepsDesk_started hg).trans (keepsDesk_storeImage g hv)) hno
  generalize storeImage g c.bytes = k at hl hrest hmarked hslot hruns hdesk shown
  have hcmds : k.host = g.host := by rw [hrest]; rfl
  obtain ⟨hwraps, hreplied⟩ := ends_with (c := begins d c) hdesk.2 hno
    ((cmdOf_congr (congrArg HostIf.cmds hcmds) c.cid).trans hg.cmd) (lostResult_none rfl) hl
  have kmachine : k.stalls = g.stalls ∧ k.cribs = g.cribs ∧ k.banks = g.banks ∧ k.ops = g.ops ∧ k.mem = (writeRecords g).mem := by
    rw [hrest]
    exact ⟨rfl, rfl, rfl, rfl, rfl⟩
  obtain ⟨kstalls, kcribs, kbanks, kops, kmem⟩ := kmachine
  have hspares := hwraps.spares
  have hstarts := hg.concludes
  refine shown ⟨hspares.stalls.trans (kstalls.trans hstarts.stalls), hspares.cribs.trans (kcribs.trans hstarts.cribs),
    hspares.banks.trans (kbanks.trans hstarts.banks), hspares.ops.trans (kops.trans hstarts.ops),
    (writeRecords_spec g).1.congr hstarts.mem.symm (hspares.mem.trans kmem), hreplied, ?_, ?_, ?_⟩
  · unfold markedVersion at hmarked ⊢
    rwa [hwraps.board]
  · rw [hwraps.board, hslot, hg.concludes.board]
  · unfold runningVersion at hruns ⊢
    rw [hwraps.board, hruns, hg.concludes.board]

/-! ### The activation of an image -/

theorem startCmd_run {name : String} {op cid : Nat} {form : Cmd → Bool} {f : Dev → Cmd → Dev} {c : Cmd} {s : State}
    (h : CmdStarts s.dev cid op form c) {e : Dev} (he : mirrorState (f (started s.dev c) (begins s.dev c)) = e) :
    startCmd name op form cid f s = .next { s with dev := { e with draws := e.draws + 1 } } := by
  obtain ⟨hc, hop, hform, hbegun, horder, hdown, hok, hhere⟩ := h
  subst he
  unfold startCmd onDerier onDev
  dsimp only
  rw [hc]
  dsimp only
  rw [if_neg (by simp [hop, hform, hbegun, horder, hdown]), hok]
  dsimp only
  rw [hhere]
  rfl

/-- A module that has been reset mirrors nothing. -/
theorem mirrorState_moduleReset (d : Dev) (record : Option Nat) : mirrorState (moduleReset d record) = moduleReset d record := rfl

theorem fwActivate_reaches (d : Dev) (c : Cmd) : ∃ k, fwActivateDev d c = moduleReset k (some 4) ∧ k.mem.loft = d.mem.loft ∧
    k.board = d.board := by
  refine ⟨_, rfl, ?_⟩
  have hhalts := foldl_abortStall_rest 0x05 (d.stalls.map (·.1)) d
  have hconc : Concludes (abortAll d 0x05) (abortCommands (abortAll d 0x05) (some c.cid)) :=
    (concludes_foldl (fun _ _ => concludes_endNow _ _ _) _ _).trans (concludes_drainRings _)
  obtain ⟨-, -, -, -, hmem, -, -, hboard, -⟩ := (hconc.trans (concludes_endNow _ c _)).machine
  refine ⟨(congrArg Memory.loft hmem).trans ?_, hboard.trans ?_⟩
  · unfold abortAll
    rw [hhalts]
  · unfold abortAll
    rw [hhalts]

/-- Settles O41. -/
theorem bundlesAndImages : Obligations.BundlesAndImages := by
  refine ⟨fun cid c => ?_, fun cid c k => ?_, fun cid c v => ?_, fun cid c k => ?_, fun cid c => ?_⟩
  · refine answers_startCmd (c := c) (fun s _ => show execVetLoad cid s = _ from rfl) ?_
    rintro d ⟨hstarts, hno, hdata, hgood⟩
    refine ⟨hstarts, fun g e hg hl => ?_⟩
    obtain ⟨m, hspares, -, hwraps, hreplied⟩ := vetLoad_ends hno hdata hgood hg hl
    exact installed_spec hspares hwraps hreplied
  · refine answers_startCmd (c := c) (fun s _ => show execVetLoad cid s = _ from rfl) ?_
    rintro d ⟨hstarts, hno, hdata, hbad⟩
    refine ⟨hstarts, fun g e hg hl => ?_⟩
    obtain ⟨m, hspares, ⟨-, -, -, -, hbundle, hversion⟩, hwraps, hreplied⟩ := vetLoad_ends hno hdata hbad hg hl
    have hspare := hwraps.machine.1
    unfold Wraps at hwraps
    refine ⟨hspares.trans hspare, ?_, ?_, hreplied⟩
    · rw [hwraps]
      exact hbundle
    · rw [hwraps]
      exact hversion
  · refine answers_startCmd (c := c) (fun s _ => show execFwUpdateStore cid s = _ from rfl) ?_
    rintro d ⟨hstarts, hno, hform, hdata, hv, hsigned, hnew⟩
    exact ⟨hstarts, fun g e hg hl => fwStore_stores hno hform hdata hv (firmwareResult_newer hv hsigned hnew) hg hl⟩
  · refine answers_startCmd (c := c) (fun s _ => show execFwUpdateStore cid s = _ from rfl) ?_
    rintro d ⟨hstarts, hno, hform, hdata, hbad⟩
    refine ⟨hstarts, fun g e hg hl => ?_⟩
    have hdev : fwStoreDev g (begins d c) = finish g (begins d c)
        { ends 0x08 with result := k, value0 := (Config.fwVersion c.bytes).getD 0 } := by
      rw [fwStoreDev_judges hform hdata, firmwareResult_started hg, hbad]
    rw [hdev] at hl
    obtain ⟨hwraps, hreplied⟩ := ends_at_once hg hno (lostResult_none rfl) hl
    exact ⟨hwraps.spares, hwraps.board, hreplied⟩
  · intro s hstarts
    obtain ⟨k, hk, hloft, hboard⟩ := fwActivate_reaches (started s.dev c) (begins s.dev c)
    have hframe := (starts_started hstarts.1).frame
    have hreset := moduleReset_resets k (some 4)
    obtain ⟨hstate, hcmds, hrings, hdram, hkept, -, hpad, hcause, -⟩ := hreset
    refine ⟨_, startCmd_run (f := fwActivateDev) hstarts
      ((congrArg mirrorState hk).trans (mirrorState_moduleReset k (some 4))), rfl, hstate, hcmds, hrings, hcause, ?_, hdram, ?_, hpad⟩
    · show k.board.marked = _
      rw [hboard, hframe]
    · refine hkept.trans (hloft.trans ?_)
      rw [hframe]

end Sys2Proof.Machine
end

section
/-! What the bookkeeping of a stage changes (09_weight_feed.md, Stages), for O31 and O32. -/

namespace Sys2Proof.Machine

open Sys2Proof

theorem answers_leaves {c : Instr} {name : String} {f : Dev → Option Dev} {pre : Dev → Prop} {post : Dev → Dev → Prop}
    (hexec : ∀ s, exec c s = onDerier name f s)
    (h : ∀ d, pre d → ∃ e, f d = some e ∧ ∀ g, Leaves e g → post d g) : Answers c pre post :=
  answers_onDerier hexec fun d hp => by
    obtain ⟨e, he, hpost⟩ := h d hp
    exact ⟨e, he, hpost _ (leaves_mirrorState e)⟩

/-! ### The ends of commands grow what has left -/

theorem grows_freeRing (d : Dev) (r : Nat) : Grows d (freeRing d r) := by
  refine Grows.trans (e := setRing d r none) ⟨fun _ h => h, fun _ => rfl, rfl, fun _ _ h => h, fun q y hq => ?_⟩ (grows_freeFailed ..)
  by_cases h : q = r
  · subst h
    rw [ringOf_setRing_self] at hq
    exact absurd hq (by simp)
  · rw [ringOf_setRing_ne d _ h] at hq
    exact ⟨y, hq, rfl⟩

theorem grows_drained (d : Dev) (r : Nat) : Grows d (drained d r) := by
  unfold drained
  split
  · exact .refl d
  · split
    · exact .refl d
    · split
      · refine Grows.trans ?_ (grows_freeRing _ _)
        split
        · exact grows_endCmd _ _ _
        · exact .refl d
      · exact .refl d

theorem grows_finish (d : Dev) (c : Cmd) (e : Ends) : Grows d (finish d c e) :=
  (grows_endCmd d c e).trans (grows_foldl (fun _ _ => grows_foldl grows_drained _ _) _ _)

/-! ### The feed's records -/

/-- Only messages and the ends of commands, and the records of the feed, have changed. -/
def Files (d e : Dev) : Prop :=
  e = { d with
    ctr := e.ctr, out := e.out, host := e.host, health := e.health
    pad := { d.pad with ports := e.pad.ports, messageNo := e.pad.messageNo }
    feed := e.feed }

theorem Files.refl (d : Dev) : Files d d := rfl

theorem Files.trans {d e f : Dev} (h : Files d e) (g : Files e f) : Files d f := by
  unfold Files at *
  rw [h] at g
  exact g

theorem Files.machine {d e : Dev} (h : Files d e) : e.stalls = d.stalls ∧ e.banks = d.banks ∧ e.cribs = d.cribs ∧
    e.ops = d.ops ∧ e.mem = d.mem ∧ e.pad.epochs = d.pad.epochs := by
  unfold Files at h
  rw [h]
  exact ⟨rfl, rfl, rfl, rfl, rfl, rfl⟩

theorem Files.stalls {d e : Dev} (h : Files d e) : e.stalls = d.stalls := h.machine.1

theorem Files.mem {d e : Dev} (h : Files d e) : e.mem = d.mem := h.machine.2.2.2.2.1

theorem Files.roles {d e : Dev} (h : Files d e) : follower e = follower d ∧ stageModules e = stageModules d ∧
    e.pad.index = d.pad.index ∧ e.pad.role = d.pad.role ∧ nextPlace e = nextPlace d := by
  unfold Files at h
  rw [h]
  exact ⟨rfl, rfl, rfl, rfl, rfl⟩

/-- The queue of stages stands, with all that leaves the module. -/
structure Books (d e : Dev) : Prop where
  files : Files d e
  grows : Grows d e
  stages : e.feed.stages = d.feed.stages

theorem Books.refl (d : Dev) : Books d d := ⟨.refl d, .refl d, rfl⟩

theorem Books.trans {d e f : Dev} (h : Books d e) (g : Books e f) : Books d f :=
  ⟨h.files.trans g.files, h.grows.trans g.grows, g.stages.trans h.stages⟩

theorem Books.of {d e : Dev} (h : Concludes d e) (hgrows : Grows d e) : Books d e := by
  unfold Concludes at h
  refine ⟨?_, hgrows, ?_⟩
  · unfold Files
    rw [h]
  · rw [h]

theorem books_sendMsg (d : Dev) (m : Nat) (x : Message) : Books d (sendMsg d m x) :=
  .of (signals_sendMsg ..).concludes (grows_sendMsg ..)

theorem books_tellAll (d : Dev) (m : Message) : Books d (tellAll d m) := .of (concludes_tellAll ..) (grows_tellAll ..)

theorem books_finish (d : Dev) (c : Cmd) (e : Ends) : Books d (finish d c e) := .of (concludes_finish ..) (grows_finish ..)

/-- The records of models, adapters and keys change nothing beside themselves. -/
theorem books_setFeed (d : Dev) {f : Feed} (h : f.stages = d.feed.stages) : Books d (setFeed d f) :=
  ⟨rfl, .same rfl rfl rfl rfl, h⟩

theorem books_putModel (d : Dev) (m : Model) : Books d (putModel d m) := books_setFeed d rfl

theorem books_dropModel (d : Dev) (id : Nat) : Books d (dropModel d id) := books_setFeed d rfl

theorem books_failRecord (d : Dev) (s : Stage) : Books d (failRecord d s) := by
  unfold failRecord
  split
  · exact .refl d
  · dsimp only
    split
    · exact books_putModel ..
    · split
      · split
        · exact books_dropModel ..
        · exact books_putModel ..
      · exact (books_dropModel ..).trans (books_tellAll ..)

theorem books_loadAdapter (d : Dev) (s : Stage) (a : AdapterLoad) : Books d (loadAdapter d s a) := by
  unfold loadAdapter
  split
  · exact .refl d
  · exact books_setFeed d rfl

/-! ### The queue of stages -/

/-- The module when a stage has left the queue. -/
def unqueued (d : Dev) (s : Stage) : Dev :=
  setFeed d { d.feed with stages := d.feed.stages.filter fun x => x.model != s.model }

/-- The stage's record is Staged or Failed. -/
def recordClosed (s : Stage) (code : Nat) (d : Dev) : Dev :=
  match modelOf d s.model with
  | some m => if code = 0 then putModel d { m with state := .staged } else failRecord d s
  | none => d

/-- The stage's adapter is loaded where the stage succeeded. -/
def adapterClosed (s : Stage) (code : Nat) (d : Dev) : Dev :=
  match s.adapter with
  | some a => if code = 0 then loadAdapter d s a else d
  | none => d

/-- Every module is told how a stage has ended. -/
def verdictTold (s : Stage) (code : Nat) (d : Dev) : Dev :=
  if s.started ∧ (code = 0 ∨ code = 0x0C) then tellAll d (.stageVerdict s.model code) else d

/-- The stage's command ends. -/
def commandClosed (s : Stage) (code : Nat) (d : Dev) : Dev :=
  match s.cid.bind (cmdOf d) with
  | some c => finish d c (stageEnds s code)
  | none => d

theorem closeStage_eq (d : Dev) (s : Stage) (code : Nat) : closeStage d s code =
    commandClosed s code (verdictTold s code (adapterClosed s code (recordClosed s code
      (unqueued (if code = 0 ∨ s.started = false then d else abandonBanks d) s)))) := rfl

theorem books_recordClosed (s : Stage) (code : Nat) (d : Dev) : Books d (recordClosed s code d) := by
  unfold recordClosed
  split
  · split
    · exact books_putModel ..
    · exact books_failRecord ..
  · exact .refl d

theorem books_adapterClosed (s : Stage) (code : Nat) (d : Dev) : Books d (adapterClosed s code d) := by
  unfold adapterClosed
  split
  · split
    · exact books_loadAdapter ..
    · exact .refl d
  · exact .refl d

theorem books_verdictTold (s : Stage) (code : Nat) (d : Dev) : Books d (verdictTold s code d) := by
  unfold verdictTold
  split
  · exact books_tellAll ..
  · exact .refl d

theorem books_commandClosed (s : Stage) (code : Nat) (d : Dev) : Books d (commandClosed s code d) := by
  unfold commandClosed
  split
  · exact books_finish ..
  · exact .refl d

theorem closeStage_books (d : Dev) (s : Stage) (code : Nat) :
    Books (unqueued (if code = 0 ∨ s.started = false then d else abandonBanks d) s) (closeStage d s code) := by
  rw [closeStage_eq]
  generalize unqueued (if code = 0 ∨ s.started = false then d else abandonBanks d) s = e
  exact ((books_recordClosed s code e).trans (books_adapterClosed ..)).trans
    ((books_verdictTold ..).trans (books_commandClosed ..))

theorem files_putStage (d : Dev) (s : Stage) : Files d (putStage d s) := rfl

theorem grows_putStage (d : Dev) (s : Stage) : Grows d (putStage d s) := .same rfl rfl rfl rfl

theorem files_closeStage {d : Dev} {s : Stage} {code : Nat} (h : code = 0 ∨ s.started = false) : Files d (closeStage d s code) := by
  have hbooks := (closeStage_books d s code).files
  rw [if_pos h] at hbooks
  exact Files.trans (e := unqueued d s) rfl hbooks

theorem find_of_head {d : Dev} {s : Stage} (h : headStage d = some s) : d.feed.stages.find? (·.model == s.model) = some s := by
  unfold headStage at h
  cases hl : d.feed.stages with
  | nil => rw [hl] at h; exact absurd h (by simp)
  | cons x l =>
    rw [hl] at h
    obtain rfl := Option.some.inj h
    simp

theorem head_putStage {d : Dev} {s t : Stage} (h : headStage d = some s) (ht : t.model = s.model) :
    headStage (putStage d t) = some t := by
  unfold headStage at h
  unfold headStage putStage setFeed
  cases hl : d.feed.stages with
  | nil => rw [hl] at h; exact absurd h (by simp)
  | cons x l =>
    rw [hl] at h
    obtain rfl := Option.some.inj h
    simp [ht]

theorem headStage_congr {d e : Dev} (h : e.feed.stages = d.feed.stages) : headStage e = headStage d := by
  unfold headStage
  rw [h]

theorem workingStage_iff {d : Dev} {s : Stage} :
    workingStage d = some s ↔ headStage d = some s ∧ s.started = true ∧ s.ownResult = none := by
  unfold workingStage
  constructor
  · intro h
    split at h
    · next t ht =>
      split at h
      · next hh =>
        obtain rfl := Option.some.inj h
        exact ⟨ht, hh⟩
      · exact absurd h (by simp)
    · exact absurd h (by simp)
  · rintro ⟨h, hstarted, hown⟩
    rw [h]
    exact if_pos ⟨hstarted, hown⟩

/-! ### Results -/

/-- The stage with a result that its lead has noted. -/
def noted (s : Stage) (m : Nat) : Stage := { s with results := s.results ++ [(m, 0)] }

theorem noteResult_passes (d : Dev) (s : Stage) (m : Nat) : noteResult d s m 0 =
    if resultsIn (putStage d (noted s m)) (noted s m) then closeStage (putStage d (noted s m)) (noted s m) (stageCode (noted s m))
    else putStage d (noted s m) := rfl

theorem stageCode_passes {s : Stage} (h : ∀ r ∈ s.results, r.2 = 0) : stageCode s = 0 := by
  have hfind : (s.results.find? fun p => p.2 == 0x0C) = none :=
    List.find?_eq_none.2 fun p hp => by simp [h p hp]
  have hown : (s.results.filter fun p => p.1 < 64 && p.2 != 0 && p.2 != 0x0B) = [] :=
    List.filter_eq_nil_iff.2 fun p hp => by simp [h p hp]
  have hany : (s.results.any fun p => p.2 != 0) = false :=
    List.any_eq_false.2 fun p hp => by simp [h p hp]
  unfold stageCode
  rw [hfind]
  dsimp only
  rw [hown, hany]
  rfl

theorem noted_passes {s : Stage} (h : ∀ r ∈ s.results, r.2 = 0) (m : Nat) : ∀ r ∈ (noted s m).results, r.2 = 0 := by
  intro r hr
  rcases List.mem_append.1 hr with hr | hr
  · exact h r hr
  · rw [List.mem_singleton.1 hr]

theorem files_ownEnds {d : Dev} {s : Stage} (h : ∀ r ∈ s.results, r.2 = 0) : Files d (ownEnds d s 0) := by
  have hown : ∀ r ∈ ({ s with ownResult := some 0 } : Stage).results, r.2 = 0 := h
  unfold ownEnds
  dsimp only
  rw [if_pos rfl]
  refine Files.trans (files_putStage d { s with ownResult := some 0 }) ?_
  generalize putStage d { s with ownResult := some 0 } = g
  split
  · exact (files_putStage ..).trans (books_sendMsg ..).files
  · rw [noteResult_passes]
    refine (files_putStage g (noted { s with ownResult := some 0 } d.pad.index)).trans ?_
    split
    · exact files_closeStage (.inl (stageCode_passes (noted_passes hown _)))
    · exact .refl _

/-! ### What the feed writes -/

/-- Buffers and memory have been written: the banks, the cribs, the operations, the epochs and the feed's records stand. -/
def Stores (d e : Dev) : Prop :=
  e = { d with
    ctr := e.ctr, out := e.out, stalls := e.stalls, mem := e.mem, attn := e.attn, host := e.host, health := e.health
    pad := { d.pad with
      ports := e.pad.ports, messageNo := e.pad.messageNo, twinNext := e.pad.twinNext, twinOut := e.pad.twinOut } }

theorem Stores.refl (d : Dev) : Stores d d := rfl

theorem Stores.trans {d e f : Dev} (h : Stores d e) (g : Stores e f) : Stores d f := by
  unfold Stores at *
  rw [h] at g
  exact g

theorem stores_foldl {α : Type} {f : Dev → α → Dev} (hf : ∀ d a, Stores d (f d a)) :
    ∀ (l : List α) (d : Dev), Stores d (l.foldl f d)
  | [], d => .refl d
  | a :: l, d => (hf d a).trans (stores_foldl hf l (f d a))

theorem Stores.machine {d e : Dev} (h : Stores d e) : e.banks = d.banks ∧ e.cribs = d.cribs ∧ e.ops = d.ops ∧
    e.feed = d.feed ∧ e.pad.epochs = d.pad.epochs := by
  unfold Stores at h
  rw [h]
  exact ⟨rfl, rfl, rfl, rfl, rfl⟩

theorem Tidies.stores {d e : Dev} (h : Tidies d e) : Stores d e := by
  unfold Tidies at h
  unfold Stores
  rw [h]

theorem stores_sramWrite (d : Dev) (st buf off : Nat) (bs : List Byte) : Stores d (feedSramWrite d st buf off bs) := by
  unfold feedSramWrite
  split <;> rfl

theorem writes_loftUnitWrite (obs : List (Nat × Byte)) (d : Dev) (unit : Nat) : Writes d (loftUnitWrite obs d unit) := by
  unfold loftUnitWrite
  split
  · exact (touches_loftWorn d unit).writes
  · dsimp only
    refine Writes.trans (e := if (((obs.filter fun p => unitOf p.1 == unit).map (·.1)).eraseDups).length = 256 then d
      else loftTouch d unit) ?_ rfl
    split
    · exact .refl d
    · exact (touches_loftTouch d unit).writes

theorem writes_loftWrite (d : Dev) (obs : List (Nat × Byte)) : Writes d (loftWrite d obs) := by
  unfold loftWrite
  generalize (obs.map fun p => unitOf p.1).eraseDups = us
  induction us generalizing d with
  | nil => exact .refl d
  | cons u us ih => exact (writes_loftUnitWrite obs d u).trans (ih _)

theorem stores_memWrite (d : Dev) (a : W64) (bs : List Byte) : Stores d (memWrite d a bs) := by
  unfold memWrite
  dsimp only
  split
  · exact ((writes_loftWrite ..).tidies.trans (tidies_mirrorOut ..)).stores
  · exact ((dramWrite_spec ..).1.tidies.trans (tidies_mirrorOut ..)).stores

theorem stores_copyParts (d : Dev) (s : Stage) : Stores d (copyParts d s) := by
  unfold copyParts
  split
  · exact .refl d
  · split
    · exact .refl d
    · refine (touches_dramTouchAll ..).tidies.stores.trans (stores_foldl (fun e p => ?_) _ _)
      unfold copyPart
      split
      · exact stores_sramWrite ..
      · exact .refl e

/-- The banks, the cribs, the operations and the epochs stand: memory, buffers and the feed's records may have changed. -/
def Feeds (d e : Dev) : Prop := Stores { d with feed := e.feed } e

theorem Feeds.trans {d e f : Dev} (h : Feeds d e) (g : Feeds e f) : Feeds d f := by
  unfold Feeds Stores at *
  rw [h] at g
  exact g

theorem Stores.feeds {d e : Dev} (h : Stores d e) : Feeds d e := by
  unfold Stores at h
  unfold Feeds Stores
  rw [h]

theorem Files.feeds {d e : Dev} (h : Files d e) : Feeds d e := by
  unfold Files at h
  unfold Feeds Stores
  rw [h]

theorem Feeds.machine {d e : Dev} (h : Feeds d e) : e.banks = d.banks ∧ e.cribs = d.cribs ∧ e.ops = d.ops ∧
    e.pad.epochs = d.pad.epochs := by
  obtain ⟨hbanks, hcribs, hops, -, hepochs⟩ := Stores.machine h
  exact ⟨hbanks, hcribs, hops, hepochs⟩

/-- A stage whose work may be done, with no failure noted. -/
theorem feeds_checkStage {d : Dev} {model : Nat} {s : Stage} (hs : d.feed.stages.find? (·.model == model) = some s)
    (h : ∀ r ∈ s.results, r.2 = 0) : Feeds d (checkStage d model) := by
  unfold checkStage
  rw [hs]
  dsimp only
  split
  · exact (stores_copyParts ..).feeds.trans (files_ownEnds h).feeds
  · exact (Stores.refl d).feeds

/-! ### Shards that need not be held any more -/

theorem releaseShards_eq {d : Dev} {s : Stage} (h : headStage d = some s) :
    ∃ l, releaseShards d s.model = putStage d { s with shards := l } := by
  unfold releaseShards
  rw [find_of_head h]
  exact ⟨_, rfl⟩

end Sys2Proof.Machine
end

section
/-! The programming of banks (O32). -/

namespace Sys2Proof.Machine

open Sys2Proof

/-! ### A claimed and a written bank -/

theorem bankOf_congr {d e : Dev} (h : e.banks = d.banks) (n : Nat) : bankOf e n = bankOf d n := by
  unfold bankOf
  rw [h]

/-- A bank in Loading, with one more unit of wear. -/
def claimed (b : Bank) (format : Nat) (forPl : Option Nat) (spare : Bool) : Bank :=
  { b with state := .loading, wear := satAdd b.wear 1, tag := 0, weak := [], refWeak := [], refSeen := [],
           format := format, imagePresent := false, forPlacement := forPl, forSpare := spare, fit := none, pend := none }

theorem bankOf_claimBank (d : Dev) (st phys crib bank format : Nat) (forPl : Option Nat) (spare : Bool) (n : Nat) :
    bankOf (claimBank d st phys crib bank format forPl spare) n =
      if n = bankKey st phys bank then claimed (bankOf d (bankKey st phys bank)) format forPl spare else bankOf d n :=
  bankOf_modBank d (bankKey st phys bank) n fun b => claimed b format forPl spare

/-- Only the banks, the stalls and what the farrier sampled have changed. -/
theorem claimBank_rest (d : Dev) (st phys crib bank format : Nat) (forPl : Option Nat) (spare : Bool) :
    Stores { d with banks := (claimBank d st phys crib bank format forPl spare).banks }
      (claimBank d st phys crib bank format forPl spare) := rfl

theorem bankOf_writeBankImage (d : Dev) (st phys bank : Nat) (img : List Byte) (n : Nat) :
    bankOf (writeBankImage d st phys bank img) n = if n = bankKey st phys bank then
      { bankOf d (bankKey st phys bank) with
        image := mputs 0 [] 0 img, refs := (List.range 32).map refLevels, imagePresent := true }
      else bankOf d n := by
  have hbanks := (dramWrite_spec d ((imageKeys st phys bank 0 img.length).zip img)).1.machine.2.2.1
  unfold writeBankImage
  dsimp only
  rw [bankOf_modBank, bankOf_congr hbanks, bankOf_congr hbanks]

theorem writeBankImage_rest (d : Dev) (st phys bank : Nat) (img : List Byte) :
    Stores { d with banks := (writeBankImage d st phys bank img).banks } (writeBankImage d st phys bank img) := by
  have h := (dramWrite_spec d ((imageKeys st phys bank 0 img.length).zip img)).1.tidies.stores
  unfold writeBankImage
  dsimp only
  generalize dramWrite d ((imageKeys st phys bank 0 img.length).zip img) = g at h
  unfold Stores at *
  rw [h]
  rfl

/-- A bank claimed for a placement and written with its image. -/
theorem claimed_written (d : Dev) (st phys crib bank format : Nat) (pl : Option Nat) (img : List Byte) :
    let e := writeBankImage (claimBank d st phys crib bank format pl false) st phys bank img
    bankOf e (bankKey st phys bank) = { bankOf d (bankKey st phys bank) with
        state := .loading, wear := satAdd (bankOf d (bankKey st phys bank)).wear 1, tag := 0, weak := [], refWeak := [], refSeen := []
        format := format, forPlacement := pl, forSpare := false, fit := none, pend := none, imagePresent := true
        image := mputs 0 [] 0 img, refs := (List.range 32).map refLevels } ∧
      (∀ n, n ≠ bankKey st phys bank → bankOf e n = bankOf d n) ∧ e.cribs = d.cribs ∧ e.ops = d.ops := by
  intro e
  have hrest := (writeBankImage_rest (claimBank d st phys crib bank format pl false) st phys bank img).machine
  have hclaim := (claimBank_rest d st phys crib bank format pl false).machine
  refine ⟨?_, fun n hn => ?_, hrest.2.1.trans hclaim.2.1, hrest.2.2.1.trans hclaim.2.2.1⟩
  · show bankOf (writeBankImage _ st phys bank img) _ = _
    rw [bankOf_writeBankImage, if_pos rfl, bankOf_claimBank, if_pos rfl]
    rfl
  · show bankOf (writeBankImage _ st phys bank img) _ = _
    rw [bankOf_writeBankImage, if_neg hn, bankOf_claimBank, if_neg hn]

/-! ### BANK_PROGRAM_START -/

theorem touches_heldTouch (d : Dev) (h : Shard) : Touches d (heldTouch d h) := by
  unfold heldTouch
  split
  · exact touches_dramTouchAll ..
  · exact .refl d

theorem feeds_releaseShards (d : Dev) (model : Nat) : Feeds d (releaseShards d model) := by
  unfold releaseShards
  split
  · exact (Stores.refl d).feeds
  · exact (files_putStage ..).feeds

/-- A placement that a stage without REUSE begins. -/
theorem placeBank_begins {d : Dev} {s : Stage} (hreuse : s.reuse = false) (m : Model) (p : Placement) (raw : List Byte)
    (cols : List (Nat × Nat × Nat)) :
    placeBank d s m p raw cols = releaseShards (putPlacement
      (writeBankImage (claimBank d p.stall (physOf d p.stall p.crib) p.crib p.bank p.dstFmt (some p.index) false) p.stall
        (physOf d p.stall p.crib) p.bank (imageOf p raw cols)) m { p with claimed := true }) m.id := by
  unfold placeBank
  dsimp only
  exact if_neg (by simp [hreuse])

theorem startPlacement_group {d : Dev} {s : Stage} {m : Model} {p : Placement} {data : List (Placement × List Byte)}
    {cols : List (Nat × Nat × Nat)} (hscaled : p.scaled = none) (hdata : groupData d s m.placements p = some data)
    (hcols : groupColumns data p.dstFmt p.cols = some cols) :
    ∃ g x, Feeds d g ∧ g.stalls = d.stalls ∧ startPlacement d s m p = some (placeBank g s x { p with scaled := some cols }
      (((data.find? fun q => q.1.index == p.index).map (·.2)).getD []) cols) := by
  unfold startPlacement
  rw [hscaled]
  dsimp only
  rw [hdata, Option.map_some, hcols]
  have h := touches_foldl touches_heldTouch (s.shards.filter fun h => (groupOf m.placements p).any fun q => q.shard == h.index) d
  refine ⟨_, _, ?_, ?_, rfl⟩
  · exact h.tidies.stores.feeds.trans (books_putModel ..).files.feeds
  · exact h.machine.1

/-- A placement of the stage is claimed and written. -/
theorem startPlacement_claims {d : Dev} {s : Stage} {m : Model} {p : Placement} {data : List (Placement × List Byte)}
    {cols : List (Nat × Nat × Nat)} (hscaled : p.scaled = none) (hdata : groupData d s m.placements p = some data)
    (hcols : groupColumns data p.dstFmt p.cols = some cols) (hreuse : s.reuse = false) :
    ∃ e, startPlacement d s m p = some e ∧
      bankOf e (targetKey d p) = { bankOf d (targetKey d p) with
        state := .loading, wear := satAdd (bankOf d (targetKey d p)).wear 1, tag := 0, weak := [], refWeak := [], refSeen := []
        format := p.dstFmt, forPlacement := some p.index, forSpare := false, fit := none, pend := none, imagePresent := true
        image := mputs 0 [] 0 (imageOf p (((data.find? fun q => q.1.index == p.index).map (·.2)).getD []) cols)
        refs := (List.range 32).map refLevels } ∧
      (∀ n, n ≠ targetKey d p → bankOf e n = bankOf d n) ∧ e.cribs = d.cribs ∧ e.ops = d.ops := by
  obtain ⟨g, x, hg, hstalls, hstart⟩ := startPlacement_group hscaled hdata hcols
  generalize ((data.find? fun q => q.1.index == p.index).map (·.2)).getD [] = raw at hstart ⊢
  have hphys : physOf g p.stall p.crib = physOf d p.stall p.crib := by
    unfold physOf
    rw [stallOf_congr hstalls]
  rw [placeBank_begins hreuse] at hstart
  obtain ⟨gbanks, gcribs, gops, -⟩ := hg.machine
  obtain ⟨hbank, hother, hcribs, hops⟩ := claimed_written g p.stall (physOf g p.stall p.crib) p.crib p.bank p.dstFmt (some p.index)
    (imageOf p raw cols)
  refine ⟨_, hstart, ?_⟩
  have himage : imageOf { p with scaled := some cols } raw cols = imageOf p raw cols := rfl
  dsimp only
  rw [himage]
  generalize writeBankImage (claimBank g p.stall (physOf g p.stall p.crib) p.crib p.bank p.dstFmt (some p.index) false) p.stall
    (physOf g p.stall p.crib) p.bank (imageOf p raw cols) = k at *
  have hput : Books k (putPlacement k x { p with scaled := some cols, claimed := true }) := books_putModel ..
  have hk := hput.files.feeds.trans (feeds_releaseShards _ x.id)
  obtain ⟨kbanks, kcribs, kops, -⟩ := hk.machine
  have hkey : bankKey p.stall (physOf g p.stall p.crib) p.bank = targetKey d p := by rw [hphys]; rfl
  rw [hkey] at hbank hother
  rw [bankOf_congr gbanks] at hbank
  refine ⟨(bankOf_congr kbanks _).trans hbank, fun n hn => ?_, kcribs.trans (hcribs.trans gcribs), kops.trans (hops.trans gops)⟩
  exact (bankOf_congr kbanks n).trans ((hother n hn).trans (bankOf_congr gbanks n))

/-! ### BANK_PROGRAM_DONE -/

theorem stores_writePin (st crib bank : Nat) (img : List Byte) (d : Dev) (pin : Nat × Nat) :
    Stores d (writePin st crib bank img d pin) := by
  unfold writePin
  dsimp only
  split
  · exact stores_sramWrite ..
  · exact (stores_sramWrite ..).trans rfl

theorem stores_writeScales (d : Dev) (a : W64) (bs : List Byte) : Stores d (writeScales d a bs) := by
  unfold writeScales
  split
  · exact stores_sramWrite ..
  · exact stores_memWrite ..

theorem bankOf_writeWeak (d : Dev) (st phys bank : Nat) (ws : List WeakEntry) (n : Nat) :
    bankOf (writeWeak d st phys bank ws) n = if n = bankKey st phys bank then
      { bankOf d (bankKey st phys bank) with weak := ws } else bankOf d n := by
  have hbanks := (dramWrite_spec d ((homeKeys (st / 256) (weakBase (dieBank st phys bank)) 16384).zip
    (ws.flatMap weakBytes ++ List.replicate (16384 - (ws.flatMap weakBytes).length) 0))).1.machine.2.2.1
  unfold writeWeak
  dsimp only
  generalize dramWrite d ((homeKeys (st / 256) (weakBase (dieBank st phys bank)) 16384).zip
    (ws.flatMap weakBytes ++ List.replicate (16384 - (ws.flatMap weakBytes).length) 0)) = g at hbanks
  have hside : (loadSide g st phys bank ws).banks = d.banks := hbanks
  rw [bankOf_modBank, bankOf_congr hside, bankOf_congr hside]

theorem writeWeak_rest (d : Dev) (st phys bank : Nat) (ws : List WeakEntry) :
    Stores { d with banks := (writeWeak d st phys bank ws).banks } (writeWeak d st phys bank ws) := by
  have h := (dramWrite_spec d ((homeKeys (st / 256) (weakBase (dieBank st phys bank)) 16384).zip
    (ws.flatMap weakBytes ++ List.replicate (16384 - (ws.flatMap weakBytes).length) 0))).1.tidies.stores
  unfold writeWeak
  dsimp only
  generalize dramWrite d ((homeKeys (st / 256) (weakBase (dieBank st phys bank)) 16384).zip
    (ws.flatMap weakBytes ++ List.replicate (16384 - (ws.flatMap weakBytes).length) 0)) = g at h
  unfold Stores at *
  rw [h]
  rfl

theorem writtenState_congr {d e : Dev} (h : e.pad.epochs = d.pad.epochs) (k : Nat) : writtenState e k = writtenState d k := by
  unfold writtenState
  rw [h]

/-- The module when the weak list, the pins and the scales of a bank are written. -/
def bankWritten (d : Dev) (p : Placement) (phys : Nat) (ws : List WeakEntry) (cols : List (Nat × Nat × Nat)) : Dev :=
  writeScales (p.pins.foldl (writePin p.stall p.crib p.bank (imageBack d p.stall phys p.bank)) (writeWeak d p.stall phys p.bank ws))
    p.scaleDest (scaleBytes cols)

theorem bankWritten_rest (d : Dev) (p : Placement) (phys : Nat) (ws : List WeakEntry) (cols : List (Nat × Nat × Nat)) :
    Stores { d with banks := (writeWeak d p.stall phys p.bank ws).banks } (bankWritten d p phys ws cols) :=
  (writeWeak_rest ..).trans ((stores_foldl (stores_writePin _ _ _ _) _ _).trans (stores_writeScales ..))

theorem completeBank_eq (d : Dev) (m : Model) (p : Placement) (ws : List WeakEntry) (cols : List (Nat × Nat × Nat)) :
    completeBank d m p ws cols = checkStage (releaseShards (putPlacement
      (modBank (bankWritten d p (physOf d p.stall p.crib) ws cols) (targetKey d p) fun b =>
        { b with
          state := writtenState (bankWritten d p (physOf d p.stall p.crib) ws cols) (indexKey p.stall p.crib p.bank)
          tag := tagOf m.digest p, forPlacement := none }) m { p with done := true }) m.id) m.id := rfl

/-- A bank is complete: Ready or Live, with its weak list and its tag. -/
theorem completeBank_spec {d : Dev} {m : Model} {p : Placement} {s : Stage} (ws : List WeakEntry) (cols : List (Nat × Nat × Nat))
    (hhead : headStage d = some s) (hid : m.id = s.model) (hres : ∀ r ∈ s.results, r.2 = 0) :
    let e := completeBank d m p ws cols
    bankOf e (targetKey d p) = { bankOf d (targetKey d p) with
        weak := ws, state := writtenState d (indexKey p.stall p.crib p.bank), tag := tagOf m.digest p, forPlacement := none } ∧
      (∀ n, n ≠ targetKey d p → bankOf e n = bankOf d n) ∧ e.cribs = d.cribs ∧ e.ops = d.ops := by
  intro e
  have hrest := bankWritten_rest d p (physOf d p.stall p.crib) ws cols
  have hweak := bankOf_writeWeak d p.stall (physOf d p.stall p.crib) p.bank ws
  have he : e = _ := completeBank_eq d m p ws cols
  generalize bankWritten d p (physOf d p.stall p.crib) ws cols = g at hrest he
  obtain ⟨gbanks, gcribs, gops, gfeed, gepochs⟩ := hrest.machine
  have gepochs : g.pad.epochs = d.pad.epochs := gepochs
  rw [writtenState_congr gepochs] at he
  have hkey : bankKey p.stall (physOf d p.stall p.crib) p.bank = targetKey d p := rfl
  rw [hkey] at hweak
  generalize hk : modBank g (targetKey d p) (fun b => { b with
    state := writtenState d (indexKey p.stall p.crib p.bank)
    tag := tagOf m.digest p, forPlacement := none }) = k at he
  have hput : Books k (putPlacement k m { p with done := true }) := books_putModel ..
  have hheadk : headStage (putPlacement k m { p with done := true }) = some s := by
    rw [headStage_congr hput.stages, headStage_congr (d := d) (by rw [← hk]; exact congrArg Feed.stages gfeed)]
    exact hhead
  obtain ⟨l, hl⟩ := releaseShards_eq hheadk
  have hfind := find_of_head (head_putStage (t := { s with shards := l }) hheadk rfl)
  rw [hid, hl] at he
  have hcheck : Feeds k e := by
    rw [he]
    exact (hput.files.feeds.trans (files_putStage ..).feeds).trans (feeds_checkStage hfind hres)
  obtain ⟨ebanks, ecribs, eops, -⟩ := hcheck.machine
  have hbank : ∀ n, bankOf k n = if n = targetKey d p then { bankOf g (targetKey d p) with
      state := writtenState d (indexKey p.stall p.crib p.bank), tag := tagOf m.digest p, forPlacement := none } else bankOf g n := by
    intro n
    rw [← hk]
    exact bankOf_modBank ..
  have hg : ∀ n, bankOf g n = bankOf (writeWeak d p.stall (physOf d p.stall p.crib) p.bank ws) n := fun n => by
    unfold bankOf
    rw [gbanks]
  refine ⟨?_, fun n hn => ?_, ecribs.trans ?_, eops.trans ?_⟩
  · rw [bankOf_congr ebanks, hbank, if_pos rfl, hg, hweak, if_pos rfl]
  · rw [bankOf_congr ebanks, hbank, if_neg hn, hg, hweak, if_neg hn]
  · rw [← hk]
    exact gcribs
  · rw [← hk]
    exact gops
/-! ### A bank with too many weak slices -/

theorem bankKey_parts {st phys b : Nat} (hphys : phys < 17) (hb : b < 2) :
    bankKey st phys b / 34 = st ∧ bankKey st phys b / 2 % 17 = phys ∧ bankKey st phys b % 2 = b := by
  unfold bankKey cribKey
  omega

theorem cribFails_spec (d : Dev) (st crib bank check lastPass : Nat) :
    Reports d (cribFails d st crib bank check lastPass) ∧
      ctrOf (cribFails d st crib bank check lastPass) 0x20C0 = ctrOf d 0x20C0 := by
  unfold cribFails
  split
  · exact ⟨.refl d, rfl⟩
  · dsimp only
    refine ⟨(reports_raiseEvent ..).trans (reports_unitFails ..), ?_⟩
    rw [ctrOf_unitFails _ _ _ _ (by decide) (by decide), ctrOf_raiseEvent _ _ _ _ _ _ (by decide)]

/-- The bank of a spare that has too many weak slices. -/
theorem programFails_spare {d : Dev} {st phys b : Nat} (hspare : (bankOf d (bankKey st phys b)).forSpare = true) :
    let e := programFails d st phys b
    (bankOf e (bankKey st phys b)).state = .empty ∧ ctrOf e 0x20C0 = satAdd (ctrOf d 0x20C0) 1 ∧
      (stallOf e st).pendingRetire = true ∧ e.mem = d.mem := by
  unfold programFails
  dsimp only
  rw [if_pos hspare]
  have hbank := bankOf_modBank (bump d 0x20C0) (bankKey st phys b) (bankKey st phys b) fun x =>
    { x with state := .empty, forPlacement := none, forSpare := false, forTwin := false }
  have hctr : ctrOf (modBank (bump d 0x20C0) (bankKey st phys b) fun x =>
      { x with state := .empty, forPlacement := none, forSpare := false, forTwin := false }) 0x20C0 = satAdd (ctrOf d 0x20C0) 1 :=
    (ctrOf_bump d 0x20C0 0x20C0).trans (if_pos rfl)
  have hmem : (modBank (bump d 0x20C0) (bankKey st phys b) fun x =>
      { x with state := .empty, forPlacement := none, forSpare := false, forTwin := false }).mem = d.mem := rfl
  generalize (modBank (bump d 0x20C0) (bankKey st phys b) fun x =>
      { x with state := .empty, forPlacement := none, forSpare := false, forTwin := false }) = g at *
  obtain ⟨hreports, hcount⟩ := cribFails_spec g st (servedIndex (stallOf g st) phys) b 4 (bankOf d (bankKey st phys b)).lastPass
  generalize cribFails g st (servedIndex (stallOf g st) phys) b 4 (bankOf d (bankKey st phys b)).lastPass = k at *
  refine ⟨?_, hcount.trans hctr, ?_, hreports.mem.trans hmem⟩
  · show (bankOf k _).state = _
    rw [bankOf_congr hreports.banks, hbank, if_pos rfl]
  · rw [stallOf_modStall_self]

/-! ### STAGE_RESULT -/

/-- The lead notes the result of a module that has passed, while its own is not known. -/
theorem noteResult_waits {d : Dev} {s : Stage} {m : Nat} (hown : d.pad.index ∈ stageModules d)
    (hnone : ∀ p ∈ s.results, p.1 ≠ d.pad.index) (hm : m ≠ d.pad.index) : noteResult d s m 0 = putStage d (noted s m) := by
  rw [noteResult_passes]
  refine if_neg fun h => ?_
  have hin := List.all_eq_true.1 h d.pad.index hown
  obtain ⟨p, hp, heq⟩ := List.any_eq_true.1 hin
  have heq : p.1 = d.pad.index := by simpa using heq
  rcases List.mem_append.1 hp with hp | hp
  · exact hnone p hp heq
  · rw [List.mem_singleton.1 hp] at heq
    exact hm heq

theorem own_mem_stageModules (d : Dev) : d.pad.index ∈ stageModules d := by
  unfold stageModules
  refine List.mem_append_left _ (List.mem_filter.2 ⟨?_, by simp⟩)
  unfold memberIndices
  exact List.mem_eraseDups.2 List.mem_cons_self

/-- A module whose result has not been noted, where none has failed. -/
theorem result_new {d : Dev} {s : Stage} {module : Nat} (hin : module ∈ stageModules d) (hnot : module ≠ d.pad.index)
    (hres : ∀ p ∈ s.results, p.1 ≠ module ∧ p.1 ≠ d.pad.index ∧ p.2 = 0) :
    ¬ ((stageModules d).contains module = false ∨ module = d.pad.index ∨ (s.results.any fun p => p.1 == module) = true) ∧
      ¬ ((0 : Nat) = 0 ∧ (s.results.any fun p => p.2 != 0) = true) := by
  refine ⟨?_, ?_⟩
  · rintro (h | h | h)
    · rw [List.contains_iff_mem.2 hin] at h
      exact Bool.noConfusion h
    · exact hnot h
    · obtain ⟨p, hp, heq⟩ := List.any_eq_true.1 h
      exact (hres p hp).1 (by simpa using heq)
  · rintro ⟨-, h⟩
    obtain ⟨p, hp, hne⟩ := List.any_eq_true.1 h
    rw [(hres p hp).2.2] at hne
    exact Bool.noConfusion hne

theorem abandonBanks_rest (d : Dev) : (abandonBanks d).stalls = d.stalls ∧ (abandonBanks d).mem = d.mem := ⟨rfl, rfl⟩

/-- A stage that fails leaves the queue; no stall and no memory changes. -/
theorem closeStage_fails {d : Dev} {s : Stage} {code : Nat} (h : ¬ (code = 0 ∨ s.started = false)) :
    let e := closeStage d s code
    e.stalls = d.stalls ∧ e.mem = d.mem ∧ Grows d e ∧ ∀ x ∈ e.feed.stages, x.model ≠ s.model := by
  intro e
  have hbooks := closeStage_books d s code
  rw [if_neg h] at hbooks
  refine ⟨hbooks.files.stalls, hbooks.files.mem, Grows.trans (e := unqueued (abandonBanks d) s) (.same rfl rfl rfl rfl) hbooks.grows, fun x hx => ?_⟩
  have hx : x ∈ (unqueued (abandonBanks d) s).feed.stages := by rwa [← hbooks.stages]
  simpa using (List.mem_filter.1 hx).2

/-- A bank whose weak slices of reference columns are noted. -/
def refNoted (weak : List WeakSlice) (b : Bank) : Bank :=
  { b with refWeak := (weak.filter fun s => 2048 ≤ s.col).map (·.col) }

/-- The module when the weak slices of a bank's reference columns are noted, and those of its data columns counted. -/
def weakCounted (d : Dev) (k : Nat) (weak : List WeakSlice) (ws : List WeakEntry) : Dev :=
  let g := modBank d k (refNoted weak)
  if ws = [] then g else bumpBy g 0x20B8 ws.length

theorem weakCounted_spec (d : Dev) (k : Nat) (weak : List WeakSlice) (ws : List WeakEntry) :
    let e := weakCounted d k weak ws
    (∀ n, bankOf e n = if n = k then refNoted weak (bankOf d k) else bankOf d n) ∧
      e.cribs = d.cribs ∧ e.ops = d.ops ∧ e.feed = d.feed ∧ e.stalls = d.stalls ∧ e.pad = d.pad := by
  unfold weakCounted
  dsimp only
  split <;> exact ⟨fun n => bankOf_modBank d k n (refNoted weak), rfl, rfl, rfl, rfl, rfl⟩

/-- Settles O32. -/
theorem banksAreProgrammed : Obligations.BanksAreProgrammed := by
  refine ⟨fun placement s m p data cols raw k => ?_, fun weak k s m p cols ws => ?_, fun weak st phys b => ?_,
    fun module s => ?_, fun s k => ?_⟩
  · refine answers_leaves (fun s => show execBankProgramStart placement s = _ from rfl) ?_
    intro d hpre
    refine under_name fun named shown => ?_
    obtain ⟨htwin, hspare, hwork, hm, hp, hcleared, rfl, hidle, hlimit, hfree, hscaled, hdata, hcols, rfl, hreuse⟩ := hpre
    obtain ⟨e, hstart, hbank, hother, hcribs, hops⟩ := startPlacement_claims hscaled hdata hcols hreuse
    refine shown ⟨e, ?_, fun g hl => ?_⟩
    · dsimp only
      rw [htwin, hspare, hwork]
      dsimp only
      rw [hm]
      dsimp only
      rw [hp]
      dsimp only
      rw [if_neg (by simp [hcleared, hidle, hlimit]), if_neg (by simp [hfree])]
      exact hstart
    · exact ⟨(bankOf_congr hl.banks _).trans hbank, fun n hn => (bankOf_congr hl.banks n).trans (hother n hn),
        hl.cribs.trans hcribs, hl.ops.trans hops⟩
  · refine answers_leaves (fun s => show execBankProgramDone k weak s = _ from rfl) ?_
    intro d hpre
    refine under_name fun named shown => ?_
    obtain ⟨hstate, hspare, htwin, hvalid, rfl, hfew, hwork, hm, hp, hk, hscaled, hres⟩ := hpre
    obtain ⟨hbank, gcribs, gops, gfeed, gstalls, gpad⟩ := weakCounted_spec d k weak (weakSorted (weak.map (weakOf (bankOf d k))))
    refine shown ?_
    generalize hg : weakCounted d k weak (weakSorted (weak.map (weakOf (bankOf d k)))) = g at hbank gcribs gops gfeed gstalls gpad
    have hhead : headStage g = some s := (headStage_congr (congrArg Feed.stages gfeed)).trans (workingStage_iff.1 hwork).1
    have hworkg : workingStage g = some s := workingStage_iff.2 ⟨hhead, (workingStage_iff.1 hwork).2⟩
    have hmg : modelOf g s.model = some m := by
      unfold modelOf at hm ⊢
      rwa [gfeed]
    have hid : m.id = s.model := by
      unfold modelOf at hm
      simpa using List.find?_some hm
    have hkey : targetKey g p = k := by
      unfold targetKey physOf
      rw [stallOf_congr gstalls, hk]
      rfl
    refine under_name fun named shown => ?_
    obtain ⟨ebank, eother, ecribs, eops⟩ := completeBank_spec (p := p) (weakSorted (weak.map (weakOf (bankOf d k)))) cols hhead hid hres
    rw [hkey] at ebank eother
    refine shown ⟨completeBank g m p (weakSorted (weak.map (weakOf (bankOf d k)))) cols, ?_, fun f hl => ?_⟩
    · dsimp only
      rw [if_neg (by simp [hstate, hvalid]), if_neg (Nat.not_lt.2 hfew), if_neg (by simp [hspare]), if_neg (by simp [htwin])]
      have hcount : (if weakSorted (weak.map (weakOf (bankOf d k))) = [] then
          modBank d k (refNoted weak) else bumpBy (modBank d k (refNoted weak)) 0x20B8
            (weakSorted (weak.map (weakOf (bankOf d k)))).length) = g := hg
      unfold refNoted at hcount
      rw [hcount, hworkg]
      dsimp only
      rw [hmg]
      dsimp only
      rw [hp]
      dsimp only
      rw [hscaled]
      rfl
    · refine ⟨(bankOf_congr hl.banks _).trans (ebank.trans ?_), fun n hn => (bankOf_congr hl.banks n).trans ((eother n hn).trans ?_),
        hl.cribs.trans (ecribs.trans gcribs), hl.ops.trans (eops.trans gops)⟩
      · rw [hbank, if_pos rfl, writtenState_congr (congrArg Paddock.epochs gpad)] <;> rfl
      · rw [hbank, if_neg hn]
  · refine answers_leaves (fun s => show execBankProgramDone (bankKey st phys b) weak s = _ from rfl) ?_
    intro d hpre
    refine under_name fun named shown => ?_
    obtain ⟨hphys, hb, hstate, hvalid, hspare, hmany⟩ := hpre
    obtain ⟨hst, hph, hbn⟩ := bankKey_parts (st := st) hphys hb
    generalize hk : bankKey st phys b = k at *
    have hbank := bankOf_modBank d k k (refNoted weak)
    rw [if_pos rfl] at hbank
    obtain ⟨estate, ectr, eretire, emem⟩ := programFails_spare
      (d := modBank d k (refNoted weak)) (st := st) (phys := phys) (b := b) (by rw [hk, hbank]; exact hspare)
    refine shown ⟨programFails (modBank d k (refNoted weak)) st phys b, ?_, fun f hl => ?_⟩
    · dsimp only
      rw [if_neg (by simp [hstate, hvalid]), if_pos hmany, hst, hph, hbn]
      rfl
    · refine ⟨?_, ?_, ?_, hl.mem.trans emem⟩
      · rw [bankOf_congr hl.banks]
        rwa [hk] at estate
      · unfold ctrOf at ectr ⊢
        rw [hl.ctr]
        exact ectr
      · rw [stallOf_congr hl.stalls]
        exact eretire
  · refine answers_leaves (fun s => show execStageResult module 0 s = _ from rfl) ?_
    intro d hpre
    refine under_name fun named shown => ?_
    obtain ⟨hhead, hstarted, hrole, hin, hnot, hres, -⟩ := hpre
    obtain ⟨hmodule, hpassed⟩ := result_new hin hnot hres
    refine shown ⟨putStage d (noted s module), ?_, fun g hl => ⟨hl.spares ⟨rfl, rfl, rfl, rfl, rfl⟩, ?_⟩⟩
    · dsimp only
      rw [hhead]
      dsimp only
      rw [if_neg (by simp [hstarted]), if_pos hrole, if_neg hmodule, if_neg hpassed,
        noteResult_waits (own_mem_stageModules d) (fun p hp => (hres p hp).2.1) hnot,
        show ((putStage d (noted s module)).feed.stages.find? (·.model == s.model)) = some (noted s module) from
          find_of_head (s := noted s module) (head_putStage hhead rfl)]
      exact if_neg fun h => h.2 rfl
    · rw [headStage_congr (congrArg Feed.stages hl.machine.2.2.2.2.2.2.1)]
      exact head_putStage hhead rfl
  · refine answers_leaves (fun s => show execStageResult 0 k s = _ from rfl) ?_
    intro d hpre
    refine under_name fun named shown => ?_
    obtain ⟨hhead, hstarted, hfollows, hk, hk12, hown⟩ := hpre
    have hlead : d.pad.role ≠ .lead := fun h => by
      unfold follower at hfollows
      rw [h] at hfollows
      exact absurd hfollows (by decide)
    have hclose := closeStage_fails (d := sendMsg d 0 (.stageReport s.model 0x0B)) (s := s) (code := 0x0B) (by simp [hstarted])
    refine shown ⟨closeStage (sendMsg d 0 (.stageReport s.model 0x0B)) s 0x0B, ?_, fun g hl => ?_⟩
    · dsimp only
      rw [hhead]
      dsimp only
      rw [if_neg (by simp [hstarted]), if_neg hlead, if_pos ⟨hfollows, rfl⟩, if_neg hk, if_neg hk12, if_pos hown]
    · refine under_name fun named shown => ?_
      obtain ⟨estalls, emem, egrows, egone⟩ := hclose
      have sstalls := (books_sendMsg d 0 (.stageReport s.model 0x0B)).files.stalls
      have smem := (books_sendMsg d 0 (.stageReport s.model 0x0B)).files.mem
      refine shown ⟨hl.stalls.trans (estalls.trans sstalls), hl.mem.trans (emem.trans smem), ?_, fun x hx => egone x (hl.feed ▸ hx)⟩
      exact (sendMsg_tells d 0 _).mono (.refl d) (egrows.trans hl.grows)

end Sys2Proof.Machine
end

section
/-! The start of a stage and its shards (O31). -/

namespace Sys2Proof.Machine

open Sys2Proof

/-! ### Memory and what has left -/

theorem grows_setMem (d : Dev) (m : Memory) : Grows d (setMem d m) := .same rfl rfl rfl rfl

theorem grows_dramTouch (d : Dev) (line : Nat) : Grows d (dramTouch d line) := by
  unfold dramTouch
  dsimp only
  split
  · exact .refl d
  · exact (grows_bumpBy ..).trans (grows_setMem ..)
  · exact ((grows_bumpBy ..).trans (grows_setMem ..)).trans (grows_raiseEvent ..)
  · exact grows_bumpBy ..

theorem grows_dramTouchAll (d : Dev) (keys : List Nat) : Grows d (dramTouchAll d keys) := grows_foldl grows_dramTouch _ _

theorem grows_loftTouch (d : Dev) (unit : Nat) : Grows d (loftTouch d unit) := by
  unfold loftTouch
  dsimp only
  split
  · exact .refl d
  · exact grows_bumpBy ..
  · exact ((grows_bumpBy ..).trans (grows_setMem ..)).trans (grows_raiseEvent ..)
  · exact grows_bumpBy ..

theorem grows_loftTouchAll (d : Dev) (offs : List Nat) : Grows d (loftTouchAll d offs) := grows_foldl grows_loftTouch _ _

theorem grows_dramWrite (d : Dev) (kbs : List (Nat × Byte)) : Grows d (dramWrite d kbs) := by
  unfold dramWrite
  refine Grows.trans (grows_foldl (fun d line => ?_) _ _) (grows_setMem ..)
  unfold dramLineWrite
  split
  · exact grows_setMem ..
  · dsimp only
    split
    · exact (grows_dramTouch ..).trans (grows_setMem ..)
    · exact grows_dramTouch ..

theorem grows_loftUnitWrite (obs : List (Nat × Byte)) (d : Dev) (unit : Nat) : Grows d (loftUnitWrite obs d unit) := by
  unfold loftUnitWrite
  split
  · unfold loftWorn
    dsimp only
    split
    · exact grows_bumpBy ..
    · exact ((grows_bumpBy ..).trans (grows_setMem ..)).trans (grows_raiseEvent ..)
  · dsimp only
    refine Grows.trans ?_ (grows_setMem ..)
    split
    · exact .refl d
    · exact grows_loftTouch ..

theorem grows_mirrorOut (d : Dev) (loft : Bool) (obs : List (Nat × Byte)) : Grows d (mirrorOut d loft obs) := by
  unfold mirrorOut
  dsimp only
  generalize (obs.filter fun p => if loft then mirroredLoft d p.1 else mirroredDram d p.1) = hit
  split
  · refine Grows.trans (e := if twinBusy d then bump d 0x31018 else d) ?_ (Grows.trans ?_ (grows_sendTwin ..))
    · split
      · exact grows_bumpBy ..
      · exact .refl d
    · exact ⟨fun _ h => h, fun _ => rfl, rfl, fun _ _ h => h, fun _ y h => ⟨y, h, rfl⟩⟩
  · exact .refl d

theorem grows_derWrite (d : Dev) (off : Nat) (bs : List Byte) : Grows d (derWrite d off bs) :=
  (grows_dramWrite ..).trans (grows_mirrorOut ..)

theorem grows_loftWrite (d : Dev) (obs : List (Nat × Byte)) : Grows d (loftWrite d obs) := grows_foldl (grows_loftUnitWrite obs) _ _

/-- A write of the loft leaves the DRAM as it is. -/
theorem dram_loftWrite (d : Dev) (obs : List (Nat × Byte)) : (loftWrite d obs).mem.dram = d.mem.dram := by
  unfold loftWrite
  generalize (obs.map fun p => unitOf p.1).eraseDups = us
  induction us generalizing d with
  | nil => rfl
  | cons u us ih =>
    refine (ih _).trans ?_
    unfold loftUnitWrite
    split
    · exact (touches_loftWorn d u).bytes.1
    · dsimp only
      split
      · rfl
      · exact (touches_loftTouch d u).bytes.1

/-- Reads of memory count at the stacks' registers, and where an event is dropped. -/
theorem ctrOf_dramTouchAll (d : Dev) (keys : List Nat) {o : Nat} (hdrop : o ≠ 0xB8) (ho : o < 0x100000) :
    ctrOf (dramTouchAll d keys) o = ctrOf d o := by
  refine foldl_ctrOf (fun d line => ?_) _ _
  have hbump : ∀ stack k, ctrOf (bump d (dramReg stack k)) o = ctrOf d o := fun stack k =>
    (ctrOf_bump ..).trans (if_neg (by unfold dramReg; omega))
  unfold dramTouch
  dsimp only
  split
  · rfl
  · exact hbump _ _
  · exact (ctrOf_raiseEvent _ _ _ _ _ _ hdrop).trans (hbump _ _)
  · exact hbump _ _

theorem ctrOf_loftTouchAll (d : Dev) (offs : List Nat) {o : Nat} (hdrop : o ≠ 0xB8) (ho : o < 0x100000) :
    ctrOf (loftTouchAll d offs) o = ctrOf d o := by
  refine foldl_ctrOf (fun d unit => ?_) _ _
  have hbump : ∀ stack k, ctrOf (bump d (loftReg stack k)) o = ctrOf d o := fun stack k =>
    (ctrOf_bump ..).trans (if_neg (by unfold loftReg; omega))
  unfold loftTouch
  dsimp only
  split
  · rfl
  · exact hbump _ _
  · exact (ctrOf_raiseEvent _ _ _ _ _ _ hdrop).trans (hbump _ _)
  · exact hbump _ _

/-! ### Work on a stage -/

/-- Memory, messages and the records of the feed have changed, and what had left has left. -/
structure Works (d e : Dev) : Prop where
  tidies : Tidies { d with feed := e.feed } e
  grows : Grows d e

theorem Works.refl (d : Dev) : Works d d := ⟨rfl, .refl d⟩

theorem Works.trans {d e f : Dev} (h : Works d e) (g : Works e f) : Works d f := by
  refine ⟨?_, h.grows.trans g.grows⟩
  have ht := h.tidies
  have gt := g.tidies
  unfold Tidies at *
  rw [ht] at gt
  exact gt

theorem Works.of {d e : Dev} (h : Tidies d e) (hgrows : Grows d e) : Works d e := by
  refine ⟨?_, hgrows⟩
  unfold Tidies at *
  rw [h]

theorem Works.machine {d e : Dev} (h : Works d e) : e.stalls = d.stalls ∧ e.banks = d.banks ∧ e.ops = d.ops ∧
    nextPlace e = nextPlace d ∧ follower e = follower d ∧ stageModules e = stageModules d ∧ e.pad.index = d.pad.index := by
  have ht := h.tidies
  unfold Tidies at ht
  rw [ht]
  exact ⟨rfl, rfl, rfl, rfl, rfl, rfl, rfl⟩

theorem Works.stalls {d e : Dev} (h : Works d e) : e.stalls = d.stalls := h.machine.1

theorem Works.banks {d e : Dev} (h : Works d e) : e.banks = d.banks := h.machine.2.1

theorem Works.ops {d e : Dev} (h : Works d e) : e.ops = d.ops := h.machine.2.2.1

theorem Works.follower {d e : Dev} (h : Works d e) : follower e = follower d := h.machine.2.2.2.2.1

theorem Works.stageModules {d e : Dev} (h : Works d e) : stageModules e = stageModules d := h.machine.2.2.2.2.2.1

theorem Works.index {d e : Dev} (h : Works d e) : e.pad.index = d.pad.index := h.machine.2.2.2.2.2.2

theorem works_sendMsg (d : Dev) (m : Nat) (x : Message) : Works d (sendMsg d m x) :=
  .of (signals_sendMsg ..).touches.tidies (grows_sendMsg ..)

theorem works_derWrite (d : Dev) (off : Nat) (bs : List Byte) : Works d (derWrite d off bs) :=
  .of (tidies_derWrite ..) (grows_derWrite ..)

theorem works_bump (d : Dev) (o : Nat) : Works d (bump d o) := .of (signals_bumpBy d o 1).touches.tidies (grows_bumpBy d o 1)

theorem works_setFeed (d : Dev) (f : Feed) : Works d (setFeed d f) := ⟨rfl, .same rfl rfl rfl rfl⟩

theorem works_putStage (d : Dev) (s : Stage) : Works d (putStage d s) := works_setFeed ..

theorem works_storeLoft (d : Dev) (hash : Nat) (b : List Byte) : Works d (storeLoft d hash b) ∧
    (storeLoft d hash b).feed.stages = d.feed.stages ∧ (storeLoft d hash b).mem.dram = d.mem.dram := by
  unfold storeLoft
  split
  · exact ⟨.refl d, rfl, rfl⟩
  · split
    · exact ⟨.refl d, rfl, rfl⟩
    · next off _ =>
      have hw := (writes_loftWrite d (((List.range b.length).map (off + ·)).zip b)).tidies
      have hgrows := grows_loftWrite d (((List.range b.length).map (off + ·)).zip b)
      have hdram := dram_loftWrite d (((List.range b.length).map (off + ·)).zip b)
      dsimp only
      generalize loftWrite d (((List.range b.length).map (off + ·)).zip b) = g at *
      have hfeed : g.feed = d.feed := hw.machine.2.2.2.2.2.1
      exact ⟨(Works.of hw hgrows).trans (works_setFeed ..), show g.feed.stages = _ by rw [hfeed], hdram⟩

/-- What reads of a shard do. -/
theorem deliveredBytes_spec (d : Dev) (s : Stage) (h : Shard) (bytes : List Byte) :
    Touches d (deliveredBytes d s h bytes).1 ∧ Works d (deliveredBytes d s h bytes).1 ∧
      ∀ o, o ≠ 0xB8 → o < 0x100000 → ctrOf (deliveredBytes d s h bytes).1 o = ctrOf d o := by
  unfold deliveredBytes
  split
  · split
    · exact ⟨.refl d, .refl d, fun _ _ _ => rfl⟩
    · exact ⟨touches_loftTouchAll .., .of (touches_loftTouchAll ..).tidies (grows_loftTouchAll ..),
        fun o => ctrOf_loftTouchAll _ _⟩
  · split
    · exact ⟨.refl d, .refl d, fun _ _ _ => rfl⟩
    · split
      · exact ⟨.refl d, .refl d, fun _ _ _ => rfl⟩
      · exact ⟨touches_dramTouchAll .., .of (touches_dramTouchAll ..).tidies (grows_dramTouchAll ..),
          fun o => ctrOf_dramTouchAll _ _⟩

/-- A stage of which a shard has not come is not done. -/
theorem checkStage_waits {d : Dev} {s : Stage} {model : Nat} (hhead : headStage d = some s) (hmodel : s.model = model) {k : Shard}
    (hk : k ∈ s.shards) (hwanted : (k.keep || k.forward) = true) (hmissing : k.verified = false) : checkStage d model = d := by
  have hdone : stageDone d s = false := by
    unfold stageDone
    rw [List.all_eq_false.2 ⟨k, hk, by simp [hwanted, hmissing]⟩]
    rfl
  unfold checkStage
  rw [← hmodel, find_of_head hhead]
  exact if_neg (by simp [hdone])

/-! ### A shard that verifies -/

/-- The shard as the feed buffer holds it. -/
def heldShard (h : Shard) (off : Nat) : Shard := { h with held := some off, verified := true }

/-- The stage with a shard put in its place. -/
def withShard (s : Stage) (h : Shard) : Stage := { s with shards := s.shards.map fun x => if x.index = h.index then h else x }

/-- With STORE a shard that is kept goes to the loft. -/
def shardStored (s : Stage) (h : Shard) (b : List Byte) (d : Dev) : Dev := if s.store ∧ h.keep then storeLoft d h.hash b else d

/-- The place before hears that the shard has come. -/
def shardAcked (s : Stage) (h : Shard) (d : Dev) : Dev :=
  if s.cid.isSome ∨ s.source = 2 then d else sendMsg d s.sender (.shardAck s.model h.index (here d))

/-- The shard goes on to the next place. -/
def shardSent (s : Stage) (h : Shard) (b : List Byte) (d : Dev) : Dev :=
  match nextPlace d with
  | some m => if h.forward then sendMsg d m (.shard s.model h.index b) else d
  | none => d

/-- The module when a shard is held, stored, acknowledged and sent on. -/
def shardTaken (d : Dev) (s : Stage) (h : Shard) (b : List Byte) (off : Nat) : Dev :=
  shardSent s (heldShard h off) b (shardAcked s (heldShard h off) (shardStored s (heldShard h off) b
    (putStage (derWrite d off b) (withShard s (heldShard h off)))))

theorem takeShard_eq (d : Dev) (s : Stage) (h : Shard) (b : List Byte) (off : Nat) : takeShard d s h b off =
    match (shardTaken d s h b off).feed.stages.find? (·.model == s.model) with
    | some t => if h.keep ∧ (rawOf h b).isNone then ownEnds (shardTaken d s h b off) t 9
      else checkStage (placeShard (shardTaken d s h b off) t (heldShard h off) b) t.model
    | none => shardTaken d s h b off := rfl

theorem shardStored_spec (s : Stage) (h : Shard) (b : List Byte) (d : Dev) : Works d (shardStored s h b d) ∧
    (shardStored s h b d).feed.stages = d.feed.stages ∧ (shardStored s h b d).mem.dram = d.mem.dram := by
  unfold shardStored
  split
  · exact works_storeLoft ..
  · exact ⟨.refl d, rfl, rfl⟩

theorem sendMsg_rest (d : Dev) (m : Nat) (x : Message) : (sendMsg d m x).feed = d.feed ∧ (sendMsg d m x).mem = d.mem := by
  have h := sends_sendMsg d m x
  unfold Sends at h
  rw [h]
  exact ⟨rfl, rfl⟩

theorem shardAcked_spec (s : Stage) (h : Shard) (d : Dev) : Works d (shardAcked s h d) ∧ (shardAcked s h d).feed = d.feed ∧
    (shardAcked s h d).mem = d.mem ∧
    (s.cid = none → s.source ≠ 2 → Tells s.sender (.shardAck s.model h.index (here d)) d (shardAcked s h d)) := by
  unfold shardAcked
  split
  · next hno =>
    refine ⟨.refl d, rfl, rfl, fun hcid hsource => ?_⟩
    rw [hcid] at hno
    exact absurd hno (by simp [hsource])
  · exact ⟨works_sendMsg .., (sendMsg_rest ..).1, (sendMsg_rest ..).2, fun _ _ => sendMsg_tells ..⟩

theorem shardSent_spec (s : Stage) (h : Shard) (b : List Byte) (d : Dev) : Works d (shardSent s h b d) ∧
    (shardSent s h b d).feed = d.feed ∧ (shardSent s h b d).mem = d.mem ∧
    ∀ m, h.forward = true → nextPlace d = some m → Tells m (.shard s.model h.index b) d (shardSent s h b d) := by
  unfold shardSent
  split
  · next k hk =>
    split
    · refine ⟨works_sendMsg .., (sendMsg_rest ..).1, (sendMsg_rest ..).2, fun m _ hm => ?_⟩
      obtain rfl := Option.some.inj (hk.symm.trans hm)
      exact sendMsg_tells ..
    · next hno => exact ⟨.refl d, rfl, rfl, fun m hyes _ => absurd hyes hno⟩
  · next hk => exact ⟨.refl d, rfl, rfl, fun m _ hm => absurd (hk.symm.trans hm) (by simp)⟩

/-- What a shard that verifies leaves. -/
theorem shardTaken_spec {d : Dev} {s : Stage} (h : Shard) (b : List Byte) (off : Nat) (hhead : headStage d = some s) :
    let e := shardTaken d s h b off
    Works d e ∧ headStage e = some (withShard s (heldShard h off)) ∧ e.mem.dram = (derWrite d off b).mem.dram ∧
      (s.cid = none → s.source ≠ 2 → Tells s.sender (.shardAck s.model h.index (here d)) d e) ∧
      ∀ m, h.forward = true → nextPlace d = some m → Tells m (.shard s.model h.index b) d e := by
  have hput : Works d (putStage (derWrite d off b) (withShard s (heldShard h off))) := (works_derWrite ..).trans (works_putStage ..)
  have hfeed : (derWrite d off b).feed = d.feed := (tidies_derWrite ..).machine.2.2.2.2.2.1
  have hheadp : headStage (putStage (derWrite d off b) (withShard s (heldShard h off))) = some (withShard s (heldShard h off)) :=
    head_putStage ((headStage_congr (congrArg Feed.stages hfeed)).trans hhead) rfl
  have hdram : (putStage (derWrite d off b) (withShard s (heldShard h off))).mem.dram = (derWrite d off b).mem.dram := rfl
  intro e
  have he : e = shardSent s (heldShard h off) b (shardAcked s (heldShard h off) (shardStored s (heldShard h off) b
    (putStage (derWrite d off b) (withShard s (heldShard h off))))) := rfl
  clear_value e
  generalize putStage (derWrite d off b) (withShard s (heldShard h off)) = g at *
  refine under_name fun named shown => ?_
  obtain ⟨hstored, hstages, hmem⟩ := shardStored_spec s (heldShard h off) b g
  generalize shardStored s (heldShard h off) b g = k at *
  obtain ⟨hacked, hkfeed, hkmem, hack⟩ := shardAcked_spec s (heldShard h off) k
  generalize shardAcked s (heldShard h off) k = l at *
  obtain ⟨hsent, hlfeed, hlmem, hsend⟩ := shardSent_spec s (heldShard h off) b l
  rw [← he] at hsent hlfeed hlmem hsend
  have hk := hput.trans hstored
  refine shown ⟨hk.trans (hacked.trans hsent), ?_, ?_, fun hcid hsource => ?_, fun m hforward hm => ?_⟩
  · rw [headStage_congr (congrArg Feed.stages (hlfeed.trans hkfeed)), headStage_congr hstages]
    exact hheadp
  · rw [hlmem, hkmem, hmem, hdram]
  · have htells := hack hcid hsource
    rw [hk.grows.here] at htells
    exact htells.mono hk.grows hsent.grows
  · have hlm : nextPlace l = some m := ((hk.trans hacked).machine.2.2.2.1).trans hm
    exact (hsend m hforward hlm).mono (hk.trans hacked).grows (.refl _)
/-! ### SHARD_RECEIVED -/

theorem shard_of_find {s : Stage} {shard : Nat} {h : Shard}
    (hfind : s.shards.find? (fun h => h.index == shard && (h.keep || h.forward) && !h.verified) = some h) :
    h ∈ s.shards ∧ h.index = shard := by
  have hp := List.find?_some hfind
  simp only [Bool.and_eq_true, beq_iff_eq] at hp
  exact ⟨List.mem_of_find?_eq_some hfind, hp.1.1⟩

theorem mem_withShard {s : Stage} {h x : Shard} (hx : x ∈ s.shards) (hindex : x.index = h.index) : h ∈ (withShard s h).shards :=
  List.mem_map.2 ⟨x, hx, if_pos hindex⟩

theorem other_mem_withShard {s : Stage} {h k : Shard} (hk : k ∈ s.shards) (hindex : k.index ≠ h.index) : k ∈ (withShard s h).shards :=
  List.mem_map.2 ⟨k, hk, if_neg hindex⟩

/-- A shard without compression is held, and the module goes on to place it. -/
theorem takeShard_goes {d : Dev} {s : Stage} {h : Shard} {b : List Byte} {off : Nat} (hhead : headStage d = some s)
    (hcodec : h.codec = 0) : takeShard d s h b off =
      checkStage (placeShard (shardTaken d s h b off) (withShard s (heldShard h off)) (heldShard h off) b) s.model := by
  have hfind : (shardTaken d s h b off).feed.stages.find? (·.model == s.model) = some (withShard s (heldShard h off)) :=
    find_of_head (shardTaken_spec h b off hhead).2.1
  have hraw : ¬ (h.keep = true ∧ (rawOf h b).isNone = true) := by
    unfold rawOf
    simp [hcodec]
  rw [takeShard_eq, hfind]
  exact if_neg hraw

/-- A shard of a model that verifies, while another has not come. -/
theorem takeShard_model {d : Dev} {s : Stage} {h k : Shard} {b : List Byte} {off : Nat} (hhead : headStage d = some s)
    (hnone : s.adapter = none) (hcodec : h.codec = 0) (hk : k ∈ s.shards) (hindex : k.index ≠ h.index)
    (hwanted : (k.keep || k.forward) = true) (hmissing : k.verified = false) :
    takeShard d s h b off = shardTaken d s h b off := by
  have hplace : placeShard (shardTaken d s h b off) (withShard s (heldShard h off)) (heldShard h off) b = shardTaken d s h b off := by
    have hadapter : (withShard s (heldShard h off)).adapter = none := hnone
    unfold placeShard
    rw [hadapter]
  rw [takeShard_goes hhead hcodec, hplace]
  exact checkStage_waits (shardTaken_spec h b off hhead).2.1 rfl
    (other_mem_withShard (h := heldShard h off) hk hindex) hwanted hmissing

/-- The stage with each of its shards changed. -/
def overShards (f : Shard → Shard) (s : Stage) : Stage := { s with shards := s.shards.map f }

/-- Shards released keep their places and what has been verified. -/
theorem releaseShards_spec {d : Dev} {s : Stage} (hhead : headStage d = some s) : ∃ f : Shard → Shard,
    (∀ x, (f x).index = x.index ∧ (f x).verified = x.verified ∧ (f x).keep = x.keep ∧ (f x).forward = x.forward) ∧
      releaseShards d s.model = putStage d (overShards f s) := by
  refine ⟨fun h => if mayRelease d s (((modelOf d s.model).map (·.placements)).getD []) h then { h with held := none } else h,
    fun x => ?_, ?_⟩
  · dsimp only
    split <;> exact ⟨rfl, rfl, rfl, rfl⟩
  · unfold releaseShards
    rw [find_of_head hhead]
    rfl

/-- A shard of an adapter that verifies, while another has not come: it goes to its place too. -/
theorem takeShard_adapter {d : Dev} {s : Stage} {h k : Shard} {b : List Byte} {off dst : Nat} {a : AdapterLoad}
    (hhead : headStage d = some s) (hadapter : s.adapter = some a) (hdst : dst = a.base + rawBefore s.manifest h.index)
    (hcodec : h.codec = 0) (hin : h ∈ s.shards) (hk : k ∈ s.shards) (hindex : k.index ≠ h.index)
    (hwanted : (k.keep || k.forward) = true) (hmissing : k.verified = false) :
    let e := takeShard d s h b off
    Works (shardTaken d s h b off) e ∧ e.mem = (derWrite (shardTaken d s h b off) dst b).mem ∧
      ∃ t, headStage e = some t ∧ ∃ x ∈ t.shards, x.index = h.index ∧ x.verified = true := by
  obtain ⟨-, hheadt, -⟩ := shardTaken_spec h b off hhead
  have hplace : placeShard (shardTaken d s h b off) (withShard s (heldShard h off)) (heldShard h off) b =
      releaseShards (derWrite (shardTaken d s h b off) dst b) s.model := by
    have hsome : (withShard s (heldShard h off)).adapter = some a := hadapter
    have hraw : rawOf (heldShard h off) b = some b := if_pos hcodec
    unfold placeShard
    rw [hsome]
    dsimp only
    rw [hraw, hdst]
    rfl
  have hwrite := works_derWrite (shardTaken d s h b off) dst b
  have hfeed : (derWrite (shardTaken d s h b off) dst b).feed = (shardTaken d s h b off).feed := (tidies_derWrite ..).machine.2.2.2.2.2.1
  rw [takeShard_goes hhead hcodec, hplace]
  generalize shardTaken d s h b off = g at *
  generalize derWrite g dst b = w at *
  have hheadw : headStage w = some (withShard s (heldShard h off)) := (headStage_congr (congrArg Feed.stages hfeed)).trans hheadt
  obtain ⟨f, hf, hrelease⟩ := releaseShards_spec hheadw
  have hmodel : (withShard s (heldShard h off)).model = s.model := rfl
  rw [hmodel] at hrelease
  have hheadr := head_putStage (t := overShards f (withShard s (heldShard h off))) hheadw rfl
  obtain ⟨fi, fv, fk, ff⟩ := hf k
  rw [hrelease, checkStage_waits (model := s.model) hheadr rfl
    (List.mem_map.2 ⟨k, other_mem_withShard (h := heldShard h off) hk hindex, rfl⟩) (by rw [fk, ff]; exact hwanted) (fv.trans hmissing)]
  obtain ⟨hi, hv, -, -⟩ := hf (heldShard h off)
  exact ⟨hwrite.trans (works_putStage ..), rfl, _, hheadr, f (heldShard h off),
    List.mem_map.2 ⟨_, mem_withShard (h := heldShard h off) hin rfl, rfl⟩, hi, hv⟩

/-- A shard that does not verify is asked for again. -/
def shardAsked (d : Dev) (s : Stage) (h : Shard) : Dev :=
  let g := putStage (bump (bump d 0x20A0) 0x20A8) (withShard s { h with refetches := h.refetches + 1 })
  if s.cid.isSome ∨ s.source = 2 then g else sendMsg g s.sender (.shardRequest s.model h.index)

theorem shardArrives_fails {d : Dev} {s : Stage} {h : Shard} {b : List Byte} {off : Nat}
    (hbad : ¬ (b.length = h.stored ∧ shake b 32 = h.hash)) (htries : h.refetches ≠ 3) :
    shardArrives d s h b off = shardAsked d s h := by
  unfold shardArrives
  rw [if_neg hbad]
  exact if_neg htries

theorem ctrOf_bump_bump (d : Dev) {a b : Nat} (h : a ≠ b) :
    ctrOf (bump (bump d a) b) a = satAdd (ctrOf d a) 1 ∧ ctrOf (bump (bump d a) b) b = satAdd (ctrOf d b) 1 := by
  rw [ctrOf_bump, ctrOf_bump, ctrOf_bump, ctrOf_bump, if_neg h, if_pos rfl, if_pos rfl, if_neg h.symm]
  exact ⟨rfl, rfl⟩

theorem shardAsked_spec {d : Dev} {s : Stage} {h : Shard} (hhead : headStage d = some s) :
    let e := shardAsked d s h
    Works d e ∧ e.mem = d.mem ∧ headStage e = some (withShard s { h with refetches := h.refetches + 1 }) ∧
      ctrOf e 0x20A0 = satAdd (ctrOf d 0x20A0) 1 ∧ ctrOf e 0x20A8 = satAdd (ctrOf d 0x20A8) 1 ∧
      (s.cid = none → s.source ≠ 2 → Tells s.sender (.shardRequest s.model h.index) d e) := by
  have hput : Works d (putStage (bump (bump d 0x20A0) 0x20A8) (withShard s { h with refetches := h.refetches + 1 })) :=
    ((works_bump d 0x20A0).trans (works_bump _ 0x20A8)).trans (works_putStage ..)
  have hheadp : headStage (putStage (bump (bump d 0x20A0) 0x20A8) (withShard s { h with refetches := h.refetches + 1 })) =
      some (withShard s { h with refetches := h.refetches + 1 }) := head_putStage hhead rfl
  have hctr : ∀ o, ctrOf (putStage (bump (bump d 0x20A0) 0x20A8) (withShard s { h with refetches := h.refetches + 1 })) o =
      ctrOf (bump (bump d 0x20A0) 0x20A8) o := fun _ => rfl
  obtain ⟨hfound, hasked⟩ := ctrOf_bump_bump d (a := 0x20A0) (b := 0x20A8) (by decide)
  rw [← hctr] at hfound hasked
  have hmem : (putStage (bump (bump d 0x20A0) 0x20A8) (withShard s { h with refetches := h.refetches + 1 })).mem = d.mem := rfl
  unfold shardAsked
  dsimp only
  generalize putStage (bump (bump d 0x20A0) 0x20A8) (withShard s { h with refetches := h.refetches + 1 }) = g at *
  split
  · next hno =>
    refine ⟨hput, hmem, hheadp, hfound, hasked, fun hcid hsource => ?_⟩
    rw [hcid] at hno
    exact absurd hno (by simp [hsource])
  · obtain ⟨hfeed, hsmem⟩ := sendMsg_rest g s.sender (.shardRequest s.model h.index)
    have hctr : ∀ o, ctrOf (sendMsg g s.sender (.shardRequest s.model h.index)) o = ctrOf g o := fun o =>
      congrArg (mget 0 · o) (sendMsg_ctr ..)
    exact ⟨hput.trans (works_sendMsg ..), hsmem.trans hmem, (headStage_congr (congrArg Feed.stages hfeed)).trans hheadp,
      (hctr _).trans hfound, (hctr _).trans hasked, fun _ _ => (sendMsg_tells ..).mono hput.grows (.refl _)⟩

end Sys2Proof.Machine
end

section
/-! The start of a stage, and O31. -/

namespace Sys2Proof.Machine

open Sys2Proof

/-! ### STAGE_START -/

theorem works_of_sends {d e : Dev} (h : Sends d e) (hgrows : Grows d e) : Works d e := .of h.signals.touches.tidies hgrows

theorem Sends.rest {d e : Dev} (h : Sends d e) : e.feed = d.feed ∧ e.mem = d.mem ∧ e.host = d.host := by
  unfold Sends at h
  rw [h]
  exact ⟨rfl, rfl, rfl⟩

/-- What a stage tells the next place. -/
def offerOf (d : Dev) (s : Stage) : Message :=
  .stage { model := s.model, source := s.source, store := s.store, reuse := s.reuse, keys := s.keys, manifest := s.manifest,
           sender := here d, adapter := s.adapter }

theorem passManifest_spec (d : Dev) (s : Stage) : Sends d (passManifest d s) ∧ Grows d (passManifest d s) ∧
    ∀ m, nextPlace d = some m → Tells m (offerOf d s) d (passManifest d s) := by
  unfold passManifest
  split
  · next hnone => exact ⟨.refl d, .refl d, fun m hm => absurd (hnone.symm.trans hm) (by simp)⟩
  · next k hk =>
    refine ⟨sends_sendMsg .., grows_sendMsg .., fun m hm => ?_⟩
    obtain rfl := Option.some.inj (hk.symm.trans hm)
    exact sendMsg_tells ..

/-- A stage that has started on a manifest. -/
def begunStage (s : Stage) (b : List Byte) : Stage := { s with started := true, manifest := b }

/-- The started stage with its shards. -/
def shardedStage (adapter : Bool) (d : Dev) (s : Stage) (b : List Byte) : Stage :=
  { begunStage s b with shards := stageShards d b s.source adapter }

/-- The checks of a stage's start see nothing of what has been sent, nor of the queue. -/
theorem checks_sends {d e : Dev} {s t : Stage} (h : Sends (putStage d t) e) (b : List Byte) :
    deliveredLens e s = deliveredLens d s ∧ manifestResult e s.keys b false = manifestResult d s.keys b false ∧
      stageShards e b s.source false = stageShards d b s.source false ∧
      loftMissing e (shardedStage false d s b) = loftMissing d (shardedStage false d s b) := by
  unfold Sends at h
  rw [h]
  exact ⟨rfl, rfl, rfl, rfl⟩

/-- The record takes what the manifest says of the model. -/
def modelNamed (b : List Byte) (model : Nat) (d : Dev) : Dev :=
  match modelOf d model with
  | some m => putModel d { m with modelId := mModelId b, digest := mDigest b, placements := placements b }
  | none => d

/-- With STORE the manifest goes to the loft. -/
def manifestStored (s : Stage) (b : List Byte) (d : Dev) : Dev := if s.store then storeLoft d (mDigest b) b else d

/-- The module when a stage of a model has been set up. -/
def stageSet (d : Dev) (s : Stage) (b : List Byte) : Dev :=
  manifestStored s b (modelNamed b s.model
    (putStage (passManifest (putStage d (begunStage s b)) (begunStage s b)) (shardedStage false d s b)))

/-- The checks of a stage's start, where the manifest has been passed on. -/
def stageGoes (adapter : Bool) (d : Dev) (s : Stage) (b : List Byte) : Dev :=
  if framed b = false ∨ (s.source = 0 ∧ s.cid.isSome ∧ hostList b
      (if adapter then (deliveredLens d s).take (mShards b + 1) else deliveredLens d s) = false) then ownEnds d (begunStage s b) 3
  else
    match manifestResult d s.keys b adapter with
    | some k => ownEnds d (begunStage s b) k
    | none =>
      if loftMissing d (shardedStage adapter d s b) then ownEnds d (shardedStage adapter d s b) 8
      else checkStage (passedChecks (manifestStored s b (modelNamed b s.model (putStage d (shardedStage adapter d s b))))
        (shardedStage adapter d s b)) s.model

theorem startStage_eq (d : Dev) (s : Stage) (b : List Byte) : startStage d s b =
    stageGoes s.adapter.isSome (passManifest (putStage d (begunStage s b)) (begunStage s b)) s b := rfl

theorem startStage_goes {d : Dev} {s : Stage} {b : List Byte} (hnone : s.adapter = none) (hframed : framed b = true)
    (hlist : s.source = 0 → s.cid.isSome = true → hostList b (deliveredLens d s) = true)
    (hresult : manifestResult d s.keys b false = none) (hloft : loftMissing d (shardedStage false d s b) = false) :
    startStage d s b = checkStage (passedChecks (stageSet d s b) (shardedStage false d s b)) s.model := by
  obtain ⟨hsends, -, -⟩ := passManifest_spec (putStage d (begunStage s b)) (begunStage s b)
  obtain ⟨hlens, hmanifest, hshards, hmissing⟩ := checks_sends (s := s) hsends b
  have hadapter : s.adapter.isSome = false := by rw [hnone]; rfl
  rw [startStage_eq, hadapter]
  unfold stageSet
  generalize passManifest (putStage d (begunStage s b)) (begunStage s b) = g at *
  have hsharded : shardedStage false g s b = shardedStage false d s b := by
    unfold shardedStage
    rw [hshards]
  have hgood : ¬ (framed b = false ∨ (s.source = 0 ∧ s.cid.isSome = true ∧ hostList b (deliveredLens d s) = false)) := by
    rintro (h | ⟨hsource, hcid, h⟩)
    · simp [hframed] at h
    · simp [hlist hsource hcid] at h
  unfold stageGoes
  rw [if_neg (by rw [if_neg (by decide), hlens]; exact hgood), hmanifest, hresult, hsharded, hmissing, hloft]
  rfl

/-- A stage that every module has passed is cleared. -/
theorem clearStage_spec {d : Dev} {s : Stage} (hhead : headStage d = some s) (hown : s.ownResult = none) :
    let e := clearStage d s.model
    Works d e ∧ e.mem = d.mem ∧ ∃ c, headStage e = some { s with cleared := c } ∧
      ((∀ m ∈ stageModules d, m ∈ s.checked) → c = true) := by
  unfold clearStage
  rw [find_of_head hhead]
  dsimp only
  split
  · have hsends := sends_tellAll (putStage d { s with cleared := true }) (.stageGo s.model)
    have hgrows := grows_tellAll (putStage d { s with cleared := true }) (.stageGo s.model)
    obtain ⟨hfeed, hmem, -⟩ := hsends.rest
    refine ⟨(works_putStage d { s with cleared := true }).trans (works_of_sends hsends hgrows), hmem, true, ?_, fun _ => rfl⟩
    exact (headStage_congr (congrArg Feed.stages hfeed)).trans (head_putStage hhead rfl)
  · next hno =>
    refine ⟨.refl d, rfl, s.cleared, hhead, fun hall => absurd ⟨by rw [hown]; rfl, ?_⟩ hno⟩
    exact List.all_eq_true.2 fun m hm => List.contains_iff_mem.2 (hall m hm)

theorem passedChecks_spec {d : Dev} {s : Stage} (hhead : headStage d = some s) (hown : s.ownResult = none) :
    let e := passedChecks d s
    Works d e ∧ e.mem = d.mem ∧ (∃ c, headStage e = some { s with
        checked := if follower d then s.checked else s.checked ++ [d.pad.index], cleared := c } ∧
        (follower d = false → (∀ m ∈ stageModules d, m ∈ s.checked ++ [d.pad.index]) → c = true)) ∧
      (follower d = true → Tells 0 (.stageChecked s.model) d e) := by
  unfold passedChecks
  cases hf : follower d with
  | true =>
    obtain ⟨hfeed, hmem⟩ := sendMsg_rest d 0 (.stageChecked s.model)
    refine ⟨works_sendMsg .., hmem, ⟨s.cleared, ?_, fun h => Bool.noConfusion h⟩, fun _ => sendMsg_tells ..⟩
    exact (headStage_congr (congrArg Feed.stages hfeed)).trans hhead
  | false =>
    have hheadp := head_putStage (t := { s with checked := s.checked ++ [d.pad.index] }) hhead rfl
    obtain ⟨hworks, hmem, c, hc, hcleared⟩ := clearStage_spec hheadp hown
    exact ⟨(works_putStage ..).trans hworks, hmem, ⟨c, hc, fun _ => hcleared⟩, fun h => Bool.noConfusion h⟩

theorem modelNamed_spec (b : List Byte) (model : Nat) (d : Dev) : Works d (modelNamed b model d) ∧
    (modelNamed b model d).feed.stages = d.feed.stages ∧ (modelNamed b model d).mem = d.mem := by
  unfold modelNamed
  split
  · exact ⟨works_setFeed .., rfl, rfl⟩
  · exact ⟨.refl d, rfl, rfl⟩

theorem stageSet_spec {d : Dev} {s : Stage} (b : List Byte) (hhead : headStage d = some s) :
    let e := stageSet d s b
    Works d e ∧ headStage e = some (shardedStage false d s b) ∧ (s.store = false → e.mem = d.mem) ∧
      ∀ m, nextPlace d = some m → Tells m (offerOf d (begunStage s b)) d e := by
  obtain ⟨hsends, hgrows, htells⟩ := passManifest_spec (putStage d (begunStage s b)) (begunStage s b)
  obtain ⟨hfeed, hmem, -⟩ := hsends.rest
  have hpassed := (works_putStage d (begunStage s b)).trans (works_of_sends hsends hgrows)
  have hoffer : offerOf (putStage d (begunStage s b)) (begunStage s b) = offerOf d (begunStage s b) := by
    unfold offerOf
    rw [(grows_putStage d (begunStage s b)).here]
  have hheadg : headStage (passManifest (putStage d (begunStage s b)) (begunStage s b)) = some (begunStage s b) :=
    (headStage_congr (congrArg Feed.stages hfeed)).trans (head_putStage hhead rfl)
  have hmemg : (passManifest (putStage d (begunStage s b)) (begunStage s b)).mem = d.mem := hmem
  intro e
  have he : e = manifestStored s b (modelNamed b s.model
    (putStage (passManifest (putStage d (begunStage s b)) (begunStage s b)) (shardedStage false d s b))) := rfl
  clear_value e
  rw [hoffer] at htells
  generalize passManifest (putStage d (begunStage s b)) (begunStage s b) = g at *
  have hheadk : headStage (putStage g (shardedStage false d s b)) = some (shardedStage false d s b) := head_putStage hheadg rfl
  have hk := works_putStage g (shardedStage false d s b)
  have hmemk : (putStage g (shardedStage false d s b)).mem = d.mem := hmemg
  generalize putStage g (shardedStage false d s b) = k at *
  obtain ⟨hn, hnstages, hnmem⟩ := modelNamed_spec b s.model k
  generalize modelNamed b s.model k = n at *
  have hheadn : headStage n = some (shardedStage false d s b) := (headStage_congr hnstages).trans hheadk
  have hrest : Works n e ∧ e.feed.stages = n.feed.stages ∧ (s.store = false → e.mem = n.mem) := by
    subst he
    unfold manifestStored
    split
    · next hstore =>
      obtain ⟨hw, hstages, -⟩ := works_storeLoft n (mDigest b) b
      exact ⟨hw, hstages, fun h => absurd hstore (by simp [h])⟩
    · exact ⟨.refl n, rfl, fun _ => rfl⟩
  obtain ⟨hw, hstages, hemem⟩ := hrest
  refine ⟨hpassed.trans (hk.trans (hn.trans hw)), (headStage_congr hstages).trans hheadn, fun hstore => ?_, fun m hm => ?_⟩
  · rw [hemem hstore, hnmem, hmemk]
  · exact (htells m hm).mono (grows_putStage ..) (hk.trans (hn.trans hw)).grows
theorem stageShards_new {d : Dev} {b : List Byte} {source : Nat} {adapter : Bool} {h : Shard}
    (hh : h ∈ stageShards d b source adapter) : h.verified = false := by
  unfold stageShards at hh
  obtain ⟨n, -, rfl⟩ := List.mem_map.1 hh
  rfl

/-- What the start of a stage of a model leaves. -/
theorem startStage_spec {d : Dev} {s : Stage} {b : List Byte} {h : Shard} (hhead : headStage d = some s) (hown : s.ownResult = none)
    (hnone : s.adapter = none) (hframed : framed b = true)
    (hlist : s.source = 0 → s.cid.isSome = true → hostList b (deliveredLens d s) = true)
    (hresult : manifestResult d s.keys b false = none) (hloft : loftMissing d (shardedStage false d s b) = false)
    (hh : h ∈ stageShards d b s.source false) (hwanted : (h.keep || h.forward) = true) :
    let e := startStage d s b
    Works d e ∧ (s.store = false → e.mem = d.mem) ∧
      (∃ c, headStage e = some { shardedStage false d s b with
        checked := if follower d then s.checked else s.checked ++ [d.pad.index], cleared := c } ∧
        (follower d = false → (∀ m ∈ stageModules d, m ∈ s.checked ++ [d.pad.index]) → c = true)) ∧
      (follower d = true → Tells 0 (.stageChecked s.model) d e) ∧
      ∀ m, nextPlace d = some m → Tells m (offerOf d (begunStage s b)) d e := by
  refine under_name fun named shown => ?_
  obtain ⟨hset, hheadset, hmemset, hoffer⟩ := stageSet_spec b hhead
  refine shown ?_
  rw [startStage_goes hnone hframed hlist hresult hloft]
  generalize stageSet d s b = g at *
  refine under_name fun named shown => ?_
  obtain ⟨hpassed, hmem, ⟨c, hc, hcleared⟩, htells⟩ := passedChecks_spec hheadset (s := shardedStage false d s b) hown
  rw [hset.follower, hset.index] at hc
  rw [hset.follower, hset.stageModules, hset.index] at hcleared
  rw [hset.follower] at htells
  refine shown ?_
  rw [checkStage_waits (model := s.model) hc rfl (k := h) hh hwanted (stageShards_new hh)]
  exact ⟨hset.trans hpassed, fun hstore => hmem.trans (hmemset hstore), ⟨c, hc, hcleared⟩,
    fun hf => (htells hf).mono hset.grows (.refl _), fun m hm => (hoffer m hm).mono (.refl d) hpassed.grows⟩

/-! ### SHARD_TIMEOUT -/

/-- A follower's own failure: what it had begun to program is given up, and the lead is told. -/
theorem ownEnds_reports {d : Dev} {s : Stage} {code : Nat} (hhead : headStage d = some s) (hfollows : follower d = true)
    (hcode : code ≠ 0) :
    let e := ownEnds d s code
    e.stalls = d.stalls ∧ e.mem = d.mem ∧ e.ctr = d.ctr ∧ (∃ t, headStage e = some t ∧ t.model = s.model ∧ t.ownResult = some code) ∧
      Tells 0 (.stageReport s.model code) d e := by
  have hput : headStage (abandonBanks (putStage d { s with ownResult := some code })) = some { s with ownResult := some code } :=
    head_putStage hhead rfl
  have hgrows : Grows d (abandonBanks (putStage d { s with ownResult := some code })) := .same rfl rfl rfl rfl
  have hsame : (abandonBanks (putStage d { s with ownResult := some code })).stalls = d.stalls ∧
      (abandonBanks (putStage d { s with ownResult := some code })).mem = d.mem ∧
      (abandonBanks (putStage d { s with ownResult := some code })).ctr = d.ctr ∧
      follower (abandonBanks (putStage d { s with ownResult := some code })) = true := ⟨rfl, rfl, rfl, hfollows⟩
  unfold ownEnds
  dsimp only
  rw [if_neg hcode]
  generalize abandonBanks (putStage d { s with ownResult := some code }) = g at *
  obtain ⟨hstalls, hmem, hctr, hfollowsg⟩ := hsame
  rw [if_pos hfollowsg]
  have hheadn := head_putStage (t := { s with ownResult := some code, results := [(g.pad.index, code)] }) hput rfl
  have hkgrows : Grows g (putStage g { s with ownResult := some code, results := [(g.pad.index, code)] }) := grows_putStage ..
  have hk : (putStage g { s with ownResult := some code, results := [(g.pad.index, code)] }).stalls = g.stalls ∧
      (putStage g { s with ownResult := some code, results := [(g.pad.index, code)] }).mem = g.mem ∧
      (putStage g { s with ownResult := some code, results := [(g.pad.index, code)] }).ctr = g.ctr := ⟨rfl, rfl, rfl⟩
  generalize putStage g { s with ownResult := some code, results := [(g.pad.index, code)] } = k at *
  obtain ⟨kstalls, kmem, kctr⟩ := hk
  obtain ⟨hfeed, hsmem⟩ := sendMsg_rest k 0 (.stageReport s.model code)
  refine ⟨((works_sendMsg ..).machine.1).trans (kstalls.trans hstalls), hsmem.trans (kmem.trans hmem),
    (sendMsg_ctr ..).trans (kctr.trans hctr), ⟨_, (headStage_congr (congrArg Feed.stages hfeed)).trans hheadn, rfl, rfl⟩, ?_⟩
  exact (sendMsg_tells k 0 _).mono (hgrows.trans hkgrows) (.refl _)

theorem dramAt_congr {d e : Dev} (h : e.mem.dram = d.mem.dram) (keys : List Nat) : dramAt e keys = dramAt d keys := by
  unfold dramAt
  rw [h]

/-- Settles O31. -/
theorem stagesTakeTheirShards : Obligations.StagesTakeTheirShards := by
  refine ⟨fun s b => ?_, fun shard bytes s h r off => ?_, fun shard bytes s h r off a dst => ?_, fun shard bytes s h r off => ?_,
    fun shard s m h b => ?_, fun s h => ?_⟩
  · refine answers_leaves (fun s => show execStageStart none s = _ from rfl) ?_
    intro d hpre
    refine under_name fun named shown => ?_
    obtain ⟨hhead, hnot, hown, hnone, hsource, rfl, hframed, hlist, hresult, hloft, h, hh, hwanted⟩ := hpre
    obtain ⟨hworks, hmem, ⟨c, hc, hcleared⟩, htells, hoffer⟩ :=
      startStage_spec hhead hown hnone hframed hlist hresult hloft hh hwanted
    refine shown ⟨startStage d s (ownManifest d s), ?_, fun g hl => ?_⟩
    · dsimp only
      rw [hhead]
      dsimp only
      rw [if_neg (by simp [hnot]), if_neg hsource]
    · refine ⟨hl.stalls.trans hworks.stalls, hl.banks.trans hworks.banks, hl.ops.trans hworks.ops, fun hstore => hl.mem.trans (hmem hstore),
        ⟨_, (headStage_congr (congrArg Feed.stages hl.feed)).trans hc, rfl,
          fun hf hall => hcleared hf fun m hm => by simpa [hf] using hall m hm⟩,
        fun hf => (htells hf).mono (.refl d) hl.grows, fun m hm => ?_⟩
      have ho := (hoffer m hm).mono (.refl d) hl.grows
      unfold offerOf at ho
      have hadapter : (begunStage s (ownManifest d s)).adapter = none := hnone
      rw [hadapter] at ho
      exact ho
  · refine answers_leaves (fun s => show execShardReceived shard bytes s = _ from rfl) ?_
    intro d hpre
    refine under_name fun named shown => ?_
    obtain ⟨hwork, hnone, hfind, hcodec, rfl, hlen, hhash, hroom, hfits, k, hk, hindex, hwanted, hmissing⟩ := hpre
    obtain ⟨hin, rfl⟩ := shard_of_find hfind
    obtain ⟨htouch, hreads, -⟩ := deliveredBytes_spec d s h bytes
    have hheadg : headStage (deliveredBytes d s h bytes).1 = some s :=
      (headStage_congr (congrArg Feed.stages htouch.machine.2.2.2.2.2.1)).trans (workingStage_iff.1 hwork).1
    refine shown ⟨shardArrives (deliveredBytes d s h bytes).1 s h (deliveredBytes d s h bytes).2 off, ?_, ?_⟩
    · dsimp only
      rw [hwork]
      dsimp only
      rw [hfind]
      dsimp only
      rw [hroom]
      rfl
    · unfold shardArrives
      rw [if_pos ⟨hlen, hhash⟩]
      generalize (deliveredBytes d s h bytes).2 = b at *
      generalize (deliveredBytes d s h bytes).1 = g at *
      rw [takeShard_model hheadg hnone hcodec hk hindex hwanted hmissing]
      obtain ⟨hworks, hheade, hdram, hack, hsend⟩ := shardTaken_spec h b off hheadg
      generalize shardTaken g s h b off = e at *
      intro f hl
      refine under_name fun named shown => ?_
      obtain ⟨hbytes, hbut, -, -⟩ := derWrite_spec (d := g) (off := off) (bs := b) (by rw [hlen]; exact hfits)
      have hdone := hreads.trans hworks
      have hfdram : f.mem.dram = (derWrite g off b).mem.dram := (congrArg Memory.dram hl.mem).trans hdram
      rw [hlen] at hbytes hbut
      refine shown ⟨hl.stalls.trans hdone.stalls, hl.banks.trans hdone.banks, hl.ops.trans hdone.ops, (dramAt_congr hfdram _).trans hbytes, fun n hn => ?_,
        ⟨_, (headStage_congr (congrArg Feed.stages hl.feed)).trans hheade, rfl, mem_withShard (h := heldShard h off) hin rfl⟩,
        fun hcid hsource => ?_, fun m hforward hm => ?_⟩
      · rw [hfdram, hbut n hn, htouch.bytes.1]
      · have htells := hack hcid hsource
        rw [hreads.grows.here] at htells
        exact htells.mono hreads.grows hl.grows
      · exact (hsend m hforward (hreads.machine.2.2.2.1.trans hm)).mono hreads.grows hl.grows
  · refine answers_leaves (fun s => show execShardReceived shard bytes s = _ from rfl) ?_
    intro d hpre
    refine under_name fun named shown => ?_
    obtain ⟨hwork, hadapter, hdst, hfind, hcodec, rfl, hlen, hhash, hroom, hfits, k, hk, hindex, hwanted, hmissing⟩ := hpre
    obtain ⟨hin, rfl⟩ := shard_of_find hfind
    obtain ⟨htouch, hreads, -⟩ := deliveredBytes_spec d s h bytes
    have hheadg : headStage (deliveredBytes d s h bytes).1 = some s :=
      (headStage_congr (congrArg Feed.stages htouch.machine.2.2.2.2.2.1)).trans (workingStage_iff.1 hwork).1
    refine shown ⟨shardArrives (deliveredBytes d s h bytes).1 s h (deliveredBytes d s h bytes).2 off, ?_, ?_⟩
    · dsimp only
      rw [hwork]
      dsimp only
      rw [hfind]
      dsimp only
      rw [hroom]
      rfl
    · unfold shardArrives
      rw [if_pos ⟨hlen, hhash⟩]
      generalize (deliveredBytes d s h bytes).2 = b at *
      generalize (deliveredBytes d s h bytes).1 = g at *
      obtain ⟨hplaced, hmem, t, ht, x, hx, hxi, hxv⟩ := takeShard_adapter hheadg (b := b) (off := off) hadapter hdst hcodec hin hk hindex
        hwanted hmissing
      obtain ⟨hworks, -, -, -, hsend⟩ := shardTaken_spec h b off hheadg
      generalize shardTaken g s h b off = e at *
      intro f hl
      refine under_name fun named shown => ?_
      obtain ⟨hbytes, -, -, -⟩ := derWrite_spec (d := e) (off := dst) (bs := b) (by rw [hlen]; exact hfits)
      have hdone := hreads.trans (hworks.trans hplaced)
      rw [hlen] at hbytes
      refine shown ⟨hl.stalls.trans hdone.stalls, hl.banks.trans hdone.banks, hl.ops.trans hdone.ops,
        (dramAt_congr (congrArg Memory.dram (hl.mem.trans hmem)) _).trans hbytes,
        ⟨t, (headStage_congr (congrArg Feed.stages hl.feed)).trans ht, x, hx, hxi, hxv⟩, fun m hforward hm => ?_⟩
      exact (hsend m hforward (hreads.machine.2.2.2.1.trans hm)).mono hreads.grows (hplaced.grows.trans hl.grows)
  · refine answers_leaves (fun s => show execShardReceived shard bytes s = _ from rfl) ?_
    intro d hpre
    refine under_name fun named shown => ?_
    obtain ⟨hwork, hfind, rfl, hbad, htries, hroom⟩ := hpre
    obtain ⟨hin, rfl⟩ := shard_of_find hfind
    obtain ⟨htouch, hreads, hcounts⟩ := deliveredBytes_spec d s h bytes
    have hheadg : headStage (deliveredBytes d s h bytes).1 = some s :=
      (headStage_congr (congrArg Feed.stages htouch.machine.2.2.2.2.2.1)).trans (workingStage_iff.1 hwork).1
    refine shown ⟨shardArrives (deliveredBytes d s h bytes).1 s h (deliveredBytes d s h bytes).2 off, ?_, ?_⟩
    · dsimp only
      rw [hwork]
      dsimp only
      rw [hfind]
      dsimp only
      rw [hroom]
      rfl
    · rw [shardArrives_fails hbad htries]
      generalize (deliveredBytes d s h bytes).1 = g at *
      obtain ⟨hworks, hmem, hheade, hfound, hasked, htells⟩ := shardAsked_spec (h := h) hheadg
      generalize shardAsked g s h = e at *
      intro f hl
      refine under_name fun named shown => ?_
      have hdone := hreads.trans hworks
      have hfmem : f.mem = g.mem := hl.mem.trans hmem
      have hfctr : ∀ o, ctrOf f o = ctrOf e o := fun o => congrArg (mget 0 · o) hl.ctr
      refine shown ⟨hl.stalls.trans hdone.stalls, hl.banks.trans hdone.banks, hl.ops.trans hdone.ops, fun n _ => ?_, fun n _ => ?_,
        (hfctr _).trans (hfound.trans (congrArg (satAdd · 1) (hcounts _ (by decide) (by decide)))),
        (hfctr _).trans (hasked.trans (congrArg (satAdd · 1) (hcounts _ (by decide) (by decide)))),
        ⟨_, (headStage_congr (congrArg Feed.stages hl.feed)).trans hheade,
          mem_withShard (h := { h with refetches := h.refetches + 1 }) hin rfl⟩,
        fun hcid hsource => (htells hcid hsource).mono hreads.grows hl.grows⟩
      · rw [hfmem, htouch.bytes.1]
      · rw [hfmem, htouch.bytes.2.1]
  · refine answers_leaves (fun s => show execShardRefetch shard s = _ from rfl) ?_
    intro d hpre
    refine under_name fun named shown => ?_
    obtain ⟨hhead, hnext, hfind, hheld⟩ := hpre
    have htouch := touches_heldTouch d h
    have hgrows : Grows d (heldTouch d h) := by
      unfold heldTouch
      split
      · exact grows_dramTouchAll ..
      · exact .refl d
    refine shown ⟨sendMsg (heldTouch d h) m (.shard s.model shard b), ?_, ?_⟩
    · rw [hhead, hnext]
      dsimp only
      rw [hfind]
      dsimp only
      rw [hheld]
      rfl
    · generalize heldTouch d h = g at *
      intro f hl
      refine under_name fun named shown => ?_
      obtain ⟨hfeed, hmem⟩ := sendMsg_rest g m (.shard s.model shard b)
      have hworks := (Works.of htouch.tidies hgrows).trans (works_sendMsg g m (.shard s.model shard b))
      refine shown ⟨hl.stalls.trans hworks.stalls, hl.banks.trans hworks.banks, hl.ops.trans hworks.ops, fun n _ => ?_, hl.feed.trans (hfeed.trans htouch.feed),
        (sendMsg_tells g m _).mono hgrows hl.grows⟩
      rw [hl.mem, hmem, htouch.bytes.1]
  · refine answers_leaves (fun s => show execShardTimeout s = _ from rfl) ?_
    intro d hpre
    refine under_name fun named shown => ?_
    obtain ⟨hwork, hin, hwanted, hmissing, hfollows⟩ := hpre
    obtain ⟨hhead, -⟩ := workingStage_iff.1 hwork
    have hcount := (ctrOf_bump d 0x20B0 0x20B0).trans (if_pos rfl)
    have hb := works_bump d 0x20B0
    have hbstalls : (bump d 0x20B0).stalls = d.stalls ∧ (bump d 0x20B0).mem = d.mem := ⟨rfl, rfl⟩
    have hbhead : headStage (bump d 0x20B0) = some s := hhead
    have hbfollows : follower (bump d 0x20B0) = true := hfollows
    refine shown ⟨ownEnds (bump d 0x20B0) s 8, ?_, ?_⟩
    · rw [hwork]
      exact if_pos (List.any_eq_true.2 ⟨h, hin, by simp [hwanted, hmissing]⟩)
    · generalize bump d 0x20B0 = g at *
      obtain ⟨hstalls, hmem, hctr, ⟨t, ht, htmodel, htown⟩, htells⟩ := ownEnds_reports hbhead hbfollows (code := 8) (by decide)
      intro f hl
      refine under_name fun named shown => ?_
      refine shown ⟨hl.stalls.trans (hstalls.trans hbstalls.1), hl.mem.trans (hmem.trans hbstalls.2), ?_,
        ⟨t, (headStage_congr (congrArg Feed.stages hl.feed)).trans ht, htmodel, htown⟩, htells.mono hb.grows hl.grows⟩
      exact (congrArg (mget 0 · 0x20B0) (hl.ctr.trans hctr)).trans hcount

end Sys2Proof.Machine
end

section
/-! The start and the end of a crib's operation, and the return of a side-lane read (O21). -/

namespace Sys2Proof.Machine

open Sys2Proof

/-! ### What an operation's end may change -/

/-- The memory and the operations stand; of the banks only what the farrier has seen may have changed, of the stalls only the
buffers of one. -/
structure Converts (st : Nat) (d e : Dev) : Prop where
  mem : e.mem = d.mem
  ops : e.ops = d.ops
  draws : e.draws = d.draws
  banks : ∀ k, bankOf e k = { bankOf d k with refSeen := (bankOf e k).refSeen }
  others : ∀ j, j ≠ st → stallOf e j = stallOf d j
  cribOps : (stallOf e st).cribOps = (stallOf d st).cribOps
  pc : (stallOf e st).pc = (stallOf d st).pc
  sreg : (stallOf e st).sreg = (stallOf d st).sreg
  vreg : (stallOf e st).vreg = (stallOf d st).vreg

theorem Converts.refl (st : Nat) (d : Dev) : Converts st d d := ⟨rfl, rfl, rfl, fun _ => rfl, fun _ _ => rfl, rfl, rfl, rfl, rfl⟩

theorem Converts.trans {st : Nat} {d e f : Dev} (h : Converts st d e) (g : Converts st e f) : Converts st d f where
  mem := g.mem.trans h.mem
  ops := g.ops.trans h.ops
  draws := g.draws.trans h.draws
  banks k := by
    have hk := h.banks k
    have gk := g.banks k
    rw [hk] at gk
    exact gk
  others j hj := (g.others j hj).trans (h.others j hj)
  cribOps := g.cribOps.trans h.cribOps
  pc := g.pc.trans h.pc
  sreg := g.sreg.trans h.sreg
  vreg := g.vreg.trans h.vreg

/-- A change of nothing that an operation's end leaves alone. -/
theorem Converts.same {d e : Dev} (st : Nat) (hmem : e.mem = d.mem) (hops : e.ops = d.ops) (hdraws : e.draws = d.draws)
    (hbanks : e.banks = d.banks) (hstalls : e.stalls = d.stalls) : Converts st d e := by
  have hst : ∀ j, stallOf e j = stallOf d j := stallOf_congr hstalls
  exact ⟨hmem, hops, hdraws, fun k => by rw [bankOf_congr hbanks], fun j _ => hst j, by rw [hst], by rw [hst], by rw [hst], by rw [hst]⟩

/-- The bytes of a stall's buffers stand. -/
def SameBytes (st : Nat) (d e : Dev) : Prop := ∀ b o, byteOf (stallOf e st) b o = byteOf (stallOf d st) b o

theorem SameBytes.trans {st : Nat} {d e f : Dev} (h : SameBytes st d e) (g : SameBytes st e f) : SameBytes st d f :=
  fun b o => (g b o).trans (h b o)

theorem SameBytes.of {d e : Dev} (st : Nat) (h : e.stalls = d.stalls) : SameBytes st d e := fun b o => by rw [stallOf_congr h]

theorem ReportsOfStalls.machine {d e : Dev} (h : ReportsOfStalls d e) : e.mem = d.mem ∧ e.ops = d.ops ∧ e.draws = d.draws ∧
    e.banks = d.banks ∧ e.cribs = d.cribs ∧ e.sense = d.sense := by
  unfold ReportsOfStalls at h
  rw [h]
  exact ⟨rfl, rfl, rfl, rfl, rfl, rfl⟩

theorem ReportsOfStalls.mem {d e : Dev} (h : ReportsOfStalls d e) : e.mem = d.mem := h.machine.1

theorem ReportsOfStalls.draws {d e : Dev} (h : ReportsOfStalls d e) : e.draws = d.draws := h.machine.2.2.1

theorem ReportsOfStalls.banks {d e : Dev} (h : ReportsOfStalls d e) : e.banks = d.banks := h.machine.2.2.2.1

theorem ReportsOfStalls.cribs {d e : Dev} (h : ReportsOfStalls d e) : e.cribs = d.cribs := h.machine.2.2.2.2.1

theorem ReportsOfStalls.sense {d e : Dev} (h : ReportsOfStalls d e) : e.sense = d.sense := h.machine.2.2.2.2.2

theorem ReadsOf.converts {st : Nat} {d e : Dev} (h : ReadsOf st d e) : Converts st d e ∧ SameBytes st d e := by
  obtain ⟨hreports, hothers, z, hz⟩ := h
  have hfound : (readFound (stallOf d st) z).cribOps = (stallOf d st).cribOps ∧ (readFound (stallOf d st) z).pc = (stallOf d st).pc ∧
      (readFound (stallOf d st) z).sreg = (stallOf d st).sreg ∧ (readFound (stallOf d st) z).vreg = (stallOf d st).vreg :=
    ⟨rfl, rfl, rfl, rfl⟩
  rw [← hz] at hfound
  obtain ⟨hcrib, hpc, hsreg, hvreg⟩ := hfound
  refine ⟨⟨hreports.mem, hreports.ops, hreports.draws, fun k => by rw [bankOf_congr hreports.banks], hothers, hcrib, hpc, hsreg, hvreg⟩, fun b o => ?_⟩
  rw [hz]
  exact byteOf_readFound ..

/-! ### Tiles -/

/-- A read of a buffer's bytes depends on them, on the incomplete operations and on the draws. -/
theorem sramRead_congr {d e : Dev} {st buf off n : Nat} (hops : e.ops = d.ops) (hdraws : e.draws = d.draws)
    (hbytes : ∀ k, k < n → byteOf (stallOf e st) buf (off + k) = byteOf (stallOf d st) buf (off + k)) :
    sramRead e st buf off n = sramRead d st buf off n := by
  unfold sramRead
  refine List.map_congr_left fun k hk => ?_
  have hbyte := hbytes k (List.mem_range.1 hk)
  unfold byteOf at hbyte
  have hcovers : getCovers e st buf (off + k) = getCovers d st buf (off + k) := by
    unfold getCovers opsOf
    rw [hops]
  rw [hcovers, hdraws, hbyte]

/-- The outputs that a tile holds when it has been set, or added to. -/
def tileOuts (d : Dev) (st : Nat) (add : Bool) (w : Nat × List W32) : List W32 :=
  (List.range 1024).map fun j =>
    if add then satAddI (BitVec.ofNat 32 (fieldAt (sramRead d st 1 (4096 * w.1) 4096) (4 * j) 4)) (w.2.getD j 0) else w.2.getD j 0

theorem map_getD_range {α : Type} (l : List α) (a : α) {n : Nat} (h : l.length = n) : ((List.range n).map fun j => l.getD j a) = l := by
  refine List.ext_getElem (by simp [h]) fun k h1 h2 => ?_
  rw [List.getElem_map, List.getElem_range, List.getD_eq_getElem _ _ h2]

/-- The bytes of 32-bit outputs, one after another. -/
theorem getD_flatMap_toLe (l : List W32) {j b : Nat} (hj : j < l.length) (hb : b < 4) :
    (l.flatMap fun v => toLe 4 v.toNat).getD (4 * j + b) 0 = (toLe 4 (l.getD j 0).toNat).getD b 0 := by
  induction l generalizing j with
  | nil => exact absurd hj (Nat.not_lt_zero j)
  | cons v l ih =>
    have hlen : (toLe 4 v.toNat).length = 4 := length_toLe ..
    rw [List.flatMap_cons]
    cases j with
    | zero => rw [List.getD_append _ _ _ _ (by omega), Nat.mul_zero, Nat.zero_add, List.getD_cons_zero]
    | succ j =>
      rw [List.getD_append_right _ _ _ _ (by omega), List.getD_cons_succ, hlen, show 4 * (j + 1) + b - 4 = 4 * j + b by omega]
      exact ih (by simpa using hj)

theorem length_flatMap_toLe (l : List W32) : (l.flatMap fun v => toLe 4 v.toNat).length = 4 * l.length := by
  induction l with
  | nil => rfl
  | cons v l ih => rw [List.flatMap_cons, List.length_append, length_toLe, ih, List.length_cons]; omega

theorem converts_sramWrite (d : Dev) (st buf off : Nat) (bs : List Byte) : Converts st d (sramWrite d st buf off bs) := by
  have hst := stallOf_sramWrite_self d st buf off bs
  rw [setSram_fields] at hst
  exact ⟨rfl, rfl, rfl, fun _ => rfl, fun j hj => stallOf_sramWrite_ne d buf off bs hj, by rw [hst], by rw [hst], by rw [hst], by rw [hst]⟩

theorem byteOf_sramWrite (d : Dev) (st off : Nat) (bs : List Byte) {b : Nat} (hb : b < 3) (o : Nat) :
    byteOf (stallOf (sramWrite d st 1 off bs) st) b o =
      if b = 1 ∧ off ≤ o ∧ o < off + bs.length then some (bs.getD (o - off) 0) else byteOf (stallOf d st) b o := by
  rw [stallOf_sramWrite_self]
  exact byteOf_sramPut _ (by decide) hb ..

/-- What the write of a tile leaves. -/
theorem writeTile_spec (d : Dev) (st : Nat) (add : Bool) {w : Nat × List W32} (hlen : w.2.length = 1024) :
    let e := writeTile st add d w.1 w.2
    Converts st d e ∧ ∀ b o, b < 3 → byteOf (stallOf e st) b o = if b = 1 ∧ 4096 * w.1 ≤ o ∧ o < 4096 * w.1 + 4096 then
      some (((tileOuts d st add w).flatMap fun v => toLe 4 v.toNat).getD (o - 4096 * w.1) 0) else byteOf (stallOf d st) b o := by
  have hbytes : ((tileOuts d st add w).flatMap fun v => toLe 4 v.toNat).length = 4096 := by
    rw [length_flatMap_toLe]
    unfold tileOuts
    rw [List.length_map, List.length_range]
  cases add with
  | true =>
    obtain ⟨hconv, hsame⟩ := (readsOf_sramTouch d st (4096 * w.1) 4096 (buf := 1) (by decide)).converts
    have hwrite : writeTile st true d w.1 w.2 = sramWrite (sramTouch d st 1 (4096 * w.1) 4096) st 1 (4096 * w.1)
        ((tileOuts d st true w).flatMap fun v => toLe 4 v.toNat) := by
      unfold tileOuts
      rw [List.flatMap_map]
      rfl
    intro e
    refine ⟨?_, fun b o hb => ?_⟩
    · show Converts st d (writeTile st true d w.1 w.2)
      rw [hwrite]
      exact hconv.trans (converts_sramWrite ..)
    · show byteOf (stallOf (writeTile st true d w.1 w.2) st) b o = _
      rw [hwrite, byteOf_sramWrite _ _ _ _ hb, hbytes, hsame]
  | false =>
    have houts : tileOuts d st false w = w.2 := map_getD_range w.2 0 hlen
    have hwrite : writeTile st false d w.1 w.2 = sramWrite d st 1 (4096 * w.1) ((tileOuts d st false w).flatMap fun v => toLe 4 v.toNat) := by
      rw [houts]
      rfl
    intro e
    refine ⟨?_, fun b o hb => ?_⟩
    · show Converts st d (writeTile st false d w.1 w.2)
      rw [hwrite]
      exact converts_sramWrite ..
    · show byteOf (stallOf (writeTile st false d w.1 w.2) st) b o = _
      rw [hwrite, byteOf_sramWrite _ _ _ _ hb, hbytes]

/-- What the writes of an operation's tiles leave, each tile once. -/
theorem writeTiles_spec (st : Nat) (add : Bool) {ws : List (Nat × List W32)} (hnd : (ws.map (·.1)).Nodup)
    (hlen : ∀ w ∈ ws, w.2.length = 1024) : ∀ d : Dev,
    let e := ws.foldl (fun e w => writeTile st add e w.1 w.2) d
    Converts st d e ∧
      (∀ w ∈ ws, ∀ n, n < 4096 → byteOf (stallOf e st) 1 (4096 * w.1 + n) =
        some (((tileOuts d st add w).flatMap fun v => toLe 4 v.toNat).getD n 0)) ∧
      ∀ b o, b < 3 → (∀ w ∈ ws, ¬ (b = 1 ∧ 4096 * w.1 ≤ o ∧ o < 4096 * w.1 + 4096)) →
        byteOf (stallOf e st) b o = byteOf (stallOf d st) b o := by
  induction ws with
  | nil => exact fun d => ⟨.refl st d, fun _ h => absurd h List.not_mem_nil, fun _ _ _ _ => rfl⟩
  | cons x ws ih =>
    intro d
    rw [List.map_cons, List.nodup_cons] at hnd
    obtain ⟨hx, hnd⟩ := hnd
    obtain ⟨hconv, hbyte⟩ := writeTile_spec d st add (hlen x List.mem_cons_self)
    obtain ⟨iconv, iin, iout⟩ := ih hnd (fun w hw => hlen w (List.mem_cons_of_mem _ hw)) (writeTile st add d x.1 x.2)
    have hapart : ∀ w ∈ ws, w.1 ≠ x.1 := fun w hw h => hx (List.mem_map.2 ⟨w, hw, h⟩)
    rw [List.foldl_cons]
    refine ⟨hconv.trans iconv, fun w hw n hn => ?_, fun b o hb hout => ?_⟩
    · rcases List.mem_cons.1 hw with rfl | hw
      · rw [iout 1 _ (by decide) fun v hv => ?_, hbyte 1 _ (by decide), if_pos ⟨rfl, by omega, by omega⟩, Nat.add_sub_cancel_left]
        have := hapart v hv
        omega
      · rw [iin w hw n hn]
        have hread : sramRead (writeTile st add d x.1 x.2) st 1 (4096 * w.1) 4096 = sramRead d st 1 (4096 * w.1) 4096 :=
          sramRead_congr hconv.ops hconv.draws fun k hk => by
            rw [hbyte 1 _ (by decide), if_neg]
            have := hapart w hw
            omega
        unfold tileOuts
        rw [hread]
    · rw [iout b o hb fun w hw => hout w (List.mem_cons_of_mem _ hw), hbyte b o hb, if_neg (hout x List.mem_cons_self)]
/-! ### The bin write -/

/-- A step of an operation's end that leaves the stall's buffers as they are. -/
structure Quietly (st : Nat) (d e : Dev) : Prop where
  converts : Converts st d e
  bytes : SameBytes st d e

theorem Quietly.refl (st : Nat) (d : Dev) : Quietly st d d := ⟨.refl st d, fun _ _ => rfl⟩

theorem Quietly.trans {st : Nat} {d e f : Dev} (h : Quietly st d e) (g : Quietly st e f) : Quietly st d f :=
  ⟨h.converts.trans g.converts, h.bytes.trans g.bytes⟩

theorem quietly_foldl {α : Type} {st : Nat} {f : Dev → α → Dev} (hf : ∀ d a, Quietly st d (f d a)) :
    ∀ (l : List α) (d : Dev), Quietly st d (l.foldl f d)
  | [], d => .refl st d
  | a :: l, d => (hf d a).trans (quietly_foldl hf l (f d a))

theorem ReadsOf.quietly {st : Nat} {d e : Dev} (h : ReadsOf st d e) : Quietly st d e := ⟨h.converts.1, h.converts.2⟩

theorem Quietly.same {d e : Dev} (st : Nat) (hmem : e.mem = d.mem) (hops : e.ops = d.ops) (hdraws : e.draws = d.draws)
    (hbanks : e.banks = d.banks) (hstalls : e.stalls = d.stalls) : Quietly st d e :=
  ⟨.same st hmem hops hdraws hbanks hstalls, .of st hstalls⟩

theorem quietly_bumpBy (st : Nat) (d : Dev) (o n : Nat) : Quietly st d (bumpBy d o n) := .same st rfl rfl rfl rfl rfl

theorem quietly_storeUe (d : Dev) (st : Nat) : Quietly st d (storeUe d st) := ((reports_raiseEvent ..).readsOf st).quietly

theorem quietly_touchPins (st : Nat) (o : CribOp) (d : Dev) (k : Nat) : Quietly st d (touchPins st o d k) :=
  quietly_foldl (fun d line => (readsOf_sramTouch d st (1024 * line) 1024 (buf := 2) (by decide)).quietly) _ _

theorem quietly_touchSide (st : Nat) (o : CribOp) (d : Dev) (k : Nat) : Quietly st d (touchSide st o d k) := by
  unfold touchSide
  dsimp only
  split
  · exact quietly_storeUe ..
  · exact .refl st d

theorem quietly_touchCorr (st : Nat) (d : Dev) (key : Nat) : Quietly st d (touchCorr st d key) := by
  unfold touchCorr
  split
  · exact quietly_storeUe ..
  · exact .refl st d

theorem quietly_keepSample (st : Nat) (o : CribOp) (d : Dev) (k : Nat) : Quietly st d (keepSample st o d k) := by
  unfold keepSample
  dsimp only
  split <;> exact .same st rfl rfl rfl rfl rfl

theorem quietly_seeRefs (st : Nat) (c : Conv) (d : Dev) (key : Nat) : Quietly st d (seeRefs c d key) := by
  refine ⟨⟨rfl, rfl, rfl, fun k => ?_, fun _ _ => rfl, rfl, rfl, rfl, rfl⟩, fun _ _ => rfl⟩
  have hk : bankOf (seeRefs c d key) k = if k = key then { bankOf d key with refSeen :=
    ((bankOf d key).refSeen.filter fun t => d.host.uptimeMs ≤ t.time + 250) ++ refTerms d.host.uptimeMs c } else bankOf d k :=
    bankOf_modBank ..
  rw [hk]
  split
  · next h => rw [h]
  · rfl

theorem quietly_counted (st : Nat) (d : Dev) (o n : Nat) : Quietly st d (if n = 0 then d else bumpBy d o n) := by
  split
  · exact .refl st d
  · exact quietly_bumpBy ..

theorem quietly_mvmCounts (d : Dev) (st : Nat) (o : CribOp) (waited : Nat) (e : Dev) : Quietly st e (mvmCounts d st o waited e) := by
  unfold mvmCounts
  dsimp only
  refine Quietly.trans ?_ (quietly_foldl (fun e k => quietly_seeRefs st (convAt d st o k) e _) _ _)
  refine Quietly.trans ?_ (quietly_foldl (quietly_keepSample st o) _ _)
  exact (((quietly_counted st e _ _).trans (quietly_counted ..)).trans (quietly_counted ..)).trans (quietly_counted ..)

/-- The module when the side lane and the adder tree have read what they need. -/
def laneRead (d : Dev) (st : Nat) (o : CribOp) : Dev :=
  (List.range o.cribs.length).foldl (fun e k => touchCorr st e (bankKey st (o.cribs.getD k 0) (o.banks.getD k 0)))
    (if o.probe then d else (List.range o.cribs.length).foldl (touchSide st o) ((List.range o.cribs.length).foldl (touchPins st o) d))

theorem quietly_laneRead (d : Dev) (st : Nat) (o : CribOp) : Quietly st d (laneRead d st o) := by
  refine Quietly.trans ?_ (quietly_foldl (fun e k => quietly_touchCorr st e _) _ _)
  split
  · exact .refl st d
  · exact (quietly_foldl (quietly_touchPins st o) _ _).trans (quietly_foldl (quietly_touchSide st o) _ _)

/-- The bytes of a probe's reference outputs. -/
def refBytes (d : Dev) (st : Nat) (o : CribOp) : List Byte :=
  (List.range 32).flatMap fun k => toLe 4 (BitVec.ofInt 32 (refOut (convAt d st o 0) k)).toNat

/-- The module when the tiles of an operation, and a probe's reference outputs, are written. -/
def tilesWritten (d : Dev) (st : Nat) (o : CribOp) : Dev :=
  let e := (opWrites d st o).foldl (fun e w => writeTile st o.add e w.1 w.2) (laneRead d st o)
  if o.probe then sramWrite e st 1 (4096 * (o.tile + 1)) (refBytes d st o) else e

theorem binWrite_eq (d : Dev) (st : Nat) (o : CribOp) (waited : Nat) : binWrite d st o waited =
    modStall (mvmCounts d st o waited (tilesWritten d st o)) st fun x => { x with cribOps := x.cribOps.filter fun p => p.id != o.id } := rfl

/-- What the end of an operation leaves, when its tiles are written. -/
theorem binWrite_spec {d : Dev} {st : Nat} {o : CribOp} (waited : Nat) (h : Converts st d (tilesWritten d st o)) :
    let e := binWrite d st o waited
    (e.mem = d.mem ∧ (∀ k, bankOf e k = { bankOf d k with refSeen := (bankOf e k).refSeen }) ∧
      (∀ j, j ≠ st → stallOf e j = stallOf d j) ∧ (stallOf e st).cribOps = (stallOf d st).cribOps.filter (fun p => p.id != o.id) ∧
      (stallOf e st).pc = (stallOf d st).pc ∧ (stallOf e st).sreg = (stallOf d st).sreg ∧ (stallOf e st).vreg = (stallOf d st).vreg) ∧
      ∀ b n, byteOf (stallOf e st) b n = byteOf (stallOf (tilesWritten d st o) st) b n := by
  have hcounts := quietly_mvmCounts d st o waited (tilesWritten d st o)
  rw [binWrite_eq]
  generalize mvmCounts d st o waited (tilesWritten d st o) = g at hcounts
  have hall := h.trans hcounts.converts
  have hst := stallOf_modStall_self (d := g) st fun x => { x with cribOps := x.cribOps.filter fun p => p.id != o.id }
  refine ⟨⟨hall.mem, hall.banks, fun j hj => (stallOf_modStall_ne _ _ hj).trans (hall.others j hj), ?_, ?_, ?_, ?_⟩, fun b n => ?_⟩
  · rw [hst, ← hall.cribOps]
  · rw [hst, ← hall.pc]
  · rw [hst, ← hall.sreg]
  · rw [hst, ← hall.vreg]
  · rw [hst]
    exact hcounts.bytes b n

/-! ### The tiles of an operation -/

theorem length_cribOuts (d : Dev) (st : Nat) (o : CribOp) (k : Nat) : (cribOuts d st o k).length = 1024 := by
  unfold cribOuts
  rw [List.length_map, List.length_range]

/-- The tiles of an operation follow each other from its first one. -/
theorem opWrites_tiles (d : Dev) (st : Nat) (o : CribOp) :
    (opWrites d st o).map (·.1) = (List.range (opWrites d st o).length).map (o.tile + ·) ∧ ∀ w ∈ opWrites d st o, w.2.length = 1024 := by
  unfold opWrites
  dsimp only
  split
  · refine ⟨rfl, fun w hw => ?_⟩
    obtain rfl := List.mem_singleton.1 hw
    unfold tallSum
    rw [List.length_map, List.length_range]
  · rw [List.length_map, List.length_range, List.map_map, List.length_map, List.length_range]
    refine ⟨rfl, fun w hw => ?_⟩
    obtain ⟨k, hk, rfl⟩ := List.mem_map.1 hw
    have hk : k < o.cribs.length := by simpa using hk
    have hlen : k < ((List.range o.cribs.length).map (cribOuts d st o)).length := by simpa using hk
    show (((List.range o.cribs.length).map (cribOuts d st o)).getD k []).length = 1024
    rw [List.getD_eq_getElem _ _ hlen, List.getElem_map]
    exact length_cribOuts d st o _

theorem opWrites_nodup (d : Dev) (st : Nat) (o : CribOp) : ((opWrites d st o).map (·.1)).Nodup := by
  rw [(opWrites_tiles d st o).1]
  exact List.nodup_range.map fun a b h => Nat.add_left_cancel h

theorem opWrites_bound {d : Dev} {st : Nat} {o : CribOp} {w : Nat × List W32} (hw : w ∈ opWrites d st o) :
    o.tile ≤ w.1 ∧ w.1 < o.tile + (opWrites d st o).length := by
  have h : w.1 ∈ (opWrites d st o).map (·.1) := List.mem_map.2 ⟨w, hw, rfl⟩
  rw [(opWrites_tiles d st o).1] at h
  obtain ⟨k, hk, hk2⟩ := List.mem_map.1 h
  have := List.mem_range.1 hk
  omega

/-- The outputs of a tile are those that the state had at the operation's end. -/
theorem tileOuts_laneRead (d : Dev) (st : Nat) (o : CribOp) (w : Nat × List W32) :
    tileOuts (laneRead d st o) st o.add w = tileOuts d st o.add w := by
  obtain ⟨hconv, hbytes⟩ := quietly_laneRead d st o
  unfold tileOuts
  rw [sramRead_congr hconv.ops hconv.draws fun k _ => hbytes 1 _]

/-- The tiles of an operation hold its outputs, and nothing else of the buffers has changed. -/
theorem tiles_spec (d : Dev) (st : Nat) (o : CribOp) :
    let e := (opWrites d st o).foldl (fun e w => writeTile st o.add e w.1 w.2) (laneRead d st o)
    Converts st d e ∧
      (∀ w ∈ opWrites d st o, ∀ j b, j < 1024 → b < 4 → byteOf (stallOf e st) 1 (4096 * w.1 + 4 * j + b) =
        some ((toLe 4 ((tileOuts d st o.add w).getD j 0).toNat).getD b 0)) ∧
      BytesBut 1 (4096 * o.tile) (4096 * (opWrites d st o).length) (stallOf d st) (stallOf e st) := by
  obtain ⟨hlane, hbytes⟩ := quietly_laneRead d st o
  obtain ⟨hconv, hin, hout⟩ := writeTiles_spec st o.add (opWrites_nodup d st o) (opWrites_tiles d st o).2 (laneRead d st o)
  refine ⟨hlane.trans hconv, fun w hw j b hj hb => ?_, fun b n hb hn => ?_⟩
  · have hlen : (tileOuts d st o.add w).length = 1024 := by
      unfold tileOuts
      rw [List.length_map, List.length_range]
    rw [Nat.add_assoc, hin w hw _ (by omega), tileOuts_laneRead, getD_flatMap_toLe _ (by omega) hb]
  · rw [hout b n hb fun w hw h => hn ?_, hbytes]
    obtain ⟨rfl, hlo, hhi⟩ := h
    have := opWrites_bound hw
    exact ⟨rfl, by omega, by omega⟩

end Sys2Proof.Machine
end

section
/-! The start of a crib's operation, and O21. -/

namespace Sys2Proof.Machine

open Sys2Proof

/-! ### The operations of a stall -/

theorem cribOpOf_congr {d e : Dev} {st : Nat} (h : (stallOf e st).cribOps = (stallOf d st).cribOps) (id : Nat) :
    cribOpOf e st id = cribOpOf d st id := by
  unfold cribOpOf
  rw [h]

theorem cribOpOf_id {d : Dev} {st id : Nat} {o : CribOp} (h : cribOpOf d st id = some o) : o.id = id := by
  simpa using List.find?_some h

/-- The operations of a stall, each changed under its number. -/
theorem find_map_cribOp {l : List CribOp} {id : Nat} {o : CribOp} {f : CribOp → CribOp} (h : l.find? (·.id == id) = some o)
    (hf : ∀ x, (f x).id = x.id) : (l.map f).find? (·.id == id) = some (f o) := by
  have hkeep : ((fun x : CribOp => x.id == id) ∘ f) = fun x => x.id == id := funext fun x => by
    rw [Function.comp_apply, hf]
  rw [List.find?_map, hkeep, h]
  rfl

theorem cribOpOf_setCribOp {d : Dev} {st : Nat} {o p : CribOp} (h : cribOpOf d st p.id = some o) :
    cribOpOf (setCribOp d st p) st p.id = some p := by
  have hid := cribOpOf_id h
  unfold cribOpOf setCribOp
  rw [stallOf_modStall_self]
  refine (find_map_cribOp (f := fun x => if x.id = p.id then p else x) h fun x => ?_).trans (by rw [if_pos hid])
  split
  · next hx => exact hx.symm
  · rfl

/-! ### Credit -/

/-- The credit of every crib, and the period since which it counts, stand. -/
structure SameCredit (d e : Dev) : Prop where
  credit : ∀ k, (cribOf e k).credit = (cribOf d k).credit
  tick : ∀ k, (cribOf e k).tick = (cribOf d k).tick
  duty : e.sense.duty = d.sense.duty

theorem SameCredit.refl (d : Dev) : SameCredit d d := ⟨fun _ => rfl, fun _ => rfl, rfl⟩

theorem SameCredit.trans {d e f : Dev} (h : SameCredit d e) (g : SameCredit e f) : SameCredit d f :=
  ⟨fun k => (g.credit k).trans (h.credit k), fun k => (g.tick k).trans (h.tick k), g.duty.trans h.duty⟩

theorem SameCredit.after {d e : Dev} (h : SameCredit d e) (key tick : Nat) : creditAfter e key tick = creditAfter d key tick := by
  unfold creditAfter
  rw [h.credit, h.tick, h.duty]

theorem SameCredit.of {d e : Dev} (hcribs : e.cribs = d.cribs) (hsense : e.sense = d.sense) : SameCredit d e := by
  refine ⟨fun k => ?_, fun k => ?_, by rw [hsense]⟩ <;>
  · unfold cribOf
    rw [hcribs]

theorem cribOf_setCrib (d : Dev) (k j : Nat) (x : Crib) : cribOf (setCrib d k x) j = if j = k then x else cribOf d j := mget_mput ..

/-- Converting times charged to cribs, each once. -/
theorem charges_spec (tick : Nat) {l : List (Nat × Nat)} (hnd : (l.map (·.1)).Nodup) : ∀ d : Dev,
    let e := l.foldl (fun e p => charge32 tick p.2 e p.1) d
    e = { d with cribs := e.cribs } ∧ (∀ p ∈ l, (cribOf e p.1).credit = creditAfter d p.1 tick - 32 * p.2) ∧
      ∀ k, k ∉ l.map (·.1) → cribOf e k = cribOf d k := by
  induction l with
  | nil => exact fun d => ⟨rfl, fun _ h => absurd h List.not_mem_nil, fun _ _ => rfl⟩
  | cons x l ih =>
    intro d
    rw [List.map_cons, List.nodup_cons] at hnd
    obtain ⟨hx, hnd⟩ := hnd
    have hcrib : ∀ k, cribOf (charge32 tick x.2 d x.1) k = if k = x.1 then
        { cribOf d x.1 with credit := creditAfter d x.1 tick - 32 * x.2, tick := max tick (cribOf d x.1).tick } else cribOf d k :=
      fun k => cribOf_setCrib ..
    have hframe : charge32 tick x.2 d x.1 = { d with cribs := (charge32 tick x.2 d x.1).cribs } := rfl
    obtain ⟨iframe, iin, iout⟩ := ih hnd (charge32 tick x.2 d x.1)
    have hduty : (charge32 tick x.2 d x.1).sense.duty = d.sense.duty := rfl
    rw [List.foldl_cons]
    generalize charge32 tick x.2 d x.1 = g at *
    generalize l.foldl (fun e p => charge32 tick p.2 e p.1) g = f at *
    refine ⟨?_, fun p hp => ?_, fun k hk => ?_⟩
    · rw [hframe] at iframe
      exact iframe
    · rcases List.mem_cons.1 hp with rfl | hp
      · rw [iout p.1 hx, hcrib, if_pos rfl]
      · have hne : p.1 ≠ x.1 := fun h => hx (List.mem_map.2 ⟨p, hp, h⟩)
        rw [iin p hp]
        unfold creditAfter
        rw [hcrib, if_neg hne, hduty]
    · rw [List.map_cons, List.mem_cons, not_or] at hk
      rw [iout k hk.2, hcrib, if_neg hk.1]

/-! ### What a start leaves -/

/-- The samples of a stall are settled: its operations may have another mark, and its cribs count anew. -/
structure Settles (st : Nat) (d e : Dev) : Prop where
  mem : e.mem = d.mem
  banks : e.banks = d.banks
  others : ∀ j, j ≠ st → stallOf e j = stallOf d j
  credit : SameCredit d e

theorem Settles.trans {st : Nat} {d e f : Dev} (h : Settles st d e) (g : Settles st e f) : Settles st d f :=
  ⟨g.mem.trans h.mem, g.banks.trans h.banks, fun j hj => (g.others j hj).trans (h.others j hj), h.credit.trans g.credit⟩

theorem ReadsOf.settles {st : Nat} {d e : Dev} (h : ReadsOf st d e) : Settles st d e := by
  obtain ⟨hreports, hothers, -⟩ := h
  exact ⟨hreports.mem, hreports.banks, hothers, .of hreports.cribs hreports.sense⟩

theorem settles_setCribOp (d : Dev) (st : Nat) (o : CribOp) : Settles st d (setCribOp d st o) :=
  ⟨rfl, rfl, fun _ hj => stallOf_modStall_ne _ _ hj, .of rfl rfl⟩

/-- An operation that follows another on a crib of which that one is the sample. -/
def sampleFollows (id phys : Nat) (o : CribOp) : Bool := id < o.id && !o.probe && o.cribs.contains phys

def sampleUnmarked (id phys : Nat) (o : CribOp) : CribOp :=
  if sampleFollows id phys o then { o with sampled := o.sampled.filter (· != phys) } else o

theorem takeSample_spec {st id phys : Nat} {d : Dev} {o : CribOp} (h : cribOpOf d st id = some o) :
    Settles st d (takeSample st id phys d) ∧ cribOpOf (takeSample st id phys d) st id = some o := by
  have htake : takeSample st id phys d = modStall (setCrib d (cribKey st phys)
      { cribOf d (cribKey st phys) with
        unsampled := ((stallOf d st).cribOps.filter (sampleFollows id phys)).length, lastSample := some d.host.uptimeMs }) st
      fun x => { x with cribOps := x.cribOps.map (sampleUnmarked id phys) } := rfl
  have hcrib : ∀ k, (cribOf (takeSample st id phys d) k).credit = (cribOf d k).credit ∧
      (cribOf (takeSample st id phys d) k).tick = (cribOf d k).tick := by
    intro k
    have hk : cribOf (takeSample st id phys d) k = if k = cribKey st phys then { cribOf d (cribKey st phys) with
      unsampled := ((stallOf d st).cribOps.filter (sampleFollows id phys)).length, lastSample := some d.host.uptimeMs }
      else cribOf d k := cribOf_setCrib ..
    rw [hk]
    split
    · next he => exact he ▸ ⟨rfl, rfl⟩
    · exact ⟨rfl, rfl⟩
  refine ⟨⟨rfl, rfl, fun j hj => ?_, fun k => (hcrib k).1, fun k => (hcrib k).2, rfl⟩, ?_⟩
  · rw [htake, stallOf_modStall_ne _ _ hj]
    rfl
  · have hid := cribOpOf_id h
    unfold cribOpOf
    rw [htake, stallOf_modStall_self]
    refine (find_map_cribOp (f := sampleUnmarked id phys) h fun x => ?_).trans ?_
    · unfold sampleUnmarked
      split <;> rfl
    · unfold sampleUnmarked sampleFollows
      rw [if_neg (by simp [hid])]

/-- The operation has started, with what of its marks is left. -/
theorem settleSamples_spec {st : Nat} {d : Dev} {o p : CribOp} (h : cribOpOf d st o.id = some p) :
    Settles st d (settleSamples st o d) ∧ ∃ s, cribOpOf (settleSamples st o d) st o.id = some { o with sampled := s } := by
  have hfold : ∀ (l : List Nat) (e : Dev) (q : CribOp), q.id = o.id → cribOpOf e st o.id = some q →
      Settles st e (l.foldl (fun d k => takeSample st o.id (o.cribs.getD k 0) d) e) ∧
        cribOpOf (l.foldl (fun d k => takeSample st o.id (o.cribs.getD k 0) d) e) st o.id = some q := by
    intro l
    induction l with
    | nil => exact fun e q _ hq => ⟨⟨rfl, rfl, fun _ _ => rfl, .refl e⟩, hq⟩
    | cons k l ih =>
      intro e q hqid hq
      obtain ⟨htake, hop⟩ := takeSample_spec (phys := o.cribs.getD k 0) hq
      obtain ⟨hrest, hopr⟩ := ih _ q hqid hop
      exact ⟨htake.trans hrest, hopr⟩
  unfold settleSamples
  dsimp only
  generalize hmine : ((List.range o.cribs.length).filter fun k => o.sampled.contains (o.cribs.getD k 0) && eligible d st o k) = mine
  have hset := cribOpOf_setCribOp (p := { o with sampled := mine.map fun k => o.cribs.getD k 0 }) h
  obtain ⟨hrest, hop⟩ := hfold mine (setCribOp d st { o with sampled := mine.map fun k => o.cribs.getD k 0 })
    { o with sampled := mine.map fun k => o.cribs.getD k 0 } rfl hset
  exact ⟨(settles_setCribOp ..).trans hrest, _, hop⟩

/-- The inputs that an operation reads, and its draw. -/
def opStarted (d : Dev) (st : Nat) (o : CribOp) : CribOp := { o with started := true, inputs := readInputs d st o, seed := d.draws }

/-- The reads that the side lane awaits for an operation. -/
def withFetches (d : Dev) (st : Nat) (o : CribOp) : CribOp :=
  if o.probe then o else { o with fetches := (List.range o.cribs.length).flatMap (fetchesOf d st o) }

/-- The module when an operation has read its inputs and its samples are settled. -/
def opSettled (d : Dev) (st : Nat) (o : CribOp) : Dev := settleSamples st o (touchInputs d st o)

/-- The cribs of an operation with their converting times. -/
def chargesOf (d : Dev) (st : Nat) (o : CribOp) : List (Nat × Nat) :=
  (List.range o.cribs.length).map fun k => (cribKey st (o.cribs.getD k 0), convTime (convAt d st o k))

theorem readsOf_touchInputs (d : Dev) (st : Nat) (o : CribOp) : ReadsOf st d (touchInputs d st o) :=
  readsOf_foldl (fun d n => readsOf_sramTouch d st (512 * n) 1024 (buf := 0) (by decide)) _ _

theorem chargesOf_nodup (d : Dev) (st : Nat) {o : CribOp} (h : o.cribs.Nodup) : ((chargesOf d st o).map (·.1)).Nodup := by
  have hmap : (chargesOf d st o).map (·.1) = o.cribs.map (cribKey st) := by
    unfold chargesOf
    rw [List.map_map]
    refine List.ext_getElem (by simp) fun k h1 h2 => ?_
    have hk : k < o.cribs.length := by simpa using h2
    simp [List.getElem?_eq_getElem hk]
  rw [hmap]
  exact h.map fun a b hab => Nat.add_left_cancel hab

/-- What the start of an operation leaves. -/
theorem opStart_spec {d : Dev} {st tick : Nat} {o p : CribOp} (h : cribOpOf d st o.id = some p) (hnd : o.cribs.Nodup) :
    let e := (chargesOf d st o).foldl (fun e p => charge32 tick p.2 e p.1) (opSettled d st o)
    e.mem = d.mem ∧ e.banks = d.banks ∧ (∀ j, j ≠ st → stallOf e j = stallOf d j) ∧
      (∃ s, cribOpOf e st o.id = some { o with sampled := s }) ∧
      ∀ k, k < o.cribs.length → (cribOf e (cribKey st (o.cribs.getD k 0))).credit =
        creditAfter d (cribKey st (o.cribs.getD k 0)) tick - 32 * convTime (convAt d st o k) := by
  have hreads := readsOf_touchInputs d st o
  have hop : cribOpOf (touchInputs d st o) st o.id = some p := (cribOpOf_congr hreads.converts.1.cribOps o.id).trans h
  obtain ⟨hsettle, s, hs⟩ := settleSamples_spec hop
  have hall := hreads.settles.trans hsettle
  obtain ⟨hframe, hin, -⟩ := charges_spec tick (chargesOf_nodup d st hnd) (opSettled d st o)
  generalize (chargesOf d st o).foldl (fun e p => charge32 tick p.2 e p.1) (opSettled d st o) = e at *
  have hsame : e.mem = (opSettled d st o).mem ∧ e.banks = (opSettled d st o).banks ∧ e.stalls = (opSettled d st o).stalls := by
    rw [hframe]
    exact ⟨rfl, rfl, rfl⟩
  obtain ⟨hmem, hbanks, hstalls⟩ := hsame
  refine ⟨hmem.trans hall.mem, hbanks.trans hall.banks, fun j hj => (stallOf_congr hstalls j).trans (hall.others j hj), ⟨s, ?_⟩,
    fun k hk => ?_⟩
  · refine (cribOpOf_congr ?_ o.id).trans hs
    rw [stallOf_congr hstalls]
    rfl
  · have hmem : (cribKey st (o.cribs.getD k 0), convTime (convAt d st o k)) ∈ chargesOf d st o :=
      List.mem_map.2 ⟨k, List.mem_range.2 hk, rfl⟩
    have hcredit := hin _ hmem
    have hafter : creditAfter (opSettled d st o) (cribKey st (o.cribs.getD k 0)) tick =
      creditAfter d (cribKey st (o.cribs.getD k 0)) tick := hall.credit.after _ _
    rwa [hafter] at hcredit

/-- A probe's reference outputs as its bytes. -/
theorem refBytes_spec (d : Dev) (st : Nat) (o : CribOp) : (refBytes d st o).length = 128 ∧ ∀ k b, k < 32 → b < 4 →
    (refBytes d st o).getD (4 * k + b) 0 = (toLe 4 (BitVec.ofInt 32 (refOut (convAt d st o 0) k)).toNat).getD b 0 := by
  have hmap : refBytes d st o =
      ((List.range 32).map fun k => BitVec.ofInt 32 (refOut (convAt d st o 0) k)).flatMap fun v => toLe 4 v.toNat := by
    rw [List.flatMap_map]
    rfl
  have hlen : ((List.range 32).map fun k => BitVec.ofInt 32 (refOut (convAt d st o 0) k)).length = 32 := by
    rw [List.length_map, List.length_range]
  rw [hmap]
  refine ⟨by rw [length_flatMap_toLe, hlen], fun k b hk hb => ?_⟩
  have hval : ((List.range 32).map fun k => BitVec.ofInt 32 (refOut (convAt d st o 0) k)).getD k 0 =
      BitVec.ofInt 32 (refOut (convAt d st o 0) k) := by
    rw [List.getD_eq_getElem _ _ (by omega), List.getElem_map, List.getElem_range]
  rw [getD_flatMap_toLe _ (by omega) hb, hval]

/-- A probe of one bank writes one tile. -/
theorem opWrites_probe (d : Dev) (st : Nat) {o : CribOp} {c : Nat} (htall : o.tall = false) (hcribs : o.cribs = [c]) :
    opWrites d st o = [(o.tile, cribOuts d st o 0)] := by
  unfold opWrites
  rw [htall, hcribs]
  generalize cribOuts d st o = outs
  rfl

theorem cribOuts_probe (d : Dev) (st : Nat) {o : CribOp} (hprobe : o.probe = true) (k : Nat) {j : Nat} (hj : j < 1024) :
    (cribOuts d st o k).getD j 0 = sat32 (treeOut (convAt d st o k) j) := by
  have hlen := length_cribOuts d st o k
  rw [List.getD_eq_getElem _ _ (by omega)]
  unfold cribOuts
  rw [List.getElem_map, List.getElem_range]
  exact if_pos hprobe

theorem getD_tileOuts (d : Dev) (st : Nat) (add : Bool) (w : Nat × List W32) {j : Nat} (hj : j < 1024) :
    (tileOuts d st add w).getD j 0 = if add then
      satAddI (BitVec.ofNat 32 (fieldAt (sramRead d st 1 (4096 * w.1) 4096) (4 * j) 4)) (w.2.getD j 0) else w.2.getD j 0 := by
  have hlen : (tileOuts d st add w).length = 1024 := by
    unfold tileOuts
    rw [List.length_map, List.length_range]
  rw [List.getD_eq_getElem _ _ (by omega)]
  unfold tileOuts
  rw [List.getElem_map, List.getElem_range]

/-- The tiles of an operation that is no probe. -/
theorem tilesWritten_mvm {d : Dev} {st : Nat} {o : CribOp} (hprobe : o.probe = false) :
    tilesWritten d st o = (opWrites d st o).foldl (fun e w => writeTile st o.add e w.1 w.2) (laneRead d st o) := by
  unfold tilesWritten
  rw [hprobe]
  rfl

/-- The tile of a probe and its reference outputs. -/
theorem tilesWritten_probe {d : Dev} {st : Nat} {o : CribOp} {c : Nat} (hprobe : o.probe = true) (hadd : o.add = false)
    (htall : o.tall = false) (hcribs : o.cribs = [c]) :
    let e := tilesWritten d st o
    Converts st d e ∧
      (∀ j b, j < 1024 → b < 4 → byteOf (stallOf e st) 1 (4096 * o.tile + 4 * j + b) =
        some ((toLe 4 (sat32 (treeOut (convAt d st o 0) j)).toNat).getD b 0)) ∧
      (∀ k b, k < 32 → b < 4 → byteOf (stallOf e st) 1 (4096 * (o.tile + 1) + 4 * k + b) =
        some ((toLe 4 (BitVec.ofInt 32 (refOut (convAt d st o 0) k)).toNat).getD b 0)) ∧
      BytesBut 1 (4096 * o.tile) (4096 + 128) (stallOf d st) (stallOf e st) := by
  obtain ⟨hconv, hin, hbut⟩ := tiles_spec d st o
  obtain ⟨hlen, hrefs⟩ := refBytes_spec d st o
  have hwritten : tilesWritten d st o = sramWrite ((opWrites d st o).foldl (fun e w => writeTile st o.add e w.1 w.2) (laneRead d st o))
      st 1 (4096 * (o.tile + 1)) (refBytes d st o) := by
    unfold tilesWritten
    exact if_pos hprobe
  rw [hwritten]
  generalize (opWrites d st o).foldl (fun e w => writeTile st o.add e w.1 w.2) (laneRead d st o) = g at *
  rw [opWrites_probe d st htall hcribs] at hin hbut
  have hbyte : ∀ b n, b < 3 → byteOf (stallOf (sramWrite g st 1 (4096 * (o.tile + 1)) (refBytes d st o)) st) b n =
      if b = 1 ∧ 4096 * (o.tile + 1) ≤ n ∧ n < 4096 * (o.tile + 1) + 128 then
        some ((refBytes d st o).getD (n - 4096 * (o.tile + 1)) 0) else byteOf (stallOf g st) b n := fun b n hb => by
    rw [byteOf_sramWrite _ _ _ _ hb, hlen]
  refine ⟨hconv.trans (converts_sramWrite ..), fun j b hj hb => ?_, fun k b hk hb => ?_, fun b n hb hn => ?_⟩
  · rw [hbyte 1 _ (by decide), if_neg (by omega), hin _ (List.mem_singleton.2 rfl) j b hj hb, getD_tileOuts _ _ _ _ hj, hadd,
      if_neg Bool.false_ne_true, cribOuts_probe d st hprobe 0 hj]
  · rw [hbyte 1 _ (by decide), if_pos ⟨rfl, by omega, by omega⟩, show 4096 * (o.tile + 1) + 4 * k + b - 4096 * (o.tile + 1) = 4 * k + b by omega,
      hrefs k b hk hb]
  · rw [hbyte b n hb, if_neg (by omega)]
    exact hbut b n hb (by simp only [List.length_singleton]; omega)
/-! ### CRIB_START -/

/-- Outlier rows and awaited reads are counted. -/
def startCounted (d : Dev) (st n : Nat) (o : CribOp) (g : Dev) : Dev :=
  let outs := if o.probe then 0 else
    ((List.range n).map fun k => (outlierRows (stallOf d st).thresh.toNat (o.inputs.getD k [])).length).sum
  let g := if outs = 0 then g else bumpBy g (stallReg st 0x88) outs
  if o.fetches = [] then g else bumpBy g (stallReg st 0x90) o.fetches.length

theorem startCounted_rest (d : Dev) (st n : Nat) (o : CribOp) (g : Dev) :
    startCounted d st n o g = { g with ctr := (startCounted d st n o g).ctr } := by
  unfold startCounted
  dsimp only
  generalize (if o.probe then 0 else
    ((List.range n).map fun k => (outlierRows (stallOf d st).thresh.toNat (o.inputs.getD k [])).length).sum) = outs
  split <;> split <;> rfl

/-- The module when an operation on n cribs has started. -/
def cribStarted (d : Dev) (st tick n : Nat) (o : CribOp) : Dev :=
  startCounted d st n o ((List.range n).foldl
    (fun e k => charge32 tick (convTime (convAt d st o k)) e (cribKey st (o.cribs.getD k 0))) (opSettled d st o))

theorem withFetches_rest (d : Dev) (st : Nat) (o : CribOp) :
    withFetches d st o = { o with fetches := (withFetches d st o).fetches } := by
  unfold withFetches
  split <;> rfl

/-- What the started operation leaves, with its counts. -/
theorem cribStarted_spec {d : Dev} {st op tick : Nat} {o : CribOp} (hop : cribOpOf d st op = some o) (hnd : o.cribs.Nodup) :
    let e := cribStarted d st tick o.cribs.length (withFetches d st (opStarted d st o))
    e.mem = d.mem ∧ e.banks = d.banks ∧ (∀ j, j ≠ st → stallOf e j = stallOf d j) ∧
      ∃ p, cribOpOf e st op = some p ∧
        p = { o with started := true, inputs := readInputs d st o, seed := d.draws, fetches := p.fetches, sampled := p.sampled } ∧
        ∀ k, k < o.cribs.length → (cribOf e (cribKey st (o.cribs.getD k 0))).credit =
          creditAfter d (cribKey st (o.cribs.getD k 0)) tick - 32 * convTime (convAt d st p k) := by
  obtain rfl := cribOpOf_id hop
  have hrest := withFetches_rest d st (opStarted d st o)
  generalize withFetches d st (opStarted d st o) = q at hrest ⊢
  have hid : q.id = o.id := by rw [hrest]; rfl
  have hcribs : q.cribs = o.cribs := by rw [hrest]; rfl
  obtain ⟨hmem, hbanks, hothers, ⟨s, hs⟩, hcredit⟩ := opStart_spec (d := d) (st := st) (tick := tick) (o := q) (p := o)
    (by rw [hid]; exact hop) (by rw [hcribs]; exact hnd)
  rw [← hcribs]
  have hcount := startCounted_rest d st q.cribs.length q ((List.range q.cribs.length).foldl
    (fun e k => charge32 tick (convTime (convAt d st q k)) e (cribKey st (q.cribs.getD k 0))) (opSettled d st q))
  have hfold : (List.range q.cribs.length).foldl
      (fun e k => charge32 tick (convTime (convAt d st q k)) e (cribKey st (q.cribs.getD k 0))) (opSettled d st q) =
      (chargesOf d st q).foldl (fun e p => charge32 tick p.2 e p.1) (opSettled d st q) := by
    unfold chargesOf
    rw [List.foldl_map]
  unfold cribStarted
  rw [hfold] at hcount ⊢
  generalize (chargesOf d st q).foldl (fun e p => charge32 tick p.2 e p.1) (opSettled d st q) = g at *
  generalize startCounted d st q.cribs.length q g = e at hcount ⊢
  have hcount2 : e.mem = g.mem ∧ e.banks = g.banks ∧ e.stalls = g.stalls ∧ e.cribs = g.cribs := by
    rw [hcount]
    exact ⟨rfl, rfl, rfl, rfl⟩
  obtain ⟨emem, ebanks, estalls, ecribs⟩ := hcount2
  refine ⟨emem.trans hmem, ebanks.trans hbanks, fun j hj => (stallOf_congr estalls j).trans (hothers j hj),
    { q with sampled := s }, ?_, ?_, fun k hk => ?_⟩
  · rw [← hid]
    exact (cribOpOf_congr (by rw [stallOf_congr estalls]) q.id).trans hs
  · rw [hrest]
    rfl
  · have h := hcredit k hk
    unfold cribOf at h ⊢
    rw [ecribs]
    exact h

/-- Settles O21. -/
theorem cribOperationsStartAndWrite : Obligations.CribOperationsStartAndWrite := by
  refine ⟨fun st op tick o => ?_, fun st op o => ?_, fun st op o c => ?_, fun st op which o p => ?_⟩
  · refine answers_onDev (fun s => show execCribStart st op tick s = _ from rfl) ?_
    intro d hpre
    refine under_name fun named shown => ?_
    obtain ⟨hop, hnot, hfree, hnd, hrich⟩ := hpre
    have hcredit : (o.cribs.all fun c => 0 ≤ creditAfter d (cribKey st c) tick) = true :=
      List.all_eq_true.2 fun c hc => decide_eq_true (hrich c hc)
    refine shown ⟨cribStarted d st tick o.cribs.length (withFetches d st (opStarted d st o)), ?_, cribStarted_spec hop hnd⟩
    rw [hop]
    dsimp only
    refine (if_neg ?_).trans ?_
    rotate_left
    · rfl
    rintro (h | h | ⟨-, h⟩)
    · exact absurd (hnot.symm.trans h) (by decide)
    · exact absurd (hfree.symm.trans h) (by decide)
    · exact absurd (hcredit.symm.trans h) (by decide)
  · refine answers_onDev (fun s => show execCribBinWrite st op 0 s = _ from rfl) ?_
    intro d hpre
    refine under_name fun named shown => ?_
    obtain ⟨hop, hstarted, hready, hprobe, hnd⟩ := hpre
    obtain ⟨hconv, hin, hbut⟩ := tiles_spec d st o
    rw [← tilesWritten_mvm hprobe] at hconv hin hbut
    obtain ⟨⟨hmem, hbanks, hothers, hops, hpc, hsreg, hvreg⟩, hbytes⟩ := binWrite_spec 0 hconv
    refine shown ⟨binWrite d st o 0, ?_, hmem, hbanks, hothers, ?_, hpc, hsreg, hvreg, fun w hw j b hj hb => ?_, fun b n hb hn => ?_⟩
    · rw [hop]
      exact if_pos ⟨hstarted, hready, .inl rfl⟩
    · rw [← cribOpOf_id hop]
      exact hops
    · refine (hbytes _ _).trans ((hin w hw j b hj hb).trans ?_)
      rw [getD_tileOuts _ _ _ _ hj]
    · exact (hbytes b n).trans (hbut b n hb hn)
  · refine answers_onDev (fun s => show execCribBinWrite st op 0 s = _ from rfl) ?_
    intro d hpre
    refine under_name fun named shown => ?_
    obtain ⟨hop, hstarted, hprobe, hadd, htall, hcribs⟩ := hpre
    obtain ⟨hconv, hin, hrefs, hbut⟩ := tilesWritten_probe (d := d) (st := st) hprobe hadd htall hcribs
    obtain ⟨⟨hmem, hbanks, hothers, hops, hpc, hsreg, hvreg⟩, hbytes⟩ := binWrite_spec 0 hconv
    have hready : sideReady d st o = true := by
      unfold sideReady hasSideWork
      simp [hprobe]
    refine shown ⟨binWrite d st o 0, ?_, hmem, hbanks, hothers, ?_, hpc, hsreg, hvreg, fun j b hj hb => ?_, fun k b hk hb => ?_,
      fun b n hb hn => ?_⟩
    · rw [hop]
      exact if_pos ⟨hstarted, hready, .inl rfl⟩
    · rw [← cribOpOf_id hop]
      exact hops
    · exact (hbytes _ _).trans (hin j b hj hb)
    · exact (hbytes _ _).trans (hrefs k b hk hb)
    · exact (hbytes b n).trans (hbut b n hb hn)
  · refine answers_onDev (fun s => show execSideFetchReturn st op which s = _ from rfl) ?_
    intro d hpre
    refine under_name fun named shown => ?_
    obtain ⟨hop, hhead, hturn⟩ := hpre
    obtain rfl := cribOpOf_id hop
    obtain ⟨k, row⟩ := p
    refine shown ?_
    generalize hkeys : (if row = 1024 then weakKeys st (o.cribs.getD k 0) (o.banks.getD k 0)
        ((bankOf d (bankKey st (o.cribs.getD k 0) (o.banks.getD k 0))).weak.length - 256)
      else imageKeys st (o.cribs.getD k 0) (o.banks.getD k 0) (1024 * row) 1024) = keys
    have htouch := touches_dramTouchAll d keys
    have hopg : cribOpOf (dramTouchAll d keys) st o.id = some o := (cribOpOf_congr (by rw [stallOf_congr htouch.stalls]) o.id).trans hop
    have hothers : ∀ j, j ≠ st → stallOf (setCribOp (dramTouchAll d keys) st { o with fetches := o.fetches.eraseIdx which }) j =
        stallOf d j := fun j hj => (stallOf_modStall_ne _ _ hj).trans (stallOf_congr htouch.stalls j)
    refine ⟨setCribOp (dramTouchAll d keys) st { o with fetches := o.fetches.eraseIdx which }, ?_,
      cribOpOf_setCribOp (p := { o with fetches := o.fetches.eraseIdx which }) hopg, htouch.bytes.1, htouch.banks,
      hothers⟩
    rw [hop]
    dsimp only
    rw [hhead]
    dsimp only
    rw [if_neg (by simp [hturn]), hkeys]

end Sys2Proof.Machine
end

section
/-! What an MVM of a SOLVE and a routine boundary leave: the bytes of memory and the commands (for O39). -/

namespace Sys2Proof.Machine

open Sys2Proof

/-- The bytes of DRAM and the loft stand, and so do the commands. -/
structure KeepsData (d e : Dev) : Prop where
  dram : e.mem.dram = d.mem.dram
  loft : e.mem.loft = d.mem.loft
  cmds : e.host.cmds = d.host.cmds

theorem KeepsData.refl (d : Dev) : KeepsData d d := ⟨rfl, rfl, rfl⟩

theorem KeepsData.trans {d e f : Dev} (h : KeepsData d e) (g : KeepsData e f) : KeepsData d f :=
  ⟨g.dram.trans h.dram, g.loft.trans h.loft, g.cmds.trans h.cmds⟩

theorem keepsData_foldl {α : Type} {f : Dev → α → Dev} (hf : ∀ d a, KeepsData d (f d a)) :
    ∀ (l : List α) (d : Dev), KeepsData d (l.foldl f d)
  | [], d => .refl d
  | a :: l, d => (hf d a).trans (keepsData_foldl hf l (f d a))

theorem Touches.keepsData {d e : Dev} (h : Touches d e) : KeepsData d e := by
  unfold Touches at h
  rw [h]
  exact ⟨rfl, rfl, rfl⟩

theorem Signals.keepsData {d e : Dev} (h : Signals d e) : KeepsData d e := h.touches.keepsData

theorem SignalsOfStalls.keepsData {d e : Dev} (h : SignalsOfStalls d e) : KeepsData d e := by
  obtain ⟨hdram, hloft, hcmds⟩ := Signals.keepsData h
  exact ⟨hdram, hloft, hcmds⟩

theorem keepsData_raiseEvent (d : Dev) (fn cls code a b : Nat) : KeepsData d (raiseEvent d fn cls code a b) :=
  (signals_raiseEvent ..).keepsData

/-! ### An MVM (R278) -/

theorem keepsData_keepSample (st : Nat) (o : CribOp) (d : Dev) (k : Nat) : KeepsData d (keepSample st o d k) := by
  unfold keepSample
  dsimp only
  split <;> exact ⟨rfl, rfl, rfl⟩

theorem keepsData_seeRefs (c : Conv) (d : Dev) (key : Nat) : KeepsData d (seeRefs c d key) := ⟨rfl, rfl, rfl⟩

theorem keepsData_counted (d : Dev) (o n : Nat) : KeepsData d (if n = 0 then d else bumpBy d o n) := by
  split <;> exact ⟨rfl, rfl, rfl⟩

theorem keepsData_mvmCounts (d : Dev) (st : Nat) (o : CribOp) (waited : Nat) (e : Dev) : KeepsData e (mvmCounts d st o waited e) := by
  unfold mvmCounts
  dsimp only
  refine KeepsData.trans ?_ (keepsData_foldl (fun e k => keepsData_seeRefs (convAt d st o k) e _) _ _)
  refine KeepsData.trans ?_ (keepsData_foldl (keepsData_keepSample st o) _ _)
  refine KeepsData.trans ?_ (keepsData_counted ..)
  refine KeepsData.trans ?_ (keepsData_counted ..)
  exact (keepsData_counted ..).trans (keepsData_counted ..)

theorem keepsData_takeSample (st id phys : Nat) (d : Dev) : KeepsData d (takeSample st id phys d) := ⟨rfl, rfl, rfl⟩

theorem keepsData_countMvm (st : Nat) (d : Dev) (phys : Nat) : KeepsData d (countMvm st d phys) := ⟨rfl, rfl, rfl⟩

theorem keepsData_spendCredit (o : CribOp) (st phys : Nat) (d : Dev) : KeepsData d (spendCredit o st phys d) := ⟨rfl, rfl, rfl⟩

theorem keepsData_modStall (d : Dev) (st : Nat) (f : Stall → Stall) : KeepsData d (modStall d st f) := ⟨rfl, rfl, rfl⟩

theorem keepsData_solveMvm (d : Dev) (st crib b reps : Nat) (q : List Int) : KeepsData d (solveMvm d st crib b reps q).1 := by
  unfold solveMvm
  dsimp only
  have hdraw (e : Dev) : KeepsData e { e with draws := e.draws + 1 } := ⟨rfl, rfl, rfl⟩
  refine KeepsData.trans ?_ (hdraw _)
  refine KeepsData.trans ?_ (keepsData_mvmCounts ..)
  have hsides (e : Dev) (k n : Nat) (p : Prop) [Decidable p] : KeepsData e (if p then e else bumpBy e k n) := by
    split <;> exact ⟨rfl, rfl, rfl⟩
  refine KeepsData.trans ?_ (hsides _ _ _ _)
  refine KeepsData.trans ?_ (keepsData_foldl (fun e c => keepsData_takeSample st _ c e) _ _)
  refine KeepsData.trans ?_ (keepsData_spendCredit _ _ _ _)
  exact (keepsData_countMvm st d _).trans (touches_dramTouchAll _ _).keepsData

theorem keepsData_blockOuts (d : Dev) (reps : Nat) (e : Block) (q : List Int) : KeepsData d (blockOuts d reps e q).1 := by
  unfold blockOuts
  split
  · exact keepsData_solveMvm ..
  · exact ⟨rfl, rfl, rfl⟩

theorem keepsData_memRead (d : Dev) (a : W64) (len : Nat) : KeepsData d (memRead d a len).1 := by
  unfold memRead
  dsimp only
  split
  · exact .refl d
  · split
    · exact (touches_loftTouchAll ..).keepsData
    · exact (touches_dramTouchAll ..).keepsData

theorem keepsData_unitSramRead (d : Dev) (st buf off n : Nat) : KeepsData d (unitSramRead d st buf off n).1 := by
  unfold unitSramRead
  split
  · exact ⟨rfl, rfl, rfl⟩
  · exact (signalsOfStalls_sramTouch ..).keepsData

theorem keepsData_colScales (d : Dev) (e : Block) : KeepsData d (colScales d e).1 := by
  unfold colScales
  dsimp only
  split
  · exact keepsData_unitSramRead ..
  · exact keepsData_memRead ..

theorem keepsData_operate (a : SolveArgs) (bs : List Block) (d : Dev) (z : List Nat) : KeepsData d (operate a bs d z).1 := by
  have hparts : ∀ (l : List Block) (r : Dev × List (Nat × List Nat)), KeepsData r.1 (l.foldl (blockPart a.repeats z) r).1 := by
    intro l
    induction l with
    | nil => exact fun r => .refl r.1
    | cons b l ih =>
      intro r
      refine KeepsData.trans ?_ (ih (blockPart a.repeats z r b))
      exact (keepsData_colScales r.1 b).trans (keepsData_blockOuts _ _ _ _)
  exact hparts bs (d, [])

theorem keepsData_arnoldi {op : Dev → List Nat → Dev × List Nat} (hop : ∀ d z, KeepsData d (op d z).1) (n : Nat) :
    ∀ (d : Dev) (vs hs : List (List Nat)), KeepsData d (arnoldi op n d vs hs).1 := by
  induction n with
  | zero => exact fun d _ _ => .refl d
  | succ n ih =>
    intro d vs hs
    unfold arnoldi
    dsimp only
    split
    · exact hop _ _
    · exact (hop _ _).trans (ih _ _ _)

theorem keepsData_solveInner (a : SolveArgs) (bs : List Block) (d : Dev) (r : Vec) : KeepsData d (solveInner a bs d r).1 := by
  unfold solveInner
  dsimp only
  split
  · exact .refl d
  · exact keepsData_arnoldi (keepsData_operate a bs) _ _ _ _

/-! ### A routine boundary (R187) -/

theorem keepsData_watchFree (d : Dev) (n : Nat) : KeepsData d (watchFree d n) := by
  have henter (d : Dev) (w : Watch) : KeepsData d (watchEnter d w) := by
    unfold watchEnter
    split
    · next m _ =>
      dsimp only
      have hin : KeepsData d (raiseEvent (bump (setWatch d m (some w)) 0x20050) 0xFFFF 4 0x12 (watchWord w) m) :=
        KeepsData.trans (e := bump (setWatch d m (some w)) 0x20050) ⟨rfl, rfl, rfl⟩ (keepsData_raiseEvent ..)
      split
      · exact hin.trans (keepsData_raiseEvent ..)
      · exact hin
    · exact ⟨rfl, rfl, rfl⟩
  unfold watchFree
  dsimp only
  split
  · exact ⟨rfl, rfl, rfl⟩
  · next u us _ =>
    exact KeepsData.trans (e := { setWatch d n none with health := { (setWatch d n none).health with waitingWatch := us } })
      ⟨rfl, rfl, rfl⟩ (henter _ _)

theorem keepsData_holdViol (st : Nat) (d : Dev) (id : Nat) : KeepsData d (holdViol st d id) := by
  unfold holdViol
  split
  · next o _ =>
    have hperf : KeepsData d (performedZero d o) := by
      unfold performedZero performed
      split
      · exact ⟨rfl, rfl, rfl⟩
      · exact KeepsData.trans (e := dropOp d o.id) ⟨rfl, rfl, rfl⟩ (sends_foldl (fun _ _ => sends_sendTo ..) _ _).signals.keepsData
    exact hperf.trans ⟨rfl, rfl, rfl⟩
  · exact .refl d

theorem keepsData_retireStall (d : Dev) (st : Nat) : KeepsData d (retireStall d st) := by
  unfold retireStall
  dsimp only
  have hstop : KeepsData d (if (stallOf d st).mode = .idle then modStall d st fun x => { x with mode := .retired }
      else if active (stallOf d st) then stopNow d st 0x10 0 else d) := by
    split
    · exact ⟨rfl, rfl, rfl⟩
    · split <;> exact ⟨rfl, rfl, rfl⟩
  have hheld := hstop.trans (keepsData_foldl (keepsData_holdViol st) (stallOf d st).hold _)
  generalize (stallOf d st).hold.foldl (holdViol st) _ = e at hheld ⊢
  have hgone : KeepsData d (modStall e st fun x => { x with gone := true, pendingRetire := false, hold := [], jammed := [] }) :=
    hheld.trans ⟨rfl, rfl, rfl⟩
  generalize modStall e st _ = f at hgone ⊢
  split
  · split
    · exact ((hgone.trans (keepsData_watchFree ..)).trans (keepsData_raiseEvent ..)).trans (keepsData_raiseEvent ..)
    · exact (hgone.trans (keepsData_watchFree ..)).trans (keepsData_raiseEvent ..)
  · split
    · exact (hgone.trans (keepsData_raiseEvent ..)).trans (keepsData_raiseEvent ..)
    · exact hgone.trans (keepsData_raiseEvent ..)

theorem keepsData_substitute (d : Dev) (st crib : Nat) : KeepsData d (substitute d st crib) := by
  have hbanks : KeepsData d ([0, 1].foldl (takeBank st crib) d) := by
    refine keepsData_foldl (fun d b => ?_) _ _
    unfold takeBank
    dsimp only
    split <;> exact ⟨rfl, rfl, rfl⟩
  have hleave (d : Dev) (n : Nat) : KeepsData d (watchLeave d n) := by
    unfold watchLeave
    split
    · exact .refl d
    · exact (keepsData_raiseEvent ..).trans (keepsData_watchFree ..)
  unfold substitute
  dsimp only
  generalize [0, 1].foldl (takeBank st crib) d = e at hbanks ⊢
  have hserve := hbanks.trans (keepsData_modStall e st fun x =>
    { x with spareIndex := some crib, pendingSpare := none
             pins := sparePins crib (fun b => (bankOf d (bankKey st 16 b)).forSpare) x.pins })
  generalize modStall e st _ = f at hserve ⊢
  have hserved := hserve.trans (keepsData_raiseEvent f 0xFFFF 4 0x14 (stallNumber f st + 2 ^ 16 * crib) 0)
  split
  · exact hserved.trans (hleave _ _)
  · exact hserved

theorem keepsData_takeRetirement (d : Dev) (st : Nat) : KeepsData d (takeRetirement d st) := by
  have hretire (d e : Dev) (h : KeepsData d e) : KeepsData d (if (stallOf e st).pendingRetire then retireStall e st else e) := by
    split
    · exact h.trans (keepsData_retireStall ..)
    · exact h
  unfold takeRetirement
  dsimp only
  refine hretire _ _ ?_
  split
  · split
    · exact .refl d
    · exact keepsData_substitute ..
  · exact .refl d

theorem keepsData_boundary (d : Dev) (st : Nat) : KeepsData d (boundary d st) := by
  obtain ⟨hframe, -⟩ := takeReference_spec d st
  unfold boundary
  generalize takeReference (takeCorrections (adopt d st) st) st = e at hframe ⊢
  have he : KeepsData d e := by
    rw [hframe]
    exact ⟨rfl, rfl, rfl⟩
  exact (he.trans (keepsData_takeRetirement e st)).trans (keepsData_modStall _ _ _)

end Sys2Proof.Machine
end

section
/-! SOLVE (R277 to R281), for O39. -/

namespace Sys2Proof.Machine

open Sys2Proof

/-! ### Derier's write of a vector -/

theorem keepsDesk_dramWrite (d : Dev) (kbs : List (Nat × Byte)) : KeepsDesk d (dramWrite d kbs) := by
  have hline (keys : List Nat) (d : Dev) (line : Nat) : KeepsDesk d (dramLineWrite keys d line) := by
    have htouch : KeepsDesk d (dramTouch d line) := by
      have := keepsDesk_dramTouchAll d [64 * line]
      have hlines : linesOf [64 * line] = [line] := by
        simp [linesOf, lineOf, List.eraseDups_cons]
      rwa [dramTouchAll, hlines] at this
    unfold dramLineWrite
    split
    · exact keepsDesk_setMem _ _
    · dsimp only
      split
      · exact htouch.trans (keepsDesk_setMem _ _)
      · exact htouch
  unfold dramWrite
  exact (keepsDesk_foldl (hline _) _ d).trans (keepsDesk_setMem _ _)

theorem keepsDesk_mirrorOut (d : Dev) (loft : Bool) (obs : List (Nat × Byte)) : KeepsDesk d (mirrorOut d loft obs) := by
  have hhost : (mirrorOut d loft obs).host = d.host := by
    unfold mirrorOut
    dsimp only
    generalize obs.filter _ = hit
    split
    · have hbusy : (if twinBusy d then bump d 0x31018 else d).host = d.host := by split <;> rfl
      generalize (if twinBusy d then bump d 0x31018 else d) = e at hbusy
      have hsends := sends_sendTwin (setPad e { e.pad with
        twinNext := d.pad.twinNext + 1, twinOut := e.pad.twinOut ++ [d.pad.twinNext] }) (.twinWrite d.pad.twinNext loft hit)
      generalize sendTwin _ _ = f at hsends
      unfold Sends at hsends
      rw [hsends]
      exact hbusy
    · rfl
  exact .of (grows_mirrorOut d loft obs) (by rw [hhost]) (by rw [hhost])

theorem keepsDesk_derWrite (d : Dev) (off : Nat) (bs : List Byte) : KeepsDesk d (derWrite d off bs) :=
  (keepsDesk_dramWrite d _).trans (keepsDesk_mirrorOut _ false _)

theorem length_vecBytes (x : Vec) : (x.flatMap (toLe 8)).length = 8 * x.length := by
  induction x with
  | nil => rfl
  | cons v x ih => rw [List.flatMap_cons, List.length_append, ih, length_toLe, List.length_cons, Nat.mul_succ, Nat.add_comm]

/-! ### The routines of a SOLVE (R281) -/

/-- A stall on which Derier's own routine has halted. -/
def solveHalted (x : Stall) : Stall := { x with mode := .idle, ending := none, owner := none, held := none, busy := false }

theorem haltStalls_spec (l : List Nat) : ∀ d : Dev,
    let e := l.foldl (fun d st => modStall d st solveHalted) d
    e = { d with stalls := e.stalls } ∧ (∀ st, st ∉ l → stallOf e st = stallOf d st) ∧
      ∀ st, st ∈ l ∨ (stallOf d st).mode = .idle → (stallOf e st).mode = .idle := by
  induction l with
  | nil => exact fun d => ⟨rfl, fun _ _ => rfl, fun st h => h.resolve_left List.not_mem_nil⟩
  | cons k l ih =>
    intro d
    obtain ⟨hframe, hother, hidle⟩ := ih (modStall d k solveHalted)
    refine ⟨hframe, fun st hst => ?_, fun st hst => hidle st ?_⟩
    · obtain ⟨hne, hmem⟩ := List.ne_and_not_mem_of_not_mem_cons hst
      exact (hother st hmem).trans (stallOf_modStall_ne _ _ hne)
    · by_cases hk : st = k
      · subst hk
        exact .inr (by rw [stallOf_modStall_self]; rfl)
      · refine hst.imp (fun hmem => (List.mem_cons.1 hmem).resolve_left hk) fun hmode => ?_
        rwa [stallOf_modStall_ne _ _ hk]

/-- The end of a solve: x stands in DRAM, its routines have halted, and its command ends. -/
theorem endSolve_spec {d g e : Dev} {c y : Cmd} {a : SolveArgs} {s : SolveRun} {result : Nat} (hdesk : KeepsDesk d g)
    (hno : NoDrain d) (hcmd : cmdOf g c.cid = some y) (hx : a.x + 8 * s.x.length ≤ space1Size)
    (hl : Leaves (endSolve g c a s result) e) :
    e.banks = g.banks ∧ (∀ st ∈ c.running, (stallOf e st).mode = .idle) ∧
      (∀ st, st ∉ c.running → stallOf e st = stallOf g st) ∧
      dramAt e (space1Keys a.x (8 * s.x.length)) = s.x.flatMap (toLe 8) ∧ DramBut (space1Keys a.x (8 * s.x.length)) g e ∧
      Replied c 0 result (fdiv fp64 (norm2 s.r) s.nb) s.steps d e ∧ (c.running = [] → e.stalls = g.stalls) := by
  have hlen := length_vecBytes s.x
  refine under_name fun named shown => ?_
  obtain ⟨hbytes, hbut, -, hstalls⟩ := derWrite_spec (d := g) (off := a.x) (bs := s.x.flatMap (toLe 8)) (by rwa [hlen])
  rw [hlen] at hbytes hbut
  have hbanks := (tidies_derWrite g a.x (s.x.flatMap (toLe 8))).banks
  have hcmds : (derWrite g a.x (s.x.flatMap (toLe 8))).host.cmds = g.host.cmds := by
    have htidies := tidies_derWrite g a.x (s.x.flatMap (toLe 8))
    generalize derWrite g a.x (s.x.flatMap (toLe 8)) = w at htidies
    unfold Tidies at htidies
    rw [htidies]
  obtain ⟨-, hwrite⟩ := hdesk.trans (keepsDesk_derWrite g a.x (s.x.flatMap (toLe 8))) hno
  unfold endSolve at hl
  generalize derWrite g a.x (s.x.flatMap (toLe 8)) = w at *
  obtain ⟨hframe, hother, hidle⟩ := haltStalls_spec c.running w
  have hnone : c.running = [] → (c.running.foldl (fun d st => modStall d st solveHalted) w).stalls = w.stalls := by
    intro h
    rw [h]
    rfl
  have hhalt : haltSolve w c = c.running.foldl (fun d st => modStall d st solveHalted) w := rfl
  rw [hhalt] at hl
  generalize c.running.foldl (fun d st => modStall d st solveHalted) w = f at *
  have hsame : SameDesk d f := by
    refine hwrite.trans (.of (.same ?_ ?_ ?_ ?_) ?_ ?_) <;> rw [hframe]
  have hread : cmdOf f c.cid = some y := by
    rw [← hcmd]
    exact cmdOf_congr ((show f.host.cmds = w.host.cmds by rw [hframe]).trans hcmds) _
  obtain ⟨hwraps, hreplied⟩ := ends_with hsame hno hread (lostResult_none rfl) hl
  have hdram : e.mem = w.mem := by
    rw [hwraps.spares.mem, hframe]
  refine shown ⟨?_, fun st hst => ?_, fun st hst => ?_, ?_, fun k hk => ?_, hreplied, fun h => (hwraps.spares.stalls.trans (hnone h)).trans hstalls⟩
  · rw [hwraps.spares.banks, hframe]
    exact hbanks
  · rw [stallOf_congr hwraps.spares.stalls]
    exact hidle st (.inl hst)
  · rw [stallOf_congr hwraps.spares.stalls, hother st hst]
    exact stallOf_congr hstalls st
  · rw [← hbytes]
    unfold dramAt
    rw [hdram]
  · rw [hdram]
    exact hbut k hk

/-- Stalls on which a command's routines have started. -/
def solveStarted (f : Cmd) (l : List Nat) : Cmd :=
  { f with waiting := f.waiting.filter (!l.contains ·), running := f.running ++ l }

theorem startStalls_spec (c : Cmd) (l : List Nat) : ∀ (d : Dev) (f : Cmd), cmdOf d c.cid = some f →
    let e := l.foldl (fun d st => startSolve d c st) d
    e.banks = d.banks ∧ e.mem = d.mem ∧ cmdOf e c.cid = some (solveStarted f l) ∧
      ∀ st, st ∈ l ∨ ((stallOf d st).mode = .running ∧ (stallOf d st).owner = some c.cid) →
        (stallOf e st).mode = .running ∧ (stallOf e st).owner = some c.cid := by
  induction l with
  | nil =>
    intro d f hf
    refine ⟨rfl, rfl, hf.trans (congrArg some ?_), fun st h => h.resolve_left List.not_mem_nil⟩
    unfold solveStarted
    simp
  | cons k l ih =>
    intro d f hf
    have hcmd : cmdOf (startSolve d c k) c.cid = some { f with waiting := f.waiting.filter (· != k), running := f.running ++ [k] } :=
      cmdOf_modCmd (f := fun c => { c with waiting := c.waiting.filter (· != k), running := c.running ++ [k] }) hf fun _ => rfl
    obtain ⟨hbanks, hmem, hend, hstalls⟩ := ih (startSolve d c k) _ hcmd
    refine ⟨hbanks, hmem, hend.trans (congrArg some ?_), fun st hst => hstalls st ?_⟩
    · unfold solveStarted
      simp only [List.filter_filter, List.append_assoc, List.singleton_append]
      refine congrArg (fun w => { f with waiting := w, running := f.running ++ k :: l }) (List.filter_congr fun st _ => ?_)
      by_cases hk : st = k <;> simp [hk]
    · unfold startSolve
      dsimp only
      by_cases hk : st = k
      · subst hk
        exact .inr (by rw [stallOf_modStall_self]; exact ⟨rfl, rfl⟩)
      · rw [stallOf_modStall_ne _ _ hk]
        exact hst.imp_left fun hmem => (List.mem_cons.1 hmem).resolve_left hk

/-! ### The beginning of a SOLVE (R277, R279) -/

/-- The run that a SOLVE begins with. -/
def firstRun (d : Dev) (c : Cmd) : SolveRun :=
  let a := solveArgs c.bytes
  { blocks := solveBlocks d a, b := readVec d a.b a.n, x := List.replicate a.n 0, r := readVec d a.b a.n
    nb := norm2 (readVec d a.b a.n), steps := 0, flat := 0 }

/-- The reads of a SOLVE's block table and of its vector b. -/
def solveRead (d : Dev) (c : Cmd) : Dev :=
  dramTouchAll (dramTouchAll d (tableKeys (solveArgs c.bytes))) (vecKeys (solveArgs c.bytes).b (solveArgs c.bytes).n)

/-- A SOLVE that nothing refuses. -/
theorem solveDev_accepted {d : Dev} {c : Cmd} (h : solveRefusal d c = none) :
    solveDev d c =
      if zeroVec (readVec d (solveArgs c.bytes).b (solveArgs c.bytes).n) then
        endSolve (solveRead d c) c (solveArgs c.bytes) (firstRun d c) 0
      else if (blockStalls (solveRead d c) (firstRun d c).blocks).any fun st => (stallOf (solveRead d c) st).gone then
        finish (solveRead d c) c { ends 0x08 with result := 1 }
      else putCmd (solveRead d c) { c with
        waiting := blockStalls (solveRead d c) (firstRun d c).blocks, solve := some (firstRun d c) } := by
  unfold solveRefusal at h
  cases hparam : paramRefusal d c with
  | some k =>
    rw [hparam] at h
    exact absurd h (by simp)
  | none =>
    rw [hparam] at h
    have htable : tableOk (solveArgs c.bytes) (solveBlocks d (solveArgs c.bytes)) = true := by
      by_contra hbad
      simp [hbad] at h
    unfold solveDev
    rw [hparam]
    dsimp only
    rw [if_neg (by simp [htable])]
    rfl

/-- x of a SOLVE that is not refused lies in DRAM. -/
theorem vector_of_accepted {d : Dev} {c : Cmd} (h : solveRefusal d c = none) :
    (solveArgs c.bytes).x + 8 * (solveArgs c.bytes).n ≤ space1Size := by
  have hparam : paramRefusal d c = none := by
    unfold solveRefusal at h
    cases hp : paramRefusal d c with
    | none => rfl
    | some k =>
      rw [hp] at h
      exact absurd h (by simp)
  by_contra hout
  have hbad : inSpace1 (solveArgs c.bytes).x (8 * (solveArgs c.bytes).n) = false := by simpa [inSpace1] using hout
  unfold paramRefusal at hparam
  dsimp only at hparam
  rw [hbad] at hparam
  split at hparam
  · exact absurd hparam (by simp)
  · split at hparam
    · exact absurd hparam (by simp)
    · split at hparam
      · exact absurd hparam (by simp)
      · rw [if_pos (by simp)] at hparam
        exact absurd hparam (by simp)

theorem touches_solveRead (d : Dev) (c : Cmd) : Touches d (solveRead d c) :=
  (touches_dramTouchAll ..).trans (touches_dramTouchAll ..)

theorem keepsDesk_solveRead (d : Dev) (c : Cmd) : KeepsDesk d (solveRead d c) :=
  KeepsDesk.trans (keepsDesk_dramTouchAll _ _) (keepsDesk_dramTouchAll _ _)

theorem Touches.index {d e : Dev} (h : Touches d e) : e.pad.index = d.pad.index := by
  unfold Touches at h
  rw [h]

/-- A command that has begun is refused as it was before. -/
theorem Starts.solve {d g : Dev} {c : Cmd} (h : Starts d c g) :
    solveRefusal g (begins d c) = solveRefusal d c ∧ firstRun g (begins d c) = firstRun d c := by
  have hmem : g.mem = d.mem := by rw [h.frame]
  have hfeed : g.feed = d.feed := by rw [h.frame]
  have hindex : g.pad.index = d.pad.index := by rw [h.frame]
  have hmodel (n : Nat) : modelOf g n = modelOf d n := by
    unfold modelOf
    rw [hfeed]
  have hdram (keys : List Nat) : dramAt g keys = dramAt d keys := by
    unfold dramAt
    rw [hmem]
  have hblocks (a : SolveArgs) : solveBlocks g a = solveBlocks d a := by
    have hentry (ps : List Placement) (k : Nat) : tableEntry g a ps k = tableEntry d a ps k := by
      unfold tableEntry
      rw [hdram, hindex]
    unfold solveBlocks tableBlocks
    rw [hmodel]
    exact List.map_congr_left fun k _ => hentry _ k
  have hvec (off n : Nat) : readVec g off n = readVec d off n := by
    unfold readVec
    simp only [hdram]
  have hparam : paramRefusal g (begins d c) = paramRefusal d c := by
    unfold paramRefusal
    simp only [hmodel]
    rfl
  refine ⟨?_, ?_⟩
  · unfold solveRefusal
    rw [hparam, show (begins d c).bytes = c.bytes from rfl, hblocks]
  · unfold firstRun
    dsimp only
    rw [show (begins d c).bytes = c.bytes from rfl, hblocks, hvec]

/-! ### The outer step (R278) -/

/-- A SOLVE that has begun takes its next step. -/
theorem answers_solveNext {cid : Nat} {c : Cmd} {s : SolveRun} {pre : Dev → Prop} {post : Dev → Dev → Prop}
    (h : ∀ d, pre d → cmdOf d cid = some c ∧ c.solve = some s ∧
      ∃ e, solveNext d c s = some e ∧ ∀ g, Leaves e g → post d g) : Answers (.solve cid) pre post := by
  intro t ht
  obtain ⟨hc, hs, e, he, hpost⟩ := h t.dev ht
  refine ⟨{ t with dev := { e with draws := e.draws + 1 } }, ?_, rfl, hpost _ (leaves_drawn e)⟩
  show execSolve cid t = _
  unfold execSolve
  rw [hc, Option.bind_some, hs]
  dsimp only
  unfold onDev
  dsimp only
  rw [hc, Option.bind_some, he]

theorem residual_congr {d e : Dev} (h : e.mem.dram = d.mem.dram) (a : SolveArgs) (bs : List Block) (b x : Vec) :
    residual e a bs b x = residual d a bs b x := by
  have hdram (keys : List Nat) : dramAt e keys = dramAt d keys := by
    unfold dramAt
    rw [h]
  have helem : blockElem e = blockElem d := by
    funext a k i j
    unfold blockElem
    simp only [hdram]
  unfold residual rowDot
  rw [helem]

/-- The run after an outer step. -/
def nextRun (d : Dev) (a : SolveArgs) (s : SolveRun) : SolveRun :=
  let x := (List.range a.n).map fun i =>
    fadd fp64 false (s.x.getD i 0) (widen64 (BitVec.ofNat 32 ((solveInner a s.blocks d s.r).2.getD i 0)))
  let r := residual d a s.blocks s.b x
  { s with x := x, r := r, steps := s.steps + 1
           flat := if fgt (norm2 r) (fmul fp64 false f09 (norm2 s.r)) then s.flat + 1 else 0 }

/-- An outer step whose residual is a number, not too large and not without progress for the third time. -/
theorem solveStep_goes {d : Dev} {c : Cmd} {a : SolveArgs} {s : SolveRun}
    (hgoes : fle (norm2 s.r) (fmul fp64 false a.tau s.nb) = false) (hsteps : s.steps < a.steps)
    (hfinite : finite64 (norm2 (nextRun d a s).r) = true)
    (hsmall : fgt (norm2 (nextRun d a s).r) (fmul fp64 false f1000 s.nb) = false) (hflat : (nextRun d a s).flat ≠ 3) :
    solveStep d c a s = c.running.foldl boundary
      (putCmd (dramTouchAll (solveInner a s.blocks d s.r).1 (blockKeys a s.blocks)) { c with solve := some (nextRun d a s) }) := by
  have hkeeps := (keepsData_solveInner a s.blocks d s.r).trans
    (touches_dramTouchAll (solveInner a s.blocks d s.r).1 (blockKeys a s.blocks)).keepsData
  have hres := residual_congr hkeeps.dram a s.blocks s.b
  unfold nextRun at hfinite hsmall hflat ⊢
  dsimp only at hfinite hsmall hflat ⊢
  unfold solveStep
  dsimp only
  rw [if_neg (by simp [hgoes]), if_neg (by omega)]
  simp only [hres]
  rw [if_neg (not_or.2 ⟨fun h => absurd (hfinite.symm.trans h) (by decide),
    fun h => absurd (hsmall.symm.trans h) (by decide)⟩), if_neg hflat]

/-! ### The clauses -/

theorem execSolve_of_new {s : State} {cid : Nat} {c : Cmd} (hc : cmdOf s.dev cid = some c) (hnone : c.solve = none) :
    execSolve cid s = startCmd "SOLVE" 0x32 anyForm cid solveDev s := by
  unfold execSolve
  rw [hc, Option.bind_some, hnone]

/-- A SOLVE that begins: of the module only what reads of DRAM leave has changed. -/
theorem begun_solve {d g e : Dev} {c : Cmd} (hok : solveRefusal d c = none) (hg : Starts d c g)
    (hzero : zeroVec (readVec d (solveArgs c.bytes).b (solveArgs c.bytes).n) = false)
    (hgone : ∀ st ∈ blockStalls d (firstRun d c).blocks, (stallOf d st).gone = false)
    (hl : Leaves (solveDev g (begins d c)) e) :
    e.stalls = d.stalls ∧ e.banks = d.banks ∧ DramBut [] d e ∧ cmdOf e c.cid = some { begins d c with
      waiting := blockStalls d (firstRun d c).blocks, solve := some (firstRun d c) } := by
  obtain ⟨hrefusal, hrun⟩ := hg.solve
  have htouches := touches_solveRead g (begins d c)
  have hindex : (solveRead g (begins d c)).pad.index = d.pad.index := by rw [htouches.index, hg.frame]
  have hvec : readVec g (solveArgs c.bytes).b (solveArgs c.bytes).n = readVec d (solveArgs c.bytes).b (solveArgs c.bytes).n :=
    congrArg SolveRun.b hrun
  rw [solveDev_accepted (hrefusal.trans hok), hrun, show (begins d c).bytes = c.bytes from rfl, hvec, hzero] at hl
  have hcmd : cmdOf (solveRead g (begins d c)) c.cid = some (begins d c) :=
    (cmdOf_congr htouches.keepsData.cmds _).trans hg.cmd
  have hdram : (solveRead g (begins d c)).mem.dram = g.mem.dram := htouches.keepsData.dram
  generalize solveRead g (begins d c) = w at *
  generalize firstRun d c = run at *
  have hstalls : blockStalls w run.blocks = blockStalls d run.blocks := by
    unfold blockStalls
    rw [hindex]
  have hthere : ((blockStalls d run.blocks).any fun st => (stallOf w st).gone) = false := by
    refine List.any_eq_false.2 fun st hst => ?_
    rw [stallOf_congr (htouches.stalls.trans hg.concludes.stalls), hgone st hst]
    exact Bool.false_ne_true
  rw [hstalls, hthere] at hl
  simp only [Bool.false_eq_true, if_false] at hl
  refine ⟨hl.stalls.trans (htouches.stalls.trans hg.concludes.stalls), hl.banks.trans (htouches.banks.trans hg.concludes.banks), fun k _ => ?_, ?_⟩
  · rw [hl.mem, ← hg.concludes.mem]
    exact congrArg (mget 0 · k) hdram
  · exact (hl.cmdOf c.cid).trans (cmdOf_putCmd_self hcmd rfl)

theorem flatMap_zeros (n : Nat) : (List.replicate n 0).flatMap (toLe 8) = List.replicate (8 * n) 0 := by
  induction n with
  | zero => rfl
  | succ n ih =>
    rw [List.replicate_succ, List.flatMap_cons, ih, Nat.mul_succ, Nat.add_comm, List.replicate_add]
    rfl

theorem solve_of_zero (cid : Nat) (c : Cmd) (a : SolveArgs) : Answers (.solve cid)
    (fun d => CmdStarts d cid 0x32 anyForm c ∧ c.solve = none ∧ NoDrain d ∧ solveRefusal d c = none ∧
      a = solveArgs c.bytes ∧ zeroVec (readVec d a.b a.n) = true ∧ c.running = [])
    (fun d e => e.stalls = d.stalls ∧ e.banks = d.banks ∧ DramBut (space1Keys a.x (8 * a.n)) d e ∧
      dramAt e (space1Keys a.x (8 * a.n)) = List.replicate (8 * a.n) 0 ∧
      ∃ v, Replied c 0 0 v 0 d e) := by
  refine answers_startCmd (c := c) (fun s ⟨⟨hc, _⟩, hnone, _⟩ => execSolve_of_new hc hnone) ?_
  intro d hpre
  refine under_name fun named shown => ?_
  obtain ⟨hstarts, -, hno, hok, rfl, hzero, hnone⟩ := hpre
  refine shown ⟨hstarts, fun g e hg hl => ?_⟩
  obtain ⟨hrefusal, hrun⟩ := hg.solve
  have htouches := touches_solveRead g (begins d c)
  have hvec : readVec g (solveArgs c.bytes).b (solveArgs c.bytes).n = readVec d (solveArgs c.bytes).b (solveArgs c.bytes).n :=
    congrArg SolveRun.b hrun
  rw [solveDev_accepted (hrefusal.trans hok), hrun, show (begins d c).bytes = c.bytes from rfl, hvec, hzero] at hl
  simp only [if_true] at hl
  have hlen : (firstRun d c).x.length = (solveArgs c.bytes).n := List.length_replicate
  have hcmd : cmdOf (solveRead g (begins d c)) c.cid = some (begins d c) :=
    (cmdOf_congr htouches.keepsData.cmds _).trans hg.cmd
  refine under_name fun named shown => ?_
  obtain ⟨hbanks, -, -, hbytes, hbut, hreplied, hstalls⟩ := endSolve_spec (c := begins d c)
    ((keepsDesk_started hg).trans (keepsDesk_solveRead g (begins d c))) hno hcmd (by rw [hlen]; exact vector_of_accepted hok) hl
  rw [hlen] at hbytes hbut
  refine shown ⟨(hstalls hnone).trans (htouches.stalls.trans hg.concludes.stalls), hbanks.trans (htouches.banks.trans hg.concludes.banks), fun k hk => ?_,
    hbytes.trans (flatMap_zeros _), _, hreplied⟩
  rw [hbut k hk, ← hg.concludes.mem]
  exact congrArg (mget 0 · k) htouches.keepsData.dram

/-- Settles O39. -/
theorem solveWritesItsVector : Obligations.SolveWritesItsVector := by
  refine ⟨fun cid c a bs => ?_, solve_of_zero, fun cid c s st => ?_, fun cid c a s result => ?_, fun cid c a s x r => ?_⟩
  · refine answers_startCmd (c := c) (fun s ⟨⟨hc, _⟩, hnone, _⟩ => execSolve_of_new hc hnone) ?_
    intro d hpre
    refine under_name fun named shown => ?_
    obtain ⟨hstarts, -, hok, rfl, rfl, hzero, hgone⟩ := hpre
    exact shown ⟨hstarts, fun g e hg hl => begun_solve hok hg hzero hgone hl⟩
  · refine answers_solveNext (c := c) (s := s) ?_
    intro d hpre
    refine under_name fun named shown => ?_
    obtain ⟨hc, hs, -, hup, hstopped, hended, hrunning, hst, hmay⟩ := hpre
    have hdrains : (c.running.any fun st => (stallOf d st).mode == .draining) = false :=
      List.any_eq_false.2 fun k hk => by simpa using hrunning k hk
    have hsts : st ∈ c.waiting.filter (mayStart d { c with solve := none }) := List.mem_filter.2 ⟨hst, hmay⟩
    generalize hstarting : c.waiting.filter (mayStart d { c with solve := none }) = sts at hsts shown
    refine shown ⟨hc, hs, sts.foldl (fun d st => startSolve d c st) d, ?_, fun e hl => ?_⟩
    · unfold solveNext
      rw [if_neg (by simp [hup]), if_neg (by simp [hstopped, hended, hdrains]), if_pos (List.ne_nil_of_mem hst)]
      dsimp only
      rw [hstarting, if_neg (List.ne_nil_of_mem hsts)]
    · have hcid := cmdOf_cid hc
      refine under_name fun named shown => ?_
      obtain ⟨hbanks, hmem, hcmd, hstalls⟩ := startStalls_spec c sts d c (by rwa [hcid])
      obtain ⟨hmode, howner⟩ := hstalls st (.inl hsts)
      refine shown ?_
      rw [stallOf_congr hl.stalls]
      refine ⟨hl.banks.trans hbanks, hl.mem.trans hmem, hmode, howner, solveStarted c sts, ?_, hs, ?_, ?_⟩
      · rw [hl.cmdOf, ← hcid]
        exact hcmd
      · exact List.mem_append_right _ hsts
      · exact fun hin => by simpa [hsts] using (List.mem_filter.1 hin).2
  · refine answers_solveNext (c := c) (s := s) ?_
    intro d hpre
    refine under_name fun named shown => ?_
    obtain ⟨hc, hs, -, hup, hno, hstopped, hended, hrunning, hwaiting, rfl, hlen, hx, hwhen⟩ := hpre
    have hdrains : (c.running.any fun st => (stallOf d st).mode == .draining) = false :=
      List.any_eq_false.2 fun k hk => by simpa using hrunning k hk
    refine shown ⟨hc, hs, endSolve d c (solveArgs c.bytes) s result, ?_, fun e hl => ?_⟩
    · unfold solveNext
      rw [if_neg (by simp [hup]), if_neg (by simp [hstopped, hended, hdrains]), if_neg (by simp [hwaiting])]
      unfold solveStep
      rcases hwhen with ⟨rfl, hsmall⟩ | ⟨rfl, hlarge, hsteps⟩
      · rw [if_pos hsmall]
      · rw [if_neg (by simp [hlarge]), if_pos hsteps]
    · have hcmd : cmdOf d c.cid = some c := by rwa [cmdOf_cid hc]
      refine under_name fun named shown => ?_
      obtain ⟨hbanks, hidle, hother, hbytes, hbut, hreplied, -⟩ := endSolve_spec (.refl d) hno hcmd (by rwa [hlen]) hl
      rw [hlen] at hbytes hbut
      exact shown ⟨hbanks, hidle, hother, hbytes, hbut, hreplied⟩
  · refine answers_solveNext (c := c) (s := s) ?_
    intro d hpre
    refine under_name fun named shown => ?_
    obtain ⟨hc, hs, -, hup, hstopped, hended, hrunning, hwaiting, rfl, hlarge, hsteps, rfl, rfl, hfinite, hsmall, hflat⟩ := hpre
    have hdrains : (c.running.any fun st => (stallOf d st).mode == .draining) = false :=
      List.any_eq_false.2 fun k hk => by simpa using hrunning k hk
    have hthree : (nextRun d (solveArgs c.bytes) s).flat ≠ 3 := by
      unfold nextRun
      dsimp only
      rcases hflat with hflat | hflat
      · split <;> omega
      · rw [hflat]
        simp
    refine shown ⟨hc, hs, c.running.foldl boundary (putCmd
      (dramTouchAll (solveInner (solveArgs c.bytes) s.blocks d s.r).1 (blockKeys (solveArgs c.bytes) s.blocks))
      { c with solve := some (nextRun d (solveArgs c.bytes) s) }), ?_, fun e hl => ?_⟩
    · unfold solveNext
      rw [if_neg (by simp [hup]), if_neg (by simp [hstopped, hended, hdrains]), if_neg (by simp [hwaiting]),
        solveStep_goes hlarge hsteps hfinite hsmall hthree]
    · have hcid := cmdOf_cid hc
      have hkeeps := (keepsData_solveInner (solveArgs c.bytes) s.blocks d s.r).trans (touches_dramTouchAll
        (solveInner (solveArgs c.bytes) s.blocks d s.r).1 (blockKeys (solveArgs c.bytes) s.blocks)).keepsData
      have hput := cmdOf_putCmd_self (f := { c with solve := some (nextRun d (solveArgs c.bytes) s) })
        ((cmdOf_congr hkeeps.cmds cid).trans hc) hcid
      have hbounds := keepsData_foldl keepsData_boundary c.running (putCmd
        (dramTouchAll (solveInner (solveArgs c.bytes) s.blocks d s.r).1 (blockKeys (solveArgs c.bytes) s.blocks))
        { c with solve := some (nextRun d (solveArgs c.bytes) s) })
      refine ⟨fun k _ => ?_, ?_, _, (hl.cmdOf cid).trans ((cmdOf_congr hbounds.cmds cid).trans hput)⟩
      · rw [hl.mem]
        exact congrArg (mget 0 · k) (hbounds.dram.trans hkeeps.dram)
      · rw [hl.mem]
        exact hbounds.loft.trans hkeeps.loft

end Sys2Proof.Machine
end

section
/-! Commands of the weight feed (O35). -/

namespace Sys2Proof.Machine

open Sys2Proof

/-! ### Free ids (R438) -/

theorem firstFrom_spec (f : Nat → Bool) (n : Nat) : ∀ k, (∃ j, k ≤ j ∧ j < k + n ∧ f j = true) →
    ∃ j, firstFrom f n k = some j ∧ f j = true ∧ j < k + n := by
  induction n with
  | zero => exact fun k ⟨j, hle, hlt, _⟩ => absurd hlt (by omega)
  | succ n ih =>
    rintro k ⟨j, hle, hlt, hj⟩
    unfold firstFrom
    by_cases hk : f k = true
    · exact ⟨k, if_pos hk, hk, by omega⟩
    · rw [if_neg hk]
      have hne : j ≠ k := fun h => hk (h ▸ hj)
      obtain ⟨m, hm, hfree, hbound⟩ := ih (k + 1) ⟨j, by omega, by omega, hj⟩
      exact ⟨m, hm, hfree, by omega⟩

/-- A number that no list of as many numbers names. -/
theorem exists_unused (l : List Nat) {n : Nat} (h : l.length ≤ n) : ∃ j, j < n + 1 ∧ j ∉ l := by
  by_contra hall
  have hsub : Finset.range (n + 1) ⊆ l.toFinset := by
    intro j hj
    rw [List.mem_toFinset]
    by_contra hj'
    exact hall ⟨j, Finset.mem_range.1 hj, hj'⟩
  have hcard := (Finset.card_le_card hsub).trans (List.toFinset_card_le l)
  rw [Finset.card_range] at hcard
  omega

/-- While fewer ids are used than there are, one is free. -/
theorem freeId_spec {d : Dev} {place top used : Nat} {free : Nat → Bool} (taken : List Nat) (hlen : taken.length ≤ used)
    (hused : used < top) (hfree : ∀ k, k ∉ taken → free k = true) :
    ∃ k, freeId d place top used free = some k ∧ k < top ∧ free k = true := by
  unfold freeId
  dsimp only
  split
  · next hp => exact ⟨_, rfl, Nat.mod_lt _ (by omega), hp⟩
  · obtain ⟨j, hlt, hj⟩ := exists_unused taken hlen
    obtain ⟨k, hk, hok, hbound⟩ := firstFrom_spec free (used + 1) 0 ⟨j, by omega, by omega, hfree j hj⟩
    refine ⟨k, ?_, by omega, hok⟩
    rw [hk, Option.filter_some, if_pos (by simp; omega)]

/-! ### What a command that starts leaves of the feed -/

theorem Starts.feed {d g : Dev} {c : Cmd} (h : Starts d c g) : g.feed = d.feed := by rw [h.frame]

theorem Starts.areas {d g : Dev} {c : Cmd} (h : Starts d c g) : homeSplit g = homeSplit d ∧ reserveBase g = reserveBase d ∧
    adapterBase g = adapterBase d := by
  rw [h.frame]
  exact ⟨rfl, rfl, rfl⟩

theorem Starts.length_cmds {d g : Dev} {c : Cmd} (h : Starts d c g) : g.host.cmds.length = d.host.cmds.length := by
  have hcmds : g.host.cmds = d.host.cmds.map fun x => if x.cid = c.cid then begins d c else x := by rw [h.frame]
  rw [hcmds, List.length_map]

theorem Starts.manifest {d g : Dev} {c : Cmd} (h : Starts d c g) (b : List Byte) :
    manifestResult g [] b true = manifestResult d [] b true := by
  rw [h.frame]
  generalize g.out = o
  generalize g.pad.ports = p
  generalize g.pad.messageNo = n
  generalize d.host.cmds.map _ = l
  rfl

/-! ### MODEL_STAGE, KEY_ADD and KEY_REMOVE (R371, R393, R452) -/

theorem modelStageDev_accepted {d : Dev} {c : Cmd} {src : Nat} (hform : c.param 32 1 = 0) (hsrc : src = c.param 33 1)
    (hrange : src < 3) (hopt : c.param 34 1 < 4) (hlist : src = 0 → c.isList = true)
    (hloft : src = 2 → bitAt (c.param 34 1) 0 = false)
    (hdram : src = 1 → dDataLen c.desc = 0 ∧ 8 * homeSplit d ≤ c.param 36 8 ∧ c.param 36 8 < reserveBase d)
    (hdata : c.dataFailed = false) (hmodels : d.feed.models.length < 64)
    (hroom : d.feed.models.length + d.host.cmds.length < 65535) (hqueue : (d.feed.stages.filter (·.adapter.isNone)).length < 9) :
    ∃ n, modelOf d n = none ∧ modelStageDev d c = setFeed d { d.feed with
      models := d.feed.models ++ [newModel n]
      stages := d.feed.stages ++
        [newStage d.feed.keys (some c.cid) n src (bitAt (c.param 34 1) 0) (bitAt (c.param 34 1) 1) [] 0] } := by
  subst hsrc
  obtain ⟨n, hn, -, hfree⟩ := freeId_spec (d := d) (place := 5) (top := 65535)
    (used := d.feed.models.length + d.host.cmds.length) (free := fun k => (modelOf d k).isNone && !retiringNow d k)
    (d.feed.models.map (·.id) ++ d.host.cmds.map fun c => c.param 32 2) (by simp) hroom (fun k hk => by
      rw [List.mem_append, not_or, List.mem_map, List.mem_map] at hk
      obtain ⟨hmodel, hcmd⟩ := hk
      have hnone : modelOf d k = none := List.find?_eq_none.2 fun m hm => by
        simpa using fun h => hmodel ⟨m, hm, h⟩
      have hidle : retiringNow d k = false := List.any_eq_false.2 fun x hx => by
        simpa using fun _ _ h => hcmd ⟨x, hx, h⟩
      rw [hnone, hidle]
      rfl)
  rw [Bool.and_eq_true, Option.isNone_iff_eq_none] at hfree
  refine ⟨n, hfree.1, ?_⟩
  unfold modelStageDev
  dsimp only
  rw [if_neg (by omega), if_neg ?_, if_neg (by simp [hdata]), if_neg (by omega), if_neg (by omega), hn]
  rintro (⟨h0, hbad⟩ | ⟨h1, hbad⟩ | ⟨h2, hbad⟩ | ⟨h1, hbad⟩)
  · exact absurd ((hlist h0).symm.trans hbad) (by decide)
  · exact hbad (hdram h1).1
  · exact absurd ((hloft h2).symm.trans hbad) (by decide)
  · obtain ⟨-, hlow, hhigh⟩ := hdram h1
    omega

theorem modelStage_begins {d g e : Dev} {c : Cmd} {src : Nat} (hform : c.param 32 1 = 0) (hsrc : src = c.param 33 1)
    (hrange : src < 3) (hopt : c.param 34 1 < 4) (hlist : src = 0 → c.isList = true)
    (hloft : src = 2 → bitAt (c.param 34 1) 0 = false)
    (hdram : src = 1 → dDataLen c.desc = 0 ∧ 8 * homeSplit d ≤ c.param 36 8 ∧ c.param 36 8 < reserveBase d)
    (hdata : c.dataFailed = false) (hmodels : d.feed.models.length < 64)
    (hroom : d.feed.models.length + d.host.cmds.length < 65535) (hqueue : (d.feed.stages.filter (·.adapter.isNone)).length < 9)
    (hg : Starts d c g) (hl : Leaves (modelStageDev g (begins d c)) e) :
    SparesMachine d e ∧ Begun c id d e ∧ ∃ n, modelOf d n = none ∧ modelOf e n = some (newModel n) ∧
      e.feed.stages = d.feed.stages ++
        [newStage d.feed.keys (some c.cid) n src (bitAt (c.param 34 1) 0) (bitAt (c.param 34 1) 1) [] 0] := by
  have hfeed := hg.feed
  obtain ⟨hhome, hreserve, -⟩ := hg.areas
  obtain ⟨n, hfree, hdev⟩ := modelStageDev_accepted (d := g) (c := begins d c) hform hsrc hrange hopt hlist hloft
    (by rw [hhome, hreserve]; exact hdram) hdata (by rw [hfeed]; exact hmodels)
    (by rw [hfeed, hg.length_cmds]; exact hroom) (by rw [hfeed]; exact hqueue)
  rw [hdev] at hl
  have hnone : modelOf d n = none := by
    rw [← hfree]
    unfold modelOf
    rw [hfeed]
  refine ⟨hl.spares hg.concludes.spares, (hl.cmdOf c.cid).trans hg.cmd, n, hnone, ?_, ?_⟩
  · unfold modelOf at hfree ⊢
    rw [hl.feed]
    show (g.feed.models ++ [newModel n]).find? _ = _
    rw [List.find?_append, hfree, Option.none_or, List.find?_singleton, if_pos (by simp [newModel])]
  · rw [hl.feed, ← hfeed]
    rfl

/-- What the end of a command leaves where only the feed was changed before. -/
theorem Wraps.filed {d g e : Dev} {c : Cmd} {f : Feed} (hg : Starts d c g) (h : Wraps (setFeed g f) e) :
    SparesMachine d e ∧ e.feed.keys = f.keys ∧ e.feed.adapters = f.adapters := by
  have hmodels := h.models
  unfold ModelsOnly at hmodels
  rw [hmodels]
  exact ⟨hg.concludes.spares.trans h.spares, rfl, rfl⟩

/-- A command whose work on the feed is done ends when it is done on every module. -/
theorem feed_ends {d g e : Dev} {c : Cmd} {f : Feed} {x : Ends} (hno : NoDrain d) (hg : Starts d c g) (hx : x.bytes = [])
    (hl : Leaves (finishAll (setFeed g f) (begins d c) x) e) :
    SparesMachine d e ∧ RepliedAll c x.status x.result x.value0 x.value1 d e ∧ e.feed.keys = f.keys ∧
      e.feed.adapters = f.adapters := by
  have hdesk : SameDesk d (setFeed g f) := hg.desk.trans (.of (.same rfl rfl rfl rfl) rfl rfl)
  have hcmd : cmdOf (setFeed g f) c.cid = some (begins d c) := hg.cmd
  have hothers : others (setFeed g f) = others d := hg.concludes.others
  obtain ⟨hwraps, hreplied, -⟩ := endsAll_with hdesk hno hcmd rfl hothers (lostResult_none hx) hl
  obtain ⟨hspares, hfeed⟩ := hwraps.filed hg
  exact ⟨hspares, hreplied, hfeed⟩

/-- A command that is refused ends at once. -/
theorem refused_ends {d g e : Dev} {c : Cmd} {x : Ends} (hno : NoDrain d) (hg : Starts d c g) (hx : x.bytes = [])
    (hl : Leaves (finish g (begins d c) x) e) :
    SparesMachine d e ∧ ModelsOnly d e ∧ Replied c x.status x.result x.value0 x.value1 d e := by
  obtain ⟨hwraps, hreplied⟩ := ends_at_once hg hno (lostResult_none hx) hl
  exact ⟨hwraps.spares, hwraps.models, hreplied⟩

theorem keyAddDev_accepted {d : Dev} {c : Cmd} (hsrc : c.param 33 1 ≤ 2) (hopt : c.param 34 1 < 4) (hdata : c.dataFailed = false)
    (hlen : c.dataLen = 1793) (hhead : c.bytes.head? = some falconKeyHeader) (hnew : keyFor d (keyIdOf c.bytes) = none)
    (hroom : d.feed.keys.length < 16) :
    ∃ n, n < 16 ∧ mget none d.feed.keys n = none ∧ keyAddDev d c =
      finishAll (setFeed d { d.feed with keys := mput none d.feed.keys n (some c.bytes) }) c (keyEnds 0 (keyIdOf c.bytes)) := by
  refine under_name fun named shown => ?_
  obtain ⟨n, hn, hlt, hfree⟩ := freeId_spec (d := d) (place := 4) (top := 16) (used := d.feed.keys.length)
    (free := fun n => mget none d.feed.keys n == none) (d.feed.keys.map Prod.fst) (by simp) hroom
    (fun k hk => by rw [mget_of_notMem hk]; rfl)
  refine shown ⟨n, hlt, by simpa using hfree, ?_⟩
  unfold keyAddDev
  dsimp only
  rw [if_neg (by simp [sourceReserved]; omega), if_neg (by simp [hdata]), if_neg (by simp [hlen, hhead]), if_neg (by simp [hnew]), hn]

/-- What a map lists is what it answers. -/
theorem mget_of_listed {α : Type} {d : α} {m : Map α} {k : Nat} {v : α} (h : m.Pairwise (fun p q => p.1 < q.1))
    (hmem : (k, v) ∈ m) : mget d m k = v := by
  induction m with
  | nil => exact absurd hmem List.not_mem_nil
  | cons p m ih =>
    rw [List.pairwise_cons] at h
    rcases List.mem_cons.1 hmem with rfl | hmem
    · exact mget_cons_self ..
    · exact (mget_cons_ne (Nat.ne_of_lt (h.1 _ hmem))).trans (ih h.2 hmem)

theorem keyRemoveDev_named {d : Dev} {c : Cmd} {n : Nat} {key : List Byte} (hsrc : c.param 33 1 ≤ 2) (hopt : c.param 34 1 < 4)
    (hwf : mwf none d.feed.keys) (hkey : mget none d.feed.keys n = some key) (hid : keyIdOf key = c.param 44 8)
    (honly : ∀ m k, mget none d.feed.keys m = some k → keyIdOf k = c.param 44 8 → m = n) :
    keyRemoveDev d c = finishAll (setFeed d { d.feed with keys := mput none d.feed.keys n none }) c (keyEnds 0 (c.param 44 8)) := by
  have hlisted : (n, some key) ∈ d.feed.keys := by
    have h := (mget_or_mem none d.feed.keys n).resolve_left (by simp [hkey])
    rwa [hkey] at h
  obtain ⟨p, hp⟩ : ∃ p, (d.feed.keys.find? fun p => p.2.any fun k => keyIdOf k == c.param 44 8) = some p := by
    rw [← Option.isSome_iff_exists, List.find?_isSome]
    exact ⟨(n, some key), hlisted, by simp [hid]⟩
  have hn : p.1 = n := by
    obtain ⟨k, hk, hkid⟩ : ∃ k, p.2 = some k ∧ keyIdOf k = c.param 44 8 := by
      simpa [Option.any_eq_true] using List.find?_some hp
    refine honly p.1 k ?_ hkid
    refine mget_of_listed hwf.1 ?_
    rw [← hk]
    exact List.mem_of_find?_eq_some hp
  subst hn
  unfold keyRemoveDev
  dsimp only
  rw [if_neg (by simp [sourceReserved]; omega), hp]

/-! ### ADAPTER_LOAD and ADAPTER_UNLOAD (R409, R410) -/

theorem adapterLoadDev_accepted {d : Dev} {c : Cmd} {b t : List Byte} {off : Nat} (hform : c.param 32 1 = 0)
    (hlist : c.isList = true) (hcount : c.param 36 4 ≤ 4096) (hdata : c.dataFailed = false) (hb : b = (c.entries.head?).getD [])
    (ht : t = c.entries.getD (mShards b + 1) []) (htable : c.param 36 4 ≠ 0 → t.length = 16 * c.param 36 4)
    (hcopies : ∀ k, k < c.param 36 4 → copyOk d (rawTotal b) (copyEntry t k) = true ∧ fieldAt (copyEntry t k) 3 1 = 0)
    (hok : adapterResult d b c.entries = none) (hroom : adapterRoom d b = some off)
    (hids : d.feed.adapters.length + d.feed.stages.length < 4000) :
    ∃ n, 0 < n ∧ n < 4096 ∧ (∀ a ∈ d.feed.adapters, a.id ≠ n) ∧
      (∀ s ∈ d.feed.stages, ∀ a, s.adapter = some a → a.id ≠ n) ∧
      adapterLoadDev true d c = setFeed d { d.feed with stages := d.feed.stages ++
        [adapterStage d c b n off ((List.range (c.param 36 4)).map (copyEntry t))] } := by
  subst hb
  subst ht
  obtain ⟨n, hn, hlt, hfree⟩ := freeId_spec (d := d) (place := 6) (top := 4096)
    (used := d.feed.adapters.length + d.feed.stages.length + 1)
    (free := fun k => k != 0 && (d.feed.adapters.all fun a => a.id != k) && d.feed.stages.all fun s => s.adapter.all fun a => a.id != k)
    (0 :: (d.feed.adapters.map (·.id) ++ d.feed.stages.map fun s => (s.adapter.map (·.id)).getD 0)) (by simp) (by omega)
    (fun k hk => by
      obtain ⟨hzero, hk⟩ := List.ne_and_not_mem_of_not_mem_cons hk
      rw [List.mem_append, not_or, List.mem_map, List.mem_map] at hk
      obtain ⟨hloaded, hstaged⟩ := hk
      rw [Bool.and_eq_true, Bool.and_eq_true, List.all_eq_true, List.all_eq_true]
      refine ⟨⟨by simpa using hzero, fun a ha => by simpa using fun h => hloaded ⟨a, ha, h⟩⟩, fun s hs => ?_⟩
      cases ha : s.adapter with
      | none => rfl
      | some a => simpa using fun h => hstaged ⟨s, hs, by rw [ha]; exact h⟩)
  rw [Bool.and_eq_true, Bool.and_eq_true, List.all_eq_true, List.all_eq_true] at hfree
  obtain ⟨⟨hzero, hloaded⟩, hstaged⟩ := hfree
  refine ⟨n, by simp at hzero; omega, hlt, fun a ha => by simpa using hloaded a ha, fun s hs a ha => ?_, ?_⟩
  · have h := hstaged s hs
    rw [ha] at h
    simpa using h
  · unfold adapterLoadDev
    dsimp only
    rw [if_neg (by omega), if_neg (by simp [hlist]; omega), if_neg (by simp [hdata]), hok]
    dsimp only
    rw [if_neg ?_, if_neg ?_]
    · unfold queueAdapter adapterId
      rw [hn, hroom]
      exact if_neg (by decide)
    · rintro (⟨hne, hbad⟩ | hbad)
      · exact hbad (htable hne)
      · obtain ⟨e, he, hbad⟩ := List.any_eq_true.1 hbad
        obtain ⟨k, hk, rfl⟩ := List.mem_map.1 he
        rw [(hcopies k (List.mem_range.1 hk)).1] at hbad
        exact Bool.noConfusion hbad
    · rintro hbad
      obtain ⟨e, he, hbad⟩ := List.any_eq_true.1 hbad
      obtain ⟨k, hk, rfl⟩ := List.mem_map.1 he
      rw [(hcopies k (List.mem_range.1 hk)).2] at hbad
      exact Bool.noConfusion hbad

theorem adapterLoad_begins {d g e : Dev} {c : Cmd} {b t : List Byte} {off : Nat} (hform : c.param 32 1 = 0)
    (hlist : c.isList = true) (hcount : c.param 36 4 ≤ 4096) (hdata : c.dataFailed = false) (hb : b = (c.entries.head?).getD [])
    (ht : t = c.entries.getD (mShards b + 1) []) (htable : c.param 36 4 ≠ 0 → t.length = 16 * c.param 36 4)
    (hcopies : ∀ k, k < c.param 36 4 → copyOk d (rawTotal b) (copyEntry t k) = true ∧ fieldAt (copyEntry t k) 3 1 = 0)
    (hok : adapterResult d b c.entries = none) (hroom : adapterRoom d b = some off)
    (hids : d.feed.adapters.length + d.feed.stages.length < 4000)
    (hg : Starts d c g) (hl : Leaves (adapterLoadDev true g (begins d c)) e) :
    SparesMachine d e ∧ Begun c id d e ∧ e.feed.adapters = d.feed.adapters ∧
      ∃ n, 0 < n ∧ n < 4096 ∧ (∀ a ∈ d.feed.adapters, a.id ≠ n) ∧
        (∀ s ∈ d.feed.stages, ∀ a, s.adapter = some a → a.id ≠ n) ∧
        e.feed.stages = d.feed.stages ++ [adapterStage d c b n off ((List.range (c.param 36 4)).map (copyEntry t))] := by
  have hfeed := hg.feed
  refine under_name fun named shown => ?_
  obtain ⟨-, -, hbase⟩ := hg.areas
  have hmembers : memberIndices g = memberIndices d := by rw [hg.frame]; rfl
  have hresult : adapterResult g b c.entries = adapterResult d b c.entries := by
    unfold adapterResult
    rw [hg.manifest]
  have hplace : adapterRoom g b = adapterRoom d b := by
    unfold adapterRoom adapterRanges
    rw [hfeed, hbase]
  obtain ⟨n, hpos, hlt, hloaded, hstaged, hdev⟩ := adapterLoadDev_accepted (d := g) (c := begins d c) hform hlist hcount hdata hb ht
    htable (fun k hk => by unfold copyOk; rw [hmembers]; exact hcopies k hk) (hresult.trans hok) (hplace.trans hroom)
    (by rw [hfeed]; exact hids)
  rw [hdev] at hl
  rw [hfeed] at hloaded hstaged
  refine shown ⟨hl.spares hg.concludes.spares, (hl.cmdOf c.cid).trans hg.cmd, ?_, n, hpos, hlt, hloaded, hstaged, ?_⟩
  · rw [hl.feed, ← hfeed]
    rfl
  · rw [hl.feed]
    show g.feed.stages ++ [adapterStage g (begins d c) b n off _] = _
    unfold adapterStage
    rw [hfeed]
    rfl

theorem Starts.adapterUsed {d g : Dev} {c : Cmd} (h : Starts d c g) (id : Nat) : adapterUsed g id = adapterUsed d id := by
  rw [h.frame]
  rfl

theorem adapterUnloadDev_unused {d : Dev} {c : Cmd} {a : Adapter} (ha : a ∈ d.feed.adapters) (hid : a.id = c.param 34 2)
    (hused : adapterUsed d (c.param 34 2) = false) : adapterUnloadDev false d c =
      finishAll (setFeed d { d.feed with adapters := d.feed.adapters.filter fun a => a.id != c.param 34 2 }) c
        { ends 0 with value0 := c.param 34 2 } := by
  have hany : (d.feed.adapters.any fun a => a.id == c.param 34 2) = true := List.any_eq_true.2 ⟨a, ha, by simpa using hid⟩
  unfold adapterUnloadDev
  dsimp only
  rw [if_neg (by simp [hany]), if_neg (by simp [hused])]

theorem adapterUnloadDev_used {d : Dev} {c : Cmd} {a : Adapter} {used : Bool} (ha : a ∈ d.feed.adapters) (hid : a.id = c.param 34 2)
    (hused : adapterUsed d (c.param 34 2) = true ∨ used = true) : adapterUnloadDev used d c = finish d c (ends 0x06) := by
  have hany : (d.feed.adapters.any fun a => a.id == c.param 34 2) = true := List.any_eq_true.2 ⟨a, ha, by simpa using hid⟩
  unfold adapterUnloadDev
  dsimp only
  rw [if_neg (by simp [hany]), if_pos hused]

/-! ### The last module's result (R410, R443) -/

theorem find_unqueued (d : Dev) (s : Stage) : (unqueued d s).feed.stages.find? (·.model == s.model) = none := by
  refine List.find?_eq_none.2 fun x hx => ?_
  have h : x ∈ d.feed.stages.filter fun x => x.model != s.model := hx
  simpa using (List.mem_filter.1 h).2

/-- The last module has succeeded: the stage closes. -/
theorem lastResult_closes {d : Dev} {s : Stage} {module : Nat} (hhead : headStage d = some s) (hstarted : s.started = true)
    (hrole : d.pad.role = .lead) (hin : module ∈ stageModules d) (hnot : module ≠ d.pad.index)
    (hres : ∀ p ∈ s.results, p.1 ≠ module ∧ p.2 = 0) (hrest : ∀ m ∈ stageModules d, m ≠ module → ∃ p ∈ s.results, p.1 = m) :
    ∃ f, execStageResult module 0 = onDerier "STAGE_RESULT" f ∧
      f d = some (closeStage (putStage d (noted s module)) (noted s module) 0) := by
  refine ⟨_, rfl, ?_⟩
  have hknown : resultsIn (putStage d (noted s module)) (noted s module) = true := by
    refine List.all_eq_true.2 fun m hm => List.any_eq_true.2 ?_
    by_cases h : m = module
    · exact ⟨(module, 0), List.mem_append_right _ List.mem_cons_self, by simp [h]⟩
    · obtain ⟨p, hp, heq⟩ := hrest m hm h
      exact ⟨p, List.mem_append_left _ hp, by simp [heq]⟩
  have hany : (s.results.any fun p => p.1 == module) = false :=
    List.any_eq_false.2 fun p hp => by simpa using (hres p hp).1
  have hgood : (s.results.any fun p => p.2 != 0) = false :=
    List.any_eq_false.2 fun p hp => by simp [(hres p hp).2]
  have hclosed : (closeStage (putStage d (noted s module)) (noted s module) 0).feed.stages.find? (·.model == s.model) = none := by
    rw [(closeStage_books (putStage d (noted s module)) (noted s module) 0).stages]
    exact find_unqueued _ (noted s module)
  dsimp only
  rw [hhead]
  dsimp only
  rw [if_neg (by simp [hstarted]), if_pos hrole, if_neg (by simp [hin, hnot, hany]), if_neg (by simp [hgood]), noteResult_passes,
    if_pos hknown, stageCode_passes (noted_passes (fun r hr => (hres r hr).2) module)]
  rw [hclosed]

theorem tellAll_tells {d : Dev} {x : Message} (hrole : d.pad.role = .lead) :
    ∀ m ∈ stageModules d, m ≠ d.pad.index → Tells m x d (tellAll d x) := by
  intro m hm hne
  unfold tellAll
  rw [if_pos hrole]
  exact foldl_sendMsg_tells (x := fun _ => x) (fun _ _ => rfl) _ d m (List.mem_filter.2 ⟨hm, by simpa using hne⟩)

/-- The module when a stage has left the queue and its adapter is loaded. -/
def adapterFiled (d : Dev) (s : Stage) (a : AdapterLoad) : Dev :=
  setFeed d { d.feed with
    stages := d.feed.stages.filter fun x => x.model != s.model
    adapters := d.feed.adapters ++ [{ id := a.id, base := a.base, len := rawTotal s.manifest, model := mBaseId s.manifest }] }

/-- A stage of an adapter that has succeeded everywhere: the adapter is loaded, every module is told, the command ends. -/
theorem closeStage_loads {d : Dev} {s : Stage} {a : AdapterLoad} {c : Cmd} (hstarted : s.started = true) (hadapter : s.adapter = some a)
    (hnew : ∀ x ∈ d.feed.adapters, x.id ≠ a.id) (hmodel : modelOf d s.model = none) (hcid : s.cid = some c.cid)
    (hcmd : cmdOf d c.cid = some c) :
    closeStage d s 0 = finish (tellAll (adapterFiled d s a) (.stageVerdict s.model 0)) c { ends 0 with value0 := a.id } := by
  have hunmodelled : modelOf (unqueued d s) s.model = none := hmodel
  have hrecord : recordClosed s 0 (unqueued d s) = unqueued d s := by
    unfold recordClosed
    rw [hunmodelled]
  have hload : adapterClosed s 0 (unqueued d s) = adapterFiled d s a := by
    have hnone : ((unqueued d s).feed.adapters.any fun x => x.id == a.id) = false :=
      List.any_eq_false.2 fun x hx => by simpa using hnew x hx
    unfold adapterClosed
    rw [hadapter]
    dsimp only
    rw [if_pos rfl]
    unfold loadAdapter
    rw [if_neg (by simp [hnone])]
    rfl
  have hends : stageEnds s 0 = { ends 0 with value0 := a.id } := by
    unfold stageEnds
    rw [hadapter]
    rfl
  have hlisted : cmdOf (adapterFiled d s a) c.cid = some c := hcmd
  rw [closeStage_eq, if_pos (.inl rfl), hrecord, hload]
  generalize adapterFiled d s a = w at hlisted ⊢
  have htold : cmdOf (tellAll w (.stageVerdict s.model 0)) c.cid = some c := by
    have hsends := sends_tellAll w (.stageVerdict s.model 0)
    rw [← hlisted]
    refine cmdOf_congr ?_ _
    rw [hsends]
  have hverdict : verdictTold s 0 w = tellAll w (.stageVerdict s.model 0) := if_pos ⟨hstarted, .inl rfl⟩
  unfold commandClosed
  rw [hverdict, hcid, Option.bind_some, htold, hends]

theorem lastResult_loads {d e : Dev} {s : Stage} {a : AdapterLoad} {c : Cmd} {module : Nat} (hstarted : s.started = true)
    (hadapter : s.adapter = some a) (hrole : d.pad.role = .lead) (hnew : ∀ x ∈ d.feed.adapters, x.id ≠ a.id)
    (hmodel : modelOf d s.model = none) (hcid : s.cid = some c.cid) (hcmd : cmdOf d c.cid = some c) (hno : NoDrain d)
    (hl : Leaves (closeStage (putStage d (noted s module)) (noted s module) 0) e) :
    SparesMachine d e ∧ Replied c 0 0 a.id 0 d e ∧ e.feed.adapters = d.feed.adapters ++
        [{ id := a.id, base := a.base, len := rawTotal s.manifest, model := mBaseId s.manifest }] ∧
      ∀ m ∈ stageModules d, m ≠ d.pad.index → Tells m (.stageVerdict s.model 0) d e := by
  rw [closeStage_loads (d := putStage d (noted s module)) (s := noted s module) (a := a) hstarted hadapter hnew hmodel hcid hcmd] at hl
  have hfiled : SameDesk d (adapterFiled (putStage d (noted s module)) (noted s module) a) := .of (.same rfl rfl rfl rfl) rfl rfl
  have hspares : SparesMachine d (adapterFiled (putStage d (noted s module)) (noted s module) a) := ⟨rfl, rfl, rfl, rfl, rfl⟩
  have hmodules : stageModules (adapterFiled (putStage d (noted s module)) (noted s module) a) = stageModules d := rfl
  have hindex : (adapterFiled (putStage d (noted s module)) (noted s module) a).pad.index = d.pad.index := rfl
  have hlead : (adapterFiled (putStage d (noted s module)) (noted s module) a).pad.role = .lead := hrole
  have hlisted : cmdOf (adapterFiled (putStage d (noted s module)) (noted s module) a) c.cid = some c := hcmd
  have hadapters : (adapterFiled (putStage d (noted s module)) (noted s module) a).feed.adapters = d.feed.adapters ++
      [{ id := a.id, base := a.base, len := rawTotal s.manifest, model := mBaseId s.manifest }] := rfl
  rw [show (noted s module).model = s.model from rfl] at hl
  generalize adapterFiled (putStage d (noted s module)) (noted s module) a = w at *
  have hsends := sends_tellAll w (.stageVerdict s.model 0)
  have hgrows := grows_tellAll w (.stageVerdict s.model 0)
  have htells := tellAll_tells (x := .stageVerdict s.model 0) hlead
  rw [hmodules, hindex] at htells
  generalize tellAll w (.stageVerdict s.model 0) = t at *
  have hdesk : SameDesk d t := hfiled.trans (.of hgrows (by rw [hsends]) (by rw [hsends]))
  have hcmdt : cmdOf t c.cid = some c := by
    rw [← hlisted]
    exact cmdOf_congr (by rw [hsends]) _
  obtain ⟨hwraps, hreplied⟩ := ends_with (c := c) hdesk hno hcmdt (lostResult_none rfl) hl
  refine ⟨(hspares.trans hsends.signals.concludes.spares).trans hwraps.spares, hreplied, ?_, fun m hm hne => ?_⟩
  · rw [hwraps.models]
    show t.feed.adapters = _
    rw [hsends]
    exact hadapters
  · exact (htells m hm hne).mono hfiled.grows ((grows_finish ..).trans hl.grows)

/-- Settles O35. -/
theorem stageKeyAndAdapterCommands : Obligations.StageKeyAndAdapterCommands := by
  refine ⟨⟨fun cid c src => ?_, fun cid c => ?_, fun cid c => ?_, fun cid c => ?_, fun cid c n key => ?_⟩,
    fun cid c b t off => ?_, fun module s a c => ?_, fun cid c => ?_, fun cid c used => ?_⟩
  · refine answers_startCmd (c := c) (fun s _ => show execModelStage cid s = _ from rfl) ?_
    intro d hpre
    refine under_name fun named shown => ?_
    obtain ⟨hstarts, hform, hsrc, hrange, hopt, hlist, hloft, hdram, hdata, hmodels, hroom, hqueue⟩ := hpre
    exact shown ⟨hstarts, fun g e => modelStage_begins hform hsrc hrange hopt hlist hloft hdram hdata hmodels hroom hqueue⟩
  · refine answers_startCmd (c := c) (fun s _ => show execKeyAdd cid s = _ from rfl) ?_
    intro d hpre
    refine under_name fun named shown => ?_
    obtain ⟨hstarts, hno, hsrc, hopt, hdata, hlen, hhead, hnew, hroom⟩ := hpre
    refine shown ⟨hstarts, fun g e hg hl => ?_⟩
    have hfeed := hg.feed
    refine under_name fun named shown => ?_
    obtain ⟨n, hlt, hfree, hdev⟩ := keyAddDev_accepted (d := g) (c := begins d c) hsrc hopt hdata hlen hhead
      (by unfold keyFor; rw [hfeed]; exact hnew) (by rw [hfeed]; exact hroom)
    rw [hdev] at hl
    rw [hfeed] at hfree hl
    obtain ⟨hspares, hreplied, hkeys, -⟩ := feed_ends hno hg rfl hl
    dsimp only at hkeys
    refine shown ?_
    rw [hkeys]
    exact ⟨hspares, hreplied, n, hlt, hfree, mget_mput_self none _ n _, fun m hm => mget_mput_ne none _ _ hm⟩
  · refine answers_startCmd (c := c) (fun s _ => show execKeyAdd cid s = _ from rfl) ?_
    intro d hpre
    refine under_name fun named shown => ?_
    obtain ⟨hstarts, hno, hbad⟩ := hpre
    refine shown ⟨hstarts, fun g e hg hl => refused_ends (x := keyEnds 0x01 0) hno hg rfl ?_⟩
    rwa [show keyAddDev g (begins d c) = finish g (begins d c) (keyEnds 0x01 0) from
      if_pos (show sourceReserved c = true by simpa [sourceReserved] using hbad)] at hl
  · refine answers_startCmd (c := c) (fun s _ => show execKeyRemove cid s = _ from rfl) ?_
    intro d hpre
    refine under_name fun named shown => ?_
    obtain ⟨hstarts, hno, hbad⟩ := hpre
    refine shown ⟨hstarts, fun g e hg hl => refused_ends (x := keyEnds 0x01 0) hno hg rfl ?_⟩
    rwa [show keyRemoveDev g (begins d c) = finish g (begins d c) (keyEnds 0x01 0) from
      if_pos (show sourceReserved c = true by simpa [sourceReserved] using hbad)] at hl
  · refine answers_startCmd (c := c) (fun s _ => show execKeyRemove cid s = _ from rfl) ?_
    intro d hpre
    refine under_name fun named shown => ?_
    obtain ⟨hstarts, hno, hsrc, hopt, hwf, hkey, hid, honly⟩ := hpre
    refine shown ⟨hstarts, fun g e hg hl => ?_⟩
    have hfeed := hg.feed
    rw [keyRemoveDev_named (d := g) (c := begins d c) (n := n) (key := key) hsrc hopt (by rw [hfeed]; exact hwf)
      (by rw [hfeed]; exact hkey) hid (by rw [hfeed]; exact honly), hfeed] at hl
    refine under_name fun named shown => ?_
    obtain ⟨hspares, hreplied, hkeys, -⟩ := feed_ends hno hg rfl hl
    dsimp only at hkeys
    refine shown ?_
    rw [hkeys]
    exact ⟨hspares, hreplied, fun m => mget_mput none _ _ _ _⟩
  · refine answers_startCmd (c := c) (fun s _ => show execAdapterLoad cid true s = _ from rfl) ?_
    intro d hpre
    refine under_name fun named shown => ?_
    obtain ⟨hstarts, hform, hlist, hcount, hdata, hb, ht, htable, hcopies, hok, hroom, hids⟩ := hpre
    exact shown ⟨hstarts, fun g e => adapterLoad_begins hform hlist hcount hdata hb ht htable hcopies hok hroom hids⟩
  · intro s' hs
    refine under_name fun named shown => ?_
    obtain ⟨hhead, hstarted, hadapter, hrole, hin, hnot, hres, hrest, hnew, hmodel, hcid, hcmd, hno⟩ := hs
    obtain ⟨f, hexec, hf⟩ := lastResult_closes hhead hstarted hrole hin hnot hres hrest
    obtain ⟨g, hl, hrun⟩ := onDerier_runs (name := "STAGE_RESULT") hf
    refine shown ⟨{ s' with dev := g }, ?_, rfl, lastResult_loads hstarted hadapter hrole hnew hmodel hcid hcmd hno hl⟩
    exact (congrFun hexec s').trans hrun
  · refine answers_startCmd (c := c) (fun s _ => show execAdapterUnload cid false s = _ from rfl) ?_
    intro d hpre
    refine under_name fun named shown => ?_
    obtain ⟨hstarts, hno, ⟨a, ha, hid⟩, hused⟩ := hpre
    refine shown ⟨hstarts, fun g e hg hl => ?_⟩
    have hfeed := hg.feed
    rw [adapterUnloadDev_unused (d := g) (c := begins d c) (by rw [hfeed]; exact ha) hid (by rw [hg.adapterUsed]; exact hused), hfeed] at hl
    refine under_name fun named shown => ?_
    obtain ⟨hspares, hreplied, -, hadapters⟩ := feed_ends hno hg rfl hl
    exact shown ⟨hspares, hreplied, hadapters⟩
  · refine answers_startCmd (c := c) (fun s _ => show execAdapterUnload cid used s = _ from rfl) ?_
    intro d hpre
    refine under_name fun named shown => ?_
    obtain ⟨hstarts, hno, ⟨a, ha, hid⟩, hused⟩ := hpre
    refine shown ⟨hstarts, fun g e hg hl => refused_ends (x := ends 0x06) hno hg rfl ?_⟩
    rwa [adapterUnloadDev_used (d := g) (c := begins d c) (by rw [hg.feed]; exact ha) hid (by rw [hg.adapterUsed]; exact hused)] at hl

end Sys2Proof.Machine
end

section
/-! The life of an epoch (O49). -/

namespace Sys2Proof.Machine

open Sys2Proof

/-! ### What a change of the paddock's notes leaves alone -/

/-- A state with the same ports, routes, place, rings and output. -/
theorem Grows.of {d e : Dev} (hout : e.out = d.out) (hports : e.pad.ports = d.pad.ports) (hhops : e.pad.hops = d.pad.hops)
    (hhere : Machine.here e = Machine.here d) (hrings : e.host.rings = d.host.rings) : Grows d e where
  out o ho := by rwa [hout]
  usable m := by
    unfold usablePorts portOf
    rw [hports, hhops]
  here := hhere
  queue p b hb := by
    unfold portOf at hb ⊢
    rwa [hports]
  rings r y hy := by
    unfold ringOf at hy ⊢
    rw [hrings] at hy
    exact ⟨y, hy, rfl⟩

theorem reached_self (n : W32) : reached n n = true := by simp [reached]

theorem grows_putEpoch (d : Dev) (x : Epoch) : Grows d (putEpoch d x) := .of rfl rfl rfl rfl rfl

theorem epochOf_mem {d : Dev} {n : W32} {x : Epoch} (h : epochOf d n = some x) : x ∈ d.pad.epochs ∧ x.num = n :=
  ⟨List.mem_of_find?_eq_some h, by simpa using List.find?_some h⟩

/-- An epoch that is known is replaced where it stands. -/
theorem epochOf_putEpoch {d : Dev} {x y : Epoch} (h : epochOf d x.num = some y) : epochOf (putEpoch d x) x.num = some x := by
  obtain ⟨-, hy⟩ := epochOf_mem h
  unfold epochOf at h ⊢
  have hkeep : ((fun z : Epoch => z.num == x.num) ∘ fun z => if z.num = x.num then x else z) = fun z => z.num == x.num := by
    funext z
    by_cases hz : z.num = x.num <;> simp [hz]
  show (d.pad.epochs.map _).find? _ = _
  rw [List.find?_map, hkeep, h, Option.map_some, if_pos hy]

/-! ### Reports and completion (R485, R486) -/

/-- What stands while an epoch completes: memory, stalls, the epochs and who is to be told; commands only leave. -/
structure Finishes (d e : Dev) : Prop where
  mem : e.mem = d.mem
  stalls : e.stalls = d.stalls
  epochs : e.pad.epochs = d.pad.epochs
  complete : e.pad.complete = d.pad.complete
  role : e.pad.role = d.pad.role
  index : e.pad.index = d.pad.index
  modules : stageModules e = stageModules d
  twin : e.pad.twinOut = d.pad.twinOut
  grows : Grows d e
  cmds : ∀ c ∈ e.host.cmds, c ∈ d.host.cmds

theorem Finishes.refl (d : Dev) : Finishes d d := ⟨rfl, rfl, rfl, rfl, rfl, rfl, rfl, rfl, .refl d, fun _ h => h⟩

theorem Finishes.trans {d e f : Dev} (h : Finishes d e) (g : Finishes e f) : Finishes d f where
  mem := g.mem.trans h.mem
  stalls := g.stalls.trans h.stalls
  epochs := g.epochs.trans h.epochs
  complete := g.complete.trans h.complete
  role := g.role.trans h.role
  index := g.index.trans h.index
  modules := g.modules.trans h.modules
  twin := g.twin.trans h.twin
  grows := h.grows.trans g.grows
  cmds c hc := h.cmds c (g.cmds c hc)

theorem Concludes.finishes {d e : Dev} (h : Concludes d e) (hgrows : Grows d e) (hcmds : ∀ c ∈ e.host.cmds, c ∈ d.host.cmds) :
    Finishes d e := by
  unfold Concludes at h
  refine ⟨?_, ?_, ?_, ?_, ?_, ?_, ?_, ?_, hgrows, hcmds⟩ <;> rw [h]
  rfl

theorem finishes_of_cmds {d e : Dev} (h : Concludes d e) (hgrows : Grows d e) (hcmds : e.host.cmds = d.host.cmds) : Finishes d e :=
  h.finishes hgrows fun _ hc => hcmds ▸ hc

theorem cmds_freeRing (d : Dev) (r : Nat) : (freeRing d r).host.cmds = d.host.cmds := by
  have hsends := (freeFailed_spec (setRing d r none) fun p => p.1 == r).1
  unfold Sends at hsends
  unfold freeRing
  rw [hsends]
  rfl

theorem finishes_endCmd {d : Dev} (htwin : d.pad.twinOut = []) (c : Cmd) (e : Ends) :
    Finishes d (endCmd d c e) ∧ ∀ x ∈ (endCmd d c e).host.cmds, x.cid ≠ c.cid := by
  have hend : endCmd d c e = endNow d c e := if_pos htwin
  rw [hend]
  refine ⟨(concludes_endNow d c e).finishes (grows_endNow d c e) fun x hx => ?_, fun x hx => ?_⟩
  · rw [cmds_endNow] at hx
    exact List.mem_of_mem_filter hx
  · rw [cmds_endNow] at hx
    simpa using (List.mem_filter.1 hx).2

theorem finishes_drained {d : Dev} (htwin : d.pad.twinOut = []) (r : Nat) : Finishes d (drained d r) := by
  have hfree (e : Dev) : Finishes e (freeRing e r) :=
    finishes_of_cmds (concludes_freeRing e r) (grows_freeRing e r) (cmds_freeRing e r)
  unfold drained
  split
  · exact .refl d
  · split
    · exact .refl d
    · split
      · dsimp only
        split
        · exact (finishes_endCmd htwin _ _).1.trans (hfree _)
        · exact hfree _
      · exact .refl d

/-- What keeps the mirrored writes in flight empty, done to each of a list. -/
theorem finishes_foldl {α : Type} {f : Dev → α → Dev} (hf : ∀ d a, d.pad.twinOut = [] → Finishes d (f d a)) :
    ∀ (l : List α) (d : Dev), d.pad.twinOut = [] → Finishes d (l.foldl f d)
  | [], d, _ => .refl d
  | a :: l, d, h => (hf d a h).trans (finishes_foldl hf l (f d a) ((hf d a h).twin.trans h))

theorem finishes_finish {d : Dev} (htwin : d.pad.twinOut = []) (c : Cmd) (e : Ends) :
    Finishes d (finish d c e) ∧ ∀ x ∈ (finish d c e).host.cmds, x.cid ≠ c.cid := by
  obtain ⟨hend, hgone⟩ := finishes_endCmd htwin c e
  have hdrain : Finishes (endCmd d c e) (finish d c e) :=
    finishes_foldl (fun d _ h => finishes_foldl (fun d r h => finishes_drained h r) _ d h) _ _ (hend.twin.trans htwin)
  exact ⟨hend.trans hdrain, fun x hx => hgone x (hdrain.cmds x hx)⟩

theorem finishes_setFeed (d : Dev) (f : Feed) : Finishes d (setFeed d f) :=
  ⟨rfl, rfl, rfl, rfl, rfl, rfl, rfl, rfl, .same rfl rfl rfl rfl, fun _ h => h⟩

theorem finishes_markBusy (d : Dev) (id : Nat) (v : Bool) : Finishes d (markBusy d id v) := by
  unfold markBusy
  split
  · exact finishes_setFeed ..
  · exact .refl d

theorem finishes_setModelState (d : Dev) (id : Nat) (s : ModelState) : Finishes d (setModelState d id s) := by
  unfold setModelState
  split
  · exact finishes_setFeed ..
  · exact .refl d

theorem finishes_signals {d e : Dev} (h : Signals d e) (hgrows : Grows d e) : Finishes d e := by
  refine finishes_of_cmds h.concludes hgrows ?_
  unfold Signals at h
  rw [h]

theorem finishes_takeoverDone (d : Dev) (m entry : Nat) : Finishes d (takeoverDone d m entry) := by
  have hserve : Finishes d (if holdsIndex d m ∧ d.pad.twin = .inStep then setPad d { d.pad with twin := .serving } else d) := by
    split
    · exact ⟨rfl, rfl, rfl, rfl, rfl, rfl, rfl, rfl, .of rfl rfl rfl rfl rfl, fun _ h => h⟩
    · exact .refl d
  have hraise (e : Dev) : Finishes e (if follower e then e else raiseEvent e 0 6 0x33 m entry) := by
    split
    · exact .refl e
    · exact finishes_signals (signals_raiseEvent ..) (grows_raiseEvent ..)
  exact hserve.trans (hraise _)

theorem finishes_tellAll (d : Dev) (x : Message) : Finishes d (tellAll d x) :=
  finishes_signals (sends_tellAll ..).signals (grows_tellAll ..)

/-- The model that an epoch activates is Active. -/
def activated (x : Epoch) (d : Dev) : Dev :=
  match x.activates with
  | some id => setModelState (markBusy d id false) id .active
  | none => d

/-- The model that an epoch retires is Retiring. -/
def retired (x : Epoch) (d : Dev) : Dev :=
  match x.retires with
  | some id => setModelState (markBusy d id false) id .retiring
  | none => d

/-- The takeover that an epoch carries is done. -/
def taken (x : Epoch) (d : Dev) : Dev :=
  match x.takeover with
  | some (m, entry) => takeoverDone d m entry
  | none => d

theorem epochEffects_eq (d : Dev) (x : Epoch) : epochEffects d x =
    ((taken x (retired x (activated x d))).host.cmds.filter fun c => c.awaits == some x.num).foldl (fun d c =>
      finish d c { ends 0 with value0 := if dOpcode c.desc = 0x60 then d.pad.size else x.num.toNat })
      (taken x (retired x (activated x d))) := rfl

theorem finishes_activated (x : Epoch) (d : Dev) : Finishes d (activated x d) := by
  unfold activated
  split
  · exact (finishes_markBusy ..).trans (finishes_setModelState ..)
  · exact .refl d

theorem finishes_retired (x : Epoch) (d : Dev) : Finishes d (retired x d) := by
  unfold retired
  split
  · exact (finishes_markBusy ..).trans (finishes_setModelState ..)
  · exact .refl d

theorem finishes_taken (x : Epoch) (d : Dev) : Finishes d (taken x d) := by
  unfold taken
  split
  · exact finishes_takeoverDone ..
  · exact .refl d

/-- What the completion of an epoch does: no command that is left has waited for it. -/
theorem finishes_epochEffects {d : Dev} (htwin : d.pad.twinOut = []) (x : Epoch) :
    Finishes d (epochEffects d x) ∧ ∀ c ∈ (epochEffects d x).host.cmds, c.awaits ≠ some x.num := by
  have hends : ∀ (l : List Cmd) (d : Dev), d.pad.twinOut = [] →
      let e := l.foldl (fun d c => finish d c { ends 0 with value0 := if dOpcode c.desc = 0x60 then d.pad.size else x.num.toNat }) d
      Finishes d e ∧ ∀ c ∈ l, c ∉ e.host.cmds := by
    intro l
    induction l with
    | nil => exact fun d _ => ⟨.refl d, fun _ h => absurd h List.not_mem_nil⟩
    | cons a l ih =>
      intro d h
      obtain ⟨hone, hgone⟩ := finishes_finish h a { ends 0 with value0 := if dOpcode a.desc = 0x60 then d.pad.size else x.num.toNat }
      obtain ⟨hrest, hothers⟩ := ih _ (hone.twin.trans h)
      refine ⟨hone.trans hrest, fun c hc => ?_⟩
      rcases List.mem_cons.1 hc with rfl | hc
      · exact fun hin => hgone c (hrest.cmds c hin) rfl
      · exact hothers c hc
  rw [epochEffects_eq]
  have hmodels := (finishes_activated x d).trans ((finishes_retired x _).trans (finishes_taken x _))
  generalize taken x (retired x (activated x d)) = g at hmodels ⊢
  obtain ⟨hdone, hgone⟩ := hends (g.host.cmds.filter fun c => c.awaits == some x.num) g (hmodels.twin.trans htwin)
  refine ⟨hmodels.trans hdone, fun c hc hwait => hgone c (List.mem_filter.2 ⟨hdone.cmds c hc, by simp [hwait]⟩) hc⟩

theorem openEpochs_congr {d e : Dev} (h : e.pad.epochs = d.pad.epochs) : openEpochs e = openEpochs d := by
  unfold openEpochs
  rw [h]

theorem epochOf_congr {d e : Dev} (h : e.pad.epochs = d.pad.epochs) (n : W32) : epochOf e n = epochOf d n := by
  unfold epochOf
  rw [h]

/-- When every open epoch has the same number, none is open once that one is complete. -/
theorem openEpochs_completed {d : Dev} {n : W32} {x : Epoch} (hx : x.num = n) (h : ∀ z ∈ openEpochs d, z.num = n) :
    openEpochs (putEpoch d { x with complete := true }) = [] := by
  refine List.filter_eq_nil_iff.2 fun z hz => ?_
  obtain ⟨w, hw, rfl⟩ := List.mem_map.1 (show z ∈ d.pad.epochs.map _ from hz)
  by_cases hnum : w.num = x.num
  · rw [if_pos hnum]
    simp
  · rw [if_neg hnum]
    intro hopen
    exact hnum ((h w (List.mem_filter.2 ⟨hw, hopen⟩)).trans hx.symm)

theorem completeEpochs_none {d : Dev} (h : openEpochs d = []) (n : Nat) : completeEpochs n d = d := by
  cases n with
  | zero => rfl
  | succ n =>
    unfold completeEpochs
    rw [h]
    rfl

/-- The one epoch that is open has been reported by every module that counts: it completes, and the lead tells the others. -/
theorem completeEpochs_spec {d : Dev} {n : W32} (hne : openEpochs d ≠ [])
    (hall : ∀ z ∈ openEpochs d, z.num = n ∧ allReported d z = true) (htwin : d.pad.twinOut = []) (k : Nat) :
    let e := completeEpochs (k + 1) d
    e.mem = d.mem ∧ e.stalls = d.stalls ∧ e.pad.complete = n ∧ (epochOf e n).map (·.complete) = some true ∧
      (∀ c ∈ e.host.cmds, c.awaits ≠ some n) ∧
      (d.pad.role = .lead → ∀ m ∈ stageModules d, m ≠ d.pad.index → Tells m (.epochComplete n) d e) := by
  obtain ⟨x, l, hopen⟩ := List.exists_cons_of_ne_nil hne
  have hx : x ∈ openEpochs d := by rw [hopen]; exact List.mem_cons_self
  obtain ⟨rfl, hreported⟩ := hall x hx
  have hdone := openEpochs_completed rfl fun z hz => (hall z hz).1
  have hlisted : x ∈ d.pad.epochs := List.mem_of_mem_filter hx
  obtain ⟨y, hy⟩ : ∃ y, epochOf d x.num = some y := by
    rw [← Option.isSome_iff_exists]
    exact List.find?_isSome.2 ⟨x, hlisted, by simp⟩
  have hput := epochOf_putEpoch (x := { x with complete := true }) hy
  have hgrows : Grows d (setPad (putEpoch d { x with complete := true })
      { (putEpoch d { x with complete := true }).pad with complete := x.num }) := .of rfl rfl rfl rfl rfl
  have hstep : completeEpochs (k + 1) d = completeEpochs k (tellAll (epochEffects (setPad (putEpoch d { x with complete := true })
      { (putEpoch d { x with complete := true }).pad with complete := x.num }) { x with complete := true }) (.epochComplete x.num)) := by
    rw [completeEpochs, hopen]
    dsimp only [List.head?_cons]
    rw [if_neg (by simp [hreported])]
  obtain ⟨heffects, hawaits⟩ := finishes_epochEffects (d := setPad (putEpoch d { x with complete := true })
    { (putEpoch d { x with complete := true }).pad with complete := x.num }) htwin { x with complete := true }
  have hmodules : stageModules (setPad (putEpoch d { x with complete := true })
    { (putEpoch d { x with complete := true }).pad with complete := x.num }) = stageModules d := rfl
  have hepochs : (setPad (putEpoch d { x with complete := true })
    { (putEpoch d { x with complete := true }).pad with complete := x.num }).pad.epochs =
      (putEpoch d { x with complete := true }).pad.epochs := rfl
  intro e
  have he : e = completeEpochs (k + 1) d := rfl
  clear_value e
  rw [hstep] at he
  have hold : ∀ f, f = setPad (putEpoch d { x with complete := true })
      { (putEpoch d { x with complete := true }).pad with complete := x.num } →
      f.mem = d.mem ∧ f.stalls = d.stalls ∧ f.pad.complete = x.num ∧ f.pad.role = d.pad.role ∧ f.pad.index = d.pad.index := by
    rintro f rfl
    exact ⟨rfl, rfl, rfl, rfl, rfl⟩
  obtain ⟨omem, ostalls, ocomplete, orole, oindex⟩ := hold _ rfl
  generalize setPad (putEpoch d { x with complete := true })
    { (putEpoch d { x with complete := true }).pad with complete := x.num } = f at *
  generalize epochEffects f { x with complete := true } = g at *
  have htell := finishes_tellAll g (.epochComplete x.num)
  have hfinal := heffects.trans htell
  rw [completeEpochs_none (by rw [openEpochs_congr (hfinal.epochs.trans hepochs)]; exact hdone)] at he
  subst he
  refine ⟨hfinal.mem.trans omem, hfinal.stalls.trans ostalls, hfinal.complete.trans ocomplete, ?_,
    fun c hc => hawaits c (htell.cmds c hc), fun hrole m hm hnot => ?_⟩
  · rw [epochOf_congr (hfinal.epochs.trans hepochs), hput]
    rfl
  · refine (tellAll_tells (heffects.role.trans (orole.trans hrole)) m ?_ ?_).mono (hgrows.trans heffects.grows) (.refl _)
    · rwa [heffects.modules, hmodules]
    · rwa [heffects.index, oindex]

/-- An epoch with one more module's report of an epoch at or after it. -/
def reportedBy (m : Nat) (n : W32) (x : Epoch) : Epoch :=
  if reached n x.num ∧ x.complete = false ∧ x.reports.contains m = false then { x with reports := x.reports ++ [m] } else x

theorem reportEpoch_eq (d : Dev) (m : Nat) (n : W32) :
    reportEpoch d m n = setPad d { d.pad with epochs := d.pad.epochs.map (reportedBy m n) } := rfl

theorem reportedBy_keeps (m : Nat) (n : W32) (x : Epoch) : (reportedBy m n x).num = x.num ∧ (reportedBy m n x).complete = x.complete ∧
    (∀ k ∈ x.reports, k ∈ (reportedBy m n x).reports) ∧
    (x.num = n → x.complete = false → m ∈ (reportedBy m n x).reports) := by
  unfold reportedBy
  split
  · exact ⟨rfl, rfl, fun k hk => List.mem_append_left _ hk, fun _ _ => List.mem_append_right _ List.mem_cons_self⟩
  · next h =>
    refine ⟨rfl, rfl, fun _ hk => hk, fun hn hopen => ?_⟩
    subst hn
    simpa [reached_self, hopen] using h

/-- The module whose report was the last that an epoch waited for. -/
theorem lastReport_completes {d : Dev} {m : Nat} {n : W32} (hsome : ∃ z ∈ d.pad.epochs, z.complete = false)
    (hopen : ∀ z ∈ d.pad.epochs, z.complete = false → z.num = n ∧
      ∀ k ∈ stageModules d, k = m ∨ k ∈ z.reports ∨ countsFor d n k = false) (htwin : d.pad.twinOut = []) :
    let e := completeEpochs 16 (reportEpoch d m n)
    e.mem = d.mem ∧ e.stalls = d.stalls ∧ e.pad.complete = n ∧ (epochOf e n).map (·.complete) = some true ∧
      (∀ c ∈ e.host.cmds, c.awaits ≠ some n) ∧
      (d.pad.role = .lead → ∀ k ∈ stageModules d, k ≠ d.pad.index → Tells k (.epochComplete n) d e) := by
  have hgrows : Grows d (reportEpoch d m n) := .of rfl rfl rfl rfl rfl
  have hne : openEpochs (reportEpoch d m n) ≠ [] := by
    obtain ⟨z, hz, hzopen⟩ := hsome
    refine List.ne_nil_of_mem (a := reportedBy m n z) (List.mem_filter.2 ⟨List.mem_map_of_mem hz, ?_⟩)
    rw [(reportedBy_keeps m n z).2.1, hzopen]
    rfl
  have hall : ∀ z ∈ openEpochs (reportEpoch d m n), z.num = n ∧ allReported (reportEpoch d m n) z = true := by
    intro z hz
    obtain ⟨hmem, hzopen⟩ := List.mem_filter.1 hz
    obtain ⟨w, hw, rfl⟩ := List.mem_map.1 (show z ∈ d.pad.epochs.map (reportedBy m n) from hmem)
    obtain ⟨hnum, hcomplete, hkept, hnew⟩ := reportedBy_keeps m n w
    have hwopen : w.complete = false := by simpa [hcomplete] using hzopen
    obtain ⟨hwn, hwall⟩ := hopen w hw hwopen
    refine ⟨hnum.trans hwn, List.all_eq_true.2 fun k hk => ?_⟩
    have hcount : countsFor (reportEpoch d m n) (reportedBy m n w).num k = countsFor d n k := by
      rw [hnum, hwn]
      rfl
    rcases hwall k hk with rfl | hin | hnot
    · rw [List.contains_iff_mem.2 (hnew hwn hwopen), Bool.or_true]
    · rw [List.contains_iff_mem.2 (hkept k hin), Bool.or_true]
    · rw [hcount, hnot]
      rfl
  obtain ⟨hmem, hstalls, hcomplete, hepoch, hcmds, htells⟩ := completeEpochs_spec hne hall htwin 15
  exact ⟨hmem, hstalls, hcomplete, hepoch, hcmds, fun hrole k hk hnot => (htells hrole k hk hnot).mono hgrows (.refl _)⟩

/-- What follows a command leaves a completed epoch as it is. -/
theorem completed_leaves {d f g : Dev} {n : W32} (hmem : f.mem = d.mem) (hstalls : f.stalls = d.stalls) (hcomplete : f.pad.complete = n)
    (hepoch : (epochOf f n).map (·.complete) = some true) (hcmds : ∀ c ∈ f.host.cmds, c.awaits ≠ some n) (hl : Leaves f g) :
    g.mem = d.mem ∧ g.stalls = d.stalls ∧ g.pad.complete = n ∧ (epochOf g n).map (·.complete) = some true ∧
      ∀ c ∈ g.host.cmds, c.awaits ≠ some n := by
  rw [hl.frame]
  exact ⟨hmem, hstalls, hcomplete, hepoch, hcmds⟩

/-! ### A new epoch (R482 to R484) -/

theorem makeLives_spec (l : List Nat) : ∀ d : Dev,
    let e := l.foldl makeLive d
    e = { d with banks := e.banks } ∧
      (∀ b, (bankOf d b).state = .live → (bankOf e b).state = .live) ∧
      (∀ b, (bankOf d b).state = .ready → (bankOf e b).state = .ready ∨ (bankOf e b).state = .live) ∧
      ∀ k ∈ l, (bankOf d (livePhys d k)).state = .ready → (bankOf e (livePhys d k)).state = .live := by
  induction l with
  | nil => exact fun d => ⟨rfl, fun _ h => h, fun _ h => .inl h, fun _ h => absurd h List.not_mem_nil⟩
  | cons k l ih =>
    intro d
    have hone (b : Nat) : bankOf (makeLive d k) b = if b = livePhys d k then
        (if (bankOf d (livePhys d k)).state = .ready then { bankOf d (livePhys d k) with state := .live } else bankOf d (livePhys d k))
        else bankOf d b := bankOf_modBank ..
    have hlive : ∀ b, (bankOf d b).state = .live → (bankOf (makeLive d k) b).state = .live := by
      intro b hb
      rw [hone]
      split
      · next h =>
        subst h
        rw [if_neg (by simp [hb]), hb]
      · exact hb
    have hready : ∀ b, (bankOf d b).state = .ready → (bankOf (makeLive d k) b).state = if b = livePhys d k then .live else .ready := by
      intro b hb
      rw [hone]
      split
      · next h =>
        subst h
        rw [if_pos hb]
      · exact hb
    obtain ⟨hframe, hkeeps, hmay, hdoes⟩ := ih (makeLive d k)
    refine ⟨hframe, fun b hb => hkeeps b (hlive b hb), fun b hb => ?_, fun j hj hb => ?_⟩
    · have h := hready b hb
      split at h
      · exact .inr (hkeeps b h)
      · exact hmay b h
    · have h := hready _ hb
      by_cases heq : livePhys d j = livePhys d k
      · rw [if_pos heq] at h
        exact hkeeps _ h
      · rw [if_neg heq] at h
        rcases List.mem_cons.1 hj with rfl | hj
        · exact absurd rfl heq
        · exact hdoes j hj h

/-- An epoch as it is requested. -/
def requestedEpoch (num : W32) (s : Settings) (o : EpochOffer) (mine : Bool) (fits : List (Nat × Corr)) : Epoch :=
  { num := num, set := s, reports := [], moduleDone := false, complete := false, slow := false, activates := o.activate
    retires := o.retire, takeover := o.takeover, refit := mine, fits := fits }

/-- An epoch enters a module: of the module only banks and the farrier's fits change beside the list of epochs. -/
theorem enterEpoch_spec (d : Dev) (num : W32) (o : EpochOffer) :
    ∃ x : Epoch, x.num = num ∧ x.complete = false ∧ x.reports = [] ∧ x.set = applyWant d o (settingsOf d d.pad.requested) ∧
      x.activates = o.activate ∧ x.retires = o.retire ∧ x.takeover = o.takeover ∧
      enterEpoch d num o = { d with
        banks := (enterEpoch d num o).banks
        pad := { d.pad with epochs := d.pad.epochs ++ [x], requested := num }
        sense := { d.sense with refits := (enterEpoch d num o).sense.refits } } ∧
      ∀ k ∈ x.set.live.map Prod.fst, (bankOf d (livePhys d k)).state = .ready →
        (bankOf (enterEpoch d num o) (livePhys d k)).state = .live := by
  let mine := o.refit && holdsIndex d o.target
  let x := requestedEpoch num (applyWant d o (settingsOf d d.pad.requested)) o mine (if mine then o.fits ++ heldFits d else [])
  obtain ⟨hframe, -, -, hlive⟩ := makeLives_spec (x.set.live.map Prod.fst)
    (setPad d { d.pad with epochs := d.pad.epochs ++ [x], requested := num })
  have henter : enterEpoch d num o = if mine ∧ refitTold d then
      { (x.set.live.map Prod.fst).foldl makeLive (setPad d { d.pad with epochs := d.pad.epochs ++ [x], requested := num }) with
        sense := { ((x.set.live.map Prod.fst).foldl makeLive (setPad d { d.pad with
          epochs := d.pad.epochs ++ [x], requested := num })).sense with refits := none } }
      else (x.set.live.map Prod.fst).foldl makeLive (setPad d { d.pad with epochs := d.pad.epochs ++ [x], requested := num }) := rfl
  refine ⟨x, rfl, rfl, rfl, rfl, rfl, rfl, rfl, ?_⟩
  generalize (x.set.live.map Prod.fst).foldl makeLive (setPad d { d.pad with epochs := d.pad.epochs ++ [x], requested := num }) = f
    at hframe hlive henter
  rw [henter]
  split
  · refine ⟨?_, hlive⟩
    rw [hframe]
    rfl
  · refine ⟨?_, hlive⟩
    rw [hframe]
    rfl

/-! ### Posting (R487, R572) -/

/-- Of every bank only the corrections that wait may have changed. -/
def Posts (d e : Dev) : Prop :=
  e = { d with banks := e.banks } ∧ ∀ k, bankOf e k = { bankOf d k with pend := (bankOf e k).pend, fit := (bankOf e k).fit }

theorem Posts.refl (d : Dev) : Posts d d := ⟨rfl, fun _ => rfl⟩

theorem Posts.trans {d e f : Dev} (h : Posts d e) (g : Posts e f) : Posts d f := by
  obtain ⟨hframe, hbanks⟩ := h
  obtain ⟨gframe, gbanks⟩ := g
  refine ⟨?_, fun k => ?_⟩
  · rw [hframe] at gframe
    exact gframe
  · have hk := gbanks k
    rw [hbanks k] at hk
    exact hk

theorem posts_foldl {α : Type} {f : Dev → α → Dev} (hf : ∀ d a, Posts d (f d a)) :
    ∀ (l : List α) (d : Dev), Posts d (l.foldl f d)
  | [], d => .refl d
  | a :: l, d => (hf d a).trans (posts_foldl hf l (f d a))

theorem posts_postFits (d : Dev) (st : Nat) (ns : List W32) : Posts d (postFits d st ns) := by
  refine posts_foldl (fun d x => posts_foldl (fun d f => ⟨rfl, fun k => ?_⟩) _ _) _ _
  rw [bankOf_modBank]
  split
  · next h => rw [h]
  · rfl

theorem postStalls_spec (n : W32) (l : List Nat) : ∀ d : Dev,
    let e := l.foldl (postStall n) d
    e = { d with stalls := e.stalls, banks := e.banks } ∧
      (∀ st, stallOf e st = { stallOf d st with posted := if st ∈ l then some n else (stallOf d st).posted }) ∧
      ∀ k, bankOf e k = { bankOf d k with pend := (bankOf e k).pend, fit := (bankOf e k).fit } := by
  induction l with
  | nil => exact fun d => ⟨rfl, fun st => by simp, fun _ => rfl⟩
  | cons j l ih =>
    intro d e
    obtain ⟨hframe, hstalls, hbanks⟩ := ih (postStall n d j)
    have he : l.foldl (postStall n) (postStall n d j) = e := rfl
    rw [he] at hframe hstalls hbanks
    clear_value e
    obtain ⟨pframe, pbanks⟩ := posts_postFits d j (epochsTo d j n)
    have hfits (st : Nat) : stallOf (postFits d j (epochsTo d j n)) st = stallOf d st :=
      stallOf_congr (congrArg Dev.stalls pframe) st
    have hposted : postStall n d j = { d with stalls := (postStall n d j).stalls, banks := (postFits d j (epochsTo d j n)).banks } := by
      unfold postStall modStall setStall
      rw [pframe]
    have hone (st : Nat) : stallOf (postStall n d j) st =
        { stallOf d st with posted := if st = j then some n else (stallOf d st).posted } := by
      by_cases h : st = j
      · subst h
        rw [postStall, stallOf_modStall_self, hfits, if_pos rfl]
      · rw [postStall, stallOf_modStall_ne _ _ h, hfits, if_neg h]
    refine ⟨?_, fun st => ?_, fun k => ?_⟩
    · rw [hframe, hposted]
    · rw [hstalls, hone]
      by_cases hj : st = j
      · simp [hj]
      · simp [hj]
    · have hk := hbanks k
      rw [show bankOf (postStall n d j) k = bankOf (postFits d j (epochsTo d j n)) k from
        bankOf_congr (by rw [hposted]) k, pbanks k] at hk
      exact hk

theorem limiterStep_frame (d : Dev) : limiterStep d = { d with pad := { d.pad with limiterEpoch := (limiterStep d).pad.limiterEpoch } } := by
  unfold limiterStep
  dsimp only
  split <;> rfl

/-- What the post of an epoch does, where it has some effect. -/
theorem postEpoch_spec {d : Dev} {n : W32} (h : (d.pad.limiterPosted == n || reached d.pad.limiterPosted n) = false ∨
      ∃ st, st < 1024 ∧ mayPost d n st = true) :
    ∃ e, postEpoch d n = some e ∧
      e = { d with
        stalls := e.stalls, banks := e.banks
        pad := { d.pad with
          limiterEpoch := e.pad.limiterEpoch, limiterPosted := e.pad.limiterPosted, farrierPosted := e.pad.farrierPosted } } ∧
      (∀ st, stallOf e st =
        { stallOf d st with posted := if st < 1024 ∧ mayPost d n st = true then some n else (stallOf d st).posted }) ∧
      (∀ k, bankOf e k = { bankOf d k with pend := (bankOf e k).pend, fit := (bankOf e k).fit }) ∧
      ((d.pad.limiterPosted == n || reached d.pad.limiterPosted n) = false → e.pad.limiterPosted = n ∧ e.pad.farrierPosted = n) := by
  have hlisted (st : Nat) : st ∈ (List.range stallCount).filter (mayPost d n) ↔ st < 1024 ∧ mayPost d n st = true := by
    rw [List.mem_filter, List.mem_range]
    exact Iff.rfl
  have hdoes : ¬ ((!(d.pad.limiterPosted == n || reached d.pad.limiterPosted n)) = false ∧
      (List.range stallCount).filter (mayPost d n) = []) := by
    rintro ⟨hold, hnone⟩
    rcases h with h | ⟨st, hst⟩
    · rw [h] at hold
      exact absurd hold (by decide)
    · exact List.ne_nil_of_mem ((hlisted st).2 hst) hnone
  unfold postEpoch
  dsimp only
  rw [if_neg hdoes]
  generalize hpost : (List.range stallCount).filter (mayPost d n) = sts at hlisted
  have hframe : ∀ g : Dev, g = (if (!(d.pad.limiterPosted == n || reached d.pad.limiterPosted n)) = true then
      setPad d { d.pad with limiterPosted := n, farrierPosted := n } else d) →
      g = { d with pad := { d.pad with limiterPosted := g.pad.limiterPosted, farrierPosted := g.pad.farrierPosted } } ∧
      ((d.pad.limiterPosted == n || reached d.pad.limiterPosted n) = false → g.pad.limiterPosted = n ∧ g.pad.farrierPosted = n) := by
    rintro g rfl
    split
    · exact ⟨rfl, fun _ => ⟨rfl, rfl⟩⟩
    · next hold =>
      refine ⟨rfl, fun hfresh => ?_⟩
      rw [hfresh] at hold
      exact absurd rfl hold
  obtain ⟨gframe, gposted⟩ := hframe _ rfl
  generalize (if (!(d.pad.limiterPosted == n || reached d.pad.limiterPosted n)) = true then
      setPad d { d.pad with limiterPosted := n, farrierPosted := n } else d) = g at gframe gposted ⊢
  obtain ⟨pframe, pstalls, pbanks⟩ := postStalls_spec n sts g
  refine ⟨_, rfl, ?_⟩
  generalize sts.foldl (postStall n) g = p at pframe pstalls pbanks ⊢
  have lframe := limiterStep_frame p
  generalize limiterStep p = e at lframe ⊢
  refine ⟨?_, fun st => ?_, fun k => ?_, fun hfresh => ?_⟩
  · rw [lframe, pframe, gframe]
  · have hst := pstalls st
    rw [show stallOf e st = stallOf p st from stallOf_congr (by rw [lframe]) st, hst,
      show stallOf g st = stallOf d st from stallOf_congr (by rw [gframe]) st]
    simp only [hlisted]
  · have hk := pbanks k
    rw [show bankOf e k = bankOf p k from bankOf_congr (by rw [lframe]) k]
    rw [show bankOf g k = bankOf d k from bankOf_congr (by rw [gframe]) k] at hk
    exact hk
  · rw [lframe, pframe]
    exact gposted hfresh

/-! ### Retirement and lateness (R489, R490) -/

theorem dropBanks_spec (l : List Nat) : ∀ d : Dev,
    let e := l.foldl dropBank d
    e = { d with banks := e.banks } ∧ ∀ k, (bankOf e k).state = (bankOf d k).state ∨
      ((bankOf d k).state = .live ∧ (bankOf e k).state = .ready) := by
  induction l with
  | nil => exact fun d => ⟨rfl, fun _ => .inl rfl⟩
  | cons j l ih =>
    intro d e
    obtain ⟨hframe, hbanks⟩ := ih (dropBank d j)
    have he : l.foldl dropBank (dropBank d j) = e := rfl
    rw [he] at hframe hbanks
    clear_value e
    have hone : dropBank d j = { d with banks := (dropBank d j).banks } ∧ ∀ k, (bankOf (dropBank d j) k).state = (bankOf d k).state ∨
        ((bankOf d k).state = .live ∧ (bankOf (dropBank d j) k).state = .ready) := by
      unfold dropBank
      split
      · exact ⟨rfl, fun _ => .inl rfl⟩
      · refine ⟨rfl, fun k => ?_⟩
        rw [bankOf_modBank]
        split
        · next hk =>
          subst hk
          split
          · next hlive => exact .inr ⟨hlive, rfl⟩
          · exact .inl rfl
        · exact .inl rfl
    obtain ⟨dframe, dbanks⟩ := hone
    refine ⟨by rw [hframe, dframe], fun k => ?_⟩
    rcases hbanks k with h | ⟨hlive, hready⟩
    · rw [h]
      exact dbanks k
    · rcases dbanks k with g | ⟨-, g⟩
      · exact .inr ⟨g ▸ hlive, hready⟩
      · rw [g] at hlive
        exact absurd hlive (by decide)

theorem freeRetired_frame (d : Dev) : freeRetired d = { d with feed := { d.feed with models := (freeRetired d).feed.models } } := by
  have hdrops : ∀ (l : List Model) (d : Dev), l.foldl (fun d m => dropModel d m.id) d =
      { d with feed := { d.feed with models := (l.foldl (fun d m => dropModel d m.id) d).feed.models } } := by
    intro l
    induction l with
    | nil => exact fun _ => rfl
    | cons m l ih => exact fun d => ih (dropModel d m.id)
  exact hdrops _ d

theorem epochRetire_spec {d : Dev} {x : Epoch} {rest : List Epoch} {g : Dev}
    (hl : Leaves (tellAll (freeRetired ((x.set.live.map (·.1)).foldl dropBank (setPad d { d.pad with epochs := rest })))
      (.epochRetired x.num)) g) :
    g.pad.epochs = rest ∧ g.pad.requested = d.pad.requested ∧ g.pad.complete = d.pad.complete ∧ g.stalls = d.stalls ∧ g.mem = d.mem ∧
      ∀ k, (bankOf g k).state = (bankOf d k).state ∨ ((bankOf d k).state = .live ∧ (bankOf g k).state = .ready) := by
  obtain ⟨bframe, bbanks⟩ := dropBanks_spec (x.set.live.map (·.1)) (setPad d { d.pad with epochs := rest })
  generalize (x.set.live.map (·.1)).foldl dropBank (setPad d { d.pad with epochs := rest }) = b at *
  have fframe := freeRetired_frame b
  generalize freeRetired b = f at *
  have hsends := sends_tellAll f (.epochRetired x.num)
  generalize tellAll f (.epochRetired x.num) = t at *
  unfold Sends at hsends
  have hframe := hl.frame
  rw [hsends, fframe, bframe] at hframe
  have hbanks : g.banks = b.banks := by rw [hframe]
  refine ⟨by rw [hframe]; rfl, by rw [hframe]; rfl, by rw [hframe]; rfl, by rw [hframe]; rfl, by rw [hframe]; rfl, fun k => ?_⟩
  rw [bankOf_congr hbanks]
  exact bbanks k

/-! ### The clauses -/

/-- The command of a wanted epoch waits for it. -/
def wantNoted (w : Want) (num : W32) (d : Dev) : Dev :=
  match w.cid.bind (cmdOf d) with
  | some c => putCmd d { c with awaits := some num }
  | none => d

theorem wantNoted_spec (w : Want) (num : W32) (d : Dev) : Concludes d (wantNoted w num d) ∧ Grows d (wantNoted w num d) ∧
    (wantNoted w num d).pad = d.pad ∧
    ∀ cid c, w.cid = some cid → cmdOf d cid = some c → cmdOf (wantNoted w num d) cid = some { c with awaits := some num } := by
  unfold wantNoted
  cases hwant : w.cid.bind (cmdOf d) with
  | none =>
    refine ⟨.refl d, .refl d, rfl, fun cid c hcid hc => ?_⟩
    rw [hcid, Option.bind_some, hc] at hwant
    exact absurd hwant (by simp)
  | some y =>
    refine ⟨concludes_putCmd .., grows_setCmds .., rfl, fun cid c hcid hc => ?_⟩
    rw [hcid, Option.bind_some, hc] at hwant
    obtain rfl := Option.some.inj hwant
    have hid := cmdOf_cid hc
    exact cmdOf_putCmd_self (f := { c with awaits := some num }) hc hid

theorem epochRequest_spec {d g : Dev} {w : Want} {ws : List Want} {num : W32}
    (hl : Leaves (tellAll (wantNoted w num (enterEpoch (setPad d { d.pad with wants := ws }) num w.offer))
      (.epochRequest num { w.offer with fits := [] })) g) :
    g.pad.wants = ws ∧ g.pad.requested = num ∧ g.stalls = d.stalls ∧ g.mem = d.mem ∧
      (∀ cid c, w.cid = some cid → cmdOf d cid = some c → cmdOf g cid = some { c with awaits := some num }) ∧
      (d.pad.role = .lead → ∀ m ∈ stageModules d, m ≠ d.pad.index →
        Tells m (.epochRequest num { w.offer with fits := [] }) d g) ∧
      ∃ x, g.pad.epochs = d.pad.epochs ++ [x] ∧ x.num = num ∧ x.complete = false ∧ x.reports = [] ∧
        x.set = applyWant d w.offer (settingsOf d d.pad.requested) ∧ x.activates = w.activate ∧
        x.retires = w.retire ∧ x.takeover = w.takeover ∧
        ∀ k ∈ x.set.live.map Prod.fst, (bankOf d (livePhys d k)).state = .ready →
          (bankOf g (livePhys d k)).state = .live := by
  refine under_name fun named shown => ?_
  obtain ⟨x, hnum, hopen, hreports, hset, hact, hret, htake, hframe, hlive⟩ :=
    enterEpoch_spec (setPad d { d.pad with wants := ws }) num w.offer
  generalize enterEpoch (setPad d { d.pad with wants := ws }) num w.offer = e at *
  have hfix : e = { d with
      banks := e.banks, pad := { d.pad with epochs := d.pad.epochs ++ [x], requested := num, wants := ws }
      sense := { d.sense with refits := e.sense.refits } } := hframe
  obtain ⟨hnoted, hngrows, hnpad, hncmds⟩ := wantNoted_spec w num e
  generalize wantNoted w num e = f at *
  have hsends := sends_tellAll f (.epochRequest num { w.offer with fits := [] })
  have htells (hrole : f.pad.role = .lead) := tellAll_tells (x := .epochRequest num { w.offer with fits := [] }) hrole
  generalize tellAll f (.epochRequest num { w.offer with fits := [] }) = t at *
  have hpad : g.pad.wants = f.pad.wants ∧ g.pad.requested = f.pad.requested ∧ g.pad.epochs = f.pad.epochs := by
    have hgf := hl.frame
    unfold Sends at hsends
    rw [hsends] at hgf
    rw [hgf]
    exact ⟨rfl, rfl, rfl⟩
  have hcmds : e.host.cmds = d.host.cmds := by rw [hfix]
  have hgrows : Grows d e := by
    refine .of ?_ ?_ ?_ ?_ ?_ <;> rw [hfix]
    rfl
  refine shown ⟨?_, ?_, ?_, ?_, fun cid c hcid hc => ?_, fun hrole m hm hne => ?_, x, ?_, hnum, hopen, hreports, hset, hact, hret, htake, ?_⟩
  · rw [hpad.1, hnpad, hfix]
  · rw [hpad.2.1, hnpad, hfix]
  · rw [hl.stalls, hsends.signals.concludes.stalls, hnoted.stalls, hfix]
  · rw [hl.mem, hsends.signals.concludes.mem, hnoted.mem, hfix]
  · rw [hl.cmdOf, cmdOf_congr (by rw [hsends])]
    exact hncmds cid c hcid ((cmdOf_congr hcmds cid).trans hc)
  · have hmodules : stageModules f = stageModules d := by
      unfold stageModules memberIndices
      rw [hnpad, hfix]
    have hplace : f.pad.role = d.pad.role ∧ f.pad.index = d.pad.index := by
      rw [hnpad, hfix]
      exact ⟨rfl, rfl⟩
    refine (htells (hplace.1.trans hrole) m ?_ ?_).mono (hgrows.trans hngrows) hl.grows
    · rwa [hmodules]
    · rwa [hplace.2]
  · rw [hpad.2.2, hnpad, hfix]
  · intro k hk hready
    rw [bankOf_congr (hl.banks.trans (hsends.signals.concludes.banks.trans hnoted.banks))]
    exact hlive k hk hready

/-- The first post of an epoch brings the lead's request. -/
theorem firstPost_spec {d : Dev} {n : W32} {o : EpochOffer} (hnew : reached d.pad.limiterPosted n = false) :
    ∃ e, postEpoch (enterEpoch d n { o with fits := [] }) n = some e ∧ ∀ g, Leaves e g →
      g.mem = d.mem ∧ g.pad.requested = n ∧ g.pad.limiterPosted = n ∧ g.pad.farrierPosted = n ∧
        ∃ x, g.pad.epochs = d.pad.epochs ++ [x] ∧ x.num = n ∧
          x.set = applyWant d { o with fits := [] } (settingsOf d d.pad.requested) ∧ x.complete = false := by
  refine under_name fun named shown => ?_
  obtain ⟨x, hnum, hopen, -, hset, -, -, -, hframe, -⟩ := enterEpoch_spec d n { o with fits := [] }
  generalize enterEpoch d n { o with fits := [] } = f at *
  have hfresh : (f.pad.limiterPosted == n || reached f.pad.limiterPosted n) = false := by
    have hne : f.pad.limiterPosted ≠ n := by
      rw [hframe]
      intro heq
      rw [show d.pad.limiterPosted = n from heq, reached_self] at hnew
      exact absurd hnew (by decide)
    rw [Bool.or_eq_false_iff]
    refine ⟨by simpa using hne, ?_⟩
    rw [hframe]
    exact hnew
  obtain ⟨e, he, eframe, -, -, hposted⟩ := postEpoch_spec (.inl hfresh)
  obtain ⟨hlimiter, hfarrier⟩ := hposted hfresh
  refine shown ⟨e, he, fun g hl => ?_⟩
  have hg := hl.frame
  rw [hg, eframe, hframe]
  exact ⟨rfl, rfl, hlimiter, hfarrier, x, rfl, hnum, hset, hopen⟩

theorem putEpoch_done {d : Dev} {n : W32} {x : Epoch} (hx : epochOf d n = some x) (hopen : openEpochs d = [x]) :
    (∃ z ∈ (putEpoch d { x with moduleDone := true }).pad.epochs, z.complete = false) ∧
      ∀ z ∈ (putEpoch d { x with moduleDone := true }).pad.epochs, z.complete = false → z.num = n := by
  obtain ⟨hmem, hnum⟩ := epochOf_mem hx
  have hxopen : x.complete = false := by
    have h : x ∈ openEpochs d := by rw [hopen]; exact List.mem_cons_self
    simpa using (List.mem_filter.1 h).2
  refine ⟨⟨{ x with moduleDone := true }, List.mem_map.2 ⟨x, hmem, if_pos rfl⟩, hxopen⟩, fun z hz hzopen => ?_⟩
  obtain ⟨w, hw, rfl⟩ := List.mem_map.1 hz
  split at hzopen
  · next h => rwa [if_pos h]
  · next h =>
    have hin : w ∈ openEpochs d := List.mem_filter.2 ⟨hw, by simp [hzopen]⟩
    rw [hopen, List.mem_singleton] at hin
    exact absurd (congrArg Epoch.num hin) h

/-- Settles O49. -/
theorem epochsAreRequestedPostedAndRetired : Obligations.EpochsAreRequestedPostedAndRetired := by
  refine ⟨fun w ws num => ?_, fun n offer => ?_, fun n o => ?_, fun st => ?_, fun n x => ?_, fun n x m => ?_, fun n x m => ?_,
    fun n elsewhere x rest => ?_, fun n unit x => ?_⟩
  · refine answers_leaves (fun s => show execEpochRequest s = _ from rfl) ?_
    intro d hpre
    refine under_name fun named shown => ?_
    obtain ⟨hlead, hwants, hroom, rfl⟩ := hpre
    refine shown ⟨tellAll (wantNoted w (w.base.getD d.pad.requested + 1) (enterEpoch (setPad d { d.pad with wants := ws })
      (w.base.getD d.pad.requested + 1) w.offer)) (.epochRequest (w.base.getD d.pad.requested + 1) { w.offer with fits := [] }),
      ?_, fun g hl => epochRequest_spec hl⟩
    rw [hwants]
    dsimp only
    rw [if_neg (by simp [hlead]; omega)]
    rfl
  · refine answers_leaves (fun s => show execEpochPost n offer s = _ from rfl) ?_
    rintro d ⟨hknown, hsome⟩
    refine under_name fun named shown => ?_
    obtain ⟨e, he, hframe, hstalls, hbanks, -⟩ := postEpoch_spec (.inr hsome)
    refine shown ⟨e, by rw [if_pos hknown, he], fun g hl => ?_⟩
    refine ⟨?_, ?_, fun st => ?_, fun st hst => ?_, fun k => ?_⟩
    · rw [hl.mem, hframe]
    · rw [hl.frame, hframe]
    · rw [stallOf_congr hl.stalls, hstalls]
    · rw [stallOf_congr hl.stalls, hstalls]
      simp [hst]
    · rw [bankOf_congr hl.banks]
      exact hbanks k
  · refine answers_leaves (fun s => show execEpochPost n (some o) s = _ from rfl) ?_
    intro d hpre
    refine under_name fun named shown => ?_
    obtain ⟨hfollows, hunknown, hlater, hnew⟩ := hpre
    obtain ⟨e, he, hpost⟩ := firstPost_spec (o := o) hnew
    refine shown ⟨e, ?_, hpost⟩
    rw [if_neg (by simp [hunknown])]
    dsimp only
    rw [if_pos ⟨hfollows, hlater⟩, he]
  · refine answers_onDev (fun s => show execStallEpochReport st s = _ from rfl) ?_
    rintro d ⟨hthere, hnew⟩
    refine ⟨_, if_neg (by simp [hthere, hnew]), ?_⟩
    have hframe := limiterStep_frame (modStall d st fun y => { y with reported := y.epoch })
    generalize limiterStep (modStall d st fun y => { y with reported := y.epoch }) = e at hframe
    have hstalls : e.stalls = (modStall d st fun y => { y with reported := y.epoch }).stalls := by rw [hframe]
    refine ⟨?_, ?_, ?_, ?_, fun k hk => ?_⟩
    · show e.mem = _
      rw [hframe]
      rfl
    · show e.banks = _
      rw [hframe]
      rfl
    · show e.pad.epochs = _
      rw [hframe]
      rfl
    · exact (stallOf_congr hstalls st).trans (stallOf_modStall_self ..)
    · exact (stallOf_congr hstalls k).trans (stallOf_modStall_ne _ _ hk)
  · refine answers_leaves (fun s => show execModuleEpochReport 0 n s = _ from rfl) ?_
    intro d hpre
    refine under_name fun named shown => ?_
    obtain ⟨hrole, hindex, hx, hnew, hopen, hunits, hmodules, htwin⟩ := hpre
    obtain ⟨hsome, hnum⟩ := putEpoch_done hx hopen
    obtain ⟨hmem, hstalls, hcomplete, hepoch, hcmds, -⟩ := lastReport_completes (m := 0) (n := n) hsome
      (fun z hz hzopen => ⟨hnum z hz hzopen, fun k hk => .inl (by
        rw [show stageModules (putEpoch d { x with moduleDone := true }) = stageModules d from rfl, hmodules] at hk
        simpa using hk)⟩) htwin
    refine shown ⟨completeEpochs 16 (reportEpoch (putEpoch d { x with moduleDone := true }) 0 n), ?_,
      fun g => completed_leaves hmem hstalls hcomplete hepoch hcmds⟩
    rw [hx]
    dsimp only
    have hlead : follower (putEpoch d { x with moduleDone := true }) = false := by
      show follower d = false
      simp [follower, hrole]
    rw [if_pos ⟨by simp [here, hrole, hindex], hnew⟩, if_pos hunits, if_neg (by simp [hlead])]
  · refine answers_leaves (fun s => show execModuleEpochReport m n s = _ from rfl) ?_
    intro d hpre
    refine under_name fun named shown => ?_
    obtain ⟨hrole, hx, hopen, hother, hin, hfirst, hall, htwin⟩ := hpre
    obtain ⟨hlisted, hxnum⟩ := epochOf_mem hx
    have hxin : x ∈ openEpochs d := by rw [hopen]; exact List.mem_cons_self
    have hxopen : x.complete = false := by simpa using (List.mem_filter.1 hxin).2
    have hhere : here d = d.pad.index := by simp [here, hrole]
    obtain ⟨hmem, hstalls, hcomplete, hepoch, hcmds, htells⟩ := lastReport_completes (m := m) (n := n) ⟨x, hlisted, hxopen⟩
      (fun z hz hzopen => by
        have hzin : z ∈ openEpochs d := List.mem_filter.2 ⟨hz, by simp [hzopen]⟩
        rw [hopen, List.mem_singleton] at hzin
        subst hzin
        exact ⟨hxnum, hall⟩) htwin
    refine shown ⟨completeEpochs 16 (reportEpoch d m n), ?_, fun g hl => ?_⟩
    · rw [hx]
      dsimp only
      rw [if_neg (by simp [hhere, hother]), if_neg (by simp [follower, hrole]),
        if_pos ⟨hrole, hother, by simpa using hin, by simpa using hfirst, hxopen⟩]
    · refine under_name fun named shown => ?_
      obtain ⟨gmem, gstalls, gcomplete, gepoch, gcmds⟩ := completed_leaves hmem hstalls hcomplete hepoch hcmds hl
      exact shown ⟨gmem, gstalls, gcomplete, gepoch, gcmds, fun k hk hne => (htells hrole k hk hne).mono (.refl d) hl.grows⟩
  · refine answers_leaves (fun s => show execModuleEpochReport m n s = _ from rfl) ?_
    intro d hpre
    refine under_name fun named shown => ?_
    obtain ⟨rfl, hfollows, hx, hnew, hunits⟩ := hpre
    obtain ⟨-, hxnum⟩ := epochOf_mem hx
    have hput := epochOf_putEpoch (x := { x with moduleDone := true }) (y := x) (d := d) (by rw [hxnum]; exact hx)
    have hsends := sends_sendMsg (putEpoch d { x with moduleDone := true }) 0 (.epochReport n)
    have htells := sendMsg_tells (putEpoch d { x with moduleDone := true }) 0 (.epochReport n)
    refine shown ⟨sendMsg (putEpoch d { x with moduleDone := true }) 0 (.epochReport n), ?_, fun g hl => ?_⟩
    · rw [hx]
      dsimp only
      rw [if_pos ⟨rfl, hnew⟩, if_pos hunits, if_pos (show follower (putEpoch d { x with moduleDone := true }) = true from hfollows)]
    · generalize sendMsg (putEpoch d { x with moduleDone := true }) 0 (.epochReport n) = t at *
      have hg := hl.frame
      refine ⟨hl.spares (SparesMachine.trans (e := putEpoch d { x with moduleDone := true }) ⟨rfl, rfl, rfl, rfl, rfl⟩
        hsends.signals.concludes.spares), ?_, ?_, htells.mono (grows_putEpoch ..) hl.grows⟩
      · rw [← hxnum]
        refine (epochOf_congr ?_ _).trans hput
        rw [hg, hsends]
      · rw [hg, hsends]
        rfl
  · refine answers_leaves (fun s => show execEpochRetire n elsewhere s = _ from rfl) ?_
    intro d hpre
    refine under_name fun named shown => ?_
    obtain ⟨hepochs, rfl, hlast, hdone, hfree, helse⟩ := hpre
    have hunused : (elsewhere.any fun m => m != here d && countsFor d x.num m) = false :=
      List.any_eq_false.2 fun m hm => by
        rcases helse m hm with rfl | h
        · simp
        · simp [h]
    refine shown ⟨tellAll (freeRetired ((x.set.live.map (·.1)).foldl dropBank (setPad d { d.pad with epochs := rest })))
      (.epochRetired x.num), ?_, fun g hl => epochRetire_spec hl⟩
    rw [hepochs]
    dsimp only
    rw [if_neg (by simp [hlast, hdone, hfree, hunused])]
  · refine answers_onDev (fun s => show execEpochSlow n unit s = _ from rfl) ?_
    intro d hpre
    refine under_name fun named shown => ?_
    obtain ⟨hx, hopen, hnew, hlead⟩ := hpre
    obtain ⟨-, hxnum⟩ := epochOf_mem hx
    have hput := epochOf_putEpoch (x := { x with slow := true }) (y := x) (d := d) (by rw [hxnum]; exact hx)
    refine shown ⟨_, by rw [hx]; exact if_neg (by simp [hopen, hnew, hlead]), ?_⟩
    have hsignals (a b : Nat) := signals_raiseEvent (putEpoch d { x with slow := true }) 0 6 0x37 a b
    refine (?_ : ∀ e, Signals (putEpoch d { x with slow := true }) e → SparesMachine d { e with draws := e.draws + 1 } ∧
      epochOf { e with draws := e.draws + 1 } n = some { x with slow := true } ∧
      { e with draws := e.draws + 1 }.pad.complete = d.pad.complete) _ (hsignals _ _)
    intro e he
    unfold Signals at he
    refine ⟨?_, ?_, ?_⟩
    · rw [he]
      exact ⟨rfl, rfl, rfl, rfl, rfl⟩
    · rw [← hxnum]
      refine (epochOf_congr ?_ _).trans hput
      rw [he]
    · rw [he]
      rfl

end Sys2Proof.Machine
end


section
/-! Lockstep pairs and the management network (O51). -/

namespace Sys2Proof.Machine

open Sys2Proof

/-! ### Datagrams (R546, R547) -/

theorem sendDatagram_eq (d : Dev) (kind : Nat) (records : List (List Byte)) : sendDatagram d kind records =
    { d with
      ctr := (bump d 0x20060).ctr, out := d.out ++ [datagramOf d kind records]
      health := { d.health with reportSeq := d.health.reportSeq + 1 } } := rfl

theorem ctrOf_sendDatagram (d : Dev) (kind : Nat) (records : List (List Byte)) (o : Nat) :
    ctrOf (sendDatagram d kind records) o = if o = 0x20060 then satAdd (ctrOf d o) 1 else ctrOf d o :=
  (congrArg (mget 0 · o) (congrArg Dev.ctr (sendDatagram_eq d kind records))).trans (ctrOf_bump d 0x20060 o)

/-- What a datagram of the module says rests on neither counters nor what is on its way. -/
theorem datagramOf_signals {d e : Dev} (h : Signals d e) (kind : Nat) (records : List (List Byte)) :
    datagramOf e kind records = datagramOf d kind records := by
  unfold Signals at h
  rw [h]
  rfl

theorem datagramOf_installBundle (d : Dev) (b : List Byte) (kind : Nat) (records : List (List Byte)) :
    datagramOf (installBundle d b) kind records = datagramOf d kind records := rfl

/-- A report of the module before it resets: an event report where events wait, a heartbeat otherwise. -/
theorem finalReport_eq {d : Dev} (hup : mgmtUp d = true) (hon : d.health.mgmtEnable = true) :
    (finalReport d).health.reportSeq = d.health.reportSeq + 1 ∧
      (finalReport d).out = d.out ++ [if d.health.sendQueue = [] then datagramOf d 0 [summaryBytes d]
        else datagramOf d 1 (eventRecords d.health.sendOverflow (d.health.sendQueue.take 4))] := by
  unfold finalReport
  rw [if_neg (by simp [hup, hon])]
  split
  · exact ⟨rfl, rfl⟩
  · exact ⟨rfl, rfl⟩

theorem finalReport_loft (d : Dev) : (finalReport d).mem.loft = d.mem.loft := by
  unfold finalReport
  split
  · rfl
  · split <;> rfl

/-! ### A pushed bundle (R550, R551) -/

/-- The module that holds no fragments, with the bundle installed where it is good. -/
def pushJudged (d : Dev) (b : List Byte) : Dev :=
  if bundleResult d b = none then installBundle (setHealth d { d.health with pushTotal := 0, pushBytes := [] }) b
  else setHealth d { d.health with pushTotal := 0, pushBytes := [] }

theorem pushComplete_eq (d : Dev) (b : List Byte) : ∃ t, Signals (pushJudged d b) t ∧ pushComplete d b =
    sendDatagram t 2 [toLe 4 (vVersion b) ++ toLe 1 ((bundleResult d b).getD 0) ++ List.replicate 27 0] :=
  ⟨_, show Signals (pushJudged d b) _ from
    takeBundle_signals (d := setHealth d { d.health with pushTotal := 0, pushBytes := [] }) (r := bundleResult d b) rfl 1, rfl⟩

theorem pushJudged_keeps (d : Dev) (b : List Byte) : (pushJudged d b).stalls = d.stalls ∧
    (pushJudged d b).health.pushTotal = 0 ∧ (pushJudged d b).health.pushBytes = [] ∧
    ∀ kind records, datagramOf (pushJudged d b) kind records = datagramOf d kind records := by
  unfold pushJudged
  split
  · exact ⟨rfl, rfl, rfl, fun _ _ => rfl⟩
  · exact ⟨rfl, rfl, rfl, fun _ _ => rfl⟩

/-- A whole bundle is verified and its result is reported. -/
theorem pushComplete_reports (d : Dev) (b : List Byte) :
    (pushComplete d b).stalls = d.stalls ∧ (pushComplete d b).health.pushTotal = 0 ∧ (pushComplete d b).health.pushBytes = [] ∧
      datagramOf d 2 [toLe 4 (vVersion b) ++ toLe 1 ((bundleResult d b).getD 0) ++ List.replicate 27 0] ∈ (pushComplete d b).out := by
  refine under_name fun named shown => ?_
  obtain ⟨t, hsig, heq⟩ := pushComplete_eq d b
  obtain ⟨hstalls, htotal, hbytes, hdata⟩ := pushJudged_keeps d b
  refine shown ?_
  rw [heq, ← hdata, ← datagramOf_signals hsig, sendDatagram_eq]
  unfold Signals at hsig
  refine ⟨?_, ?_, ?_, List.mem_append_right _ (List.mem_singleton_self _)⟩
  · rw [hsig]
    exact hstalls
  · rw [hsig]
    exact htotal
  · rw [hsig]
    exact hbytes

/-- What a whole bundle changes is what its verdict says. -/
theorem pushComplete_takes (d : Dev) (b : List Byte) :
    (pushComplete d b).mem = (pushJudged d b).mem ∧ (pushComplete d b).banks = (pushJudged d b).banks ∧
      (pushComplete d b).health.bundle = (pushJudged d b).health.bundle ∧
      (pushComplete d b).health.vetVersion = (pushJudged d b).health.vetVersion := by
  obtain ⟨t, hsig, heq⟩ := pushComplete_eq d b
  rw [heq, sendDatagram_eq]
  unfold Signals at hsig
  rw [hsig]
  exact ⟨rfl, rfl, rfl, rfl⟩

theorem pushJudged_good {d : Dev} {b : List Byte} (h : bundleResult d b = none) :
    WritesRecords d (pushJudged d b) ∧ (pushJudged d b).health.bundle = b ∧ (pushJudged d b).health.vetVersion = vVersion b ∧
      ∀ k, (bankOf (pushJudged d b) k).probes = 0 := by
  unfold pushJudged
  rw [if_pos h]
  exact ⟨(writeRecords_spec d).1.congr rfl rfl, rfl, rfl, fun k => probes_installBundle _ b k⟩

theorem pushJudged_bad {d : Dev} {b : List Byte} (h : bundleResult d b ≠ none) :
    (pushJudged d b).mem = d.mem ∧ (pushJudged d b).health.bundle = d.health.bundle ∧
      (pushJudged d b).health.vetVersion = d.health.vetVersion ∧ (pushJudged d b).banks = d.banks := by
  unfold pushJudged
  rw [if_neg h]
  exact ⟨rfl, rfl, rfl, rfl⟩

/-! ### Commands that were lost with their pair (R536) -/

/-- What stands while the commands that were lost end. -/
structure Withdraws (d e : Dev) : Prop where
  mem : e.mem = d.mem
  stalls : e.stalls = d.stalls
  twin : e.pad.twinOut = d.pad.twinOut
  down : e.health.commandDown = d.health.commandDown
  lost : e.health.lost = d.health.lost
  cmds : ∀ c ∈ e.host.cmds, c ∈ d.host.cmds

theorem Withdraws.refl (d : Dev) : Withdraws d d := ⟨rfl, rfl, rfl, rfl, rfl, fun _ h => h⟩

theorem Withdraws.trans {d e f : Dev} (h : Withdraws d e) (g : Withdraws e f) : Withdraws d f :=
  ⟨g.mem.trans h.mem, g.stalls.trans h.stalls, g.twin.trans h.twin, g.down.trans h.down, g.lost.trans h.lost,
    fun c hc => h.cmds c (g.cmds c hc)⟩

theorem Finishes.withdraws {d e : Dev} (h : Finishes d e) (hc : Concludes d e) : Withdraws d e := by
  unfold Concludes at hc
  exact ⟨h.mem, h.stalls, h.twin, by rw [hc], by rw [hc], h.cmds⟩

theorem withdraws_setFeed (d : Dev) (f : Feed) : Withdraws d (setFeed d f) := ⟨rfl, rfl, rfl, rfl, rfl, fun _ h => h⟩

theorem withdraws_tellAll (d : Dev) (x : Message) : Withdraws d (tellAll d x) :=
  (finishes_tellAll d x).withdraws (concludes_tellAll d x)

theorem withdraws_finish {d : Dev} (htwin : d.pad.twinOut = []) (c : Cmd) (e : Ends) : Withdraws d (finish d c e) :=
  (finishes_finish htwin c e).1.withdraws (concludes_finish d c e)

theorem withdraws_failRecord (d : Dev) (s : Stage) : Withdraws d (failRecord d s) := by
  unfold failRecord
  split
  · exact .refl d
  · dsimp only
    split
    · exact withdraws_setFeed ..
    · split
      · split <;> exact withdraws_setFeed ..
      · exact (withdraws_setFeed ..).trans (withdraws_tellAll ..)

/-- A stage that is given up leaves the queue. -/
theorem withdraws_closeStage {d : Dev} (htwin : d.pad.twinOut = []) (s : Stage) : Withdraws d (closeStage d s 0x0C) := by
  have hleft : Withdraws d (unqueued (if 0x0C = 0 ∨ s.started = false then d else abandonBanks d) s) := by
    split <;> exact ⟨rfl, rfl, rfl, rfl, rfl, fun _ h => h⟩
  have hrecord (e : Dev) : Withdraws e (recordClosed s 0x0C e) := by
    unfold recordClosed
    split
    · exact withdraws_failRecord e s
    · exact .refl e
  have hadapter (e : Dev) : Withdraws e (adapterClosed s 0x0C e) := by
    unfold adapterClosed
    split
    · exact .refl e
    · exact .refl e
  have htold (e : Dev) : Withdraws e (verdictTold s 0x0C e) := by
    unfold verdictTold
    split
    · exact withdraws_tellAll ..
    · exact .refl e
  have hcommand (e : Dev) (h : e.pad.twinOut = []) : Withdraws e (commandClosed s 0x0C e) := by
    unfold commandClosed
    split
    · exact withdraws_finish h _ _
    · exact .refl e
  rw [closeStage_eq]
  have hall := hleft.trans ((hrecord _).trans ((hadapter _).trans (htold _)))
  exact hall.trans (hcommand _ (hall.twin.trans htwin))

theorem endLost_ends {d : Dev} (htwin : d.pad.twinOut = []) (cid : Nat) :
    Withdraws d (endLost d cid) ∧ ∀ x ∈ (endLost d cid).host.cmds, x.cid ≠ cid := by
  unfold endLost
  split
  next hnone => exact ⟨.refl d, fun x hx h => by simpa [h] using List.find?_eq_none.1 hnone x hx⟩
  next c hc =>
    have hcid : c.cid = cid := by simpa using List.find?_some hc
    have hfinish := withdraws_finish htwin c (refusedEnds (dOpcode c.desc) 0x09)
    have hgone := (finishes_finish htwin c (refusedEnds (dOpcode c.desc) 0x09)).2
    rw [hcid] at hgone
    dsimp only
    generalize finish d c (refusedEnds (dOpcode c.desc) 0x09) = e at hfinish hgone
    split
    · have hclose := withdraws_closeStage (hfinish.twin.trans htwin) { (‹Stage› : Stage) with results := [(e.pad.index, 0x0C)] }
      exact ⟨hfinish.trans hclose, fun x hx => hgone x (hclose.cmds x hx)⟩
    · exact ⟨hfinish, hgone⟩

/-- Every command that was lost has ended. -/
theorem foldl_endLost (l : List Nat) : ∀ d : Dev, d.pad.twinOut = [] →
    Withdraws d (l.foldl endLost d) ∧ ∀ cid ∈ l, ∀ x ∈ (l.foldl endLost d).host.cmds, x.cid ≠ cid := by
  induction l with
  | nil => exact fun d _ => ⟨.refl d, fun _ h => absurd h List.not_mem_nil⟩
  | cons a l ih =>
    intro d htwin
    obtain ⟨hone, hgone⟩ := endLost_ends htwin a
    obtain ⟨hrest, hothers⟩ := ih (endLost d a) (hone.twin.trans htwin)
    refine ⟨hone.trans hrest, fun cid hcid x hx => ?_⟩
    rcases List.mem_cons.1 hcid with rfl | hcid
    · exact hgone x (hrest.cmds x hx)
    · exact hothers cid hcid x hx

/-- The module when the command pair runs again, before the commands that were lost end. -/
def commandUp (d : Dev) : Dev := raiseEvent (setHealth d { d.health with commandDown := false }) 0xFFFF 4 0x19 0 1

/-- The module when the command pair runs again. -/
def commandRestarts (d : Dev) : Dev :=
  (commandUp d).health.lost.foldl endLost (setHealth (commandUp d) { (commandUp d).health with lost := [] })

theorem commandRestarts_spec {d : Dev} (htwin : d.pad.twinOut = []) :
    (commandRestarts d).stalls = d.stalls ∧ (commandRestarts d).mem = d.mem ∧ (commandRestarts d).health.commandDown = false ∧
      (commandRestarts d).health.lost = [] ∧ ∀ cid ∈ d.health.lost, cmdOf (commandRestarts d) cid = none := by
  have hsig := signals_raiseEvent (setHealth d { d.health with commandDown := false }) 0xFFFF 4 0x19 0 1
  unfold commandRestarts commandUp
  generalize raiseEvent (setHealth d { d.health with commandDown := false }) 0xFFFF 4 0x19 0 1 = g at hsig
  refine under_name fun named shown => ?_
  obtain ⟨hstalls, hmem, htwing, hdown, hlost⟩ : g.stalls = d.stalls ∧ g.mem = d.mem ∧ g.pad.twinOut = d.pad.twinOut ∧
      g.health.commandDown = false ∧ g.health.lost = d.health.lost := by
    unfold Signals at hsig
    rw [hsig]
    exact ⟨rfl, rfl, rfl, rfl, rfl⟩
  obtain ⟨hw, hgone⟩ := foldl_endLost g.health.lost (setHealth g { g.health with lost := [] }) (htwing.trans htwin)
  refine shown ⟨hw.stalls.trans hstalls, hw.mem.trans hmem, hw.down.trans hdown, hw.lost, fun cid hcid => ?_⟩
  exact List.find?_eq_none.2 fun x hx h => hgone cid (hlost ▸ hcid) x hx (by simpa using h)

theorem mirrored_draws (d : Dev) : { mirrorState d with draws := (mirrorState d).draws + 1 } = { mirrorState d with draws := d.draws + 1 } := by
  rw [(reports_mirrorState d).machine.2.2.2.2.2.2.2.2.2.2]

theorem takeFragment_eq {d : Dev} {bs : List Byte} {fresh : Bool} {m : Map (Option Byte)}
    (hm : m = mputs none (if fresh = true ∨ d.health.pushTotal ≠ fieldAt bs 8 4 then [] else d.health.pushBytes)
      (fieldAt bs 12 4) ((bs.drop 32).map some)) : takeFragment d bs fresh =
    if m.length = fieldAt bs 8 4 then pushComplete d (m.map fun p => p.2.getD 0)
    else setHealth d { d.health with pushTotal := fieldAt bs 8 4, pushBytes := m } := by
  rw [hm]
  rfl

/-- Settles O51. -/
theorem derierPairsAndManagementPort : Obligations.DerierPairsAndManagementPort := by
  refine ⟨?_, fun pair => ?_, fun pair recent => ?_, fun pair => ?_, ?_, ?_, fun x xs => ?_, fun port bs fresh => ?_,
    fun port bs fresh m => ?_, fun port bs fresh m whole => ?_, fun f => ?_, fun f => ?_, fun f c hc => ?_⟩
  · refine answers_onDev (fun s => show execDerierMismatch 0 0 s = _ from rfl) fun d ⟨hcommand, hhealth⟩ => ?_
    refine ⟨_, (if_neg (by simp [pairDown, hcommand])).trans ((if_neg ?_).trans (if_pos rfl)), rfl,
      (ctrOf_bump d 0x20058 0x20058).trans (if_pos rfl)⟩
    simp [pairDown, hhealth]
  · refine answers_onDev (fun s => show execDerierMismatch pair 0 s = _ from rfl) fun d ⟨hpair, hcommand, hhealth⟩ => ?_
    refine ⟨_, (if_neg (by simp [pairDown, hpair, hhealth])).trans ((if_neg ?_).trans (if_neg hpair)), rfl,
      (ctrOf_bump d 0x20058 0x20058).trans (if_pos rfl)⟩
    simp [pairDown, hcommand, hhealth]
  · refine answers_onDev (fun s => show execDerierMismatch pair recent s = _ from rfl) fun d ⟨hup, hsecond⟩ => ?_
    refine ⟨moduleReset (finalReport (bump d 0x20058)) (some 5), (if_neg (by simp [hup])).trans (if_pos hsecond), ?_,
      fun hport hon => finalReport_eq (d := bump d 0x20058) hport hon⟩
    refine under_name fun named shown => ?_
    obtain ⟨hstate, hcmds, hrings, hdram, hloft, hctr, hpad, hcause, hstore⟩ :=
      moduleReset_resets (finalReport (bump d 0x20058)) (some 5)
    exact shown ⟨hstate, hcmds, hrings, hdram, hloft.trans (finalReport_loft _), hctr, hpad, hcause, hstore⟩
  · refine answers_leaves (fun s => show execDerierRestart pair s = _ from rfl) fun d ⟨htwin, hdown⟩ => ?_
    by_cases hpair : pair = 0
    · subst hpair
      refine under_name fun named shown => ?_
      obtain ⟨hstalls, hmem, hup, hlost, hgone⟩ := commandRestarts_spec htwin
      refine shown ⟨commandRestarts d, (if_neg (by simpa [pairDown] using hdown)).trans (if_pos rfl), fun g hl => ?_⟩
      refine ⟨hl.stalls.trans hstalls, hl.mem.trans hmem, fun _ => ?_, fun h => absurd rfl h⟩
      rw [hl.health]
      exact ⟨hup, hlost, fun cid hcid => (hl.cmdOf cid).trans (hgone cid hcid)⟩
    · have hsig := signals_raiseEvent (setHealth d { d.health with healthDown := false }) 0xFFFF 4 0x19 1 1
      refine ⟨_, (if_neg (by simpa [pairDown, hpair] using hdown)).trans (if_neg hpair), fun g hl => ?_⟩
      generalize raiseEvent (setHealth d { d.health with healthDown := false }) 0xFFFF 4 0x19 1 1 = e at hsig hl
      refine ⟨hl.stalls.trans hsig.reports.stalls, hl.mem.trans hsig.reports.mem, fun h => absurd h hpair, fun _ => ?_⟩
      unfold Signals at hsig
      rw [hl.health, hl.host, hsig]
      exact ⟨rfl, rfl⟩
  · refine answers_onDev (fun s => show execHeartbeat s = _ from rfl) fun d hreport => ?_
    exact ⟨_, if_pos hreport, ⟨rfl, rfl, rfl, rfl, rfl⟩, rfl, rfl, ctrOf_sendDatagram d 0 [summaryBytes d]⟩
  · refine answers_onDev (fun s => show execEventReport s = _ from rfl) fun d hreport => ?_
    exact ⟨_, if_pos hreport, ⟨rfl, rfl, rfl, rfl, rfl⟩, rfl, rfl,
      ctrOf_sendDatagram d 1 (eventRecords d.health.sendOverflow (d.health.sendQueue.take 4))⟩
  · refine answers_onDev (fun s => show execMgmtEventDrop s = _ from rfl) fun d hqueue => ?_
    exact ⟨bump (setHealth d { d.health with sendQueue := xs, sendOverflow := true }) 0x20068, by rw [hqueue], rfl,
      ctrOf_bump d 0x20068⟩
  · refine answers_always (fun s => show exec (.pushFragment port bs fresh) s = always (fun d =>
        mirrorState (if isPush d port bs then takeFragment d bs fresh else d)) s from rfl) fun d hnot => ?_
    rw [if_neg (by simp only [isPush, Bool.and_eq_true, beq_iff_eq]; rintro ⟨⟨hr, hp⟩, hf⟩; simp_all)]
    exact mirrored_draws d
  · refine answers_always (fun s => show exec (.pushFragment port bs fresh) s = always (fun d =>
        mirrorState (if isPush d port bs then takeFragment d bs fresh else d)) s from rfl) fun d ⟨hpush, hm, hlen⟩ => ?_
    rw [if_pos hpush, takeFragment_eq hm, if_neg hlen]
    exact mirrored_draws _
  · refine answers_always (fun s => show exec (.pushFragment port bs fresh) s = always (fun d =>
        mirrorState (if isPush d port bs then takeFragment d bs fresh else d)) s from rfl) fun d ⟨hpush, hm, hlen, hwhole⟩ => ?_
    rw [if_pos hpush, takeFragment_eq hm, if_pos hlen, ← hwhole]
    have hl := leaves_mirrorState (pushComplete d whole)
    refine under_name fun named shown => ?_
    obtain ⟨hstalls, htotal, hbytes, hout⟩ := pushComplete_reports d whole
    obtain ⟨hmem, hbanks, hbundle, hversion⟩ := pushComplete_takes d whole
    generalize { mirrorState (pushComplete d whole) with draws := (mirrorState (pushComplete d whole)).draws + 1 } = e at hl shown
    refine shown ?_
    rw [hl.stalls, hl.health, hl.banks, hstalls, htotal, hbytes, hbanks, hbundle, hversion]
    refine ⟨rfl, rfl, rfl, hl.grows.out _ hout, fun hgood => ?_, fun hbad => ?_⟩
    · refine under_name fun named shown => ?_
      obtain ⟨hwrites, hnew, hvers, hprobes⟩ := pushJudged_good hgood
      exact shown ⟨hwrites.congr rfl (hl.mem.trans hmem), hnew, hvers, fun k => (congrArg Bank.probes (bankOf_congr (hl.banks.trans hbanks) k)).trans (hprobes k)⟩
    · refine under_name fun named shown => ?_
      obtain ⟨hkept, hold, hvers, hbanks'⟩ := pushJudged_bad hbad
      exact shown ⟨hl.mem.trans (hmem.trans hkept), hold, hvers, hbanks'⟩
  · refine answers_always (fun s => show execArpRequest f s = _ from rfl) fun d ⟨hup, haddr, htarget⟩ => ?_
    rw [if_pos (by simpa [answersFrame, hup, htarget] using haddr)]
    rfl
  · refine answers_always (fun s => show execIcmpEcho f s = _ from rfl) fun d ⟨hup, haddr, htarget⟩ => ?_
    rw [if_pos (by simpa [answersFrame, hup, htarget] using haddr)]
    rfl
  · have hnot (d : Dev) (h : mgmtUp d = false ∨ d.health.addr = 0 ∨ f.target ≠ d.health.addr) : ¬ answersFrame d f = true := by
      simp only [answersFrame, Bool.and_eq_true, bne_iff_ne, beq_iff_eq]
      intro hpre
      refine under_name fun named shown => ?_
      obtain ⟨⟨hup, haddr⟩, htarget⟩ := hpre
      refine shown ?_
      rcases h with h | h | h
      · exact absurd hup (by simp [h])
      · exact haddr h
      · exact h htarget
    rcases List.mem_cons.1 hc with rfl | hc
    · refine answers_always (fun s => show execArpRequest f s = _ from rfl) fun d hd => ?_
      rw [if_neg (hnot d hd)]
      rfl
    · obtain rfl := List.mem_singleton.1 hc
      refine answers_always (fun s => show execIcmpEcho f s = _ from rfl) fun d hd => ?_
      rw [if_neg (hnot d hd)]
      rfl

end Sys2Proof.Machine
end
